-- ==== Sys2Proof/Word.lean ====
section
/-! DEFINITION. The word types of the Ralern model and their plainest arithmetic. Bit vectors hold only what the
manual treats as bits (register words, payload words, order words, addresses being computed); counts, times, unit
numbers and offsets are natural numbers. Multi-byte values are little-endian throughout (R9). -/
namespace Sys2Proof

/-- One byte. -/
abbrev Byte := BitVec 8
/-- A 32-bit word: a payload word, a Trestle register. -/
abbrev W32 := BitVec 32
/-- A 64-bit word: an order, a status word of the Ledger. -/
abbrev W64 := BitVec 64
/-- The 64 bytes of one Chest row, memory line or stream flit, byte 0 in bits [7:0] (R9, R150). -/
abbrev Row := BitVec 512
/-- A string of bytes in address or arrival order. -/
abbrev Bytes := List Byte

/-- Cycles of the 2.8 GHz main clock in one microsecond (R8). -/
abbrev usec : Nat := 2800
/-- Cycles of the main clock in one millisecond (R8). -/
abbrev msec : Nat := 2800000
/-- Cycles of the main clock in one second (R8). -/
abbrev second : Nat := 2800000000
/-- Cycles of the main clock in one AON tick of 10 ns (R403). -/
abbrev aonTick : Nat := 28

end Sys2Proof
end

