-- ==== Sys2Proof/Syntax.lean ====
section
/-! DEFINITION. The commands the block takes, one constructor for each row of spec/opcode_table.json, and the data a
command carries. Each command is one whole, indivisible step (95_what_each_step_holds.md). What the part's own
documents leave to the physical world (a sensor reading, whether a check code found an error, a pin, a message from a
peer) is an operand of the step in which it appears; everything else comes from State. -/
namespace Sys2Proof

/-- What a check code found in the word an access used (R178, R181, R237). -/
inductive Ecc where
  | clean          -- no error
  | corrected      -- a single error, corrected
  | uncorrectable  -- an error the code cannot correct; of an LPDDR5X link, on the retry too (R239)
  | retried        -- of an LPDDR5X access: the link code could not correct it, and the retry was good (R239); elsewhere no error
  | reported       -- of a memory access: the device's own on-die ECC reports an error through its registers (R236, R238); elsewhere none
  deriving DecidableEq, Repr, Inhabited

/-- An error that a Chest array access meets in the cycle of its grant (R178): in data word `word` of `row`, or in the
row's stamp and held bit when `word` is 16. -/
structure ErrMark where
  row  : Nat
  word : Nat
  ecc  : Ecc
  deriving DecidableEq, Repr, Inhabited

/-- The requester classes of R436. -/
inductive LClass where
  | mgmt | host | peer | fw
  deriving DecidableEq, Repr, Inhabited

/-- Where a Ledger request came from (R443), which says where its answer goes. -/
inductive ReqSrc where
  | udp (addr port : Nat)   -- 10BASE-T1S
  | elveel (sdev tid : Nat) -- a packet from a peer
  | ring (r : Nat)          -- a Porter ring
  | firmware                -- Warden or Clerk firmware
  deriving DecidableEq, Repr, Inhabited

/-- A Ledger request's source, its class, and the sequence number its answer echoes (R436, R441). -/
structure Requester where
  cls : LClass
  src : ReqSrc
  seq : Nat
  deriving DecidableEq, Repr, Inhabited

/-- The pins and the outside devices at a rise of AON_PWROK: whether VAON is valid (R405), the straps latched
(R489), the flash found (R377), the reads of it that fail (R384, R385), and the SRAM PUF's readout (R393). -/
structure AonEnv where
  vaonValid   : Bool
  traySlot    : Nat
  testMode    : Bool
  flashUsable : Bool
  flashOctal  : Bool
  flashFail   : Nat := 0     -- by boot source k: bit k, its header does not read; 3 + k, its body; 6 + k, a component's copy is damaged
  pufReading  : Nat
  deriving DecidableEq, Repr, Inhabited

/-- A physical block position: die, column, physical row (R11). -/
structure PhysPos where
  die : Nat
  col : Nat
  row : Nat
  deriving DecidableEq, Repr, Inhabited

/-- What the hardware answers during bring-up (R406): the PLL lock, the release of the dies, the positions and switch
points that fail the start-up test (R17), and the training of both tiers (R239, R240). -/
structure BringEnv where
  pllLock       : Bool
  diesOk        : Bool
  failing       : List PhysPos
  switchFailing : List PhysPos
  hbmFromRecord : Bool
  lpOk          : Bool
  lpPackage     : Nat      -- the missing package, 0xFF for a mismatch (R375)
  lpGiB         : Nat      -- installed capacity: 256, 512 or 1,024 GiB
  lpFromRecord  : Bool
  deriving DecidableEq, Repr, Inhabited

/-- The sensor groups of R419. -/
inductive SensorGroup where
  | block | hotspot | hbm | optical
  deriving DecidableEq, Repr, Inhabited

/-- What the AVSBus status of a rail reports (R418). -/
inductive AvsStatus where
  | ok
  | warnCurrent
  | warnTemp
  | fault (code : Nat)   -- a status fault
  | readBackFailed       -- a failed read-back
  deriving DecidableEq, Repr, Inhabited

/-- What an AVSBus slave answers as its stage rises (R417, R418): whether it reports version 1.3, and its status. -/
structure AvsAnswer where
  versionOk : Bool
  status    : AvsStatus
  deriving DecidableEq, Repr, Inhabited

/-- What an engine's command works on (a ring, a block, a slot), and whether the engine meets a parity error instead (R454). -/
structure EngineTurn where
  at_    : Nat
  parity : Bool := false
  deriving DecidableEq, Repr, Inhabited

/-- One wire flit as the receiver has it after FEC decoding (R254 to R256): its payload field, its link header, what the code found, and
the number of symbols that it corrected. -/
structure WireFlit where
  payload : Bytes     -- 256 bytes, eight sectors
  header  : Nat       -- 72 bits
  fec     : Ecc
  symbols : Nat
  deriving DecidableEq, Repr, Inhabited

/-- The outcome of a targeted test (R459, R460): passed, or failed with the test that decided and its halt code. -/
inductive TestResult where
  | pass
  | fail (testId halt : Nat)
  | disagree (a b : Nat)     -- it failed, and the two Clerks that decide on the unit do not agree (R473)
  deriving DecidableEq, Repr, Inhabited

/-- A configuration word of R466, by where it lies. -/
inductive ScrubWord where
  | frontShelf (b word : Nat)
  | backShelf (b word : Nat)
  | switchMap (b : Nat)
  | gridMap (col : Nat)
  | route (dev : Nat)
  | board (lot : Nat)
  deriving DecidableEq, Repr, Inhabited

/-- The commands: one constructor for each row of the table, in the table's order. Each docstring is the row's
mnemonic, its rule and what it says. -/
inductive Instr where
  /-- `AON_PWROK_RISE` (R405). A rise of AON_PWROK with VAON valid takes the device from D-OFF to D-AON and starts the always-on domain
  and its mask ROM. -/
  | aonPwrokRise (env : AonEnv)
  /-- `PUF_RETRY` (R393). After the PUF array has been off for 1 ms, the ROM reads it again; after a third failed readout it enters the
  safe state with PUF_FAIL. -/
  | pufRetry (reading : Nat)
  /-- `AON_PWROK_FALL` (R489). A fall of AON_PWROK is a power-on reset: the always-on domain stops within 1 µs, outputs go to safe levels
  and all state except the flash is lost. -/
  | aonPwrokFall
  /-- `RESET_L_FALL` (R490). RESET_L low lowers the rails in reverse order and resets the always-on domain except its REFAON PLL and RWS
  cells. -/
  | resetLFall
  /-- `RESET_L_RISE` (R488). A rise of RESET_L latches the straps, switches the PUF off for 1 ms, and restarts the ROM once the rails are
  down. -/
  | resetLRise (traySlot : Nat) (testMode : Bool)
  /-- `BRING_UP` (R406). Once a firmware image has started, the Warden brings the device from D-AON to D-READY in six fixed steps. -/
  | bringUp (env : BringEnv)
  /-- `POWER_STAGE_RAISE` (R487). 0.2 ms after the previous stage's last power-good, the Warden programs the AVSBus targets of the next
  rail stage and raises its PWR_EN. -/
  | powerStageRaise (avs : AvsAnswer)
  /-- `PWR_PG_RISE` (R487). A power-good input rises for an enabled rail, completing that rail's part of its stage. -/
  | pwrPgRise (i : Nat)
  /-- `PWR_PG_FALL` (R487). A power-good input falls while its rail is enabled, which is a rail fault. -/
  | pwrPgFall (i : Nat)
  /-- `POWER_GOOD_TIMEOUT` (R487). A rail fails to assert PWR_PG within 1 ms of its enable, which is a rail fault. -/
  | powerGoodTimeout (i : Nat)
  /-- `POWER_STAGE_LOWER` (R487). When lowering the rails, the Warden drops a stage's enables and moves to the next stage after every
  PWR_PG of the stage falls or 1 ms passes. -/
  | powerStageLower
  /-- `MAIN_PLL_LOSS_OF_LOCK` (R492). The main PLL flags loss of lock when REFMAIN stops or leaves its frequency limit for 1 µs; in
  D-READY or D-RUN this is a rail fault. -/
  | mainPllLossOfLock
  /-- `THERMAL_TRIP` (R404). A sensor at 110 °C or more makes the hardware comparator drop every switched rail enable, drive THERMTRIP_L
  low, take the device to D-AON and log the trip. -/
  | thermalTrip (group : SensorGroup) (idx : Nat) (reading : Nat)
  /-- `DREQ_D_AON` (R406). A DREQ write of D-AON from MGMT, accepted only in D-READY with no port UP or after DRAINED, lowers the rails
  and resets the time counter. -/
  | dreqDAon (req : Requester)
  /-- `DREQ_D_READY` (R406). A DREQ write of D-READY from MGMT, accepted only in D-AON with firmware running, starts bring-up. -/
  | dreqDReady (req : Requester)
  /-- `SPARING_MAP_BUILD` (R19). From the test results and the sparing record, the Clerks build the logical-to-physical map in fixed order
  and write the record back if it changed. -/
  | sparingMapBuild
  /-- `GOVERNOR_TICK` (R414). At each AON tick, each VCORE rail governor raises or lowers WAKE_HINT, refills its bucket and admits queued
  wake requests by class. -/
  | governorTick
  /-- `BLOCK_REACHES_RUN` (R416). A woken block reaches RUN at the later of its island power-up time and 1 µs after its bank admission. -/
  | blockReachesRun (b : Nat)
  /-- `BLOCK_IDLE_ENTRY` (R408). After 64 consecutive quiet cycles, a block in RUN stops its clock and enters IDLE. -/
  | blockIdleEntry (b : Nat)
  /-- `MEMBER_CLOCK_START` (R408). The beat controller starts the clocks of every IDLE member 64 cycles before the scheduled beat start. -/
  | memberClockStart (lot : Nat)
  /-- `BLOCK_RETENTION_ENTRY` (R409). A block of a Lot with an EMPTY back shelf moves from IDLE to RET in a cyclic gap or after RETIDLE
  without elastic work. -/
  | blockRetentionEntry (b : Nat)
  /-- `SENSOR_SAMPLE` (R419). The sensor sequencer samples block, hotspot, HBM and optical-engine temperatures at their periods. -/
  | sensorSample (group : SensorGroup) (readings : List Nat)
  /-- `STRETCH_UPDATE` (R420). Every 100 µs the Warden raises or lowers each laid Lot's STRETCH, and each task Lot's issue gap, from
  temperature and power. -/
  | stretchUpdate
  /-- `AVS_POLL` (R417). The Warden reads each rail's current, temperature and AVSBus status at their periods. -/
  | avsPoll (rail : Nat) (ma : Nat) (temp : Nat) (status : AvsStatus)
  /-- `VOLTAGE_TRIM` (R418). At most once per 1 ms per rail, the Warden trims VCORE or VSRAM by 5 mV from the critical-path monitors,
  within ±25 mV of the record. -/
  | voltageTrim (rail : Nat) (up : Bool) (status : AvsStatus)
  /-- `FORECAST_COMPUTE` (R426). Every 10 ms the Warden computes power, flow and junction forecasts and the thermal model. -/
  | forecastCompute
  /-- `FORECAST` (R424). The Warden sends a FORECAST message to the plant every 100 ms, or early on a large change but never more than one
  per 10 ms. -/
  | forecast
  /-- `PLANT_STATUS` (R425). A PLANT_STATUS message from the plant is checked and its inlet, outlet, flow and state are taken. -/
  | plantStatus (src : Nat) (msg : Bytes)
  /-- `PLANT_LOST` (R427). After 1 s without a valid PLANT_STATUS, the Warden uses default inlet and flow and caps power at PCAPLOST. -/
  | plantLost
  /-- `PLANT_LIMITED` (R427). A LIMITED state, or flow below 90 % of the request for 2 s, lowers the power cap to the largest
  plant-limited value. -/
  | plantLimited
  /-- `PLANT_OK` (R427). After 2 s of OK state with sufficient flow, the Warden lifts the plant caps. -/
  | plantOk
  /-- `LASER_SAMPLE` (R479). Every 1 ms the Warden samples each laser input against its power threshold. -/
  | laserSample (powers : List Nat)
  /-- `LOT_FORM` (R30). Checks a Lot descriptor for fields, state and disjointness, writes it as FORMING, and wakes its blocks under the
  governor. -/
  | lotForm
  /-- `LOT_RELEASE` (R177). Starts the release of a Lot with no bound context, clearing every powered bank of its Chests. -/
  | lotRelease
  /-- `LOT_RELEASE_DONE` (R177). When every bank is cleared, the Lot leaves RELEASING and becomes FREE, and its blocks power-gate. -/
  | lotReleaseDone (lot : Nat)
  /-- `CTX_DEFINE` (R315). Checks and writes a context table entry and sets it DEFINED. -/
  | ctxDefine
  /-- `CTX_BIND` (R317). Places a DEFINED context in a seat of an ACTIVE Lot, assigns a command ring and sets the context BOUND. -/
  | ctxBind
  /-- `CTX_UNBIND` (R320). Empties the context's shelf, closes its queues, drops its translations, frees its ring and returns it to
  DEFINED. -/
  | ctxUnbind
  /-- `FAULT_ACK` (R340). After TEARDOWN_DONE, returns a FAULTED context to BOUND so that its ring runs again. -/
  | faultAck
  /-- `DRAIN` (R283). Sets the device draining, sends DRAIN notices, and refuses new requests while transit continues. -/
  | drain
  /-- `UNDRAIN` (R285). Increments the incarnation of a drained device and retrains its ports from phase 2 so that it rejoins. -/
  | undrain
  /-- `LOAD_SHELF` (R351). Asks the shelf loader to check and load a section image into the context's back shelf. -/
  | loadShelf (r : Nat)
  /-- `SHELF_LOAD_START` (R351). When the loader is free, it starts the next accepted load, checking the header and then streaming and
  checking the body. -/
  | shelfLoadStart
  /-- `SHELF_LOADED` (R355). Once the body checks pass and every woken block and bank is ready, BSTATE becomes LOADED and the preload
  transfers fire. -/
  | shelfLoaded
  /-- `PRELOAD_COMPLETE` (R355). When the last preload instance completes, BSTATE becomes READY and the load command completes with OK. -/
  | preloadComplete (lot : Nat)
  /-- `SWAP_SHELF` (R357). Requests a Lot-scope swap, which waits for a READY or retained back shelf. -/
  | swapShelf (r : Nat)
  /-- `SWAP_SHELF_PITCH_SCOPE` (R358). Requests a PITCH-scope swap of one Pitch subtree from a partial-update back shelf. -/
  | swapShelfPitchScope (r : Nat)
  /-- `SHELF_SWAP` (R357). In the swap turn, every block of the Lot (or of the Pitch subtree) exchanges its front and back shelves and its
  switch state. -/
  | shelfSwap (lot : Nat)
  /-- `DEMAND_SWAP` (R329). When the conditions hold, including the quantum, the Task Board swaps the shelves of two elastic contexts
  sharing a Lot. -/
  | demandSwap (lot : Nat)
  /-- `LAUNCH_LAID_RUN` (R322). Adds NBEATS to the Lot's beat credit, with a step value for the run. -/
  | launchLaidRun (r : Nat)
  /-- `LAUNCH_TILE_TASK` (R323). Submits a tile task of a kind to a target with a tag and arguments. -/
  | launchTileTask (r : Nat)
  /-- `TASK_PLACE` (R325). The launch takes the lowest free task slot and is placed on its target Stall or Pitch once that target is free. -/
  | taskPlace (ctx : Nat)
  /-- `TASK_START` (R326). When the placed block is at RUN, the task starts: queues reset, generators rewind, arguments enter ARGQ and the
  sequencer fetches at ENTRY. -/
  | taskStart (slot : Nat)
  /-- `BEAT_START` (R207). The beat controller starts the next beat when credit, readiness and beat length allow, counting late members
  and stretched cycles. -/
  | beatStart (lot : Nat)
  /-- `LAID_RUN_COMPLETE` (R322). A laid run completes when its credit is zero and every member has reported ready for the next beat. -/
  | laidRunComplete (lot : Nat)
  /-- `BEAT_TIMEOUT` (R209). A beat lasting longer than the send-stall timeout faults the context and names the lowest member not ready. -/
  | beatTimeout (lot : Nat)
  /-- `STEP_COMMIT` (R336). Submits a commit list for the context's page pool. -/
  | stepCommit (r : EngineTurn)
  /-- `STEP_COMMIT_PROCESS` (R337). The pool engine takes the commit and runs check, RELEASE, park, TAKE, REFILL, ADMIT and record in
  fixed order. -/
  | stepCommitProcess
  /-- `FENCE` (R321). Completes when every earlier command of its ring has completed. -/
  | fence (r : Nat)
  /-- `COPY` (R370). Copies LEN bytes between memory addresses, locally or over Elveel, stopping at the first reply other than OK. -/
  | copy (r : EngineTurn)
  /-- `MEM_ATOMIC` (R370). Issues one word atomic to a memory address and returns its old value. -/
  | memAtomic (r : Nat)
  /-- `COLL_START` (R297). Starts the collective that DIDX names, with the command's step value. -/
  | collStart (r : Nat)
  /-- `CYCLE_LOAD` (R331). Checks and copies a cyclic table into the Task Board for the Lot. -/
  | cycleLoad (r : Nat)
  /-- `CYCLE_START` (R332). Sets the Lot's frame origin T0 on the time counter. -/
  | cycleStart (r : Nat)
  /-- `QUEUE_RESET` (R202). Resets a receive queue: entries discarded, INC incremented, OPEN set if configured. -/
  | queueReset (r : Nat)
  /-- `LEDGER_READ` (R371). Reads a Ledger entry in band with the ring's requester class. -/
  | ledgerRead (r : Nat)
  /-- `LEDGER_WRITE` (R371). Writes a Ledger entry in band with the ring's requester class. -/
  | ledgerWrite (r : Nat)
  /-- `EVENT_MASK` (R374). Sets the ring's event suppression mask and returns the previous mask. -/
  | eventMask (r : Nat)
  /-- `NOP_COMMAND` (R368). A command that completes at once. -/
  | nopCommand (r : Nat)
  /-- `FRAME_START` (R332). A major frame of the Lot's cyclic table starts, and a newly loaded table replaces the old one there. -/
  | frameStart (lot : Nat)
  /-- `WINDOW_WAKE_LEAD` (R332). WAKE × 10 µs before a window, the Task Board asks the Warden to wake every block of the Lot below RUN. -/
  | windowWakeLead (lot : Nat)
  /-- `WINDOW_START` (R332). At a window start, the seat's shelf swaps to front or the window passes idle, and WAKE_LATE is raised if
  blocks are not at RUN. -/
  | windowStart (lot : Nat)
  /-- `WINDOW_END` (R335). At a window's scheduled end, commands of the context that occupy the Lot wait, and any overrun delays and
  debits the next window. -/
  | windowEnd (lot : Nat)
  /-- `TEARDOWN_DONE` (R339). After issued requests resolve and any commit completes, teardown ends and TEARDOWN_DONE is raised. -/
  | teardownDone (ctx : Nat)
  /-- `RING_WR` (R361). A host frame writes 1–8 command entries into consecutive slots of a ring. -/
  | ringWr (frame : Bytes)
  /-- `DOORBELL` (R364). A valid doorbell sets CTAIL so that the device fetches and processes the ring's new entries; an invalid one
  raises DOORBELL_BAD. -/
  | doorbell (frame : Bytes)
  /-- `EVT_ACK` (R365). The host acknowledges event records by advancing EHEAD. -/
  | evtAck (frame : Bytes)
  /-- `MWR` (R362). A host memory write to the job area or LPDDR5X, completed before any later frame acts. -/
  | mwr (frame : Bytes)
  /-- `MRD` (R362). A host memory read answered by an MRD_R frame with a status. -/
  | mrd (frame : Bytes)
  /-- `PORTER_LINK_UP` (R365). After Porter link-up, the device sends RING_STATE and resends every unacknowledged event record. -/
  | porterLinkUp
  /-- `PORTER_LINK_LOSS` (R360). When the link stays down for more than 10 ms, unacknowledged frames in both directions are lost. -/
  | porterLinkLoss
  /-- `GET_VERSION` (R399). An SPDM request answered with version 1.3. -/
  | getVersion (msg : Bytes)
  /-- `GET_CAPABILITIES` (R399). An SPDM request answered with the certificate, challenge and measurement capabilities. -/
  | getCapabilities (msg : Bytes)
  /-- `NEGOTIATE_ALGORITHMS` (R399). An SPDM request that selects ECDSA P-384 and SHA-384. -/
  | negotiateAlgorithms (msg : Bytes)
  /-- `GET_DIGESTS` (R399). An SPDM request for the digest of certificate slot 0. -/
  | getDigests (msg : Bytes)
  /-- `GET_CERTIFICATE` (R399). An SPDM request for the device certificate chain of slot 0. -/
  | getCertificate (msg : Bytes)
  /-- `CHALLENGE` (R399). An SPDM challenge answered with an identity ECDSA signature. -/
  | challenge (msg : Bytes)
  /-- `GET_MEASUREMENTS` (R400). An SPDM request for measurement blocks; block 0xF0 creates a fresh attestation report signed by both
  identity keys. -/
  | getMeasurements (msg : Bytes)
  /-- `LMS_TREE_BUILD` (R398). With 16,384 or fewer leaves left, the Warden builds and signs the next second-level tree in the free buffer. -/
  | lmsTreeBuild (readBackOk : Bool)
  /-- `REPORT_ALLOWANCE_REFILL` (R401). Once per second the report allowance gains one report, up to 64. -/
  | reportAllowanceRefill
  /-- `LAP_READ` (R442). A LAP READ frame is checked and answered with READ_R, or the kept response is resent for a duplicate. -/
  | lapRead (src : ReqSrc) (frame : Bytes)
  /-- `LAP_WRITE` (R442). A LAP WRITE frame is staged, and is checked and applied when its LAST frame arrives. -/
  | lapWrite (src : ReqSrc) (frame : Bytes)
  /-- `LAP_STAGING_TIMEOUT` (R442). Write staging idle for 10 s is discarded. -/
  | lapStagingTimeout (index : Nat) (sub : Nat)
  /-- `VIOLATION_READ` (R170). A read of a Chest's violation record returns it and re-arms the latch. -/
  | violationRead (req : Requester) (chest : Nat)
  /-- `OWNER_INSTALL` (R391). A CMD write that checks an owner certificate and writes it to flash for the next cold boot. -/
  | ownerInstall (req : Requester) (cert : Bytes)
  /-- `MINVER_INSTALL` (R392). A CMD write that checks a minimum-version record and writes it to flash. -/
  | minverInstall (req : Requester) (record : Bytes)
  /-- `RECOVERY_BEGIN` (R389). Opens a recovery for a slot and erases it. -/
  | recoveryBegin (req : Requester) (slot : Nat) (total : Nat)
  /-- `RECOVERY_DATA` (R447). Writes a chunk of the recovery image at its slot offset, refusing overlaps. -/
  | recoveryData (req : Requester) (offset : Nat) (data : Bytes)
  /-- `RECOVERY_COMMIT` (R389). Checks the slot under R384 and, on OK, sets the boot record to prefer it with a trial, then cold boots or
  live-updates. -/
  | recoveryCommit (req : Requester)
  /-- `RECOVERY_ABORT` (R389). Aborts the open recovery. -/
  | recoveryAbort (req : Requester)
  /-- `RECOVERY_IDLE_TIMEOUT` (R389). An open recovery that receives no chunk for 60 s is closed. -/
  | recoveryIdleTimeout
  /-- `PEERINV` (R276). Drops the peer cache's copy of a device's entry within 1 µs and discards any fill in progress. -/
  | peerinv (req : Requester) (dev : Nat)
  /-- `RETRAIN` (R449). A CMD write that retrains a port from phase 2. -/
  | retrain (req : Requester) (port : Nat)
  /-- `QRESET` (R450). A CMD write that resets a Stall's receive queue under the queue-reset row. -/
  | qreset (req : Requester) (value : Nat)
  /-- `LOGCLEAR` (R452). Empties the fault log and its persistent ring. -/
  | logclear (req : Requester)
  /-- `MMA` (R75). Starts a matrix product D = C + A × Bᵀ, with its pending epilogue and prologue when EPI is set. -/
  | mma (n : Nat)
  /-- `MMA_DRAIN_COMPLETE` (R77). 14 cycles after the occupancy ends, the accumulator tile D becomes readable all at once. -/
  | mmaDrainComplete (n : Nat) (residueOk : Bool)
  /-- `EPILOGUE_COMPLETE` (R132). The epilogue path finishes a tile: stages applied, state and Chest writes done, and DT and XT readable. -/
  | epilogueComplete (n : Nat) (residueOk : Bool)
  /-- `EPI_LATE` (R134). A cyclic-class program-form epilogue not complete at its declared latency faults the context. -/
  | epiLate (n : Nat)
  /-- `EPI_SEND_TIMEOUT` (R137). An epilogue SEND hold longer than the send-stall timeout faults the context. -/
  | epiSendTimeout (n : Nat)
  /-- `VEC` (R108). Latches a descriptor and launches it in instruction mode with one micro-op. -/
  | vec (n : Nat)
  /-- `VEC_PROG` (R109). Latches a descriptor and element program and launches the program over the walk. -/
  | vecProg (n : Nat)
  /-- `VECTOR_LAUNCH_COMPLETE` (R120). Λ cycles after its last vector enters, a launch completes and its output is readable or written. -/
  | vectorLaunchComplete (n : Nat) (residueOk : Bool)
  /-- `EPI` (R80). Copies a stage list and makes it pending for the next MMA with EPI set. -/
  | epi (n : Nat)
  /-- `EPI_PROG` (R80). Copies a program-form epilogue and makes it pending. -/
  | epiProg (n : Nat)
  /-- `MOV_LD` (R81). Moves Chest rows through an address generator into a tile, checking stamps. -/
  | movLd (n : Nat)
  /-- `MOV_ST` (R81). Moves a tile into Chest rows through an address generator, writing stamps. -/
  | movSt (n : Nat)
  /-- `MOVE_COMPLETE` (R81). 6 cycles after its last grant, a move's data is readable in the tile or written in the Chest. -/
  | moveComplete (n : Nat)
  /-- `MOV_ZERO` (R82). Writes +0 to a whole tile, and 0x7F to its sidecar with SCALE. -/
  | movZero (n : Nat)
  /-- `MOV_TT` (R82). Copies one tile and its sidecar to another in 34 cycles. -/
  | movTt (n : Nat)
  /-- `SEND` (R83). Hands 1–4 tile words to the switch point as a runner message. -/
  | send (n : Nat)
  /-- `SEND_ACCEPT` (R198). A SEND's packet enters the Stall's injection buffer when room exists, and the SEND completes. -/
  | sendAccept (n : Nat)
  /-- `SEND_TIMEOUT` (R204). A SEND that waits for acceptance longer than the send-stall timeout faults the context. -/
  | sendTimeout (n : Nat)
  /-- `RECV` (R87). Takes the head message of a receive queue into a tile row, with the header if asked. -/
  | recv (n : Nat)
  /-- `RECV_TIMEOUT` (R88). A RECV that waits longer than the send-stall timeout faults the context. -/
  | recvTimeout (n : Nat)
  /-- `WAIT_BEAT` (R89). Waits for the Stall's engines to idle, reports ready to the beat controller, and holds until the next beat. -/
  | waitBeat (n : Nat)
  /-- `WAIT_IDLE` (R89). Holds until every engine of the Stall is idle. -/
  | waitIdle (n : Nat)
  /-- `LOOP` (R90). Pushes a counted loop onto the loop stack. -/
  | loop (n : Nat)
  /-- `END` (R90). Stops issue. -/
  | endOrder (n : Nat)
  /-- `END_COMPLETE` (R90). END completes when every engine is idle, and the Stall's task reports completion. -/
  | endComplete (n : Nat)
  /-- `NOP` (R71). An order with no action. -/
  | nop (n : Nat)
  /-- `BELL_RING` (R205). Rings an on-device bell line, setting every subscriber's latch 12 cycles later. -/
  | bellRing (n : Nat)
  /-- `BELL_WAIT` (R91). Holds until the line's latch is set, then clears it. -/
  | bellWait (n : Nat)
  /-- `BELL_TIMEOUT` (R91). A BELL.WAIT that holds longer than the send-stall timeout faults the context. -/
  | bellTimeout (n : Nat)
  /-- `BELL_REMOTE` (R91). Rings a bell line of another device over Elveel. -/
  | bellRemote (n : Nat)
  /-- `CHEST_GRANT` (R154). In each cycle, each Chest port grants its oldest pending row requests in its slot-table cells, with stamp and
  held-bit checks. -/
  | chestGrant (c : Nat) (codes : List ErrMark)
  /-- `HELD_WAIT_TIMEOUT` (R168). A wait-held write that waits longer than the send-stall timeout is a violation. -/
  | heldWaitTimeout (c : Nat)
  /-- `SLOT_STARVED` (R160). A request with no cell of its bank in the new table, waiting past the timeout, faults the context. -/
  | slotStarved (c : Nat) (port : Nat)
  /-- `STREAM_FLIT_SEND` (R186). An OUT or RELAY endpoint with credits on every branch sends its head flit in a circuit slot. -/
  | streamFlitSend (b : Nat) (ep : Nat)
  /-- `STREAM_FLIT_ARRIVE` (R186). A circuit flit is written into its sink queue F cycles after it was sent, after ECC and swap-epoch
  checks. -/
  | streamFlitArrive (id : Nat) (ecc : Ecc)
  /-- `CREDIT_RETURN` (R186). A freed sink entry returns a credit along the reverse circuit, spendable F + 1 cycles later. -/
  | creditReturn (id : Nat)
  /-- `STEERING_FIRE` (R194). A steering unit with token, data, credit and a free output register fires and routes data by its token. -/
  | steeringFire (b : Nat) (u : Nat)
  /-- `RUNNER_HOP` (R198). A runner packet moves to the next buffer on its lane when room exists, routed by lane and fault map. -/
  | runnerHop (b : Nat) (port : Nat) (lane : Nat) (ecc : Ecc)
  /-- `RUNNER_EJECTION` (R201). The head packet of a Stall's ejection buffer is dropped, held or written to its queue in the fixed order. -/
  | runnerEjection (n : Nat)
  /-- `TRANSFER_TRIGGER` (R229). A beat, bell, task-start or preload trigger creates a transfer instance in its class queue, or faults
  with TRANSFER_OVERRUN. -/
  | transferTrigger (b : Nat) (d : Nat)
  /-- `TRANSFER_LINE_ISSUE` (R229). An instance issues its next line request in walk order as the block port admits it. -/
  | transferLineIssue (b : EngineTurn) (timed : Bool)
  /-- `TRANSFER_INSTANCE_COMPLETE` (R229). When every line has its reply, the instance completes and rings DLINE if DONEB is set. -/
  | transferInstanceComplete (b : Nat) (id : Nat)
  /-- `SLICE_READ` (R232). A read arrives at a memory slice, is merged or performed in slice order, and returns data with ECC correction
  or MEM_UE. -/
  | sliceRead (id : Nat) (ecc : Ecc)
  /-- `SLICE_WRITE` (R231). A write arrives at a slice and is performed in slice order, and its completion reply is sent. -/
  | sliceWrite (id : Nat) (ecc : Ecc)
  /-- `WORD_ATOMIC` (R233). A word atomic is performed at a slice and returns the old value. -/
  | wordAtomic (id : Nat) (ecc : Ecc)
  /-- `LINE_ADD` (R234). A line add sums a Chest row into a memory line as one indivisible access. -/
  | lineAdd (id : Nat) (ecc : Ecc)
  /-- `CONCOURSE_REPLY` (R235). A reply arrives at its requester, and a status other than OK faults a transfer with MEM_FAULT. -/
  | concourseReply (id : Nat)
  /-- `HBM_PATROL_SCRUB` (R237). Each HBM slice's patrol scrubber reads and corrects every line once every 24 hours. -/
  | hbmPatrolScrub (slice : Nat) (line : Nat) (ecc : Ecc)
  /-- `PORT_LIGHT_DETECT` (R257). With light at both ends, a port starts link-up training at phase 1. -/
  | portLightDetect (p : Nat)
  /-- `PORT_TRAINING_PHASE` (R257). A training phase of a port completes, and the next phase starts. -/
  | portTrainingPhase (p : Nat) (flight : Nat)
  /-- `PORT_TRAINING_TIMEOUT` (R257). A port that misses a phase bound goes to FAILED and raises LINK_FAIL. -/
  | portTrainingTimeout (p : Nat)
  /-- `PORT_RETRY` (R257). 1 s after failing, a port retries link-up. -/
  | portRetry (p : Nat)
  /-- `LINK_UP_RECORD` (R259). A received link-up record negotiates the generation and sets the port LOOP, MGMT_ONLY, DOWN or UP. -/
  | linkUpRecord (p : Nat) (record : Bytes)
  /-- `WIRE_FLIT_RECEIVE` (R256). A wire flit is FEC-decoded; an uncorrectable data flit is discarded and NAKed, and a NAK causes replay. -/
  | wireFlitReceive (p : Nat) (flit : WireFlit)
  /-- `PORT_LOSS_OF_LOCK` (R272). A port losing lock is masked within 1 µs, its buffered flits are discarded, and LINK_FAIL is raised. -/
  | portLossOfLock (p : Nat)
  /-- `ROUTER_FORWARD` (R269). A transit packet chooses a usable candidate by hash or congestion and is forwarded by cut-through. -/
  | routerForward (p : Nat)
  /-- `OUTGOING_REQUEST` (R277). The requester's router looks up the peer entry, refuses or fills DINC and SINC, and routes the packet. -/
  | outgoingRequest (id : Nat)
  /-- `PEER_CACHE_FILL` (R275). A peer-table entry read into the peer cache releases the request waiting for it. -/
  | peerCacheFill (dev : Nat)
  /-- `LOAD` (R277). A LOAD arriving at its destination is checked and served through the Concourse. -/
  | load (pkt : Bytes)
  /-- `STORE` (R277). A STORE arriving at its destination is checked and written, or becomes a runner in the unit space. -/
  | store (pkt : Bytes)
  /-- `ATOMIC` (R277). An ATOMIC arriving at its destination is checked and performed. -/
  | atomic (pkt : Bytes)
  /-- `LINEADD` (R277). A LINEADD arriving at its destination is checked and performed. -/
  | lineadd (pkt : Bytes)
  /-- `PUT` (R277). A PUT arriving at its destination is checked and written. -/
  | put (pkt : Bytes)
  /-- `GET` (R277). A GET arriving at its destination is checked and answered with GET_R. -/
  | get (pkt : Bytes)
  /-- `RUNNER` (R277). A remote runner arriving at its destination is checked and enters the switch points at row 0. -/
  | runner (pkt : Bytes)
  /-- `BELL` (R277). A remote BELL arriving at its destination is checked and rings the bell tree. -/
  | bell (pkt : Bytes)
  /-- `MGMT` (R251). A MGMT packet carries a LAP frame to the Ledger and is answered with MGMT_R. -/
  | mgmt (pkt : Bytes)
  /-- `LOAD_R` (R280). A LOAD reply completes its transaction entry, or is dropped when stale. -/
  | loadR (pkt : Bytes)
  /-- `COMP` (R280). A completion reply completes its transaction entry, or is dropped when stale. -/
  | comp (pkt : Bytes)
  /-- `ATOM_R` (R280). An atomic reply completes its transaction entry with the old value. -/
  | atomR (pkt : Bytes)
  /-- `GET_R` (R280). A GET reply delivers its data and completes the transaction. -/
  | getR (pkt : Bytes)
  /-- `MGMT_R` (R280). A MGMT reply completes its management transaction. -/
  | mgmtR (pkt : Bytes)
  /-- `REMOTE_TIMEOUT` (R280). A transaction entry whose reply has not come within the remote timeout completes with REMOTE_TIMEOUT. -/
  | remoteTimeout (tid : Nat)
  /-- `DRAIN_NOTICE` (R283). A neighbour receiving a DRAIN notice raises PEER_DRAINING. -/
  | drainNotice (p : Nat)
  /-- `ROUTE_CLEAR` (R283). A draining device receives ROUTE_CLEAR on a port. -/
  | routeClear (p : Nat)
  /-- `DRAIN_COMPLETE` (R283). With every route clear, transit quiet for 100 µs and every transaction resolved, the device sends
  LINK_DOWN, stops its transmitters and raises DRAINED. -/
  | drainComplete
  /-- `LINK_DOWN` (R283). A port receiving LINK_DOWN masks itself and raises PEER_GONE. -/
  | linkDown (p : Nat)
  /-- `COLLECTIVE_TRIGGER` (R297). A collective starts when its bell latch sets or its first contribution row arrives, latching and
  checking its descriptor. -/
  | collectiveTrigger (ctx : Nat) (didx : Nat)
  /-- `COLL_ROW_ACCEPT` (R305). An epilogue row is accepted into the inbox and converted into region P. -/
  | collRowAccept (ctx : Nat) (didx : Nat)
  /-- `COLL_PIECE_SEND` (R296). A member issues the PUTs of a piece once its data, DATA and CREDIT conditions allow. -/
  | collPieceSend (slot : EngineTurn)
  /-- `COLL_SIGNAL_SEND` (R296). After every COMP of a piece, the sender issues one ATOMIC ADD to the receiver's signal word. -/
  | collSignalSend (slot : Nat)
  /-- `COLL_PIECE_ARRIVAL` (R296). The engine observes a signal word advance and consumes the piece: it adds, forwards, or rings ALINE. -/
  | collPieceArrival (slot : Nat) (word : Nat) (residueOk : Bool)
  /-- `COLL_COMPLETE` (R298). When all pieces, writes and replies are done, the engine zeroes the signal block, ORs the flags, rings,
  posts a record and frees the slot. -/
  | collComplete (slot : Nat)
  /-- `COLL_ABORT` (R299). An engine that sees ABORT set faults its context with COLL_ABORT within 2 µs. -/
  | collAbort (slot : Nat)
  /-- `COLL_TIMEOUT` (R299). A collective that waits longer than the collective timeout faults its context. -/
  | collTimeout (slot : Nat)
  /-- `TARGETED_TEST_START` (R460). After the faulted contexts pass teardown step 4, the unit is taken out of service and its tests start. -/
  | targetedTestStart (id : Nat)
  /-- `TARGETED_TEST_END` (R460). The test outcome is recorded: a transient unit returns, and a lasting one is fenced and spared. -/
  | targetedTestEnd (id : Nat) (result : TestResult)
  /-- `ROW_REPAIR_COMPLETE` (R474). A soft repair of an HBM row finishes within 300 µs, and ROW_REPAIRED is raised. -/
  | rowRepairComplete (slice : Nat) (spareLeft : Bool)
  /-- `SCRUB_WORD_READ` (R467). The scrubber reads a configuration word and rewrites a corrected one, or raises SCRUB_UE. -/
  | scrubWordRead (word : ScrubWord) (ecc : Ecc)
  /-- `SCRUB_PASS_END` (R469). At a pass end, the scrubber compares its triple-redundant cells and rewrites any minority copy. -/
  | scrubPassEnd (minority : Nat)
  /-- `SCRUBBER_CHECK` (R470). Every 100 ms the Warden checks the scrubber configuration CRC and, on a mismatch, reloads it and restarts
  the pass. -/
  | scrubberCheck (crc : Nat)
  /-- `CLERK_WDT` (R471). A Clerk watchdog expiry is an error of the Clerk. -/
  | clerkWdt (k : Nat)
  /-- `CLERK_PERIODIC_TEST` (R471). Each Clerk is tested by another Clerk of its pool once every 60 s. -/
  | clerkPeriodicTest (k : Nat) (pass : Bool)
  /-- `CLERK_UPDATE` (R475). During live update, one Clerk at a time loads new firmware, passes CLERK and rejoins. -/
  | clerkUpdate (digestOk : Bool) (pass : Bool)
  /-- `HALT` (R458). Trestle order that stops the core and reports a halt code. -/
  | halt (t : Nat)
  /-- `ADD` (R458). Trestle order that adds two registers. -/
  | add (t : Nat)
  /-- `SUB` (R458). Trestle order that subtracts two registers. -/
  | sub (t : Nat)
  /-- `AND` (R458). Trestle bitwise AND of two registers. -/
  | andT (t : Nat)
  /-- `OR` (R458). Trestle bitwise OR of two registers. -/
  | orT (t : Nat)
  /-- `XOR` (R458). Trestle bitwise XOR of two registers. -/
  | xorT (t : Nat)
  /-- `SHL` (R458). Trestle left shift. -/
  | shl (t : Nat)
  /-- `SHR` (R458). Trestle logical right shift. -/
  | shr (t : Nat)
  /-- `SRA` (R458). Trestle arithmetic right shift. -/
  | sra (t : Nat)
  /-- `MUL` (R458). Trestle low 32-bit product. -/
  | mul (t : Nat)
  /-- `SLTU` (R458). Trestle unsigned set-less-than. -/
  | sltu (t : Nat)
  /-- `ADDI` (R458). Trestle add of a sign-extended immediate. -/
  | addi (t : Nat)
  /-- `LI` (R458). Trestle load of a sign-extended immediate. -/
  | li (t : Nat)
  /-- `LIH` (R458). Trestle load of an immediate into the upper 16 bits. -/
  | lih (t : Nat)
  /-- `LD` (R458). Trestle load of a window word. -/
  | ld (t : Nat)
  /-- `ST` (R458). Trestle store of a window word. -/
  | st (t : Nat)
  /-- `BEQ` (R458). Trestle branch if equal. -/
  | beq (t : Nat)
  /-- `BNE` (R458). Trestle branch if not equal. -/
  | bne (t : Nat)
  /-- `BLTU` (R458). Trestle branch if unsigned less. -/
  | bltu (t : Nat)
  /-- `JMP` (R458). Trestle relative jump. -/
  | jmp (t : Nat)
  /-- `SENDT` (R458). Trestle send of a runner message on the own device. -/
  | sendt (t : Nat)
  /-- `RECVT` (R458). Trestle take of the head message of the tile queue, waiting while it is empty. -/
  | recvt (t : Nat)
  /-- `TEST` (R458). Trestle run of a test-port function, waiting for its result. -/
  | test (t : Nat) (result : Option Nat)
  /-- `CSR` (R458). Trestle read of a status word. -/
  | csr (t : Nat)
  /-- `WAITC` (R458). Trestle wait of a number of cycles. -/
  | waitc (t : Nat)
  /-- `CRC` (R458). Trestle CRC-32C continuation over a register. -/
  | crc (t : Nat)
  /-- `TRESTLE_WAIT_TIMEOUT` (R458). A RECVT or TEST waiting more than 2^20 cycles halts with 0xFFFF_FFF2. -/
  | trestleWaitTimeout (t : Nat)
  /-- `EXTEST` (R495). JTAG instruction in which the boundary cells drive and capture the lands when TEST_MODE was latched. -/
  | extest (pins : List Bool)
  /-- `SAMPLE` (R495). JTAG instruction that captures the boundary without disturbing operation. -/
  | sample (pins : List Bool)
  /-- `PRELOAD` (R495). JTAG instruction that loads the boundary cells when TEST_MODE was latched. -/
  | preload (cells : List Bool)
  /-- `BYPASS` (R495). JTAG one-bit bypass, also taken for every other code. -/
  | bypass (code : Nat)
  /-- `TRST_L_ASSERT` (R495). TRST_L low resets the TAP and nothing else. -/
  | trstLAssert
  /-- `FLASH_OPERATION_COMPLETE` (R380). A flash program, erase or read accepted by the Warden finishes, answering the request that waited
  on it and letting the next queued flash operation start. -/
  | flashOperationComplete (ok : Bool)
  /-- `CLERK_UE` (R454). A Clerk detects an uncorrectable error in its caches, SRAM or register file, faulting its home contexts and
  starting its targeted test. -/
  | clerkUe (k : Nat)
  /-- `PLCA_BEACON_TIMEOUT` (R423). After no PLCA beacon for 4 ms, the 10BASE-T1S port turns PLCA off and falls back to CSMA/CD. -/
  | plcaBeaconTimeout
  /-- `PLCA_BEACON_RETURN` (R423). A PLCA beacon arrives again and the port returns from CSMA/CD to PLCA operation. -/
  | plcaBeaconReturn
  deriving DecidableEq, Repr

end Sys2Proof
end

