-- ==== Sys2Proof/Decode.lean ====
section
/-! DEFINITION. The words that spell a command. No row of spec/opcode_table.json gives its command any bits: the block
takes commands, it fetches no instruction words, so no word spells one. -/
namespace Sys2Proof

/-- The command that a word of nbits bits spells by the table's bits: none, since no row gives bits. -/
def decodeTableWord (_nbits _w : Nat) : Option Instr := none

end Sys2Proof
end

