-- ==== Sys2Proof/Config.lean ====
section
/-! DEFINITION. What one part fixes and the manual does not state: the free values. Each constant is opaque: it has no
body, nothing in Lean can evaluate it, and a statement about it holds for every value of it. notes/assumptions names
the log entry of each. -/
namespace Sys2Proof

/-- A free value of the model, drawn fresh at each use: State.freeCount is applied to it and then advanced. -/
opaque Config.freeValue : Nat → Nat

/-- The 32-byte seed K that the ROM reconstructs from a PUF readout and the helper record (R393): the manual gives no
construction. -/
opaque Config.pufCombine : (reading : Nat) → (helper : Bytes) → Bytes

/-- The Taltis firmware keys in mask ROM (R381): one ECDSA P-384 public key and one HSS public key. -/
opaque Config.romEcdsaKey : Bytes
/-- See romEcdsaKey: the HSS public key of 60 bytes. -/
opaque Config.romHssKey : Bytes

/-- The CRC-32C of the mask-ROM defaults of the scrubber's configuration (R469, R470): the manual does not list the
defaults. -/
opaque Config.scrubberRomCrc : Nat

/-- Power and current figures that the part measures and the manual does not state: what a critical-path monitor or
an I/O rail reads (R418, R426). -/
opaque Config.measured : (what : Nat) → (time : Nat) → Nat

/-- The working-format value of an index that the format does not represent exactly (R107): by exponent bits of the
format and index. -/
opaque Config.idxInexact : (eb i : Nat) → Nat

/-- The FEC parity of a wire flit (R256): the code's polynomials stand nowhere in the manual. By the 265 bytes before it. -/
opaque Config.fecParity : Nat → Nat
/-- The alignment marker of a lane (R254): a fixed pattern that the manual does not give. -/
opaque Config.alignMarker : (lane : Nat) → Nat
/-- The receive buffer of a port for a VC and class, in flits (R257, R263). -/
opaque Config.linkBuffer : (vc cls : Nat) → Nat
/-- P of R266 toward a device, in cycles: the sum of the per-hop bounds over its route, which the device does not see. -/
opaque Config.routeBound : (dev : Nat) → Nat

end Sys2Proof
end

