-- ==== Sys2Proof/Machine/State.lean ====
section
/-! DEFINITION. The state of the block as plain data: every register, queue, buffer, counter, mode and pin that the
manual gives the Ralern, and the queue of waiting commands. Sparse arrays are lists of (index, value) pairs in one
canonical form (indices strictly rising, no entry equal to what an unlisted index reads as); byte memories are such
lists of bytes. INVENTORY.md lists each field with the rule that names it and its reset value. -/
namespace Sys2Proof.Machine

/-! ## Why a step can stop -/

/-- Why a step stops with a fault. -/
inductive Fault where
  /-- A command is not well formed (Sys2Proof.Instr.wf): it names a unit that the part does not have (a Stall above 2,303, a port
  above 17, …) or carries an operand of another shape than its own. Raised by the meaning of any such command; safe, since the manual
  gives such a command no effect. -/
  | noSuchUnit
  deriving DecidableEq, Repr

/-- Why a step is refused. -/
inductive Refusal where
  /-- No meaning for the command yet. Raised by exec's arm of that command only; safe. -/
  | notModelled (mnemonic : String)
  deriving DecidableEq, Repr

/-! ## Shared shapes -/

/-- A sparse array: (index, value) pairs in canonical form. -/
abbrev Tab (α : Type) := List (Nat × α)
/-- A byte memory: (address, byte) pairs in canonical form. -/
abbrev Memory := List Host.Cell

/-- Device power states (R405). -/
inductive DState where
  | off | aon | ready | run
  deriving DecidableEq, Repr, Inhabited

/-- Island power states (R407). -/
inductive Island where
  | off | ret | idle | run
  deriving DecidableEq, Repr, Inhabited

/-! ## A Stall (chapters 3 to 5) -/

/-- A message in a receive queue (R84): payload words, header fields, and the cycle it was written (R88). -/
structure Msg where
  words : List W32
  sdev  : Nat
  sunit : Nat
  tag   : Nat
  nw    : Nat
  qinc  : Nat
  at_   : Nat
  deriving DecidableEq, Repr, Inhabited

/-- A receive queue (R85): its queue word's fields and its entries, oldest first. -/
structure RQueue where
  base   : Nat := 0
  size   : Nat := 0
  inc    : Nat := 0
  isOpen : Bool := false
  msgs   : List Msg := []
  freedAt : Nat := 0     -- the cycle of the latest RECV from it, plus 1 (R88)
  deriving DecidableEq, Repr, Inhabited

/-- A runner packet (R196). cause is word 0 of the packet that caused an event. -/
structure RPkt where
  ddev   : Nat := 0
  dunit  : Nat := 0
  tag    : Nat := 0
  nw     : Nat := 0
  qinc   : Nat := 0
  dinc   : Nat := 0
  kind   : Nat := 0
  lane   : Nat := 0
  words  : List W32 := []
  sdev   : Nat := 0
  sunit  : Nat := 0
  ecode  : Nat := 0
  cause  : W64 := 0
  rsvSet : Bool := false
  at_    : Nat := 0     -- the cycle from which it is in the buffer that holds it
  queue  : Option Nat := none   -- the receive queue that R28 chose, for a message to a Pitch
  deriving DecidableEq, Repr, Inhabited

/-- The engines of a Stall (R65). -/
inductive Eng where
  | matrix | vector | move | runner
  deriving DecidableEq, Repr, Inhabited

/-- What a job of an engine does. -/
inductive JobOp where
  | mma
  | vec          -- VEC: instruction mode
  | vecProg      -- VEC.PROG, and a settle pass (R142)
  | prologue     -- the implicit launch of R133
  | epiPasses    -- the implicit launch of R134 and R135 that runs an MMA's epilogue on the vector stages
  | movLd | movSt | movZero | movTt
  | send | recv
  deriving DecidableEq, Repr, Inhabited

/-- A copy of a stage list or program-form epilogue, taken when EPI or EPI.PROG issues (R80, R123). -/
structure PendEpi where
  isProg : Bool := false
  line   : Nat := 0
  header : Bytes := []
  stages : List W64 := []
  prog   : Bytes := []
  aux1   : Nat := 0
  aux2   : Nat := 0
  rmode  : Nat := 0
  nonsat : Bool := false
  pc     : Nat := 0
  deriving DecidableEq, Repr, Inhabited

/-- Where a job stands. -/
inductive JobPhase where
  | queued      -- in its engine's order queue (R65)
  | prologue    -- an MMA waiting for its prologue (R133)
  | entering    -- a launch between two vectors: the next one enters in the cycle `entry` (R120)
  | reading     -- row reads outstanding
  | gathering   -- the second read phase of a gather (R114)
  | running     -- computing; an MMA in its occupancy or drain
  | epiReading  -- an MMA's tile on the epilogue path, side reads outstanding
  | epiWriting  -- stages computed, row writes outstanding
  | writing     -- row writes outstanding
  | handing     -- rows being handed to a SEND path (R137), or a SEND waiting for acceptance (R198)
  | done        -- nothing left but the completion step
  deriving DecidableEq, Repr, Inhabited

/-- A row of a STORE stage that waits to become pending: the Chest row comes from a generator, which it takes from in that cycle
(R162). -/
structure StoreRow where
  stage : Nat
  tileRow : Nat
  agen : Nat
  code : Nat
  hold : Bool
  data : Bytes
  deriving DecidableEq, Repr, Inhabited

/-- An order that an engine of the Stall holds, from issue to completion (R65, R66, R121). -/
structure Job where
  ticket    : Nat := 0            -- issue order within the Stall
  eng       : Eng := .matrix
  op        : JobOp := .mma
  word      : W64 := 0            -- the order word
  pc        : Nat := 0            -- its offset
  step      : Nat := 0            -- step value of R45
  issued    : Nat := 0            -- issue cycle
  desc      : Bytes := []         -- latched descriptor (R121)
  prog      : Bytes := []         -- latched element program
  epi       : Option PendEpi := none
  useU      : Nat := 0            -- use coordinates of R124
  useB      : Nat := 0
  link      : Nat := 0            -- ticket of the MMA an implicit launch belongs to
  rd        : List Nat := []      -- tiles read (R66)
  wr        : List Nat := []      -- tiles written (R66)
  rdAbc     : List Nat := []      -- tiles A, B and C of an MMA
  rdFree    : Option Nat := none  -- cycle from which the A, B and C tiles are free (R66)
  phase     : JobPhase := .queued
  start     : Nat := 0            -- start cycle
  occEnd    : Nat := 0            -- last cycle of the occupancy; last vector's entry for a launch
  due       : Nat := 0            -- cycle from which the completion step may be taken
  need      : Nat := 0            -- row grants outstanding
  lastGrant : Nat := 0
  got       : List (Nat × Row) := []   -- rows read: (request number, data)
  acc       : List Nat := []           -- the array's accumulators
  entry     : Nat := 0                 -- the cycle in which the next vector of a launch enters (R120)
  askAt     : Nat := 0                 -- the cycle in which the outstanding row reads became pending
  outTiles  : List (Nat × Byte × Byte) := []  -- bytes to write in the tile registers at completion: address, bits written, value
  outSide   : List (Nat × Byte) := []  -- bytes to write in the sidecars at completion
  flags     : BitVec 32 := 0
  cut       : Option Nat := none       -- the last vector that writes, once one has set an enabled RANGE (R115)
  trapen    : Nat := 0                 -- the trap enables in force when it issued (R63, R315)
  limit     : Nat := 0                 -- the send-stall timeout in force when its wait started (R204, R315)
  nextVec   : Nat := 0                 -- the next vector to compute
  units     : List Nat := []           -- units of access of the sources and the output (R164)
  sends     : List (Nat × Nat × Nat × Bytes) := []   -- rows to hand to SEND paths: path, DIDX, row, packed data (R137)
  settle    : List Nat := []           -- lines of the settle descriptors (R142)
  stUnits   : List (Nat × Nat) := []   -- units of access of the stages: stage, unit (R164)
  stores    : List StoreRow := []      -- STORE rows that have not become pending (R162)
  asked     : Nat := 0                 -- tile rows whose generator rows have been taken (R162)
  since     : Nat := 0            -- start of the present wait
  deriving DecidableEq, Repr, Inhabited

/-- A frame of the loop stack (R67, R90). -/
structure LoopFrame where
  first : Nat
  last  : Nat
  left  : Nat     -- iterations left after the present one
  deriving DecidableEq, Repr, Inhabited

/-- What the sequencer is doing (R69): stopped at END or never started, running, or faulted. -/
inductive Seq where
  | stopped | running | faulted
  deriving DecidableEq, Repr, Inhabited

/-- A Stall, its tile registers apart (those are State.tiles and State.sidecars). -/
structure Stall where
  seq       : Seq := .stopped
  pc        : Nat := 0
  base      : Nat := 0            -- region base (R64)
  len       : Nat := 0            -- region length
  task      : Option Nat := none  -- task slot running here (R326)
  lastIssue : Option Nat := none  -- cycle of the latest issue (R65)
  ended     : Bool := false       -- END issued, completion not yet taken (R90)
  ready     : Bool := false       -- reported ready at WAIT.BEAT (R89)
  readyAt   : Nat := 0
  holdSince : Option Nat := none  -- start of the present RECV or BELL.WAIT hold
  holdLimit : Nat := 0            -- the send-stall timeout in force at that start (R315)
  beatStart : Nat := 0            -- cycle from which orders may issue after a beat start
  step      : Nat := 0            -- step value of the run or task (R45)
  loops     : List LoopFrame := []
  jobs      : List Job := []      -- issue order
  ticket    : Nat := 0            -- next ticket
  arrayFree : Nat := 0            -- first cycle in which the array may start an MMA (R77)
  vecFree   : Nat := 0            -- first cycle in which the vector engine may start a launch (R120)
  pathFree  : Nat := 0            -- first cycle in which the epilogue path takes a tile (R132)
  pendEpi   : Option PendEpi := none
  uses      : Tab (Nat × Nat) := []    -- use and band counters by line (R124)
  folds     : Tab Nat := []            -- fold counts, by 16 * line + slot (R139)
  inclCols  : Tab Nat := []            -- included columns of the band, by 16 * line + slot (R140)
  flags     : BitVec 32 := 0           -- arithmetic flag word (R61)
  queues    : Tab RQueue := []         -- 16 receive queues (R84, R85)
  tagMap    : Tab Nat := []            -- 64 five-bit entries (R86)
  sendInc   : Tab Nat := []            -- 64 four-bit entries (R197)
  bellSub   : BitVec 32 := 0           -- subscription mask (R91)
  latch     : BitVec 32 := 0           -- bell latches (R91, R206)
  again     : BitVec 32 := 0           -- lines that rang in the present cycle on a latch already set (R91)
  inj       : List RPkt := []          -- injection buffer, at most 4 (R198)
  ej        : List RPkt := []          -- ejection buffer, at most 2 (R201)
  deriving DecidableEq, Repr, Inhabited

/-! ## A Chest (chapter 6) -/

/-- A row's fill stamp and held bit (R164). -/
structure RowStat where
  stamp : Nat := 0
  held  : Bool := false
  deriving DecidableEq, Repr, Inhabited

/-- Who gets the data or the completion of a row request. -/
inductive Sink where
  | job (stall ticket k : Nat)      -- request k of a job of a Stall
  | epi (stall ticket k : Nat)      -- request k of an MMA's epilogue
  | streamIn (b ep : Nat)           -- the SIN write of an endpoint's head flit
  | streamOut (b ep : Nat)          -- a SOUT read into an endpoint's staging buffer
  | creq (id : Nat)                 -- a Concourse request at its Chest window
  | xferRead (b id line addr : Nat) -- a transfer line's Chest access, and the line's global address (R229)
  | svc (req : Nat)                 -- a Clerk, Ledger or self-test access
  deriving DecidableEq, Repr, Inhabited

/-- A pending row request of a port (R154). -/
structure RowReq where
  row      : Nat
  unit     : Nat                    -- unit of R164
  also     : Option Nat := none     -- a second unit that the same row serves: both sources of a vector (R104)
  isWrite  : Bool := false
  data     : Row := 0
  mask     : Row := 0               -- bits written
  sink     : Sink
  since    : Nat := 0
  limit    : Nat := 0               -- the send-stall timeout in force when it was made (R160, R315)
  waitHeld : Bool := false          -- R168
  late     : Option (Nat × Nat) := none   -- of a timed transfer read: the cycle of its bound, and its slice (R223)
  deriving DecidableEq, Repr, Inhabited

/-- A unit of access (R164): its stamp code, or the effective stamp fixed for it, its hold and release, what is left
of it, and the rows it has read. -/
structure AccUnit where
  stamped  : Bool := false
  code     : Nat := 0
  eff      : Option Nat := none
  hold     : Bool := false
  release  : Bool := false
  left     : Nat := 0
  rowsRead : List Nat := []
  lastRead : Nat := 0
  ctx      : Option Nat := none     -- the context that issued it
  pc       : Nat := 0
  deriving DecidableEq, Repr, Inhabited

/-- An address generator (R161, R162): its descriptor and the number of rows taken from its walk. -/
structure Gen where
  desc  : Bytes := []
  taken : Nat := 0
  deriving DecidableEq, Repr, Inhabited

/-- A bank's power (R173, R174): off, waking until a cycle, or on. -/
inductive BankPwr where
  | off
  | waking (usableAt : Nat)
  | on
  deriving DecidableEq, Repr, Inhabited

/-- A Chest, its data apart (those are State.mem, at the Chest's window). -/
structure Chest where
  stat      : Tab RowStat := []
  ports     : Tab (List RowReq) := []   -- pending requests by port code (R152), oldest first
  units     : Tab AccUnit := []
  gens      : Tab Gen := []
  banks     : Tab BankPwr := []
  violation : W64 := 0                  -- violation record (R170)
  latched   : Bool := false             -- a violation has been latched since the record was last read
  badWords  : List (Nat × Nat) := []    -- (row, word) holding a double-bit error; word 16 is the status (R178)
  granted   : Option Nat := none        -- last cycle in which CHEST_GRANT ran
  heldSince : Option Nat := none        -- start of the present wait-held wait (R168)
  heldLimit : Nat := 0                  -- the send-stall timeout in force at that start (R315)
  svcAt     : Option (Nat × Nat) := none   -- the cycle of the latest SVC access, and its bank (R153)
  deriving DecidableEq, Repr, Inhabited

/-! ## The switch point, the transfer engine and the block (chapters 1, 7, 8, 15, 17) -/

/-- A stream flit in a queue: data, swap epoch (R213), and what is still to do with it. -/
structure SFlit where
  data    : Row
  epoch   : Bool := false
  at_     : Nat := 0
  written : Bool := false     -- its SIN write is done
  sent    : Bool := false     -- a RELAY has forwarded it (R187)
  asked   : Bool := false     -- its SIN request is pending
  deriving DecidableEq, Repr, Inhabited

/-- A stream endpoint's run-time state (R183, R186). -/
structure Endpoint where
  queue   : List SFlit := []
  staging : List SFlit := []
  asked   : Nat := 0          -- SOUT reads pending for the staging buffer
  cred0   : Nat := 0
  cred1   : Nat := 0
  deriving DecidableEq, Repr, Inhabited

/-- A steering unit's run-time state (R193, R194). -/
structure Steer where
  data0 : List Row := []
  data1 : List Row := []
  token : List Nat := []
  out0  : Option (Nat × Row) := none    -- output registers: the cycle of the firing, the flit
  out1  : Option (Nat × Row) := none
  firedAt : Nat := 0
  cred0 : Nat := 0
  cred1 : Nat := 0
  deriving DecidableEq, Repr, Inhabited

/-- A block's switch point (R182, R193, R198). -/
structure SwPoint where
  eps     : Tab Endpoint := []
  steers  : Tab Steer := []
  inbuf   : Tab (List RPkt) := []   -- by 2 * port + lane; ports 0 N, 1 E, 2 S, 3 W, 4 local
  lastIn  : Tab Nat := []           -- the input an output port served last (rotation)
  lastOut : Tab Nat := []           -- the turn in which an output port last sent (one packet a turn), plus 1
  deriving DecidableEq, Repr, Inhabited

/-- An instance of a transfer descriptor (R229). -/
structure XInst where
  id       : Nat
  didx     : Nat
  desc     : Bytes
  eff      : Nat               -- effective stamp S (R230)
  ctx      : Nat
  next     : Nat := 0          -- next line of the walk
  replies  : Nat := 0          -- replies received
  preload  : Bool := false
  stopped  : Bool := false     -- issues no more (R339)
  isPending : Bool := false    -- a pooled line waits for a translation or a move
  reading  : Bool := false     -- the read of its page map entry is out (R244)
  missAt   : Option Nat := none  -- the grant of that read, until its line is issued (R223)
  flags    : BitVec 32 := 0
  lastIssue : Nat := 0         -- cycle of its latest line, plus 1
  trigAt    : Nat := 0         -- its trigger cycle
  deriving DecidableEq, Repr, Inhabited

/-- A block's transfer engine (R226, R229, R244). -/
structure Xfer where
  timedQ  : List XInst := []
  bulkQ   : List XInst := []
  preWait : List Nat := []             -- preload descriptors waiting for an entry
  latch   : BitVec 32 := 0             -- TRIG 01 latches (R206)
  again   : BitVec 32 := 0             -- lines that rang in the present cycle on a latch already set (R91)
  tcache  : Tab (Option W64) := []     -- translation cache: page map entry by 2^36 * context + 2^24 * slot + page (R244)
  deriving DecidableEq, Repr, Inhabited

/-- A logical block. -/
structure Block where
  island    : Island := .off
  islandAt  : Option Nat := none     -- cycle at which an admitted island wake ends
  banksAt   : Option Nat := none     -- cycle at which admitted bank wakes are usable
  clockAt   : Nat := 0               -- turn boundary at which the island clock has started after IDLE (R408, R411)
  quiet     : Option Nat := none     -- start of the present quiet span (R408)
  fenced    : Bool := false          -- R462
  testing   : Bool := false          -- Trestle mode in test status (R460)
  epoch     : Bool := false          -- swap epoch (R213)
  sw        : SwPoint := {}
  xfer      : Xfer := {}
  changed   : List Nat := []         -- what its last swap changed (R213): endpoint e, 32 + 7 * link + slot, 60 + steering unit
  deriving DecidableEq, Repr, Inhabited

/-- A circuit flit in flight (R186). -/
structure Flight where
  id     : Nat
  srcB   : Nat
  srcE   : Nat        -- endpoint, or 32 + 2 * unit + output for a steering output
  branch : Nat
  dstB   : Nat
  dstE   : Nat
  delay  : Nat        -- F of R186
  due    : Nat
  epoch  : Bool
  data   : Row
  hops   : List (Nat × Nat × Nat) := []   -- its way: block, crosspoint entry as Block.changed numbers it, cycles after the send
  deriving DecidableEq, Repr, Inhabited

/-- A credit on its way back (R186). -/
structure CreditFlight where
  id     : Nat
  dstB   : Nat        -- the source that gets it
  dstE   : Nat
  branch : Nat
  due    : Nat
  epoch  : Bool
  srcB   : Nat        -- the sink that frees the entry
  srcE   : Nat
  delay  : Nat := 0   -- F of R186
  hops   : List (Nat × Nat × Nat) := []   -- its way back, as Flight.hops: cycles after the entry freed
  deriving DecidableEq, Repr, Inhabited

/-- A ring on the bell wire tree (R205), due at a cycle. -/
structure Ring where
  line : Nat
  due  : Nat
  deriving DecidableEq, Repr, Inhabited

/-! ## Shelves and Lots (chapters 1, 11, 12) -/

/-- A block's shelf: the frame of R345, parsed by the loader. -/
structure Shelf where
  orders   : Tab W64 := []
  lines    : Tab (BitVec 256) := []
  kinds    : Tab Nat := []            -- LINEMAP
  regions  : Tab W64 := []            -- region words (R346)
  cfg      : Tab W64 := []            -- CHESTCFG words (R172)
  bellSub  : Tab Nat := []
  owners   : Tab (Tab Nat) := []      -- owner table by Chest: port code by 16 * bank + position (R158)
  queues   : Tab Nat := []            -- queue word by 16 * Stall + queue
  tags     : Tab Nat := []            -- tag map entry by 64 * Stall + tag
  sendInc  : Tab Nat := []            -- by 64 * Stall + tag
  deriving DecidableEq, Repr, Inhabited

/-- A Pitch descriptor (R26). children: (number, kind) pairs; queues: 16-bit queue-map entries. -/
structure Pitch where
  pid      : Nat
  depth    : Nat
  lot      : Nat
  head     : Nat
  qvalid   : Nat
  children : List (Nat × Nat)
  qmap     : List Nat
  deriving DecidableEq, Repr, Inhabited

/-- A task kind of a task shelf (R348). -/
structure TaskKind where
  region  : W64
  queues  : List Nat
  tags    : List Nat
  sendInc : List Nat
  bellSub : Nat
  deriving DecidableEq, Repr, Inhabited

/-- The power envelope (R349). -/
structure Envelope where
  ipeak0 : Nat := 0
  ipeak1 : Nat := 0
  iavg0  : Nat := 0
  iavg1  : Nat := 0
  pavg   : Nat := 0
  didt   : Nat := 0
  profile : List Nat := []
  deriving DecidableEq, Repr, Inhabited

/-- A Lot's shelf: what one loaded image puts into every block of the Lot. kind 0 empty, 1 laid, 2 task (R354);
partial Pitch updates keep the Pitch they replace. -/
structure LotShelf where
  kind    : Nat := 0
  ctx     : Nat := 0
  imageId : Nat := 0
  beat    : Nat := 0
  bells   : Nat := 0
  partialPitch : Option Nat := none
  env     : Envelope := {}
  blocks  : Tab Shelf := []
  pitches : List Pitch := []
  tasks   : List TaskKind := []
  shifted : Bool := false            -- loaded with a pending column shift's positions (R359)
  deriving DecidableEq, Repr, Inhabited

/-- Back shelf states (R354). -/
inductive BState where
  | empty | loading | loaded | ready
  deriving DecidableEq, Repr, Inhabited

/-- The beat controller of a Lot (R207, R210). -/
structure BeatCtl where
  num     : Nat := 0
  len     : Nat := 0
  stretch : Nat := 0
  active  : Bool := false
  start   : Nat := 0            -- s_n
  creditAt : Nat := 0           -- cycle at which the credit last became positive
  ssto    : Nat := 0            -- send-stall timeout in force at its start, in cycles (R209, R315)
  lateth  : Nat := 0            -- late-beat threshold in force at its start (R208, R315)
  deriving DecidableEq, Repr, Inhabited

/-- A window of a cyclic table (R330). -/
structure Window where
  start : Nat
  len   : Nat
  seat  : Nat
  wake  : Nat
  deriving DecidableEq, Repr, Inhabited

/-- A cyclic table (R330). -/
structure Cycle where
  frame   : Nat
  guardB  : Nat
  windows : List Window
  deriving DecidableEq, Repr, Inhabited

/-- A swap that waits for its turn (R357): its scope's Pitch, the ring and command that asked, and its start. -/
structure SwapReq where
  pitch : Option Nat := none
  cmd   : Option Nat := none    -- id of the running command, none for a demand or window swap
  start : Nat := 0
  ctx   : Option Nat := none    -- the context whose command asked
  deriving DecidableEq, Repr, Inhabited

/-- A Lot (R29, R317, R322, R329, R332, R354, R420). state 0 FREE, 1 FORMING, 2 ACTIVE, 3 RELEASING. -/
structure Lot where
  x0      : Nat := 0
  y0      : Nat := 0
  width   : Nat := 0
  height  : Nat := 0
  pbase   : Nat := 0
  pcount  : Nat := 0
  state   : Nat := 0
  seat0   : Option Nat := none
  seat1   : Option Nat := none
  fseat   : Nat := 0
  front   : LotShelf := {}
  back    : LotShelf := {}
  bstate  : BState := .empty
  bretain : Bool := false
  promote : Bool := false         -- the back shelf becomes front: the front context was unbound (R320)
  lstat   : Nat := 0
  swaps   : Nat := 0
  beat    : BeatCtl := {}
  stretchNext : Nat := 0          -- STRETCH or issue gap set by the Warden (R420, R421)
  credit  : Nat := 0              -- beat credit (R322)
  swapReq : Option SwapReq := none
  cyc     : Option Cycle := none
  cycNext : Option Cycle := none
  t0      : Option Nat := none    -- frame origin (R332)
  frameNo : Nat := 0
  window  : Option Nat := none    -- index of the present window
  winEnd  : Nat := 0              -- its scheduled end
  winOver : Option Nat := none    -- overrun: cycle by which the Lot is free again (R335)
  winSeat : Nat := 0              -- its seat
  winGuard : Nat := 0             -- its guard band in cycles
  winNext : Nat := 0              -- next window of the frame
  waked   : Bool := false         -- the wake lead of the next window has been asked for
  winIdle : Bool := false
  winHeld  : Bool := false        -- a test has held the window, or the one that is due, since its start (R501)
  waitSince : Option Nat := none  -- since when the back context's command has waited (R329)
  lastBusy : Nat := 0             -- last cycle with a command that occupies the Lot in flight or ready (R409)
  hotSince : Option Nat := none   -- THERMAL_LIMIT's 10 ms (R420)
  hotRaised : Bool := false
  swapTime : Nat := 0             -- last swap
  relAt   : Nat := 0              -- start of the release (R177)
  deriving DecidableEq, Repr, Inhabited

/-- A column shift that waits for its swap (R22, R465). -/
structure Shift where
  die     : Nat
  col     : Nat
  failed  : Nat        -- failed physical row, excluded after the shift
  old     : Nat        -- the old excluded row
  others  : List Nat := []       -- further failed positions, retired when the shift takes effect
  spareAt : Option Nat := none   -- the cycle by which the spare position that a load woke is up (R359)
  deriving DecidableEq, Repr, Inhabited

/-- The logical-to-physical map and its record (R13, R18, R19). -/
structure Grid where
  excl     : Tab Nat := []       -- excluded physical row by 24 * die + column; unlisted 12
  retired  : List Nat := []      -- retired logical blocks, rising
  updates  : Nat := 0
  failed   : List PhysPos := []  -- positions that failed the start-up test of this boot
  swFailed : List PhysPos := []
  spareBad : List Nat := []      -- columns whose excluded position is not an unused spare
  shifts   : List Shift := []
  faultMap : List Nat := []      -- switch fault map: logical blocks whose switch point is faulty (R199)
  deriving DecidableEq, Repr, Inhabited

/-! ## Contexts and the Task Board (chapter 11) -/

/-- Context states (R313). -/
inductive CState where
  | free | defined | bound | faulted
  deriving DecidableEq, Repr, Inhabited

/-- What the event of a fault names beyond FCODE, FUNIT and the order offset. The record of R375 has no room for it, so it is kept
with the context (notes/assumptions/63.md). -/
inductive FaultName where
  | nothing
  | flags (f : Nat)                           -- ARITH_TRAP: the enabled flags that were set (R63)
  | queue (q : Nat)                           -- RECV_TIMEOUT: the queue (R88)
  | line (l : Nat)                            -- BELL_TIMEOUT: the line (R91)
  | port (code row : Nat)                     -- SLOT_STARVED: port and row (R160)
  | send (tag ddev dunit : Nat) (head : Option (Nat × Nat × Nat))   -- SEND_TIMEOUT; head: Stall, queue, tag (R204)
  | access (desc line addr status : Nat)      -- MEM_FAULT of a transfer line (R235)
  | coll (didx peer status : Nat)             -- COLL_FAULT (R289)
  | collWait (didx step rank : Nat)           -- COLL_TIMEOUT (R299)
  deriving DecidableEq, Repr, Inhabited

/-- A context table entry (R313, R314). -/
structure Ctx where
  gen      : Nat := 0
  state    : CState := .free
  cyclic   : Bool := false
  strict   : Bool := false
  rmode    : Nat := 0
  lenient  : Bool := false
  trapen   : Nat := 0
  lot      : Nat := 0
  seat     : Nat := 0
  ring     : Nat := 0
  seed     : W64 := 0
  step     : Nat := 0
  lstep    : Nat := 0             -- step value of its most recent launch (R297)
  colltab  : Nat := 0
  pooldesc : Nat := 0
  flagsum  : BitVec 32 := 0
  ssto     : Nat := 0
  lateth   : Nat := 0
  collto   : Nat := 0
  debt     : Nat := 0
  fcode    : Nat := 0
  funit    : Nat := 0
  fname    : FaultName := .nothing  -- what its latest fault names besides
  deriving DecidableEq, Repr, Inhabited

/-- A task slot (R324): state 0 FREE, 1 PLACED, 2 RUNNING. -/
structure TaskSlot where
  unit  : Nat := 0
  ctx   : Nat := 0
  kind  : Nat := 0
  state : Nat := 0
  crec  : Bool := false
  ttag  : Nat := 0
  step  : Nat := 0
  args  : List W32 := []
  cmd   : Nat := 0            -- the running LAUNCH
  ended : List Nat := []      -- Stalls of a Pitch task that have reached END
  flags : BitVec 32 := 0
  deriving DecidableEq, Repr, Inhabited

/-- Where a context's teardown stands (R339). -/
structure Teardown where
  ctx     : Nat
  started : Nat
  step4   : Bool := false
  deriving DecidableEq, Repr, Inhabited

/-! ## The Porter link (chapter 13) -/

/-- A fetched command entry that has not started. -/
structure Cmd where
  entry : Bytes
  deriving DecidableEq, Repr, Inhabited

/-- A started command that has not completed. aux and aux2 hold what its completion needs. -/
structure RunCmd where
  id    : Nat
  entry : Bytes
  since : Nat
  aux   : Nat := 0
  aux2  : Nat := 0
  deriving DecidableEq, Repr, Inhabited

/-- A record of an event ring that the present cycle has raised (R372): KIND, CODE, STATUS, CTAG and RESULT. -/
structure PRec where
  kind   : Nat
  code   : Nat
  status : Nat
  ctag   : Nat
  res    : Bytes
  deriving DecidableEq, Repr, Inhabited

/-- A command ring and its event ring (R363 to R366, R374). -/
structure PRing where
  live     : Bool := false
  ctx      : Option Nat := none
  ctail    : Nat := 0
  chead    : Nat := 0
  etail    : Nat := 0
  ehead    : Nat := 0
  fetched  : List Cmd := []
  running  : List RunCmd := []
  reserved : Nat := 0
  doomed   : Nat := 0             -- oldest entries that complete with CTX_FAULTED: they waited when FAULT_ACK came (R339)
  pend     : List PRec := []      -- records of the present cycle, which are written in the order of R372 as it ends
  overflow : Bool := false
  dropped  : Nat := 0
  mask     : W64 := 0
  deriving DecidableEq, Repr, Inhabited

/-- A COPY in progress (R370). -/
structure CopyJob where
  ring : Nat
  cmd  : Nat
  dst  : Nat
  src  : Nat
  len  : Nat
  done : Nat := 0
  vc   : Nat := 0
  rot  : Nat := 0
  buf  : Bytes := []
  stopped : Bool := false    -- its context has faulted: the request in flight resolves, and no other follows (R339)
  deriving DecidableEq, Repr, Inhabited

/-- What the device has sent on its ports and links, oldest first. -/
inductive Output where
  | porter (frame : Bytes)                    -- a device-to-host frame
  | lap (src : ReqSrc) (frame : Bytes)        -- a LAP response
  | plant (src : Nat) (dst : Option Nat) (msg : Bytes)  -- a plant message between IPv6 addresses; none is ff02::1
  | ctl (port : Nat) (kind : Nat)             -- a link control flit: 1 DRAIN, 2 ROUTE_CLEAR, 3 LINK_DOWN, 5 retrain
  | flit (port : Nat) (bytes : Bytes)         -- a slot of a port's frame: 280 bytes in wire order (R254)
  | linkRec (port : Nat) (rcd : Bytes)        -- a link-up record sent on a port (R258)
  | probe (port : Nat)                        -- a flight probe (R267)
  | avs (rail mv : Nat)                       -- an AVSBus target voltage written
  | avsRate (rail : Nat)                      -- the AVSBus transition rate written: 1 mV/µs (R417)
  | led (req : Requester) (status : Nat) (data : Bytes)  -- the answer to a Ledger request
  deriving DecidableEq, Repr, Inhabited

/-! ## The Concourse (chapter 8) -/

/-- Who issued a Concourse request, and so who gets its reply. -/
inductive CSrc where
  | xfer (b inst line : Nat)                -- a transfer line
  | coll (uid job k : Nat)                  -- part k of a local job of a collective
  | porterCopy (job : Nat) (off : Nat)      -- a line of a COPY
  | porterAtomic (ring cmd : Nat)           -- MEM_ATOMIC
  | remote (pkt : Nat) (k : Nat)            -- a request that arrived over Elveel, its part k
  | trans (b inst key : Nat)                -- the read of a page map entry that a transfer's translation missed (R244)
  deriving DecidableEq, Repr, Inhabited

/-- The kinds of Concourse request. -/
inductive CKind where
  | read | write | atomic | lineAdd
  deriving DecidableEq, Repr, Inhabited

/-- A Concourse request from its port's grant to its reply (R217, R231). status none: not yet performed. -/
structure CReq where
  id      : Nat
  src     : CSrc
  kind    : CKind
  off     : Nat                    -- local offset
  len     : Nat := 64
  data    : Bytes := []
  timed   : Bool := false
  port    : Nat := 0               -- block port 0-575, or 576 + I/O-die port
  at_     : Nat := 0               -- the cycle in which its port granted it
  eff     : Option Nat := none     -- effective stamp carried
  hold    : Bool := false
  release : Bool := false
  waitHeld : Bool := false
  cls     : LClass := .host        -- requester class for the system area (R216)
  aop     : Nat := 0
  aw      : Bool := false
  op1     : Nat := 0
  op2     : Nat := 0
  afmt    : Nat := 0
  stage   : Nat := 0               -- 0 at its port, 1 in the network, 2 at its slice or Chest window (R219)
  came    : Nat := 0               -- the cycle in which it arrived there (R231)
  missAt  : Option Nat := none     -- of a pooled line whose translation missed: the grant of that read (R223)
  arrived : Bool := false          -- its row request in a Chest is pending
  doneAt  : Nat := 0               -- the cycle in which it was performed or refused
  left    : Bool := false          -- the data that its Chest window gave has passed that block's port (R217)
  status  : Option Nat := none
  result  : Bytes := []
  flags   : BitVec 32 := 0
  deriving DecidableEq, Repr, Inhabited

/-- A pending or recent read at a slice, for merging (R232). -/
structure SliceRead where
  line  : Nat
  at_   : Nat
  timed : Bool
  bad   : Bool := false    -- it failed with MEM_UE
  deriving DecidableEq, Repr, Inhabited

/-- A soft repair in progress in an HBM slice (R474). -/
structure Repair where
  slice   : Nat
  row     : Nat        -- first line of the row
  started : Nat
  deriving DecidableEq, Repr, Inhabited

/-- The Concourse and the memory tiers. -/
structure Conc where
  reqs    : List CReq := []
  nextId  : Nat := 0
  reads   : Tab (List SliceRead) := []   -- by slice; LPDDR5X slice k is 128 + k
  window  : Tab (List Nat) := []         -- grant cycles of the timed accesses of the last 420 cycles, by slice (R224)
  poison  : List Nat := []               -- poisoned HBM lines, by local offset (R237)
  lpGiB   : Nat := 0                     -- installed capacity; 0 while the tier is absent (R215, R239)
  corr24  : Tab (List Nat) := []         -- times of corrected symbols by HBM row, for the 24 h of R474
  repairs : List Repair := []
  noSpare : List Nat := []               -- rows found with no spare left
  withdrawn : List Nat := []             -- pool frames to withdraw when next freed (R474)
  trainSrc : Nat := 0                    -- TRAINSRC (R448)
  patrolAt : Tab Nat := []               -- next patrol line by slice (R237)
  turns   : Tab (Nat × Nat) := []        -- arbitration points (R219): prior grants since a lower VC was last served, last port + 1
  sent    : Tab Nat := []                -- by block port and direction: the cycle of its latest data flit, plus 1 (R217)
  severity : Tab Nat := []               -- severity reports of the stacks' on-die ECC, by slice (R236)
  softRows : List Nat := []              -- rows under soft repair, until the next cold boot (R236, R474)
  hardRows : List Nat := []              -- rows that hard repair has replaced for good (R236)
  deriving DecidableEq, Repr, Inhabited

/-- The page pool (R241 to R246): frames in use by tier, and each context's reserve. -/
structure Pool where
  usedH   : List Nat := []
  usedL   : List Nat := []
  reserve : Tab (List Nat) := []     -- by context
  commits : List (Nat × Nat) := []   -- (ring, command id) of commits waiting, oldest first (R338)
  busy    : Option (Nat × Nat × Nat) := none   -- the commit that the engine has taken: ring, command id, context (R337)
  deriving DecidableEq, Repr, Inhabited

/-! ## Elveel (chapter 9) -/

/-- A port's state (R257, R259, R449). -/
inductive PState where
  | down | training | up | mgmtOnly | loop | failed | retraining
  deriving DecidableEq, Repr, Inhabited

/-- A data flit of a port (R255, R261), as it stands in the replay buffer. -/
structure TFlit where
  seq     : Nat
  vc      : Nat
  cls     : Nat
  sop     : Nat
  svalid  : Nat
  payload : Bytes
  deriving DecidableEq, Repr, Inhabited

/-- A packet that waits at an output port for its VC and class (R261): the bytes that have not left, whether some have, and for one in
transit the input port, its 2 * VC + class and the credits that it holds there. -/
structure TxPkt where
  bytes   : Bytes
  started : Bool := false
  from_   : Option (Nat × Nat × Nat) := none
  deriving DecidableEq, Repr, Inhabited

/-- A packet that a port has received, or is receiving: the credits of its flits, and for one in transit the candidate that its first
flit chose (R272). -/
structure RxPkt where
  vc      : Nat
  cls     : Nat
  bytes   : Bytes
  credits : Nat := 0
  cand    : Option (Nat × Bool) := none
  deriving DecidableEq, Repr, Inhabited

/-- Where the arbitration of an output port stands (R264): which of VC 2 and 3, of VC 4 and 5, and of the classes left last, and the data
slots that VC 6 and the bulk have waited. -/
structure PortArb where
  last23  : Nat := 3
  last45  : Nat := 5
  lastCls : Nat := 1
  wait6   : Nat := 0
  waitB   : Nat := 0
  deriving DecidableEq, Repr, Inhabited

/-- An Elveel port. -/
structure EPort where
  st       : PState := .down
  phase    : Nat := 0
  phaseAt  : Nat := 0
  failedAt : Nat := 0                 -- when it failed, or when its present retrain started
  dark     : Bool := false            -- its laser input is below threshold (R253)
  peerDev  : Nat := 0
  peerInc  : Nat := 0
  peerIdent : W64 := 0
  peerLoc  : Nat := 0
  peerGen  : Nat := 0
  peerDraining : Bool := false
  genSel   : Nat := 0
  records  : Nat := 0                 -- link-up records received in this training
  flight   : Nat := 0                 -- R267
  uncorr   : Nat := 0                 -- uncorrectable flits of the present 1 ms
  uncorrAt : Nat := 0
  rxSeq    : Nat := 4095              -- highest data-flit SEQ received in order
  txSeq    : Nat := 0                 -- next data-flit SEQ
  replay   : List TFlit := []         -- data flits sent and not acknowledged, oldest first (R256)
  again    : List Nat := []           -- SEQs to send again after a NAK
  nak      : Bool := false            -- the next flit carries NAK
  tx       : Tab (List TxPkt) := []   -- packets to send, by 2 * VC + class
  arb      : PortArb := {}
  rx       : List RxPkt := []         -- received packets waiting for the router
  part     : Tab (Option RxPkt) := [] -- packets not wholly received, by 2 * VC + class
  due      : Tab Nat := []            -- credits to return to the peer, by 2 * VC + class (R255)
  rep      : List Nat := []           -- link control flits that are repeated until answered (R256): 0 link-up record, 1 DRAIN
  outst    : Tab Nat := []            -- downstream credits outstanding by 2 * VC + class (R269)
  routeClear : Bool := false          -- ROUTE_CLEAR received (R283)
  recent   : List Nat := []           -- cycles of the flits of VC 0-3 sent in the last 40 ns (R265)
  full     : Tab Nat := []            -- credits that the peer's buffers gave in phase 6, by 2 * VC + class (R257)
  deriving DecidableEq, Repr, Inhabited

/-- A peer table entry as cached (R274, R275). state 0 ABSENT, 1 UP, 2 DRAINING, 3 DOWN. -/
structure Peer where
  state : Nat
  pin   : Bool
  dinc  : Nat
  memr  : Bool
  memw  : Bool
  atom  : Bool
  unit  : Bool
  bell  : Bool
  ledger : Bool
  ident : W64
  loc   : Nat
  deriving DecidableEq, Repr, Inhabited

/-- An Elveel packet that the device itself forms (R260). -/
structure EPkt where
  op      : Nat := 0
  flags   : Nat := 0
  ddev    : Nat := 0
  sdev    : Nat := 0
  dinc    : Nat := 0
  sinc    : Nat := 0
  tid     : Nat := 0
  len     : Nat := 0
  aop     : Nat := 0
  stamp   : Nat := 0
  hops    : Nat := 0
  flow    : Nat := 0
  addr    : Nat := 0
  aux     : Nat := 0
  payload : Bytes := []
  deriving DecidableEq, Repr, Inhabited

/-- Who waits for a remote transaction (R280). -/
inductive TxnSrc where
  | conc (src : CSrc)          -- completes as the reply of that request
  | epiSend (stall b u bell : Nat)    -- a row of an epilogue SEND with PATH 01 (R138)
  | collPut (uid piece : Nat)
  | collSig (uid piece : Nat)  -- a signal of a piece
  | collCredit (uid : Nat)
  | collAbort
  | clerk (n : Nat)
  | mgmt (n : Nat)
  | none
  deriving DecidableEq, Repr, Inhabited

/-- A request waiting at its source's router (R275, R277, R280). -/
structure OutReq where
  id   : Nat
  pkt  : EPkt
  src  : TxnSrc
  at_  : Nat
  runner : Option RPkt := none     -- a RUNNER's packet
  port : Option Nat := none        -- the port that a reply to a MGMT_ONLY peer leaves on
  deriving DecidableEq, Repr, Inhabited

/-- A transaction entry (R280). -/
structure Txn where
  tid  : Nat
  at_  : Nat
  sinc : Nat
  ddev : Nat
  op   : Nat
  src  : TxnSrc
  req  : Nat := 0              -- id of the request at the router
  late : Option Nat := none    -- of a timed access: the cycle of its bound (R266)
  deriving DecidableEq, Repr, Inhabited

/-- A request that arrived from a peer and is being served (R277). -/
structure Served where
  id     : Nat
  pkt    : EPkt
  parts  : Nat                    -- Concourse requests outstanding
  status : Nat := 0
  data   : Tab Bytes := []        -- reply bytes by part
  flags   : BitVec 32 := 0
  own     : Option TxnSrc := none  -- a request of the device's own to a local address (R249)
  deriving DecidableEq, Repr, Inhabited

/-- The draining of a device (R283). -/
inductive Drain where
  | no | draining | drained
  deriving DecidableEq, Repr, Inhabited

/-- The Elveel router, its tables and ports. -/
structure Elveel where
  ports    : Tab EPort := []
  routes   : Tab (BitVec 32) := []        -- route table (R268)
  cache    : List (Nat × Peer) := []      -- peer cache, least recently used first (R275)
  fills    : List (Nat × Bool) := []      -- fills in progress: device, and whether to read again (R276)
  outq     : List OutReq := []
  nextOut  : Nat := 0
  txns     : List Txn := []
  reuse    : Tab Nat := []                -- TID reuse counts
  served   : List Served := []
  nextSrv  : Nat := 0
  drain    : Drain := .no
  drainCmd : Option Nat := none           -- the DRAIN command that waits
  undrainCmd : Option Nat := none
  lastTransit : Nat := 0
  inc      : Nat := 0                     -- device incarnation (R281)
  devnum   : Nat := 0x3FFF                -- device number in use (R449)
  sendIds  : List ((Nat × Nat × Nat) × Option Nat) := []   -- PUTs of an epilogue SEND, by Stall, ticket and record: outstanding, or failed (R138)
  bellWait : List (List Nat × EPkt) := [] -- bells that wait for the COMP of these requests (R279)
  deriving DecidableEq, Repr, Inhabited

/-! ## The collective engine (chapter 10) -/

/-- Where the bytes of a piece lie: at a local offset, in lines of a destination walk (buffer 0 or 1, first line), or in the
result of a chunk. -/
inductive PLoc where
  | mem (off : Nat)
  | walk (buf first : Nat)
  | result (chunk : Nat)
  deriving DecidableEq, Repr, Inhabited

/-- A piece of a collective's schedule that this member sends (R296): to a rank, with the signal word it advances, what it waits
for, and where it stands. -/
structure Piece where
  rank    : Nat
  src     : PLoc
  dst     : PLoc
  bytes   : Nat
  sigWord : Nat
  eff     : Nat := 0                     -- effective stamp, 0 for none
  needP   : Option (Nat × Nat) := none   -- (chunk, level) that region P must hold
  needR   : Bool := false                -- the own chunk's result must stand
  credit  : Nat := 0                     -- CREDIT needed
  data    : Nat := 0                     -- DATA needed
  creditTo : Option Nat := none          -- rank whose CREDIT grows after the COMPs
  state   : Nat := 0                     -- 0 waiting, 1 PUTs out, 2 all COMPs in, 3 signal out, 4 done
  left    : Nat := 0                     -- COMPs outstanding
  since   : Option Nat := none           -- the start of its present wait for CREDIT or DATA (R299, R311)
  deriving DecidableEq, Repr, Inhabited

/-- What the engine reads or writes local memory for. -/
inductive CollOp where
  | source                                                  -- reads the source, for region P (R297)
  | input                                                   -- writes it there
  | own                                                     -- reads the source chunk that stays here (R306)
  | dest                                                    -- writes it to the destination
  | stage (m : Nat)                                         -- a PERMUTE leader reads segment m of its shard (R310)
  | staged (m : Nat)                                        -- and writes it to the stage
  | piece (i : Nat)                                         -- reads the bytes of piece i
  | result                                                  -- reads the own chunk of region P, for the conversion (R300)
  | stored                                                  -- writes it to the destination
  | operands (c : Nat) (have_ : List (Nat × Nat)) (credit : Bool)   -- reads the operands of an add to chunk c (R300, R302)
  | sum (c : Nat) (have_ : List (Nat × Nat)) (credit : Bool)        -- writes their sum
  | row (chunk : Nat)                                       -- writes a contribution row into region P (R304)
  deriving DecidableEq, Repr, Inhabited

/-- A local job of a collective: what for, the Concourse replies outstanding, and the data of its reads by part. -/
structure CollJob where
  id   : Nat
  op   : CollOp
  left : Nat
  data : Tab Bytes := []
  deriving DecidableEq, Repr, Inhabited

/-- An active collective (R287, R297). -/
structure Coll where
  uid     : Nat                  -- names its requests
  ctx     : Nat
  didx    : Nat
  desc    : Bytes
  step    : Nat
  started : Nat
  limit   : Nat := 0             -- the collective timeout in force at its start, in cycles (R299, R315)
  trapen  : Nat := 0             -- the trap enables in force at its start (R63, R315)
  group   : List Nat := []       -- device number by rank
  sends   : List Piece := []
  feeder  : Nat := 0             -- the rank whose pieces it receives (R302, R308, R310)
  used    : Tab Nat := []        -- pieces consumed, by signal word
  lastIn  : Tab Nat := []        -- the cycle of the latest consumption, by signal word (R299)
  left_   : Nat := 0             -- pieces that the left neighbour has signalled on DATA, those at the start among them (R302)
  ringIn  : Nat := 0             -- ring steps consumed (R302)
  jobs    : List CollJob := []   -- local jobs that are not over (R287)
  nextJob : Nat := 0
  rowsIn  : Tab Nat := []        -- rows received, by chunk (R304)
  have_   : List (Nat × Nat) := []   -- (chunk, level) partials that region P has held
  done_   : Bool := false        -- its own result stands in the destination
  flags   : BitVec 32 := 0
  ctrls   : List Nat := []       -- global addresses of the other members' CTRL words (R299)
  deriving DecidableEq, Repr, Inhabited

/-- A row in the inbox of the collective engine, handed to it by an epilogue (R304, R305). -/
structure CRow where
  ctx   : Nat
  didx  : Nat
  row   : Nat      -- row coordinate
  col   : Nat      -- column coordinate
  fmt   : Nat
  data  : Bytes
  job   : Option Nat := none   -- the job that writes it into region P
  deriving DecidableEq, Repr, Inhabited

/-- The collective engine. -/
structure CollEng where
  active  : Tab Coll := []                 -- by slot 0-63
  waiting : List (Nat × Nat × Nat × Option (Nat × Nat)) := []   -- starts waiting for a slot: context, index, step, command
  rows    : List CRow := []
  latches : List (Nat × Nat) := []         -- (context, index) of armed TRIG 01 descriptors whose line has rung
  again   : List (Nat × Nat) := []         -- of those, the ones whose line rang again in the present cycle (R91)
  dying   : List (Nat × Nat) := []         -- (uid, context) of collectives that a fault ended, until the teardown is done (R339)
  deriving DecidableEq, Repr, Inhabited

/-! ## Boot, flash, identity and attestation (chapter 14) -/

/-- What a finished flash operation still has to do (R380). -/
inductive FlashThen where
  | nothing
  | answer (req : Requester) (index sub : Nat)            -- answer a Ledger write with OK
  | setEntry (req : Requester) (index sub value : Nat)    -- set an RWP entry, then answer
  | recoveryErased (req : Requester)
  | recoveryCheck (req : Requester)
  | lmsLimit (limit : Nat) (msg : Bytes)                  -- a reservation record has been written (R397) for a request
  | trialCleared
  | prefSet (req : Requester) (slot : Nat)                -- the boot record prefers a slot that a recovery has filled (R389)
  deriving DecidableEq, Repr, Inhabited

/-- A flash operation: ranges to erase, then bytes to program (R380). -/
structure FlashOp where
  erase : List (Nat × Nat)
  prog  : List (Nat × Bytes)
  andThen : FlashThen
  deriving DecidableEq, Repr, Inhabited

/-- The status of one boot source in the boot report (R387). -/
structure BootStat where
  status  : Nat := 0x0E
  detail  : Nat := 0
  svn     : Nat := 0
  version : Nat := 0
  deriving DecidableEq, Repr, Inhabited

/-- An open recovery (R389). -/
structure Recovery where
  slot    : Nat
  total   : Nat
  chunks  : List (Nat × Nat)     -- (offset, length) written
  last    : Nat
  erased  : Bool := false
  checking : Bool := false
  deriving DecidableEq, Repr, Inhabited

/-- Boot, identity and attestation. -/
structure Boot where
  flashUsable : Bool := false
  flashOctal  : Bool := false
  flashFail   : Nat := 0         -- reads of the boot sources that fail, as AonEnv numbers them
  flashOps    : List FlashOp := []      -- accepted and not finished, oldest first
  report      : List BootStat := []     -- slot A, slot B, golden
  booted      : Option Nat := none
  trialBoot   : Bool := false
  safe        : Bool := false           -- the safe state (R388)
  fwRun       : Bool := false           -- a firmware image has started
  romPending  : Bool := false           -- the ROM waits to start (R490)
  pufOffAt    : Option Nat := none      -- the PUF array is off since then
  pufTries    : Nat := 0
  k           : Option Bytes := none    -- the seed K in the key store
  failStep    : Nat := 0                -- bring-up step that failed (R406)
  header      : Bytes := []             -- verified image header kept in Warden SRAM (R385)
  imageDig    : Bytes := []             -- the digest that the booted image's signatures cover (R400)
  running     : Tab Bytes := []         -- digests of the running components, by TYPE
  liveUpdated : Bool := false
  ownerCert   : Bytes := []             -- owner certificate in force (R391), empty for none
  minver      : Bytes := []             -- minimum-version record in force (R392)
  recovery    : Option Recovery := none
  recStatus   : Nat := 0
  lmsNext     : Nat := 0
  lmsLimit    : Nat := 0
  lmsLost     : Bool := true
  lmsTrees    : List Nat := []          -- second-level trees complete in the buffers
  allowance   : Nat := 64
  allowAt     : Nat := 0
  spdmVersion : Bool := false
  spdmAlgs    : Bool := false
  spdmCaps    : Bool := false
  spdmA       : Bytes := []             -- transcript of the version, capabilities and algorithms exchanges (R399)
  spdmB       : Bytes := []             -- transcript of the digest and certificate exchanges
  spdmL       : Bytes := []             -- transcript of the measurement exchanges since the last signature
  deriving DecidableEq, Repr, Inhabited

/-! ## Power, the Warden and the plant (chapters 15, 18) -/

/-- Where bring-up stands (R406). -/
inductive Bring where
  | none | rails | map | train | done
  deriving DecidableEq, Repr, Inhabited

/-- Pins, rails and resets. -/
structure Power where
  dstate    : DState := .off
  aonPwrok  : Bool := false
  resetL    : Bool := true
  bring     : Bring := .none
  pwrEn     : List Bool := List.replicate 12 false
  pwrPg     : List Bool := List.replicate 12 false
  stage     : Nat := 0                 -- last stage raised, 1-10; 0 none
  stageAt   : Nat := 0                 -- its last power-good
  enAt      : Nat := 0                 -- the cycle in which its enables rose, or in which the last stage's fell
  lowering  : Bool := false
  mainStart : Option Nat := none       -- first cycle of the main clock (R403)
  trayslot  : Nat := 0
  testMode  : Bool := false
  thermTrip : Bool := false            -- THERMTRIP_L is low
  alert     : Bool := false            -- ALERT_L low since a trip or rail fault
  rwsTrip   : Option (Nat × Nat × Nat) := none   -- RWS cells: sensor group, sensor, reading (R491)
  wpLow     : Bool := false            -- FL_WP_L held low over the golden region (R378)
  lpReset   : Bool := true             -- LPpp_RESET_L low (R485)
  pendTrip  : Option (Nat × Nat × Nat) := none   -- THERMAL_TRIP to raise at the next D-READY
  pendRail  : Option (Nat × Nat × Nat) := none   -- RAIL_FAULT to raise then: bus, rail, status
  deriving DecidableEq, Repr, Inhabited

/-- A wake request (R412). cost in mA. -/
structure WakeReq where
  b      : Nat
  isBank : Bool
  banks  : List (Nat × Nat) := []   -- (Chest of the block, bank)
  cls    : Nat
  cost   : Nat
  spare  : Option Nat := none       -- 24 × die + column: the request is for that column's spare position (R359)
  deriving DecidableEq, Repr, Inhabited

/-- A rail governor (R414). Amounts in mA. -/
structure Gov where
  queue    : List WakeReq := []
  bucket   : Nat := 0
  hint     : Bool := false
  hintAt   : Nat := 0
  lastAdm  : Nat := 0
  deriving DecidableEq, Repr, Inhabited

/-- An AVSBus rail (R417, R418). -/
structure Rail where
  setMv   : Nat := 0
  baseMv  : Nat := 0
  curMa   : Nat := 0
  temp    : Nat := 0
  warn    : Bool := false
  trimAt  : Option Nat := none
  curAt   : Option Nat := none
  tempAt  : Option Nat := none
  deriving DecidableEq, Repr, Inhabited

/-- A valid PLANT_STATUS (R425). -/
structure Plant where
  (tin tout flow flowmax state : Nat)
  deriving DecidableEq, Repr, Inhabited

/-- The latest forecast (R424, R426). Powers in W, temperatures in 1/16 C, flows in mL/min. -/
structure Fore where
  (pnow p1s p10s pmax10 tj tj10 flowreq tinmax dstate flags : Nat)
  deriving DecidableEq, Repr, Inhabited

/-- The Warden. -/
structure Warden where
  gov0     : Gov := {}
  gov1     : Gov := {}
  govAt    : Nat := 0
  rails    : Tab Rail := []          -- 0 VCORE0, 1 VCORE1, 2 VSRAM0, 3 VSRAM1, 4 VIOD, 5 VOE
  sensors  : Tab Nat := []           -- readings by 1,024 * group + sensor, 1/16 C
  sampled  : Tab Nat := []           -- last sample by group
  stretchAt : Nat := 0
  plca     : Bool := true
  beaconAt : Nat := 0
  plantSrc : Option Nat := none
  plant    : Option Plant := none
  plantAt  : Nat := 0
  plantLost : Bool := false
  plantLim : Bool := false
  lowSince : Option Nat := none      -- FLOW below 90 % of FLOWREQ since then
  okSince  : Option Nat := none
  capPlant : Option Nat := none      -- plant cap in W
  seqOut   : Nat := 0
  fore     : Fore := ⟨0, 0, 0, 0, 0, 0, 0, 0, 0, 0⟩
  foreAt   : Nat := 0
  sentFore : Option Fore := none
  sentAt   : Nat := 0
  td0      : Rat := 0                -- thermal model t_d
  td1      : Rat := 0
  laserLow : List Nat := []          -- laser inputs below threshold
  laserAt  : Nat := 0
  powers   : List (Nat × Nat) := []  -- (cycle, mW) package power samples of the last 1 ms
  deriving DecidableEq, Repr, Inhabited

/-! ## The Ledger, errors and service (chapters 16, 17) -/

/-- A response the Ledger keeps for a source (R442). -/
structure LapKept where
  seq  : Nat
  at_  : Nat
  resp : Bytes
  deriving DecidableEq, Repr, Inhabited

/-- An open write staging (R442). -/
structure Staging where
  src   : ReqSrc
  index : Nat
  sub   : Nat
  bytes : Bytes
  last  : Nat
  deriving DecidableEq, Repr, Inhabited

/-- A fault log record (R452, R455). -/
structure LogRec where
  seq     : Nat
  persist : Bool := false
  inc     : Nat := 0
  time    : Nat := 0
  ekind   : Nat := 0
  uclass  : Nat := 0
  outcome : Nat := 0
  unit    : Nat := 0
  ctx     : Nat := 0xFFFF
  fcode   : Nat := 0
  testId  : Nat := 0
  tcount  : Nat := 0
  halt    : Nat := 0
  detail  : W64 := 0
  addr    : Nat := 0
  deriving DecidableEq, Repr, Inhabited

/-- A Ledger request whose answer waits for its act (R442), with the MGMT packet that carried it and the port that its answer leaves
on. -/
structure Asked where
  req    : Requester
  offset : Nat := 0
  pkt    : EPkt := {}
  port   : Option Nat := none
  deriving DecidableEq, Repr, Inhabited

/-- The Ledger: RW and RWP values by 256 * index + subindex (unlisted reads as the default in force), LAP state and
the fault log. -/
structure Ledger where
  vals    : Tab Nat := []
  defaults : Tab Nat := []             -- replaced defaults (R437)
  jseq    : Nat := 0                   -- SEQ of the last journal record
  jhalf   : Nat := 0
  jpos    : Nat := 0                   -- next free byte of the active half
  kept    : List (ReqSrc × List LapKept) := []   -- least recently heard first
  staging : List Staging := []
  asked   : List Asked := []
  log     : List LogRec := []          -- oldest first, at most 256
  logSeq  : Nat := 0
  deriving DecidableEq, Repr, Inhabited

/-- A targeted test (R460, R461): the unit by class and number, the log record, and where it stands. -/
structure UTest where
  id      : Nat
  uclass  : Nat
  unit    : Nat
  ekind   : Nat
  logSeq  : Nat
  ctxs    : List Nat               -- contexts whose teardown step 4 it waits for
  mapped  : Bool := false          -- it has set the block's bit in the switch fault map for its time (R459)
  running : Bool := false
  started : Nat := 0
  addr    : Nat := 0
  deriving DecidableEq, Repr, Inhabited

/-- A Clerk (R471, R472, R475). -/
structure Clerk where
  up      : Bool := true
  newFw   : Bool := false
  wdtAt   : Nat := 0
  testAt  : Nat := 0
  deriving DecidableEq, Repr, Inhabited

/-- Errors, tests and service. -/
structure Service where
  tests   : List UTest := []
  nextId  : Nat := 0
  trans   : List (Nat × Nat × Nat) := []   -- transient outcomes: class, unit, time (R460)
  corr1s  : List (Nat × Nat × Nat) := []   -- class-C errors: class, unit, time (R453)
  clerks  : Tab Clerk := []                -- unlisted: in service
  home    : Tab Nat := []                  -- home Clerk of a bound context (R472)
  update  : Option Nat := none             -- live update in progress: next Clerk
  updSlot : Nat := 0
  fenced  : List (Nat × Nat) := []         -- fenced units other than blocks: class, unit (R460)
  scrubAt : Nat := 0                       -- start of the present scrub pass
  scrubFix : Nat := 0                      -- minority copies rewritten (R469)
  scrubCorr : Tab Nat := []                -- corrected words by block
  scrubCheckAt : Nat := 0
  linkCorr : Tab Nat := []
  deriving DecidableEq, Repr, Inhabited

/-- What a Trestle core is doing (R458). -/
inductive TStat where
  | run
  | waitMsg (since : Nat)
  | waitTest (since : Nat)
  | waitUntil (cycle : Nat)
  | halted (code : Nat)
  deriving DecidableEq, Repr, Inhabited

/-- A Trestle core (R458). -/
structure Trestle where
  regs  : Tab W32 := []
  prog  : Tab W32 := []
  pc    : Nat := 0
  queue : List Msg := []
  stat  : TStat := .halted 0
  ranAt : Option Nat := none     -- the cycle of its latest order
  deriving DecidableEq, Repr, Inhabited

/-- The JTAG port (R495). -/
structure Jtag where
  ir       : Nat := 0xFF          -- the instruction register
  bypass   : Bool := true         -- the one-bit bypass stands between TDI and TDO
  driving  : Bool := false        -- the boundary cells drive the lands
  cells    : List Bool := []      -- boundary cells as loaded
  captured : List Bool := []      -- what the latest capture found on the lands; empty with none
  deriving DecidableEq, Repr, Inhabited

/-! ## The whole block -/

/-- Everything the manual gives the device, the boundary-scan port apart: that port is driven by its own pins alone
and nothing but its own commands reads or changes it (R495). -/
structure Dev where
  now      : Nat := 0               -- periods of the main clock since power was first applied
  freeCount : Nat := 0              -- the model's own: draws of Config.freeValue so far
  mem      : Memory := []           -- HBM3E, LPDDR5X and the Chest windows, by local offset (R215)
  tiles    : Memory := []           -- tile registers, by 32,768 * Stall + 4,096 * tile + byte (R73)
  sidecars : Memory := []           -- scale sidecars, by 2,048 * Stall + 256 * tile + byte (R74)
  flash    : Memory := []           -- boot flash, by flash offset (R378)
  counters : Tab Nat := []          -- 48-bit counters, by record, item and word (R451)
  bumped   : Tab Nat := []          -- what counters have gained in the present cycle (R439)
  flagged  : Tab Nat := []          -- flags that have joined contexts' summaries in the present cycle (R62, R439)
  stalls   : Tab Stall := []
  chests   : Tab Chest := []
  blocks   : Tab Block := []
  lots     : Tab Lot := []
  ctxs     : Tab Ctx := []
  tasks    : Tab TaskSlot := []
  grid     : Grid := {}
  flights  : List Flight := []
  credits  : List CreditFlight := []
  bells    : List Ring := []
  rang     : BitVec 32 := 0         -- lines whose ring arrived in the present cycle (R91, R206)
  nextId   : Nat := 0               -- ids of flights, commands and units
  teardowns : List Teardown := []
  rings    : Tab PRing := []
  placed   : Nat × Nat := (0, 0)   -- the latest placement of a tile task: cycle and context (R324)
  porterUp : Bool := false
  porterLossAt : Nat := 0
  loadQ    : List (Nat × Nat) := [] -- accepted loads, oldest first: ring, command (R351)
  loading  : Option (Nat × Nat) := none   -- the load that occupies the loader
  copies   : Tab CopyJob := []
  conc     : Conc := {}
  pool     : Pool := {}
  elveel   : Elveel := {}
  coll     : CollEng := {}
  boot     : Boot := {}
  power    : Power := {}
  warden   : Warden := {}
  ledger   : Ledger := {}
  service  : Service := {}
  trestles : Tab Trestle := []
  early    : List (Nat × Bytes) := []   -- events of bring-up, for the management ring that D-READY makes (R363)
  out      : List Output := []
  deriving DecidableEq, Repr, Inhabited

/-- The state of the block: the device, its boundary-scan port, and the commands that wait. -/
structure State where
  pending  : List Instr := []       -- waiting commands, first in first out
  jtag     : Jtag := {}
  dev      : Dev := {}
  deriving DecidableEq, Repr, Inhabited

/-- The block right after reset: power absent, AON_PWROK low, flash erased, every memory empty, every counter 0. -/
def State.reset : State := {}

end Sys2Proof.Machine
end

