-- ==== Sys2Proof/Machine/Ops.lean ====
section
/-! DEFINITION. The named operations over the state: sparse arrays and byte memories in canonical form, fields of words
and byte strings, the CRC, the clock and the accessors of the units. Every sparse array and every memory is read and
written through these alone. -/
namespace Sys2Proof.Machine

/-! ## Sparse arrays -/

/-- The value at an index; d is what an unlisted index reads as. -/
def look {α : Type} (d : α) : List (Nat × α) → Nat → α
  | [], _ => d
  | (k, v) :: r, i => if i = k then v else if i < k then d else look d r i

/-- The entries from the first whose index is above i on. -/
def past {α : Type} : List (Nat × α) → Nat → List (Nat × α)
  | [], _ => []
  | (k, w) :: r, i => if k ≤ i then past r i else (k, w) :: r

/-- Set the value at an index, keeping the canonical form: indices rising, no entry equal to d. -/
def put {α : Type} [DecidableEq α] (d : α) : List (Nat × α) → Nat → α → List (Nat × α)
  | [], i, v => if v = d then [] else [(i, v)]
  | (k, w) :: r, i, v =>
    if i < k then (if v = d then (k, w) :: r else (i, v) :: (k, w) :: r)
    else if i = k then (if v = d then past r i else (i, v) :: r)
    else (k, w) :: put d r i v

/-- The canonical form: indices strictly rising from lo on, no entry equal to d. -/
def canonFrom {α : Type} [DecidableEq α] (d : α) : Nat → List (Nat × α) → Bool
  | _, [] => true
  | lo, (k, v) :: r => decide (lo ≤ k) && !decide (v = d) && canonFrom d (k + 1) r

/-- The canonical form of a sparse array whose unlisted indices read as d. -/
def canon {α : Type} [DecidableEq α] (d : α) (t : List (Nat × α)) : Bool := canonFrom d 0 t

variable {α : Type}

/-- Read a sparse array whose unlisted indices read as the type's default. -/
def Tab.get [Inhabited α] (t : Tab α) (i : Nat) : α := look default t i
/-- Write a sparse array whose unlisted indices read as the type's default. -/
def Tab.set [Inhabited α] [DecidableEq α] (t : Tab α) (i : Nat) (v : α) : Tab α := put default t i v
/-- Change one entry of a sparse array. -/
def Tab.mod [Inhabited α] [DecidableEq α] (t : Tab α) (i : Nat) (f : α → α) : Tab α := t.set i (f (t.get i))
/-- A sparse array from a list, from index i on. -/
def Tab.ofList [Inhabited α] [DecidableEq α] (i : Nat) : List α → Tab α
  | [] => []
  | v :: r => Tab.set (Tab.ofList (i + 1) r) i v

/-! ## Byte memories -/

/-- The canonical form of a byte memory whose unlisted addresses read as d. -/
def Memory.wf (d : Byte) (m : Memory) : Bool := canon d m

/-- The bytes at consecutive addresses. -/
def memRead (d : Byte) (m : Memory) (a : Nat) : Nat → Bytes
  | 0 => []
  | n + 1 => look d m a :: memRead d m (a + 1) n

/-- Write bytes at consecutive addresses, the first first. -/
def memWrite (d : Byte) (m : Memory) (a : Nat) : Bytes → Memory
  | [] => m
  | b :: r => memWrite d (put d m a b) (a + 1) r

/-- Write listed bytes. -/
def memPuts (d : Byte) (m : Memory) : List (Nat × Byte) → Memory
  | [] => m
  | (a, b) :: r => memPuts d (put d m a b) r

/-- Set every byte of a range to what an unlisted address reads as. -/
def memDrop (m : Memory) (a n : Nat) : Memory := m.filter fun c => !(decide (a ≤ c.1) && decide (c.1 < a + n))

/-! ## Fields of words and of byte strings -/

/-- Bits [hi:lo] of a word. -/
def bits (v hi lo : Nat) : Nat := v / 2 ^ lo % 2 ^ (hi + 1 - lo)
/-- Bit i of a word. -/
def bit (v i : Nat) : Bool := v / 2 ^ i % 2 = 1
/-- 1 for true. -/
def b2n (b : Bool) : Nat := if b then 1 else 0
/-- An n-bit field read as two's complement. -/
def sgn (n v : Nat) : Int := if v < 2 ^ (n - 1) then v else (v : Int) - 2 ^ n
/-- An integer as an n-bit two's complement field. -/
def toBits (n : Nat) (v : Int) : Nat := (v % (2 ^ n : Int)).toNat

/-- The value of bytes, the first least significant (R9). -/
def leVal : Bytes → Nat
  | [] => 0
  | b :: r => b.toNat + 256 * leVal r
/-- The n low bytes of a value, the least significant first (R9). -/
def leBytes : Nat → Nat → Bytes
  | 0, _ => []
  | n + 1, v => BitVec.ofNat 8 v :: leBytes n (v / 256)
/-- n bytes of a string from offset o; bytes past its end read as zero. -/
def sub (bs : Bytes) (o n : Nat) : Bytes := let x := (bs.drop o).take n; x ++ List.replicate (n - x.length) 0
/-- The value of n bytes of a string from offset o. -/
def fld (bs : Bytes) (o n : Nat) : Nat := leVal (sub bs o n)
/-- Byte o of a string. -/
def byte (bs : Bytes) (o : Nat) : Nat := fld bs o 1
/-- Whether n bytes from offset o are all zero. -/
def zeroAt (bs : Bytes) (o n : Nat) : Bool := (sub bs o n).all (· == 0)
/-- n zero bytes. -/
def zeros (n : Nat) : Bytes := List.replicate n 0
/-- A byte string laid out from (offset, width, value) fields over zeros. -/
def layout (n : Nat) (fs : List (Nat × Nat × Nat)) : Bytes :=
  fs.foldl (fun acc f => acc.take f.1 ++ leBytes f.2.1 f.2.2 ++ acc.drop (f.1 + f.2.1)) (zeros n)
/-- Put bytes into a string at offset o. -/
def splice (bs : Bytes) (o : Nat) (new : Bytes) : Bytes := bs.take o ++ new ++ bs.drop (o + new.length)
/-- The bytes of an ASCII or UTF-8 string. -/
def strBytes (s : String) : Bytes := s.toUTF8.toList.map fun b => BitVec.ofNat 8 b.toNat
/-- Bytes from numbers. -/
def bytesOf (l : List Nat) : Bytes := l.map (BitVec.ofNat 8)
/-- The bytes of a row, byte 0 in bits [7:0] (R9). -/
def rowBytes (r : Row) : Bytes := leBytes 64 r.toNat
/-- A row from its bytes. -/
def rowOf (bs : Bytes) : Row := BitVec.ofNat 512 (leVal bs)
/-- The 0-based numbers below n for which p holds. -/
def below (n : Nat) (p : Nat → Bool) : List Nat := (List.range n).filter p

/-! ## CRC-32C -/

/-- One bit of the CRC-32C register, reflected polynomial 0x82F6_3B78. -/
def crcBit (c : W32) : W32 := if c.getLsbD 0 then (c >>> 1) ^^^ 0x82F63B78#32 else c >>> 1
/-- The CRC-32C register continued over one byte. -/
def crcByte (c : W32) (b : Byte) : W32 :=
  let x := c ^^^ b.setWidth 32
  crcBit (crcBit (crcBit (crcBit (crcBit (crcBit (crcBit (crcBit x)))))))
/-- CRC-32C of a byte string: the register starts at all ones and is complemented at the end. -/
def crc32c (bs : Bytes) : W32 := ~~~ (bs.foldl crcByte 0xFFFFFFFF#32)
/-- A string followed by its CRC-32C. -/
def withCrc (bs : Bytes) : Bytes := bs ++ leBytes 4 (crc32c bs).toNat
/-- Whether the 4 bytes at offset n hold the CRC-32C of the n bytes before them. -/
def crcOk (bs : Bytes) (n : Nat) : Bool := fld bs n 4 == (crc32c (sub bs 0 n)).toNat

/-! ## Lists -/

/-- Replace the first entry that satisfies p. -/
def modFirst (p : α → Bool) (f : α → α) : List α → List α
  | [] => []
  | x :: r => if p x then f x :: r else x :: modFirst p f r
/-- Drop the first entry that satisfies p. -/
def dropFirst (p : α → Bool) : List α → List α
  | [] => []
  | x :: r => if p x then r else x :: dropFirst p r
/-- Change entry i of a list. -/
def modNth (i : Nat) (f : α → α) (l : List α) : List α := l.modify i f
/-- Insert a number into a rising list without repeats. -/
def insertUp (n : Nat) : List Nat → List Nat
  | [] => [n]
  | x :: r => if n < x then n :: x :: r else if n = x then x :: r else x :: insertUp n r
/-- Run a change of state over a list, first entry first. -/
def each (l : List α) (f : α → Dev → Dev) (s : Dev) : Dev := l.foldl (fun s x => f x s) s

/-! ## Outcomes -/

/-- A command that acts on the device. A command takes no time: the cycle it acts in stays the present one. -/
def State.act (s : State) (f : Dev → Dev) : Host.Outcome State Fault Refusal :=
  .next { s with dev := { f s.dev with now := s.dev.now } }
/-- A command that acts on the device when it is well formed: a fault where it is not. -/
def State.actOn (s : State) (known : Bool) (f : Dev → Dev) : Host.Outcome State Fault Refusal :=
  if known then s.act f else .fault .noSuchUnit
/-- A change that is made only when its condition holds: a step whose condition does not hold is not taken. -/
def Dev.iff (s : Dev) (c : Bool) (f : Dev → Dev) : Dev := if c then f s else s

/-! ## Time -/

/-- The time counter (R403): cycles of the main clock since it started, 0 while it does not run. -/
def Dev.time (s : Dev) : Nat := match s.power.mainStart with
  | none => 0
  | some t => s.now - t
/-- The turn of 8 cycles that the present cycle lies in (R8). -/
def Dev.turn (s : Dev) : Nat := s.time / 8
/-- Whether the present cycle is the first of a turn (R8). -/
def Dev.turnStart (s : Dev) : Bool := s.time % 8 == 0
/-- Whether the device is in D-READY or D-RUN (R405). -/
def Dev.lit (s : Dev) : Bool := s.power.dstate == .ready || s.power.dstate == .run

/-! ## Accessors of the units -/

/-- Stall n. -/
def Dev.stall (s : Dev) (n : Nat) : Stall := s.stalls.get n
/-- Replace Stall n. -/
def Dev.setStall (s : Dev) (n : Nat) (x : Stall) : Dev := { s with stalls := s.stalls.set n x }
/-- Change Stall n. -/
def Dev.modStall (s : Dev) (n : Nat) (f : Stall → Stall) : Dev := s.setStall n (f (s.stall n))
/-- Chest c. -/
def Dev.chest (s : Dev) (c : Nat) : Chest := s.chests.get c
/-- Change Chest c. -/
def Dev.modChest (s : Dev) (c : Nat) (f : Chest → Chest) : Dev := { s with chests := s.chests.mod c f }
/-- Block b. -/
def Dev.block (s : Dev) (b : Nat) : Block := s.blocks.get b
/-- Change block b. -/
def Dev.modBlock (s : Dev) (b : Nat) (f : Block → Block) : Dev := { s with blocks := s.blocks.mod b f }
/-- Change the switch point of block b. -/
def Dev.modSw (s : Dev) (b : Nat) (f : SwPoint → SwPoint) : Dev := s.modBlock b fun x => { x with sw := f x.sw }
/-- Change a block's transfer engine. -/
def Dev.modXfer (s : Dev) (b : Nat) (f : Xfer → Xfer) : Dev := s.modBlock b fun x => { x with xfer := f x.xfer }
/-- Lot l. -/
def Dev.lot (s : Dev) (l : Nat) : Lot := s.lots.get l
/-- Change Lot l. -/
def Dev.modLot (s : Dev) (l : Nat) (f : Lot → Lot) : Dev := { s with lots := s.lots.mod l f }
/-- Context c's entry. -/
def Dev.ctx (s : Dev) (c : Nat) : Ctx := s.ctxs.get c
/-- Ring r. -/
def Dev.ring (s : Dev) (r : Nat) : PRing := s.rings.get r
/-- Change ring r. -/
def Dev.modRing (s : Dev) (r : Nat) (f : PRing → PRing) : Dev := { s with rings := s.rings.mod r f }
/-- Task slot k. -/
def Dev.task (s : Dev) (k : Nat) : TaskSlot := s.tasks.get k
/-- Change task slot k. -/
def Dev.modTask (s : Dev) (k : Nat) (f : TaskSlot → TaskSlot) : Dev := { s with tasks := s.tasks.mod k f }
/-- Elveel port p. -/
def Dev.port (s : Dev) (p : Nat) : EPort := s.elveel.ports.get p
/-- Change Elveel port p. -/
def Dev.modPort (s : Dev) (p : Nat) (f : EPort → EPort) : Dev :=
  { s with elveel := { s.elveel with ports := s.elveel.ports.mod p f } }
/-- Change the router's state. -/
def Dev.modElv (s : Dev) (f : Elveel → Elveel) : Dev := { s with elveel := f s.elveel }
/-- Change the Concourse's state. -/
def Dev.modConc (s : Dev) (f : Conc → Conc) : Dev := { s with conc := f s.conc }
/-- Change the Warden's state. -/
def Dev.modWarden (s : Dev) (f : Warden → Warden) : Dev := { s with warden := f s.warden }
/-- Change the power state. -/
def Dev.modPower (s : Dev) (f : Power → Power) : Dev := { s with power := f s.power }
/-- Change the boot state. -/
def Dev.modBoot (s : Dev) (f : Boot → Boot) : Dev := { s with boot := f s.boot }
/-- Change the Ledger. -/
def Dev.modLedger (s : Dev) (f : Ledger → Ledger) : Dev := { s with ledger := f s.ledger }
/-- Change the service state. -/
def Dev.modSvc (s : Dev) (f : Service → Service) : Dev := { s with service := f s.service }
/-- Change the grid. -/
def Dev.modGrid (s : Dev) (f : Grid → Grid) : Dev := { s with grid := f s.grid }
/-- Change the page pool. -/
def Dev.modPool (s : Dev) (f : Pool → Pool) : Dev := { s with pool := f s.pool }
/-- Append to what the device has sent. -/
def Dev.emit (s : Dev) (o : Output) : Dev := { s with out := s.out ++ [o] }
/-- A fresh id. -/
def Dev.fresh (s : Dev) : Nat × Dev := (s.nextId, { s with nextId := s.nextId + 1 })
/-- Draw a free value. -/
def Dev.draw (s : Dev) : Nat × Dev := (Config.freeValue s.freeCount, { s with freeCount := s.freeCount + 1 })

/-! ## The memories -/

/-- n bytes of the device's memory at a local offset (R215): unlisted bytes read as zero. -/
def Dev.memAt (s : Dev) (a n : Nat) : Bytes := memRead 0 s.mem a n
/-- A little-endian value in the device's memory. -/
def Dev.memVal (s : Dev) (a n : Nat) : Nat := leVal (s.memAt a n)
/-- Write bytes in the device's memory. -/
def Dev.memPut (s : Dev) (a : Nat) (bs : Bytes) : Dev := { s with mem := memWrite 0 s.mem a bs }
/-- The local offset of Chest c's window (R175). -/
def chestOff (c : Nat) : Nat := 0x080000000000 + c * 0x100000
/-- The bytes of tile t of Stall n from byte o (R73). -/
def Dev.tileAt (s : Dev) (n t o len : Nat) : Bytes := memRead 0 s.tiles (32768 * n + 4096 * t + o) len
/-- Write bytes of tile t of Stall n. -/
def Dev.tilePut (s : Dev) (n t o : Nat) (bs : Bytes) : Dev :=
  { s with tiles := memWrite 0 s.tiles (32768 * n + 4096 * t + o) bs }
/-- The bytes of the scale sidecar of tile t of Stall n (R74). -/
def Dev.sideAt (s : Dev) (n t o len : Nat) : Bytes := memRead 0 s.sidecars (2048 * n + 256 * t + o) len
/-- Write bytes of a scale sidecar. -/
def Dev.sidePut (s : Dev) (n t o : Nat) (bs : Bytes) : Dev :=
  { s with sidecars := memWrite 0 s.sidecars (2048 * n + 256 * t + o) bs }
/-- Flash bytes; an erased byte reads 0xFF. -/
def Dev.flashAt (s : Dev) (a n : Nat) : Bytes := memRead 0xFF s.flash a n

/-! ## Counters (R451) -/

/-- The index of word w of item n of the counter record based at index rcd. -/
def ctrKey (rcd n w : Nat) : Nat := rcd * 2 ^ 28 + n * 2 ^ 12 + w
/-- A counter's value. -/
def Dev.ctr (s : Dev) (rcd n w : Nat) : Nat := s.counters.get (ctrKey rcd n w)
/-- Add to a 48-bit saturating counter (R451). -/
def Dev.bump (s : Dev) (rcd n w : Nat) (by_ : Nat := 1) : Dev :=
  { s with counters := s.counters.mod (ctrKey rcd n w) fun v => min (v + by_) (2 ^ 48 - 1),
           bumped := s.bumped.mod (ctrKey rcd n w) fun v => min (v + by_) (2 ^ 48 - 1) }

/-- Set a counter. -/
def Dev.setCtr (s : Dev) (rcd n w v : Nat) : Dev :=
  { s with counters := s.counters.set (ctrKey rcd n w) v, bumped := s.bumped.set (ctrKey rcd n w) v }

/-! ## Blocks and unit numbers (R14, R15, R23) -/

/-- Device grid X of a block (R14). -/
def blkX (b : Nat) : Nat := 24 * (b / 288) + b % 24
/-- Device grid Y of a block (R14). -/
def blkY (b : Nat) : Nat := b % 288 / 24
/-- The block at device grid coordinates (R14). -/
def blkAt (x y : Nat) : Nat := 288 * (x / 24) + 24 * y + x % 24
/-- Whether a block lies in the rectangle of a Lot (R29). -/
def Lot.has (l : Lot) (b : Nat) : Bool :=
  l.state != 0 && l.x0 ≤ blkX b && blkX b < l.x0 + l.width && l.y0 ≤ blkY b && blkY b < l.y0 + l.height
/-- The blocks of a Lot's rectangle, row by row from the south-west corner. -/
def Lot.rect (l : Lot) : List Nat :=
  (List.range l.height).flatMap fun j => (List.range l.width).map fun i => blkAt (l.x0 + i) (l.y0 + j)
/-- BEAT + STRETCH of a Lot's present beat in cycles (R207). -/
def Lot.beatCycles (l : Lot) : Nat := 8 * (l.beat.len + l.beat.stretch)
/-- Scheduled start of a Lot's next beat (R207). -/
def Lot.nextBeat (l : Lot) : Nat := l.beat.start + l.beatCycles
/-- The Lot that holds a block. -/
def Dev.lotOf (s : Dev) (b : Nat) : Option Nat := (s.lots.find? fun p => p.2.has b).map (·.1)
/-- The context whose shelf is front in a Lot. -/
def Lot.frontCtx (l : Lot) : Option Nat := if l.front.kind = 0 then none else some l.front.ctx
/-- The context whose front shelf a block runs. -/
def Dev.frontOf (s : Dev) (b : Nat) : Option Nat := (s.lotOf b).bind fun l => (s.lot l).frontCtx
/-- The front shelf of a block. -/
def Dev.shelf (s : Dev) (b : Nat) : Shelf := match s.lotOf b with
  | none => {}
  | some l => (s.lot l).front.blocks.get b
/-- Whether a logical block is retired (R21). -/
def Dev.retired (s : Dev) (b : Nat) : Bool := s.grid.retired.contains b

end Sys2Proof.Machine
end

