-- ==== Sys2Proof/Machine/Events.lean ====
section
/-! DEFINITION. Event rings: how a record is written (R363, R366, R372), how an event is raised (R374, R375) and how a
command completes (R366, R367). -/
namespace Sys2Proof.Machine

/-- Local offset of the command ring of ring r (R363). -/
def cmdRing (r : Nat) : Nat := 0x009FC0100000 + 0x10000 * r
/-- Local offset of the event ring of ring r (R363). -/
def evtRing (r : Nat) : Nat := 0x009FC0800000 + 0x40000 * r
/-- The management ring (R363). -/
abbrev mgmtRing : Nat := 64

/-- The 32 bytes of RESULT, bytes 32-63 of a record: fields are (offset in the record, width, value) (R372). -/
def result (fs : List (Nat × Nat × Nat)) : Bytes := layout 32 (fs.map fun f => (f.1 - 32, f.2))

/-- Records in the event ring that the host has not acknowledged (R365). -/
def PRing.unacked (x : PRing) : Nat := (x.etail + 65536 - x.ehead) % 65536
/-- Whether the event ring has a slot free of reservations (R366). -/
def PRing.slotFree (x : PRing) : Bool := x.unacked + x.pend.length + x.reserved < 4096

/-- Frame a payload for the Porter link (R361). -/
def porterFrame (type : Nat) (payload : Bytes) : Bytes := layout 4 [(0, 1, type), (2, 2, payload.length)] ++ payload

/-- The EVT frame of one record (R361). -/
def evtFrame (r etail : Nat) (rcd : Bytes) : Bytes :=
  porterFrame 0x81 (layout 4 [(0, 1, r), (1, 1, 1), (2, 2, etail % 4096)] ++ rcd)

/-- A record of a ring is raised: it is written as the cycle ends (R372). -/
def Dev.record (s : Dev) (r kind code status ctag : Nat) (res : Bytes) : Dev :=
  s.modRing r fun x => { x with pend := x.pend ++ [{ kind := kind, code := code, status := status, ctag := ctag, res := res }] }

/-- Write a record at ETAIL of an event ring and push it to the host (R365, R372). PHASE is 1 on the first pass. -/
def Dev.writeRecord (s : Dev) (r : Nat) (q : PRec) : Dev :=
  let x := s.ring r
  let flags := b2n x.overflow + 128 * (1 - x.etail / 4096 % 2)
  let rcd := layout 32 [(0, 1, q.kind), (1, 1, q.code), (2, 1, q.status), (3, 1, flags), (4, 2, x.chead), (8, 4, q.ctag),
    (16, 8, s.time)] ++ sub q.res 0 32
  let s := s.memPut (evtRing r + 64 * (x.etail % 4096)) rcd
  let s := s.modRing r fun x => { x with etail := (x.etail + 1) % 65536, overflow := false }
  s.iff s.porterUp fun s => s.emit (.porter (evtFrame r x.etail rcd))

/-- Records of one cycle in the order in which they take slots (R372): completions, collective completions, events. -/
def recOrder (l : List PRec) : List PRec :=
  (l.filter fun q => q.kind == 1) ++ (l.filter fun q => q.kind == 3) ++ l.filter fun q => q.kind == 2
/-- The records that a cycle has raised are written as it ends. -/
def Dev.recordTick (s : Dev) : Dev :=
  each ((s.rings.filter fun p => !p.2.pend.isEmpty).map (·.1)) (fun r s =>
    each (recOrder (s.ring r).pend) (fun q s => s.writeRecord r q) (s.modRing r fun x => { x with pend := [] })) s

/-- Whether an event code ignores the ring's MASK: CTX_FAULT, TEARDOWN_DONE and DRAINED (R374). -/
def unmaskable (code : Nat) : Bool := code == 0x01 || code == 0x02 || code == 0x1B

/-- Raise an event on a ring: suppressed by the ring's MASK, dropped and counted when no slot is free of reservations
(R366, R374). -/
def Dev.ringEvent (s : Dev) (r code : Nat) (res : Bytes) : Dev :=
  let x := s.ring r
  if !x.live then s
  else if x.mask.getLsbD code && !unmaskable code then s
  else if x.slotFree then s.record r 2 code 0 0 res
  else s.modRing r fun x => { x with overflow := true, dropped := x.dropped + 1 }

/-- Raise an event on the management ring. The ring exists from D-READY on (R363): what bring-up raises before that is
kept and raised when the ring exists. -/
def Dev.event (s : Dev) (code : Nat) (fs : List (Nat × Nat × Nat)) : Dev :=
  if (s.ring mgmtRing).live then s.ringEvent mgmtRing code (result fs)
  else { s with early := s.early ++ [(code, result fs)] }

/-- Raise an event on a context's ring (R374). -/
def Dev.ctxEvent (s : Dev) (c code : Nat) (fs : List (Nat × Nat × Nat)) : Dev :=
  let x := s.ctx c
  if x.state = .bound ∨ x.state = .faulted then s.ringEvent x.ring code (result fs) else s

/-! ## Commands in flight -/

/-- Opcode of a command entry (R367). -/
def opcodeOf (e : Bytes) : Nat := byte e 0
/-- CREC of a command entry (R367). -/
def crecOf (e : Bytes) : Bool := bit (byte e 1) 0
/-- CTAG of a command entry (R367). -/
def ctagOf (e : Bytes) : Nat := fld e 4 4

/-- The running command with an id. -/
def PRing.cmd (x : PRing) (id : Nat) : Option RunCmd := x.running.find? (·.id = id)
/-- Change the running command with an id. -/
def Dev.modCmd (s : Dev) (r id : Nat) (f : RunCmd → RunCmd) : Dev :=
  s.modRing r fun x => { x with running := modFirst (·.id = id) f x.running }

/-- Post the completion record of an entry: always when its status is not OK, on OK when CREC is set (R367). -/
def Dev.post (s : Dev) (r : Nat) (entry : Bytes) (status : Nat) (fs : List (Nat × Nat × Nat)) : Dev :=
  s.iff (status != 0 || crecOf entry) fun s => s.record r 1 (opcodeOf entry) status (ctagOf entry) (result fs)

/-- Complete a running command: its reserved slot is used or freed, and it leaves the ring (R366, R367). -/
def Dev.finish (s : Dev) (r id status : Nat) (fs : List (Nat × Nat × Nat)) : Dev :=
  match (s.ring r).cmd id with
  | none => s
  | some c =>
    let s := s.modRing r fun x => { x with running := dropFirst (·.id = id) x.running, reserved := x.reserved - 1 }
    s.post r c.entry status fs

end Sys2Proof.Machine
end

