-- ==== Sys2Proof/Machine/Flags.lean ====
section
/-! DEFINITION. The arithmetic flags (R61): their positions, how they join a flag word and which may trap (R63). A set of
flags is a number whose bits are the flag word's. -/
namespace Sys2Proof.Machine

/-- A NaN was made from non-NaN inputs, or a NaN converted to a format without NaN. -/
abbrev fInvalid : Nat := 1
/-- Division of a finite non-zero value by zero. -/
abbrev fDivz : Nat := 2
/-- A rounded result exceeded the largest finite value. -/
abbrev fOvf : Nat := 4
/-- A result was tiny and inexact. -/
abbrev fUnf : Nat := 8
/-- A rounding changed a value. -/
abbrev fInexact : Nat := 16
/-- A conversion clamped. -/
abbrev fSat : Nat := 32
/-- A lane beyond the present length was named. -/
abbrev fRange : Nat := 64
/-- An INT32 accumulation saturated. -/
abbrev fIntovf : Nat := 128

/-- Flags that one operation sets, joined to those set before: several sources set one flag once (R62). -/
def joinFlags (w : BitVec 32) (f : Nat) : BitVec 32 := w ||| BitVec.ofNat 32 f
/-- The flags of a trap-enable mask that can trap: INVALID, DIVZ, OVF, RANGE and INTOVF; the others are ignored (R63). -/
def trapMask (trapen : Nat) : Nat := trapen &&& 0xC7
/-- The flags just set that trap under a mask (R63). -/
def trapped (trapen : Nat) (set_ : BitVec 32) : Nat := trapMask trapen &&& set_.toNat
/-- A write of ones clears flags; a flag set in the same cycle stays set (R62). -/
def clearFlags (w : BitVec 32) (ones set_ : Nat) : BitVec 32 := joinFlags (w &&& ~~~ BitVec.ofNat 32 ones) set_

end Sys2Proof.Machine
end

