-- ==== Sys2Proof/Machine/CtxTable.lean ====
section
/-! DEFINITION. The context table (R312 to R316): an entry's 256 bytes and the one way in which an entry changes. -/
namespace Sys2Proof.Machine

/-- Local offset of entry c (R312). -/
def ctxOff (c : Nat) : Nat := 0x009FC0000000 + 256 * c

/-- The code of a context state (R313). -/
def CState.code : CState → Nat
  | .free => 0
  | .defined => 1
  | .bound => 2
  | .faulted => 3

/-- Whether a context holds a seat. -/
def Ctx.seated (x : Ctx) : Bool := x.state == .bound || x.state == .faulted

/-- Whether context c's shelf is the front shelf of its Lot (R313): while the front is empty, it is its owner's (R317). -/
def Dev.isFront (s : Dev) (c : Nat) : Bool :=
  let x := s.ctx c
  let l := s.lot x.lot
  x.seated && (if l.front.kind = 0 then x.seat == l.fseat && !(l.promote && l.back.ctx == c) else l.front.ctx == c)

/-- The 256 bytes of an entry (R313, R314). -/
def ctxBytes (x : Ctx) (front : Bool) : Bytes :=
  let w := x.gen + 2 ^ 4 * x.state.code + 2 ^ 6 * b2n x.cyclic + 2 ^ 7 * b2n x.strict + 2 ^ 8 * x.rmode
    + 2 ^ 11 * b2n x.lenient + 2 ^ 16 * x.trapen + 2 ^ 24 * x.lot + 2 ^ 30 * x.seat + 2 ^ 31 * b2n front + 2 ^ 32 * x.ring
  layout 256 [(0, 8, w), (8, 8, x.seed.toNat), (16, 8, x.step), (24, 8, x.colltab), (32, 8, x.pooldesc),
    (40, 4, x.flagsum.toNat), (48, 4, x.ssto), (52, 4, x.lateth), (56, 4, x.collto), (60, 4, x.debt),
    (64, 4, x.fcode + 2 ^ 16 * x.funit)]

/-- Write an entry, and its image in the table (R316). -/
def Dev.setCtx (s : Dev) (c : Nat) (x : Ctx) : Dev :=
  let s := { s with ctxs := s.ctxs.set c x }
  s.memPut (ctxOff c) (ctxBytes x (s.isFront c))
/-- Change an entry. -/
def Dev.modCtx (s : Dev) (c : Nat) (f : Ctx → Ctx) : Dev := s.setCtx c (f (s.ctx c))
/-- Write again the images of the entries whose FRONT bit may have changed. -/
def Dev.refreshFront (s : Dev) (l : Nat) : Dev :=
  let x := s.lot l
  each (x.seat0.toList ++ x.seat1.toList) (fun c s => s.setCtx c (s.ctx c)) s

/-- Send-stall timeout of a context in cycles (R204, R314). -/
def Ctx.sstoCycles (x : Ctx) : Nat := if x.ssto = 0 then 2 ^ 20 else x.ssto
/-- Late-beat threshold of a context (R208, R314). -/
def Ctx.latethOf (x : Ctx) : Nat := if x.lateth = 0 then 16 else x.lateth
/-- Collective timeout of a context in cycles (R299, R314). -/
def Ctx.colltoCycles (x : Ctx) : Nat := (if x.collto = 0 then 100000 else x.collto) * usec

/-- The send-stall timeout of the context that a block's front shelf belongs to. -/
def Dev.sstoOf (s : Dev) (b : Nat) : Nat := match s.frontOf b with
  | some c => (s.ctx c).sstoCycles
  | none => 2 ^ 20

/-- OR flags into a context's flag summary (R61). -/
def Dev.joinSummary (s : Dev) (c : Nat) (f : BitVec 32) : Dev :=
  { s.modCtx c fun x => { x with flagsum := x.flagsum ||| f } with flagged := s.flagged.mod c fun v => v ||| f.toNat }

end Sys2Proof.Machine
end

