-- ==== Sys2Proof/Machine/Float.lean ====
section
/-! DEFINITION. Number formats, rounding and conversions (R34 to R46). A value is decoded to an exact number, arithmetic on
it is exact, and one rounding brings it to its result format; every operation answers its result with the flags it sets.
-/
namespace Sys2Proof.Machine

/-- An exact value: NaN, an infinity, or a signed dyadic number m times 2^e; zero keeps its sign (R38). -/
inductive Num where
  | nan
  | inf (neg : Bool)
  | fin (neg : Bool) (m : Nat) (e : Int)
  deriving DecidableEq, Repr, Inhabited

/-- A floating format (R36): exponent bits, mantissa bits, bias, the pattern of its largest finite value, whether it has
infinities, and its canonical NaN (R43). -/
structure FFmt where
  eb   : Nat
  mb   : Nat
  bias : Nat
  maxP : Nat
  infs : Bool
  nan  : Option Nat
  deriving DecidableEq, Repr, Inhabited

/-- Bits of an element. -/
def FFmt.width (f : FFmt) : Nat := 1 + f.eb + f.mb
/-- The exponent of the least significant bit of a subnormal. -/
def FFmt.lsb (f : FFmt) : Int := 1 - (f.bias : Int) - f.mb

def fp32 : FFmt := ⟨8, 23, 127, 0x7F7FFFFF, true, some 0x7FC00000⟩
def bf16 : FFmt := ⟨8, 7, 127, 0x7F7F, true, some 0x7FC0⟩
def fp16 : FFmt := ⟨5, 10, 15, 0x7BFF, true, some 0x7E00⟩
def e4m3 : FFmt := ⟨4, 3, 7, 0x7E, false, some 0x7F⟩
def e5m2 : FFmt := ⟨5, 2, 15, 0x7B, true, some 0x7E⟩
def e2m1 : FFmt := ⟨2, 1, 1, 0x7, false, none⟩
def e2m3 : FFmt := ⟨2, 3, 1, 0x1F, false, none⟩
def e3m2 : FFmt := ⟨3, 2, 3, 0x1F, false, none⟩
def fp64 : FFmt := ⟨11, 52, 1023, 0x7FEFFFFFFFFFFFFF, true, some 0x7FF8000000000000⟩

/-- The element of a format code (R34): a float, or an integer of a width with a scaling exponent. -/
inductive Elem where
  | flt (f : FFmt)
  | int (w : Nat) (e : Int)
  deriving DecidableEq, Repr, Inhabited

/-- The element format of a code (R34); none for the reserved code. -/
def elemOf : Nat → Option Elem
  | 0x0 => some (.flt fp32)
  | 0x1 => some (.flt bf16)
  | 0x2 => some (.flt fp16)
  | 0x3 => some (.flt e4m3)
  | 0x4 => some (.flt e5m2)
  | 0x5 => some (.flt e2m1)
  | 0x6 => some (.int 8 0)
  | 0x7 => some (.int 32 0)
  | 0x8 => some (.flt e4m3)
  | 0x9 => some (.flt e5m2)
  | 0xA => some (.flt e2m3)
  | 0xB => some (.flt e3m2)
  | 0xC => some (.flt e2m1)
  | 0xD => some (.int 8 (-6))
  | 0xE => some (.flt fp64)
  | _ => none

/-- Whether a code is an MX format: blocks of 32 with E8M0 scales (R34). -/
def isMx (c : Nat) : Bool := 0x8 ≤ c && c ≤ 0xD
/-- Element bits of a format code (R34). -/
def elemBits (c : Nat) : Nat := match elemOf c with
  | some (.flt f) => f.width
  | some (.int w _) => w
  | none => 0

/-- Decode a pattern of a floating format (R36). -/
def FFmt.decode (f : FFmt) (v : Nat) : Num :=
  let neg := bit v (f.eb + f.mb)
  let ex := bits v (f.eb + f.mb - 1) f.mb
  let mant := v % 2 ^ f.mb
  let mag := v % 2 ^ (f.eb + f.mb)
  if f.infs && ex == 2 ^ f.eb - 1 then (if mant = 0 then .inf neg else .nan)
  else if mag > f.maxP then .nan
  else if ex = 0 then .fin neg mant f.lsb
  else .fin neg (mant + 2 ^ f.mb) (f.lsb + (ex - 1 : Nat))

/-- Decode an element (R36); MX scales are applied apart. -/
def Elem.decode : Elem → Nat → Num
  | .flt f, v => f.decode v
  | .int w e, v => let x := sgn w (v % 2 ^ w); .fin (x < 0) x.natAbs e

/-- Decode an element of a format code. -/
def decodeElem (c v : Nat) : Num := match elemOf c with
  | some el => el.decode v
  | none => .nan

/-- Negate a number. -/
def Num.neg : Num → Num
  | .nan => .nan
  | .inf s => .inf (!s)
  | .fin s m e => .fin (!s) m e
/-- Whether a number is NaN. -/
def Num.isNan : Num → Bool
  | .nan => true
  | _ => false
/-- Whether a number is a zero. -/
def Num.isZero : Num → Bool
  | .fin _ 0 _ => true
  | _ => false
/-- The sign of a number. -/
def Num.sign : Num → Bool
  | .nan => false
  | .inf s => s
  | .fin s _ _ => s
/-- The absolute value. -/
def Num.abs : Num → Num
  | .nan => .nan
  | .inf _ => .inf false
  | .fin _ m e => .fin false m e
/-- Scale by a power of two, exactly. -/
def Num.scale (k : Int) : Num → Num
  | .fin s m e => .fin s m (e + k)
  | x => x

/-- A dyadic number, i times 2^e. -/
abbrev Dy := Int × Int
/-- The exact sum of two dyadic numbers. -/
def Dy.add (x y : Dy) : Dy :=
  let e := min x.2 y.2
  (x.1 * 2 ^ (x.2 - e).toNat + y.1 * 2 ^ (y.2 - e).toNat, e)
/-- The exact product of two dyadic numbers. -/
def Dy.mul (x y : Dy) : Dy := (x.1 * y.1, x.2 + y.2)
/-- Order of dyadic numbers. -/
def Dy.lt (x y : Dy) : Bool :=
  let e := min x.2 y.2
  x.1 * 2 ^ (x.2 - e).toNat < y.1 * 2 ^ (y.2 - e).toNat
/-- A finite number as a dyadic; the others as zero. -/
def Num.dy : Num → Dy
  | .fin s m e => (if s then -(m : Int) else m, e)
  | _ => (0, 0)
/-- A dyadic as a number; an exact zero takes the sign given. -/
def Dy.num (x : Dy) (zeroNeg : Bool) : Num := .fin (if x.1 = 0 then zeroNeg else x.1 < 0) x.1.natAbs x.2

/-! ## Rounding (R40, R46) -/

/-- The magnitude m times 2^e rounded to a multiple of 2^q in a mode of R40; r is the 32-bit draw of stochastic rounding.
The answer is the multiple and whether the value changed. -/
def roundAt (mode : Nat) (r : Nat) (neg : Bool) (m : Nat) (e q : Int) : Nat × Bool :=
  if q ≤ e then (m * 2 ^ (e - q).toNat, false)
  else
    let sh := (q - e).toNat
    let lo := m / 2 ^ sh
    let rm := m % 2 ^ sh
    if rm = 0 then (lo, false)
    else
      let up := match mode with
        | 0 => 2 * rm > 2 ^ sh || (2 * rm == 2 ^ sh && lo % 2 == 1)
        | 1 => false
        | 2 => neg
        | 3 => !neg
        | _ => rm * 2 ^ 32 + r * 2 ^ sh ≥ 2 ^ sh * 2 ^ 32
      (if up then lo + 1 else lo, true)

/-- The exponent of the leading bit of m times 2^e, for m not zero. -/
def topExp (m : Nat) (e : Int) : Int := e + (Nat.log2 m : Int)

/-- The bits of a magnitude M times 2^q of at most the format's precision, with q the spacing of its binade. -/
def FFmt.pack (f : FFmt) (neg : Bool) (M : Nat) (q : Int) : Nat :=
  let (M, q) := if M = 2 ^ (f.mb + 1) then (M / 2, q + 1) else (M, q)
  let body := if M < 2 ^ f.mb then M else (q - f.lsb + 1).toNat * 2 ^ f.mb + (M - 2 ^ f.mb)
  b2n neg * 2 ^ (f.eb + f.mb) + body

/-- The infinity of a format. -/
def FFmt.infP (f : FFmt) (neg : Bool) : Nat := b2n neg * 2 ^ (f.eb + f.mb) + (2 ^ f.eb - 1) * 2 ^ f.mb
/-- The largest finite value of a format, signed. -/
def FFmt.maxF (f : FFmt) (neg : Bool) : Nat := b2n neg * 2 ^ (f.eb + f.mb) + f.maxP
/-- The pattern of a zero. -/
def FFmt.zero (f : FFmt) (neg : Bool) : Nat := b2n neg * 2 ^ (f.eb + f.mb)

/-- The spacing exponent of the binade of m times 2^e in a format: its subnormal spacing below the normal range, and,
for stochastic rounding, the largest finite binade's spacing above it (R46). -/
def FFmt.spacing (f : FFmt) (sr : Bool) (m : Nat) (e : Int) : Int :=
  let q := max (topExp m e - f.mb) f.lsb
  if sr then min q (f.lsb + (f.maxP / 2 ^ f.mb - 1 : Nat)) else q

/-- Whether a magnitude M times 2^q exceeds the format's largest finite value. -/
def FFmt.over (f : FFmt) (M : Nat) (q : Int) : Bool :=
  match f.decode f.maxP with
  | .fin _ m e => Dy.lt ((m : Int), e) ((M : Int), q)
  | _ => false

/-- Whether m times 2^e, rounded to the format's precision with the exponent range unbounded, lies below the smallest
normal magnitude (R38). -/
def FFmt.tiny (f : FFmt) (mode r : Nat) (neg : Bool) (m : Nat) (e : Int) : Bool :=
  let q := topExp m e - f.mb
  let M := (roundAt mode r neg m e q).1
  Dy.lt ((M : Int), q) (1, f.lsb + f.mb)

/-- Round a finite number into a floating format that overflows as IEEE 754 does: FP32, BF16, FP16 and FP64 (R42). -/
def FFmt.roundIeee (f : FFmt) (mode r : Nat) (neg : Bool) (m : Nat) (e : Int) : Nat × Nat :=
  if m = 0 then (f.zero neg, 0)
  else
    let q := f.spacing (mode == 4) m e
    let (M, ch) := roundAt mode r neg m e q
    if f.over M q then
      let toInf := match mode with
        | 1 => false
        | 2 => neg
        | 3 => !neg
        | _ => true
      (if toInf then f.infP neg else f.maxF neg, fOvf + fInexact)
    else (f.pack neg M q, if ch then fInexact + (if f.tiny mode r neg m e then fUnf else 0) else 0)

/-- Round a number into an IEEE format; a NaN becomes the canonical NaN and sets no flag (R42, R43). -/
def FFmt.ofNum (f : FFmt) (mode r : Nat) : Num → Nat × Nat
  | .nan => (f.nan.getD 0, 0)
  | .inf s => (f.infP s, 0)
  | .fin s m e => f.roundIeee mode r s m e

/-- Where RMODE resolves to stochastic rounding for a result in FP32, INT32 or FP64, the operation rounds by RNE (R41). -/
def wideMode (mode : Nat) : Nat := if mode = 4 then 0 else mode
/-- The rounding mode of a structure: code 111 takes the context's default (R40). -/
def rmodeOf (code dflt : Nat) : Nat := if code = 7 then dflt else code

/-! ## Exact arithmetic on numbers -/

/-- The sign of an exact zero sum of operands with signs a and b (IEEE 754-2019): the common sign, else plus, minus when
rounding down. -/
def zeroSign (mode : Nat) (a b : Bool) : Bool := if a == b then a else mode == 2

/-- An exact sum and the flags it sets. -/
def Num.add (mode : Nat) : Num → Num → Num × Nat
  | .nan, _ => (.nan, 0)
  | _, .nan => (.nan, 0)
  | .inf a, .inf b => if a == b then (.inf a, 0) else (.nan, fInvalid)
  | .inf a, _ => (.inf a, 0)
  | _, .inf b => (.inf b, 0)
  | x@(.fin a _ _), y@(.fin b _ _) => ((Dy.add x.dy y.dy).num (zeroSign mode a b), 0)

/-- An exact product and the flags it sets. -/
def Num.mul : Num → Num → Num × Nat
  | .nan, _ => (.nan, 0)
  | _, .nan => (.nan, 0)
  | .inf a, y => if y.isZero then (.nan, fInvalid) else (.inf (a != y.sign), 0)
  | x, .inf b => if x.isZero then (.nan, fInvalid) else (.inf (x.sign != b), 0)
  | .fin a m e, .fin b n f => (.fin (a != b) (m * n) (e + f), 0)

/-- x < y, for numbers that are not NaN; zeros are equal. -/
def Num.lt : Num → Num → Bool
  | .nan, _ => false
  | _, .nan => false
  | .inf a, .inf b => a && !b
  | .inf a, _ => a
  | _, .inf b => !b
  | x, y => Dy.lt x.dy y.dy

/-- IEEE 754-2019 maximum (R55): any NaN gives NaN, +0 is greater than -0. -/
def Num.max (x y : Num) : Num :=
  if x.isNan || y.isNan then .nan
  else if x.lt y then y else if y.lt x then x else if x.sign then y else x
/-- IEEE 754-2019 minimum (R55). -/
def Num.min (x y : Num) : Num :=
  if x.isNan || y.isNan then .nan
  else if x.lt y then x else if y.lt x then y else if x.sign then x else y

/-- FP32 addition of patterns in a mode. -/
def add32 (mode : Nat) (x y : Nat) : Nat × Nat :=
  let (z, f) := Num.add mode (fp32.decode x) (fp32.decode y)
  let (v, g) := fp32.ofNum mode 0 z
  (v, f ||| g)
/-- FP32 multiplication of patterns in a mode. -/
def mul32 (mode : Nat) (x y : Nat) : Nat × Nat :=
  let (z, f) := Num.mul (fp32.decode x) (fp32.decode y)
  let (v, g) := fp32.ofNum mode 0 z
  (v, f ||| g)
/-- FP32 fused multiply-add x * y + z in a mode, one rounding; a NaN addend makes no new NaN (R61). -/
def fma32 (mode : Nat) (x y z : Nat) : Nat × Nat :=
  let (p, f) := Num.mul (fp32.decode x) (fp32.decode y)
  let (t, g) := Num.add mode p (fp32.decode z)
  let (v, h) := fp32.ofNum mode 0 t
  (v, (if (fp32.decode z).isNan then 0 else f ||| g) ||| h)
/-- FP64 addition by RNE. -/
def add64 (x y : Nat) : Nat × Nat :=
  let (z, f) := Num.add 0 (fp64.decode x) (fp64.decode y)
  let (v, g) := fp64.ofNum 0 0 z
  (v, f ||| g)
/-- INT32 addition that saturates and sets INTOVF (R51). -/
def addI32 (x y : Nat) : Nat × Nat :=
  let z := sgn 32 x + sgn 32 y
  if z > 2 ^ 31 - 1 then (2 ^ 31 - 1, fIntovf) else if z < -(2 ^ 31) then (2 ^ 31, fIntovf) else (toBits 32 z, 0)

/-! ## Conversions (R42, R44) -/

/-- Round a number into an integer of w bits and scaling exponent e: clamped with SAT; NaN gives 0 and INVALID (R42). The most negative
integer, whose magnitude exceeds the largest finite value of the format table, is a value of the format: a number that rounds to it sets
no SAT (DESIGN CHOICE, notes/assumptions/64.md). -/
def convInt (w : Nat) (ex : Int) (mode r : Nat) : Num → Nat × Nat
  | .nan => (0, fInvalid)
  | .inf s => (if s then 2 ^ (w - 1) else 2 ^ (w - 1) - 1, fSat)
  | .fin s m e =>
    let (M, ch) := if m = 0 then (0, false) else roundAt mode r s m e ex
    let v : Int := if s then -(M : Int) else M
    let g := if ch then fInexact else 0
    if v > 2 ^ (w - 1) - 1 then (2 ^ (w - 1) - 1, fSat ||| g)
    else if v < -(2 ^ (w - 1)) then (2 ^ (w - 1), fSat ||| g)
    else (toBits w v, g)

/-- The result of a finite value too large for a narrow float, or of an infinity. -/
def narrowOver (f : FFmt) (nonsat fromInf neg : Bool) : Nat × Nat :=
  if nonsat && f == e4m3 then (0x7F, if fromInf then fInvalid else fOvf)
  else if nonsat && f == e5m2 then (f.infP neg, if fromInf then 0 else fOvf)
  else (f.maxF neg, fSat)

/-- Round a number into a narrow float: E4M3, E5M2, E2M1, E2M3, E3M2 (R42, R44). -/
def convNarrow (f : FFmt) (nonsat : Bool) (mode r : Nat) : Num → Nat × Nat
  | .nan => match f.nan with
    | some p => (p, 0)
    | none => (0, fInvalid)
  | .inf s => narrowOver f nonsat true s
  | .fin s m e =>
    if m = 0 then (f.zero s, 0)
    else
      let q := f.spacing (mode == 4) m e
      let (M, ch) := roundAt mode r s m e q
      let g := if ch then fInexact else 0
      if f.over M q then let (v, h) := narrowOver f nonsat false s; (v, g ||| h)
      else (f.pack s M q, g + (if ch && f.tiny mode r s m e then fUnf else 0))

/-- Whether a conversion's target is at least as wide as FP32: FP32, INT32 and FP64 take no stochastic rounding (R41). -/
def isWide (c : Nat) : Bool := c == 0x0 || c == 0x7 || c == 0xE

/-- Convert a number to a format code that is no MX format (R42). -/
def convNum (c : Nat) (nonsat : Bool) (mode r : Nat) (x : Num) : Nat × Nat :=
  let mode := if isWide c then wideMode mode else mode
  match elemOf c with
  | some (.int w e) => convInt w e mode r x
  | some (.flt f) => if c = 0 ∨ c = 1 ∨ c = 2 ∨ c = 0xE then f.ofNum mode r x else convNarrow f nonsat mode r x
  | none => (0, 0)

/-- emax of an MX element format (R44). -/
def mxEmax (c : Nat) : Int := match c with
  | 0x8 => 8
  | 0x9 => 15
  | 0xA => 2
  | 0xB => 4
  | 0xC => 2
  | _ => 0

/-- Convert a block of values to an MX format (R44): the scale byte, the elements and the flags. rs gives each element its
stochastic draw. An MXINT8 element of -2.0 is kept, as -128, without SAT (DESIGN CHOICE, notes/assumptions/64.md). -/
def convMx (c : Nat) (mode : Nat) (xs : List Num) (rs : List Nat) : Nat × List Nat × Nat :=
  if xs.any fun x => match x with
    | .fin .. => false
    | _ => true
  then (0xFF, xs.map fun _ => 0, fInvalid)
  else
    let a := xs.foldl (fun (acc : Option Int) x => match x with
      | .fin _ m e => if m = 0 then acc else match acc with
        | none => some (topExp m e)
        | some t => some (max t (topExp m e))
      | _ => acc) none
    let k : Int := match a with
      | none => -127
      | some t => max (-127) (min 127 (t - mxEmax c))
    let one := fun (x : Num) (r : Nat) => match elemOf c with
      | some (.int w e) => convInt w e mode r (x.scale (-k))
      | some (.flt f) => convNarrow f false mode r (x.scale (-k))
      | none => (0, 0)
    let es := xs.zipWith one rs
    ((k + 127).toNat, es.map (·.1), es.foldl (fun g e => g ||| e.2) 0)

/-- The exponent of an E8M0 scale byte; none for 0xFF (R37). -/
def scaleExp (v : Nat) : Option Int := if v = 0xFF then none else some ((v : Int) - 127)
/-- An MX element with its scale applied; a scale of 0xFF makes it NaN (R37, R50). -/
def mxNum (c v scale : Nat) : Num := match scaleExp scale with
  | none => .nan
  | some k => (decodeElem c v).scale k

/-! ## Stochastic rounding bits (R45) -/

/-- The mixing function of R45. -/
def mix64 (z : W64) : W64 :=
  let z := (z ^^^ (z >>> 30)) * 0xBF58476D1CE4E5B9#64
  let z := (z ^^^ (z >>> 27)) * 0x94D049BB133111EB#64
  z ^^^ (z >>> 31)

/-- 32 random bits of an element (R45). -/
def srBits (seed : W64) (tensor row col step purpose : Nat) : Nat :=
  let w (n : Nat) : W64 := BitVec.ofNat 64 n
  let k := mix64 (seed ^^^ (w (tensor % 2 ^ 32) <<< 32))
  let h := mix64 (k ^^^ w (row % 2 ^ 32))
  let h := mix64 (h ^^^ w (col % 2 ^ 32))
  let h := mix64 (h ^^^ ((w purpose <<< 56) ||| w (step % 2 ^ 56)))
  (h >>> 32).toNat

/-! ## Packing (R39) -/

/-- Element i of a packed run that starts at bit 0 of a byte string. Two 4-bit elements share a byte and four 6-bit
elements three bytes, which is the same as a run of w-bit fields (R39). -/
def unpackElem (w : Nat) (bs : Bytes) (i : Nat) : Nat :=
  bits (fld bs (i * w / 8) (w / 8 + 2)) (i * w % 8 + w - 1) (i * w % 8)

/-- Pack elements of w bits, the first lowest (R39). -/
def packElems (w : Nat) (es : List Nat) : Bytes :=
  leBytes ((es.length * w + 7) / 8) (es.foldr (fun e acc => e % 2 ^ w + 2 ^ w * acc) 0)

end Sys2Proof.Machine
end

