-- ==== Sys2Proof/Machine/Product.lean ====
section
/-! DEFINITION. Matrix products with exact block sums (R47 to R52) and canonical reduction trees (R54). -/
namespace Sys2Proof.Machine

/-! ## The canonical tree (R54) -/

/-- Combine neighbours, the lower-ranked one on the left; an odd last value passes on. -/
def pairUp {α : Type} (add : α → α → α) : List α → List α
  | x :: y :: r => add x y :: pairUp add r
  | l => l

/-- Levels of the tree, by fuel. -/
def treeGo {α : Type} (add : α → α → α) : Nat → List α → List α
  | 0, l => l
  | n + 1, l => treeGo add n (pairUp add l)

/-- The canonical reduction tree over values in rank order (R54); z for none. -/
def tree {α : Type} (add : α → α → α) (z : α) (l : List α) : α := (treeGo add (Nat.log2 l.length + 1) l).headD z

/-- Lift an operation that sets flags to values that carry the flags set so far. -/
def carry (op : Nat → Nat → Nat × Nat) (x y : Nat × Nat) : Nat × Nat :=
  let (v, f) := op x.1 y.1
  (v, f ||| x.2 ||| y.2)

/-! ## Operand classes (R47) -/

/-- The classes of R47. -/
inductive MClass where
  | float | int8 | mxint8 | half
  deriving DecidableEq, Repr, Inhabited

/-- The class of one operand's format; none for a format that a product refuses. -/
def mclass1 (c : Nat) : Option MClass := match c with
  | 0x1 => some .half
  | 0x2 => some .half
  | 0x3 => some .float
  | 0x4 => some .float
  | 0x5 => some .float
  | 0x6 => some .int8
  | 0x8 => some .float
  | 0x9 => some .float
  | 0xA => some .float
  | 0xB => some .float
  | 0xC => some .float
  | 0xD => some .mxint8
  | _ => none

/-- The class of a product; none where the pairing is refused. -/
def mclass (a b : Nat) : Option MClass := match mclass1 a, mclass1 b with
  | some x, some y => if x = y then some x else none
  | _, _ => none

/-- The block size along K. -/
def blockK (c : MClass) : Nat := if c = .half then 16 else 32

/-- K elements in a tile row (R73, R75). -/
def tileK (fmt : Nat) : Nat := match elemBits fmt with
  | 32 => 32
  | 16 => 64
  | 4 => 256
  | 64 => 32
  | _ => 128

/-- Element c of a 128-byte tile row (R73). Six-bit elements lie in 8-bit containers. -/
def rowElem (fmt : Nat) (row : Bytes) (c : Nat) : Nat := match elemBits fmt with
  | 32 => fld row (4 * c) 4
  | 16 => fld row (2 * c) 2
  | 6 => byte row c % 64
  | 4 => byte row (c / 2) / 16 ^ (c % 2) % 16
  | _ => byte row c

/-! ## Block sums -/

/-- What a block's products have met (R50). -/
structure Blk where
  sum : Dy := (0, 0)
  nan : Bool := false
  bad : Bool := false      -- an infinity times zero
  pos : Bool := false
  neg : Bool := false

/-- Add one product to a block. -/
def Blk.add (k : Blk) (a b : Num) : Blk :=
  match a, b with
  | .nan, _ => { k with nan := true }
  | _, .nan => { k with nan := true }
  | .fin s m e, .fin t n f => { k with sum := Dy.add k.sum (Dy.mul (Num.fin s m e).dy (Num.fin t n f).dy) }
  | a, b => match Num.mul a b with
    | (.inf s, _) => if s then { k with neg := true } else { k with pos := true }
    | _ => { k with bad := true }

/-- The scaled block sum V of R48 and R50, with its flags: sc is the sum of the two scale exponents, none for a NaN
scale. -/
def Blk.value (k : Blk) (sc : Option Int) : Num × Nat :=
  match sc with
  | none => (.nan, 0)
  | some e =>
    if k.nan then (.nan, 0)
    else if k.bad || (k.pos && k.neg) then (.nan, fInvalid)
    else if k.pos then (.inf false, 0) else if k.neg then (.inf true, 0)
    else ((k.sum.num false).scale e, 0)

/-- The products of one block, summed exactly. -/
def blockSum (fa fb : Nat) : List Nat → List Nat → Blk → Blk
  | a :: as, b :: bs, k => blockSum fa fb as bs (k.add (decodeElem fa a) (decodeElem fb b))
  | _, _, k => k

/-- Add a block into a floating accumulator of format f by RNE, the block's one rounding (R48). -/
def accAdd (f : FFmt) (acc : Nat) (v : Num) : Nat × Nat :=
  let (z, g) := Num.add 0 (f.decode acc) v
  let (w, h) := f.ofNum 0 0 z
  (w, g ||| h)

/-- The exact integer sum of a block of INT8 products (R51). -/
def intSum : List Nat → List Nat → Int
  | a :: as, b :: bs => sgn 8 a * sgn 8 b + intSum as bs
  | _, _ => 0

/-- A saturating INT32 accumulation of an exact integer (R51). -/
def accInt (acc : Nat) (v : Int) : Nat × Nat :=
  let z := sgn 32 acc + v
  if z > 2 ^ 31 - 1 then (2 ^ 31 - 1, fIntovf) else if z < -(2 ^ 31) then (2 ^ 31, fIntovf) else (toBits 32 z, 0)

/-- One output element of a product (R48 to R52): blocks in ascending K order, from accumulator acc. wide selects the
FP64 accumulator. ea and eb give each block's scale exponents; n blocks are left. -/
def dotGo (cls : MClass) (wide : Bool) (fa fb : Nat) (ea eb : Nat → Option Int) : Nat → Nat → List Nat → List Nat →
    Nat × Nat → Nat × Nat
  | 0, _, _, _, acc => acc
  | n + 1, j, as, bs, (acc, g) =>
    let b := blockK cls
    let (acc, h) :=
      if cls = .int8 && !wide then accInt acc (intSum (as.take b) (bs.take b))
      else
        let sc : Option Int := match ea j, eb j with
          | some x, some y => some (x + y)
          | _, _ => none
        let (v, h) := (blockSum fa fb (as.take b) (bs.take b) {}).value sc
        let (w, h') := accAdd (if wide then fp64 else fp32) acc v
        (w, h ||| h')
    dotGo cls wide fa fb ea eb n (j + 1) (as.drop b) (bs.drop b) (acc, g ||| h)

/-- Operand rows of a product: the packed row of 128 bytes and its 8 sidecar bytes. -/
abbrev ORow := Bytes × Bytes

/-- The scale exponent that block j of a row takes from its sidecar; 0 for a format without scales (R48, R75). -/
def rowScale (fmt off : Nat) (side : Bytes) (j : Nat) : Option Int :=
  if isMx fmt then scaleExp (byte side (off + j)) else some 0

/-- K elements of a row from an offset. -/
def rowElems (fmt : Nat) (row : Bytes) (o n : Nat) : List Nat := (List.range n).map fun k => rowElem fmt row (o + k)

/-- Fields of an MMA order (R75). -/
structure MmaOp where
  dt : Nat
  at_ : Nat
  bt : Nat
  ct : Nat
  afmt : Nat
  bfmt : Nat
  k : Nat        -- K elements used
  akoff : Nat
  bkoff : Nat
  wide : Bool
  czero : Bool
  epi : Bool
  deriving DecidableEq, Repr, Inhabited

/-- The fields of an MMA order word (R75). -/
def mmaOp (w : Nat) : MmaOp :=
  { dt := bits w 47 45, at_ := bits w 44 42, bt := bits w 41 39, ct := bits w 38 36, afmt := bits w 35 32,
    bfmt := bits w 31 28, k := bits w 27 20 + 1, akoff := bits w 19 17, bkoff := bits w 16 14, wide := bit w 48,
    czero := bit w 49, epi := bit w 50 }

/-- Blocks along K. -/
def MmaOp.blocks (o : MmaOp) : Nat := match mclass o.afmt o.bfmt with
  | some c => (o.k + blockK c - 1) / blockK c
  | none => 0

/-- Cycles that a block occupies the array (R77). -/
def MmaOp.perBlock (o : MmaOp) : Nat :=
  let w := max (elemBits o.afmt) (elemBits o.bfmt)
  let p := if w ≤ 4 then 32 else 64
  if o.wide then 4 * p else p

/-- The occupancy of an MMA in cycles (R77). -/
def MmaOp.occupancy (o : MmaOp) : Nat := o.perBlock * o.blocks

/-- The format code of the accumulator (R76). -/
def MmaOp.accFmt (o : MmaOp) : Nat :=
  if o.wide then 0xE else if mclass o.afmt o.bfmt = some .int8 then 0x7 else 0x0

/-- The 1,024 accumulators of a product, row by row, and the flags set (R75): as and bs are the 32 rows of A and B, cs
the initial accumulators. -/
def MmaOp.run (o : MmaOp) (as bs : List ORow) (cs : List Nat) : List Nat × Nat :=
  match mclass o.afmt o.bfmt with
  | none => (cs, 0)
  | some cls =>
    let at_ := as.map fun r => (rowElems o.afmt r.1 (32 * o.akoff) o.k, rowScale o.afmt o.akoff r.2)
    let bt := bs.map fun r => (rowElems o.bfmt r.1 (32 * o.bkoff) o.k, rowScale o.bfmt o.bkoff r.2)
    let outs := (List.range 1024).zipWith (fun i c =>
      let a := at_.getD (i / 32) ([], fun _ => none)
      let b := bt.getD (i % 32) ([], fun _ => none)
      dotGo cls o.wide o.afmt o.bfmt a.2 b.2 o.blocks 0 a.1 b.1 (c, 0)) cs
    (outs.map (·.1), outs.foldl (fun g x => g ||| x.2) 0)

end Sys2Proof.Machine
end

