-- ==== Sys2Proof/Machine/Trans.lean ====
section
/-! DEFINITION. The transcendental functions and division (R116, R117). Each function answers a number that rounds as the
exact mathematical value does: exact where the value is a dyadic number, and otherwise a bracketing value of several
hundred bits with its last bit set, so that the one rounding to the working format is the rounding of the exact value. -/
namespace Sys2Proof.Machine

/-- Fraction bits of the fixed-point numbers used here. -/
abbrev fxBits : Nat := 640
/-- 1 in fixed point. -/
def fxOne : Int := 2 ^ fxBits
/-- The constant pi, times 2^896, rounded down. -/
def piFx : Nat := 0x3243f6a8885a308d313198a2e03707344a4093822299f31d0082efa98ec4e6c89452821e638d01377be5466cf34e90c6cc0ac29b7c97c50dd3f84d5b5b54709179216d5d98979fb1bd1310ba698dfb5ac2ffd72dbd01adfb7b8e1afed6a267e96ba7c9045f12c7f9924a19947b3916cf7
/-- The natural logarithm of 2 in fixed point. -/
def ln2Fx : Nat := 0xb17217f7d1cf79abc9e3b39803f2f6af40f343267298b62d8a0d175b8baafa2be7b876206debac98559552fb4afa1b10ed2eae35c138214427573b291169b8253e96ca16224ae8c51acbda11317c387e
/-- 2 / sqrt(pi) in fixed point. -/
def twoSqrtPiFx : Nat := 0x120dd750429b6d11ae3a914fed7fd8688281341d7587cea2e7342b06199cc416180eb39f0b24e1e2281806c12d98f35d77a3e9ddc91c394f0e9eedf0efffd84a2a4ac3b98489b8cbd3845e8fef6ff6af9
/-- sqrt(1/2) in fixed point. -/
def sqrtHalfFx : Nat := 0xb504f333f9de6484597d89b3754abe9f1d6f60ba893ba84ced17ac85833399154afc83043ab8a2c3a8b1fe6fdc83db390f74a85e439c7b4a780487363dfa2768d2202e8742af1f4e53059c6011bc337b

/-- The product of fixed-point numbers. -/
def fxMul (a b : Int) : Int := a * b / fxOne
/-- The quotient of fixed-point numbers. -/
def fxDiv (a b : Int) : Int := a * fxOne / b
/-- A dyadic number of moderate size in fixed point. -/
def fxOf (m : Int) (e : Int) : Int :=
  let k := e + fxBits
  if 0 ≤ k then m * 2 ^ k.toNat else m / 2 ^ (-k).toNat

/-- The sum of a power series whose term n is the previous one times y / d(n): for n from i on, fuel terms. -/
def seriesGo (y : Int) (d : Nat → Nat) (w : Nat → Nat) : Nat → Nat → Int → Int → Int
  | 0, _, _, acc => acc
  | fuel + 1, n, t, acc =>
    let t := fxMul t y / (d n : Int)
    seriesGo y d w fuel (n + 1) t (acc + t / (w n : Int))

/-- e^r for |r| below 1. -/
def expSmall (r : Int) : Int := seriesGo r (fun n => n) (fun _ => 1) 150 1 fxOne fxOne

/-- e^x as (n, v) with value 2^n v in fixed point, 1 ≤ v < 2. -/
def expPair (x : Int) : Int × Int :=
  let n := x / (ln2Fx : Int)
  (n, expSmall (x - n * ln2Fx))

/-- e^x in fixed point, for x of moderate size. -/
def expFx (x : Int) : Int :=
  let (n, v) := expPair x
  if 0 ≤ n then v * 2 ^ n.toNat else v / 2 ^ (-n).toNat

/-- sin r for 0 ≤ r < 2. -/
def sinSmall (r : Int) : Int := seriesGo (-(fxMul r r)) (fun n => 2 * n * (2 * n + 1)) (fun _ => 1) 90 1 r r
/-- cos r for 0 ≤ r < 2. -/
def cosSmall (r : Int) : Int := seriesGo (-(fxMul r r)) (fun n => (2 * n - 1) * (2 * n)) (fun _ => 1) 90 1 fxOne fxOne
/-- atanh z for |z| below 1/4. -/
def atanhSmall (z : Int) : Int := seriesGo (fxMul z z) (fun _ => 1) (fun n => 2 * n + 1) 200 1 z z
/-- erf a for 0 ≤ a below 12. -/
def erfFx (a : Int) : Int :=
  fxMul twoSqrtPiFx (seriesGo (-(fxMul a a)) (fun n => n) (fun n => 2 * n + 1) 700 1 a a)

/-- ln of m times 2^e, for m not zero. -/
def lnFx (m : Nat) (e : Int) : Int :=
  let nb := Nat.log2 m
  let mant : Int := (m : Int) * fxOne / 2 ^ nb
  let (mant, k) := if 2 * mant > 3 * fxOne then (mant / 2, e + nb + 1) else (mant, e + nb)
  k * ln2Fx + 2 * atanhSmall (fxDiv (mant - fxOne) (mant + fxOne))

/-- An inexact result: a fixed-point value times 2^n, its last bit set to stand for the digits cut off. -/
def sticky (v : Int) (n : Int) : Num := .fin (v < 0) (2 * v.natAbs + 1) (n - fxBits - 1)

/-- Integer square root by binary digits below 2^k. -/
def isqrtGo (n : Nat) : Nat → Nat → Nat
  | 0, acc => acc
  | k + 1, acc => isqrtGo n k (if (acc + 2 ^ k) * (acc + 2 ^ k) ≤ n then acc + 2 ^ k else acc)
/-- Integer square root. -/
def isqrt (n : Nat) : Nat := isqrtGo n (Nat.log2 n / 2 + 1) 0

/-- x clamped to [-b, b] for integer b, in fixed point. -/
def fxClamp (b : Nat) (s : Bool) (m : Nat) (e : Int) : Int :=
  let big := m != 0 && topExp m e ≥ (Nat.log2 b : Int) + 1
  let v := if big then (b : Int) * fxOne else fxOf m e
  if s then -v else v

/-- Whether m times 2^e is a power of two. -/
def isPow2 (m : Nat) : Bool := m == 2 ^ Nat.log2 m

/-- Sine (quarter 0) or cosine (quarter 1) of a finite number that is not zero. -/
def sinCos (quarter : Nat) (s : Bool) (m : Nat) (e : Int) : Num :=
  let x2 : Nat := (fxOf m (e + 1 + (896 - fxBits : Nat))).toNat
  let n := x2 / piFx
  let r : Int := ((x2 - n * piFx) / 2 ^ (897 - fxBits) : Nat)
  let v := match (n + quarter) % 4 with
    | 0 => sinSmall r
    | 1 => cosSmall r
    | 2 => -(sinSmall r)
    | _ => -(cosSmall r)
  sticky (if s && quarter == 0 then -v else v) 0

/-- Square root of a positive finite number. -/
def sqrtNum (m : Nat) (e : Int) : Num :=
  let e2 := e - e % 2
  let M := m * 2 ^ (e % 2).toNat * 2 ^ 200
  let r := isqrt M
  .fin false (2 * r + b2n (r * r != M)) (e2 / 2 - 101)

/-- Reciprocal square root of a positive finite number. -/
def rsqrtNum (m : Nat) (e : Int) : Num :=
  let e2 := e - e % 2
  let M := m * 2 ^ (e % 2).toNat
  let t := 2 ^ 400 / M
  let r := isqrt t
  .fin false (2 * r + b2n (r * r * M != 2 ^ 400)) (-(e2 / 2) - 201)

/-- The quotient of finite numbers, the divisor not zero: exact, or with its last bit set for a remainder. -/
def quotNum (s : Bool) (m : Nat) (e : Int) (n : Nat) (f : Int) : Num :=
  let k := 120 + Nat.log2 n
  let q := m * 2 ^ k / n
  .fin s (2 * q + b2n (m * 2 ^ k % n != 0)) (e - f - k - 1)

/-- Division by IEEE 754-2019 (R117). -/
def divNum : Num → Num → Num × Nat
  | .nan, _ => (.nan, 0)
  | _, .nan => (.nan, 0)
  | .inf _, .inf _ => (.nan, fInvalid)
  | .inf a, y => (.inf (a != y.sign), 0)
  | x, .inf b => (.fin (x.sign != b) 0 0, 0)
  | .fin a m e, .fin b n f =>
    if n = 0 then (if m = 0 then (.nan, fInvalid) else (.inf (a != b), fDivz))
    else if m = 0 then (.fin (a != b) 0 0, 0)
    else (quotNum (a != b) m e n f, 0)

/-- +0. -/
def zeroN : Num := .fin false 0 0
/-- 1. -/
def oneN : Num := .fin false 1 0

/-- A function of R116 at an input, with the special inputs of R117. -/
def fnNum (code : Nat) (x : Num) : Num × Nat :=
  match code, x with
  | _, .nan => (.nan, 0)
  | 0x00, .inf s => (if s then zeroN else .inf false, 0)
  | 0x00, .fin s m e =>
    let v := fxClamp 1024 s m e
    let n := v / fxOne
    let f := v - n * fxOne
    if f = 0 then (.fin false 1 n, 0)
    else let (k, w) := expPair (fxMul f ln2Fx); (sticky w (n + k), 0)
  | 0x01, .inf s => (if s then zeroN else .inf false, 0)
  | 0x01, .fin s m e =>
    if m = 0 then (oneN, 0) else let (k, w) := expPair (fxClamp 1024 s m e); (sticky w k, 0)
  | 0x02, .inf s => if s then (.nan, fInvalid) else (.inf false, 0)
  | 0x02, .fin s m e =>
    if m = 0 then (.inf true, 0) else if s then (.nan, fInvalid)
    else if isPow2 m then let k := topExp m e; (.fin (k < 0) k.natAbs 0, 0)
    else (sticky (fxDiv (lnFx m e) ln2Fx) 0, 0)
  | 0x03, .inf s => if s then (.nan, fInvalid) else (.inf false, 0)
  | 0x03, .fin s m e =>
    if m = 0 then (.inf true, 0) else if s then (.nan, fInvalid)
    else if isPow2 m && topExp m e == 0 then (zeroN, 0)
    else (sticky (lnFx m e) 0, 0)
  | 0x04, .inf s => (.fin s 0 0, 0)
  | 0x04, .fin s m e => if m = 0 then (.inf s, fDivz) else (quotNum s 1 0 m e, 0)
  | 0x05, .inf s => if s then (.nan, fInvalid) else (.inf false, 0)
  | 0x05, .fin s m e => if m = 0 then (.fin s 0 0, 0) else if s then (.nan, fInvalid) else (sqrtNum m e, 0)
  | 0x06, .inf s => if s then (.nan, fInvalid) else (zeroN, 0)
  | 0x06, .fin s m e => if m = 0 then (.inf s, fDivz) else if s then (.nan, fInvalid) else (rsqrtNum m e, 0)
  | 0x07, .inf _ => (.nan, fInvalid)
  | 0x07, .fin s m e => if m = 0 then (.fin s 0 0, 0) else (sinCos 0 s m e, 0)
  | 0x08, .inf _ => (.nan, fInvalid)
  | 0x08, .fin s m e => if m = 0 then (oneN, 0) else (sinCos 1 s m e, 0)
  | 0x09, .inf s => (.fin s 1 0, 0)
  | 0x09, .fin s m e =>
    if m = 0 then (.fin s 0 0, 0)
    else let w := expFx (2 * fxClamp 100 false m e)
         let v := fxDiv (w - fxOne) (w + fxOne)
         (sticky (if s then -v else v) 0, 0)
  | 0x0A, .inf s => (if s then zeroN else oneN, 0)
  | 0x0A, .fin s m e =>
    if m = 0 then (.fin false 1 (-1), 0)
    else (sticky (fxDiv fxOne (fxOne + expFx (-(fxClamp 256 s m e)))) 0, 0)
  | 0x0B, .inf s => (.fin s 1 0, 0)
  | 0x0B, .fin s m e =>
    if m = 0 then (.fin s 0 0, 0)
    else let v := if topExp m e ≥ 3 then fxOne - fxOne / 2 ^ 90 else erfFx (fxOf m e)
         (sticky (if s then -v else v) 0, 0)
  | 0x0C, .inf s => (if s then .fin true 0 0 else .inf false, 0)
  | 0x0C, .fin s m e =>
    if m = 0 then (.fin s 0 0, 0)
    else
      let g := fxDiv fxOne (fxOne + expFx (-(fxClamp 256 s m e)))
      (.fin s (2 * (m * g.natAbs) + 1) (e - fxBits - 1), 0)
  | 0x0D, .inf s => (if s then .fin true 0 0 else .inf false, 0)
  | 0x0D, .fin s m e =>
    if m = 0 then (.fin s 0 0, 0)
    else
      let big := topExp m e ≥ 4
      let a := if big then 0 else fxMul (fxOf m e) sqrtHalfFx
      let g : Int := if big then (if s then 1 else fxOne - 1)
        else (fxOne + (if s then -(erfFx a) else erfFx a)) / 2
      (.fin s (2 * (m * g.natAbs) + 1) (e - fxBits - 1), 0)
  | _, _ => (.nan, fInvalid)

/-- Whether a function rounds in RMODE: RCP and SQRT; every other rounds by RNE (R116). -/
def fnInRmode (code : Nat) : Bool := code == 0x04 || code == 0x05

end Sys2Proof.Machine
end

