-- ==== Sys2Proof/Machine/Vector.lean ====
section
/-! DEFINITION. Vector launches: descriptors, the walk, micro-ops and results (chapter 4). A launch is computed as a whole
from what it reads; the engine in Stall.lean gives it its operands, its time and its writes. -/
namespace Sys2Proof.Machine

/-! ## Descriptors (R96, R97) -/

/-- A vector descriptor. -/
structure VDesc where
  gen : Nat
  fmt1 : Nat
  fmt2 : Nat
  ofmt : Nat
  wfmt : Nat
  loc1 : Nat
  loc2 : Nat
  loco : Nat
  tail : Nat
  bc2 : Nat
  red : Nat
  rdim : Nat
  stamp1 : Nat
  stamp2 : Nat
  stampo : Nat
  holdo : Bool
  rel1 : Bool
  rel2 : Bool
  base1 : Nat
  base2 : Nat
  baseo : Nat
  cnt : List Nat         -- counts minus 1, by dimension
  istr : List Int
  ostr : List Int
  op : Nat
  prog : Nat
  pvalid : Bool
  imm0 : Nat
  imm1 : Nat
  tid : Nat
  row0 : Nat
  col0 : Nat
  glen : Nat
  rsv : Bool             -- a reserved field is non-zero
  deriving DecidableEq, Repr, Inhabited

/-- Read a descriptor's 96 bytes (R96, R97). -/
def vdesc (b : Bytes) : VDesc :=
  let w := fld b 0 8
  let a := fld b 8 8
  let p := fld b 68 4
  { gen := bits w 3 0, fmt1 := bits w 7 4, fmt2 := bits w 11 8, ofmt := bits w 15 12, wfmt := bits w 17 16,
    loc1 := bits w 19 18, loc2 := bits w 21 20, loco := bits w 23 22, tail := bits w 25 24, bc2 := bits w 31 26,
    red := bits w 33 32, rdim := bits w 36 34, stamp1 := bits w 40 37, stamp2 := bits w 44 41, stampo := bits w 48 45,
    holdo := bit w 49, rel1 := bit w 50, rel2 := bit w 51,
    base1 := bits a 20 0, base2 := bits a 41 21, baseo := bits a 62 42,
    cnt := (List.range 6).map fun d => fld b (16 + 5 * d) 2,
    istr := (List.range 6).map fun d => sgn 24 (fld b (18 + 5 * d) 3),
    ostr := (List.range 6).map fun d => sgn 24 (fld b (46 + 3 * d) 3),
    op := fld b 64 4, prog := bits p 7 0, pvalid := bit p 8, imm0 := fld b 72 4, imm1 := fld b 76 4,
    tid := fld b 80 4, row0 := fld b 84 4, col0 := fld b 88 4, glen := fld b 92 3,
    rsv := bits w 63 52 != 0 || bit a 63 || bits p 31 9 != 0 || byte b 95 != 0 }

/-- The working format and its R34 code (R93). -/
def wcode (w : Nat) : Nat := match w with
  | 1 => 0x1
  | 2 => 0x2
  | _ => 0x0
def wffmt (w : Nat) : FFmt := match w with
  | 1 => bf16
  | 2 => fp16
  | _ => fp32
/-- Lanes of a vector (R93). -/
def lanesOf (w : Nat) : Nat := if w = 0 then 32 else 64

/-- Count of dimension d. -/
def VDesc.n (d : VDesc) (i : Nat) : Nat := d.cnt.getD i 0 + 1
/-- Vectors along dimension 0. -/
def VDesc.inner (d : VDesc) : Nat := (d.n 0 + lanesOf d.wfmt - 1) / lanesOf d.wfmt
/-- Outer index vectors. -/
def VDesc.outers (d : VDesc) : Nat := (List.range 5).foldl (fun acc i => acc * d.n (i + 1)) 1
/-- Vectors of the launch (R98). -/
def VDesc.vectors (d : VDesc) : Nat := d.inner * d.outers
/-- The outer index (i1 .. i5) with number k, i1 fastest. -/
def VDesc.outer (d : VDesc) (k : Nat) : List Nat :=
  ((List.range 5).foldl (fun (acc : List Nat × Nat) i => (acc.1 ++ [acc.2 % d.n (i + 1)], acc.2 / d.n (i + 1))) ([], k)).1
/-- The index vector (i0 .. i5) of vector v and lane l. -/
def VDesc.index (d : VDesc) (v l : Nat) : List Nat := (v % d.inner * lanesOf d.wfmt + l) :: d.outer (v / d.inner)
/-- The present length of vector v (R101). -/
def VDesc.present (d : VDesc) (v : Nat) : Nat := min (lanesOf d.wfmt) (d.n 0 - v % d.inner * lanesOf d.wfmt)

/-- Base plus the sum of index times stride. -/
def affine (base : Nat) (ix : List Nat) (st : List Int) : Nat :=
  ((ix.zip st).foldl (fun (acc : Int) p => acc + (p.1 : Int) * p.2) (base : Int)).toNat
/-- Whether the launch reduces dimension i (R98, R111). -/
def VDesc.reduces (d : VDesc) (i : Nat) : Bool := (d.red == 1 && i == 0) || (d.red == 2 && i == d.rdim)
/-- addr1 of R98. -/
def VDesc.addr1 (d : VDesc) (ix : List Nat) : Nat := affine d.base1 ix d.istr
/-- addr2 of R98. -/
def VDesc.addr2 (d : VDesc) (ix : List Nat) : Nat :=
  affine d.base2 ix ((d.istr.zipIdx).map fun p => if bit d.bc2 p.2 then 0 else p.1)
/-- An index vector with zeros in the reduced dimensions. -/
def VDesc.outIndex (d : VDesc) (ix : List Nat) : List Nat := (ix.zipIdx).map fun p => if d.reduces p.2 then 0 else p.1
/-- addro of R98. -/
def VDesc.addro (d : VDesc) (ix : List Nat) : Nat := affine d.baseo (d.outIndex ix) d.ostr

/-- The row coordinate of R103 for the generator. -/
def VDesc.srRow (d : VDesc) (ix : List Nat) : Nat :=
  d.row0 + (ix.drop 1).zipIdx.foldr (fun p acc => p.1 + d.n (p.2 + 1) * acc) 0

/-! ## Where elements lie (R73, R74, R99) -/

/-- Elements in a tile row for a format (R73). -/
def rowLen (fmt : Nat) : Nat := tileK fmt

/-- The bytes that an element occupies: (byte address, shift, bits) pieces, least significant first. Address 0 is byte 0 of
the tile space of the Stall, or of its Chest. -/
def elemPieces (isTile : Bool) (tile fmt e : Nat) : List (Nat × Nat × Nat) :=
  let w := elemBits fmt
  if isTile && w == 64 then
    let o := 4096 * tile + 4 * e
    (List.range 4).map (fun i => (o + i, 0, 8)) ++ (List.range 4).map fun i => (o + 4096 + i, 0, 8)
  else if isTile && w == 6 then [(4096 * tile + e, 0, 8)]
  else
    let ba := (if isTile then 8 * 4096 * tile else 0) + e * w
    if w ≥ 8 then (List.range (w / 8)).map fun i => (ba / 8 + i, 0, 8)
    else if ba % 8 + w ≤ 8 then [(ba / 8, ba % 8, w)]
    else [(ba / 8, ba % 8, 8 - ba % 8), (ba / 8 + 1, 0, w - (8 - ba % 8))]

/-- Read an element through a byte reader. -/
def readPieces (get : Nat → Byte) : List (Nat × Nat × Nat) → Nat
  | [] => 0
  | (a, sh, w) :: r => (get a).toNat / 2 ^ sh % 2 ^ w + 2 ^ w * readPieces get r

/-- A write of bits of one byte: address, bits written, value. -/
abbrev BWrite := Nat × Byte × Byte

/-- The byte writes of an element. -/
def writePieces (v : Nat) : List (Nat × Nat × Nat) → List BWrite
  | [] => []
  | (a, sh, w) :: r =>
    (a, BitVec.ofNat 8 ((2 ^ w - 1) * 2 ^ sh), BitVec.ofNat 8 (v % 2 ^ w * 2 ^ sh)) :: writePieces (v / 2 ^ w) r

/-- Apply masked byte writes to a memory, addresses offset by o. -/
def memMasks (d : Byte) (o : Nat) (m : Memory) : List BWrite → Memory
  | [] => m
  | (a, mask, v) :: r => memMasks d o (put d m (o + a) ((look d m (o + a) &&& ~~~ mask) ||| (v &&& mask))) r

/-! ## Micro-ops (R105 to R107, R113, R116) -/

/-- A micro-op's fields (R105). -/
structure MicroOp where
  opc : Nat
  dst : Nat
  a : Nat
  b : Nat
  c : Nat
  imm : Nat
  func : Nat
  deriving DecidableEq, Repr, Inhabited

/-- The fields of a micro-op word. -/
def microOp (w : Nat) : MicroOp :=
  { opc := bits w 5 0, dst := bits w 8 6, a := bits w 11 9, b := bits w 14 12, c := bits w 17 15, imm := bits w 19 18,
    func := bits w 31 20 }

/-- What a launch computes with besides its frame: the working format, the rounding mode resolved for arithmetic, the mode
of conversions, NONSAT, the immediates converted to the working format, and for each lane its indices and its draw of
the generator. -/
structure LaneEnv where
  w : Nat
  mode : Nat
  nonsat : Bool
  imm0 : Nat
  imm1 : Nat
  ixs : List (List Nat)
  rs : List Nat

/-- The mode of a conversion from a width to a format code (R41): SR only where the target is narrower than the source and is not
FP32, INT32 or FP64. -/
def convMode (mode srcBits dst : Nat) : Nat := if elemBits dst < srcBits && !isWide dst then mode else wideMode mode

/-- A list of results with flags, as values and joined flags. -/
def gather (l : List (Nat × Nat)) : List Nat × Nat := (l.map (·.1), l.foldl (fun g x => g ||| x.2) 0)

/-- The integer that a working-format value is, when it is one and not negative (R113): minus zero counts as 0. -/
def asIndex (f : FFmt) (v : Nat) : Option Nat := match f.decode v with
  | .fin s m e =>
    if m = 0 then some 0
    else if s then none
    else if 0 ≤ e then (if e ≥ 64 then none else some (m * 2 ^ e.toNat))
    else if m % 2 ^ (-e).toNat = 0 then some (m / 2 ^ (-e).toNat) else none
  | _ => none

/-- Compare two values of the working format (R107): a NaN makes every relation false but NE. -/
def cmpRel (rel : Nat) (x y : Num) : Bool :=
  let nan := x.isNan || y.isNan
  let lt := x.lt y
  let gt := y.lt x
  match rel with
  | 0 => !nan && !lt && !gt
  | 1 => nan || lt || gt
  | 2 => lt
  | 3 => !nan && !gt
  | 4 => gt
  | _ => !nan && !lt

/-- A lane value of three operands, lane by lane. -/
def lanes3 (f : Nat → Nat → Nat → Nat × Nat) (a b c : List Nat) : List Nat × Nat :=
  gather ((a.zip (b.zip c)).map fun p => f p.1 p.2.1 p.2.2)

/-- The index of a lane along a dimension as a working-format value (R107). An index that the format does not represent
exactly has no stated value: it is a free value of the format and the index (notes/assumptions/12.md). -/
def idxValue (f : FFmt) (i : Nat) : Nat :=
  let (v, g) := f.ofNum 0 0 (.fin false i 0)
  if g = 0 then v else Config.idxInexact f.eb i % 2 ^ f.width

/-- Run one micro-op on the operands of the active lanes: the lanes written to DST, and the flags (R107). -/
def runOp (env : LaneEnv) (o : MicroOp) (a b c : List Nat) : List Nat × Nat :=
  let f := wffmt env.w
  let n := a.length
  let m := wideMode env.mode
  let dec := f.decode
  let top := 2 ^ (f.eb + f.mb)
  let neg (v : Nat) : Nat := if v < top then v + top else v - top
  let rnd (x : Num × Nat) : Nat × Nat := let (v, g) := f.ofNum m 0 x.1; (v, x.2 ||| g)
  let fma (x y z : Nat) : Nat × Nat :=
    let (p, g) := Num.mul (dec x) (dec y)
    let (t, h) := Num.add m p (dec z)
    rnd (t, if (dec z).isNan then 0 else g ||| h)
  match o.opc with
  | 0x01 => (a, 0)
  | 0x02 =>
    gather ((a.zip env.rs).map fun p =>
      let code := o.func % 16
      let (v, g) := match elemOf code with
        | some (.int w e) => convInt w e (convMode env.mode f.width code) p.2 (dec p.1)
        | some (.flt ft) =>
          if code = 0 ∨ code = 1 ∨ code = 2 then ft.ofNum (convMode env.mode f.width code) p.2 (dec p.1)
          else convNarrow ft env.nonsat (convMode env.mode f.width code) p.2 (dec p.1)
        | none => (0, 0)
      ((f.ofNum 0 0 (decodeElem code v)).1, g))
  | 0x03 => gather (a.map fun x => rnd ((dec x).scale (sgn 8 (o.func % 256)), 0))
  | 0x04 => (a.map fun x => x % top, 0)
  | 0x05 => (a.map neg, 0)
  | 0x06 => (env.ixs.map fun ix => idxValue f (ix.getD (o.func % 8) 0), 0)
  | 0x10 => lanes3 (fun x y z => fma (if bit o.func 0 then neg x else x) y (if bit o.func 1 then neg z else z)) a b c
  | 0x11 => lanes3 (fun x y _ => rnd (Num.add m (dec x) (dec y))) a b c
  | 0x12 => lanes3 (fun x y _ => rnd (Num.add m (dec x) (dec y).neg)) a b c
  | 0x13 => lanes3 (fun x y _ => rnd (Num.mul (dec x) (dec y))) a b c
  | 0x20 => lanes3 (fun x y _ =>
      let code := o.func % 32
      let (z, g) := fnNum code (dec x)
      if bit o.func 5 then
        let (v, h) := f.ofNum 0 0 z
        let (t, k) := Num.mul (dec v) (dec y)
        rnd (t, g ||| h ||| k)
      else let (v, h) := f.ofNum (if fnInRmode code then m else 0) 0 z; (v, g ||| h)) a b c
  | 0x21 => lanes3 (fun x y _ => rnd (divNum (dec x) (dec y))) a b c
  | 0x30 => lanes3 (fun x y _ => (if cmpRel (o.func % 8) (dec x) (dec y) then 2 ^ f.width - 1 else 0, 0)) a b c
  | 0x31 => lanes3 (fun x y z => (if x = 0 then z else y, 0)) a b c
  | 0x32 => lanes3 (fun x y _ => f.ofNum 0 0 ((dec x).max (dec y))) a b c
  | 0x33 => lanes3 (fun x y _ => f.ofNum 0 0 ((dec x).min (dec y))) a b c
  | 0x34 => lanes3 (fun x y z => f.ofNum 0 0 (((dec x).max (dec y)).min (dec z))) a b c
  | 0x35 => gather (b.map fun x => match asIndex f x with
      | some g => if g < n then (a.getD g 0, 0) else (0, fRange)
      | none => (0, fRange))
  | 0x36 => ((List.range n).map fun k => a.getD ((k + o.func % 64) % n) 0, 0)
  | 0x37 => if o.func % 64 < n then (a.map fun _ => a.getD (o.func % 64) 0, 0) else (a.map fun _ => 0, fRange)
  | _ => (a, 0)

/-- A register frame: eight registers of the active lanes (R106). -/
abbrev Frame := List (List Nat)

/-- Run a micro-op on a frame. NOP changes nothing; RED is taken by the launch, its value stays in the frame. -/
def stepOp (env : LaneEnv) (w : Nat) (fr : Frame) : Frame × Nat :=
  let o := microOp w
  if o.opc = 0 ∨ o.opc = 0x3C then (fr, 0)
  else
    let reg (i : Nat) := fr.getD i []
    let n := env.ixs.length
    let a := reg o.a
    let b := match o.imm with
      | 1 => List.replicate n env.imm0
      | 2 => List.replicate n env.imm1
      | _ => reg o.b
    let c := if o.imm = 3 then List.replicate n env.imm0 else reg o.c
    let (v, g) := runOp env o a b c
    (fr.set o.dst v, g)

/-- Run micro-ops in order. -/
def runOps (env : LaneEnv) : List Nat → Frame → Nat → Frame × Nat
  | [], fr, g => (fr, g)
  | w :: r, fr, g => let (fr', h) := stepOp env w fr; runOps env r fr' (g ||| h)

/-! ## A launch -/

/-- A launch: what its order and its latched copies fix (R121). stages holds the micro-ops of each of the six stages. -/
structure Launch where
  d      : VDesc
  stages : List (List Nat)
  outreg : Nat
  src1   : Nat
  src2   : Nat
  dst    : Nat
  rmode  : Nat           -- resolved (R40)
  nonsat : Bool
  seed   : W64
  step   : Nat
  trapen : Nat
  cut    : Option Nat := none   -- the last vector that writes (R115)

/-- Micro-ops of an element program (R109): the slots used, by stage. -/
def progStages (p : Bytes) : List (List Nat) :=
  (List.range 6).map fun s => (List.range (bits (fld p 0 8) (4 * s + 11) (4 * s + 8))).map fun j => fld p (8 + 32 * s + 4 * j) 4

/-- The stage of a micro-op in instruction mode, 0-based: stage 2 for the FMA group, the first legal one for the others
(R108). -/
def opStage (w : Nat) : Nat :=
  let c := bits w 5 0
  if c < 0x10 then 0 else if c < 0x20 then 1 else if c < 0x30 then 3 else if c < 0x3C then 4 else 5

/-- Stages of a VEC launch (R108). -/
def vecStages (d : VDesc) : List (List Nat) := (List.range 6).map fun s => if s = opStage d.op then [d.op] else []

/-- How a launch reads: an element of a tile or of the Chest through bytes, and the sidecar byte of a tile. -/
structure Reader where
  tile  : Nat → Byte            -- by byte of the Stall's tile space
  side  : Nat → Byte            -- by byte of the Stall's sidecar space
  chest : Nat → Byte            -- by byte of the paired Chest

/-- Read element e of a source: its pattern and its number (R102). -/
def Reader.elem (rd : Reader) (isTile : Bool) (tile fmt e : Nat) : Nat × Num :=
  let v := readPieces (if isTile then rd.tile else rd.chest) (elemPieces isTile tile fmt e)
  let v := v % 2 ^ elemBits fmt
  if isMx fmt then
    let r := e / rowLen fmt
    let j := e % rowLen fmt / 32
    (v, mxNum fmt v (rd.side (256 * tile + 8 * r + j)).toNat)
  else (v, decodeElem fmt v)

/-- Enter the pipeline: convert a source element to the working format (R102). -/
def enter (w mode r fmt : Nat) (x : Nat × Num) : Nat × Nat :=
  if fmt = wcode w then (x.1, 0)
  else
    let mode := convMode mode (elemBits fmt) (wcode w)
    (wffmt w).ofNum mode r x.2

/-- Draw of the generator for an element of the launch (R103). -/
def Launch.draw (l : Launch) (ix : List Nat) : Nat :=
  srBits l.seed l.d.tid (l.d.srRow ix) (l.d.col0 + ix.getD 0 0) l.step 1

/-- The gather index of a lane: an integer below GLEN (R114). -/
def gatherIx (w glen v : Nat) : Option Nat := match asIndex (wffmt w) v with
  | some g => if g < glen then some g else none
  | none => none

/-- Sources of vector v: V0, V1 and the flags of entry (R102, R114). -/
def Launch.sources (l : Launch) (rd : Reader) (ixs : List (List Nat)) (rs : List Nat) : List Nat × List Nat × Nat :=
  let d := l.d
  let load (loc tile fmt : Nat) (addr : List Nat → Nat) : List Nat × Nat :=
    if loc = 0 then (ixs.map fun _ => 0, 0)
    else gather ((ixs.zip rs).map fun p => enter d.wfmt l.rmode p.2 fmt (rd.elem (loc == 1) tile fmt (addr p.1)))
  let (v1, g1) := load d.loc2 l.src2 d.fmt2 d.addr2
  let (v0, g0) :=
    if d.loc1 = 3 then
      gather ((v1.zip rs).map fun p => match gatherIx d.wfmt d.glen p.1 with
        | some g => enter d.wfmt l.rmode p.2 d.fmt1
            (rd.elem false 0 d.fmt1 (affine d.base1 [g] [d.istr.getD 0 0]))
        | none => (0, fRange))
    else load d.loc1 l.src1 d.fmt1 d.addr1
  (v0, v1, g0 ||| g1)

/-- A result of a launch: output address, draw, pattern in the source format code given, and the last vector that it is made from. -/
structure Result where
  addr : Nat
  r    : Nat
  val  : Nat
  from_ : Nat := 0
  deriving Inhabited

/-- Whether a vector still writes: all do, but for those past the cut of R115. -/
def Launch.writes (l : Launch) (v : Nat) : Bool := match l.cut with
  | none => true
  | some k => decide (v ≤ k)

/-- Convert an outgoing value from a format code to OFMT (R103): unchanged where they are equal. -/
def leave (mode : Nat) (nonsat : Bool) (src ofmt r v : Nat) : Nat × Nat :=
  if ofmt = src then (v, 0)
  else convNum ofmt nonsat (convMode mode (elemBits src) ofmt) r (decodeElem src v)

/-- Byte writes and flags of results in a plain format. -/
def Launch.plainOut (l : Launch) (src : Nat) (rs : List Result) : List BWrite × Nat :=
  rs.foldl (fun acc x =>
    let (v, g) := leave l.rmode l.nonsat src l.d.ofmt x.r x.val
    (acc.1 ++ writePieces v (elemPieces (l.d.loco == 1) l.dst l.d.ofmt x.addr), acc.2 ||| g)) ([], 0)

/-- Byte writes, sidecar writes and flags of results in an MX format: each 32-element block of the destination row that a
result lies in is quantized as a unit, what the launch does not write counting as +0. R103 says so of RED = 01; that it holds of an
output without that reduction too is DESIGN CHOICE (notes/assumptions/64.md). A block that takes in a vector past the cut is not
written (R115). -/
def Launch.mxOut (l : Launch) (src : Nat) (rs : List Result) : List BWrite × List (Nat × Byte) × Nat :=
  let late := (rs.filter fun x => !l.writes x.from_).map fun x => x.addr / 32
  let blocks := ((rs.map fun x => x.addr / 32).foldl (fun acc b => insertUp b acc) []).filter fun b => !late.contains b
  blocks.foldl (fun acc b =>
    let at_ (k : Nat) := rs.find? fun x => x.addr = 32 * b + k
    let xs := (List.range 32).map fun k => match at_ k with
      | some x => decodeElem src x.val
      | none => zeroN
    let draws := (List.range 32).map fun k => match at_ k with
      | some x => x.r
      | none => 0
    let (sc, es, g) := convMx l.d.ofmt (convMode l.rmode (elemBits src) l.d.ofmt) xs draws
    let e := 32 * b
    let row := e / rowLen l.d.ofmt
    let j := e % rowLen l.d.ofmt / 32
    (acc.1 ++ (es.zipIdx.flatMap fun p => writePieces p.1 (elemPieces true l.dst l.d.ofmt (e + p.2))),
     acc.2.1 ++ [(256 * l.dst + 8 * row + j, BitVec.ofNat 8 sc)], acc.2.2 ||| g)) ([], [], 0)

/-- Fill writes of vector v under TAIL = FILL: +0 at the addresses of its inactive lanes (R101). -/
def Launch.fills (l : Launch) (v : Nat) : List Result :=
  let d := l.d
  if d.tail = 2 ∧ d.red = 0 then
    (List.range (lanesOf d.wfmt - d.present v)).map fun k =>
      { addr := d.addro (d.index v (d.present v + k)), r := 0, val := 0, from_ := v }
  else []

/-- What a launch did: for each vector its byte writes and flags, then the writes that wait for all of them, and their
flags. -/
structure LaunchOut where
  vecs : List (List BWrite × Nat)
  last : List BWrite
  side : List (Nat × Byte)
  lastFlags : Nat
  deriving Inhabited

/-- One vector: its frame after all stages, its lanes' index vectors and draws, and its flags. IMM0 and IMM1 are converted to the working
format by RNE, with the flags of that conversion (R42, R61, R106); in an FP32 launch they enter unchanged, a NaN with its payload, as a
source of the working format does (R102): DESIGN CHOICE (notes/assumptions/64.md). -/
def Launch.vector (l : Launch) (rd : Reader) (v : Nat) : Frame × List (List Nat) × List Nat × Nat :=
  let d := l.d
  let ixs := (List.range (d.present v)).map (d.index v)
  let rs := if l.rmode = 4 then ixs.map l.draw else ixs.map fun _ => 0
  let (v0, v1, g) := l.sources rd ixs rs
  let z := ixs.map fun _ => 0
  let cv (x : Nat) : Nat × Nat := if d.wfmt = 0 then (x, 0) else (wffmt d.wfmt).ofNum 0 0 (fp32.decode x)
  let env : LaneEnv :=
    { w := d.wfmt, mode := l.rmode, nonsat := l.nonsat, imm0 := (cv d.imm0).1, imm1 := (cv d.imm1).1, ixs := ixs, rs := rs }
  let (fr, h) := runOps env l.stages.flatten [v0, v1, z, z, z, z, z, z] ((cv d.imm0).2 ||| (cv d.imm1).2)
  (fr, ixs, rs, g ||| h)

/-- The RED micro-op of a launch. -/
def Launch.redOp (l : Launch) : Option MicroOp := (l.stages.flatten.map microOp).find? fun o => o.opc = 0x3C

/-- The reduction of values of the working format in ascending index order (R112): the FP32 pattern and the flags. kind 0 SUM, 1 MAX,
2 MIN, 3 SUMSQ; the inputs convert to FP32 exactly. -/
def reduce (w kind : Nat) (xs : List Nat) : Nat × Nat :=
  let up (x : Nat) : Nat := if w = 0 then x else (fp32.ofNum 0 0 ((wffmt w).decode x)).1
  let ys := xs.map up
  let fold (op : Num → Num → Num) : Nat × Nat :=
    fp32.ofNum 0 0 (match ys.map fp32.decode with
      | [] => zeroN
      | x :: r => r.foldl op (op x x))
  match kind with
  | 0 => tree (carry (add32 0)) (0, 0) (ys.map fun x => (x, 0))
  | 3 => tree (carry (add32 0)) (0, 0) (ys.map fun x => mul32 0 x x)
  | 1 => fold Num.max
  | _ => fold Num.min

/-- The inputs of one output of a reduction: its output address, its index vector with zeros in the reduced dimensions, the values so
far, and the vector of the last one. -/
structure RedGroup where
  addr : Nat
  ix   : List Nat
  vals : List Nat
  last : Nat

/-- Add a reduction input of a vector to those of its output address. The walk meets the inputs of one output in ascending index
order along the reduced dimension (R98, R112). -/
def addInput (a x v : Nat) (ix : List Nat) : List RedGroup → List RedGroup
  | [] => [{ addr := a, ix := ix, vals := [x], last := v }]
  | g :: r => if a = g.addr then { g with vals := g.vals ++ [x], last := v } :: r else g :: addInput a x v ix r

/-- What vector v writes in a plain format, without a reduction: byte writes and flags (R101, R103). -/
def Launch.vecOut (l : Launch) (rd : Reader) (v : Nat) : List BWrite × Nat :=
  let (fr, ixs, rs, g) := l.vector rd v
  let res := (ixs.zip (rs.zip (fr.getD l.outreg []))).map fun (q : List Nat × Nat × Nat) =>
    Result.mk (l.d.addro q.1) q.2.1 q.2.2 v
  let (bw, h) := l.plainOut (wcode l.d.wfmt) (res ++ l.fills v)
  (if l.writes v then bw else [], g ||| h)

/-- Run a whole launch (R98 to R117); rd gives what each vector reads. A vector past the cut writes nothing (R115). -/
def Launch.run (l : Launch) (rd : Nat → Reader) : LaunchOut :=
  let d := l.d
  let vs := (List.range d.vectors).map fun v => (v, l.vector (rd v) v)
  match l.redOp with
  | none =>
    if isMx d.ofmt then
      let outs := vs.map fun p =>
        let (fr, ixs, rs, g) := p.2
        let vals := fr.getD l.outreg []
        let res := (ixs.zip (rs.zip vals)).map fun (q : List Nat × Nat × Nat) => Result.mk (d.addro q.1) q.2.1 q.2.2 p.1
        (res ++ l.fills p.1, g)
      let (bw, side, g) := l.mxOut (wcode d.wfmt) (outs.flatMap (·.1))
      { vecs := outs.map fun o => ([], o.2), last := bw, side := side, lastFlags := g }
    else { vecs := vs.map fun p => l.vecOut (rd p.1) p.1, last := [], side := [], lastFlags := 0 }
  | some ro =>
    let groups := vs.foldl (fun acc (p : Nat × Frame × List (List Nat) × List Nat × Nat) =>
      (p.2.2.1.zip (p.2.1.getD ro.a [])).foldl (fun acc (q : List Nat × Nat) =>
        addInput (d.addro q.1) q.2 p.1 (d.outIndex q.1) acc) acc) []
    let res := groups.map fun gr =>
      let (v, g) := reduce d.wfmt (ro.func % 4) gr.vals
      (({ addr := gr.addr, r := if l.rmode = 4 then l.draw gr.ix else 0, val := v, from_ := gr.last } : Result), g)
    let g := res.foldl (fun g x => g ||| x.2) 0
    let all := res.map (·.1)
    let vecs := vs.map fun p => (([] : List BWrite), p.2.2.2.2)
    if isMx d.ofmt then
      let (bw, side, h) := l.mxOut 0x0 all
      { vecs := vecs, last := bw, side := side, lastFlags := g ||| h }
    else
      let (bw, h) := l.plainOut 0x0 (all.filter fun x => l.writes x.from_)
      { vecs := vecs, last := bw, side := [], lastFlags := g ||| h }

/-- The first vector of a launch that set RANGE (R115). -/
def LaunchOut.rangeAt (o : LaunchOut) : Option Nat := o.vecs.findIdx? fun p => p.2 / fRange % 2 == 1

/-- Whether micro-ops hold an operation that the residue check covers (R59): an FMA, an add, a multiply, or the adds of a reduction. -/
def opsChecked (stages : List (List Nat)) : Bool :=
  stages.flatten.any fun w =>
    let o := microOp w
    (0x10 ≤ o.opc && o.opc ≤ 0x13) || (o.opc == 0x20 && bit o.func 5) || (o.opc == 0x3C && (o.func % 4 == 0 || o.func % 4 == 3))

/-! ## Time (R104, R119, R120) -/

/-- Latency of a launch, its Chest slot waits apart (R119). -/
def Launch.latency (l : Launch) : Nat :=
  let d := l.d
  let ts := [3, 4, 4, 6, 3, 4]
  let base := 4 + ((l.stages.zip ts).map fun p => max 1 p.1.length * p.2).sum
  let chestIn := d.loc1 ≥ 2 || d.loc2 == 2
  let lg (n : Nat) := Nat.log2 (2 * n - 1)
  base + (if chestIn then 6 else 0) + (if d.loc1 = 3 then 6 else 0) + (if d.loco = 2 then 6 else 0)
    + (if d.red = 1 then 4 * lg d.inner else if d.red = 2 then 4 * lg (d.n d.rdim) else 0)

/-- Chest rows of an operand's element. -/
def chestRows (fmt e : Nat) : List Nat := ((elemPieces false 0 fmt e).map fun p => p.1 / 64).eraseDups

/-- Index vectors of the active lanes of vector v. -/
def Launch.ixs (l : Launch) (v : Nat) : List (List Nat) := (List.range (l.d.present v)).map (l.d.index v)

/-- Rows of the Chest that vector v reads, in order, without gathers (R104): each with the sources it serves, 1, 2 or 3 for both. A row
that both sources touch is read once. -/
def Launch.readRows (l : Launch) (v : Nat) : List (Nat × Nat) :=
  let d := l.d
  let r1 := if d.loc1 = 2 then ((l.ixs v).flatMap fun ix => chestRows d.fmt1 (d.addr1 ix)).eraseDups else []
  let r2 := if d.loc2 = 2 then ((l.ixs v).flatMap fun ix => chestRows d.fmt2 (d.addr2 ix)).eraseDups else []
  r1.map (fun r => (if r2.contains r then 3 else 1, r)) ++ (r2.filter fun r => !r1.contains r).map fun r => (2, r)

/-- Rows of the Chest that vector v writes, those of its FILL lanes among them (R101, R104). -/
def Launch.writeRows (l : Launch) (v : Nat) : List Nat :=
  let d := l.d
  if d.loco = 2 then
    (((l.ixs v).map d.addro ++ (l.fills v).map (·.addr)).flatMap fun a => chestRows d.ofmt a).eraseDups
  else []

/-- Cycles that a port of a width takes for a number of rows. -/
def paceOf (rows width : Nat) : Nat := (rows + width - 1) / width

/-- The interval of vector v (R104, R120): gr are the rows that its gather touches. -/
def Launch.interval (l : Launch) (v : Nat) (gr : List Nat) : Nat :=
  let k := (l.stages.map List.length).foldl max 1
  let ri := ((l.readRows v).map (·.2) ++ gr).eraseDups.length
  max k (max (paceOf ri 4) (paceOf (l.writeRows v).length 2))

end Sys2Proof.Machine
end

