-- ==== Sys2Proof/Machine/Faults.lean ====
section
/-! DEFINITION. Errors and context faults: the fault log (R452, R455), errors of class C and U (R453, R454), and what a
fault of a context does (R92, R339). Every fault of every chapter is raised through these. -/
namespace Sys2Proof.Machine

/-- FUNIT of the I/O-die engines (R376). -/
abbrev ioUnit : Nat := 0x1FFF

/-! ## The fault log (R452, R455) -/

/-- The 64 bytes of a log record (R452, R455). -/
def LogRec.bytes (x : LogRec) : Bytes :=
  layout 64 [(0, 4, x.seq), (4, 1, b2n x.persist), (5, 1, x.inc), (8, 8, x.time), (16, 2, x.ekind), (18, 1, x.uclass),
    (19, 1, x.outcome), (20, 4, x.unit), (24, 2, x.ctx), (26, 2, x.fcode), (28, 1, x.testId), (30, 2, x.tcount),
    (32, 4, x.halt), (40, 8, x.detail.toNat), (48, 8, x.addr)]

/-- Flash offset of the persistent ring's slot for a SEQ (R444). -/
def logRingSlot (seq : Nat) : Nat := 0x06520000 + 64 * (seq % 4096)

/-- Queue the program of a record in the persistent ring (R452). -/
def Dev.persistLog (s : Dev) (x : LogRec) : Dev :=
  s.iff x.persist fun s => s.modBoot fun b =>
    { b with flashOps := b.flashOps ++ [{ erase := [], prog := [(logRingSlot x.seq, x.bytes)], andThen := .nothing }] }

/-- Add a record to the log, which holds the last 256 (R452): the device, and the record with its SEQ. -/
def Dev.logAdd (s : Dev) (x : LogRec) : LogRec × Dev :=
  let x := { x with seq := s.ledger.logSeq + 1, inc := s.elveel.inc, time := s.time }
  let s := s.modLedger fun l => { l with logSeq := x.seq, log := (l.log ++ [x]).drop (l.log.length + 1 - 256) }
  (x, s.persistLog x)

/-- Rewrite the record with a SEQ in place (R455). -/
def Dev.logRewrite (s : Dev) (seq : Nat) (f : LogRec → LogRec) : Dev :=
  let s := s.modLedger fun l => { l with log := modFirst (fun x => x.seq = seq) f l.log }
  match s.ledger.log.find? fun x => x.seq = seq with
  | some x => s.persistLog x
  | none => s

/-! ## What a fault discards -/

/-- The byte writes that a job could still make in the tile registers: its computed output, or the accumulators of an MMA
without an epilogue. -/
def Job.mayWrite (j : Job) : List BWrite :=
  if j.op = .mma ∧ j.epi.isNone then
    let o := mmaOp j.word.toNat
    j.acc.zipIdx.flatMap fun p => writePieces p.1 (elemPieces true o.dt o.accFmt p.2)
  else j.outTiles

/-- Whether what a job writes is known: an MMA without an epilogue whose product is formed, a job whose output is staged, or an MMA whose
implicit launch stands for it. -/
def Job.computed (j : Job) : Bool :=
  j.phase == .writing || j.phase == .epiWriting || j.phase == .done || (j.op == .mma && j.epi.isNone && !j.acc.isEmpty)

/-- The tiles that a job writes: an implicit launch writes those of its MMA. -/
def Stall.writtenBy (st : Stall) (j : Job) : List Nat :=
  if j.op = .epiPasses then match st.jobs.find? fun m => m.ticket == j.link with
    | some m => m.wr
    | none => []
  else j.wr

/-- Write those of a list whose position is set in a mask. -/
def pickWrites {α : Type} (mask : Nat) (l : List α) : List α := (l.zipIdx.filter fun p => bit mask p.2).map (·.1)

/-- The engines abandon their orders (R92): each byte of a tile or sidecar that an order could have written keeps its value or takes the
value the order would have written, as a free value chooses. Where the order has not computed it, that value is a free byte, which takes in
every value it could have had (notes/assumptions/63.md). -/
def Dev.abandon (s : Dev) (n : Nat) : Dev :=
  let st := s.stall n
  let s := st.jobs.foldl (fun s j =>
    if j.computed then
      let w := j.mayWrite
      if w = [] ∧ j.outSide = [] then s
      else
        let (r, s) := s.draw
        let (q, s) := s.draw
        { s with tiles := memMasks 0 (32768 * n) s.tiles (pickWrites r w),
                 sidecars := memPuts 0 s.sidecars ((pickWrites q j.outSide).map fun p => (2048 * n + p.1, p.2)) }
    else
      (st.writtenBy j).foldl (fun s t =>
        let (r, s) := s.draw
        let (v, s) := s.draw
        let new (o n : Nat) : List (Nat × Byte) := pickWrites (r / 2 ^ o) ((List.range n).map fun i => (i, BitVec.ofNat 8 (v / 2 ^ (8 * (o + i)))))
        { s with tiles := memPuts 0 s.tiles ((new 0 4096).map fun p => (32768 * n + 4096 * t + p.1, p.2)),
                 sidecars := memPuts 0 s.sidecars ((new 4096 256).map fun p => (2048 * n + 256 * t + p.1, p.2)) }) s) s
  s.modStall n fun x => { x with jobs := [], pendEpi := none }

/-- Whether a row request belongs to work that a fault of the Lot's front context discards. -/
def Sink.isWork : Sink → Bool
  | .job .. => true
  | .epi .. => true
  | .streamIn .. => true
  | .streamOut .. => true
  | _ => false

/-- Drop the pending row requests of a Chest that a fault discards. -/
def Dev.dropRequests (s : Dev) (c : Nat) : Dev :=
  s.iff (!(s.chest c).ports.isEmpty) fun s => s.modChest c fun x =>
    { x with ports := (x.ports.map fun p => (p.1, p.2.filter fun r => !r.sink.isWork)).filter fun p => p.2 ≠ [],
             heldSince := none }

/-- Stop a Stall (R92): issue stops, its engines abandon their orders, its latches clear, but for a line that rings
in this very cycle (R206). -/
def Dev.stopStall (s : Dev) (n : Nat) : Dev :=
  if (s.stalls.find? fun p => p.1 = n).isNone then s
  else
    let s := s.abandon n
    s.modStall n fun x =>
      { x with seq := if x.seq = .running then .faulted else x.seq, ready := false, ended := false, holdSince := none,
               task := none, latch := s.rang &&& x.bellSub, ej := x.ej, loops := [] }

/-- Close a queue by the teardown row of R202: closed, INC + 1, entries discarded. -/
def RQueue.tearDown (q : RQueue) : RQueue := { q with isOpen := false, inc := (q.inc + 1) % 16, msgs := [] }

/-- Close every queue of a Stall by the teardown row of R202, the unconfigured ones too. -/
def Dev.closeQueues (s : Dev) (n : Nat) : Dev :=
  s.modStall n fun x => { x with queues := (List.range 16).foldl (fun q i => q.mod i RQueue.tearDown) x.queues }

/-- Banks that a shelf of a block names in Chest k of the block (R172). -/
def Shelf.banks (x : Shelf) (k : Nat) : Nat := bits (x.cfg.get k).toNat 19 4

/-- Clear the stamps and held bits of the banks of a set in a Chest (R176). -/
def Dev.clearStamps (s : Dev) (c mask : Nat) : Dev :=
  s.iff (!(s.chest c).stat.isEmpty) fun s => s.modChest c fun x => { x with stat := x.stat.filter fun p => !bit mask (p.1 % 16) }

/-- The Lots in which a context has a shelf, with the shelf: front or back. -/
def Lot.shelvesOf (x : Lot) (c : Nat) : List LotShelf :=
  (if x.front.kind ≠ 0 ∧ x.front.ctx = c then [x.front] else [])
    ++ (if x.back.kind ≠ 0 ∧ x.back.ctx = c then [x.back] else [])

/-- The bit of a collective's CTRL word that aborts it (R299): the member that faults sends an ATOMIC OR of it to every
other member. -/
def abortPkt (addr : Nat) : EPkt := 
  { op := 0x03, ddev := bits addr 57 44, len := 16, aop := 0x19, addr := addr, payload := leBytes 16 (2 ^ 63) }

/-- Queue a request at the own router (R277). -/
def Dev.request (s : Dev) (pkt : EPkt) (src : TxnSrc) : Dev :=
  let id := s.elveel.nextOut
  s.modElv fun e => { e with outq := e.outq ++ [{ id := id, pkt := pkt, src := src, at_ := s.now }], nextOut := id + 1 }

/-- What the collective engine does when a context faults (R299): nothing more is issued, rows dropped, ABORT sent to every other member
of each active collective, slots freed. The members' signal blocks were read when the collective started. -/
def Dev.collFault (s : Dev) (c : Nat) : Dev :=
  let mine := s.coll.active.filter fun p => p.2.ctx == c
  let s := mine.foldl (fun s p => p.2.ctrls.foldl (fun s a => s.request (abortPkt a) .collAbort) s) s
  let s := s.bump 0x6050 c 14 mine.length
  { s with coll := { s.coll with
      active := s.coll.active.filter fun p => p.2.ctx != c,
      dying := s.coll.dying ++ mine.map (fun p => (p.2.uid, c)),
      waiting := s.coll.waiting.filter fun w => w.1 != c,
      rows := s.coll.rows.filter fun r => r.ctx != c,
      latches := s.coll.latches.filter fun l => l.1 != c } }

/-- What happens to the transfer instances of a faulted context (R339): those that have issued nothing go, the others issue no more. The
context's translations go (R244). Of the block's latches and waiting preloads it loses those that are its own: front says that its shelf
is the front shelf (R206), back that it is the back one (R247). -/
def Xfer.tearDown (x : Xfer) (c : Nat) (front back : Bool) (rang : BitVec 32) : Xfer :=
  let f (l : List XInst) : List XInst :=
    (l.filter fun i => i.ctx != c || i.next != 0).map fun i => if i.ctx = c then { i with stopped := true } else i
  { x with tcache := x.tcache.filter fun t => t.1 / 2 ^ 36 != c, timedQ := f x.timedQ, bulkQ := f x.bulkQ, preWait := if back then [] else x.preWait,
           latch := if front then x.latch &&& rang else x.latch }

/-- Complete the commands of a ring that have not started with a status, oldest first, while the event ring has a slot free of
reservations (R339, R366); the rest wait for one. -/
def Dev.refuseFetched (s : Dev) (r status : Nat) : Nat → Dev
  | 0 => s
  | n + 1 => match (s.ring r).fetched with
    | [] => s
    | c :: rest =>
      if (s.ring r).slotFree then
        Dev.refuseFetched ((s.modRing r fun x => { x with fetched := rest }).post r c.entry status []) r status n
      else s

/-- A faulted context's commands (R339, R476): those not started complete with CTX_FAULTED, a commit that waits for the pool engine among
them (R338); those in flight go and free their slots; a load in progress completes with ABORTED (R353). A commit that the pool engine has
taken stays, with its slot, and completes. The request that a COPY has in flight resolves, and no other follows. -/
def Dev.ringFault (s : Dev) (r : Nat) : Dev :=
  let x := s.ring r
  let taken (id : Nat) : Bool := s.pool.busy.any fun b => b.1 == r && b.2.1 == id
  let kept := x.running.filter fun k => taken k.id
  let s := s.modRing r fun y => { y with reserved := kept.length, running := kept }
  let s := (x.running.filter fun k => opcodeOf k.entry = 0x10).foldl (fun s (k : RunCmd) => s.post r k.entry 0x26 []) s
  let s := (x.running.filter fun k => opcodeOf k.entry = 0x13 && !taken k.id).foldl (fun s (k : RunCmd) => s.post r k.entry 0x46 []) s
  let s := s.refuseFetched r 0x46 32
  let s := { s with copies := s.copies.map fun (p : Nat × CopyJob) => if p.2.ring = r then (p.1, { p.2 with stopped := true }) else p,
                    loadQ := s.loadQ.filter fun p => p.1 != r }
  let s := s.modPool fun p => { p with commits := p.commits.filter fun q => q.1 != r }
  { s with loading := s.loading.filter fun p => p.1 != r }

/-- The back shelf of a block: loaded or loading (R173). -/
def Dev.backShelf (s : Dev) (b : Nat) : Shelf := match s.lotOf b with
  | none => {}
  | some l => (s.lot l).back.blocks.get b

/-- A bank loses its data, stamps and held bits (R173, R174, R176). -/
def Dev.wipeBanks (s : Dev) (c mask : Nat) : Dev :=
  let rowBase := chestOff c
  let s := { s with mem := s.mem.filter fun e =>
    !(decide (rowBase ≤ e.1) && decide (e.1 < rowBase + 786432) && bit mask ((e.1 - rowBase) / 64 % 16)) }
  s.modChest c fun x => { x with stat := x.stat.filter fun p => !bit mask (p.1 % 16),
                                 badWords := x.badWords.filter fun p => !bit mask (p.1 % 16) }

/-- Turn off the banks of a block that neither shelf names (R173). -/
def Dev.dropBanks (s : Dev) (b : Nat) : Dev :=
  let f := s.shelf b
  let k := s.backShelf b
  each [0, 1, 2, 3] (fun i s =>
    let c := 4 * b + i
    let lost := below 16 fun n => (s.chest c).banks.any (fun p => p.1 == n) && !bit (f.banks i) n && !bit (k.banks i) n
    s.iff (!lost.isEmpty) fun s =>
      let s := s.wipeBanks c ((lost.map fun n => 2 ^ n).sum)
      s.modChest c fun x => { x with banks := x.banks.filter fun p => !lost.contains p.1 }) s

/-- Empty a Lot's back shelf (R353). -/
def Lot.emptyBack (x : Lot) : Lot := { x with back := {}, bstate := .empty, bretain := false, promote := false }

/-- A Lot's back shelf is lost (R353): it is EMPTY, the banks that it alone named are off, their wakes are not asked for any more, and
its preloads that have issued nothing never fire. -/
def Dev.loseBack (s : Dev) (k : Nat) : Dev :=
  let s := s.modLot k Lot.emptyBack
  let rect := (s.lot k).rect
  let keep (r : WakeReq) : Option WakeReq :=
    if r.isBank && rect.contains r.b then
      let l := r.banks.filter fun (p : Nat × Nat) => bit ((s.shelf r.b).banks p.1) p.2
      if l = [] then none else some { r with banks := l, cost := 20 * l.length }
    else some r
  let drop (g : Gov) : Gov := { g with queue := g.queue.filterMap keep }
  let s := s.modWarden fun w => { w with gov0 := drop w.gov0, gov1 := drop w.gov1 }
  each rect (fun b s =>
    let stop (i : XInst) : XInst := if i.preload then { i with stopped := true } else i
    let bulk (l : List XInst) : List XInst := (l.filter fun i => !i.preload || i.next != 0).map stop
    let s := s.modBlock b fun x => { x with xfer := { x.xfer with preWait := [], bulkQ := bulk x.xfer.bulkQ } }
    s.dropBanks b) s

/-- Keep the counts of slots in use (R341, R451). -/
def Dev.countSlots (s : Dev) : Dev :=
  let n := (s.tasks.filter fun t => t.2.state != 0).length
  (s.setCtr 0x6080 2 0 n).setCtr 0x6080 2 1 (max n (s.ctr 0x6080 2 1))

/-- Fault a context (R339): steps 1 to 4 of the teardown, with CTX_FAULT. off is the order offset, viol the violation
record where FCODE is 0x0004, name what the event names besides (notes/assumptions/63.md). A context that is not BOUND has nothing to
fault. -/
def Dev.faultCtx (s : Dev) (c fcode funit off : Nat) (viol : W64 := 0) (name : FaultName := .nothing) : Dev :=
  let x := s.ctx c
  if x.state ≠ .bound then s
  else
    let s := s.setCtx c { x with state := .faulted, fcode := fcode, funit := funit, fname := name }
    let s := s.bump 0x6050 c 11
    let s := s.ctxEvent c 0x01 [(32, 2, fcode), (34, 2, funit), (36, 4, off), (40, 8, if fcode = 4 then viol.toNat else 0)]
    let wasLoading := (s.ring x.ring).running.any fun k => opcodeOf k.entry = 0x10
    let s := s.ringFault x.ring
    let lot := s.lot x.lot
    let rect := lot.rect
    let frontIs := lot.front.kind ≠ 0 && lot.front.ctx == c
    let s := s.iff frontIs fun s =>
      let s := each (rect.flatMap fun b => [4 * b, 4 * b + 1, 4 * b + 2, 4 * b + 3])
        (fun n s => (s.stopStall n).dropRequests n) s
      s.modLot x.lot fun l => { l with credit := 0, beat := { l.beat with active := false } }
    let backIs := lot.back.kind ≠ 0 && lot.back.ctx == c
    let s := each rect (fun b s => s.modBlock b fun y => { y with xfer := y.xfer.tearDown c frontIs backIs s.rang }) s
    let s := s.collFault c
    let s := { s with tasks := s.tasks.filter fun t => t.2.ctx != c || t.2.state == 0 }.countSlots
    let s := s.iff frontIs fun s => each (rect.flatMap fun b => [4 * b, 4 * b + 1, 4 * b + 2, 4 * b + 3])
      (fun n s => s.closeQueues n) s
    let s := each ((s.lot x.lot).shelvesOf c) (fun sh s => each rect (fun b s =>
      let f := sh.blocks.get b
      each [0, 1, 2, 3] (fun k s => s.clearStamps (4 * b + k) (f.banks k)) s) s) s
    let s := s.modLot x.lot fun l => { l with swapReq := l.swapReq.filter fun q => q.ctx != some c }
    let s := s.iff (wasLoading && (s.lot x.lot).back.ctx == c && (s.lot x.lot).bstate != .ready && (s.lot x.lot).bstate != .empty)
      fun s => s.loseBack x.lot
    { s with teardowns := s.teardowns ++ [{ ctx := c, started := s.now, step4 := true }] }

/-! ## Errors (R453, R454) -/

/-- The tests of a unit class and error kind (R454, R459). -/
def testsOf (ekind uclass : Nat) : List Nat :=
  if ekind = 0x0D then [0x03]
  else match uclass with
    | 0 => [0x01, 0x02]
    | 1 => [0x04]
    | 2 => [0x05]
    | 3 => [0x06]
    | 4 => [0x10]
    | 5 => [0x11]
    | 6 => [0x20]
    | 7 => [0x21]
    | 8 => [0x30]
    | 9 => [0x22]
    | 10 => [0x23]
    | 11 => [0x24]
    | _ => [0x23]

/-- The block of a unit under test: a Stall, Chest, switch point or block (R460). -/
def unitBlock (uclass unit : Nat) : Option Nat := match uclass with
  | 0 => some (unit / 4)
  | 1 => some (unit % 0x1000 / 4)
  | 2 => some unit
  | 3 => some unit
  | _ => none

/-- Raise an error of class U (R454, R455, R461): the record, and the targeted test that follows. ctxs are the contexts
that the error faults; they are faulted by the caller. -/
def Dev.unitError (s : Dev) (ekind uclass unit : Nat) (ctxs : List Nat) (fcode addr : Nat) (detail : W64 := 0) : Dev :=
  match s.service.tests.find? fun t => t.uclass = uclass && t.unit = unit with
  | some t =>
    (s.logAdd { seq := 0, ekind := ekind, uclass := uclass, unit := unit, outcome := 3, fcode := fcode, addr := addr,
                ctx := ctxs.headD 0xFFFF, detail := BitVec.ofNat 64 t.logSeq }).2
  | none =>
    let (x, s) := s.logAdd { seq := 0, ekind := ekind, uclass := uclass, unit := unit, outcome := 4, fcode := fcode,
                             addr := addr, ctx := ctxs.headD 0xFFFF, detail := detail }
    s.modSvc fun v => { v with
      tests := v.tests ++ [{ id := v.nextId, uclass := uclass, unit := unit, ekind := ekind, logSeq := x.seq, ctxs := ctxs,
                             addr := addr }],
      nextId := v.nextId + 1 }

/-- An error of class C (R453): with more than 16 of a unit in any 1 s the unit becomes the subject of a CORRECTED_RATE
error. -/
def Dev.corrected (s : Dev) (uclass unit : Nat) : Dev :=
  let keep := s.service.corr1s.filter fun e => e.2.2 + second > s.now
  let l := keep ++ [(uclass, unit, s.now)]
  let s := s.modSvc fun v => { v with corr1s := l }
  let n := (l.filter fun e => e.1 = uclass && e.2.1 = unit).length
  if n > 16 ∧ (s.service.tests.any fun t => t.uclass = uclass && t.unit = unit) = false then
    (s.modSvc fun v => { v with corr1s := l.filter fun e => !(e.1 = uclass && e.2.1 = unit) }).unitError 0x12 uclass unit [] 0 0
  else s

/-- The context that a Stall works for: the one whose shelf is front in its block's Lot. -/
def Dev.stallCtx (s : Dev) (n : Nat) : Option Nat := s.frontOf (n / 4)

/-- Fault the context that a Stall works for, naming the Stall: its PC is left at the order that caused the fault (R92). -/
def Dev.faultStall (s : Dev) (n fcode off : Nat) (name : FaultName := .nothing) : Dev :=
  let s := s.modStall n fun x => { x with pc := off }
  match s.stallCtx n with
  | some c => s.faultCtx c fcode n off 0 name
  | none => s

/-- A hang (R454): the timeout faults the context, and the Stall is tested. -/
def Dev.hang (s : Dev) (n fcode off : Nat) (name : FaultName := .nothing) : Dev :=
  let c := s.stallCtx n
  let s := s.faultStall n fcode off name
  s.unitError 0x0D 0 n c.toList fcode 0

/-- Whether a targeted test of an engine or the router runs: new work waits (R460). -/
def Dev.engineTested (s : Dev) (uclass unit : Nat) : Bool :=
  s.service.tests.any fun t => t.uclass == uclass && t.unit == unit && t.running
/-- An engine meets a parity error (R454, R456): the contexts with work in it fault with ENGINE_ERROR, and it is tested. -/
def Dev.engineParity (s : Dev) (uclass unit funit : Nat) (ctxs : List Nat) : Dev :=
  let cs := ctxs.filter fun c => (s.ctx c).state == .bound
  (each cs (fun c s => s.faultCtx c 0x0024 funit 0) s).unitError 0x0C uclass unit cs (if cs = [] then 0 else 0x0024) 0

/-- A residue mismatch in a Stall (R60). -/
def Dev.residue (s : Dev) (n off : Nat) : Dev :=
  let c := s.stallCtx n
  let s := s.faultStall n 0x0002 off
  s.unitError 0x01 0 n c.toList 0x0002 0

/-- Set arithmetic flags in a Stall (R61): one that trapen, the enables in force when the order issued, enables faults the context after
the operation, and the event names it (R63). -/
def Dev.setFlags (s : Dev) (n off : Nat) (trapen f : Nat) : Dev :=
  let s := s.modStall n fun x => { x with flags := joinFlags x.flags f }
  let t := trapped trapen (BitVec.ofNat 32 f)
  if t = 0 then s else s.faultStall n 0x0003 off (.flags t)

end Sys2Proof.Machine
end

