-- ==== Sys2Proof/Machine/Rows.lean ====
section
/-! DEFINITION. Objects of a shelf (R347), address generators (R161, R162) and the pending row requests of a Chest
(R152, R154, R164). -/
namespace Sys2Proof.Machine

/-! ## Shelf objects (R95, R347) -/

/-- The bytes of n configuration lines from a line on. -/
def Shelf.cfgLines (x : Shelf) (line : Nat) : Nat → Bytes
  | 0 => []
  | n + 1 => leBytes 32 (x.lines.get line).toNat ++ Shelf.cfgLines x (line + 1) n

/-- First lines of the objects of a kind, in ascending order. -/
def Shelf.objs (x : Shelf) (kind : Nat) : List Nat := (x.kinds.filter fun p => p.2 == kind).map (·.1)

/-- The transfer descriptors of a shelf, in ascending line order (R226). -/
def Shelf.transfers (x : Shelf) : List Bytes := (x.objs 0x8).map fun l => x.cfgLines l 2

/-- The 352 bytes of the switch frame; zeros for none (R182, R183, R193). -/
def Shelf.switchFrame (x : Shelf) : Bytes := match x.objs 0x6 with
  | [] => []
  | l :: _ => x.cfgLines l 11

/-! ## Generators (R161, R162) -/

/-- A generator's fields. -/
structure GenD where
  gen : Nat
  base : Nat
  bind : Nat
  stamp : Nat
  hold : Bool
  release : Bool
  once : Bool
  endpt : Nat
  gidx : Nat
  gchest : Nat
  rsv : Bool
  cnt : List Nat
  str : List Int
  deriving DecidableEq, Repr, Inhabited

/-- Read a generator descriptor (R161). -/
def genD (b : Bytes) : GenD :=
  let w := fld b 0 8
  { gen := bits w 3 0, base := bits w 17 4, bind := bits w 19 18, stamp := bits w 23 20, hold := bit w 24,
    release := bit w 25, once := bit w 26, endpt := bits w 34 27, gidx := bits w 36 35, gchest := bits w 38 37,
    rsv := bits w 63 39 != 0 || !zeroAt b 38 26,
    cnt := (List.range 6).map fun d => fld b (8 + 5 * d) 2 + 1,
    str := (List.range 6).map fun d => sgn 24 (fld b (10 + 5 * d) 3) }

/-- Rows of a walk over counts and strides from a base: its k-th row, dimension 0 fastest (R162). -/
def walkAt : List Nat → List Int → Nat → Int
  | c :: cs, s :: ss, k => ((k % c : Nat) : Int) * s + walkAt cs ss (k / c)
  | _, _, _ => 0
/-- Rows in a generator's walk. -/
def GenD.total (g : GenD) : Nat := g.cnt.foldl (· * ·) 1
/-- The k-th row of the walk. -/
def GenD.row (g : GenD) (k : Nat) : Nat := ((g.base : Int) + walkAt g.cnt g.str (k % g.total)).toNat

/-- Take n rows of generator g of Chest c: none when the walk with ONCE is exhausted (R161, R162). -/
def Dev.takeRows (s : Dev) (c g n : Nat) : Option (List Nat) × Dev :=
  let x := (s.chest c).gens.get g
  let d := genD x.desc
  if d.once && x.taken + n > d.total then (none, s)
  else
    let rows := (List.range n).map fun k => d.row (x.taken + k)
    let t := x.taken + n
    (some rows, s.modChest c fun y => { y with gens := y.gens.set g { x with taken := if d.once then t else t % d.total } })

/-! ## Pending requests (R154, R164) -/

/-- Port codes (R152). -/
abbrev pMove : Nat := 0x1
abbrev pVrd : Nat := 0x2
abbrev pVwr : Nat := 0x3
abbrev pEpr : Nat := 0x4
abbrev pEpw : Nat := 0x5
abbrev pSin : Nat := 0x6
abbrev pSout : Nat := 0x7
abbrev pCrd : Nat := 0x8
abbrev pCwr : Nat := 0x9
abbrev pSvc : Nat := 0xA

/-- Put a request in its place: after those that became pending no later (R154). -/
def insertReq (r : RowReq) : List RowReq → List RowReq
  | [] => [r]
  | x :: l => if r.since < x.since then r :: x :: l else x :: insertReq r l

/-- Add a request to a port of Chest c; r.since is the cycle in which it becomes pending. The send-stall timeout of the context that
issued it is the one in force now (R160, R315). -/
def Dev.pushReq (s : Dev) (c port : Nat) (r : RowReq) : Dev :=
  let limit := match ((s.chest c).units.get r.unit).ctx with
    | some x => (s.ctx x).sstoCycles
    | none => 2 ^ 20
  s.modChest c fun x => { x with ports := x.ports.mod port (insertReq { r with limit := limit }) }

/-- A new unit of access of Chest c (R164). -/
def Dev.newUnit (s : Dev) (c : Nat) (u : AccUnit) : Nat × Dev :=
  let (id, s) := s.fresh
  (id, s.modChest c fun x => { x with units := x.units.set id u })

/-- Every bit of a row. -/
def fullRow : Row := BitVec.allOnes 512
/-- The mask of n bytes of a row from byte o. -/
def byteMask (o n : Nat) : Row := BitVec.ofNat 512 ((2 ^ (8 * n) - 1) * 2 ^ (8 * o))
/-- Bytes placed in a row from byte o. -/
def rowAt (o : Nat) (bs : Bytes) : Row := BitVec.ofNat 512 (leVal bs * 2 ^ (8 * o))
/-- Write the masked bits of a row. -/
def mergeRow (old new mask : Row) : Row := (old &&& ~~~ mask) ||| (new &&& mask)

/-- The data of row q of Chest c. -/
def Dev.rowData (s : Dev) (c q : Nat) : Row := rowOf (s.memAt (chestOff c + 64 * q) 64)
/-- Store the data of row q of Chest c. -/
def Dev.rowPut (s : Dev) (c q : Nat) (v : Row) : Dev := s.memPut (chestOff c + 64 * q) (rowBytes v)

/-! ## Banks (R172 to R175) -/

/-- Whether a bank may grant: it is on, or its wake is over (R174). -/
def Dev.bankOn (s : Dev) (c bank : Nat) : Bool := match (s.chest c).banks.get bank with
  | .off => false
  | .waking t => decide (t ≤ s.now)
  | .on => true

/-- The context whose shelf names a bank of Chest c: the front shelf's, else the back shelf's (R173). -/
def Dev.bankOwner (s : Dev) (c bank : Nat) : Option Nat := match s.lotOf (c / 4) with
  | none => none
  | some l =>
    let x := s.lot l
    if bit ((x.front.blocks.get (c / 4)).banks (c % 4)) bank then some x.front.ctx
    else if bit ((x.back.blocks.get (c / 4)).banks (c % 4)) bank then some x.back.ctx
    else none

/-- Whether a Concourse or SVC access to a row gets CHEST_OFF (R175). -/
def Dev.chestIsOff (s : Dev) (c row : Nat) : Bool :=
  let b := c / 4
  !s.bankOn c (row % 16) || (s.lotOf b).isNone || (s.block b).fenced || s.retired b

/-- The beat number that enters effective stamps in a block (R164): 0 outside a laid section. -/
def Dev.beatB (s : Dev) (b : Nat) : Nat := match s.lotOf b with
  | none => 0
  | some l => let x := s.lot l; if x.front.kind = 1 then x.beat.num else 0

/-- The effective stamp of a code at a beat number (R164). -/
def effStamp (code beat : Nat) : Nat := (code + 14 + beat) % 15 + 1

end Sys2Proof.Machine
end

