-- ==== Sys2Proof/Machine/Circuit.lean ====
section
/-! DEFINITION. Circuits (R179 to R187, R213): the switch frame's fields, the path of a circuit and its latency, stream
queues, credits on their way back, and what a swap does to them. -/
namespace Sys2Proof.Machine

/-! ## The switch frame (R182, R183, R193) -/

/-- Crosspoint entry of output link o and slot t: its SRC and SEL (R182). -/
def xpoint (fr : Bytes) (o t : Nat) : Nat × Nat := let w := fld fr (14 * o + 2 * t) 2; (bits w 2 0, bits w 7 3)

/-- An endpoint word's fields (R183). -/
structure EpWord where
  mode : Nat
  sink : Bool
  steer : Nat
  ilink : Nat
  islot : Nat
  isel : Nat
  qbase : Nat
  depth : Nat
  cred0 : Nat
  cred1 : Nat
  fork : Bool
  rsv : Bool
  deriving DecidableEq, Repr, Inhabited

/-- Endpoint word e of a switch frame (R183). -/
def epWord (fr : Bytes) (e : Nat) : EpWord :=
  let w := fld fr (64 + 8 * e) 8
  { mode := bits w 1 0, sink := bit w 2, steer := bits w 7 3, ilink := bits w 10 8, islot := bits w 13 11,
    isel := bits w 18 14, qbase := bits w 26 19, depth := bits w 35 27, cred0 := bits w 44 36, cred1 := bits w 53 45,
    fork := bit w 54, rsv := bits w 63 55 != 0 }

/-- Steering word u of a switch frame: KIND, CRED0, CRED1 (R193). -/
def steerWord (fr : Bytes) (u : Nat) : Nat × Nat × Nat :=
  let w := fld fr (320 + 4 * u) 4
  (bits w 1 0, bits w 10 2, bits w 19 11)

/-- The front switch frame of a block. -/
def Dev.frame (s : Dev) (b : Nat) : Bytes := (s.shelf b).switchFrame

/-! ## Links (R14, R179, R180). 0 north, 1 east, 2 south, 3 west -/

/-- The neighbour of a block on a link. -/
def neighbour (b o : Nat) : Option Nat :=
  let x := blkX b
  let y := blkY b
  match o with
  | 0 => if y < 11 then some (blkAt x (y + 1)) else none
  | 1 => if x < 47 then some (blkAt (x + 1) y) else none
  | 2 => if 0 < y then some (blkAt x (y - 1)) else none
  | 3 => if 0 < x then some (blkAt (x - 1) y) else none
  | _ => none
/-- The link of the other end. -/
def opposite (o : Nat) : Nat := (o + 2) % 4
/-- Whether a link of a block crosses the compute-to-compute join (R180). -/
def crosses (b o : Nat) : Bool := (o == 1 && blkX b == 23) || (o == 3 && blkX b == 24)
/-- Cycles over a link (R180). -/
def linkTime (b o : Nat) : Nat := if crosses b o then 11 else 8
/-- The slot in which a flit leaves the far end, having left this end in slot t (R180). -/
def linkSlot (b o t : Nat) : Nat := if crosses b o then (t + 3) % 8 else t

/-! ## Paths -/

/-- A sink that a circuit reaches: block, endpoint, latency F (R186). -/
abbrev PathSink := Nat × Nat × Nat
/-- A switch point that a flit passes: block, the entry's index as Block.changed numbers it, and the time of arrival after
the send. -/
abbrev PathHop := Nat × Nat × Nat

/-- Follow a circuit back from a sink to its source: block, source, latency. -/
def traceBack (fr : Nat → Bytes) : Nat → Nat → Nat → Nat → Nat → Nat → Option (Nat × Nat × Nat)
  | 0, _, _, _, _, _ => none
  | fuel + 1, b, src, sel, t, f =>
    if src = 5 then some (b, sel, f)
    else if src = 6 then some (b, 32 + sel, f)
    else match neighbour b (src - 1) with
      | none => none
      | some pb =>
        let o := opposite (src - 1)
        let pt := if crosses pb o then (t + 5) % 8 else t
        let (c, l) := xpoint (fr pb) o pt
        if c = 0 ∨ pt = 7 then none else traceBack fr fuel pb c l pt (f + linkTime pb o)

/-- Links that a trace follows at most: a circuit revisits no switch point (R185), and the grid has 576. -/
abbrev pathFuel : Nat := 577

/-- Endpoints of block b that take the flits of the circuit from a source (block, number) that stand there with a source code and SEL
in slot t: ISLOT names one arrival slot of the circuit, and the circuit's other slots end at the same endpoint (R183, R188). -/
def takers (fr : Nat → Bytes) (origin : Nat × Nat) (b src sel t : Nat) : List Nat :=
  below 32 fun e =>
    let w := epWord (fr b) e
    (w.mode == 1 || w.mode == 3) && w.ilink == src && (src < 5 || w.isel == sel)
      && (w.islot == t || (src < 5 && (traceBack fr pathFuel b src 0 w.islot 0).any fun q => (q.1, q.2.1) == origin))

/-- Follow a circuit from a block where its flits stand with source code src and SEL in slot t, time f after the send:
the sinks and the hops, output links in the order north, east, south, west, endpoints of the block first. -/
def tracePath (fr : Nat → Bytes) (origin : Nat × Nat) : Nat → Nat → Nat → Nat → Nat → Nat → List PathSink × List PathHop
  | 0, _, _, _, _, _ => ([], [])
  | fuel + 1, b, src, sel, t, f =>
    let local_ := (takers fr origin b src sel t).map fun e => (b, e, if src ≥ 5 then f + 8 else f)
    let here := local_.map fun p => (p.1, p.2.1, p.2.2)
    let outs := below 4 fun o => t < 7 && xpoint (fr b) o t == (src, if src ≥ 5 then sel else 0)
    outs.foldl (fun acc o => match neighbour b o with
      | none => acc
      | some nb =>
        let (sk, hp) := tracePath fr origin fuel nb (opposite o + 1) 0 (linkSlot b o t) (f + linkTime b o)
        (acc.1 ++ sk, acc.2 ++ ((b, 32 + 7 * o + t, f) :: hp))) (here, here)

/-- Source code and SEL of a source numbered as Flight.srcE numbers it. -/
def srcCode (e : Nat) : Nat × Nat := if e < 32 then (5, e) else (6, e - 32)

/-- The branches of a source in slot t. -/
def Dev.branches (s : Dev) (b e t : Nat) : List PathSink := (tracePath s.frame (b, e) pathFuel b (srcCode e).1 (srcCode e).2 t 0).1

/-- The hops of a circuit's flits on their way to one sink: from a block where they stand with a source code and SEL in slot t, time f
after the send; none where the sink does not lie ahead. -/
def pathTo (fr : Nat → Bytes) (origin sink : Nat × Nat) : Nat → Nat → Nat → Nat → Nat → Nat → Option (List PathHop)
  | 0, _, _, _, _, _ => none
  | fuel + 1, b, src, sel, t, f =>
    if b = sink.1 ∧ (takers fr origin b src sel t).contains sink.2 then some []
    else (below 4 fun o => t < 7 && xpoint (fr b) o t == (src, if src ≥ 5 then sel else 0)).findSome? fun o =>
      (neighbour b o).bind fun nb => (pathTo fr origin sink fuel nb (opposite o + 1) 0 (linkSlot b o t) (f + linkTime b o)).map
        fun l => (b, 32 + 7 * o + t, f) :: l
/-- The hops from a source in slot t to a sink. -/
def Dev.way (s : Dev) (b e t : Nat) (sink : Nat × Nat) : List PathHop :=
  (pathTo s.frame (b, e) sink pathFuel b (srcCode e).1 (srcCode e).2 t 0).getD []

/-- Whether a source's circuit has a slot t. -/
def sendsIn (fr : Bytes) (e t : Nat) : Bool :=
  let (c, sel) := srcCode e
  t < 7 && (((List.range 4).any fun o => xpoint fr o t == (c, sel)) || !(takers (fun _ => fr) (0, e) 0 c sel t).isEmpty)

/-- The source of the circuit that ends at endpoint e of block b, with its latency F. -/
def Dev.sourceOf (s : Dev) (b e : Nat) : Option (Nat × Nat × Nat) :=
  let w := epWord (s.frame b) e
  if w.ilink ≥ 5 then some (b, (if w.ilink = 5 then w.isel else 32 + w.isel), 8)
  else if w.ilink = 0 then none
  else traceBack s.frame pathFuel b w.ilink 0 w.islot 0

/-! ## Flits on their way (R186) -/

/-- Change an endpoint's run-time state. -/
def Dev.modEp (s : Dev) (b e : Nat) (f : Endpoint → Endpoint) : Dev := s.modSw b fun x => { x with eps := x.eps.mod e f }
/-- An endpoint's run-time state. -/
def Dev.ep (s : Dev) (b e : Nat) : Endpoint := (s.block b).sw.eps.get e
/-- A steering unit's run-time state. -/
def Dev.steer (s : Dev) (b u : Nat) : Steer := (s.block b).sw.steers.get u
/-- Change a steering unit's run-time state. -/
def Dev.modSteer (s : Dev) (b u : Nat) (f : Steer → Steer) : Dev :=
  s.modSw b fun x => { x with steers := x.steers.mod u f }

/-- Send a flit from a source on every branch of its circuit in the present slot. -/
def Dev.sendFlit (s : Dev) (b e : Nat) (data : Row) : Dev :=
  (s.branches b e (s.time % 8)).zipIdx.foldl (fun s p =>
    let (id, s) := s.fresh
    { s with flights := s.flights ++ [{ id := id, srcB := b, srcE := e, branch := p.2, dstB := p.1.1, dstE := p.1.2.1,
                                        delay := p.1.2.2, due := s.now + p.1.2.2, epoch := (s.block b).epoch,
                                        data := data, hops := s.way b e (s.time % 8) (p.1.1, p.1.2.1) }] }) s

/-- Return a credit from a sink's freed entry along the reverse circuit (R186), of the first slot that reaches the sink: it can be spent
F + 1 cycles later. -/
def Dev.sendCredit (s : Dev) (b e : Nat) : Dev :=
  match s.sourceOf b e with
  | none => s
  | some (sb, se, f) =>
    let (t, br) := ((List.range 7).filterMap fun k =>
      ((s.branches sb se k).findIdx? fun p => p.1 == b && p.2.1 == e).map fun i => (k, i)).headD (0, 0)
    let hops := (s.way sb se t (b, e)).map fun h => (h.1, h.2.1, f - h.2.2)
    let (id, s) := s.fresh
    { s with credits := s.credits ++ [{ id := id, dstB := sb, dstE := se, branch := br, due := s.now + f + 1,
                                        epoch := (s.block b).epoch, srcB := b, srcE := e, delay := f, hops := hops }] }

/-- Whether a flit at the head of a stream queue is done with (R186, R187). -/
def SFlit.done (x : SFlit) (relay : Bool) : Bool := x.written && (!relay || x.sent)

/-- Free the entries at the head of a stream queue that are done, each with its credit (R186, R187). -/
def Dev.freeDone (s : Dev) (b e : Nat) : Nat → Dev
  | 0 => s
  | n + 1 => match (s.ep b e).queue with
    | [] => s
    | x :: r =>
      if x.done ((epWord (s.frame b) e).mode == 3) then
        Dev.freeDone ((s.modEp b e fun y => { y with queue := r }).sendCredit b e) b e n
      else s

/-- The generator bound to an endpoint: the Chest of the block and the generator number (R161). -/
def Dev.boundGen (s : Dev) (b bind e : Nat) : Option (Nat × Nat × GenD) :=
  ((List.range 16).filterMap fun i =>
    let x := (s.chest (4 * b + i / 4)).gens.get (i % 4)
    let d := genD x.desc
    if d.gen = 1 ∧ d.bind = bind ∧ d.endpt = e then some (4 * b + i / 4, i % 4, d) else none).head?

/-- Whether the generators of a block go on: those of a faulted context are stopped (R176). -/
def Dev.gensRun (s : Dev) (b : Nat) : Bool := match s.frontOf b with
  | some x => (s.ctx x).state != .faulted
  | none => true

/-- Ask the SIN port to write a flit that has entered the queue of an endpoint (R186, R187): its row is the generator's
next, one unit for the row (R164). -/
def Dev.askSin (s : Dev) (b e : Nat) (data : Row) : Dev :=
  match s.boundGen b 1 e with
  | none => s
  | some (c, g, d) =>
    if !s.gensRun b then s
    else match s.takeRows c g 1 with
    | (some [q], s) =>
      let (u, s) := s.newUnit c { stamped := true, code := d.stamp, hold := d.hold, left := 1, ctx := s.frontOf b }
      s.pushReq c pSin { row := q, unit := u, isWrite := true, data := data, mask := fullRow, sink := .streamIn b e,
                         since := s.now + 1 }
    | (_, s) => match s.frontOf b with
      | some x => s.faultCtx x 0x000C (0x1000 + c) 0
      | none => s

/-- Ask the SOUT port for the reads that an OUT endpoint's staging buffer has room for (R183). -/
def Dev.askSout (s : Dev) (b e : Nat) : Nat → Dev
  | 0 => s
  | n + 1 =>
    let x := s.ep b e
    if (epWord (s.frame b) e).mode = 2 ∧ x.staging.length + x.asked < 2 ∧ s.gensRun b then
      match s.boundGen b 2 e with
      | none => s
      | some (c, g, d) =>
        match s.takeRows c g 1 with
        | (some [q], s) =>
          let (u, s) := s.newUnit c { stamped := true, code := d.stamp, release := d.release, left := 1, ctx := s.frontOf b }
          let s := s.modEp b e fun y => { y with asked := y.asked + 1 }
          Dev.askSout (s.pushReq c pSout { row := q, unit := u, sink := .streamOut b e, since := s.now }) b e n
        | (_, s) => match s.frontOf b with
          | some k => s.faultCtx k 0x000C (0x1000 + c) 0
          | none => s
    else s

/-- The SIN write of the oldest flit of a queue that is not written yet has been granted. -/
def Dev.sinGranted (s : Dev) (b e : Nat) : Dev :=
  (s.modEp b e fun x => { x with queue := modFirst (fun f => !f.written) (fun f => { f with written := true }) x.queue }).freeDone
    b e 256

/-- A SOUT read has been granted: its row enters the staging buffer. -/
def Dev.soutGranted (s : Dev) (b e : Nat) (data : Row) : Dev :=
  s.modEp b e fun x => { x with staging := x.staging ++ [{ data := data, at_ := s.now }], asked := x.asked - 1 }

/-- A stale flit or credit is discarded at a switch point (R213). -/
def Dev.stale (s : Dev) (b : Nat) : Dev := s.bump 0x6030 b 67

/-- Whether an entry of a block refuses a flit or credit of an epoch (R213). -/
def Dev.refuses (s : Dev) (b entry : Nat) (epoch : Bool) : Bool :=
  (s.block b).changed.contains entry && (s.block b).epoch != epoch

/-- What a swap of a block's shelf changes in its switch frame (R213), as Block.changed numbers it. -/
def changes (old new : Bytes) : List Nat :=
  (below 32 fun e => epWord old e != epWord new e)
    ++ ((below 28 fun i => xpoint old (i / 7) (i % 7) != xpoint new (i / 7) (i % 7)).map (· + 32))
    ++ ((below 8 fun u => steerWord old u != steerWord new u).map (· + 60))

/-- The stream state of a block that takes a new frame (R213): what the swap changed starts afresh, the rest stays. -/
def SwPoint.take (x : SwPoint) (ch : List Nat) (new : Bytes) : SwPoint :=
  let eps := ch.foldl (fun (t : Tab Endpoint) e =>
    if e < 32 then let w := epWord new e; t.set e { cred0 := w.cred0, cred1 := w.cred1 } else t) x.eps
  let steers := ch.foldl (fun (t : Tab Steer) e =>
    if e < 60 then t else let w := steerWord new (e - 60); t.set (e - 60) { cred0 := w.2.1, cred1 := w.2.2 }) x.steers
  { x with eps := eps, steers := steers }

/-- The entry on a way that is passed in this cycle and refuses what passes it (R213). -/
def Dev.stopHop (s : Dev) (sent : Nat) (hops : List PathHop) (epoch : Bool) : Option PathHop :=
  hops.find? fun h => sent + h.2.2 == s.now && s.refuses h.1 h.2.1 epoch
/-- Whether two flights are one flit at an entry that both pass: the branches of a FORK part later (R186). -/
def Flight.sameAt (f g : Flight) (h : PathHop) : Bool :=
  f.srcB == g.srcB && f.srcE == g.srcE && f.due + g.delay == g.due + f.delay && g.hops.contains h

/-- Flits that pass a crosspoint entry in this cycle are discarded there, each once, where the entry refuses them (R213). -/
def Dev.sweepFlights (s : Dev) : Dev :=
  s.flights.foldl (fun s f =>
    if s.flights.all fun g => g.id != f.id then s
    else match s.stopHop (f.due - f.delay) f.hops f.epoch with
      | none => s
      | some h => { s with flights := s.flights.filter fun g => !f.sameAt g h }.stale h.1) s

/-- Credits that pass a crosspoint entry in this cycle (R213). -/
def Dev.sweepCredits (s : Dev) : Dev :=
  s.credits.foldl (fun s f => match s.stopHop (f.due - f.delay - 1) f.hops f.epoch with
    | none => s
    | some h => { s with credits := s.credits.filter fun g => g.id != f.id }.stale h.1) s

end Sys2Proof.Machine
end

