-- ==== Sys2Proof/Machine/Concourse.lean ====
section
/-! DEFINITION. The Concourse (chapter 8): the local map, the slices, requests, and the lines of transfers. A request exists
from its issue to its reply; the slice or Chest that performs it gives it its status and its result. -/
namespace Sys2Proof.Machine

/-! ## The local map (R215, R221, R222) -/

/-- What a local offset names. -/
inductive Region where
  | hbm | system | lpddr
  | chest (n byte_ : Nat)
  | unmapped
  deriving DecidableEq, Repr, Inhabited

/-- Bytes in a GiB. -/
abbrev gib : Nat := 2 ^ 30
/-- Bytes in the HBM job area. -/
abbrev jobEnd : Nat := 0x009FC0000000
/-- First local offset of LPDDR5X. -/
abbrev lpBase : Nat := 0x010000000000

/-- The target of a local offset, with lp GiB of LPDDR5X installed (R215, R151). -/
def region (lp off : Nat) : Region :=
  if off < jobEnd then .hbm
  else if off < 0x00A000000000 then .system
  else if lpBase ≤ off ∧ off < lpBase + lp * gib then .lpddr
  else if 0x080000000000 ≤ off ∧ off < 0x080090000000 then
    let n := (off - 0x080000000000) / 0x100000
    let a := (off - 0x080000000000) % 0x100000
    if a < 786432 then .chest n a else .unmapped
  else .unmapped

/-- HBM slice of an offset (R221). -/
def hbmSlice (off : Nat) : Nat :=
  let a := off / 64
  Nat.xor (Nat.xor (Nat.xor (Nat.xor (bits a 6 0) (bits a 13 7)) (bits a 20 14)) (bits a 27 21)) (bits a 33 28)
/-- LPDDR5X slice of an offset (R222). -/
def lpSlice (off : Nat) : Nat :=
  let a := (off - lpBase) / 64
  Nat.xor (Nat.xor (Nat.xor (Nat.xor (Nat.xor (Nat.xor (bits a 4 0) (bits a 9 5)) (bits a 14 10)) (bits a 19 15)) (bits a 24 20))
    (bits a 29 25)) (bits a 33 30)
/-- The slice that performs an access, LPDDR5X slice k numbered 128 + k. -/
def sliceOf (off : Nat) : Nat := if off < lpBase then hbmSlice off else 128 + lpSlice off

/-- Slice-local line of an HBM offset (R221). -/
def hbmLocal (off : Nat) : Nat := bits (off / 64) 33 7
/-- Stack and compute die of an HBM offset (R221). -/
def hbmStack (off : Nat) : Nat × Nat := (hbmSlice off / 16, hbmSlice off / 64)
/-- Pseudo-channel within the stack, and DRAM address, of an HBM offset (R221). -/
def hbmDram (off : Nat) : Nat × Nat := (2 * (hbmSlice off % 16) + bits (hbmLocal off) 0 0, bits (hbmLocal off) 26 1)
/-- Slice-local line of an LPDDR5X offset (R222). -/
def lpLocal (off : Nat) : Nat := bits ((off - lpBase) / 64) 33 5
/-- Package, channel of the package and address of an LPDDR5X offset (R222). -/
def lpDram (off : Nat) : Nat × Nat × Nat :=
  (lpSlice off / 2, 2 * (lpSlice off % 2) + bits (lpLocal off) 0 0, bits (lpLocal off) 28 1)

/-- Counter record and item of a slice (R451). -/
def sliceCtr (sl : Nat) : Nat × Nat := if sl < 128 then (0x6060, sl) else (0x6061, sl - 128)
/-- Add to a slice's counter. -/
def Dev.bumpSlice (s : Dev) (sl w : Nat) : Dev := s.bump (sliceCtr sl).1 (sliceCtr sl).2 w

/-! ## Statuses (R235, R262) -/

abbrev stOk : Nat := 0x0
abbrev stUnmapped : Nat := 0x1
abbrev stUnsupported : Nat := 0x2
abbrev stChestOff : Nat := 0x3
abbrev stStampMismatch : Nat := 0x4
abbrev stHeldOverwrite : Nat := 0x5
abbrev stHeldWait : Nat := 0x6
abbrev stStampRequired : Nat := 0x7
abbrev stMemUe : Nat := 0x8
abbrev stPoolInvalid : Nat := 0x9
abbrev stRemoteTimeout : Nat := 0xA
abbrev stDeviceStale : Nat := 0xB
abbrev stPeerDenied : Nat := 0xC
abbrev stUnreachable : Nat := 0xD
abbrev stDrained : Nat := 0xE

/-! ## Requests -/

/-- Whether a request brings data flits to its port: a write or a line add (R217). -/
def CReq.hasData (r : CReq) : Bool := r.kind == .write || r.kind == .lineAdd
/-- The virtual channel of a request (R218): 0 timed, 1 bulk, 2 word atomics and management. Its reply is on this plus 3. -/
def CReq.vc (r : CReq) : Nat := if r.kind = .atomic ∨ r.cls = .mgmt ∨ r.cls = .fw then 2 else if r.timed then 0 else 1
/-- Whether an earlier request of a port to a line still waits at the port (R231). -/
def Dev.atPort (s : Dev) (port id line : Nat) : Bool :=
  s.conc.reqs.any fun q => q.port == port && decide (q.id < id) && q.off / 64 == line && q.stage == 0 && q.status.isNone

/-- Issue a request: it takes the next id. Data of a block port wait for the port's grant (R219); a request without data passes on the
header channel in the present cycle (R217), and so does one of the I/O-die ports, whose bandwidth no rule shares out. -/
def Dev.cReq (s : Dev) (r : CReq) : Dev :=
  let waits := decide (r.port < 576) && (r.hasData || s.atPort r.port s.conc.nextId (r.off / 64))
  let r := { r with id := s.conc.nextId, at_ := s.now, stage := if waits && r.status.isNone then 0 else 1 }
  s.modConc fun c => { c with reqs := c.reqs ++ [r], nextId := c.nextId + 1 }
/-- The request with an id. -/
def Dev.creq (s : Dev) (id : Nat) : Option CReq := s.conc.reqs.find? fun r => r.id = id
/-- Change the request with an id. -/
def Dev.modReq (s : Dev) (id : Nat) (f : CReq → CReq) : Dev :=
  s.modConc fun c => { c with reqs := modFirst (fun r => r.id = id) f c.reqs }
/-- Give a request its status and result: its reply is on its way. -/
def Dev.answer (s : Dev) (id st : Nat) (res : Bytes := []) : Dev :=
  s.modReq id fun r => { r with status := some st, result := res, doneAt := s.now }

/-- Device number of a global address, with the own number for 0x3FFF (R6, R249). -/
def addrDev (a : Nat) : Nat := bits a 57 44
/-- Whether a global address is local (R249). -/
def Dev.isLocal (s : Dev) (a : Nat) : Bool := addrDev a == 0x3FFF || addrDev a == s.elveel.devnum
/-- Whether the space or the growth bits of an address refuse it (R249). -/
def badAddr (a : Nat) : Bool := bits a 63 62 == 3 || bits a 61 58 != 0

/-- The packet of a remote memory request (R251, R260): reads by LOAD or GET, writes by STORE or PUT, as the class has it.
Bulk traffic is carried on VC 4 (DESIGN CHOICE, notes/assumptions/20.md). -/
def remotePkt (r : CReq) (addr : Nat) : EPkt :=
  let op := match r.kind with
    | .read => if r.timed then 0x01 else 0x06
    | .write => if r.timed then 0x02 else 0x05
    | .atomic => 0x03
    | .lineAdd => 0x04
  { op := op, ddev := addrDev addr, len := if r.kind = .atomic then 16 else r.len, addr := addr,
    flags := b2n r.timed + 2 * b2n r.eff.isSome + 4 * b2n r.hold + 8 * b2n r.release + 16 * b2n r.waitHeld,
    stamp := r.eff.getD 0, aop := r.aop + 16 * b2n r.aw, aux := if r.kind = .lineAdd then r.afmt else 0,
    payload := match r.kind with
      | .atomic => leBytes 8 r.op1 ++ leBytes 8 r.op2
      | .read => []
      | _ => r.data }

/-- Issue a memory access at a global address (R217, R249): to the Concourse when it is local, else to the router. One that
R249 refuses is answered with UNMAPPED. -/
def Dev.access (s : Dev) (addr : Nat) (r : CReq) : Dev :=
  if badAddr addr ∨ bits addr 63 62 ≠ 0 then s.cReq { r with off := addr, status := some stUnmapped }
  else if s.isLocal addr then s.cReq { r with off := bits addr 43 0 }
  else s.request (remotePkt r addr) (.conc r.src)

/-! ## Transfer descriptors (R226, R227) -/

/-- A transfer descriptor's fields. -/
structure XferD where
  gen : Nat
  dir : Nat
  chest : Nat
  timed : Bool
  trig : Nat
  targ : Nat
  doneb : Bool
  dline : Nat
  stamp : Nat
  hold : Bool
  release : Bool
  waitheld : Bool
  pooled : Bool
  afmt : Nat
  rsv : Bool
  addr : Nat
  cnt : List Nat
  mstr : List Int
  rstr : List Int
  rowbase : Nat
  deriving DecidableEq, Repr, Inhabited

/-- Read a transfer descriptor (R226, R227). -/
def xferD (b : Bytes) : XferD :=
  let w := fld b 0 8
  { gen := bits w 3 0, dir := bits w 5 4, chest := bits w 7 6, timed := bit w 8, trig := bits w 10 9, targ := bits w 20 11,
    doneb := bit w 21, dline := bits w 26 22, stamp := bits w 30 27, hold := bit w 31, release := bit w 32,
    waitheld := bit w 33, pooled := bit w 34, afmt := bits w 38 35,
    rsv := bits w 63 39 != 0 || bits (fld b 40 2) 15 14 != 0 || !zeroAt b 42 22,
    addr := fld b 8 8, cnt := (List.range 3).map fun d => fld b (16 + 8 * d) 2 + 1,
    mstr := (List.range 3).map fun d => sgn 32 (fld b (18 + 8 * d) 4),
    rstr := (List.range 3).map fun d => sgn 16 (fld b (22 + 8 * d) 2),
    rowbase := bits (fld b 40 2) 13 0 }

/-- Lines of a transfer. -/
def XferD.lines (d : XferD) : Nat := d.cnt.foldl (· * ·) 1
/-- Memory displacement of line k, in lines. -/
def XferD.disp (d : XferD) (k : Nat) : Int := walkAt d.cnt d.mstr k
/-- Address of line k. -/
def XferD.lineAddr (d : XferD) (k : Nat) : Nat := ((d.addr : Int) + 64 * d.disp k).toNat % 2 ^ 64
/-- Chest row of line k. -/
def XferD.lineRow (d : XferD) (k : Nat) : Nat := ((d.rowbase : Int) + walkAt d.cnt d.rstr k).toNat

/-- The transfer instance with an id at a block. -/
def Dev.xinst (s : Dev) (b id : Nat) : Option XInst :=
  ((s.block b).xfer.timedQ ++ (s.block b).xfer.bulkQ).find? fun i => i.id = id
/-- Change an instance. -/
def Dev.modInst (s : Dev) (b id : Nat) (f : XInst → XInst) : Dev :=
  s.modBlock b fun x => { x with xfer := { x.xfer with timedQ := modFirst (fun i => i.id = id) f x.xfer.timedQ,
                                                       bulkQ := modFirst (fun i => i.id = id) f x.xfer.bulkQ } }

/-! ## Pooled references (R242 to R244) -/

/-- A pool descriptor's control word (R242): SLOTS less one, PAGES, IDLEMIN; with MAPBASE and SEQBASE. -/
structure PoolD where
  slots : Nat
  pages : Nat
  idlemin : Nat
  mapbase : Nat
  seqbase : Nat
  deriving DecidableEq, Repr, Inhabited
/-- Whether the pool engine accepts a descriptor (R242): no reserved field set, GEN 1, and both arrays in the job area. -/
def poolDescOk (b : Bytes) : Bool :=
  let w := fld b 0 8
  let n := bits w 15 4 + 1
  bits w 3 0 == 1 && bits w 63 48 == 0 && zeroAt b 48 16 && bits w 39 16 != 0 && bits w 47 40 != 0
    && decide (fld b 8 8 + 8 * n * bits w 39 16 ≤ jobEnd) && decide (fld b 16 8 + 16 * n ≤ jobEnd)
/-- The pool descriptor of a context, none where the entry names none or the pool engine does not accept it (R242). -/
def Dev.poolD (s : Dev) (c : Nat) : Option PoolD :=
  let a := bits (s.ctx c).pooldesc 43 0
  let b := s.memAt a 64
  if (s.ctx c).pooldesc = 0 ∨ !poolDescOk b then none
  else
    let w := fld b 0 8
    some { slots := bits w 15 4 + 1, pages := bits w 39 16, idlemin := bits w 47 40, mapbase := fld b 8 8, seqbase := fld b 16 8 }
/-- Address of a page map entry (R243). -/
def PoolD.entryAt (d : PoolD) (slot page : Nat) : Nat := d.mapbase + 8 * (slot * d.pages + page)
/-- Offset of a frame of a tier (R241). -/
def frameOff (tier f : Nat) : Nat := (if tier = 0 then 0 else lpBase) + 65536 * f

/-- What a pooled line gives (R244): an address, nothing yet (its entry is not cached, or its page moves), or no valid mapping. -/
inductive Pooled where
  | at_ (addr : Nat)
  | moving
  | invalid
  deriving DecidableEq, Repr, Inhabited

/-- Slot and page of line k of a pooled transfer, with its line within the page; none where the reference is not one. -/
def XferD.pooledRef (d : XferD) (k : Nat) : Option (Nat × Nat × Nat) :=
  let r := (d.addr : Int) + d.disp k
  if r < 0 ∨ bits d.addr 63 46 ≠ 0 ∨ r ≥ 2 ^ 46 then none
  else some (bits r.toNat 45 34, bits r.toNat 33 10, bits r.toNat 9 0)

/-- Key of a page map entry of context c in a translation cache. -/
def transKey (c slot page : Nat) : Nat := 2 ^ 36 * c + 2 ^ 24 * slot + page

/-- Translate line k of a pooled transfer of context c by its block's translation cache (R244). -/
def Dev.pooledLine (s : Dev) (b c : Nat) (d : XferD) (k : Nat) : Pooled :=
  match s.poolD c, d.pooledRef k with
  | some p, some (slot, page, line) =>
    if slot ≥ p.slots ∨ page ≥ p.pages then .invalid
    else match (s.block b).xfer.tcache.get (transKey c slot page) with
      | none => .moving
      | some e => if !e.getLsbD 0 then .invalid else .at_ (frameOff (bits e.toNat 1 1) (bits e.toNat 26 3) + 64 * line)
  | _, _ => .invalid

/-- Global address of line k of a transfer: on the own device for a pooled one, none for an invalid reference. -/
def Dev.lineTarget (s : Dev) (b : Nat) (i : XInst) (k : Nat) : Option Nat :=
  let d := xferD i.desc
  if !d.pooled then some (d.lineAddr k)
  else match s.pooledLine b i.ctx d k with
    | .at_ a => some (a + 2 ^ 44 * 0x3FFF)
    | _ => none

/-- The request of a line: its data for a write or a line add, and the effective stamp (R229, R230). -/
def XInst.lineReq (i : XInst) (b k : Nat) (data : Bytes) : CReq :=
  let d := xferD i.desc
  let src := CSrc.xfer b i.id k
  let base : CReq := { id := 0, src := src, kind := .read, off := 0, timed := d.timed && !i.preload, port := b, cls := .host,
                       missAt := i.missAt, eff := some i.eff }
  match d.dir with
  | 0 => base
  | 1 => { base with kind := .write, data := data }
  | _ => { base with kind := .lineAdd, data := data, afmt := d.afmt }

/-- Count a data flit of a block port (R217, R248): toward the block or toward the Concourse, of the timed or the bulk class. -/
def Dev.countFlit (s : Dev) (b : Nat) (toBlock timed : Bool) : Dev :=
  s.bump 0x6030 b ((if toBlock then 62 else 64) + if timed then 0 else 1)

/-- A stamped access on a Chest window at the far end carries the instance's effective stamp (R230): a read there expects it, a
write there stores it. The local Chest access of the line has a unit of its own. -/
def Dev.issueLine (s : Dev) (b : Nat) (i : XInst) (k addr : Nat) (data : Bytes) : Dev :=
  s.access addr (i.lineReq b k data)

/-- A reply for line k of an instance, with its flags: the instance completes when every line has one (R229). A status other
than OK faults the context with MEM_FAULT, which names the block, the descriptor, the line, its address and the status (R235). -/
def Dev.lineReply (s : Dev) (b id k st : Nat) (fl : BitVec 32) : Dev :=
  match s.xinst b id with
  | none => s
  | some i =>
    let s := s.modInst b id fun j => { j with replies := j.replies + 1, flags := j.flags ||| fl }
    let d := xferD i.desc
    let addr := if d.pooled then ((d.addr : Int) + d.disp k).toNat else d.lineAddr k
    if st = 0 then s
    else s.faultCtx i.ctx (if i.preload then 0x0015 else 0x000E) (4 * b + d.chest + 0x1000) i.didx 0 (.access i.didx k addr st)

end Sys2Proof.Machine
end

