-- ==== Sys2Proof/Machine/Chest.lean ====
section
/-! DEFINITION. The Chest (chapter 6): grants under the slot wheel (R153, R154), stamps and held bits (R164 to R171), errors in
the arrays (R178), and the two waits that end in a fault (R160, R168). -/
namespace Sys2Proof.Machine

/-- Peak width of a port (R152). -/
def portWidth (p : Nat) : Nat := match p with
  | 1 => 2
  | 2 => 4
  | 3 => 2
  | 4 => 2
  | 5 => 2
  | 6 => 2
  | 7 => 2
  | _ => 1

/-- Whether a port may use a cell of a bank (R154, R158). Where the front shelf does not name a bank that the back shelf names,
preload writes and SVC take every position (R247). -/
def Dev.ownsCell (s : Dev) (c port bank pos : Nat) : Bool :=
  let sh := s.shelf (c / 4)
  if bit (sh.banks (c % 4)) bank then
    let o := (sh.owners.get (c % 4) : Tab Nat).get (16 * bank + pos)
    o == port || (port == pSvc && o == 0)
  else bit ((s.backShelf (c / 4)).banks (c % 4)) bank && (port == pCwr || port == pSvc)

/-! ## What a grant gives -/

/-- A request of a transfer or of an engine has its row: the job or the MMA gets it (R154). -/
def Dev.jobGrant (s : Dev) (n ticket k : Nat) (isWrite : Bool) (row : Row) : Dev :=
  s.modStall n fun st => { st with jobs := modFirst (fun j => j.ticket = ticket) (fun j =>
    { j with need := j.need - 1, lastGrant := s.now, got := if isWrite then j.got else j.got ++ [(k, row)] }) st.jobs }

/-- A line of a transfer has read its Chest row (DIR 01, 10): the line leaves the block. -/
def Dev.xferRead (s : Dev) (b id k addr : Nat) (row : Row) : Dev :=
  match s.xinst b id with
  | none => s
  | some i => s.issueLine b i k addr (rowBytes row)

/-- The row of a timed read is written: beyond its bound, the slice counts a late reply (R223, R225), or the device for a remote access
(R266), which stands as slice 160. -/
def Dev.rowLate (s : Dev) (late : Option (Nat × Nat)) : Dev := match late with
  | some (t, sl) => s.iff (decide (t < s.now)) fun s => if sl < 160 then s.bumpSlice sl 6 else s.bump 0x6080 0 9
  | none => s

/-- A grant's data or completion goes to the one that asked. -/
def Dev.deliver (s : Dev) (r : RowReq) (row : Row) : Dev := match r.sink with
  | .job n t k => s.jobGrant n t k r.isWrite row
  | .epi n t k => s.jobGrant n t k r.isWrite row
  | .streamIn b e => s.sinGranted b e
  | .streamOut b e => s.soutGranted b e row
  | .creq id => match s.creq id with
    | none => s
    | some q => s.answer id stOk (if r.isWrite then [] else sub (rowBytes row) (q.off % 64) q.len)
  | .xferRead b id k addr =>
    if r.isWrite then (s.lineReply b id k stOk 0).rowLate r.late
    else s.xferRead b id k addr row
  | .svc _ => s

/-- A request that is not performed: a Concourse request gets the status (R169), a transfer's own write its reply. -/
def Dev.rejectReq (s : Dev) (r : RowReq) (st : Nat) : Dev := match r.sink with
  | .creq id => s.answer id st
  | .xferRead b id k _ => s.lineReply b id k st 0
  | _ => s

/-! ## Violations (R169 to R171) -/

/-- The violation record (R170). -/
def violRec (c row port kind sexp : Nat) (x : RowStat) (pos beat : Nat) : W64 :=
  BitVec.ofNat 64 (c + 2 ^ 12 * row + 2 ^ 26 * port + 2 ^ 30 * kind + 2 ^ 32 * sexp + 2 ^ 36 * x.stamp + 2 ^ 40 * b2n x.held
    + 2 ^ 41 * pos + 2 ^ 45 * (beat % 2 ^ 19))

/-- Latch and count a violation (R170): the record. kind 0 STAMP_MISMATCH, 1 HELD_OVERWRITE, 2 HELD_WAIT_TIMEOUT. The fault record carries
the record of its own violation also where an earlier, unread one stays latched: DESIGN CHOICE (notes/assumptions/64.md). -/
def Dev.noteViolation (s : Dev) (c row port kind sexp : Nat) : W64 × Dev :=
  let x := s.chest c
  let v := violRec c row port kind sexp (x.stat.get row) (s.time % 16) (s.beatB (c / 4))
  let s := s.iff (!x.latched) fun s => s.modChest c fun y => { y with violation := v, latched := true }
  (v, if kind = 0 then s.bump 0x6020 c 0 else if kind = 1 then s.bump 0x6020 c 1 else s)

/-- Whether the context that owns a bank is lenient (R171). -/
def Dev.isLenient (s : Dev) (c row : Nat) : Bool := match s.bankOwner c (row % 16) with
  | some x => (s.ctx x).lenient
  | none => false

/-- The PC of the Stall whose order made a request is left at that order, where the fault is of the Stall's own context (R92). -/
def Dev.markPc (s : Dev) (k : Sink) (x pc : Nat) : Dev := match k with
  | .job n _ _ => s.iff (s.stallCtx n == some x) fun s => s.modStall n fun st => { st with pc := pc }
  | .epi n _ _ => s.iff (s.stallCtx n == some x) fun s => s.modStall n fun st => { st with pc := pc }
  | _ => s

/-- Fault the context that owns a row's bank with a schedule violation (R92, R169). pc is the order that made the access. -/
def Dev.violationFault (s : Dev) (c : Nat) (r : RowReq) (pc : Nat) (v : W64) : Dev := match s.bankOwner c (r.row % 16) with
  | some x => (s.markPc r.sink x pc).faultCtx x 0x0004 (0x1000 + c) pc v
  | none => s

/-! ## One access (R156, R165 to R167, R178) -/

/-- Words of a row that a mask touches, and those it covers whole. -/
def wordsOf (mask : Row) : List Nat × List Nat :=
  (below 16 fun w => (mask >>> (32 * w)).setWidth 32 != (0 : W32),
   below 16 fun w => (mask >>> (32 * w)).setWidth 32 == BitVec.allOnes 32)

/-- Words with a double-bit error that a request meets (R178): any word of a row that it reads, a word that it replaces in
part, and the row's status when the unit is stamped. -/
def Dev.meetsUe (s : Dev) (c : Nat) (r : RowReq) (stamped : Bool) : Bool :=
  let (some_, whole) := wordsOf r.mask
  (s.chest c).badWords.any fun p => p.1 == r.row &&
    (if p.2 = 16 then stamped else !r.isWrite || (some_.contains p.2 && !whole.contains p.2))

/-- The unit of a request after one more grant. -/
def AccUnit.granted (u : AccUnit) (row now : Nat) (isRead : Bool) : AccUnit :=
  { u with left := u.left - 1, lastRead := now, rowsRead := if isRead then u.rowsRead ++ [row] else u.rowsRead }

/-- Perform a granted access: data, stamp and held bit (R156, R165), then the delivery. -/
def Dev.perform (s : Dev) (c : Nat) (r : RowReq) (stamp : Option Nat) (hold : Bool) : Dev :=
  let (_, whole) := wordsOf r.mask
  let s := s.modChest c fun x => { x with units := (r.unit :: r.also.toList).foldl (fun t u =>
    t.mod u fun y => y.granted r.row s.now (!r.isWrite)) x.units }
  if r.isWrite then
    let s := s.rowPut c r.row (mergeRow (s.rowData c r.row) r.data r.mask)
    let s := s.modChest c fun x =>
      { x with badWords := x.badWords.filter fun p => !(p.1 == r.row && whole.contains p.2),
               stat := match stamp with
                 | none => x.stat
                 | some e => x.stat.mod r.row fun q => { stamp := e, held := q.held || hold } }
    s.deliver r 0
  else s.deliver r (s.rowData c r.row)

/-- What a port does with its oldest request in a cell that it owns. -/
inductive Grant where
  | done (s : Dev)      -- granted, or answered without an effect
  | waits (s : Dev)     -- a wait-held write stays (R168)
  deriving Inhabited

/-- The stamp of an access of a unit: none when it is unstamped (R164, R167), else its effective stamp, which the first grant of the
unit fixes. -/
def Dev.unitStamp (s : Dev) (c unit : Nat) : Option Nat :=
  let u := (s.chest c).units.get unit
  if !u.stamped then none else some (u.eff.getD (effStamp u.code (s.beatB (c / 4))))
/-- The stamp of a request: that of its unit. -/
def Dev.reqStamp (s : Dev) (c : Nat) (r : RowReq) : Option Nat := s.unitStamp c r.unit
/-- Fix the effective stamp of a unit (R164). -/
def Dev.fixStamp (s : Dev) (c unit : Nat) (e : Option Nat) : Dev :=
  s.iff e.isSome fun s => s.modChest c fun x => { x with units := x.units.mod unit fun u => { u with eff := e } }

/-- The time limit of a wait-held write (R168): the send-stall timeout of the context that owns the bank. The manual gives the timeout by
context; where no context owns the bank, the default of 2^20 cycles holds: DESIGN CHOICE (notes/assumptions/64.md). -/
def Dev.heldLimitOf (s : Dev) (c row : Nat) : Nat := match s.bankOwner c (row % 16) with
  | some x => (s.ctx x).sstoCycles
  | none => 2 ^ 20

/-- One grant (R154, R164 to R171, R178). A row that both sources of a vector touch is checked for both (R104). -/
def Dev.grantOne (s : Dev) (c port : Nat) (r : RowReq) : Grant :=
  let u := (s.chest c).units.get r.unit
  let dstamp := bits ((s.shelf (c / 4)).cfg.get (c % 4)).toNat 23 20
  let plainCwr := port == pCwr && r.isWrite && !u.stamped
  let stamp := if plainCwr then some dstamp else s.reqStamp c r
  let hold := u.hold && !plainCwr
  let second := r.also.bind fun a => s.unitStamp c a
  let s := s.iff u.stamped fun s => s.fixStamp c r.unit stamp
  let s := match r.also with
    | some a => s.fixStamp c a second
    | none => s
  let row := (s.chest c).stat.get r.row
  if plainCwr && dstamp == 0 then .done (s.rejectReq r stStampRequired)
  else if s.meetsUe c r stamp.isSome then
    let owner := s.bankOwner c (r.row % 16)
    let s := s.violationFault c r u.pc 0
    let s := s.rejectReq r stMemUe
    .done (s.unitError 0x02 1 (0x1000 + c) owner.toList 0x0004 r.row)
  else match stamp with
    | none => .done (s.perform c r none false)
    | some e =>
      if !r.isWrite then
        if row.stamp = e ∧ second.getD e = row.stamp then .done (s.perform c r none false)
        else
          let (v, s) := s.noteViolation c r.row port 0 (if row.stamp = e then second.getD e else e)
          if s.isLenient c r.row then .done (s.perform c r none false)
          else .done ((s.violationFault c r u.pc v).rejectReq r stStampMismatch)
      else if row.held && row.stamp != e then
        if r.waitHeld && port == pCwr then
          .waits (s.iff ((s.chest c).heldSince.isNone) fun s => s.modChest c fun x =>
            { x with heldSince := some s.now, heldLimit := s.heldLimitOf c r.row })
        else
          let (v, s) := s.noteViolation c r.row port 1 e
          if s.isLenient c r.row then .done (s.perform c r (some e) hold)
          else .done ((s.violationFault c r u.pc v).rejectReq r stHeldOverwrite)
      else
        .done (s.perform c r (some e) hold)

/-- Drop the oldest request of a port: a wait-held write that leaves ends its wait (R168). -/
def Dev.popReq (s : Dev) (c port : Nat) (r : RowReq) : Dev :=
  let ends := port == pCwr
  s.modChest c fun x => { x with
    heldSince := if ends then none else x.heldSince
    ports := x.ports.mod port fun l => match l with
      | y :: rest => if y = r then rest else y :: rest
      | [] => [] }

/-- The grants of one port in this cycle (R154): n more may be granted; taken are the banks used so far in this cycle by any
port. A Concourse request whose bank is off, a pending one whose bank a swap turned off among them, gets its CHEST_OFF without a cell
(R175). -/
def Dev.portGrants (s : Dev) (c port pos : Nat) : Nat → List Nat → List Nat × Dev
  | 0, taken => (taken, s)
  | n + 1, taken => match (s.chest c).ports.get port with
    | [] => (taken, s)
    | r :: _ =>
      let bank := r.row % 16
      if s.now < r.since then (taken, s)
      else if (port == pCrd || port == pCwr) && s.chestIsOff c r.row then
        Dev.portGrants ((s.rejectReq r stChestOff).popReq c port r) c port pos n taken
      else if !(s.ownsCell c port bank pos) || taken.contains bank then (taken, s)
      else if !(s.bankOn c bank) && port != pCrd && port != pCwr then (taken, s)
      else match s.grantOne c port r with
        | .waits s => (taken, s)
        | .done s => Dev.portGrants (s.popReq c port r) c port pos n (bank :: taken)

/-- Marks of the check codes in this cycle (R178): a corrected error of a row that is accessed counts, a double-bit error
stays in its word. -/
def Dev.markErrors (s : Dev) (c : Nat) : List ErrMark → Dev
  | [] => s
  | m :: r =>
    let s := match m.ecc with
      | .corrected => (s.bump 0x6020 c 3).corrected 1 (0x1000 + c)
      | .uncorrectable => s.modChest c fun x =>
          { x with badWords := if x.badWords.contains (m.row, m.word) then x.badWords else (m.row, m.word) :: x.badWords }
      | _ => s
    Dev.markErrors s c r

/-- Release the held bits of the units whose last read was granted in an earlier cycle (R166), and forget the units that are
done. -/
def Dev.releaseHeld (s : Dev) (c : Nat) : Dev :=
  let x := s.chest c
  let past := x.units.filter fun p => p.2.left == 0 && decide (p.2.lastRead < s.now)
  let rows := (past.filter fun p => p.2.release).flatMap fun p => p.2.rowsRead
  s.iff (!past.isEmpty) fun s => s.modChest c fun x =>
    { x with units := x.units.filter fun p => !(p.2.left == 0 && decide (p.2.lastRead < s.now)),
             stat := rows.foldl (fun t q => t.mod q fun y => { y with held := false }) x.stat }

/-- Grants of a Chest in one cycle (R154): the SVC port first where a bank has no owner table (R247), then each port in the
order of its code. A Chest whose block's clock does not run, or that has granted in this cycle, grants nothing. -/
def chestGrant (c : Nat) (codes : List ErrMark) (s : Dev) : Dev :=
  if !s.lit || (s.block (c / 4)).island != .run || decide (s.now < (s.block (c / 4)).clockAt) || (s.chest c).granted == some s.now then s
  else
    let s := s.modChest c fun x => { x with granted := some s.now }
    let s := (s.releaseHeld c).markErrors c codes
    let taken : List Nat := match (s.chest c).svcAt with
      | some (t, bank) => if t = s.now then [bank] else []
      | none => []
    (([10, 1, 2, 3, 4, 5, 6, 7, 8, 9] : List Nat).foldl (fun (acc : List Nat × Dev) p =>
      acc.2.portGrants c p (s.time % 16) (portWidth p) acc.1) (taken, s)).2
/-! ## Waits that end (R160, R168) -/

/-- A wait-held write has waited longer than the send-stall timeout (R168): a violation, after which a lenient context's write
proceeds (R171). -/
def heldWaitTimeout (c : Nat) (s : Dev) : Dev :=
  match (s.chest c).heldSince, (s.chest c).ports.get pCwr with
  | some t, r :: _ =>
    if s.now - t > (s.chest c).heldLimit then
      let u := (s.chest c).units.get r.unit
      let e := (s.reqStamp c r).getD 0
      let (v, s) := s.noteViolation c r.row pCwr 2 e
      let s := s.popReq c pCwr r
      if s.isLenient c r.row then s.perform c r (some e) u.hold
      else (s.violationFault c r u.pc v).rejectReq r stHeldWait
    else s
  | _, _ => s
/-- HELD_WAIT_TIMEOUT (R168). -/
def execHeldWaitTimeout (c : Nat) (s : State) : Host.Outcome State Fault Refusal :=
  s.actOn (decide (c < 2304)) (heldWaitTimeout c)

/-- The oldest request of a port has no cell of its bank and has waited so, since it became pending or the latest swap took its
cells, longer than the send-stall timeout of its context (R160): the context that issued it faults; the event names the Chest, the port
and the row. -/
def slotStarved (c port : Nat) (s : Dev) : Dev :=
  match (s.chest c).ports.get port with
  | [] => s
  | r :: _ =>
    let bank := r.row % 16
    let u := (s.chest c).units.get r.unit
    match u.ctx with
    | none => s
    | some x =>
      let swapped := match s.lotOf (c / 4) with
        | some k => (s.lot k).swapTime
        | none => 0
      if ((List.range 16).any fun pos => s.ownsCell c port bank pos) || s.now ≤ max r.since swapped + r.limit then s
      else (s.markPc r.sink x u.pc).faultCtx x 0x000B (0x1000 + c) u.pc 0 (.port port r.row)
/-- SLOT_STARVED (R160). -/
def execSlotStarved (c port : Nat) (s : State) : Host.Outcome State Fault Refusal :=
  s.actOn (decide (c < 2304) && decide (port < 16)) (slotStarved c port)

/-- The data of a transfer line has arrived (R229): it becomes a CWR write of its row, one unit with the instance's effective
stamp (R230). -/
def Dev.xferData (s : Dev) (b id k : Nat) (data : Bytes) (late : Option (Nat × Nat)) : Dev :=
  match s.xinst b id with
  | none => s
  | some i =>
    let d := xferD i.desc
    let c := 4 * b + d.chest
    let (u, s) := s.newUnit c { stamped := true, code := d.stamp, eff := some i.eff, hold := d.hold, left := 1, ctx := some i.ctx }
    s.pushReq c pCwr { row := d.lineRow k, unit := u, isWrite := true, data := rowOf data, mask := fullRow,
                       sink := .xferRead b id k 0, since := s.now, waitHeld := d.waitheld, late := late }

end Sys2Proof.Machine
end

