-- ==== Sys2Proof/Machine/Fusion.lean ====
section
/-! DEFINITION. Fused stages (chapter 5): stage lists and their headers, what each stage computes on a tile, row statistics,
online softmax, prologues, and the time an epilogue takes. A use is computed as a whole from the values it reads; the
engines in Stall.lean give it its operands, its Chest rows and its time. -/
namespace Sys2Proof.Machine

/-! ## Headers and stages (R125 to R128, R134) -/

/-- A stage list's header (R125). -/
structure EHdr where
  gen : Nat
  nst : Nat
  ofmt : Nat
  dwrite : Bool
  sbase : Nat
  srows : Nat
  tid : Nat
  row0 : Nat
  col0 : Nat
  cadv : Nat
  nuse : Nat
  radv : Nat
  eps : Nat
  rsv : Bool
  deriving DecidableEq, Repr, Inhabited

/-- Read a stage list's header (R125). -/
def ehdr (b : Bytes) : EHdr :=
  let w := fld b 0 8
  { gen := bits w 3 0, nst := bits w 8 4, ofmt := bits w 12 9, dwrite := bit w 13, sbase := bits w 29 16,
    srows := bits w 42 32, tid := fld b 8 4, row0 := fld b 12 4, col0 := fld b 16 4, cadv := fld b 20 2,
    nuse := fld b 22 2, radv := fld b 24 2, eps := fld b 28 4,
    rsv := bits w 15 14 != 0 || bits w 31 30 != 0 || bits w 63 43 != 0 || !zeroAt b 26 2 }

/-- A program-form epilogue's header (R134). -/
structure PHdr where
  gen : Nat
  ofmt : Nat
  v1src : Nat
  v2src : Nat
  dlat : Nat
  cadv : Nat
  nuse : Nat
  imm0 : Nat
  imm1 : Nat
  tid : Nat
  row0 : Nat
  col0 : Nat
  radv : Nat
  rsv : Bool
  deriving DecidableEq, Repr, Inhabited

/-- Read a program-form epilogue's header (R134). -/
def phdr (b : Bytes) : PHdr :=
  let w := fld b 0 8
  { gen := bits w 3 0, ofmt := bits w 7 4, v1src := bits w 9 8, v2src := bits w 11 10, dlat := bits w 31 16,
    cadv := bits w 47 32, nuse := bits w 63 48, imm0 := fld b 8 4, imm1 := fld b 12 4, tid := fld b 16 4,
    row0 := fld b 20 4, col0 := fld b 24 4, radv := fld b 28 2,
    rsv := bits w 15 12 != 0 || !zeroAt b 30 2 }

/-- Stage kinds (R127). -/
abbrev kCvt : Nat := 0x01
abbrev kScale : Nat := 0x02
abbrev kBias : Nat := 0x03
abbrev kResid : Nat := 0x04
abbrev kAct : Nat := 0x05
abbrev kClamp : Nat := 0x06
abbrev kDrop : Nat := 0x07
abbrev kQmx : Nat := 0x08
abbrev kRstat : Nat := 0x09
abbrev kSidew : Nat := 0x0A
abbrev kSend : Nat := 0x0B
abbrev kStore : Nat := 0x0C
abbrev kOmax : Nat := 0x0D
abbrev kOscl : Nat := 0x0E
abbrev kOnrm : Nat := 0x0F
abbrev kSidea : Nat := 0x10

/-- Kind of a stage word (R126). -/
def stKind (w : Nat) : Nat := bits w 4 0
/-- Whether a stage is a prologue stage (R126). -/
def stPro (w : Nat) : Bool := bit w 5
/-- Stated format of a stage (R126). -/
def stFmt (w : Nat) : Nat := bits w 9 6
/-- Epilogue stages of a list, in order. -/
def epiStages (ws : List Nat) : List Nat := ws.filter fun w => !stPro w
/-- Prologue stages that run on the vector stages (R133). -/
def proStages (ws : List Nat) : List Nat := ws.filter fun w => stPro w && stKind w != kOscl
/-- The OSCL stage of a list. -/
def osclStage (ws : List Nat) : Option Nat := ws.find? fun w => stKind w = kOscl
/-- Whether a list holds a kind. -/
def hasKind (ws : List Nat) (k : Nat) : Bool := ws.any fun w => stKind w == k

/-! ## A use -/

/-- A tile of FP32 working values: 32 rows. -/
abbrev Grid32 := List (List Nat)

/-- What a use of a list computes with (R124, R130): its coordinates, its rounding, its generator, its side inputs. -/
structure UseEnv where
  h : EHdr
  line : Nat
  u : Nat
  b : Nat
  rmode : Nat
  nonsat : Bool
  seed : W64
  step : Nat
  aux : Nat → Nat → Nat → Nat → Nat         -- format, AUX (0 for AUX1, 1 for AUX2), row, column: the pattern
  resid : Nat → Nat → Bytes                 -- stage index, tile row: the bytes read from the Chest
  side : Nat → Nat → Nat × Nat              -- SIDEA stage, row r: V0 and V1 of its entry

/-- Row origin of the use (R124). -/
def UseEnv.rowO (e : UseEnv) : Nat := (e.h.row0 + e.b * e.h.radv) % 2 ^ 32
/-- Column origin of the use (R124). -/
def UseEnv.colO (e : UseEnv) : Nat := (e.h.col0 + e.u * e.h.cadv) % 2 ^ 32
/-- Column coordinate of column c (R124). -/
def UseEnv.col (e : UseEnv) (c : Nat) : Nat := (e.colO + c) % 2 ^ 32
/-- Row coordinate of row r (R124). -/
def UseEnv.row (e : UseEnv) (r : Nat) : Nat := (e.rowO + r) % 2 ^ 32
/-- Whether this is the band's last use (R124). -/
def UseEnv.last (e : UseEnv) : Bool := e.u == e.h.nuse
/-- The generator's value for an element and purpose (R130). -/
def UseEnv.gen (e : UseEnv) (purpose r c : Nat) : Nat :=
  if purpose = 1 ∧ e.rmode ≠ 4 then 0 else srBits e.seed e.h.tid (e.row r) (e.col c) e.step purpose
/-- The mode of FP32 arithmetic (R41, R130). -/
def UseEnv.m (e : UseEnv) : Nat := wideMode e.rmode

/-- Round a working value to a stated format and hold it exactly as FP32 (R130). -/
def UseEnv.stated (e : UseEnv) (fmt r c v : Nat) : Nat × Nat :=
  if fmt = 0 then (v, 0)
  else
    let (p, g) := convNum fmt e.nonsat e.rmode (e.gen 1 r c) (fp32.decode v)
    ((fp32.ofNum 0 0 (decodeElem fmt p)).1, g)

/-- Map a tile element by element with its row and column, joining the flags. -/
def mapGrid (f : Nat → Nat → Nat → Nat × Nat) (x : Grid32) : Grid32 × Nat :=
  let y := x.zipIdx.map fun p => p.1.zipIdx.map fun q => f p.2 q.2 q.1
  (y.map fun row => row.map (·.1), y.foldl (fun g row => row.foldl (fun g v => g ||| v.2) g) 0)

/-- State rows of the Chest, as 16 words each. -/
abbrev StateRows := List (Nat × List Nat)

/-- Word w of the two-row state that starts at row q. -/
def stWord (st : StateRows) (q w : Nat) : Nat :=
  match st.find? fun p => p.1 = q + w / 16 with
  | some p => p.2.getD (w % 16) 0
  | none => 0
/-- Set word w of the two-row state that starts at row q. -/
def stSet (st : StateRows) (q w v : Nat) : StateRows :=
  modFirst (fun p => p.1 = q + w / 16) (fun p => (p.1, p.2.set (w % 16) v)) st

/-- A fold (R139): x enters the stack at word base w0; done partials were folded before. -/
def foldGo (add : Nat → Nat → Nat × Nat) (q w0 done : Nat) : Nat → Nat → StateRows → Nat → Nat → StateRows × Nat
  | 0, _, st, _, g => (st, g)
  | fuel + 1, lv, st, x, g =>
    if bit done lv then let (y, h) := add (stWord st q (w0 + lv)) x; foldGo add q w0 done fuel (lv + 1) st y (g ||| h)
    else (stSet st q (w0 + lv) x, g)
/-- fold of R139. -/
def foldIn (add : Nat → Nat → Nat × Nat) (st : StateRows) (q w0 done x : Nat) : StateRows × Nat :=
  foldGo add q w0 done 16 0 st x 0

/-- finish of R139: none when no partial was folded. -/
def finishFold (add : Nat → Nat → Nat × Nat) (st : StateRows) (q w0 count : Nat) : Option Nat × Nat :=
  (List.range 16).foldl (fun (acc : Option Nat × Nat) lv =>
    if bit count lv then match acc.1 with
      | none => (some (stWord st q (w0 + lv)), acc.2)
      | some a => let (v, g) := add (stWord st q (w0 + lv)) a; (some v, acc.2 ||| g)
    else acc) (none, 0)

/-- FP32 addition by RNE. -/
def addRne : Nat → Nat → Nat × Nat := add32 0
/-- FP32 maximum (R107). -/
def maxOp (x y : Nat) : Nat × Nat := ((fp32.ofNum 0 0 ((fp32.decode x).max (fp32.decode y))).1, 0)
/-- FP32 division in a mode. -/
def div32 (mode x y : Nat) : Nat × Nat :=
  let (z, g) := divNum (fp32.decode x) (fp32.decode y)
  let (v, h) := fp32.ofNum mode 0 z
  (v, g ||| h)
/-- FP32 pattern of a natural number, by RNE. -/
def ofNat32 (n : Nat) : Nat := (fp32.ofNum 0 0 (.fin false n 0)).1

/-- A Chest write of a use: row, data, byte bits written, stage index, stamp code (none for state rows), HOLD, generator. -/
structure EWrite where
  row : Nat
  data : Bytes
  len : Nat           -- bytes written from byte 0
  stage : Nat
  code : Option Nat
  hold : Bool
  deriving DecidableEq, Repr, Inhabited

/-- What a use has made so far. -/
structure UseAcc where
  x : Grid32
  st : StateRows
  folds : List (Nat × Nat)        -- fold counts by slot
  incl : List (Nat × Nat)         -- included columns by slot
  stores : List StoreRow := []
  entries : List EWrite := []
  tiles : List BWrite := []
  sends : List (Nat × Nat × Nat × Bytes) := []   -- path, DIDX, tile row, packed row
  settle : List Nat := []
  mx : Option (Nat × List (Nat × List Nat)) := none   -- after QMX: its format, and each row's scale and elements
  flags : Nat := 0
  deriving Inhabited

/-- The value listed for a key, 0 for none. -/
def assoc (l : List (Nat × Nat)) (k : Nat) : Nat := match l.find? fun p => p.1 = k with
  | some p => p.2
  | none => 0
/-- Set the value listed for a key. -/
def assocSet (l : List (Nat × Nat)) (k v : Nat) : List (Nat × Nat) := (k, v) :: l.filter fun p => p.1 != k

/-- Bytes of a tile row written in a format: 32 elements at their R73 positions, the bytes beyond column 31 zero (R131). -/
def tileRowOut (fmt : Nat) (es : List Nat) : Bytes :=
  let w := if elemBits fmt = 6 then 8 else elemBits fmt
  let b := packElems w es
  b ++ zeros (128 - b.length)

/-- A row of FP32 values in a plain format. -/
def UseEnv.rowIn (e : UseEnv) (fmt r : Nat) (row : List Nat) : List Nat × Nat :=
  gather (row.zipIdx.map fun p => leave e.rmode e.nonsat 0x0 fmt (e.gen 1 r p.2) p.1)

/-- The 16-byte side entries of SIDEW (R140); isMax says that stack A keeps a maximum. A stack that holds no folded partial counts as +0,
and so does B where the statistic keeps none: DESIGN CHOICE (notes/assumptions/64.md). -/
def UseEnv.sideEntry (e : UseEnv) (a : UseAcc) (slot fin : Nat) (isMax : Bool) (r : Nat) : Bytes × Nat :=
  let q := e.h.sbase + 64 * slot + 2 * r
  let cnt := assoc a.folds slot
  let n := assoc a.incl slot
  let (fa, ga) := finishFold (if isMax then maxOp else addRne) a.st q 0 cnt
  let (fb, gb) := finishFold addRne a.st q 16 cnt
  let A := fa.getD 0
  let B := fb.getD 0
  let dA := div32 0 A (ofNat32 n)
  let dB := div32 0 B (ofNat32 n)
  let rsq (v : Nat) : Nat × Nat :=
    let (z, g) := fnNum 0x06 (fp32.decode v)
    let (w, h) := fp32.ofNum 0 0 z
    (w, g ||| h)
  let (v0, v1, g) := match fin with
    | 0 => (A, B, 0)
    | 1 => (dA.1, 0, dA.2)
    | 2 =>
      let s := add32 0 dB.1 e.h.eps
      let t := rsq s.1
      (0, t.1, dB.2 ||| s.2 ||| t.2)
    | _ =>
      let mu := dA.1
      let d := fma32 0 (if mu < 2 ^ 31 then mu + 2 ^ 31 else mu - 2 ^ 31) mu dB.1
      let s := add32 0 d.1 e.h.eps
      let t := rsq s.1
      (mu, t.1, dA.2 ||| dB.2 ||| d.2 ||| s.2 ||| t.2)
  (layout 16 [(0, 4, v0), (4, 4, v1), (8, 4, n), (12, 1, fin)], ga ||| gb ||| g)

/-- Minus infinity in FP32. -/
abbrev negInf32 : Nat := 0xFF800000
/-- The canonical NaN of FP32. -/
abbrev nan32 : Nat := 0x7FC00000

/-- floor of a finite number, as an integer. -/
def floorNum : Num → Int
  | .fin s m e =>
    if 0 ≤ e then (if s then -1 else 1) * (m * 2 ^ e.toNat : Int)
    else (if s then -(m : Int) else (m : Int)) / (2 ^ (-e).toNat : Int)
  | _ => 0
/-- ceil of a finite number, as an integer. -/
def ceilNum (x : Num) : Int := -(floorNum x.neg)
/-- An integer as an exact number. -/
def intNum (i : Int) : Num := .fin (i < 0) i.natAbs 0

/-- One element of P (R143): the score t, the running maximum mNew. -/
def omaxP (e : UseEnv) (fmt r c : Nat) (t mNew : Nat) : Nat × Nat :=
  if t = negInf32 then (0, 0)
  else
    let tn := fp32.decode t
    let fl := floorNum tn
    let (f, _) := Num.add 0 tn (intNum (-fl))
    let (ez, g) := fnNum 0x00 f
    let (ev, h) := fp32.ofNum 0 0 ez
    let k := max (-4000) (fl - floorNum (fp32.decode mNew))
    let p := (fp32.decode ev).scale k
    let (v, j) := convNum fmt e.nonsat e.rmode (e.gen 1 r c) p
    ((fp32.ofNum 0 0 (decodeElem fmt v)).1, g ||| h ||| j)

/-- Whether a score poisons its row (R145): it is a NaN or plus infinity. -/
def badScore (v : Nat) : Bool := match fp32.decode v with
  | .nan => true
  | .inf s => !s
  | _ => false

/-- OMAX on one row (R143, R145): the row of P, the state and the flags. A score that is read as, or that the SCL product makes, a NaN or
plus infinity poisons the row. A column that the causal mask hides takes no part in that: DESIGN CHOICE
(notes/assumptions/64.md). -/
def omaxRow (e : UseEnv) (w r : Nat) (st : StateRows) (xs : List Nat) : List Nat × StateRows × Nat :=
  let q := e.h.sbase + 64 * bits w 13 10 + 2 * r
  let scl := bits w 47 16
  let fmt := stFmt w
  let first := e.u == 0
  let mOld := if first then negInf32 else stWord st q 0
  let hides (c : Nat) : Bool := bit w 14 && decide (e.col c > e.row r)
  let ts := xs.zipIdx.map fun p => if hides p.2 then (negInf32, 0) else mul32 0 p.1 scl
  let g := ts.foldl (fun g t => g ||| t.2) 0
  let bad := (xs.zip ts).zipIdx.any fun p => !hides p.2 && (badScore p.1.1 || badScore p.1.2.1)
  let was := (fp32.decode mOld).isNan
  if bad || was then
    let st := stSet (stSet (stSet st q 0 nan32) q 1 nan32) q 2 nan32
    (xs.map fun _ => nan32, st, if was then 0 else (g ||| fInvalid))
  else
    let mx := ts.foldl (fun m t => Num.max m (fp32.decode t.1)) (.inf true)
    let mc : Num := match mx with
      | .fin .. => intNum (ceilNum mx)
      | x => x
    let mNewN := Num.max (fp32.decode mOld) mc
    let mNew := (fp32.ofNum 0 0 mNewN).1
    let mNew := if mNew = 0x80000000 then 0 else mNew
    let corr := if mNew = negInf32 then 0x3F800000 else if mOld = negInf32 then 0
      else (fp32.ofNum 0 0 (.fin false 1 (max (-4000) (floorNum (fp32.decode mOld) - floorNum (fp32.decode mNew))))).1
    let ps := ts.zipIdx.map fun p => omaxP e fmt r p.2 p.1.1 mNew
    let gp := ps.foldl (fun g t => g ||| t.2) 0
    let (sum, gs) := tree (carry (add32 0)) (0, 0) (ps.map fun p => (p.1, 0))
    let (st, gm) := (List.range 16).foldl (fun (acc : StateRows × Nat) lv =>
      if !first && bit e.u lv then
        let (v, h) := mul32 0 (stWord acc.1 q (4 + lv)) corr
        (stSet acc.1 q (4 + lv) v, acc.2 ||| h)
      else acc) (st, 0)
    let (st, gf) := foldIn addRne st q 4 e.u sum
    let st := stSet (stSet st q 0 mNew) q 1 corr
    let (st, gl) := if e.last then
        let (l, h) := finishFold addRne st q 4 (e.h.nuse + 1)
        (stSet st q 2 (l.getD 0), h)
      else (st, 0)
    (ps.map (·.1), st, g ||| gp ||| gs ||| gm ||| gf ||| gl)

/-- f(x) for an ACT function code (R127, R128): the value rounded to FP32, RCP and SQRT in RMODE. -/
def actFn (m func v : Nat) (post : Bool) : Nat × Nat :=
  if func = 0x10 then maxOp v 0
  else
    let (z, g) := fnNum func (fp32.decode v)
    let (w, h) := fp32.ofNum (if fnInRmode func && !post then m else 0) 0 z
    (w, g ||| h)

/-- The operand of SCALE and BIAS (R128). -/
def UseEnv.operand (e : UseEnv) (w r c : Nat) : Nat :=
  match bits w 11 10 with
  | 0 => bits w 47 16
  | 1 => e.aux 0x0 (bits w 12 12) r 0
  | _ => e.aux 0x0 (bits w 12 12) 0 c

/-- A BF16 field as FP32. -/
def bf32 (v : Nat) : Nat := v * 65536

/-- The elementwise kinds: one element, before it is rounded to the stated format (R127, R128, R130). -/
def UseEnv.elem (e : UseEnv) (i w r c x : Nat) : Nat × Nat :=
  let k := stKind w
  if k = kScale then mul32 e.m x (e.operand w r c)
  else if k = kBias then add32 e.m x (e.operand w r c)
  else if k = kResid then
    let fmt := bits w 15 12
    let src := bits w 11 10
    let y := if src = 2 then decodeElem fmt (unpackElem (elemBits fmt) (e.resid i r) c) else decodeElem fmt (e.aux fmt src r c)
    let (z, g) := Num.add e.m (fp32.decode x) y
    let (v, h) := fp32.ofNum e.m 0 z
    (v, g ||| h)
  else if k = kAct then
    let func := bits w 14 10
    if bit w 15 then
      let (v, g) := actFn e.m func (e.aux 0x0 (bits w 16 16) r c) true
      let (p, h) := mul32 e.m v x
      (p, g ||| h)
    else actFn e.m func x false
  else if k = kClamp then
    ((fp32.ofNum 0 0 (((fp32.decode x).max (fp32.decode (bf32 (bits w 25 10)))).min (fp32.decode (bf32 (bits w 41 26))))).1, 0)
  else if k = kDrop then
    if e.gen 2 r c / 65536 < bits w 25 10 then mul32 e.m x (bf32 (bits w 41 26)) else (0, 0)
  else if k = kSidea then
    let (v0, v1) := e.side i r
    match bits w 30 29 with
    | 0 => mul32 e.m x v0
    | 1 => mul32 e.m x v1
    | _ =>
      let (d, g) := add32 e.m x (if v0 < 2 ^ 31 then v0 + 2 ^ 31 else v0 - 2 ^ 31)
      let (p, h) := mul32 e.m d v1
      (p, g ||| h)
  else (x, 0)

/-- RSTAT on a tile (R139). -/
def UseEnv.rstat (e : UseEnv) (w : Nat) (a : UseAcc) : UseAcc :=
  let slot := bits w 15 12
  let stat := bits w 11 10
  let cols := below 32 fun c => e.col c < bits w 47 16
  let folds := if e.u = 0 then assocSet a.folds slot 0 else a.folds
  let incl := if e.u = 0 then assocSet a.incl slot 0 else a.incl
  if cols = [] then { a with folds := folds, incl := incl }
  else
    let done := assoc folds slot
    let (st, g) := a.x.zipIdx.foldl (fun (acc : StateRows × Nat) p =>
      let q := e.h.sbase + 64 * slot + 2 * p.2
      let vs := cols.map fun c => p.1.getD c 0
      let (st, g) := acc
      let (st, g) := if stat = 0 ∨ stat = 3 then
          let (v, h) := tree (carry addRne) (0, 0) (vs.map fun x => (x, 0))
          let (st, h') := foldIn addRne st q 0 done v
          (st, g ||| h ||| h')
        else (st, g)
      let (st, g) := if stat = 2 then
          let v := vs.foldl (fun m x => (maxOp m x).1) (vs.headD 0)
          let (st, h') := foldIn maxOp st q 0 done v
          (st, g ||| h')
        else (st, g)
      if stat = 1 ∨ stat = 3 then
        let (v, h) := tree (carry addRne) (0, 0) (vs.map fun x => mul32 0 x x)
        let (st, h') := foldIn addRne st q 16 done v
        (st, g ||| h ||| h')
      else (st, g)) (a.st, 0)
    { a with st := st, folds := assocSet folds slot (done + 1), incl := assocSet incl slot (assoc incl slot + cols.length),
             flags := a.flags ||| g }

/-- Whether a statistic of a slot is a maximum. -/
def slotIsMax (ws : List Nat) (slot : Nat) : Bool :=
  ws.any fun w => stKind w == kRstat && bits w 15 12 == slot && bits w 11 10 == 2

/-- Run one epilogue stage on the tile (R127 to R145); i is its index in the list, done whether ONRM has passed before the
last use. -/
def UseEnv.stage (e : UseEnv) (ws : List Nat) (afterOnrm : Bool) (a : UseAcc) (i w : Nat) : UseAcc :=
  let k := stKind w
  let fmt := stFmt w
  if k = kRstat then e.rstat w a
  else if k = kSidew then
    if e.last then
      let slot := bits w 13 10
      let ents := (List.range 32).map (e.sideEntry a slot (bits w 16 14) (slotIsMax ws slot))
      let rows := (List.range 8).map fun j =>
        ({ row := bits w 44 31 + j, data := ((ents.drop (4 * j)).take 4).flatMap (·.1), len := 64, stage := i,
           code := some (bits w 29 26), hold := bit w 30 } : EWrite)
      { a with entries := a.entries ++ rows, flags := ents.foldl (fun g p => g ||| p.2) a.flags,
               settle := if bit w 17 then a.settle ++ [bits w 25 18] else a.settle }
    else a
  else if k = kOmax then
    let (xs, st, g) := a.x.zipIdx.foldl (fun (acc : Grid32 × StateRows × Nat) p =>
      let (row, st, g) := omaxRow e w p.2 acc.2.1 p.1
      (acc.1 ++ [row], st, acc.2.2 ||| g)) ([], a.st, 0)
    { a with x := xs, st := st, flags := a.flags ||| g, mx := none }
  else if k = kOnrm then
    if e.last then
      let (x, g) := mapGrid (fun r c x =>
        let l := stWord a.st (bits w 23 10 + 2 * r) 2
        if l = 0 then (0, 0)
        else
          let (v, g) := div32 0 x l
          let (s, h) := e.stated fmt r c v
          (s, g ||| h)) a.x
      { a with x := x, flags := a.flags ||| g, mx := none }
    else a
  else if k = kQmx then
    let rows := a.x.zipIdx.map fun p =>
      let (sc, es, g) := convMx fmt e.rmode (p.1.map fp32.decode) (p.1.zipIdx.map fun q => e.gen 1 p.2 q.2)
      ((es.map fun v => (fp32.ofNum 0 0 (mxNum fmt v sc)).1, (sc, es)), g)
    { a with x := rows.map (·.1.1), flags := rows.foldl (fun g p => g ||| p.2) a.flags, mx := some (fmt, rows.map (·.1.2)) }
  else if (k = kStore ∨ k = kSend) ∧ afterOnrm ∧ !e.last then a
  else
    let (x, g) := mapGrid (fun r c x =>
      let (v, g) := e.elem i w r c x
      let (s, h) := e.stated fmt r c v
      (s, g ||| h)) a.x
    let a := { a with x := x, flags := a.flags ||| g, mx := none }
    if k = kStore then
      let rows := x.zipIdx.map fun p => (p.2, (e.rowIn fmt p.2 p.1).1)
      if bit w 10 then
        { a with tiles := a.tiles ++ rows.flatMap fun p =>
            (tileRowOut fmt p.2).zipIdx.map fun q => (4096 * bits w 13 11 + 128 * p.1 + q.2, 0xFF, q.1) }
      else
        { a with stores := a.stores ++ rows.map fun p =>
            { stage := i, tileRow := p.1, agen := bits w 15 14, code := bits w 19 16, hold := bit w 20, data := packElems (elemBits fmt) p.2 } }
    else if k = kSend then
      { a with sends := a.sends ++ x.zipIdx.map fun p =>
          (bits w 11 10, bits w 23 12, p.2, packElems (elemBits fmt) (e.rowIn fmt p.2 p.1).1) }
    else a

/-- Run the epilogue stages in list order. -/
def UseEnv.stages (e : UseEnv) (ws : List Nat) : List (Nat × Nat) → Bool → UseAcc → UseAcc
  | [], _, a => a
  | (i, w) :: r, after, a => e.stages ws r (after || stKind w == kOnrm) (e.stage ws after a i w)

/-- The write of DT (R131): byte writes, sidecar writes and flags. Values that a QMX stage of the same format has just made pass
exactly, scale and elements. -/
def UseEnv.dtOut (e : UseEnv) (ws : List Nat) (dt : Nat) (a : UseAcc) : List BWrite × List (Nat × Byte) × Nat :=
  let fmt := if hasKind ws kOnrm && !e.last then 0x0 else e.h.ofmt
  let made := match a.mx with
    | some (f, rows) => if f = fmt then rows else []
    | none => []
  a.x.zipIdx.foldl (fun acc p =>
    let (es, sc, g) := if isMx fmt then match made[p.2]? with
      | some (sc, es) => (es, some sc, 0)
      | none =>
        let (sc, es, g) := convMx fmt e.rmode (p.1.map fp32.decode) (p.1.zipIdx.map fun q => e.gen 1 p.2 q.2)
        (es, some sc, g)
      else let (es, g) := e.rowIn fmt p.2 p.1; (es, none, g)
    let bw := (tileRowOut fmt es).zipIdx.map fun q => (4096 * dt + 128 * p.2 + q.2, (0xFF : Byte), q.1)
    let side := match sc with
      | some v => (List.range 8).map fun j => (256 * dt + 8 * p.2 + j, BitVec.ofNat 8 (if j = 0 then v else 0x7F))
      | none => []
    (acc.1 ++ bw, acc.2.1 ++ side, acc.2.2 ||| g)) ([], [], 0)

/-- State rows that a list's epilogue stages touch (R136, R143, R144). -/
def UseEnv.stateRows (e : UseEnv) (ws : List Nat) : List Nat :=
  (ws.flatMap fun w =>
    if stKind w = kRstat then (List.range 64).map fun j => e.h.sbase + 64 * bits w 15 12 + j
    else if stKind w = kSidew ∧ e.last then (List.range 64).map fun j => e.h.sbase + 64 * bits w 13 10 + j
    else if stKind w = kOmax then (List.range 64).map fun j => e.h.sbase + 64 * bits w 13 10 + j
    else if stKind w = kOnrm ∧ e.last then (List.range 64).map fun j => bits w 23 10 + j
    else []).foldl (fun acc q => insertUp q acc) []

/-! ## Prologue (R133) -/

/-- Run the prologue stages on one row of the A tile: columns c0 on. -/
def UseEnv.proRow (e : UseEnv) (ws : List Nat) (c0 r : Nat) (xs : List Nat) : List Nat × Nat :=
  ws.zipIdx.foldl (fun (acc : List Nat × Nat) w =>
    let (ys, g) := gather (acc.1.zipIdx.map fun p =>
      let (v, g) := e.elem w.2 w.1 r (c0 + p.2) p.1
      let (s, h) := e.stated (stFmt w.1) r (c0 + p.2) v
      (s, g ||| h))
    (ys, acc.2 ||| g)) (xs, 0)

/-- The whole prologue over the A tile (R133): byte writes, sidecar writes, flags. rows are the tile's rows with their
sidecar bytes. -/
def UseEnv.prologue (e : UseEnv) (ws : List Nat) (o : MmaOp) (rows : List ORow) : List BWrite × List (Nat × Byte) × Nat :=
  let c0 := 32 * o.akoff
  rows.zipIdx.foldl (fun acc p =>
    let r := p.2
    let raw := rowElems o.afmt p.1.1 c0 o.k
    let (xs, g0) := gather (raw.zipIdx.map fun q =>
      let x := if isMx o.afmt then mxNum o.afmt q.1 (byte p.1.2 (o.akoff + q.2 / 32)) else decodeElem o.afmt q.1
      enter 0 e.rmode (e.gen 1 r (c0 + q.2)) o.afmt (q.1, x))
    let (ys, g1) := e.proRow ws c0 r xs
    let g := g0 ||| g1
    let at_ (k v : Nat) : List BWrite := writePieces v (elemPieces true o.at_ o.afmt (r * tileK o.afmt + c0 + k))
    if isMx o.afmt then
      let blk := (List.range (o.k / 32)).map fun j =>
        let (sc, es, h) := convMx o.afmt e.rmode (((ys.drop (32 * j)).take 32).map fp32.decode)
          ((List.range 32).map fun k => e.gen 1 r (c0 + 32 * j + k))
        (es.zipIdx.flatMap fun (q : Nat × Nat) => at_ (32 * j + q.2) q.1, (256 * o.at_ + 8 * r + o.akoff + j, BitVec.ofNat 8 sc), h)
      (acc.1 ++ blk.flatMap (·.1), acc.2.1 ++ blk.map fun b => b.2.1, blk.foldl (fun g b => g ||| b.2.2) (acc.2.2 ||| g))
    else
      let out := ys.zipIdx.map fun (q : Nat × Nat) =>
        let (v, h) := leave e.rmode e.nonsat 0x0 o.afmt (e.gen 1 r (c0 + q.2)) q.1
        (at_ q.2 v, h)
      (acc.1 ++ out.flatMap (·.1), acc.2.1, out.foldl (fun g b => g ||| b.2) (acc.2.2 ||| g))) ([], [], 0)

/-! ## Time -/

/-- Path-cell latency of a stage kind (R127). -/
def cellTime (k : Nat) : Nat := match k with
  | 0x01 => 2
  | 0x02 => 3
  | 0x03 => 3
  | 0x04 => 4
  | 0x05 => 8
  | 0x06 => 2
  | 0x07 => 4
  | 0x08 => 6
  | 0x09 => 4
  | 0x0A => 4
  | 0x0B => 2
  | 0x0C => 2
  | 0x0D => 16
  | 0x0F => 8
  | _ => 0

/-- Whether a stage touches the Chest (R132). -/
def touchesChest (w : Nat) : Bool :=
  let k := stKind w
  (k == kResid && bits w 11 10 == 2) || (k == kStore && !bit w 10) || k == kRstat || k == kSidew || k == kOmax || k == kOnrm

/-- The epilogue latency E of a list on the path, its slot wait apart (R132). -/
def epiLatency (ws : List Nat) (last : Bool) : Nat :=
  let es := epiStages ws
  35 + (es.map fun w => cellTime (stKind w)).sum + 6 * (es.filter touchesChest).length
    + (if last && hasKind es kSidew then 24 else 0) + (if last && hasKind es kOmax then 8 else 0)

/-- Vector stages that a kind takes when translated, by pass (R127, R135). -/
def vecPlaces (k : Nat) : List (List Nat) := match k with
  | 0x01 => [[1]]
  | 0x02 => [[2]]
  | 0x03 => [[2]]
  | 0x04 => [[2]]
  | 0x05 => [[4]]
  | 0x06 => [[5]]
  | 0x07 => [[1, 2]]
  | 0x0D => [[1, 5, 6], [1, 2, 4, 6]]
  | 0x0F => [[4]]
  | 0x10 => [[1, 2]]
  | _ => [[6]]

/-- Whether a stage reads the Chest, and whether it writes it, as a pass of the translation (R135): RESID reads; STORE writes; RSTAT,
OMAX, SIDEW and ONRM read and write the state or the entries, the last two at the last use. -/
def chestUse (last : Bool) (w : Nat) : Bool × Bool :=
  let k := stKind w
  (touchesChest w && (k == kResid || k == kRstat || k == kOmax || (last && (k == kSidew || k == kOnrm))),
   touchesChest w && (k == kStore || k == kRstat || k == kOmax || (last && k == kSidew)))

/-- A pass of the translation: the slots used in each vector stage, the last stage used, and whether it reads or writes the Chest. -/
structure Pass where
  slots : List Nat := List.replicate 6 0
  lastS : Nat := 0
  reads : Bool := false
  writes : Bool := false
  deriving Inhabited

/-- Whether a pass takes a stage at the given vector stages (R135). -/
def Pass.takes (p : Pass) (pl : List Nat) : Bool :=
  decide (p.lastS ≤ pl.headD 1) && !pl.any fun q => decide (p.slots.getD (q - 1) 0 + 1 > 8)
/-- Place a stage in a pass. -/
def Pass.place (p : Pass) (pl : List Nat) (use : Bool × Bool) : Pass :=
  { slots := pl.foldl (fun c q => c.modify (q - 1) (· + 1)) p.slots, lastS := pl.getLastD 1, reads := p.reads || use.1,
    writes := p.writes || use.2 }

/-- Place a stage in the present pass, the list's head, or in a new one; the places of its further passes each start one (R135). The
first pass of OMAX only reads. -/
def placeStage (last : Bool) (acc : List Pass) (w : Nat) : List Pass :=
  let pls := vecPlaces (stKind w)
  let use := chestUse last w
  let p0 := pls.headD []
  let u0 := if pls.length = 1 then use else (use.1, false)
  let acc := match acc with
    | [] => [({} : Pass).place p0 u0]
    | p :: r => if p.takes p0 then p.place p0 u0 :: r else ({} : Pass).place p0 u0 :: p :: r
  (pls.drop 1).foldl (fun a pl => ({} : Pass).place pl use :: a) acc

/-- The passes of the translation, in order (R135). -/
def passList (ws : List Nat) (last : Bool) : List Pass := match (ws.foldl (placeStage last) []).reverse with
  | [] => [{}]
  | l => l
/-- Slots used in each vector stage, by pass. -/
def passes (ws : List Nat) : List (List Nat) := (passList ws true).map (·.slots)

/-- Latency of a pass over the given slot counts (R119). -/
def passLatency (ks : List Nat) : Nat := 4 + ((ks.zip [3, 4, 4, 6, 3, 4]).map fun p => max 1 p.1 * p.2).sum

/-- The time of the translated epilogue, its slot waits apart: Λ + 31 a pass, with the Chest terms of R119 (R135). -/
def transLatency (ws : List Nat) (last : Bool) : Nat :=
  ((passList (epiStages ws) last).map fun p => passLatency p.slots + 31 + (if p.reads then 6 else 0) + if p.writes then 6 else 0).sum

/-- The time of a program-form epilogue from its start (R119, R120, R134): 32 vectors, one interval apart. -/
def progTime (ks : List Nat) : Nat := 31 * ks.foldl max 1 + passLatency ks

/-- Whether the residue check covers some stage of a list (R59, R149): its adds and multiplies. -/
def listChecked (ws : List Nat) : Bool := ws.any fun w =>
  let k := stKind w
  k == kScale || k == kBias || k == kResid || (k == kAct && bit w 15) || k == kDrop || k == kSidea || k == kOmax
    || (k == kRstat && bits w 11 10 != 2) || k == kSidew

/-- The time of a prologue from its start, its slot waits apart (R133). -/
def proLatency (ws : List Nat) (k : Nat) : Nat :=
  let ps := proStages ws
  let v := 32 * ((k + 31) / 32)
  let ks := ((passes ps).headD []).foldl max 1
  passLatency ((passes ps).headD []) + (v - 1) * ks + (if hasKind ps kSidea then 6 else 0)

end Sys2Proof.Machine
end

