-- ==== Sys2Proof/Machine/Operands.lean ====
section
/-! DEFINITION. Operand forms of the orders (R70 to R91): the fields of each order word, the tiles that an order reads and
writes (R66), how a move packs tile bytes into Chest rows (R73, R81), and the fields of a collective descriptor. -/
namespace Sys2Proof.Machine

/-- Opcode of an order word (R70). -/
def orderOp (w : Nat) : Nat := bits w 63 56
/-- SYNC flag (R70). -/
def orderSync (w : Nat) : Bool := bit w 55

/-- Whether a rounding code is reserved (R40). -/
def rmodeBad (m : Nat) : Bool := m == 5 || m == 6

/-- Fields of VEC and VEC.PROG (R79). -/
structure VecOrder where
  desc : Nat
  src1 : Nat
  src2 : Nat
  dst : Nat
  rmode : Nat
  nonsat : Bool
  deriving DecidableEq, Repr, Inhabited
/-- The fields of a VEC or VEC.PROG order word. -/
def vecOrder (w : Nat) : VecOrder :=
  { desc := bits w 47 40, src1 := bits w 39 37, src2 := bits w 36 34, dst := bits w 33 31, rmode := bits w 50 48,
    nonsat := bit w 51 }

/-- Fields of EPI and EPI.PROG (R80). -/
structure EpiOrder where
  list : Nat
  aux1 : Nat
  aux2 : Nat
  rmode : Nat
  nonsat : Bool
  deriving DecidableEq, Repr, Inhabited
/-- The fields of an EPI or EPI.PROG order word. -/
def epiOrder (w : Nat) : EpiOrder :=
  { list := bits w 47 40, aux1 := bits w 39 37, aux2 := bits w 36 34, rmode := bits w 50 48, nonsat := bit w 51 }

/-- Fields of MOV.LD and MOV.ST (R81). -/
structure MovOrder where
  tile : Nat
  agen : Nat
  fmt : Nat
  rows : Nat       -- tile rows moved
  stamp : Nat
  hold : Bool
  scale : Bool
  release : Bool
  deriving DecidableEq, Repr, Inhabited
/-- The fields of a MOV.LD or MOV.ST order word. -/
def movOrder (w : Nat) : MovOrder :=
  { tile := bits w 47 45, agen := bits w 44 43, fmt := bits w 42 39, rows := bits w 38 34 + 1, stamp := bits w 33 30,
    hold := bit w 48, scale := bit w 49, release := bit w 50 }

/-- The tiles of a move: the pair for FP64 (R81). -/
def MovOrder.tiles (o : MovOrder) : List Nat := if o.fmt = 0xE then [o.tile, o.tile + 1] else [o.tile]
/-- Chest rows of the tile data (R81, R162). -/
def MovOrder.dataRows (o : MovOrder) : Nat :=
  if o.fmt = 0xE then 4 * o.rows else if elemBits o.fmt = 6 then 3 * o.rows / 2 else 2 * o.rows
/-- Chest rows of a move, sidecars included (R81, R162). -/
def MovOrder.chestRows (o : MovOrder) : Nat := o.dataRows + if o.scale then 4 * o.tiles.length else 0

/-- Interleave the two tiles of an FP64 pair into 8-byte elements (R81). -/
def weave : Bytes → Bytes → Nat → Bytes
  | _, _, 0 => []
  | lo, hi, n + 1 => lo.take 4 ++ hi.take 4 ++ weave (lo.drop 4) (hi.drop 4) n
/-- Separate the 8-byte elements of an FP64 pair into the two tiles. -/
def unweave : Bytes → Nat → Bytes × Bytes
  | _, 0 => ([], [])
  | bs, n + 1 => let (a, b) := unweave (bs.drop 8) n; (bs.take 4 ++ a, (bs.drop 4).take 4 ++ b)

/-- The Chest bytes of a tile's rows (R39, R73, R81): t0 and t1 are the tiles' bytes. -/
def MovOrder.pack (o : MovOrder) (t0 t1 : Bytes) : Bytes :=
  if o.fmt = 0xE then weave t0 t1 (32 * o.rows)
  else if elemBits o.fmt = 6 then packElems 6 ((t0.take (128 * o.rows)).map fun b => b.toNat % 64)
  else t0.take (128 * o.rows)
/-- The tile bytes of Chest bytes: those of the first tile and of the second. -/
def MovOrder.unpack (o : MovOrder) (bs : Bytes) : Bytes × Bytes :=
  if o.fmt = 0xE then unweave bs (32 * o.rows)
  else if elemBits o.fmt = 6 then ((List.range (128 * o.rows)).map fun i => BitVec.ofNat 8 (unpackElem 6 bs i), [])
  else (bs.take (128 * o.rows), [])

/-- Tile of MOV.ZERO, and DST and SRC of MOV.TT (R82). -/
def movDst (w : Nat) : Nat := bits w 47 45
def movSrc (w : Nat) : Nat := bits w 44 42
/-- SCALE of MOV.ZERO. -/
def movScale (w : Nat) : Bool := bit w 49

/-- Fields of SEND (R83). -/
structure SendOrder where
  dev : Nat
  unit : Nat
  tag : Nat
  nw : Nat
  tile : Nat
  row : Nat
  colq : Nat
  deriving DecidableEq, Repr, Inhabited
/-- The fields of a SEND order word. -/
def sendOrder (w : Nat) : SendOrder :=
  { dev := bits w 47 34, unit := bits w 33 21, tag := bits w 20 15, nw := bits w 14 13, tile := bits w 12 10,
    row := bits w 9 5, colq := bits w 4 2 }

/-- Fields of RECV (R87). -/
structure RecvOrder where
  queue : Nat
  tile : Nat
  row : Nat
  colq : Nat
  hdr : Bool
  deriving DecidableEq, Repr, Inhabited
/-- The fields of a RECV order word. -/
def recvOrder (w : Nat) : RecvOrder :=
  { queue := bits w 47 44, tile := bits w 43 41, row := bits w 40 36, colq := bits w 35 33, hdr := bit w 48 }

/-- The 64-bit header of a queue entry (R84). -/
def Msg.header (m : Msg) : Nat := m.sdev + 2 ^ 14 * m.sunit + 2 ^ 27 * m.tag + 2 ^ 33 * m.nw + 2 ^ 35 * m.qinc
/-- The bytes that a RECV writes from word 4 × COLQ on (R87). -/
def recvBytes (o : RecvOrder) (m : Msg) : Bytes :=
  ((List.range 4).flatMap fun i => leBytes 4 (m.words.getD i 0).toNat) ++ if o.hdr then leBytes 8 m.header ++ zeros 8 else []

/-- COUNT and END of LOOP (R90). -/
def loopCount (w : Nat) : Nat := bits w 47 32
def loopEnd (w : Nat) : Nat := bits w 31 21
/-- LINE and DEV of the bell orders (R91). -/
def bellLine (w : Nat) : Nat := bits w 4 0
def bellDev (w : Nat) : Nat := bits w 47 34

/-! ## Tiles of an order (R66, R76, R99, R131) -/

/-- Tiles of an operand in a format: the pair for FP64. -/
def tilesOf (fmt t : Nat) : List Nat := if fmt = 0xE then [t, t + 1] else [t]

/-- Tiles that an MMA reads as A, B and C. -/
def MmaOp.abc (o : MmaOp) : List Nat := [o.at_, o.bt] ++ if o.czero then [] else tilesOf o.accFmt o.ct
/-- Tiles that an MMA writes as D. -/
def MmaOp.dTiles (o : MmaOp) : List Nat := tilesOf o.accFmt o.dt
/-- The XT tiles of a stage list. -/
def xtTiles (ws : List Nat) : List Nat :=
  ws.filterMap fun w => if stKind w == kStore && bit w 10 && !stPro w then some (bits w 13 11) else none

/-- Tiles that a vector order reads and writes. -/
def vecTiles (o : VecOrder) (d : VDesc) : List Nat × List Nat :=
  ((if d.loc1 = 1 then tilesOf d.fmt1 o.src1 else []) ++ (if d.loc2 = 1 then tilesOf d.fmt2 o.src2 else []),
   if d.loco = 1 then tilesOf d.ofmt o.dst else [])

/-! ## Collective descriptors (R290, R291) -/

/-- A collective descriptor's fields; n is the group size. -/
structure CollD where
  gen : Nat
  kind : Nat
  rop : Nat
  ifmt : Nat
  ofmt : Nat
  rmode : Nat
  nonsat : Bool
  strict : Bool
  cls : Bool
  src : Nat
  trig : Nat
  tline : Nat
  dline : Nat
  doneb : Bool
  crec : Bool
  fud : Bool
  stamp : Nat
  aline : Nat
  rsv : Bool
  n : Nat
  rank : Nat
  groupAt : Nat
  saddr : Nat
  count : Nat
  work : Nat
  sig : Nat
  tid : Nat
  rpitch : Nat
  daddr : Nat
  cnt : List Nat
  mstr : List Int
  daddr1 : Nat
  ptab : Nat
  stage : Nat
  deriving DecidableEq, Repr, Inhabited

/-- Read a descriptor (R290, R291). -/
def collD (b : Bytes) : CollD :=
  let w := fld b 0 8
  { gen := bits w 3 0, kind := bits w 7 4, rop := bits w 9 8, ifmt := bits w 13 10, ofmt := bits w 17 14, rmode := bits w 20 18,
    nonsat := bit w 21, strict := bit w 22, cls := bit w 23, src := bits w 25 24, trig := bits w 27 26, tline := bits w 32 28,
    dline := bits w 37 33, doneb := bit w 38, crec := bit w 39, fud := bit w 40, stamp := bits w 44 41, aline := bits w 49 45,
    rsv := bits w 63 50 != 0 || bits (fld b 8 8) 63 28 != 0 || bits (fld b 32 8) 63 40 != 0 || fld b 78 2 != 0 || fld b 86 2 != 0
      || fld b 94 2 != 0 || !zeroAt b 120 8,
    n := bits (fld b 8 8) 13 0 + 1, rank := bits (fld b 8 8) 27 14, groupAt := fld b 16 8, saddr := fld b 24 8,
    count := bits (fld b 32 8) 39 0, work := fld b 40 8, sig := fld b 48 8, tid := fld b 56 4, rpitch := fld b 60 4,
    daddr := fld b 64 8, cnt := (List.range 3).map fun d => fld b (72 + 8 * d) 2 + 1,
    mstr := (List.range 3).map fun d => sgn 32 (fld b (74 + 8 * d) 4), daddr1 := fld b 96 8, ptab := fld b 104 8,
    stage := fld b 112 8 }

end Sys2Proof.Machine
end

