-- ==== Sys2Proof/Machine/Engine.lean ====
section
/-! DEFINITION. The engines of a Stall (chapters 3 to 5): how an issued order starts, reads, computes and writes. A job is an
order from its issue to its completion. Starts and progress are made by Dev.kick, which every step that can enable one runs:
an issue, a completion, a grant of the paired Chest and each cycle. -/
namespace Sys2Proof.Machine

/-! ## Jobs -/

/-- The job with a ticket. -/
def Dev.job (s : Dev) (n ticket : Nat) : Option Job := (s.stall n).jobs.find? fun j => j.ticket = ticket
/-- Change the job with a ticket. -/
def Dev.modJob (s : Dev) (n ticket : Nat) (f : Job → Job) : Dev :=
  s.modStall n fun st => { st with jobs := modFirst (fun j => j.ticket = ticket) f st.jobs }
/-- A job leaves its engine. -/
def Dev.dropJob (s : Dev) (n ticket : Nat) : Dev :=
  s.modStall n fun st => { st with jobs := dropFirst (fun j => j.ticket = ticket) st.jobs }
/-- The context that a Stall works for, as its entry: the default entry for none. -/
def Dev.stallCfg (s : Dev) (n : Nat) : Ctx := match s.stallCtx n with
  | some c => s.ctx c
  | none => {}
/-- A new unit of access for a job at the paired Chest (R164). -/
def Dev.jobUnit (s : Dev) (n : Nat) (j : Job) (stamped : Bool) (code : Nat) (hold release : Bool) (left : Nat) : Nat × Dev :=
  s.newUnit n { stamped := stamped, code := code, hold := hold, release := release, left := left, ctx := s.stallCtx n, pc := j.pc }
/-- More accesses of a unit are outstanding. -/
def Dev.growUnit (s : Dev) (n unit more : Nat) : Dev :=
  s.iff (more != 0) fun s => s.modChest n fun x => { x with units := x.units.mod unit fun u => { u with left := u.left + more } }
/-- Ask a port of the paired Chest for a row: k numbers the request. -/
def Dev.jobRead (s : Dev) (n : Nat) (j : Job) (port unit row k since : Nat) : Dev :=
  s.pushReq n port { row := row, unit := unit, sink := .job n j.ticket k, since := since }
/-- Ask a port of the paired Chest to write masked bits of a row. -/
def Dev.jobWrite (s : Dev) (n : Nat) (j : Job) (port unit row : Nat) (data mask : Row) (since : Nat) : Dev :=
  s.pushReq n port { row := row, unit := unit, isWrite := true, data := data, mask := mask, sink := .job n j.ticket 0,
                     since := since }
/-- Rows that a job has read under request number k, in the order of their grants. -/
def Job.gotAt (j : Job) (k : Nat) : List Row := (j.got.filter fun p => p.1 == k).map (·.2)
/-- Write what a job has staged for the tile registers and sidecars. -/
def Dev.commitTiles (s : Dev) (n : Nat) (j : Job) : Dev :=
  { s with tiles := memMasks 0 (32768 * n) s.tiles j.outTiles,
           sidecars := memPuts 0 s.sidecars (j.outSide.map fun p => (2048 * n + p.1, p.2)) }

/-! ## Interlocks (R66, R77) -/

/-- Whether two lists share an element. -/
def meets (a b : List Nat) : Bool := a.any fun x => b.contains x

/-- Whether an MMA takes the accumulators of an earlier one that is draining (R77): the previous MMA, without an epilogue,
whose D tile is this one's C tile in a format of the same width. -/
def forwards (i j : Job) : Bool :=
  i.op == .mma && j.op == .mma && i.epi.isNone && i.phase == .running &&
    (let a := mmaOp i.word.toNat
     let b := mmaOp j.word.toNat
     !b.czero && b.ct == a.dt && a.wide == b.wide)

/-- Whether job j waits on an earlier job i (R66): prev says that i is the MMA before j. -/
def Job.waitsOn (j i : Job) (now : Nat) (prev : Bool) : Bool :=
  let irds := i.rd ++ match i.rdFree with
    | some t => if t ≤ now then [] else i.rdAbc
    | none => i.rdAbc
  let jr := j.rd ++ j.rdAbc
  let (jr, jw) := if prev && forwards i j then
      let o := mmaOp j.word.toNat
      (j.rd ++ [o.at_, o.bt], j.wr.filter fun t => !i.wr.contains t)
    else (jr, j.wr)
  meets i.wr jr || meets i.wr jw || meets irds j.wr

/-- Whether a job waits on an interlock. -/
def Stall.blocked (st : Stall) (now : Nat) (j : Job) : Bool :=
  let before := st.jobs.filter fun i => i.ticket < j.ticket
  let prev := ((before.filter fun i => i.op == .mma).getLast?.map (·.ticket))
  before.any fun i => !(i.link == j.ticket && i.op == .epiPasses) && j.waitsOn i now (prev == some i.ticket)

/-! ## Matrix products (R75 to R78, R144) -/

/-- The epilogue's stages: of a stage list, in order with their numbers (R126). -/
def PendEpi.words (e : PendEpi) : List Nat := e.stages.map BitVec.toNat
/-- The generator, rounding and coordinates of a use (R124). -/
def Dev.useEnv (s : Dev) (n : Nat) (j : Job) (e : PendEpi) (resid : Nat → Nat → Bytes) (side : Nat → Nat → Nat × Nat) : UseEnv :=
  let c := s.stallCfg n
  { h := ehdr e.header, line := e.line, u := j.useU, b := j.useB, rmode := rmodeOf e.rmode c.rmode, nonsat := e.nonsat,
    seed := c.seed, step := j.step,
    aux := fun fmt k r col => rowElem fmt (s.tileAt n (if k = 0 then e.aux1 else e.aux2) (128 * r) 128) col,
    resid := resid, side := side }

/-- Element (r, c) of a tile in an accumulator format (R73). -/
def Dev.accElem (s : Dev) (n t fmt r c : Nat) : Nat :=
  readPieces (fun a => look 0 s.tiles (32768 * n + a)) (elemPieces true t fmt (32 * r + c))

/-- What an MMA's array reads as C (R75, R77): +0, the accumulators that an earlier MMA forwards, or the C tile. -/
def Dev.readC (s : Dev) (n : Nat) (j : Job) (o : MmaOp) : List Nat :=
  let tile := (List.range 1024).map fun k => s.accElem n o.ct o.accFmt (k / 32) (k % 32)
  let prev := ((s.stall n).jobs.filter fun i => i.op == .mma && i.ticket < j.ticket).getLast?
  if o.czero then List.replicate 1024 0
  else match prev with
    | some i => if forwards i j then i.acc else tile
    | none => tile

/-- The OSCL stage of an MMA's epilogue. -/
def Job.oscl (j : Job) : Option Nat := j.epi.bind fun e => osclStage e.words
/-- Whether an MMA reads an OSCL state area: at every use but the first, which reads C as +0 (R133, R144). -/
def Job.scales (j : Job) : Bool := j.op == .mma && j.oscl.isSome && j.useU != 0

/-- The accumulators that an MMA starts from, with their flags: what the array read as C, each row multiplied by its corr under OSCL
(R133, R144). rows gives the state rows that the epilogue port has read. -/
def Job.startAcc (j : Job) (cs : List Nat) (rows : List Row) : List Nat × Nat := match j.oscl with
  | none => (cs, 0)
  | some _ =>
    if j.useU = 0 then (List.replicate 1024 0, 0)
    else
      let corr := rows.map fun r => fld (rowBytes r) 4 4
      gather (cs.zipIdx.map fun p => mul32 0 p.1 (corr.getD (p.2 / 32) 0))

/-- The rows of an operand with their sidecars. -/
def Dev.opRows (s : Dev) (n t : Nat) : List ORow := (List.range 32).map fun r => (s.tileAt n t (128 * r) 128, s.sideAt n t (8 * r) 8)

/-- Request number of an OSCL state row. -/
abbrev osclKey : Nat := 2 ^ 21

/-- The product is formed from what the tiles hold, which R66 keeps until the occupancy's end (R75, R77). Rows of an OSCL state that
were granted later than their port's pace move the rest of the product by as much (R155). -/
def Dev.formMma (s : Dev) (n : Nat) (j : Job) (cs : List Nat) : Dev :=
  let o := mmaOp j.word.toNat
  let (cs, g) := j.startAcc cs (j.gotAt osclKey)
  let (acc, h) := o.run (s.opRows n o.at_) (s.opRows n o.bt) cs
  let late := if j.scales then s.now - (j.askAt + 15) else 0
  let s := s.modJob n j.ticket fun k => { k with occEnd := k.occEnd + late, due := k.due + late, rdFree := some (k.occEnd + late + 1),
                                                 acc := acc, got := [], flags := joinFlags k.flags (g ||| h) }
  s.modStall n fun st => { st with arrayFree := st.arrayFree + late }

/-- An MMA's occupancy starts. Under OSCL the array asks the epilogue port for the state rows of the tile's 32 rows, two a cycle (R132,
R144), and the product waits for them. -/
def Dev.startMma (s : Dev) (n : Nat) (j : Job) : Dev :=
  let o := mmaOp j.word.toNat
  let e := s.now + o.occupancy - 1
  let cs := s.readC n j o
  let s := s.modJob n j.ticket fun k => { k with phase := .running, start := s.now, occEnd := e, due := e + 14, askAt := s.now }
  let s := s.modStall n fun st => { st with arrayFree := e + 1 }
  if j.scales then
    let srow := bits (j.oscl.getD 0) 23 10
    let (u, s) := s.jobUnit n j false 0 false false 32
    let s := s.modJob n j.ticket fun k => { k with need := 32, acc := cs }
    (List.range 32).foldl (fun s r => s.jobRead n j pEpr u (srow + 2 * r) osclKey (s.now + r / 2)) s
  else s.formMma n j cs

/-- An MMA that waits for OSCL state rows has them all. -/
def Dev.progMma (s : Dev) (n : Nat) (j : Job) : Dev :=
  if j.scales ∧ j.need = 0 ∧ !j.got.isEmpty then s.formMma n j j.acc else s

/-! ## Vector launches (chapter 4) -/

/-- The launch of a job: from its latched copies (R121). -/
def Dev.launchOf (s : Dev) (n : Nat) (j : Job) : Launch :=
  let d := vdesc j.desc
  let o := vecOrder j.word.toNat
  let c := s.stallCfg n
  { d := d, stages := if j.op = .vec then vecStages d else progStages j.prog,
    outreg := if j.op = .vec then (microOp d.op).dst else bits (fld j.prog 0 8) 34 32,
    src1 := o.src1, src2 := o.src2, dst := o.dst, rmode := rmodeOf o.rmode c.rmode, nonsat := o.nonsat, seed := c.seed,
    step := j.step, trapen := j.trapen, cut := j.cut }

/-- The draws of a vector's lanes. -/
def Launch.draws (l : Launch) (ixs : List (List Nat)) : List Nat := if l.rmode = 4 then ixs.map l.draw else ixs.map fun _ => 0
/-- What a vector reads: tiles as they stand, and the given rows of the Chest. -/
def Dev.reader (s : Dev) (n : Nat) (rows : List (Nat × Row)) : Reader :=
  { tile := fun a => look 0 s.tiles (32768 * n + a),
    side := fun a => look 0 s.sidecars (2048 * n + a),
    chest := fun a => match rows.find? fun p => p.1 = a / 64 with
      | some p => (p.2 >>> (8 * (a % 64))).setWidth 8
      | none => 0 }

/-- Request number of the gather rows of vector v. -/
def gatherKey (v : Nat) : Nat := 2 ^ 20 + v

/-- The rows of the Chest that the gather of a vector reads (R114). -/
def Launch.gatherRows (l : Launch) (rd : Reader) (v : Nat) : List Nat :=
  let ixs := l.ixs v
  let v1 := (l.sources rd ixs (l.draws ixs)).2.1
  ((v1.filterMap (gatherIx l.d.wfmt l.d.glen)).flatMap fun g =>
    chestRows l.d.fmt1 (affine l.d.base1 [g] [l.d.istr.getD 0 0])).eraseDups

/-- Group masked byte writes of a Chest by row: row, data, mask. -/
def rowWrites (l : List BWrite) : List (Nat × Row × Row) :=
  l.foldl (fun (acc : List (Nat × Row × Row)) (w : BWrite) =>
    let q := w.1 / 64
    let sh : Nat := 8 * (w.1 % 64)
    let m : BitVec 512 := BitVec.shiftLeft (BitVec.setWidth 512 w.2.1) sh
    let v : BitVec 512 := BitVec.shiftLeft (BitVec.setWidth 512 w.2.2) sh
    if acc.any fun (p : Nat × Row × Row) => p.1 = q then
      acc.map fun (p : Nat × Row × Row) => if p.1 = q then (q, mergeRow p.2.1 v m, p.2.2 ||| m) else p
    else acc ++ [(q, v, m)]) []

/-- Ask for writes of masked bytes of the paired Chest through the vector write port, as part of a unit. askAt becomes the cycle of their
last grant at the port's pace. -/
def Dev.jobWrites (s : Dev) (n : Nat) (j : Job) (unit since : Nat) (l : List BWrite) : Dev :=
  let rows := rowWrites l
  let s := s.growUnit n unit rows.length
  let s := s.modJob n j.ticket fun k => { k with need := k.need + rows.length, askAt := since + paceOf rows.length 2 - 1 }
  rows.foldl (fun s p => s.jobWrite n j pVwr unit p.1 p.2.1 p.2.2 since) s

/-- A vector launch starts (R120): its first vector enters in this cycle. A unit stays open until the launch has made all its requests. -/
def Dev.startVec (s : Dev) (n : Nat) (j : Job) : Dev :=
  let d := vdesc j.desc
  let (u1, s) := s.jobUnit n j true d.stamp1 false d.rel1 (b2n (decide (d.loc1 ≥ 2)))
  let (u2, s) := s.jobUnit n j true d.stamp2 false d.rel2 (b2n (d.loc2 == 2))
  let (uo, s) := s.jobUnit n j true d.stampo d.holdo false (b2n (d.loco == 2))
  s.modJob n j.ticket fun k => { k with phase := .entering, start := s.now, entry := s.now, units := [u1, u2, uo], nextVec := 0 }

/-- The rows that a job has for vector v, with their numbers, the gather's rows last. -/
def Job.vecRows (j : Job) (l : Launch) (v : Nat) (gr : List Nat) : List (Nat × Row) :=
  ((l.readRows v).map (·.2)).zip (j.gotAt v) ++ gr.zip (j.gotAt (gatherKey v))

/-- The launch waits for all of its vectors before it writes: a reduction or an MX output. -/
def Launch.atEnd (l : Launch) : Bool := l.redOp.isSome || isMx l.d.ofmt

/-- A vector enters: its rows become pending (R104). A row that both sources touch is asked for once. -/
def Dev.enterVec (s : Dev) (n : Nat) (j : Job) (l : Launch) : Dev :=
  let rows := l.readRows j.nextVec
  let u1 := j.units.getD 0 0
  let u2 := j.units.getD 1 0
  let s := (s.growUnit n u1 (rows.filter fun q => q.1 != 2).length).growUnit n u2 (rows.filter fun q => q.1 != 1).length
  let s := s.modJob n j.ticket fun k => { k with phase := .reading, need := k.need + rows.length, askAt := s.now }
  rows.foldl (fun s q => s.pushReq n pVrd
    { row := q.2, unit := if q.1 = 2 then u2 else u1, also := if q.1 = 3 then some u2 else none, sink := .job n j.ticket j.nextVec,
      since := s.now }) s

/-- The gather of a vector asks for its rows, source 2 being known (R114). A row that source 2 has read too is read again, for its stamp
is checked against STAMP1: DESIGN CHOICE (notes/assumptions/63.md). -/
def Dev.askGather (s : Dev) (n : Nat) (j : Job) (gr : List Nat) : Dev :=
  let u := j.units.getD 0 0
  let s := s.growUnit n u gr.length
  let s := s.modJob n j.ticket fun k => { k with phase := .gathering, need := k.need + gr.length, askAt := s.now }
  gr.foldl (fun s q => s.jobRead n j pVrd u q (gatherKey j.nextVec) s.now) s

/-- Cycles by which the reads that became pending at askAt were granted later than their port's pace (R155): the delay adds to the cycle
in which the vector enters. -/
def Job.late (j : Job) (now rows : Nat) : Nat := if rows = 0 then 0 else now - (j.askAt + paceOf rows 4 - 1)

/-- A unit whose requests have all been made loses the mark that kept it open. -/
def Dev.closeUnit (s : Dev) (n unit : Nat) (isOpen : Bool) : Dev :=
  s.iff isOpen fun s => s.modChest n fun x => { x with units := x.units.mod unit fun u => { u with left := u.left - 1 } }

/-- The last vector that writes, when vector v, the first to set an enabled RANGE, has set it (R115): v itself, or a later one that a free
value chooses. -/
def Dev.drawCut (s : Dev) (l : Launch) (v : Nat) : Option Nat × Dev :=
  if trapped l.trapen (BitVec.ofNat 32 fRange) = 0 then (none, s)
  else let (r, s) := s.draw; (some (v + r % (l.d.vectors - v)), s)

/-- The end of a launch's reads: what waits for all vectors is computed. -/
def Dev.endVec (s : Dev) (n : Nat) (j : Job) (l : Launch) : Dev :=
  let s := s.modJob n j.ticket fun k => { k with phase := .writing, got := [] }
  let s := (s.closeUnit n (j.units.getD 0 0) (decide (l.d.loc1 ≥ 2))).closeUnit n (j.units.getD 1 0) (l.d.loc2 == 2)
  let s := if l.atEnd then
    let rd (v : Nat) : Reader :=
      let r0 := s.reader n (j.vecRows l v [])
      if l.d.loc1 = 3 then s.reader n (j.vecRows l v (l.gatherRows r0 v)) else r0
    let o := l.run rd
    let g := o.vecs.foldl (fun g p => g ||| p.2) o.lastFlags
    let (cut, s) := match o.rangeAt with
      | none => (none, s)
      | some v => s.drawCut l v
    let o := if cut.isSome then { l with cut := cut }.run rd else o
    let s := s.modJob n j.ticket fun k => { k with outTiles := if l.d.loco = 1 then o.last else [], outSide := o.side,
                                                   flags := joinFlags k.flags g }
    if l.d.loco = 2 then s.jobWrites n j (j.units.getD 2 0) (max s.now (j.due - 6)) o.last else s
  else s
  s.closeUnit n (j.units.getD 2 0) (l.d.loco == 2)

/-- A vector has its operands: its output is staged for the tiles, or asked of the Chest 6 cycles before its latency ends (R104, R119);
the next vector enters one interval later, or the launch has read everything (R120). late is what its grants added to its entry. -/
def Dev.putVec (s : Dev) (n : Nat) (j : Job) (l : Launch) (v late : Nat) (gr : List Nat) (bw : List BWrite) (g : Nat) : Dev :=
  let eff := j.entry + late
  let (cut, s) := if j.cut.isSome ∨ g / fRange % 2 = 0 then (j.cut, s) else s.drawCut l v
  let j' : Job := { j with
    outTiles := if l.d.loco = 1 then j.outTiles ++ bw else j.outTiles, cut := cut, flags := joinFlags j.flags g, nextVec := v + 1,
    phase := .entering, entry := eff + l.interval v gr, due := eff + l.latency,
    got := if l.atEnd then j.got else j.got.filter fun p => p.1 != v && p.1 != gatherKey v }
  let s := s.modJob n j.ticket fun _ => j'
  let s := if l.d.loco = 2 then s.jobWrites n j (j.units.getD 2 0) (eff + l.latency - 6) bw else s
  if v + 1 < l.d.vectors then s
  else (s.modStall n fun st => { st with vecFree := j'.entry }).endVec n j' l

/-- Advance a launch: vectors enter, and those whose rows have all been read are computed (R98, R114). -/
def Dev.progVec (s : Dev) (n ticket : Nat) : Nat → Dev
  | 0 => s
  | fuel + 1 => match s.job n ticket with
    | none => s
    | some j =>
      let l := s.launchOf n j
      let v := j.nextVec
      let rows := l.readRows v
      if j.phase = .entering then
        if s.now < j.entry then s else Dev.progVec (s.enterVec n j l) n ticket fuel
      else if j.phase = .reading then
        if (j.gotAt v).length < rows.length then s
        else
          let late := j.late s.now rows.length
          let r0 := s.reader n (j.vecRows l v [])
          let gr := if l.d.loc1 = 3 then l.gatherRows r0 v else []
          if gr = [] then
            let (bw, g) := if l.atEnd then ([], 0) else l.vecOut r0 v
            Dev.progVec (s.putVec n j l v late [] bw g) n ticket fuel
          else (s.modJob n ticket fun k => { k with entry := k.entry + late }).askGather n j gr
      else if j.phase = .gathering then
        let gr := l.gatherRows (s.reader n (j.vecRows l v [])) v
        if (j.gotAt (gatherKey v)).length < gr.length then s
        else
          let (bw, g) := if l.atEnd then ([], 0) else l.vecOut (s.reader n (j.vecRows l v gr)) v
          Dev.progVec (s.putVec n j l v (j.late s.now gr.length) gr bw g) n ticket fuel
      else s

/-! ## Prologues (R133) -/

/-- The SIDEA stages of a list's prologue, each with its number among the prologue stages. -/
def sideasOf (ws : List Nat) : List (Nat × Nat) := ((proStages ws).zipIdx.filter fun p => stKind p.1 == kSidea).map fun p => (p.2, p.1)

/-- Request number of row k of the side entries of prologue stage i. -/
def sideaKey (i k : Nat) : Nat := 8 * i + k

/-- A prologue starts: the side entries of each SIDEA stage become pending on the vector port, each stage's as a unit of its own with its
STAMP and REL (R133). -/
def Dev.startPro (s : Dev) (n : Nat) (j : Job) : Dev :=
  match j.epi with
  | none => s.dropJob n j.ticket
  | some e =>
    let ws := e.words
    let o := mmaOp j.word.toNat
    let ks := ((passes (proStages ws)).headD []).foldl max 1
    let v := 32 * ((o.k + 31) / 32)
    let sides := sideasOf ws
    let s := s.modJob n j.ticket fun k => { k with phase := .reading, start := s.now, need := 8 * sides.length, askAt := s.now,
                                                   due := s.now + proLatency ws o.k }
    let s := s.modStall n fun st => { st with vecFree := s.now + v * ks }
    sides.foldl (fun s p =>
      let (u, s) := s.jobUnit n j true (bits p.2 27 24) false (bit p.2 28) 8
      (List.range 8).foldl (fun s k => s.jobRead n j pVrd u (bits p.2 23 10 + k) (sideaKey p.1 k) s.now) s) s

/-- V0 and V1 of the side entry for row r of SIDEA stage i, from the rows read (R140). -/
def sideEntryOf (got : List (Nat × Row)) (i r : Nat) : Nat × Nat :=
  match got.find? fun p => p.1 = sideaKey i (r / 4) with
  | some p => let b := rowBytes p.2; (fld b (16 * (r % 4)) 4, fld b (16 * (r % 4) + 4) 4)
  | none => (0, 0)

/-- The prologue has its entries: the A tile's new contents are computed (R133). Grants that came later than the port's pace move the
launch by as much (R155). -/
def Dev.progPro (s : Dev) (n : Nat) (j : Job) : Dev :=
  match j.epi with
  | none => s
  | some e =>
    let o := mmaOp j.word.toNat
    let env := s.useEnv n j e (fun _ _ => []) (sideEntryOf j.got)
    let (bw, side, g) := env.prologue (proStages e.words) o (s.opRows n o.at_)
    let late := j.late s.now (8 * (sideasOf e.words).length)
    let s := s.modStall n fun st => { st with vecFree := st.vecFree + late }
    s.modJob n j.ticket fun k => { k with phase := .writing, outTiles := bw, outSide := side, flags := joinFlags k.flags g,
                                          due := k.due + late }

/-! ## Epilogues (R122 to R145) -/

/-- The port that an epilogue reads by and the one it writes by: its own on the path, the vector port for passes (R132, R135). -/
def Job.epiPorts (j : Job) : Nat × Nat := if j.op = .mma then (pEpr, pEpw) else (pVrd, pVwr)
/-- Request number of row i of the Chest rows of stage k for tile row r. -/
def residKey (stage r : Nat) : Nat := 64 * stage + r
/-- Request number of a state row. -/
def stateKey (q : Nat) : Nat := 2 ^ 20 + q
/-- Chest rows that a tile row of a stage takes (R162). -/
def stageRows (w : Nat) : Nat := (32 * w + 511) / 512

/-- AGEN_EXHAUSTED (R161): the order faults its context. -/
def Dev.agenFault (s : Dev) (n pc : Nat) : Dev := s.faultStall n 0x000C pc

/-- The RESID stages of a list that read the Chest, with their numbers. -/
def residsOf (es : List Nat) : List (Nat × Nat) :=
  (es.zipIdx.filter fun p => stKind p.1 == kResid && bits p.1 11 10 == 2).map fun p => (p.2, p.1)
/-- Chest rows of a tile row of a RESID stage. -/
def residRows (w : Nat) : Nat := stageRows (elemBits (bits w 15 12))

/-- The unit of access of a stage of a job (R164). -/
def Job.stUnit (j : Job) (stage : Nat) : Nat := assoc j.stUnits stage

/-- The epilogue of a use begins: its state rows become pending, two a cycle, and from this cycle on the rows of one tile row of each RESID
stage in every cycle (R122, R132). -/
def Dev.startEpi (s : Dev) (n : Nat) (j : Job) (due : Nat) : Dev :=
  match j.epi with
  | none => s
  | some e =>
    let port := j.epiPorts.1
    let env := s.useEnv n j e (fun _ _ => []) (fun _ _ => (0, 0))
    let es := epiStages e.words
    let st := if e.isProg then [] else env.stateRows es
    let rs := if e.isProg then [] else residsOf es
    let s := s.modJob n j.ticket fun k =>
      { k with phase := .epiReading, due := due, got := [], since := s.now, askAt := s.now, asked := if rs = [] then 32 else 0, stUnits := [],
               need := st.length + (rs.map fun p => 32 * residRows p.2).sum }
    let s := rs.foldl (fun s p =>
      let (u, s) := s.jobUnit n j true (bits p.2 21 18) false (bit p.2 22) (32 * residRows p.2)
      s.modJob n j.ticket fun k => { k with stUnits := k.stUnits ++ [(p.1, u)] }) s
    let (u, s) := s.jobUnit n j false 0 false false st.length
    st.zipIdx.foldl (fun s q => s.jobRead n j port u q.1 (stateKey q.1) (s.now + q.2 / 2)) s

/-- The rows of tile row r of a RESID stage become pending: the generator's next ones (R162). -/
def Dev.askResid (s : Dev) (n : Nat) (j : Job) (r : Nat) (p : Nat × Nat) : Dev :=
  if (s.job n j.ticket).isNone then s
  else match s.takeRows n (bits p.2 17 16) (residRows p.2) with
    | (none, s) => s.agenFault n j.pc
    | (some rows, s) => rows.foldl (fun s q => s.jobRead n j j.epiPorts.1 (j.stUnit p.1) q (residKey p.1 r) s.now) s

/-- The rows of one STORE row become pending: the generator's next ones, filled from byte 0 with byte enables (R162). -/
def Dev.askStore (s : Dev) (n : Nat) (j : Job) (x : StoreRow) : Dev :=
  if (s.job n j.ticket).isNone then s
  else match s.takeRows n x.agen ((x.data.length + 63) / 64) with
    | (none, s) => s.agenFault n j.pc
    | (some qs, s) =>
      qs.zipIdx.foldl (fun s q =>
        let d := (x.data.drop (64 * q.2)).take 64
        s.jobWrite n j j.epiPorts.2 (j.stUnit x.stage) q.1 (rowAt 0 d) (byteMask 0 d.length) s.now) s

/-- The generator rows of a use that are due by this cycle become pending, tile row by tile row (R132, R162). A cycle's rows are taken when
the Chest grants in it, or at its end: a move that starts in it has then taken its own first. -/
def Dev.askJob (s : Dev) (n : Nat) (t : Nat) : Dev := match s.job n t with
  | none => s
  | some j => match j.epi with
    | none => s
    | some e =>
      let upTo := min 32 (s.now - j.askAt + 1)
      if j.phase = .epiReading ∧ j.asked < upTo then
        let rs := residsOf (epiStages e.words)
        let s := (List.range (upTo - j.asked)).foldl (fun s i => rs.foldl (fun s p => s.askResid n j (j.asked + i) p) s) s
        s.modJob n t fun k => { k with asked := upTo }
      else if j.phase = .epiWriting ∧ j.stores ≠ [] then
        let now := j.stores.filter fun x => decide (x.tileRow < upTo)
        let s := s.modJob n t fun k => { k with stores := k.stores.filter fun x => !decide (x.tileRow < upTo) }
        now.foldl (fun s x => s.askStore n j x) s
      else s
/-- The same for every job of a Stall, the oldest first. -/
def Dev.askRows (s : Dev) (n : Nat) : Dev :=
  if (s.block (n / 4)).island != .run then s else (s.stall n).jobs.foldl (fun s j => s.askJob n j.ticket) s

/-- The 16 words of a row. -/
def rowWords (r : Row) : List Nat := (List.range 16).map fun i => bits r.toNat (32 * i + 31) (32 * i)
/-- A state row as the path sees it: what an earlier use has still to write to it, else the Chest's data. -/
def Dev.pendingRow (s : Dev) (n q : Nat) : Row :=
  let reqs := ((s.chest n).ports.get pEpw ++ (s.chest n).ports.get pVwr : List RowReq)
  match (reqs.filter fun r => r.row == q && r.isWrite && r.mask == fullRow).getLast? with
  | some r => r.data
  | none => s.rowData n q
/-- A row from 16 words. -/
def wordsRow (l : List Nat) : Row := rowOf (l.flatMap (leBytes 4))

/-- The accumulator tile as FP32 working values, with the flags of the RNE conversion of an INT32 accumulator (R61, R123). -/
def accGrid (fmt : Nat) (acc : List Nat) : Grid32 × Nat :=
  mapGrid (fun _ _ v => if fmt = 0x7 then fp32.ofNum 0 0 (intNum (sgn 32 v)) else (v, 0))
    ((List.range 32).map fun r => (List.range 32).map fun c => acc.getD (32 * r + c) 0)

/-- A program-form epilogue's result (R134): byte writes and flags. -/
def progEpilogue (env : UseEnv) (e : PendEpi) (dt : Nat) (x : Grid32) : List BWrite × Nat :=
  let h := phdr e.header
  let outreg := bits (fld e.prog 0 8) 34 32
  let env := { env with h := { (default : EHdr) with tid := h.tid, row0 := h.row0, col0 := h.col0, cadv := h.cadv, nuse := h.nuse,
                                                     radv := h.radv } }
  let src (k r : Nat) : List Nat := (List.range 32).map fun c => if k = 0 then 0 else env.aux 0x0 (k - 1) r c
  x.zipIdx.foldl (fun (acc : List BWrite × Nat) p =>
    let r := p.2
    let ixs := (List.range 32).map fun c => [c, r, 0, 0, 0, 0]
    let rs := (List.range 32).map fun c => env.gen 1 r c
    let le : LaneEnv := { w := 0, mode := env.rmode, nonsat := env.nonsat, imm0 := h.imm0, imm1 := h.imm1, ixs := ixs, rs := rs }
    let z := List.replicate 32 0
    let (fr, g) := runOps le (progStages e.prog).flatten [p.1, src h.v1src r, src h.v2src r, z, z, z, z, z] 0
    let out := ((fr.getD outreg []).zip rs).zipIdx.map fun (q : (Nat × Nat) × Nat) =>
      let (v, k) := leave env.rmode env.nonsat 0x0 h.ofmt q.1.2 q.1.1
      (writePieces v (elemPieces true dt h.ofmt (r * tileK h.ofmt + q.2)), k)
    (acc.1 ++ out.flatMap (·.1), out.foldl (fun g q => g ||| q.2) (acc.2 ||| g))) ([], 0)

/-- Every Chest read of the use has been granted: its stages are applied, and its writes become pending (R127 to R145). -/
def Dev.progEpi (s : Dev) (n : Nat) (j : Job) : Dev :=
  match j.epi with
  | none => s
  | some e =>
    let m := if j.op = .mma then j else (s.job n j.link).getD j
    let o := mmaOp j.word.toNat
    let (x, ga) := accGrid o.accFmt m.acc
    let late := if j.got = [] then 0 else s.now - (j.askAt + 31)
    let resid (i r : Nat) : Bytes := (j.gotAt (residKey i r)).flatMap rowBytes
    let env := s.useEnv n j e resid (fun _ _ => (0, 0))
    if e.isProg then
      let (bw, g) := progEpilogue env e o.dt x
      s.modJob n j.ticket fun k => { k with phase := .epiWriting, outTiles := bw, flags := joinFlags k.flags (ga ||| g) }
    else
      let port := j.epiPorts.2
      let ws := e.words
      let es := epiStages ws
      let slots := List.range 16
      let st0 := (env.stateRows es).map fun q => (q, rowWords (s.pendingRow n q))
      let acc0 : UseAcc := { x := x, st := st0, folds := slots.map fun i => (i, (s.stall n).folds.get (16 * e.line + i)),
                             incl := slots.map fun i => (i, (s.stall n).inclCols.get (16 * e.line + i)) }
      let a := env.stages es (es.zipIdx.map fun p => (p.2, p.1)) false acc0
      let (bw, side, g) := if env.h.dwrite then env.dtOut es o.dt a else ([], [], 0)
      let s := s.modStall n fun y =>
        { y with folds := slots.foldl (fun t i => t.set (16 * e.line + i) (assoc a.folds i)) y.folds,
                 inclCols := slots.foldl (fun t i => t.set (16 * e.line + i) (assoc a.incl i)) y.inclCols }
      let s := s.modJob n j.ticket fun k =>
        { k with phase := .epiWriting, outTiles := a.tiles ++ bw, outSide := side, sends := a.sends, settle := a.settle,
                 stores := a.stores, askAt := s.now, due := k.due + late, flags := joinFlags k.flags (ga ||| a.flags ||| g), got := [],
                 since := s.now, limit := s.sstoOf (n / 4) }
      let (u, s) := s.jobUnit n j false 0 false false st0.length
      let s := s.modJob n j.ticket fun k => { k with need := k.need + a.st.length }
      let s := a.st.foldl (fun s q => s.jobWrite n j port u q.1 (wordsRow q.2) fullRow s.now) s
      let s := (a.stores.map fun x => x.stage).eraseDups.foldl (fun s i =>
        let mine := a.stores.filter fun x => x.stage = i
        let rows := (mine.map fun x => (x.data.length + 63) / 64).sum
        let h := mine.headD default
        let (u, s) := s.jobUnit n j true h.code h.hold false rows
        s.modJob n j.ticket fun k => { k with need := k.need + rows, stUnits := k.stUnits ++ [(i, u)] }) s
      (a.entries.map fun x => x.stage).eraseDups.foldl (fun s i =>
        let ents := a.entries.filter fun x => x.stage = i
        let h := ents.headD default
        let (u, s) := s.jobUnit n j true (h.code.getD 0) h.hold false ents.length
        let s := s.modJob n j.ticket fun k => { k with need := k.need + ents.length }
        ents.foldl (fun s x => s.jobWrite n j port u x.row (rowAt 0 x.data) (byteMask 0 x.len) s.now) s) s

/-! ## Rows handed to peers (R137, R138, R304, R305) -/

/-- Rows of a collective that stand in the inbox. -/
def Dev.inboxOf (s : Dev) (c didx : Nat) : Nat := (s.coll.rows.filter fun r => r.ctx == c && r.didx == didx).length

/-- Whether an active collective takes its contribution from rows: SRC 01 (R297, R304). -/
def Coll.fromRows (x : Coll) : Bool := (collD x.desc).src == 1

/-- Whether the inbox has room for a row of a collective (R305): 4,096 rows are shared, of which every active collective with SRC 01 is
sure of 64. -/
def Dev.inboxRoom (s : Dev) (c didx : Nat) : Bool :=
  let others := s.coll.active.filter fun p => p.2.fromRows && !(p.2.ctx == c && p.2.didx == didx)
  decide (s.inboxOf c didx < 64)
    || decide (s.coll.rows.length + (others.map fun p => 64 - s.inboxOf p.2.ctx p.2.didx).sum < 4096)

/-- The contribution row of a collective that a job offers now, its sends being handed over in path order: the collective's index. -/
def Job.offers (j : Job) : Option Nat := match j.phase, j.sends with
  | .epiWriting, x :: _ => if x.1 = 0 then some x.2.1 else none
  | _, _ => none

/-- A contribution row reaches the engine (R137, R304, R305): whether it is accepted. -/
def Dev.offerColl (s : Dev) (c : Nat) (j : Job) (e : PendEpi) (didx r : Nat) (data : Bytes) : Bool × Dev :=
  let h := ehdr e.header
  if (s.coll.active.any fun p => p.2.ctx == c && p.2.didx == didx) && s.inboxRoom c didx then
    (true, { s with coll := { s.coll with rows := s.coll.rows ++
      [{ ctx := c, didx := didx, row := (h.row0 + j.useB * h.radv + r) % 2 ^ 32, col := (h.col0 + j.useU * h.cadv) % 2 ^ 32,
         fmt := ((epiStages e.words).find? fun w => stKind w == kSend && bits w 11 10 == 0 && bits w 23 12 == didx).elim 0 stFmt,
         data := data }] } })
  else (false, s)

/-- Whether a request of the router's own has no reply yet. -/
def Elveel.awaits (v : Elveel) (i : Nat) : Bool :=
  v.outq.any (fun q => q.id == i) || v.txns.any (fun t => t.req == i) || v.served.any fun w => w.own.isSome && w.pkt.tid == i

/-- One row is put under its send record (R138), which is read from the front shelf when the row is handed over: DESIGN CHOICE
(notes/assumptions/64.md). A put whose address R249 refuses is not sent and fails with UNMAPPED. After the tile's last row of the record,
its bell waits for the puts; a failed one keeps it from ringing. -/
def Dev.offerPut (s : Dev) (n : Nat) (j : Job) (h : EHdr) (didx r : Nat) (data : Bytes) (isLast : Bool) : Dev :=
  let rcd := (s.shelf (n / 4)).cfgLines (bits didx 7 0) 1
  let addr := (fld rcd 0 8 + r * fld rcd 8 4 + (j.useB * (h.nuse + 1) + j.useU) * fld rcd 12 4) % 2 ^ 64
  let bell := byte rcd 17
  let key := (n, j.ticket, bits didx 7 0)
  let id := s.elveel.nextOut
  let bad := badAddr addr || bits addr 63 62 != 0
  let s := if bad then s else s.request { op := 0x05, ddev := addrDev addr, len := data.length, addr := addr, payload := data,
                                          aux := byte rcd 16 % 2 } (.epiSend n 0 0 0)
  let ids := (s.elveel.sendIds.filter fun p => p.1 == key).map (·.2) ++ [if bad then none else some id]
  if !isLast then s.modElv fun v => { v with sendIds := v.sendIds ++ [(key, if bad then none else some id)] }
  else
    let s := s.modElv fun v => { v with sendIds := v.sendIds.filter fun p => p.1 != key }
    s.iff (bit bell 7 && !ids.contains none) fun s => s.modElv fun v =>
      { v with bellWait := v.bellWait ++ [((ids.filterMap fun i => i).filter v.awaits,
                                           { op := 0x08, ddev := addrDev addr, aux := bits bell 4 0, flow := n % 256 })] }

/-- Offer one row to its path: whether it is accepted, and the device (R137). rest are the rows of the tile that follow. -/
def Dev.offerRow (s : Dev) (n : Nat) (j : Job) (x : Nat × Nat × Nat × Bytes) (rest : List (Nat × Nat × Nat × Bytes)) : Bool × Dev :=
  match j.epi, s.stallCtx n with
  | some e, some c =>
    let (path, didx, r, data) := x
    if path = 0 then s.offerColl c j e didx r data
    else (true, s.offerPut n j (ehdr e.header) didx r data (!rest.any fun y => y.1 != 0 && bits y.2.1 7 0 == bits didx 7 0))
  | _, _ => (false, s)

/-- Hand the rows of a job to their paths, in path order, as far as they are accepted. -/
def Dev.handRows (s : Dev) (n ticket : Nat) : Nat → Dev
  | 0 => s
  | fuel + 1 => match s.job n ticket with
    | none => s
    | some j => match j.sends with
      | [] => s
      | x :: r =>
        match s.offerRow n j x r with
        | (false, s) => s
        | (true, s) => Dev.handRows (s.modJob n ticket fun k => { k with sends := r, since := s.now, limit := s.sstoOf (n / 4) }) n ticket fuel

/-! ## Moves (R81, R82) -/

/-- A MOV.LD or MOV.ST starts: its rows become pending (R81, R162). -/
def Dev.startMov (s : Dev) (n : Nat) (j : Job) : Dev :=
  let o := movOrder j.word.toNat
  match s.takeRows n o.agen o.chestRows with
  | (none, s) => s.agenFault n j.pc
  | (some rows, s) =>
    let isLd := j.op == .movLd
    let (u, s) := s.jobUnit n j true o.stamp (o.hold && !isLd) (o.release && isLd) rows.length
    let s := s.modJob n j.ticket fun k => { k with phase := .reading, start := s.now, need := rows.length }
    if isLd then rows.zipIdx.foldl (fun s q => s.jobRead n j pMove u q.1 q.2 s.now) s
    else
      let bs := o.pack (s.tileAt n o.tile 0 4096) (s.tileAt n (o.tile + 1) 0 4096)
        ++ if o.scale then o.tiles.flatMap fun t => s.sideAt n t 0 256 else []
      rows.zipIdx.foldl (fun s q =>
        s.jobWrite n j pMove u q.1 (rowOf ((bs.drop (64 * q.2)).take 64)) fullRow s.now) s

/-- The rows of a MOV.LD have all been granted: the tile bytes are staged, readable 6 cycles after the last grant (R81). -/
def Dev.progMov (s : Dev) (n : Nat) (j : Job) : Dev :=
  let o := movOrder j.word.toNat
  let bs := j.got.flatMap fun p => rowBytes p.2
  let (a, b) := o.unpack (bs.take (64 * o.dataRows))
  let sc := bs.drop (64 * o.dataRows)
  let full : Byte := 0xFF
  let outs : List BWrite := (a.zipIdx.map fun p => (4096 * o.tile + p.2, full, p.1))
    ++ b.zipIdx.map fun p => (4096 * (o.tile + 1) + p.2, full, p.1)
  let side := if o.scale then o.tiles.zipIdx.flatMap fun t =>
      ((sc.drop (256 * t.2)).take 256).zipIdx.map fun p => (256 * t.1 + p.2, p.1) else []
  s.modJob n j.ticket fun k => { k with phase := .writing, due := k.lastGrant + 6, got := [],
                                        outTiles := if j.op = .movLd then outs else [],
                                        outSide := if j.op = .movLd then side else [] }

/-- MOV.ZERO and MOV.TT: what they write, and the cycle in which it is readable (R82). -/
def Dev.startFill (s : Dev) (n : Nat) (j : Job) : Dev :=
  let w := j.word.toNat
  let full : Byte := 0xFF
  if j.op = .movZero then
    let t := movDst w
    s.modJob n j.ticket fun k =>
    { k with
      phase := .writing, start := s.now, due := s.now + 4,
      outTiles := (List.range 4096).map fun i => (4096 * t + i, full, 0),
      outSide := if movScale w then (List.range 256).map fun i => (256 * t + i, 0x7F) else [] }
  else
    let src := movSrc w
    let dst := movDst w
    s.modJob n j.ticket fun k =>
    { k with
      phase := .writing, start := s.now, due := s.now + 34,
      outTiles := (s.tileAt n src 0 4096).zipIdx.map fun p => (4096 * dst + p.2, full, p.1),
      outSide := (s.sideAt n src 0 256).zipIdx.map fun p => (256 * dst + p.2, p.1) }

/-! ## The runner port (R83, R87) -/

/-- The packet of a SEND (R83, R196, R197). -/
def Dev.sendPkt (s : Dev) (n : Nat) (w : Nat) : RPkt :=
  let o := sendOrder w
  { ddev := o.dev, dunit := o.unit, tag := o.tag, nw := o.nw, qinc := (s.stall n).sendInc.get o.tag,
    words := (List.range (o.nw + 1)).map fun i =>
      BitVec.ofNat 32 (leVal (s.tileAt n o.tile (128 * o.row + 16 * o.colq + 4 * i) 4)),
    sdev := s.elveel.devnum, sunit := n }

/-- A RECV that has started takes the head message of its queue, if one can be taken (R87, R88). -/
def Dev.takeMsg (s : Dev) (n : Nat) (j : Job) : Dev :=
  let o := recvOrder j.word.toNat
  let q := (s.stall n).queues.get o.queue
  match q.msgs with
  | [] => s
  | m :: r =>
    if m.at_ < s.now then
      let s := s.modStall n fun st => { st with queues := st.queues.set o.queue { q with msgs := r, freedAt := s.now + 1 } }
      let full : Byte := 0xFF
      s.modJob n j.ticket fun k =>
      { k with
        phase := .writing, due := s.now + 3,
        outTiles := (recvBytes o m).zipIdx.map fun p => (4096 * o.tile + 128 * o.row + 16 * o.colq + p.2, full, p.1) }
    else s

/-! ## Starting (R65) -/

/-- Whether the epilogue path holds (R137): a tile on it has rows that their paths have not accepted. -/
def Stall.holds (st : Stall) : Bool := st.jobs.any fun j => j.op == .mma && j.phase == .epiWriting && !j.sends.isEmpty

/-- Whether an engine may start its next order in this cycle, its interlocks apart. An MMA whose drain a held tile delays keeps the
array (R132, R137). -/
def Stall.engineFree (st : Stall) (now : Nat) (e : Eng) : Bool :=
  let live := st.jobs.filter fun j => j.eng == e && j.phase != .queued
  match e with
  | .matrix => decide (st.arrayFree ≤ now) && !(st.holds && live.any fun j => j.phase == .running && decide (j.due ≤ now))
      && live.all fun j => !(j.scales && j.phase == .running && j.need != 0)
  | .vector => decide (st.vecFree ≤ now) && live.all fun j => j.phase == .writing || j.phase == .epiWriting || j.phase == .done
  | .move => live.all fun j => if j.op == .movZero || j.op == .movTt then decide (j.due ≤ now) else
      j.need == 0 && decide (j.lastGrant < now)
  | .runner => live.all fun j => j.op == .recv && j.phase == .writing && decide (j.start < now)

/-- Whether an implicit launch that runs an epilogue may start: its MMA has drained (R134, R135). -/
def Stall.linkReady (st : Stall) (j : Job) : Bool := match st.jobs.find? fun m => m.ticket = j.link with
  | some m => m.phase == .done
  | none => false

/-- Start a job. -/
def Dev.startJob (s : Dev) (n : Nat) (j : Job) : Dev := match j.op with
  | .mma => s.startMma n j
  | .vec => s.startVec n j
  | .vecProg => s.startVec n j
  | .prologue => s.startPro n j
  | .epiPasses => match j.epi with
    | none => s.dropJob n j.ticket
    | some e =>
      let es := epiStages e.words
      let ks := (progStages e.prog).map List.length
      let isLast := j.useU == (ehdr e.header).nuse
      let p := (passList es isLast).getLastD {}
      let t := if e.isProg then progTime ks else transLatency e.words isLast
      let tail := if e.isProg then passLatency ks - ks.foldl max 1
        else passLatency p.slots + (if p.reads then 6 else 0) + (if p.writes then 6 else 0) - p.slots.foldl max 1
      let m := (s.job n j.link).getD j
      let cyc := e.isProg && (s.stallCfg n).cyclic
      let s := s.modJob n j.ticket fun k => { k with start := s.now, occEnd := s.now + t }
      let s := s.modStall n fun st => { st with vecFree := s.now + t - tail }
      s.startEpi n j (if cyc then m.occEnd + 14 + (phdr e.header).dlat else s.now + t)
  | .movLd => s.startMov n j
  | .movSt => s.startMov n j
  | .movZero => s.startFill n j
  | .movTt => s.startFill n j
  | .send => s.modJob n j.ticket fun k => { k with phase := .handing, start := s.now, since := s.now, limit := s.sstoOf (n / 4) }
  | .recv => (s.modJob n j.ticket fun k =>
      { k with phase := .reading, start := s.now, since := s.now, limit := s.sstoOf (n / 4) }).takeMsg n
      { j with start := s.now }

/-- The first queued order of an engine that may start in this cycle. -/
def Dev.ready (s : Dev) (n : Nat) (e : Eng) : Option Job :=
  let st := s.stall n
  match st.jobs.find? fun j => j.eng == e && j.phase == .queued with
  | none => none
  | some j =>
    if st.engineFree s.now e && !st.blocked s.now j && (j.op != .epiPasses || st.linkReady j)
        && !(j.op == .mma && st.jobs.any fun i => i.op == .prologue && i.link == j.ticket)
    then some j else none

/-- Start what may start; fuel bounds the rounds. -/
def Dev.starts (s : Dev) (n : Nat) : Nat → Dev
  | 0 => s
  | fuel + 1 =>
    match [Eng.matrix, .vector, .move, .runner].findSome? (s.ready n) with
    | none => s
    | some j => Dev.starts (s.startJob n j) n fuel

/-- Whether an earlier use of the Stall has still to be computed: uses take their state in order. -/
def Stall.epiBehind (st : Stall) (ticket : Nat) : Bool :=
  st.jobs.any fun i => decide (i.ticket < ticket) && i.phase == .epiReading

/-- Progress of one job. -/
def Dev.progress (s : Dev) (n : Nat) (t : Nat) : Dev := match s.job n t with
  | none => s
  | some j => match j.op, j.phase with
    | .vec, _ => s.progVec n t (3 * (vdesc j.desc).vectors + 2)
    | .vecProg, _ => s.progVec n t (3 * (vdesc j.desc).vectors + 2)
    | .mma, .running => s.progMma n j
    | .prologue, .reading => if j.need = 0 then s.progPro n j else s
    | .epiPasses, .epiReading => if j.need = 0 ∧ !(s.stall n).epiBehind t then (s.progEpi n j).handRows n t 64 else s
    | .mma, .epiReading => if j.need = 0 ∧ !(s.stall n).epiBehind t then (s.progEpi n j).handRows n t 64 else s
    | .epiPasses, .epiWriting => s.handRows n t 64
    | .mma, .epiWriting => s.handRows n t 64
    | .movLd, .reading => if j.need = 0 then s.progMov n j else s
    | .movSt, .reading => if j.need = 0 then s.progMov n j else s
    | .recv, .reading => s.takeMsg n j
    | .recv, .writing => if j.due ≤ s.now then (s.commitTiles n j).dropJob n t else s
    | _, _ => s

/-- Start and advance the engines of a Stall whose block's clock runs. -/
def Dev.kick (s : Dev) (n : Nat) : Dev :=
  if (s.stall n).jobs.isEmpty || (s.block (n / 4)).island != .run then s
  else
    let s := s.starts n 8
    let s := (s.stall n).jobs.foldl (fun s j => s.progress n j.ticket) s
    s.starts n 8

end Sys2Proof.Machine
end

