-- ==== Sys2Proof/Machine/Order.lean ====
section
/-! DEFINITION. The sequencer (R64 to R72, R89 to R91): when an order may issue, what its issue does, and the next order. -/
namespace Sys2Proof.Machine

/-! ## Fetching and issuing (R64, R65, R67) -/

/-- Whether a block's island is powered for work: RUN or IDLE. -/
def Block.awake (x : Block) : Bool := x.island == .run || x.island == .idle
/-- Wake a block whose clock is stopped: an arrival starts the island clock, at a turn boundary of the device-wide count (R408, R411).
Which boundary within the 64 cycles the manual leaves open: the model takes the first (DESIGN CHOICE, notes/assumptions/69.md). -/
def Dev.rouse (s : Dev) (b : Nat) : Dev :=
  s.iff ((s.block b).island == .idle) fun s => s.modBlock b fun x =>
    { x with island := .run, quiet := none, clockAt := s.now + (8 - s.time % 8) % 8 }

/-- The order word at the PC of Stall n: zero beyond the order memory, which no opcode is (R64, R71). -/
def Dev.orderAt (s : Dev) (n : Nat) : Nat :=
  let st := s.stall n
  ((s.shelf (n / 4)).orders.get (st.base + st.pc)).toNat

/-- Whether the issue gap of a task Lot holds issue in this turn (R421). -/
def Dev.inGap (s : Dev) (b : Nat) : Bool := match s.lotOf b with
  | none => false
  | some l => let x := s.lot l; x.front.kind == 2 && decide (s.turn % 64 < x.beat.stretch)

/-- Whether the sequencer of Stall n fetches an order in this cycle: its block runs, issue has not stopped, and nothing has
issued in this cycle. -/
def Dev.fetches (s : Dev) (n : Nat) : Bool :=
  let st := s.stall n
  let b := s.block (n / 4)
  s.lit && b.island == .run && decide (b.clockAt ≤ s.now) && !b.fenced && !b.testing && st.seq == .running && !st.ended && !st.ready
    && decide (st.beatStart ≤ s.now) && st.lastIssue != some s.now && decide (st.pc < st.len) && !s.inGap (n / 4)

/-- Whether the order at the PC is op and is not held by SYNC (R65, R70). -/
def Dev.mayIssue (s : Dev) (n op : Nat) : Bool :=
  let w := s.orderAt n
  s.fetches n && orderOp w == op && (!orderSync w || (s.stall n).jobs.isEmpty)

/-- Free entries of an engine's two-entry order queue (R65). -/
def Stall.room (st : Stall) (e : Eng) : Nat := 2 - (st.jobs.filter fun j => j.eng == e && j.phase == .queued).length

/-- The order after offset p, with the loop stack, whose top is the list's head (R67). -/
def nextPc (p : Nat) : List LoopFrame → Nat × List LoopFrame
  | [] => (p + 1, [])
  | f :: r =>
    if f.last = p then
      if 0 < f.left then (f.first, { f with left := f.left - 1 } :: r) else nextPc p r
    else (p + 1, f :: r)

/-- The sequencer goes on to the next order. -/
def Stall.advance (st : Stall) (now : Nat) : Stall :=
  let (pc, loops) := nextPc st.pc st.loops
  { st with pc := pc, loops := loops, lastIssue := some now, holdSince := none }

/-- Issue the order op of Stall n when room allows it: the sequencer advances, f is the order's effect, given the order's
offset and word, and the engines start what they can. -/
def Dev.issue (s : Dev) (n op : Nat) (room : Stall → Nat → Bool) (f : Nat → Nat → Dev → Dev) : Dev :=
  let st := s.stall n
  let w := s.orderAt n
  if s.mayIssue n op && room st w then
    (f st.pc w (s.modStall n fun x => x.advance s.now)).kick n
  else s

/-- An illegal order at run time (R92). -/
def Dev.illegal (s : Dev) (n pc : Nat) : Dev := s.faultStall n 0x0001 pc

/-- Put an order into its engine's queue; it keeps the trap enables of its issue (R315). -/
def Dev.newJob (s : Dev) (n : Nat) (j : Job) : Dev :=
  s.modStall n fun st => { st with
    ticket := st.ticket + 1,
    jobs := st.jobs ++ [{ j with ticket := st.ticket, issued := s.now, step := st.step, trapen := (s.stallCfg n).trapen }] }

/-! ## MMA (R75 to R78, R124, R133 to R135) -/

/-- Uses of a band, less one, of a pending epilogue. -/
def PendEpi.nuse (e : PendEpi) : Nat := if e.isProg then (phdr e.header).nuse else (ehdr e.header).nuse
/-- Whether a list has prologue stages other than OSCL (R133). -/
def PendEpi.hasPro (e : PendEpi) : Bool := !e.isProg && !(proStages e.words).isEmpty
/-- Whether the epilogue runs on the vector stages (R122). -/
def PendEpi.onVector (e : PendEpi) (cyclic : Bool) : Bool := e.isProg || !cyclic

/-- The vector entries that an MMA needs. -/
def Dev.mmaEntries (s : Dev) (n : Nat) (w : Nat) : Nat :=
  if (mmaOp w).epi then
    match (s.stall n).pendEpi with
    | some e => b2n e.hasPro + b2n (e.onVector (s.stallCfg n).cyclic)
    | none => 0
  else 0

/-- The issue of an MMA. -/
def mmaIssue (n pc w : Nat) (s : Dev) : Dev :=
  let o := mmaOp w
  let st := s.stall n
  let word := BitVec.ofNat 64 w
  if o.afmt = 0xF ∨ o.bfmt = 0xF then s.illegal n pc
  else if !o.epi then
    s.newJob n { eng := .matrix, op := .mma, word := word, pc := pc, rdAbc := o.abc, wr := o.dTiles }
  else match st.pendEpi with
    | none => s.illegal n pc
    | some e =>
      let (u, b) := st.uses.get e.line
      let next := if u ≥ e.nuse then (0, b + 1) else (u + 1, b)
      let s := s.modStall n fun x => { x with pendEpi := none, uses := x.uses.set e.line next }
      let mt := st.ticket + b2n e.hasPro
      let base : Job := { word := word, pc := pc, epi := some e, useU := u, useB := b, link := mt }
      let s := s.iff e.hasPro fun s =>
        s.newJob n { base with eng := .vector, op := .prologue, rd := [o.at_, e.aux1, e.aux2], wr := [o.at_] }
      let s := s.newJob n { base with eng := .matrix, op := .mma, rd := [e.aux1, e.aux2], rdAbc := o.abc,
                                      wr := o.dTiles ++ if e.isProg then [] else xtTiles e.words }
      s.iff (e.onVector (s.stallCfg n).cyclic) fun s => s.newJob n { base with eng := .vector, op := .epiPasses }
/-- MMA (R75). -/
def mma (n : Nat) (s : Dev) : Dev :=
  s.issue n 0x10 (fun st w => decide (1 ≤ st.room .matrix) && decide (s.mmaEntries n w ≤ st.room .vector)) (mmaIssue n)
def execMma (n : Nat) (s : State) : Host.Outcome State Fault Refusal := s.actOn (decide (n < 2304)) (mma n)

/-! ## VEC, VEC.PROG, EPI, EPI.PROG (R79, R80, R108, R109, R121, R123) -/

/-- The issue of a vector order: the descriptor and the program are latched (R121). A reserved rounding mode is an illegal order
(R40). -/
def vecIssue (isProg : Bool) (n pc w : Nat) (s : Dev) : Dev :=
  let o := vecOrder w
  let sh := s.shelf (n / 4)
  let desc := sh.cfgLines o.desc 3
  let d := vdesc desc
  let (rd, wr) := vecTiles o d
  if rmodeBad o.rmode then s.illegal n pc
  else
    s.newJob n { eng := .vector, op := if isProg then .vecProg else .vec, word := BitVec.ofNat 64 w, pc := pc, desc := desc,
                 prog := if isProg then sh.cfgLines d.prog 7 else [], rd := rd, wr := wr }
/-- VEC (R108). -/
def vec (n : Nat) (s : Dev) : Dev := s.issue n 0x20 (fun st _ => decide (1 ≤ st.room .vector)) (vecIssue false n)
def execVec (n : Nat) (s : State) : Host.Outcome State Fault Refusal := s.actOn (decide (n < 2304)) (vec n)
/-- VEC.PROG (R109). -/
def vecProg (n : Nat) (s : Dev) : Dev := s.issue n 0x21 (fun st _ => decide (1 ≤ st.room .vector)) (vecIssue true n)
def execVecProg (n : Nat) (s : State) : Host.Outcome State Fault Refusal := s.actOn (decide (n < 2304)) (vecProg n)

/-- The copy that EPI takes of a stage list, and EPI.PROG of a program-form epilogue (R80, R123). -/
def epiCopy (sh : Shelf) (isProg : Bool) (pc w : Nat) : PendEpi :=
  let o := epiOrder w
  let header := sh.cfgLines o.list 1
  let nst := (ehdr header).nst
  let body := sh.cfgLines (o.list + 1) ((nst + 3) / 4)
  { isProg := isProg, line := o.list, header := header,
    stages := if isProg then [] else (List.range nst).map fun i => BitVec.ofNat 64 (fld body (8 * i) 8),
    prog := if isProg then sh.cfgLines (o.list + 1) 7 else [],
    aux1 := o.aux1, aux2 := o.aux2, rmode := o.rmode, nonsat := o.nonsat, pc := pc }

/-- The issue of EPI or EPI.PROG: with an epilogue already pending (R80) or a reserved rounding mode (R40), an illegal order. -/
def epiIssue (isProg : Bool) (n pc w : Nat) (s : Dev) : Dev :=
  if (s.stall n).pendEpi.isSome || rmodeBad (epiOrder w).rmode then s.illegal n pc
  else s.modStall n fun x => { x with pendEpi := some (epiCopy (s.shelf (n / 4)) isProg pc w) }
/-- EPI (R80). -/
def epi (n : Nat) (s : Dev) : Dev := s.issue n 0x30 (fun _ _ => true) (epiIssue false n)
def execEpi (n : Nat) (s : State) : Host.Outcome State Fault Refusal := s.actOn (decide (n < 2304)) (epi n)
/-- EPI.PROG (R80). -/
def epiProg (n : Nat) (s : Dev) : Dev := s.issue n 0x31 (fun _ _ => true) (epiIssue true n)
def execEpiProg (n : Nat) (s : State) : Host.Outcome State Fault Refusal := s.actOn (decide (n < 2304)) (epiProg n)

/-! ## Moves (R81, R82) -/

/-- The issue of MOV.LD or MOV.ST. -/
def movIssue (op : JobOp) (n pc w : Nat) (s : Dev) : Dev :=
  let o := movOrder w
  if o.fmt = 0xF then s.illegal n pc
  else s.newJob n { eng := .move, op := op, word := BitVec.ofNat 64 w, pc := pc,
                    rd := if op = .movSt then o.tiles else [], wr := if op = .movLd then o.tiles else [] }
/-- MOV.LD (R81). -/
def movLd (n : Nat) (s : Dev) : Dev := s.issue n 0x40 (fun st _ => decide (1 ≤ st.room .move)) (movIssue .movLd n)
def execMovLd (n : Nat) (s : State) : Host.Outcome State Fault Refusal := s.actOn (decide (n < 2304)) (movLd n)
/-- MOV.ST (R81). -/
def movSt (n : Nat) (s : Dev) : Dev := s.issue n 0x41 (fun st _ => decide (1 ≤ st.room .move)) (movIssue .movSt n)
def execMovSt (n : Nat) (s : State) : Host.Outcome State Fault Refusal := s.actOn (decide (n < 2304)) (movSt n)
/-- MOV.ZERO (R82). -/
def movZero (n : Nat) (s : Dev) : Dev :=
  s.issue n 0x42 (fun st _ => decide (1 ≤ st.room .move)) fun pc w s =>
    s.newJob n { eng := .move, op := .movZero, word := BitVec.ofNat 64 w, pc := pc, wr := [movDst w] }
def execMovZero (n : Nat) (s : State) : Host.Outcome State Fault Refusal := s.actOn (decide (n < 2304)) (movZero n)
/-- MOV.TT (R82). -/
def movTt (n : Nat) (s : Dev) : Dev :=
  s.issue n 0x43 (fun st _ => decide (1 ≤ st.room .move)) fun pc w s =>
    s.newJob n { eng := .move, op := .movTt, word := BitVec.ofNat 64 w, pc := pc, rd := [movSrc w], wr := [movDst w] }
def execMovTt (n : Nat) (s : State) : Host.Outcome State Fault Refusal := s.actOn (decide (n < 2304)) (movTt n)

/-! ## Messages (R83, R87, R88) -/

/-- SEND (R83). -/
def send (n : Nat) (s : Dev) : Dev :=
  s.issue n 0x50 (fun st _ => decide (1 ≤ st.room .runner)) fun pc w s =>
    s.newJob n { eng := .runner, op := .send, word := BitVec.ofNat 64 w, pc := pc, rd := [(sendOrder w).tile] }
def execSend (n : Nat) (s : State) : Host.Outcome State Fault Refusal := s.actOn (decide (n < 2304)) (send n)

/-- Whether a RECV of queue q may issue: a message is there that no earlier RECV is to take, written in an earlier cycle
(R65, R88). -/
def Stall.recvReady (st : Stall) (now q : Nat) : Bool :=
  let earlier := (st.jobs.filter fun j => j.op == .recv && (j.phase == .queued || j.phase == .reading)
    && (recvOrder j.word.toNat).queue == q).length
  match (st.queues.get q).msgs[earlier]? with
  | some m => decide (m.at_ < now)
  | none => false
/-- RECV (R87). -/
def recv (n : Nat) (s : Dev) : Dev :=
  s.issue n 0x60 (fun st w => decide (1 ≤ st.room .runner) && st.recvReady s.now (recvOrder w).queue) fun pc w s =>
    s.newJob n { eng := .runner, op := .recv, word := BitVec.ofNat 64 w, pc := pc, wr := [(recvOrder w).tile] }
def execRecv (n : Nat) (s : State) : Host.Outcome State Fault Refusal := s.actOn (decide (n < 2304)) (recv n)

/-! ## Waits, loops and the end (R89, R90) -/

/-- A member that reports ready late counts a late beat, and one that reaches its threshold raises DEGRADED (R207, R208). -/
def Dev.lateBeat (s : Dev) (n : Nat) : Dev := match s.lotOf (n / 4) with
  | none => s
  | some k =>
    let l := s.lot k
    if l.front.kind ≠ 1 ∨ s.now ≤ l.nextBeat - 8 then s
    else
      let c := l.front.ctx
      let s := s.bump 0x6000 n 2
      s.iff (s.ctr 0x6000 n 2 == l.beat.lateth) fun s =>
        s.ctxEvent c 0x03 [(32, 2, n), (36, 4, s.ctr 0x6000 n 2), (40, 8, s.ctr 0x6040 k 0)]
/-- WAIT.BEAT (R89): with every engine idle, the Stall reports ready. -/
def waitBeat (n : Nat) (s : Dev) : Dev :=
  s.issue n 0x70 (fun st _ => st.jobs.isEmpty) fun _ _ s =>
    (s.modStall n fun x => { x with ready := true, readyAt := s.now }).lateBeat n
def execWaitBeat (n : Nat) (s : State) : Host.Outcome State Fault Refusal := s.actOn (decide (n < 2304)) (waitBeat n)
/-- WAIT.IDLE (R89). -/
def waitIdle (n : Nat) (s : Dev) : Dev := s.issue n 0x71 (fun st _ => st.jobs.isEmpty) fun _ _ s => s
def execWaitIdle (n : Nat) (s : State) : Host.Outcome State Fault Refusal := s.actOn (decide (n < 2304)) (waitIdle n)
/-- LOOP (R67, R90). -/
def loop (n : Nat) (s : Dev) : Dev :=
  s.issue n 0x80 (fun _ _ => true) fun pc w s => s.modStall n fun x =>
    { x with loops := { first := pc + 1, last := loopEnd w, left := loopCount w } :: x.loops }
def execLoop (n : Nat) (s : State) : Host.Outcome State Fault Refusal := s.actOn (decide (n < 2304)) (loop n)
/-- END (R90): issue stops, and the PC stays. -/
def endOrder (n : Nat) (s : Dev) : Dev :=
  s.issue n 0x81 (fun _ _ => true) fun pc _ s => s.modStall n fun x => { x with ended := true, pc := pc }
def execEndOrder (n : Nat) (s : State) : Host.Outcome State Fault Refusal := s.actOn (decide (n < 2304)) (endOrder n)
/-- NOP (R71). -/
def nop (n : Nat) (s : Dev) : Dev := s.issue n 0x82 (fun _ _ => true) fun _ _ s => s
def execNop (n : Nat) (s : State) : Host.Outcome State Fault Refusal := s.actOn (decide (n < 2304)) (nop n)

/-! ## Bells (R91, R205) -/

/-- A ring that a switch point accepts sets the latches 12 cycles later (R205). -/
def Dev.ringLine (s : Dev) (line : Nat) : Dev := { s with bells := s.bells ++ [{ line := line, due := s.now + 12 }] }
/-- BELL.RING (R205). -/
def bellRing (n : Nat) (s : Dev) : Dev := s.issue n 0x90 (fun _ _ => true) fun _ w s => s.ringLine (bellLine w)
def execBellRing (n : Nat) (s : State) : Host.Outcome State Fault Refusal := s.actOn (decide (n < 2304)) (bellRing n)
/-- BELL.WAIT (R91): issues when its latch is set, and clears it. A ring that arrives in this cycle on a latch that was set before sets it
again after the clear. -/
def bellWait (n : Nat) (s : Dev) : Dev :=
  s.issue n 0x91 (fun st w => st.latch.getLsbD (bellLine w)) fun _ w s =>
    let mark : BitVec 32 := BitVec.ofNat 32 (2 ^ bellLine w)
    s.modStall n fun x => { x with latch := (x.latch &&& ~~~ mark) ||| (x.again &&& mark), again := x.again &&& ~~~ mark }
def execBellWait (n : Nat) (s : State) : Host.Outcome State Fault Refusal := s.actOn (decide (n < 2304)) (bellWait n)
/-- BELL.REMOTE (R91): a BELL packet to another device (R251); the own number rings locally (R249). -/
def bellRemote (n : Nat) (s : Dev) : Dev :=
  s.issue n 0x92 (fun _ _ => true) fun _ w s =>
    if bellDev w = s.elveel.devnum then s.ringLine (bellLine w)
    else s.request { op := 0x08, ddev := bellDev w, aux := bellLine w, flow := n % 256 } .none
def execBellRemote (n : Nat) (s : State) : Host.Outcome State Fault Refusal := s.actOn (decide (n < 2304)) (bellRemote n)

/-! ## The status word (R69) -/

/-- STATE of the status word: why the next order does not issue. -/
def Dev.seqState (s : Dev) (n : Nat) : Nat :=
  let st := s.stall n
  let w := s.orderAt n
  let op := orderOp w
  let eng := match op / 16 with
    | 1 => some Eng.matrix
    | 2 => some .vector
    | 4 => some .move
    | 5 => some .runner
    | 6 => some .runner
    | _ => none
  if st.seq = .faulted then 7
  else if st.seq = .stopped ∨ st.ended then 0
  else if st.ready then 5
  else if (match eng with
    | some e => st.room e == 0
    | none => false) then 3
  else if op = 0x10 ∧ s.mmaEntries n w > st.room .vector then 3
  else if orderSync w ∧ !st.jobs.isEmpty then 2
  else if op = 0x60 ∧ !st.recvReady s.now (recvOrder w).queue then 4
  else if (op = 0x70 ∨ op = 0x71) ∧ !st.jobs.isEmpty then 5
  else if op = 0x91 ∧ !st.latch.getLsbD (bellLine w) then 6
  else 1

/-- The Stall status word (R69). -/
def Dev.seqWord (s : Dev) (n : Nat) : Nat :=
  let st := s.stall n
  let busy (e : Eng) : Nat := b2n (st.jobs.any fun j => j.eng == e)
  st.pc + 2 ^ 12 * s.seqState n + 2 ^ 15 * st.loops.length + 2 ^ 18 * busy .matrix + 2 ^ 19 * busy .vector
    + 2 ^ 20 * busy .move + 2 ^ 21 * busy .runner

end Sys2Proof.Machine
end

