-- ==== Sys2Proof/Machine/Complete.lean ====
section
/-! DEFINITION. How the engines' work ends (R77, R81, R120, R132, R198) and the waits that end in a fault (R88, R91, R134, R137,
R204). A completion is taken from its cycle on. -/
namespace Sys2Proof.Machine

/-- CHEST_GRANT (R154): the generator rows of this cycle become pending (R162), the Chest grants, and the paired Stall goes on with what it
was granted. -/
def execChestGrant (c : Nat) (codes : List ErrMark) (s : State) : Host.Outcome State Fault Refusal :=
  s.actOn (decide (c < 2304)) fun s => (chestGrant c codes (s.askRows c)).kick c

/-- Run a completion on the first job of Stall n that satisfies p, when there is one; the engines then start what they can. -/
def Dev.complete (s : Dev) (n : Nat) (p : Job → Bool) (f : Job → Dev → Dev) : Dev :=
  match (s.stall n).jobs.find? p with
  | none => s
  | some j => (f j s).kick n

/-! ## Products (R77, R78) -/

/-- The bytes of D that an MMA without an epilogue writes (R73, R75). -/
def Job.dWrites (j : Job) : List BWrite :=
  let o := mmaOp j.word.toNat
  j.acc.zipIdx.flatMap fun p => writePieces p.1 (elemPieces true o.dt o.accFmt p.2)

/-- The accumulator tile of an MMA has drained (R77): D is written, or the tile enters the epilogue path, or it waits for the
vector stages (R122). -/
def drainJob (n : Nat) (residueOk : Bool) (j : Job) (s : Dev) : Dev :=
  if !residueOk then s.residue n j.pc
  else match j.epi with
    | none =>
      let s := (s.commitTiles n { j with outTiles := j.dWrites }).dropJob n j.ticket
      s.setFlags n j.pc j.trapen j.flags.toNat
    | some e =>
      if e.onVector (s.stallCfg n).cyclic then s.modJob n j.ticket fun k => { k with phase := .done }
      else s.startEpi n j (j.occEnd + 14 + epiLatency e.words (j.useU == e.nuse))
/-- MMA_DRAIN_COMPLETE (R77). A tile that the epilogue path holds delays the array's next drain (R137). -/
def mmaDrainComplete (n : Nat) (residueOk : Bool) (s : Dev) : Dev :=
  s.complete n (fun j => j.op == .mma && j.phase == .running && decide (j.due ≤ s.now) && !(j.scales && j.need != 0)
      && !(s.stall n).holds) (drainJob n residueOk)
def execMmaDrainComplete (n : Nat) (residueOk : Bool) (s : State) : Host.Outcome State Fault Refusal :=
  s.actOn (decide (n < 2304)) (mmaDrainComplete n residueOk)

/-! ## Epilogues (R132, R134, R135, R142) -/

/-- Whether a use has finished its stages, its rows and its writes (R132), by now. -/
def Job.epiDone (j : Job) : Bool := j.phase == .epiWriting && j.need == 0 && j.sends.isEmpty && j.stores.isEmpty

/-- Put a vector job before the vector orders that issued in this cycle and have not started. -/
def settleFirst (j : Job) (now : Nat) : List Job → List Job
  | [] => [j]
  | x :: r => if x.eng == .vector && x.phase == .queued && x.issued == now then j :: x :: r else x :: settleFirst j now r

/-- The settle pass (R142): a launch of a descriptor line, with zero tile fields, as if it had issued in this cycle, before every other
vector order of the cycle. -/
def Dev.settlePass (s : Dev) (n line pc : Nat) : Dev :=
  let sh := s.shelf (n / 4)
  let desc := sh.cfgLines line 3
  s.modStall n fun st => { st with
    ticket := st.ticket + 1,
    jobs := settleFirst { ticket := st.ticket, issued := s.now, step := st.step, trapen := (s.stallCfg n).trapen, eng := .vector,
                          op := .vecProg, pc := pc, desc := desc, prog := sh.cfgLines (vdesc desc).prog 7 } s.now st.jobs }

/-- Whether the residue check covers something of an epilogue (R59, R149). -/
def PendEpi.checked (e : PendEpi) : Bool :=
  if e.isProg then opsChecked (progStages e.prog) else listChecked (epiStages e.words)

/-- A use of an epilogue completes: DT, XT and the sidecars become readable all at once, the flags join, the MMA and its implicit
launch leave their engines, and its settle passes issue in list order. -/
def epiJob (n : Nat) (residueOk : Bool) (j : Job) (s : Dev) : Dev :=
  if !residueOk && (j.epi.any PendEpi.checked) then s.residue n j.pc
  else
    let m := (s.job n j.link).getD j
    let s := s.commitTiles n j
    let s := (s.dropJob n j.ticket).dropJob n m.ticket
    let s := j.settle.reverse.foldl (fun s line => s.settlePass n line j.pc) s
    s.setFlags n j.pc m.trapen (j.flags ||| m.flags).toNat
/-- EPILOGUE_COMPLETE (R132). -/
def epilogueComplete (n : Nat) (residueOk : Bool) (s : Dev) : Dev :=
  s.complete n (fun j => (j.op == .mma || j.op == .epiPasses) && j.epiDone && decide (j.due ≤ s.now) && decide (j.occEnd ≤ s.now))
    (epiJob n residueOk)
def execEpilogueComplete (n : Nat) (residueOk : Bool) (s : State) : Host.Outcome State Fault Refusal :=
  s.actOn (decide (n < 2304)) (epilogueComplete n residueOk)

/-- Whether a cyclic program-form epilogue has passed its declared latency unfinished (R134). -/
def Dev.epiIsLate (s : Dev) (n : Nat) (j : Job) : Bool := match j.epi with
  | some e =>
    let m := (s.job n j.link).getD j
    let due := m.occEnd + 14 + (phdr e.header).dlat
    e.isProg && (s.stallCfg n).cyclic && j.op == .epiPasses && (m.phase == .done || m.phase == .running)
      && decide (0 < m.start) && decide (due ≤ s.now) && !(j.epiDone && decide (j.occEnd ≤ due))
  | none => false
/-- EPI_LATE (R134). -/
def epiLate (n : Nat) (s : Dev) : Dev := s.complete n (s.epiIsLate n) fun j s => s.hang n 0x0009 j.pc
def execEpiLate (n : Nat) (s : State) : Host.Outcome State Fault Refusal := s.actOn (decide (n < 2304)) (epiLate n)

/-- EPI_SEND_TIMEOUT (R137): a row has waited for its path longer than the send-stall timeout. -/
def epiSendTimeout (n : Nat) (s : Dev) : Dev :=
  s.complete n (fun j => j.phase == .epiWriting && !j.sends.isEmpty && decide (j.since + j.limit < s.now))
    fun j s => s.faultStall n 0x000A j.pc
def execEpiSendTimeout (n : Nat) (s : State) : Host.Outcome State Fault Refusal :=
  s.actOn (decide (n < 2304)) (epiSendTimeout n)

/-! ## Vector launches (R115, R120, R133) -/

/-- Whether the residue check covers something of a launch (R59): an explicit one, a settle pass or a prologue. -/
def Dev.launchChecked (s : Dev) (n : Nat) (j : Job) : Bool := match j.op, j.epi with
  | .prologue, some e => listChecked (proStages e.words)
  | _, _ => opsChecked (s.launchOf n j).stages

/-- A launch completes. -/
def launchJob (n : Nat) (residueOk : Bool) (j : Job) (s : Dev) : Dev :=
  if !residueOk && s.launchChecked n j then s.residue n j.pc
  else
    let s := (s.commitTiles n j).dropJob n j.ticket
    s.setFlags n j.pc j.trapen j.flags.toNat
/-- Whether a launch is over (R120, R155): its last vector's latency has passed, and so has what its last Chest writes came late. -/
def Job.launchDone (j : Job) (now : Nat) : Bool :=
  let late := if j.op != .prologue && (vdesc j.desc).loco == 2 then j.lastGrant - j.askAt else 0
  j.phase == .writing && j.need == 0 && decide (j.due + late ≤ now)
/-- VECTOR_LAUNCH_COMPLETE (R120). -/
def vectorLaunchComplete (n : Nat) (residueOk : Bool) (s : Dev) : Dev :=
  s.complete n (fun j => (j.op == .vec || j.op == .vecProg || j.op == .prologue) && j.launchDone s.now)
    (launchJob n residueOk)
def execVectorLaunchComplete (n : Nat) (residueOk : Bool) (s : State) : Host.Outcome State Fault Refusal :=
  s.actOn (decide (n < 2304)) (vectorLaunchComplete n residueOk)

/-! ## Moves (R81, R82) -/

/-- MOVE_COMPLETE (R81): what a move has moved is readable. -/
def moveComplete (n : Nat) (s : Dev) : Dev :=
  s.complete n (fun j => j.eng == .move && j.phase == .writing && decide (j.due ≤ s.now))
    fun j s => (s.commitTiles n j).dropJob n j.ticket
def execMoveComplete (n : Nat) (s : State) : Host.Outcome State Fault Refusal := s.actOn (decide (n < 2304)) (moveComplete n)

/-! ## Messages (R83, R198, R204, R88) and bells (R91) -/

/-- Word of a tag's counter k in a Stall's record (R451): 0 sent, 1 blocked, 2 to 6 the event kinds. -/
def tagWord (tag k : Nat) : Nat := 4 + 7 * tag + k

/-- Whether a SEND waits for acceptance. -/
def Job.sending (j : Job) : Bool := j.op == .send && j.phase == .handing

/-- SEND_ACCEPT (R198): the packet enters the injection buffer when it has room, and the SEND completes. -/
def sendAccept (n : Nat) (s : Dev) : Dev :=
  s.complete n (fun j => j.sending && decide ((s.stall n).inj.length < 4)) fun j s =>
    let p := s.sendPkt n j.word.toNat
    let s := s.modStall n fun x => { x with inj := x.inj ++ [{ p with at_ := s.now }] }
    (s.dropJob n j.ticket).bump 0x6000 n (tagWord p.tag 0)
def execSendAccept (n : Nat) (s : State) : Host.Outcome State Fault Refusal := s.actOn (decide (n < 2304)) (sendAccept n)

/-- The message at the head of the ejection buffer that has held its head longest: Stall, queue and tag, of the device's Stalls whose
buffers are full or whose head waits for a full queue (R204). -/
def Dev.longestHead (s : Dev) : Option (Nat × Nat × Nat) :=
  let heads := s.stalls.filterMap fun p => match p.2.ej with
    | [] => none
    | q :: _ => some (q.at_, p.1, q.queue.getD (p.2.tagMap.get q.tag % 16), q.tag)
  match heads with
  | [] => none
  | h :: r => some (r.foldl (fun a b => if b.1 < a.1 then b else a) h).2

/-- SEND_TIMEOUT (R204): the event names the Stall, the tag and the destination, and for a destination on this device the head of the
ejection buffer that held the packet. Which buffer that is the rule takes from the packet's route: where the packet has not left, the
model names the head of the destination's buffer, or of the one that has held its head longest (notes/assumptions/63.md). -/
def Dev.sendName (s : Dev) (n w : Nat) : FaultName :=
  let p := s.sendPkt n w
  let own := p.ddev == 0x3FFF || p.ddev == s.elveel.devnum
  let here := match (s.stall p.dunit).ej with
    | q :: _ => some (p.dunit, q.queue.getD ((s.stall p.dunit).tagMap.get q.tag % 16), q.tag)
    | [] => s.longestHead
  .send p.tag p.ddev p.dunit (if own then here else none)

/-- SEND_TIMEOUT (R204). -/
def sendTimeout (n : Nat) (s : Dev) : Dev :=
  s.complete n (fun j => j.sending && decide (j.since + j.limit < s.now)) fun j s => s.hang n 0x0007 j.pc (s.sendName n j.word.toNat)
def execSendTimeout (n : Nat) (s : State) : Host.Outcome State Fault Refusal := s.actOn (decide (n < 2304)) (sendTimeout n)

/-- Whether the sequencer is held at the order op longer than the send-stall timeout. -/
def Dev.heldTooLong (s : Dev) (n op : Nat) : Bool :=
  let st := s.stall n
  st.seq == .running && orderOp (s.orderAt n) == op && (match st.holdSince with
    | some t => decide (t + st.holdLimit < s.now)
    | none => false)

/-- RECV_TIMEOUT (R88): of a RECV that holds issue, or of one that has started and waits in the runner engine. -/
def recvTimeout (n : Nat) (s : Dev) : Dev :=
  let name (w : Nat) : FaultName := .queue (recvOrder w).queue
  if s.heldTooLong n 0x60 then s.hang n 0x0005 (s.stall n).pc (name (s.orderAt n))
  else s.complete n (fun j => j.op == .recv && j.phase == .reading && decide (j.since + j.limit < s.now))
    fun j s => s.hang n 0x0005 j.pc (name j.word.toNat)
def execRecvTimeout (n : Nat) (s : State) : Host.Outcome State Fault Refusal := s.actOn (decide (n < 2304)) (recvTimeout n)

/-- BELL_TIMEOUT (R91). -/
def bellTimeout (n : Nat) (s : Dev) : Dev := s.iff (s.heldTooLong n 0x91) fun s =>
  s.hang n 0x0006 (s.stall n).pc (.line (bellLine (s.orderAt n)))
def execBellTimeout (n : Nat) (s : State) : Host.Outcome State Fault Refusal := s.actOn (decide (n < 2304)) (bellTimeout n)

/-! ## What each cycle does in a Stall -/

/-- The sequencer holds in this cycle: the start of the hold is kept, with the timeout then in force (R315). -/
def Stall.hold (x : Stall) (now limit : Nat) : Stall := match x.holdSince with
  | some _ => x
  | none => { x with holdSince := some now, holdLimit := limit }

/-- The sequencer's hold at a RECV or a BELL.WAIT in this cycle (R65, R88, R91): its start is kept, and a RECV's wait counted. -/
def Dev.holdTick (s : Dev) (n : Nat) : Dev :=
  let st := s.stall n
  if st.seq = .running ∧ st.ended = false ∧ st.ready = false then
    match s.seqState n with
    | 4 => (s.modStall n fun x => x.hold s.now (s.sstoOf (n / 4))).bump 0x6010 n (3 * (recvOrder (s.orderAt n)).queue + 2)
    | 6 => s.modStall n fun x => x.hold s.now (s.sstoOf (n / 4))
    | _ => if st.holdSince.isSome then s.modStall n fun x => { x with holdSince := none } else s
  else s

/-- The waits of a Stall's issued orders in this cycle: interlock holds (R66), epilogue holds (R137), blocked SENDs (R204) and RECVs
that wait in the runner engine (R88). -/
def Dev.jobTick (s : Dev) (n : Nat) : Dev :=
  let st := s.stall n
  let heads := [Eng.matrix, .vector, .move, .runner].filterMap fun e => st.jobs.find? fun j => j.eng == e && j.phase == .queued
  let s := s.iff (heads.any fun j => st.engineFree s.now j.eng && st.blocked s.now j) fun s => s.bump 0x6000 n 0
  st.jobs.foldl (fun s j =>
    let s := s.iff (j.phase == .epiWriting && !j.sends.isEmpty) fun s => s.bump 0x6000 n 1
    let s := s.iff j.sending fun s => s.bump 0x6000 n (tagWord (sendOrder j.word.toNat).tag 1)
    s.iff (j.op == .recv && j.phase == .reading) fun s => s.bump 0x6010 n (3 * (recvOrder j.word.toNat).queue + 2)) s

/-- One cycle of a Stall whose block's clock runs: its waits are counted; a sequencer whose PC lies beyond its region faults (R64). -/
def Dev.stallTick (s : Dev) (n : Nat) : Dev :=
  let st := s.stall n
  if (s.block (n / 4)).island ≠ .run ∨ (st.seq ≠ .running ∧ st.jobs.isEmpty) then s
  else
    let s := ((s.holdTick n).jobTick n).askRows n
    if st.seq = .running ∧ st.ended = false ∧ st.ready = false ∧ st.len ≤ st.pc ∧ st.beatStart ≤ s.now then s.illegal n st.pc
    else s

end Sys2Proof.Machine
end

