-- ==== Sys2Proof/Machine/Memory.lean ====
section
/-! DEFINITION. Transfers (R226 to R230, R244) and the slices (R220 to R237): how an instance starts, issues and completes, and
how a slice performs a read, a write, an atomic, a line add and a patrol read. -/
namespace Sys2Proof.Machine

/-! ## Instances (R229) -/

/-- Whether descriptor d of a block has been triggered in this cycle. -/
def Xfer.justFired (x : Xfer) (d now : Nat) : Bool :=
  (x.timedQ ++ x.bulkQ).any fun i => i.didx == d && i.trigAt == now && !i.preload

/-- Put a new instance into its queue: a full queue faults the context with TRANSFER_OVERRUN (R229). -/
def Dev.newInst (s : Dev) (b didx : Nat) (desc : Bytes) (ctx : Nat) : Dev :=
  let d := xferD desc
  let x := (s.block b).xfer
  let full := if d.timed then x.timedQ.length ≥ 8 else x.bulkQ.length ≥ 8
  if full then s.faultCtx ctx 0x000D (0x1000 + 4 * b + d.chest) didx
  else
    let (id, s) := s.fresh
    let i : XInst := { id := id, didx := didx, desc := desc, eff := effStamp d.stamp (s.beatB b), ctx := ctx, trigAt := s.now }
    (s.rouse b).modXfer b fun y => if d.timed then { y with timedQ := y.timedQ ++ [i] } else { y with bulkQ := y.bulkQ ++ [i] }

/-- The latch of a bell line fires every TRIG 01 descriptor of the front shelf that names the line, in descriptor order, and clears; a ring
that arrives in this cycle on a latch that was set before sets it again (R91, R229). -/
def Dev.fireLine (s : Dev) (b line c : Nat) : Dev :=
  let mark : BitVec 32 := BitVec.ofNat 32 (2 ^ line)
  let s := s.modXfer b fun y => { y with latch := (y.latch &&& ~~~ mark) ||| (y.again &&& mark), again := y.again &&& ~~~ mark }
  (s.shelf b).transfers.zipIdx.foldl (fun s p =>
    let d := xferD p.1
    s.iff (d.trig == 1 && bits d.targ 4 0 == line) fun s => s.newInst b p.2 p.1 c) s

/-- A front descriptor's trigger (R229): its beat turn, its bell latch, or the task start of its Stall. -/
def frontTrigger (b didx : Nat) (s : Dev) : Dev :=
  match (s.shelf b).transfers[didx]?, s.lotOf b, s.frontOf b with
  | some desc, some l, some c =>
    let d := xferD desc
    let x := (s.block b).xfer
    let beat := (s.lot l).beat
    let st := s.stall (4 * b + d.chest)
    if x.justFired didx s.now then s
    else match d.trig with
      | 0 => s.iff (beat.active && s.now == beat.start + 8 * d.targ) fun s => s.newInst b didx desc c
      | 1 =>
        let line := bits d.targ 4 0
        s.iff (x.latch.getLsbD line) fun s => s.fireLine b line c
      | 2 => s.iff (st.task.isSome && st.beatStart == s.now) fun s => s.newInst b didx desc c
      | _ => s
  | _, _, _ => s

/-- A preload of the back shelf enters the bulk queue when it is next and the queue has room (R229, R247): its effective stamp is
the code itself. -/
def preloadTrigger (b didx : Nat) (s : Dev) : Dev :=
  let x := (s.block b).xfer
  match x.preWait, (s.backShelf b).transfers[didx]?, s.lotOf b with
  | q :: r, some desc, some l =>
    if q = didx ∧ x.bulkQ.length < 8 then
      let (id, s) := (s.rouse b).fresh
      let i : XInst := { id := id, didx := didx, desc := desc, eff := (xferD desc).stamp, ctx := (s.lot l).back.ctx,
                         preload := true, trigAt := s.now }
      s.modXfer b fun y => { y with preWait := r, bulkQ := y.bulkQ ++ [i] }
    else s
  | _, _, _ => s

/-- TRANSFER_TRIGGER (R229): descriptors 0 to 15 of the front shelf, and 16 + d for descriptor d of the back shelf. An instance starts the
clock of a block in IDLE (DEDUCED, notes/assumptions/62.md). -/
def transferTrigger (b d : Nat) (s : Dev) : Dev :=
  if !(s.block b).awake then s
  else if d < 16 then frontTrigger b d s
  else preloadTrigger b (d - 16) s
def execTransferTrigger (b d : Nat) (s : State) : Host.Outcome State Fault Refusal :=
  s.actOn (decide (b < 576) && decide (d < 32)) (transferTrigger b d)

/-- Line k of an instance is issued (R229): a read goes to the Concourse, a write or line add first reads its Chest row. -/
def Dev.issueNext (s : Dev) (b : Nat) (i : XInst) : Dev :=
  let d := xferD i.desc
  let k := i.next
  let s := s.modInst b i.id fun j => { j with next := k + 1, lastIssue := s.now + 1, isPending := false, missAt := none }
  match s.lineTarget b i k with
  | none => s.lineReply b i.id k stPoolInvalid 0
  | some a =>
    if d.dir = 0 then s.issueLine b i k a []
    else
      let c := 4 * b + d.chest
      let (u, s) := s.newUnit c { stamped := true, code := d.stamp, eff := some i.eff, release := d.release, left := 1,
                                  ctx := some i.ctx }
      s.pushReq c pCrd { row := d.lineRow k, unit := u, sink := .xferRead b i.id k a, since := s.now }

/-- A translation miss reads the page map entry in the instance's class, as a request of the block's port to the entry's slice (R244);
while a commit of the context changes the maps, it waits. -/
def Dev.translate (s : Dev) (b : Nat) (i : XInst) : Dev :=
  let d := xferD i.desc
  if i.reading ∨ s.pool.busy.any fun x => x.2.2 == i.ctx then s
  else match s.poolD i.ctx, d.pooledRef i.next with
    | some p, some (slot, page, _) =>
      let s := (s.modInst b i.id fun j => { j with lastIssue := s.now + 1, isPending := true, reading := true, missAt := some s.now }).bump
        0x6030 b 66
      s.cReq { id := 0, src := .trans b i.id (transKey i.ctx slot page), kind := .read, off := p.entryAt slot page, len := 8,
               timed := d.timed && !i.preload, port := b, cls := .fw }
    | _, _ => s

/-- The reply of a page map entry's read (R244): it enters the 64-entry cache, which drops its lowest entry for it. An entry of a page that
moves is not kept, and is read again. A read that fails gives the line its status (R235). -/
def Dev.transReply (s : Dev) (b id key st : Nat) (data : Bytes) : Dev :=
  match s.xinst b id with
  | none => s
  | some i =>
    let s := s.modInst b id fun j => { j with reading := false }
    if st ≠ 0 then
      (s.modInst b id fun j => { j with next := i.next + 1, isPending := false, missAt := none }).lineReply b id i.next st 0
    else
      let e := BitVec.ofNat 64 (leVal data)
      if e.getLsbD 2 ∨ s.pool.busy.any fun x => x.2.2 == i.ctx then s
      else s.modXfer b fun y =>
        let t := y.tcache.set key (some e)
        { y with tcache := if 64 < t.length then (dropFirst (fun p => p.1 != key) t) else t }

/-- TRANSFER_LINE_ISSUE (R229): the first instance of a class queue with lines left issues one, at most one line of the queue per
cycle. A pooled line whose translation misses reads the entry first; one whose page moves waits. -/
def transferLineIssue (b : Nat) (timed : Bool) (s : Dev) : Dev :=
  let x := (s.block b).xfer
  let q := if timed then x.timedQ else x.bulkQ
  if (s.block b).island ≠ .run ∨ s.engineTested 10 b ∨ q.any fun i => i.lastIssue == s.now + 1 then s
  else match q.find? fun i => !i.stopped && decide (i.next < (xferD i.desc).lines) with
    | none => s
    | some i =>
      let d := xferD i.desc
      if d.pooled ∧ s.pooledLine b i.ctx d i.next = .moving then s.translate b i
      else s.issueNext b i
/-- The transfer engine of a block meets a parity error (R454): UNIT is the block, FUNIT its first Chest. -/
def xferParity (b : Nat) (s : Dev) : Dev :=
  let x := (s.block b).xfer
  if !s.lit ∨ (s.block b).island ≠ .run then s
  else s.engineParity 10 b (0x1000 + 4 * b) ((x.timedQ ++ x.bulkQ).map fun i => i.ctx)
def execTransferLineIssue (b : EngineTurn) (timed : Bool) (s : State) : Host.Outcome State Fault Refusal :=
  s.actOn (decide (b.at_ < 576)) (if b.parity then xferParity b.at_ else transferLineIssue b.at_ timed)

/-- Whether every line of an instance has its reply. -/
def XInst.over (i : XInst) : Bool := i.replies == if i.stopped then i.next else (xferD i.desc).lines

/-- TRANSFER_INSTANCE_COMPLETE (R229): the entry frees, DLINE rings, and the flags of line adds join the summary (R234). -/
def transferInstanceComplete (b id : Nat) (s : Dev) : Dev :=
  match s.xinst b id with
  | none => s
  | some i =>
    if !i.over then s
    else
      let d := xferD i.desc
      let s := s.modXfer b fun y => { y with timedQ := dropFirst (fun j => j.id = id) y.timedQ,
                                             bulkQ := dropFirst (fun j => j.id = id) y.bulkQ }
      let s := s.iff (i.flags != 0) fun s => s.joinSummary i.ctx i.flags
      s.iff (d.doneb && !i.stopped) fun s => s.ringLine d.dline
def execTransferInstanceComplete (b id : Nat) (s : State) : Host.Outcome State Fault Refusal :=
  s.actOn (decide (b < 576)) (transferInstanceComplete b id)

/-! ## Arrival (R215, R216, R221, R222, R231) -/

/-- The region that a request finds at an offset (R215, R216). -/
def Dev.target (s : Dev) (r : CReq) : Region := match region s.conc.lpGiB r.off with
  | .system => if r.cls = .mgmt ∨ r.cls = .fw then .hbm else .unmapped
  | x => x

/-- Where a request goes: its slice, LPDDR5X slice k as 128 + k, or 160 + b for a Chest window of block b; none for an offset that is not
mapped. -/
def Dev.pointOf (s : Dev) (r : CReq) : Option Nat := match s.target r with
  | .chest c _ => some (160 + c / 4)
  | .unmapped => none
  | _ => some (sliceOf r.off)

/-- Whether an earlier request of the same port to the same line has still to be performed (R231). -/
def Dev.queuedBehind (s : Dev) (r : CReq) : Bool :=
  s.conc.reqs.any fun q => q.port == r.port && decide (q.id < r.id) && q.off / 64 == r.off / 64 && q.status.isNone
/-- Whether a request stands before another in slice order (R231): it arrived earlier, or in the same cycle from a lower port. -/
def CReq.before (q r : CReq) : Bool :=
  decide (q.came < r.came) || q.came == r.came && (decide (q.port < r.port) || q.port == r.port && decide (q.id < r.id))
/-- Whether a request that has arrived at the same slice, and has not been performed, stands before r (R231). -/
def Dev.ahead (s : Dev) (r : CReq) : Bool :=
  s.conc.reqs.any fun q => q.stage == 2 && q.status.isNone && !q.arrived && s.pointOf q == s.pointOf r && q.before r
/-- The request with an id, when its slice or Chest window performs it next: it is of the kind, it has arrived, and nothing stands before
it in slice order or, of its port and line, has still to be performed. -/
def Dev.arrives (s : Dev) (id : Nat) (k : CKind) : Option CReq := match s.creq id with
  | none => none
  | some r => if r.kind = k ∧ r.status.isNone ∧ !r.arrived ∧ r.stage = 2 ∧ !s.queuedBehind r ∧ !s.ahead r then some r else none

/-- A request becomes a row request at a Chest window (R151, R159, R175). -/
def Dev.atChest (s : Dev) (r : CReq) (c byte_ : Nat) : Dev :=
  let s := s.rouse (c / 4)
  let row := byte_ / 64
  if s.chestIsOff c row then s.answer r.id stChestOff
  else
    let (u, s) := s.newUnit c { stamped := r.eff.isSome, eff := r.eff, hold := r.hold, release := r.release, left := 1 }
    let s := s.modReq r.id fun q => { q with arrived := true }
    let o := byte_ % 64
    if r.kind = .write then
      s.pushReq c pCwr { row := row, unit := u, isWrite := true, data := rowAt o r.data, mask := byteMask o r.len,
                         sink := .creq r.id, since := s.now, waitHeld := r.waitHeld }
    else s.pushReq c pCrd { row := row, unit := u, sink := .creq r.id, since := s.now }

/-- Count the accesses of the slice budget (R224): n timed accesses arrive at a slice now; a window of 420 cycles that exceeds the
budget counts once. -/
def Dev.budget (s : Dev) (sl n : Nat) (timed : Bool) : Dev :=
  s.iff timed fun s =>
    let l := ((s.conc.window.get sl : List Nat).filter fun t => s.now < t + 420) ++ List.replicate n s.now
    if l.length > (if sl < 128 then 96 else 32) then
      (s.modConc fun c => { c with window := c.window.set sl [] }).bumpSlice sl 5
    else s.modConc fun c => { c with window := c.window.set sl l }

/-! ## Arbitration (R217 to R219) -/

/-- Key of a block port's direction among the arbitration points: 0 toward the Concourse, 1 toward the block. -/
def portKey (b dir : Nat) : Nat := 1024 + 2 * b + dir

/-- The request that an arbitration point grants next (R219): VCs 0 and 3 go before the others, but after seven such grants in a row a
lower VC that waits is served; ports of equal priority take turns, from the one after the port served last; a port's oldest goes first. -/
def pickNext (turn : Nat × Nat) (l : List CReq) : Option CReq :=
  let hi := l.filter fun r => r.vc == 0
  let lo := l.filter fun r => r.vc != 0
  let pool := if hi.isEmpty || (decide (7 ≤ turn.1) && !lo.isEmpty) then lo else hi
  let turnsOff (r : CReq) : Nat := (r.port + 1024 - turn.2) % 1024
  pool.foldl (fun m r => match m with
    | none => some r
    | some x => if turnsOff r < turnsOff x then some r else m) none
/-- The grant of r from the waiting list l moves the point's turn (R219). -/
def Dev.granted (s : Dev) (p : Nat) (l : List CReq) (r : CReq) : Dev :=
  let t : Nat × Nat := s.conc.turns.get p
  s.modConc fun c => { c with turns := c.turns.set p (if r.vc == 0 && l.any (fun q => q.vc != 0) then t.1 + 1 else 0, r.port + 1) }
/-- Whether a block port's direction has not carried a data flit in this cycle: 64 bytes pass in a cycle (R217). -/
def Dev.dirFree (s : Dev) (k : Nat) : Bool := s.conc.sent.get k != s.now + 1
/-- A data flit passes a block port (R217, R248). -/
def Dev.pass (s : Dev) (b dir : Nat) (timed : Bool) : Dev :=
  (s.modConc fun c => { c with sent := c.sent.set (portKey b dir) (s.now + 1) }).countFlit b (dir == 1) timed

/-- The block at whose Chest window a request's data waits to leave: a read that the window has served (R217). -/
def Dev.leavesAt (s : Dev) (r : CReq) : Option Nat :=
  if r.kind = .read ∧ r.status = some stOk ∧ !r.left then match s.target r with
    | .chest c _ => some (c / 4)
    | _ => none
  else none
/-- What waits at a block's port toward the Concourse: its own writes and line adds, and the data that its Chest windows gave. -/
def Dev.outWaits (s : Dev) (b : Nat) : List CReq := s.conc.reqs.filter fun r =>
  (r.port == b && r.stage == 0 && r.hasData && r.status.isNone && !s.atPort b r.id (r.off / 64)) || s.leavesAt r == some b
/-- Whether the reply of a request brings data to a block port (R217), and they have reached it. -/
def Dev.dataReply (s : Dev) (r : CReq) : Bool :=
  decide (r.port < 576) && r.kind == .read && r.status == some stOk && (s.leavesAt r).isNone
/-- What waits at a block's port toward the block: the data of its reads, and writes to its Chest windows. -/
def Dev.inWaits (s : Dev) (b : Nat) : List CReq := s.conc.reqs.filter fun r =>
  (r.port == b && s.dataReply r) || (r.stage == 1 && r.status.isNone && r.kind == .write && s.pointOf r == some (160 + b))

/-- A block port's grant toward the Concourse in this cycle. -/
def Dev.portOut (s : Dev) (b : Nat) : Dev :=
  let l := s.outWaits b
  match pickNext (s.conc.turns.get (portKey b 0)) l with
  | none => s
  | some r =>
    let t := s.now
    ((s.granted (portKey b 0) l r).pass b 0 r.timed).modReq r.id fun q =>
      if q.status.isSome then { q with left := true } else { q with stage := 1, at_ := t }

/-- A request reaches its slice or window (R231): a timed one counts against the slice budget, an atomic or a line add as two (R224). -/
def Dev.reaches (s : Dev) (p : Nat) (r : CReq) : Dev :=
  let t := s.now
  (s.modReq r.id fun q => { q with stage := 2, came := t }).iff (decide (p < 160)) fun s =>
    s.budget p (if r.kind = .atomic ∨ r.kind = .lineAdd then 2 else 1) r.timed
/-- Requests in the network on their way to a point, but for those of a port that an earlier one to their line precedes. -/
def Dev.comes (s : Dev) (p : Nat) : List CReq := s.conc.reqs.filter fun r =>
  r.stage == 1 && r.status.isNone && s.pointOf r == some p &&
    !(s.conc.reqs.any fun q => q.port == r.port && decide (q.id < r.id) && q.off / 64 == r.off / 64 && q.stage == 1 && q.status.isNone)
/-- One grant of a slice's arbitration point. -/
def Dev.sliceGrant (s : Dev) (p : Nat) : Dev :=
  let l := s.comes p
  match pickNext (s.conc.turns.get p) l with
  | none => s
  | some r => (s.granted p l r).reaches p r
/-- The grants of a point in a cycle. A slice, which has two channels, takes two requests a cycle (DESIGN CHOICE,
notes/assumptions/67.md). A Chest window takes every read, which has no data, and one write where its port is free. -/
def Dev.pointGrants (s : Dev) (p : Nat) : Dev :=
  if p < 160 then (s.sliceGrant p).sliceGrant p
  else
    let b := p - 160
    let s := each ((s.comes p).filter fun r => r.kind != .write) (fun r s => s.reaches p r) s
    let l := (s.comes p).filter fun r => r.kind == .write
    if !s.dirFree (portKey b 1) then s
    else match pickNext (s.conc.turns.get (portKey b 1)) l with
      | none => s
      | some r => ((s.granted (portKey b 1) (s.inWaits b) r).pass b 1 r.timed).reaches p r

/-- Keep each number of a list once. -/
def distinct (l : List Nat) : List Nat := l.foldl (fun a x => insertUp x a) []
/-- One cycle of the Concourse: what is in the network reaches its slices and windows, then the block ports grant (R219). -/
def Dev.concTick (s : Dev) : Dev :=
  if s.conc.reqs.isEmpty then s
  else
    let s := each (s.conc.reqs.filter fun r => r.stage == 1 && r.status.isNone && (s.pointOf r).isNone) (fun r s => s.reaches 160 r) s
    let s := each (distinct ((s.conc.reqs.filter fun r => r.stage == 1 && r.status.isNone).filterMap s.pointOf)) (fun p s => s.pointGrants p) s
    let s := each (distinct (s.conc.reqs.filterMap fun r =>
      if r.stage = 0 ∧ r.hasData then some r.port else s.leavesAt r)) (fun b s => s.portOut b) s
    let t := s.now
    each (s.conc.reqs.filter fun r => r.stage == 0 && !r.hasData && !s.atPort r.port r.id (r.off / 64)) (fun r s =>
      s.modReq r.id fun q => { q with stage := 1, at_ := t }) s

/-- A write, line add or atomic stands between earlier and later reads of a line (R232). -/
def Dev.noMerge (s : Dev) (sl line : Nat) : Dev :=
  s.modConc fun c => { c with reads := c.reads.mod sl fun l => l.filter fun x => x.line != line }

/-! ## Errors at a slice (R237, R239, R474) -/

/-- The DRAM row of an HBM offset: its slice and the first slice-local line of the 16 lines, of one pseudo-channel, that a row of 1 KiB
holds (R221, R474). -/
def rowKey (off : Nat) : Nat := hbmSlice off + 2 ^ 7 * (hbmLocal off - 2 * bits (hbmLocal off) 4 1)
/-- The HBM offset of slice-local line n of a slice (R221). -/
def patrolOff (slice n : Nat) : Nat :=
  64 * (128 * n + Nat.xor slice (Nat.xor (Nat.xor (bits n 6 0) (bits n 13 7)) (Nat.xor (bits n 20 14) (bits n 26 21))))
/-- The offset of a DRAM row's first line. -/
def rowOff (key : Nat) : Nat := patrolOff (key % 128) (key / 128)

/-- Twenty-four hours in cycles. -/
abbrev day : Nat := 86400 * second

/-- A corrected symbol of an HBM line (R237): counted, and the eighth of its row within 24 h qualifies the row (R474). -/
def Dev.hbmCorrected (s : Dev) (off : Nat) : Dev :=
  let sl := hbmSlice off
  let s := (s.bumpSlice sl 7).corrected 4 sl
  let k := rowKey off
  let l := ((s.conc.corr24.get k : List Nat).filter fun t => s.now < t + day) ++ [s.now]
  let s := s.modConc fun c => { c with corr24 := c.corr24.set k (if l.length ≥ 8 then [] else l) }
  if l.length ≥ 8 then s.unitError 0x12 4 sl [] 0 off else s

/-- A read of an HBM line that the code cannot correct (R237): the slice poisons the line. -/
def Dev.hbmUe (s : Dev) (off : Nat) : Dev :=
  let line := off / 64 * 64
  let s := s.modConc fun c => { c with poison := insertUp line c.poison }
  (s.bumpSlice (hbmSlice off) 8).unitError 0x05 4 (hbmSlice off) [] 0x000E line

/-- What an LPDDR5X access meets on its link (R238, R239): whether it fails, and the device. A corrected error, a retry and an error that
the device reports are counted; a retry that fails too gives MEM_UE. -/
def Dev.lpLink (s : Dev) (sl off : Nat) (ecc : Ecc) : Bool × Dev := match ecc with
  | .clean => (false, s)
  | .corrected => (false, (s.bumpSlice sl 7).corrected 5 (sl - 128))
  | .retried => (false, s.bumpSlice sl 8)
  | .reported => (false, s.bumpSlice sl 9)
  | .uncorrectable => (true, (s.bumpSlice sl 8).unitError 0x06 5 (sl - 128) [] 0x000E (off / 64 * 64))

/-- What a read of a line meets (R237, R239): whether it fails, and the device. The operand of an LPDDR5X access says what its retry
gave, when it needed one. -/
def Dev.readLine (s : Dev) (off : Nat) (ecc : Ecc) : Bool × Dev :=
  let sl := sliceOf off
  if sl < 128 then
    if s.conc.poison.contains (off / 64 * 64) then (true, (s.bumpSlice sl 8).bumpSlice sl 9)
    else match ecc with
      | .corrected => (false, s.hbmCorrected off)
      | .uncorrectable => (true, s.hbmUe off)
      | .reported => (false, s.modConc fun c => { c with severity := c.severity.set sl (c.severity.get sl + 1) })
      | _ => (false, s)
  else s.lpLink sl off ecc

/-! ## Reads and writes (R231, R232) -/

/-- A read at a slice: it merges with a pending read of its line, and shares its outcome, or is performed (R232). -/
def sliceReadAt (r : CReq) (ecc : Ecc) (s : Dev) : Dev :=
  let sl := sliceOf r.off
  let line := r.off / 64
  let pend := (s.conc.reads.get sl : List SliceRead).filter fun p => r.came ≤ p.at_ + 90
  match pend.find? fun p => p.line == line && (p.timed || !r.timed) with
  | some p =>
    let s := s.bumpSlice sl 4
    if p.bad then s.answer r.id stMemUe else s.answer r.id stOk (s.memAt r.off r.len)
  | none =>
    let (bad, s) := (s.bumpSlice sl 0).readLine r.off ecc
    let s := s.modConc fun c => { c with reads := c.reads.set sl (pend ++ [{ line := line, at_ := r.came, timed := r.timed, bad := bad }]) }
    if bad then s.answer r.id stMemUe else s.answer r.id stOk (s.memAt r.off r.len)

/-- SLICE_READ (R232): a read arrives at its slice or its Chest window. -/
def sliceRead (id : Nat) (ecc : Ecc) (s : Dev) : Dev :=
  match s.arrives id .read with
  | none => s
  | some r => match s.target r with
    | .chest c a => s.atChest r c a
    | .hbm => sliceReadAt r ecc s
    | .lpddr => sliceReadAt r ecc s
    | _ => s.answer id stUnmapped
def execSliceRead (id : Nat) (ecc : Ecc) (s : State) : Host.Outcome State Fault Refusal := s.act (sliceRead id ecc)

/-- A write at a slice: one of a whole line replaces it, poison included; one of a part reads the line first. The link code covers LPDDR5X
writes too (R238, R239). -/
def sliceWriteAt (r : CReq) (ecc : Ecc) (s : Dev) : Dev :=
  let sl := sliceOf r.off
  let line := r.off / 64 * 64
  let s := (s.noMerge sl (r.off / 64)).bumpSlice sl 1
  if r.len = 64 then
    let (bad, s) := if sl < 128 then (false, s) else s.lpLink sl r.off ecc
    if bad then s.answer r.id stMemUe
    else
      let s := s.modConc fun c => { c with poison := c.poison.filter fun p => p != line }
      (s.memPut r.off r.data).answer r.id stOk
  else match s.readLine r.off ecc with
    | (true, s) => s.answer r.id stMemUe
    | (false, s) => (s.memPut r.off r.data).answer r.id stOk

/-- SLICE_WRITE (R231). -/
def sliceWrite (id : Nat) (ecc : Ecc) (s : Dev) : Dev :=
  match s.arrives id .write with
  | none => s
  | some r => match s.target r with
    | .chest c a => s.atChest r c a
    | .hbm => sliceWriteAt r ecc s
    | .lpddr => sliceWriteAt r ecc s
    | _ => s.answer id stUnmapped
def execSliceWrite (id : Nat) (ecc : Ecc) (s : State) : Host.Outcome State Fault Refusal := s.act (sliceWrite id ecc)

/-! ## Atomics and line adds (R233, R234) -/

/-- The float format of an atomic's width. -/
def atomFmt (w : Nat) : FFmt := if w = 32 then fp32 else fp64
/-- The value that a word atomic stores, with its flags, at a width in bits (R233). -/
def atomicOp (op w old a b : Nat) : Nat × Nat :=
  let f := atomFmt w
  let pick (x : Bool) : Nat := if x then old else a
  match op with
  | 0x0 => ((old + a) % 2 ^ w, 0)
  | 0x1 => if w = 32 then add32 0 old a else add64 old a
  | 0x2 => (pick (decide (sgn w old ≤ sgn w a)), 0)
  | 0x3 => (pick (decide (sgn w a ≤ sgn w old)), 0)
  | 0x4 => (min old a, 0)
  | 0x5 => (max old a, 0)
  | 0x6 => ((f.ofNum 0 0 ((f.decode old).min (f.decode a))).1, 0)
  | 0x7 => ((f.ofNum 0 0 ((f.decode old).max (f.decode a))).1, 0)
  | 0x8 => (old &&& a, 0)
  | 0x9 => (old ||| a, 0)
  | 0xA => (old ^^^ a, 0)
  | 0xB => (a, 0)
  | _ => (if old = a then b else old, 0)

/-- Whether an atomic is supported at an offset (R233). -/
def atomOk (op : Nat) (wide : Bool) (off : Nat) : Bool := decide (op ≤ 0xC) && off % (if wide then 8 else 4) == 0

/-- Perform a word atomic at a local offset: the old value, its flags and the device. -/
def Dev.doAtomic (s : Dev) (op : Nat) (wide : Bool) (off a b : Nat) : Nat × Nat × Dev :=
  let n := if wide then 8 else 4
  let w := 8 * n
  let old := s.memVal off n
  let (v, g) := atomicOp op w old (a % 2 ^ w) (b % 2 ^ w)
  (old, g, s.memPut off (leBytes n v))

/-- The engine watches the signal words of its active collectives (R296): a peer's atomic on a DATA word whose sender is the left
neighbour of the member is counted for the ring (R302). -/
def Dev.collWatch (s : Dev) (r : CReq) : Dev := match r.src with
  | .remote p _ => match s.elveel.served.find? fun v => v.id = p with
    | some v => { s with coll := { s.coll with active := s.coll.active.map fun q =>
        let d := collD q.2.desc
        if r.off = d.sig + 16 ∧ v.pkt.sdev = q.2.group.getD ((d.rank + d.n - 1) % d.n) 0x3FFF then
          (q.1, { q.2 with left_ := q.2.left_ + 1 }) else q } }
    | none => s
  | _ => s

/-- WORD_ATOMIC (R233). -/
def wordAtomic (id : Nat) (ecc : Ecc) (s : Dev) : Dev :=
  match s.arrives id .atomic with
  | none => s
  | some r => match s.target r with
    | .chest _ _ => s.answer id stUnsupported
    | .unmapped => s.answer id stUnmapped
    | _ =>
      if !atomOk r.aop r.aw r.off then s.answer id stUnsupported
      else
        let sl := sliceOf r.off
        let s := (s.noMerge sl (r.off / 64)).bumpSlice sl 2
        match s.readLine r.off ecc with
        | (true, s) => s.answer id stMemUe
        | (false, s) =>
          let (old, g, s) := s.doAtomic r.aop r.aw r.off r.op1 r.op2
          ((s.answer id stOk (leBytes (if r.aw then 8 else 4) old)).modReq id fun q => { q with flags := BitVec.ofNat 32 g }).collWatch r
def execWordAtomic (id : Nat) (ecc : Ecc) (s : State) : Host.Outcome State Fault Refusal := s.act (wordAtomic id ecc)

/-- The sum of two elements of a line add, with its flags (R234). -/
def addElem (fmt x y : Nat) : Nat × Nat :=
  if fmt = 0x0 then add32 0 x y
  else if fmt = 0x7 then addI32 x y
  else
    let (v, g) := (bf16.decode x).add 0 (bf16.decode y)
    let (o, h) := bf16.ofNum 0 0 v
    (o, g ||| h)

/-- The elementwise sum of two lines, with its flags. -/
def addLine (fmt : Nat) (x y : Bytes) : Bytes × Nat :=
  let n := if fmt = 0x1 then 2 else 4
  (List.range (64 / n)).foldl (fun acc i =>
    let (v, g) := addElem fmt (fld x (n * i) n) (fld y (n * i) n)
    (acc.1 ++ leBytes n v, acc.2 ||| g)) ([], 0)

/-- LINE_ADD (R234): one indivisible access of a memory line. -/
def lineAdd (id : Nat) (ecc : Ecc) (s : Dev) : Dev :=
  match s.arrives id .lineAdd with
  | none => s
  | some r => match s.target r with
    | .chest _ _ => s.answer id stUnsupported
    | .unmapped => s.answer id stUnmapped
    | _ =>
      let sl := sliceOf r.off
      let s := (s.noMerge sl (r.off / 64)).bumpSlice sl 3
      match s.readLine r.off ecc with
      | (true, s) => s.answer id stMemUe
      | (false, s) =>
        let (v, g) := addLine r.afmt (s.memAt r.off 64) r.data
        ((s.memPut r.off v).answer id stOk).modReq id fun q => { q with flags := BitVec.ofNat 32 g }
def execLineAdd (id : Nat) (ecc : Ecc) (s : State) : Host.Outcome State Fault Refusal := s.act (lineAdd id ecc)

/-! ## The patrol scrubber (R237) -/

/-- Lines of an HBM slice (R215, R221). -/
abbrev sliceLines : Nat := 640 * gib / 64 / 128
/-- HBM_PATROL_SCRUB (R237): the scrubber reads its next line and corrects it. -/
def hbmPatrolScrub (slice line : Nat) (ecc : Ecc) (s : Dev) : Dev :=
  if !s.lit ∨ s.conc.patrolAt.get slice ≠ line then s
  else
    let s := s.modConc fun c => { c with patrolAt := c.patrolAt.set slice ((line + 1) % sliceLines) }
    (s.readLine (patrolOff slice line) ecc).2
def execHbmPatrolScrub (slice line : Nat) (ecc : Ecc) (s : State) : Host.Outcome State Fault Refusal :=
  s.actOn (decide (slice < 128)) (hbmPatrolScrub slice line ecc)

/-! ## Replies that are late (R223, R225) -/

/-- The bound of a timed request's latency in cycles (R223). -/
def CReq.bound (r : CReq) : Nat := match region 1024 r.off with
  | .chest _ _ => 392
  | .lpddr => match r.kind with
    | .read => 1792
    | .write => 1176
    | _ => 2128
  | _ => match r.kind with
    | .read => 1288
    | .write => 840
    | _ => 1456
/-- The cycle of a request's bound (R223): from its port's grant, and of a pooled line whose translation missed, from that read's grant,
with the HBM read bound on top. -/
def CReq.deadline (r : CReq) : Nat := match r.missAt with
  | some t => t + 1288 + r.bound
  | none => r.at_ + r.bound
/-- The slice whose late-reply counter a timed request's lateness goes to (R225): none for a Chest window. -/
def CReq.lateSlice (r : CReq) : Option Nat := if !r.timed then none else match region 1024 r.off with
  | .chest _ _ => none
  | .unmapped => none
  | _ => some (sliceOf r.off)
/-- The bound and the slice that go with the data of a timed transfer read to the row that it writes (R223). -/
def CReq.lateMark (r : CReq) : Option (Nat × Nat) := r.lateSlice.map fun sl => (r.deadline, sl)
/-- Whether a request's lateness shows only when its data are written in a Chest: a transfer's read that succeeds. -/
def CReq.endsInRow (r : CReq) : Bool := r.kind == .read && r.status == some stOk && (match r.src with
  | .xfer _ _ _ => true
  | _ => false)
/-- Count a timed reply beyond its bound (R223, R225): of a write at its completion, of an atomic or another read at the reply. -/
def Dev.countLate (s : Dev) (r : CReq) : Dev := match r.lateSlice with
  | some sl => s.iff (!r.endsInRow && decide (r.deadline < if r.kind = .write ∨ r.kind = .lineAdd then r.doneAt else s.now)) fun s =>
      s.bumpSlice sl 6
  | none => s

end Sys2Proof.Machine
end

