-- ==== Sys2Proof/Machine/Stream.lean ====
section
/-! DEFINITION. Streams at run time (R181 to R187, R192 to R195, R213): sends, arrivals, credits and steering units. -/
namespace Sys2Proof.Machine

/-! ## Sources (R186, R187) -/

/-- Whether a source has sent a flit in this cycle. -/
def Dev.sentNow (s : Dev) (b e : Nat) : Bool :=
  s.flights.any fun f => f.srcB == b && f.srcE == e && f.due == s.now + f.delay

/-- Whether an endpoint holds a credit for every branch of its circuit in the present slot (R186). -/
def Endpoint.credited (x : Endpoint) (branches : Nat) : Bool := decide (0 < x.cred0) && (decide (branches < 2) || decide (0 < x.cred1))
/-- Take one credit from each branch. -/
def Endpoint.spend (x : Endpoint) (branches : Nat) : Endpoint :=
  { x with cred0 := x.cred0 - 1, cred1 := if branches < 2 then x.cred1 else x.cred1 - 1 }

/-- STREAM_FLIT_SEND (R186): in a slot of its circuit, an OUT endpoint sends its staged head flit, a RELAY endpoint its first flit not
yet sent on (R187). -/
def streamFlitSend (b ep : Nat) (s : Dev) : Dev :=
  let fr := s.frame b
  let t := s.time % 8
  let x := s.ep b ep
  let br := (s.branches b ep t).length
  if !s.lit ∨ !sendsIn fr ep t ∨ br = 0 ∨ s.sentNow b ep ∨ !x.credited br then s
  else match (epWord fr ep).mode with
    | 2 => match x.staging with
      | [] => s
      | f :: r =>
        if f.at_ < s.now then
          let s := s.sendFlit b ep f.data
          (s.modEp b ep fun y => { y.spend br with staging := r }).askSout b ep 2
        else s
    | 3 => match x.queue.find? fun f => !f.sent with
      | none => s
      | some f =>
        if f.at_ < s.now then
          let s := s.sendFlit b ep f.data
          (s.modEp b ep fun y => { y.spend br with queue := modFirst (fun g => !g.sent) (fun g => { g with sent := true }) y.queue }).freeDone
            b ep 256
        else s
    | _ => s
def execStreamFlitSend (b ep : Nat) (s : State) : Host.Outcome State Fault Refusal :=
  s.actOn (decide (b < 576) && decide (ep < 32)) (streamFlitSend b ep)

/-! ## Sinks (R181, R186, R213) -/

/-- A double error in a circuit flit at a switch point (R181): the flit is discarded, and the context that owns the circuit faults. -/
def Dev.flitUe (s : Dev) (b : Nat) : Dev :=
  let c := s.frontOf b
  let s := match c with
    | some x => s.faultCtx x 0x0014 (4 * b) 0
    | none => s
  s.unitError 0x03 2 b c.toList 0x0014 0
/-- A single error in a flit that a switch point has received over a link (R181). -/
def Dev.flitFixed (s : Dev) (b link : Nat) : Dev := (s.bump 0x6030 b (55 + link)).corrected 2 b

/-- What the code of a link finds in a flit on its way (R181): it arrives in this cycle at a switch point that sends it on. -/
def Dev.flitPasses (s : Dev) (f : Flight) (ecc : Ecc) : Dev :=
  match f.hops.find? fun h => h.2.2 != 0 && f.due - f.delay + h.2.2 == s.now with
  | none => s
  | some h => match ecc with
    | .corrected => s.flitFixed h.1 (xpoint (s.frame h.1) ((h.2.1 - 32) / 7) ((h.2.1 - 32) % 7)).1
    | .uncorrectable => { s with flights := s.flights.filter fun g => !f.sameAt g h }.flitUe h.1
    | _ => s

/-- STREAM_FLIT_ARRIVE (R186): F cycles after it was sent, a flit is written into its sink queue, unless its code finds a double error
(R181) or the sink's entry refuses its epoch (R213). A flit of a local loop crosses no mesh link. At a switch point on the way, the code
of the link is checked alone. -/
def streamFlitArrive (id : Nat) (ecc : Ecc) (s : Dev) : Dev :=
  match s.flights.find? fun f => f.id = id with
  | none => s
  | some f =>
    if s.now < f.due then s.flitPasses f ecc
    else
      let s := { s with flights := s.flights.filter fun g => g.id != id }
      let s := s.rouse f.dstB
      let w := epWord (s.frame f.dstB) f.dstE
      let mesh := decide (1 ≤ w.ilink) && decide (w.ilink ≤ 4)
      if mesh && ecc == .uncorrectable then s.flitUe f.dstB
      else
        let s := s.iff (mesh && ecc == .corrected) fun s => s.flitFixed f.dstB w.ilink
        if s.refuses f.dstB f.dstE f.epoch then s.stale f.dstB
        else
          let s := s.modEp f.dstB f.dstE fun y => { y with queue := y.queue ++ [{ data := f.data, epoch := f.epoch, at_ := s.now }] }
          s.iff (!w.sink || w.mode == 3) fun s => s.askSin f.dstB f.dstE f.data
def execStreamFlitArrive (id : Nat) (ecc : Ecc) (s : State) : Host.Outcome State Fault Refusal := s.act (streamFlitArrive id ecc)

/-- CREDIT_RETURN (R186): a credit reaches its source and can be spent. -/
def creditReturn (id : Nat) (s : Dev) : Dev :=
  match s.credits.find? fun c => c.id = id with
  | none => s
  | some c =>
    if s.now < c.due then s
    else
      let s := { s with credits := s.credits.filter fun g => g.id != id }
      if s.refuses c.dstB (if c.dstE < 32 then c.dstE else 60 + (c.dstE - 32) / 2) c.epoch then s.stale c.dstB
      else if c.dstE < 32 then
        s.modEp c.dstB c.dstE fun y => if c.branch = 0 then { y with cred0 := y.cred0 + 1 } else { y with cred1 := y.cred1 + 1 }
      else
        s.modSteer c.dstB ((c.dstE - 32) / 2) fun y =>
          if c.dstE % 2 = 0 then { y with cred0 := y.cred0 + 1 } else { y with cred1 := y.cred1 + 1 }
def execCreditReturn (id : Nat) (s : State) : Host.Outcome State Fault Refusal := s.act (creditReturn id)

/-! ## Steering units (R193 to R195) -/

/-- What a firing takes and drives: whether data 0 and data 1 are popped, and what goes to outputs 0 and 1 (0 data 0, 1 data 1). -/
structure Firing where
  pop0 : Bool
  pop1 : Bool
  to0  : Option Nat
  to1  : Option Nat
  deriving DecidableEq, Repr, Inhabited

/-- The firing of a unit of a kind on a token (R194). -/
def firing (kind token : Nat) : Option Firing := match kind with
  | 1 => some { pop0 := true, pop1 := false, to0 := if token = 0 ∨ token = 2 then some 0 else none,
                to1 := if token = 1 ∨ token = 2 then some 0 else none }
  | 2 => some { pop0 := token % 2 == 0, pop1 := token % 2 == 1, to0 := some (token % 2), to1 := none }
  | 3 => some { pop0 := true, pop1 := true, to0 := some (token % 2), to1 := none }
  | _ => none

/-- Whether output o of a unit sends its register's flit in this cycle. -/
def Dev.outSends (s : Dev) (b u o : Nat) : Bool :=
  let x := s.steer b u
  (match (if o = 0 then x.out0 else x.out1) with
  | some p => decide (p.1 < s.now)
  | none => false) && sendsIn (s.frame b) (32 + 2 * u + o) (s.time % 8)
/-- Whether output o can take a flit: it holds a credit, and its register is empty or sending (R194). -/
def Dev.outFree (s : Dev) (b u o : Nat) : Bool :=
  let x := s.steer b u
  decide (0 < if o = 0 then x.cred0 else x.cred1) && ((if o = 0 then x.out0 else x.out1).isNone || s.outSends b u o)
/-- Send what an output register holds. -/
def Dev.sendOut (s : Dev) (b u o : Nat) : Dev :=
  if !s.outSends b u o then s
  else
    let x := s.steer b u
    match (if o = 0 then x.out0 else x.out1) with
    | none => s
    | some p =>
      let s := s.modSteer b u fun y => if o = 0 then { y with out0 := none } else { y with out1 := none }
      s.sendFlit b (32 + 2 * u + o) p.2

/-- Whether both outputs that a firing drives are free (R194). -/
def Dev.firingFree (s : Dev) (b u : Nat) (f : Firing) : Bool :=
  (f.to0.isNone || s.outFree b u 0) && (f.to1.isNone || s.outFree b u 1)

/-- STEERING_FIRE (R194): a unit whose flits and outputs are all there fires, at most once in a cycle. -/
def steeringFire (b u : Nat) (s : Dev) : Dev :=
  let x := s.steer b u
  match x.token with
  | [] => s
  | t :: ts => match firing (steerWord (s.frame b) u).1 t with
    | none => s
    | some f =>
      let ok := (!f.pop0 || !x.data0.isEmpty) && (!f.pop1 || !x.data1.isEmpty) && s.firingFree b u f
      if !s.lit ∨ x.firedAt = s.now + 1 ∨ !ok then s
      else
        let s := if f.to0.isSome then s.sendOut b u 0 else s
        let s := if f.to1.isSome then s.sendOut b u 1 else s
        let pick (k : Nat) : Row := if k = 0 then x.data0.headD 0 else x.data1.headD 0
        s.modSteer b u fun y =>
          { y with
            token := ts, data0 := if f.pop0 then y.data0.drop 1 else y.data0, data1 := if f.pop1 then y.data1.drop 1 else y.data1,
            out0 := match f.to0 with
              | some k => some (s.now, pick k)
              | none => y.out0,
            out1 := match f.to1 with
              | some k => some (s.now, pick k)
              | none => y.out1,
            cred0 := if f.to0.isSome then y.cred0 - 1 else y.cred0,
            cred1 := if f.to1.isSome then y.cred1 - 1 else y.cred1,
            firedAt := s.now + 1 }
def execSteeringFire (b u : Nat) (s : State) : Host.Outcome State Fault Refusal :=
  s.actOn (decide (b < 576) && decide (u < 8)) (steeringFire b u)

/-! ## What each cycle does (R183, R192, R193, R195) -/

/-- Count a steering unit's wait in this cycle (R195): words 3u and on of the block's record. A unit that has fired in this cycle does
not wait. A MERGE with no token has no input that it needs next: it counts token-wait while either data queue holds a flit (DESIGN CHOICE,
notes/assumptions/64.md). -/
def Dev.steerWait (s : Dev) (b u : Nat) : Dev :=
  let x := s.steer b u
  let kind := (steerWord (s.frame b) u).1
  if kind = 0 ∨ x.firedAt = s.now + 1 then s
  else match x.token with
    | [] =>
      let there := if kind = 1 then !x.data0.isEmpty else if kind = 2 then !x.data0.isEmpty || !x.data1.isEmpty
        else !x.data0.isEmpty && !x.data1.isEmpty
      s.iff there fun s => s.bump 0x6030 b (3 * u)
    | t :: _ => match firing kind t with
      | none => s
      | some f =>
        if (f.pop0 && x.data0.isEmpty) || (f.pop1 && x.data1.isEmpty) then s.bump 0x6030 b (3 * u + 1)
        else s.iff (!s.firingFree b u f) fun s => s.bump 0x6030 b (3 * u + 2)

/-- An endpoint with SINK set passes its head flit, written in an earlier cycle, into its unit's queue when that has room (R193). -/
def Dev.passToSteer (s : Dev) (b e : Nat) : Dev :=
  let w := epWord (s.frame b) e
  if w.mode ≠ 1 ∨ !w.sink then s
  else match (s.ep b e).queue with
    | [] => s
    | f :: r =>
      let u := bits w.steer 4 2
      let i := bits w.steer 1 0
      let x := s.steer b u
      let room := if i = 0 then decide (x.data0.length < 4) else if i = 1 then decide (x.data1.length < 4)
        else decide (x.token.length < 8)
      if f.at_ < s.now ∧ room then
        let s := s.modSteer b u fun y =>
          if i = 0 then { y with data0 := y.data0 ++ [f.data] }
          else if i = 1 then { y with data1 := y.data1 ++ [f.data] }
          else { y with token := y.token ++ [f.data.toNat % 4] }
        (s.modEp b e fun y => { y with queue := r }).sendCredit b e
      else s

/-- Count a reconvergence stall (R192): a FORK endpoint with a flit staged and credit on one branch alone. -/
def Dev.forkWait (s : Dev) (b e : Nat) : Dev :=
  let x := s.ep b e
  s.iff ((epWord (s.frame b) e).fork && !x.staging.isEmpty && (decide (0 < x.cred0) != decide (0 < x.cred1)))
    fun s => s.bump 0x6030 b (24 + e)

/-- One cycle of a block's streams: waits are counted, then steering outputs send, flits pass into steering queues, and staging
buffers with room ask for rows. -/
def Dev.streamTick (s : Dev) (b : Nat) : Dev :=
  let sw := (s.block b).sw
  let us := sw.steers.map (·.1)
  let es := sw.eps.map (·.1)
  let s := each us (fun u s => s.steerWait b u) s
  let s := each es (fun e s => s.forkWait b e) s
  let s := each us (fun u s => (s.sendOut b u 0).sendOut b u 1) s
  let s := each es (fun e s => s.passToSteer b e) s
  each es (fun e s => s.askSout b e 2) s

end Sys2Proof.Machine
end

