-- ==== Sys2Proof/Machine/Runner.lean ====
section
/-! DEFINITION. Runner packets (R24, R28, R196 to R203): words, routes, hops, ejection and the events of dropped messages; the bell
wires (R205, R206). -/
namespace Sys2Proof.Machine

/-! ## Packets (R196) -/

/-- Word 0 of a packet (R196). -/
def RPkt.word0 (p : RPkt) : Nat :=
  p.ddev + 2 ^ 14 * p.dunit + 2 ^ 27 * p.tag + 2 ^ 33 * p.nw + 2 ^ 35 * p.qinc + 2 ^ 39 * p.dinc + 2 ^ 47 * p.kind + 2 ^ 50 * p.lane
/-- Word 1 of a packet. -/
def RPkt.word1 (p : RPkt) : Nat := p.sdev + 2 ^ 14 * p.sunit + 2 ^ 27 * p.ecode
/-- The 64 bytes of a packet. -/
def RPkt.bytes (p : RPkt) : Bytes :=
  leBytes 8 p.word0 ++ leBytes 8 p.word1 ++ ((List.range 4).flatMap fun i => leBytes 4 (p.words.getD i 0).toNat)
    ++ leBytes 8 (if p.kind = 1 then p.cause.toNat else 0) ++ zeros 24
/-- Read a packet's 64 bytes. -/
def rpktOf (b : Bytes) : RPkt :=
  let w := fld b 0 8
  let v := fld b 8 8
  let nw := bits w 34 33
  { ddev := bits w 13 0, dunit := bits w 26 14, tag := bits w 32 27, nw := nw, qinc := bits w 38 35, dinc := bits w 46 39,
    kind := bits w 49 47, lane := bits w 50 50, sdev := bits v 13 0, sunit := bits v 26 14, ecode := bits v 34 27,
    words := (List.range (nw + 1)).map fun i => BitVec.ofNat 32 (fld b (16 + 4 * i) 4),
    cause := BitVec.ofNat 64 (fld b 32 8),
    rsvSet := bits w 63 51 != 0 || bits v 63 35 != 0 || !zeroAt b (20 + 4 * nw) (12 - 4 * nw) || !zeroAt b 40 24
      || (bits w 49 47 == 0 && (!zeroAt b 32 8 || bits v 34 27 != 0)) }

/-- Whether a switch point drops a packet as malformed (R196). -/
def RPkt.malformed (p : RPkt) : Bool :=
  p.rsvSet || decide (1 < p.kind) || (p.kind == 1 && (p.ecode == 0 || decide (5 < p.ecode)))

abbrev ecClosed : Nat := 1
abbrev ecStale : Nat := 2
abbrev ecBadUnit : Nat := 3
abbrev ecUnreachable : Nat := 4
abbrev ecDeviceStale : Nat := 5

/-! ## Routes (R198, R199) -/

/-- Blocks that a packet enters on its way from block b to block t, X first when xf. -/
def routePath (b t : Nat) (xf : Bool) : List Nat :=
  let x0 := blkX b
  let y0 := blkY b
  let x1 := blkX t
  let y1 := blkY t
  let along (a z : Nat) : List Nat := if a ≤ z then (List.range (z - a)).map (a + 1 + ·) else (List.range (a - z)).map (a - 1 - ·)
  if xf then ((along x0 x1).map fun x => blkAt x y0) ++ ((along y0 y1).map fun y => blkAt x1 y)
  else ((along y0 y1).map fun y => blkAt x0 y) ++ ((along x0 x1).map fun x => blkAt x y1)

/-- Whether a path passes no faulty switch point (R199). -/
def Dev.clearPath (s : Dev) (path : List Nat) : Bool := !(path.any fun b => s.grid.faultMap.contains b)

/-- Whether a packet is for another device. -/
def Dev.isAway (s : Dev) (p : RPkt) : Bool := !(p.ddev == 0x3FFF || p.ddev == s.elveel.devnum)

/-- The descriptor of a Pitch of a front shelf: the front Pitch head table (R26, R353). -/
def Dev.pitch (s : Dev) (pid : Nat) : Option Pitch := (s.lots.flatMap fun p => p.2.front.pitches).find? fun q => q.pid = pid

/-- What a unit number names at run time (R23, R24): the block that takes its packets, none where it is reserved, unassigned or
retired. -/
def Dev.unitHome (s : Dev) (u : Nat) : Option Nat :=
  if u < 0x900 then (if s.retired (u / 4) then none else some (u / 4))
  else if u < 0x1000 then
    (s.pitch u).map fun p => p.head / 4
  else if u < 0x1900 then
    let b := (u - 0x1000) / 4
    if s.retired b then none else some b
  else none

/-- The block that a packet heads for from block b: row 0 of the column for another device, none for a bad unit. -/
def Dev.headsFor (s : Dev) (b : Nat) (p : RPkt) : Option Nat := if s.isAway p then some (blkAt (blkX b) 0) else s.unitHome p.dunit

/-- The lane that a switch point chooses for a packet (R199): none when neither path is clear. -/
def Dev.chooseLane (s : Dev) (b t : Nat) : Option Nat :=
  if s.clearPath (routePath b t true) then some 0 else if s.clearPath (routePath b t false) then some 1 else none

/-- The link toward block t from block b on a lane (R198): none when it is there. -/
def nextLink (b t lane : Nat) : Option Nat :=
  let dx := if blkX b < blkX t then some 1 else if blkX t < blkX b then some 3 else none
  let dy := if blkY b < blkY t then some 0 else if blkY t < blkY b then some 2 else none
  if lane = 0 then dx.or dy else dy.or dx

/-! ## Buffers -/

/-- An input buffer of a switch point: port 0-3 by link, 4 local. -/
def Dev.inbuf (s : Dev) (b port lane : Nat) : List RPkt := (s.block b).sw.inbuf.get (2 * port + lane)
/-- Change an input buffer. -/
def Dev.modInbuf (s : Dev) (b port lane : Nat) (f : List RPkt → List RPkt) : Dev :=
  s.modSw b fun x => { x with inbuf := x.inbuf.mod (2 * port + lane) f }

/-- Count an event that is dropped (R203). -/
def Dev.undeliverable (s : Dev) (b : Nat) : Dev := s.bump 0x6030 b 61

/-- Return an event for a dropped packet from block b (R203): a dropped event gives none. The event enters the switch point's local
input buffer, on the lane that R199 gives, and waits for no room there (DESIGN CHOICE, notes/assumptions/64.md). -/
def Dev.dropWith (s : Dev) (b : Nat) (p : RPkt) (ecode : Nat) : Dev :=
  if p.kind = 1 then s.undeliverable b
  else
    let own := p.sdev == s.elveel.devnum
    let e : RPkt := { ddev := if own then 0x3FFF else p.sdev, dunit := p.sunit, tag := p.tag, kind := 1, sdev := s.elveel.devnum,
                      sunit := p.dunit, ecode := ecode, cause := BitVec.ofNat 64 p.word0, at_ := s.now + 1 }
    match s.headsFor b e with
    | none => s.undeliverable b
    | some t => match s.chooseLane b t with
      | none => s.undeliverable b
      | some lane => s.modInbuf b 4 lane fun l => l ++ [{ e with lane := lane }]

/-! ## One hop (R198) -/

/-- Where a packet in an input buffer goes next. -/
inductive Hop where
  | link (o : Nat)         -- over a mesh link; south of row 0 is the gateway
  | eject (n : Nat)        -- the ejection buffer of a Stall
  | tile (u : Nat)         -- the queue of a Chest's Trestle core
  | drop (ecode : Nat)     -- dropped with an event
  | malformed
  deriving DecidableEq, Repr, Inhabited

/-- Number of an output: links 0-3, ejection buffers 4-7, Chest tiles 8-11. -/
def Hop.out : Hop → Option Nat
  | .link o => some o
  | .eject n => some (4 + n % 4)
  | .tile u => some (8 + u % 4)
  | _ => none

/-- A packet for a Pitch is re-addressed at the block of its HEAD (R28, R198): the packet on its new lane, or the code of the event that it
becomes, for a tag that is not mapped or where R199 leaves no lane. -/
def Dev.readdress (s : Dev) (b : Nat) (p : RPkt) : Except Nat RPkt :=
  if s.isAway p ∨ p.dunit < 0x900 ∨ 0x1000 ≤ p.dunit then .ok p
  else if s.unitHome p.dunit ≠ some b then .ok p
  else match s.pitch p.dunit with
    | none => .error ecBadUnit
    | some d =>
      let q := p.tag % 16
      let e := d.qmap.getD q 0
      if bit d.qvalid q then
        let u := bits e 11 0
        match s.chooseLane b (u / 4) with
        | some lane => .ok { p with dunit := u, queue := some (bits e 15 12), lane := lane }
        | none => .error ecUnreachable
      else .error ecBadUnit

/-- The next hop of a packet that stands in block b, with the packet as it goes on. -/
def Dev.hopOf (s : Dev) (b : Nat) (p : RPkt) : Hop × RPkt :=
  if p.malformed then (.malformed, p)
  else match s.readdress b p with
    | .error e => (.drop e, p)
    | .ok p => match s.headsFor b p with
      | none => (.drop ecBadUnit, p)
      | some t => match nextLink b t p.lane with
        | some o => (.link o, p)
        | none =>
          if s.isAway p then (.link 2, p)
          else if p.dunit < 0x900 then (.eject p.dunit, p)
          else if 0x1000 ≤ p.dunit then (if (s.block b).testing then .tile p.dunit else .drop ecBadUnit, p)
          else (.drop ecBadUnit, p)

/-- Whether the buffer ahead of a hop has room, and the link its slot in this cycle. -/
def Dev.hopRoom (s : Dev) (b : Nat) (h : Hop) (p : RPkt) : Bool := match h with
  | .link o =>
    s.time % 8 == 7 && (s.block b).sw.lastOut.get o != s.turn + 1 && (match neighbour b o with
      | some nb => decide ((s.inbuf nb (opposite o) p.lane).length < 4)
      | none => o == 2)
  | .eject n => decide ((s.stall n).ej.length < 2)
  | .tile u => decide ((s.trestles.get u).queue.length < 8)
  | _ => true

/-- Inputs in the order in which an output port serves them after input k (R198): (port, lane) pairs. -/
def rotation (k : Nat) : List (Nat × Nat) := (List.range 5).flatMap fun i => [((k + 1 + i) % 5, 0), ((k + 1 + i) % 5, 1)]

/-- Whether the head of an input wants an output now. -/
def Dev.wants (s : Dev) (b out : Nat) (i : Nat × Nat) : Bool := match s.inbuf b i.1 i.2 with
  | [] => false
  | p :: _ => decide (p.at_ ≤ s.now) && (let (h, q) := s.hopOf b p; h.out == some out && s.hopRoom b h q)

/-- The message of a packet. -/
def RPkt.msg (p : RPkt) (now : Nat) : Msg :=
  { words := (List.range 4).map fun i => p.words.getD i 0, sdev := p.sdev, sunit := p.sunit, tag := p.tag, nw := p.nw, qinc := p.qinc,
    at_ := now }

/-- A packet over a link: its code is checked at the receiving switch point (R181), and the gateway hands it to the router. -/
def Dev.overLink (s : Dev) (b o : Nat) (p : RPkt) (ecc : Ecc) : Dev :=
  let s := s.modSw b fun x => { x with lastOut := x.lastOut.set o (s.turn + 1) }
  match neighbour b o with
  | none =>
    let id := s.elveel.nextOut
    s.modElv fun e => { e with nextOut := id + 1, outq := e.outq ++
      [{ id := id, pkt := { op := 0x07, ddev := p.ddev, len := 64 }, src := .none, at_ := s.now, runner := some p }] }
  | some nb => match ecc with
    | .uncorrectable => s.unitError 0x04 2 nb [] 0 0
    | e =>
      let s := s.iff (e == .corrected) fun s => (s.bump 0x6030 nb (56 + opposite o)).corrected 2 nb
      s.modInbuf nb (opposite o) p.lane fun l => l ++ [{ p with at_ := s.now + linkTime b o }]

/-- The head packet of an input buffer makes its hop. -/
def hopFrom (b port lane : Nat) (ecc : Ecc) (s : Dev) : Dev :=
  match s.inbuf b port lane with
  | [] => s
  | p :: rest =>
    if s.now < p.at_ then s
    else
      let (h, q) := s.hopOf b p
      let popped := s.modInbuf b port lane fun _ => rest
      match h with
      | .malformed => popped.bump 0x6030 b 60
      | .drop e => popped.dropWith b p e
      | h =>
        let out := (h.out).getD 0
        let turnOf := (rotation ((s.block b).sw.lastIn.get out)).find? (s.wants b out)
        if turnOf ≠ some (port, lane) then s
        else
          let s := popped.modSw b fun x => { x with lastIn := x.lastIn.set out port }
          match h with
          | .link o => s.overLink b o q ecc
          | .eject n => s.modStall n fun x => { x with ej := x.ej ++ [{ q with at_ := s.now }] }
          | .tile u => { s with trestles := s.trestles.mod u fun t => { t with queue := t.queue ++ [q.msg s.now] } }
          | _ => s

/-- The head packet of a Stall's injection buffer enters the local input buffer (R198): the switch point chooses its lane, or drops it
(R24, R199). -/
def inject (b k : Nat) (s : Dev) : Dev :=
  let n := 4 * b + k
  match (s.stall n).inj with
  | [] => s
  | p :: rest =>
    if s.now ≤ p.at_ then s
    else
      let popped := s.modStall n fun x => { x with inj := rest }
      match s.headsFor b p with
      | none => popped.dropWith b p ecBadUnit
      | some t => match s.chooseLane b t with
        | none => popped.dropWith b p ecUnreachable
        | some lane =>
          if (s.inbuf b 4 lane).length < 4 then popped.modInbuf b 4 lane fun l => l ++ [{ p with lane := lane, at_ := s.now + 1 }]
          else s

/-- RUNNER_HOP (R198): of the input buffer of a port, 0-3 for the links and 4 for the local one, or of the injection buffer of Stall
port − 5 of the block. -/
def runnerHop (b port lane : Nat) (ecc : Ecc) (s : Dev) : Dev :=
  if !s.lit then s
  else if port < 5 then hopFrom b port lane ecc s
  else inject b (port - 5) s
def execRunnerHop (b port lane : Nat) (ecc : Ecc) (s : State) : Host.Outcome State Fault Refusal :=
  s.actOn (decide (b < 576) && decide (port < 9) && decide (lane < 2)) (runnerHop b port lane ecc)

/-! ## Ejection (R84, R86, R201, R203) -/

/-- The queue that a message enters: the one that R28 chose, else the one its tag maps to; none where the tag map has none (R86). -/
def Stall.queueOf (st : Stall) (p : RPkt) : Option Nat := match p.queue with
  | some q => some q
  | none => let e := st.tagMap.get p.tag; if bit e 4 then some (e % 16) else none

/-- Entries of a queue that count for the fullness test in this cycle (R88, R201). -/
def RQueue.taken (q : RQueue) (now : Nat) : Nat := q.msgs.length + b2n (q.freedAt == now + 1)

/-- An event reaches its sender's switch point (R203): counted by tag and kind; the first since the counter was cleared raises an
event record. -/
def Dev.countEvent (s : Dev) (n : Nat) (p : RPkt) : Dev :=
  let w := tagWord p.tag (p.ecode + 1)
  let first := s.ctr 0x6000 n w == 0
  let s := s.bump 0x6000 n w
  match s.stallCtx n with
  | some c => s.iff first fun s => s.ctxEvent c 0x08 [(32, 2, n), (34, 1, p.tag), (35, 1, p.ecode), (40, 8, p.cause.toNat)]
  | none => s

/-- RUNNER_EJECTION (R201): the head packet of a Stall's ejection buffer. -/
def runnerEjection (n : Nat) (s : Dev) : Dev :=
  let st := s.stall n
  let b := n / 4
  match st.ej with
  | [] => s
  | p :: rest =>
    let popped := s.modStall n fun x => { x with ej := rest }
    if s.now ≤ p.at_ then s
    else if p.kind = 1 then popped.countEvent n p
    else if (s.block b).testing then
      if (s.trestles.get n).queue.length < 8 then
        { popped with trestles := popped.trestles.mod n fun t => { t with queue := t.queue ++ [p.msg s.now] } }
      else s
    else match st.queueOf p with
      | none => popped.dropWith b p ecBadUnit
      | some q =>
        let k := st.queues.get q
        if k.size = 0 then popped.dropWith b p ecBadUnit
        else if !k.isOpen then popped.dropWith b p ecClosed
        else if p.qinc ≠ k.inc then popped.dropWith b p ecStale
        else if k.size ≤ k.taken s.now then s
        else
          let s := (popped.rouse b).modStall n fun x =>
            { x with queues := x.queues.set q { k with msgs := k.msgs ++ [p.msg s.now] } }
          (s.bump 0x6010 n (3 * q)).kick n
def execRunnerEjection (n : Nat) (s : State) : Host.Outcome State Fault Refusal := s.actOn (decide (n < 2304)) (runnerEjection n)

/-- A packet at the ejection head that waits for a full queue in this cycle (R201). -/
def Dev.ejectTick (s : Dev) (n : Nat) : Dev :=
  let st := s.stall n
  match st.ej with
  | [] => s
  | p :: _ => match st.queueOf p with
    | none => s
    | some q =>
      let k := st.queues.get q
      s.iff (p.kind == 0 && k.isOpen && p.qinc == k.inc && decide (0 < k.size) && decide (k.size ≤ k.taken s.now))
        fun s => s.bump 0x6010 n (3 * q + 1)

/-! ## Bells (R205, R206, R297) -/

/-- A ring reaches every latch of its line: Stalls that subscribe, transfer engines whose front shelf names it in a TRIG 01
descriptor, and the armed or active collectives of it. Where the latch was set before, the ring is kept apart for this cycle: a waiter
that clears the latch now finds it set again (R91). -/
def Dev.bellArrives (s : Dev) (line : Nat) (lines : Nat → BitVec 32) (colls : Nat → Dev → Dev) : Dev :=
  let mark : BitVec 32 := BitVec.ofNat 32 (2 ^ line)
  let s := (s.stalls.filter fun p => p.2.bellSub.getLsbD line).foldl
    (fun s p => (s.rouse (p.1 / 4)).modStall p.1 fun x =>
      { x with latch := x.latch ||| mark, again := x.again ||| (x.latch &&& mark) }) s
  let bs := below 576 fun b => (lines b).getLsbD line
  let s := bs.foldl (fun s b => (s.rouse b).modXfer b fun x =>
    { x with latch := x.latch ||| mark, again := x.again ||| (x.latch &&& mark) }) s
  colls line { s with rang := s.rang ||| mark }

/-- Bell lines that TRIG 01 descriptors of a shelf name (R206). -/
def Shelf.trigLines (x : Shelf) : BitVec 32 :=
  x.transfers.foldl (fun m t => let d := xferD t; if d.trig = 1 then m ||| BitVec.ofNat 32 (2 ^ bits d.targ 4 0) else m) 0

end Sys2Proof.Machine
end

