-- ==== Sys2Proof/Machine/Entries.lean ====
section
/-! DEFINITION. Ledger entries that hold a scalar setting (R430, R437, R448 to R450): the value in force, and its ROM default. A
value or a replaced default is stored plus 1, so that 0 says that none is stored. -/
namespace Sys2Proof.Machine

/-- Key of an entry (R431). -/
def entryKey (index sub : Nat) : Nat := 256 * index + sub

/-- Defaults of the RW and RWP entries (R430, R448 to R450). -/
def romDefault (index sub : Nat) : Nat := match index, sub with
  | 0x2001, _ => 400
  | 0x2002, _ => 2
  | 0x2003, 1 => 100
  | 0x2003, _ => 90
  | 0x2004, 1 => 1750
  | 0x2004, _ => 1000
  | 0x2005, _ => 45
  | 0x2006, 3 => 0x3E4CCCCD
  | 0x2006, _ => 0x3DB851EC
  | 0x2007, 1 => 0x3FB70A3D
  | 0x2007, _ => 500
  | 0x2008, _ => 1000
  | 0x3000, _ => 10667
  | 0x4000, 0 => 0x3FFF
  | 0x4001, _ => 0x009FC2000000
  | 0x4002, 0 => 1000
  | 0x4002, _ => 64
  | 0x50A0, _ => 1000
  | _, _ => 0

/-- The value of a scalar entry: as written, else the default of the firmware's table, else the ROM's (R437). -/
def Dev.entryRaw (s : Dev) (index sub : Nat) : Nat :=
  let k := entryKey index sub
  let v := s.ledger.vals.get k
  let d := s.ledger.defaults.get k
  if v ≠ 0 then v - 1 else if d ≠ 0 then d - 1 else romDefault index sub
/-- The value of a scalar entry: LOC has the layout of R258, whose reserved bits read zero (R7). -/
def Dev.entry (s : Dev) (index sub : Nat) : Nat :=
  let v := s.entryRaw index sub
  if index = 0x4000 ∧ sub = 1 then v % 2 ^ 15 else v
/-- Write a scalar entry. -/
def Dev.setEntry (s : Dev) (index sub v : Nat) : Dev :=
  s.modLedger fun l => { l with vals := l.vals.set (entryKey index sub) (v + 1) }

/-- Current slew limit of the rail of a die, A/µs (R414). -/
def Dev.slew (s : Dev) (die : Nat) : Nat := s.entry 0x2001 (die + 1)
/-- The quantum in cycles (R329). -/
def Dev.quantum (s : Dev) : Nat := s.entry 0x50A0 0 * usec
/-- The remote timeout in cycles (R280). -/
def Dev.remTo (s : Dev) : Nat := s.entry 0x4002 0 * usec
/-- Local offset of the peer table (R274). -/
def Dev.peerTab (s : Dev) : Nat := s.entry 0x4001 0

end Sys2Proof.Machine
end

