-- ==== Sys2Proof/Machine/Command.lean ====
section
/-! DEFINITION. Command rings (R363 to R369): fetching, the checks of an entry, when a command starts (R321, R329, R332 to R334), and
the non-preemptible maxima. -/
namespace Sys2Proof.Machine

/-! ## Entries (R367, R368) -/

/-- All bits of n bytes. -/
def ones (n : Nat) : Nat := 2 ^ (8 * n) - 1

/-- The operand fields of an opcode: (offset, bytes, mask) (R368); none for a reserved opcode. The two modes of LAUNCH differ. -/
def operands (op : Nat) (task : Bool) : Option (List (Nat × Nat × Nat)) := match op with
  | 0x01 => some [(8, 1, 0x3F), (16, 8, ones 8)]
  | 0x02 => some [(8, 1, 0x3F)]
  | 0x03 => some [(8, 2, 0x3FF), (16, 8, ones 8)]
  | 0x04 => some [(8, 2, 0x3FF), (10, 1, 0x3F), (11, 1, 1)]
  | 0x05 => some [(8, 2, 0x3FF)]
  | 0x06 => some [(8, 2, 0x3FF)]
  | 0x07 => some []
  | 0x08 => some []
  | 0x10 => some [(8, 8, ones 8), (16, 4, ones 4)]
  | 0x11 => some [(8, 1, 1)]
  | 0x12 =>
    if task then some [(8, 1, 1), (9, 1, 0x3F), (10, 1, 3), (11, 1, 7), (16, 8, ones 7), (24, 2, 0x1FFF), (28, 4, ones 4),
      (32, 16, ones 16)]
    else some [(8, 1, 1), (12, 4, ones 4), (16, 8, ones 7)]
  | 0x13 => some [(8, 8, ones 8)]
  | 0x14 => some []
  | 0x15 => some [(8, 8, ones 8), (16, 8, ones 8), (24, 4, ones 4), (28, 1, 1)]
  | 0x16 => some [(8, 8, ones 8), (16, 1, 0x1F), (24, 8, ones 8), (32, 8, ones 8)]
  | 0x17 => some [(8, 2, 0xFFF), (16, 8, ones 7)]
  | 0x18 => some [(8, 8, ones 8)]
  | 0x19 => some [(8, 8, ones 8)]
  | 0x1A => some [(8, 2, 0xFFF), (10, 1, 0xF)]
  | 0x20 => some [(8, 2, ones 2), (10, 1, ones 1), (12, 2, ones 2), (16, 8, ones 8)]
  | 0x21 => some [(8, 2, ones 2), (10, 1, ones 1), (12, 2, ones 2), (16, 8, ones 8), (32, 32, ones 32)]
  | 0x22 => some [(8, 8, ones 8)]
  | 0x23 => some []
  | _ => none

/-- Whether an opcode is allowed on a ring (R368). -/
def opOnRing (op r : Nat) : Bool :=
  if op = 0x14 ∨ op = 0x15 ∨ op = 0x16 ∨ 0x20 ≤ op then true
  else if r = mgmtRing then decide (op < 0x10) else decide (0x10 ≤ op)

/-- MODE of a LAUNCH entry: 1 for a tile task. -/
def isTask (e : Bytes) : Bool := bit (byte e 8) 0

/-- Whether every bit of the operand bytes outside the fields is zero (R367). -/
def reservedZero (e : Bytes) (fs : List (Nat × Nat × Nat)) : Bool :=
  let mask := fs.foldl (fun m f => m ||| (f.2.2 * 2 ^ (8 * f.1))) 0
  let v := leVal (sub e 0 64)
  (v / 2 ^ 64 * 2 ^ 64) &&& mask == v / 2 ^ 64 * 2 ^ 64

/-- Values of operand fields that R322, R323 and R368 do not allow. -/
def badOperand (e : Bytes) : Bool :=
  opcodeOf e == 0x12 && (if isTask e then byte e 10 == 3 || decide (4 < byte e 11) else fld e 12 4 == 0)

/-- Whether an entry passes the checks of R367 on its ring. -/
def cmdOk (r : Nat) (e : Bytes) : Bool := match operands (opcodeOf e) (isTask e) with
  | none => false
  | some fs => decide (byte e 1 < 2) && byte e 2 == 1 && byte e 3 == 0 && opOnRing (opcodeOf e) r && reservedZero e fs
    && !badOperand e

/-! ## Fetching (R364) -/

/-- Entries that a ring may hold fetched: the oldest that has not started, and 16 ahead of it. -/
abbrev fetchMax : Nat := 17

/-- Fetch one entry of a ring. -/
def Dev.fetchOne (s : Dev) (r : Nat) : Dev :=
  let x := s.ring r
  if x.live && x.chead != x.ctail && decide (x.fetched.length < fetchMax) then
    let e := s.memAt (cmdRing r + 64 * (x.chead % 1024)) 64
    s.modRing r fun y => { y with chead := (y.chead + 1) % 65536, fetched := y.fetched ++ [{ entry := e }] }
  else s

/-- Fetch as many entries as a ring may hold. -/
def Dev.fetch (s : Dev) (r : Nat) : Nat → Dev
  | 0 => s
  | n + 1 => Dev.fetch (s.fetchOne r) r n

/-- Whether a ring belongs to a FAULTED context. -/
def Dev.ringFaulted (s : Dev) (r : Nat) : Bool := match (s.ring r).ctx with
  | some c => (s.ctx c).state == .faulted
  | none => false

/-- Fetch, and complete what does not start: entries that fail R367, and every entry of a FAULTED context, of which those that are left when
FAULT_ACK comes are doomed (R339). -/
def Dev.pump (s : Dev) (r : Nat) : Nat → Dev
  | 0 => s
  | n + 1 =>
    let s := s.fetch r fetchMax
    match (s.ring r).fetched with
    | [] => s
    | c :: _ =>
      if !(s.ring r).slotFree then s
      else if s.ringFaulted r ∨ (s.ring r).doomed ≠ 0 then
        Dev.pump ((s.refuseFetched r 0x46 1).modRing r fun x => { x with doomed := x.doomed - 1 }) r n
      else if cmdOk r c.entry then s
      else Dev.pump (s.refuseFetched r 0x40 1) r n

/-- Entries that one pump can meet: those of a full ring. -/
abbrev pumpMax : Nat := 1100

/-! ## Starting (R321) -/

/-- Whether an entry's command occupies the Lot (R321). -/
def occupies (e : Bytes) : Bool := opcodeOf e == 0x11 || opcodeOf e == 0x12 || opcodeOf e == 0x13
/-- Whether an entry is a LAUNCH of a tile task. -/
def isTileLaunch (e : Bytes) : Bool := opcodeOf e == 0x12 && isTask e

/-- Whether an entry may start beside the commands of its ring that run (R321, R368). -/
def inOrder (r : Nat) (running : List RunCmd) (e : Bytes) : Bool :=
  if r = mgmtRing then running.isEmpty
  else if opcodeOf e = 0x14 then running.isEmpty
  else if isTileLaunch e then !(running.any fun k => occupies k.entry && !isTileLaunch k.entry)
  else if occupies e then !(running.any fun k => occupies k.entry)
  else true

/-- The context of a ring. -/
def Dev.ringCtx (s : Dev) (r : Nat) : Option Nat := (s.ring r).ctx
/-- The Lot of a ring's context. -/
def Dev.ringLot (s : Dev) (r : Nat) : Option Nat := (s.ringCtx r).map fun c => (s.ctx c).lot

/-- Start the oldest waiting command of a ring, when it is op, R321, R366 and R368 let it start and `ready` holds: it is given an
id, reserves a record slot, and f is its effect, given the id and the entry. -/
def Dev.start (s : Dev) (r op : Nat) (ready : Bytes → Bool) (f : Nat → Bytes → Dev → Dev) : Dev :=
  let x := s.ring r
  match x.fetched with
  | [] => s
  | c :: rest =>
    if s.lit && x.live && opcodeOf c.entry == op && cmdOk r c.entry && x.slotFree && !s.ringFaulted r && x.doomed == 0
        && inOrder r x.running c.entry && ready c.entry then
      let (id, s) := s.fresh
      let s := s.modRing r fun y => { y with fetched := rest, reserved := y.reserved + 1,
                                             running := y.running ++ [{ id := id, entry := c.entry, since := s.now }] }
      (f id c.entry s).pump r pumpMax
    else s

/-- Complete a running command and take up the ring again. -/
def Dev.done (s : Dev) (r id status : Nat) (fs : List (Nat × Nat × Nat)) : Dev := (s.finish r id status fs).pump r pumpMax

/-- The running command of a ring with an opcode, the oldest first. -/
def Dev.runningOp (s : Dev) (r op : Nat) : Option RunCmd := (s.ring r).running.find? fun k => opcodeOf k.entry = op

/-! ## The Lot and its class (R29, R317, R329, R332) -/

/-- The context in a seat of a Lot. -/
def Lot.seat (l : Lot) (k : Nat) : Option Nat := if k = 0 then l.seat0 else l.seat1
/-- The context that owns the front shelf (R317). -/
def Lot.owner (l : Lot) : Option Nat := l.seat l.fseat
/-- The context of the other seat. -/
def Lot.other (l : Lot) : Option Nat := l.seat (1 - l.fseat)
/-- Whether a Lot's contexts are of the cyclic class: both seats are of one class (R317). -/
def Dev.lotCyclic (s : Dev) (l : Lot) : Bool := (l.seat0.toList ++ l.seat1.toList).any fun c => (s.ctx c).cyclic

/-- The blocks of a Lot that can run: neither retired nor fenced (R30). -/
def Dev.usable (s : Dev) (l : Lot) : List Nat := l.rect.filter fun b => !s.retired b && !(s.block b).fenced
/-- Whether every block of a Lot that can run is awake. -/
def Dev.lotAwake (s : Dev) (l : Lot) : Bool := (s.usable l).all fun b => (s.block b).awake


/-! ## Non-preemptible commands (R333, R334) -/

/-- TMAX of a task kind in µs (R348). -/
def TaskKind.tmax (k : TaskKind) : Nat := bits k.region.toNat 63 48

/-- The shelf that a context's commands run on: the front for the seat that owns it, else the context's back shelf. -/
def Lot.shelfFor (l : Lot) (c : Nat) : LotShelf :=
  if l.owner = some c then l.front else if l.back.kind ≠ 0 ∧ l.back.ctx = c then l.back else {}
/-- 8 × (BEAT + STRETCH) for a context's shelf: beat 0 of a shelf that comes to the front takes the STRETCH in force (R207). -/
def Lot.beatFor (l : Lot) (c : Nat) : Nat :=
  if l.owner = some c then l.beatCycles else 8 * ((l.shelfFor c).beat + l.stretchNext)

/-- The declared maximum of a command of context c that occupies the Lot, in cycles (R333). -/
def Dev.maxOf (s : Dev) (l : Lot) (c : Nat) (e : Bytes) : Nat := match opcodeOf e with
  | 0x11 => if (l.shelfFor c).kind = 1 then l.beatFor c + 8 else 8
  | 0x12 =>
    if isTask e then (match (l.shelfFor c).tasks[byte e 9]? with
      | some k => k.tmax * usec + usec
      | none => usec)
    else fld e 12 4 * l.beatFor c + usec
  | _ => 40 * usec + 476 * s.memVal (fld e 8 8 + 4) 4

/-- GUARD of a table in cycles (R330). -/
def Cycle.guardCycles (c : Cycle) : Nat := (if c.guardB = 0 then 2 else c.guardB) * 10 * usec

/-- Whether a command's declared maximum exceeds every window of its context's seat (R334). A seat with no window has none to exceed. -/
def Dev.tooLong (s : Dev) (l : Lot) (c : Nat) (e : Bytes) : Bool := match l.cyc with
  | none => false
  | some y =>
    let ws := y.windows.filter fun w => w.seat = (s.ctx c).seat
    !ws.isEmpty && ws.all fun w => decide (w.len * 10 * usec + y.guardCycles < s.maxOf l c e)

/-- Whether the present window is one of a seat and lets a command with a declared maximum start now (R332, R334). -/
def Dev.inWindow (s : Dev) (l : Lot) (seat max_ : Nat) : Bool :=
  l.window.isSome && l.winSeat == seat && !l.winIdle && decide (s.time < l.winEnd) && decide (s.time + max_ ≤ l.winEnd + l.winGuard)

/-- Whether a ring's oldest waiting command occupies the Lot and R321 lets it start: it is ready to start. -/
def Dev.occReady (s : Dev) (c : Nat) : Bool :=
  let x := s.ctx c
  let y := s.ring x.ring
  x.state == .bound && (match y.fetched with
    | k :: _ => cmdOk x.ring k.entry && occupies k.entry && inOrder x.ring y.running k.entry
    | [] => false)
/-- Whether a context has a command that occupies the Lot in flight. -/
def Dev.occFlight (s : Dev) (c : Nat) : Bool :=
  let x := s.ctx c
  x.seated && (s.ring x.ring).running.any fun k => occupies k.entry

/-- Whether the back shelf can become front: loaded with its preloads complete, or retained (R354, R357). -/
def Lot.backReady (l : Lot) : Bool := l.bstate == .ready

/-- The quantum condition (R329): a command of the back context has waited for the quantum, whatever its shelf's state. -/
def Dev.quantumUp (s : Dev) (l : Lot) : Bool := match l.other, l.waitSince with
  | some c, some t => s.occReady c && decide (t + s.quantum ≤ s.now)
  | _, _ => false

/-- Whether a block of a Lot is under test: no command occupies the Lot (R460), and a swap waits (R461). -/
def Dev.lotTesting (s : Dev) (l : Lot) : Bool := l.rect.any fun b => (s.block b).testing

/-- Whether the class rules let context c start a command that occupies its Lot (R321, R329, R332, R334). -/
def Dev.mayOccupy (s : Dev) (c : Nat) (e : Bytes) : Bool :=
  let x := s.ctx c
  let l := s.lot x.lot
  x.state == .bound && x.seat == l.fseat && l.swapReq.isNone && !s.lotTesting l &&
    (if x.cyclic then s.inWindow l x.seat (s.maxOf l c e) && s.lotAwake l else !s.quantumUp l)

end Sys2Proof.Machine
end

