-- ==== Sys2Proof/Machine/Wake.lean ====
section
/-! DEFINITION. Block power (R407 to R410), wake requests and the governor (R411 to R416), members of a beat (R207). -/
namespace Sys2Proof.Machine

/-! ## Wake requests (R412, R413) -/

/-- The governor of the VCORE rail of a die. -/
def Dev.gov (s : Dev) (die : Nat) : Gov := if die = 0 then s.warden.gov0 else s.warden.gov1
/-- Change the governor of a die. -/
def Dev.modGov (s : Dev) (die : Nat) (f : Gov → Gov) : Dev :=
  s.modWarden fun w => if die = 0 then { w with gov0 := f w.gov0 } else { w with gov1 := f w.gov1 }

/-- I_pred in mA: 2,100, or the envelope's peak of the die shared by the Lot's blocks there, to the nearest mA (R412). -/
def predCost (l : Lot) (die : Nat) (env : Option Envelope) : Nat := match env with
  | none => 2100
  | some e =>
    let n := (l.rect.filter fun b => b / 288 == die).length
    let p := if die = 0 then e.ipeak0 else e.ipeak1
    min 2100 ((2000 * p + n) / (2 * n))

/-- Whether a request of a kind is pending for a block. -/
def Dev.asked (s : Dev) (b : Nat) (isBank : Bool) : Bool :=
  (s.gov (b / 288)).queue.any fun r => r.b == b && r.isBank == isBank && r.spare.isNone

/-- Ask for a block's island (R412): from OFF or RET, with no request of the kind pending and no wake admitted. A retired or fenced
block is never woken (R410). -/
def Dev.askIsland (s : Dev) (l : Lot) (b cls : Nat) (env : Option Envelope) : Dev :=
  let x := s.block b
  if x.awake ∨ x.fenced ∨ s.retired b ∨ x.islandAt.isSome ∨ s.asked b false then s
  else
    let cost := (if x.island = .off then 800 else 300) + predCost l (b / 288) env
    s.modGov (b / 288) fun g => { g with queue := g.queue ++ [{ b := b, isBank := false, cls := cls, cost := cost }] }

/-- Whether a request for the spare position of a shift's column is pending. -/
def Dev.spareAsked (s : Dev) (h : Shift) : Bool := (s.gov h.die).queue.any fun r => r.spare == some (24 * h.die + h.col)
/-- Ask for the spare position of a pending shift, from OFF (R359): block b of its column stands for it at the governor. -/
def Dev.askSpare (s : Dev) (l : Lot) (h : Shift) (b : Nat) (env : Option Envelope) : Dev :=
  let j := 24 * h.die + h.col
  if h.spareAt.isSome ∨ s.spareAsked h then s
  else s.modGov h.die fun g => { g with queue := g.queue ++ [{ b := b, isBank := false, cls := 2,
                                                               cost := 800 + predCost l h.die env, spare := some j }] }

/-- Ask for banks of a block's Chests: (Chest of the block, bank) pairs (R412). A block has one pending request of the kind: further banks
join it and add their cost, which the manual leaves open (DESIGN CHOICE, notes/assumptions/69.md). -/
def Dev.askBanks (s : Dev) (b cls : Nat) (banks : List (Nat × Nat)) : Dev :=
  let joined (r : WakeReq) : WakeReq :=
    if r.b = b ∧ r.isBank then
      let all := r.banks ++ banks.filter fun p => !r.banks.contains p
      { r with banks := all, cost := 20 * all.length }
    else r
  if banks = [] then s
  else if s.asked b true then s.modGov (b / 288) fun g => { g with queue := g.queue.map joined }
  else s.modGov (b / 288) fun g =>
    { g with queue := g.queue ++ [{ b := b, isBank := true, banks := banks, cls := cls, cost := 20 * banks.length }] }

/-- Banks that a shelf of a block names and that are off: (Chest of the block, bank). -/
def Dev.banksToWake (s : Dev) (b : Nat) (sh : Shelf) : List (Nat × Nat) :=
  [0, 1, 2, 3].flatMap fun i => (below 16 fun n => bit (sh.banks i) n && !((s.chest (4 * b + i)).banks.any fun p => p.1 == n)).map
    fun n => (i, n)

/-- Ask for every block of a Lot that is below RUN. -/
def Dev.askLot (s : Dev) (l : Lot) (cls : Nat) (env : Option Envelope) : Dev :=
  each (s.usable l) (fun b s => s.askIsland l b cls env) s

/-! ## The governor (R414) -/

/-- The oldest request of the lowest class present. -/
def nextWake (q : List WakeReq) : Option WakeReq :=
  ((List.range 4).filterMap fun c => q.find? fun r => r.cls = c).head?

/-- Requests admitted from a queue with a bucket: those admitted, the bucket and the queue that are left. -/
def admitAll : Nat → Nat → List WakeReq → List WakeReq × Nat × List WakeReq
  | 0, b, q => ([], b, q)
  | n + 1, b, q => match nextWake q with
    | none => ([], b, q)
    | some r =>
      if b < r.cost then ([], b, q)
      else
        let (a, b', q') := admitAll n (b - r.cost) (dropFirst (fun x => x.b = r.b && x.isBank = r.isBank && x.spare = r.spare) q)
        (r :: a, b', q')

/-- Cycles from admission to the end of an island's power-up (R407). -/
def powerUp (i : Island) : Nat := if i = .ret then 2 * usec else 12 * usec

/-- Admit a request: the island's power-up starts, a spare position's among them, or the clear of the banks (R174, R359, R414). -/
def Dev.admitWake (s : Dev) (r : WakeReq) : Dev :=
  let up (h : Shift) : Shift := if r.spare = some (24 * h.die + h.col) then { h with spareAt := some (s.now + powerUp .off) } else h
  if r.spare.isSome then s.modGrid fun g => { g with shifts := g.shifts.map up }
  else if r.isBank then
    let s := each r.banks (fun p s =>
      let c := 4 * r.b + p.1
      (s.wipeBanks c (2 ^ p.2)).modChest c fun x => { x with banks := x.banks.set p.2 (.waking (s.now + usec)) }) s
    s.modBlock r.b fun x => { x with banksAt := some (s.now + usec) }
  else s.modBlock r.b fun x => { x with islandAt := some (s.now + powerUp x.island) }

/-- One AON tick of the governor of a die (R414). Amounts in mA. -/
def Dev.govTick (s : Dev) (die : Nat) : Dev :=
  let a := 10 * s.slew die
  let g := s.gov die
  let g := if !g.queue.isEmpty && !g.hint then { g with hint := true, hintAt := s.now } else g
  let lead := s.entry 0x2002 1 * usec
  let lets := !g.queue.isEmpty && decide (g.hintAt + lead ≤ s.now)
  let (adm, bucket, queue) := if lets then admitAll g.queue.length (min a (g.bucket + a)) g.queue else ([], g.bucket, g.queue)
  let g := { g with queue := queue, bucket := bucket, lastAdm := if adm.isEmpty then g.lastAdm else s.now }
  let g := if g.queue.isEmpty then
      { g with bucket := 0, hint := g.hint && decide (s.now < g.lastAdm + usec) }
    else g
  each adm (fun r s => s.admitWake r) (s.modGov die fun _ => g)

/-- GOVERNOR_TICK (R414): each governor once in each AON tick. -/
def governorTick (s : Dev) : Dev :=
  if !s.lit ∨ s.warden.govAt = s.now / aonTick + 1 then s
  else ((s.govTick 0).govTick 1).modWarden fun w => { w with govAt := s.now / aonTick + 1 }
def execGovernorTick (s : State) : Host.Outcome State Fault Refusal := s.act governorTick

/-! ## Reaching RUN (R30, R407, R416) -/

/-- The tile registers and sidecars of a Stall become unpredictable (R92, R407): free values. -/
def Dev.loseTiles (s : Dev) (n : Nat) : Dev :=
  let (r, s) := s.draw
  (s.tilePut n 0 0 (leBytes 32768 r)).sidePut n 0 0 (leBytes 2048 (r / 2 ^ 262144))

/-- A Stall's flag word is lost (R407): a free value of the flags that the word has (R61). -/
def Dev.loseFlags (s : Dev) (n : Nat) : Dev :=
  let (r, s) := s.draw
  s.modStall n fun x => { x with flags := BitVec.ofNat 32 (r % 256) }

/-- The four Stalls, or the four Chests, of a block. -/
def fourOf (b : Nat) : List Nat := [4 * b, 4 * b + 1, 4 * b + 2, 4 * b + 3]

/-- A Lot whose last block has reached RUN enters ACTIVE, and its LOT_FORM completes (R30, R368). -/
def Dev.tryActive (s : Dev) (k : Nat) : Dev :=
  let l := s.lot k
  if l.state = 1 ∧ s.lotAwake l then
    let s := s.modLot k fun x => { x with state := 2 }
    match s.runningOp mgmtRing 0x01 with
    | some c => s.done mgmtRing c.id 0 []
    | none => s
  else s

/-- BLOCK_REACHES_RUN (R416): the island's power-up is over, no bank wake of the block is pending, and the clock starts at a turn
boundary (R411). -/
def blockReachesRun (b : Nat) (s : Dev) : Dev :=
  let x := s.block b
  match x.islandAt with
  | none => s
  | some t =>
    if s.now < t ∨ s.now < x.banksAt.getD 0 ∨ s.asked b true ∨ !s.turnStart then s
    else
      let s := each (fourOf b) (fun n s => (s.loseTiles n).loseFlags n) s
      let s := s.modBlock b fun y => { y with island := .run, islandAt := none, banksAt := none, quiet := none }
      match s.lotOf b with
      | some k => s.tryActive k
      | none => s
def execBlockReachesRun (b : Nat) (s : State) : Host.Outcome State Fault Refusal := s.actOn (decide (b < 576)) (blockReachesRun b)

/-! ## IDLE and RET (R408, R409) -/

/-- Whether a Stall lets its block be quiet (R408): stopped, or held at WAIT.BEAT, RECV or BELL.WAIT, with no engine busy. -/
def Dev.stallQuiet (s : Dev) (n : Nat) : Bool :=
  let st := s.stall n
  st.jobs.isEmpty && (match s.seqState n with
    | 0 => true
    | 4 => true
    | 5 => true
    | 6 => true
    | _ => false)

/-- Whether a block is quiet in this cycle (R408). -/
def Dev.isQuiet (s : Dev) (b : Nat) : Bool :=
  let x := s.block b
  let fr := s.frame b
  !x.testing && (fourOf b).all s.stallQuiet && (fourOf b).all (fun c => (s.chest c).ports.all fun p => p.2.isEmpty)
    && x.xfer.timedQ.isEmpty && x.xfer.bulkQ.isEmpty
    && x.sw.eps.all fun e => (epWord fr e.1).mode == 2 || e.2.queue.isEmpty

/-- BLOCK_IDLE_ENTRY (R408): after 64 quiet cycles in a row. -/
def blockIdleEntry (b : Nat) (s : Dev) : Dev :=
  let x := s.block b
  match x.quiet with
  | none => s
  | some t =>
    if x.island = .run ∧ t + 64 ≤ s.now ∧ s.isQuiet b then s.modBlock b fun y => { y with island := .idle, quiet := none }
    else s
def execBlockIdleEntry (b : Nat) (s : State) : Host.Outcome State Fault Refusal := s.actOn (decide (b < 576)) (blockIdleEntry b)

/-- Start of a block's quiet span, in each cycle. -/
def Dev.quietTick (s : Dev) (b : Nat) : Dev :=
  let x := s.block b
  if x.island = .run ∧ s.isQuiet b then s.modBlock b fun y => { y with quiet := some (y.quiet.getD s.now) }
  else s.iff x.quiet.isSome fun s => s.modBlock b fun y => { y with quiet := none }

/-- Fields of a region word (R346): BASE, LEN, ENTRY, VALID. -/
def regionOf (w : W64) : Nat × Nat × Nat × Bool :=
  let v := w.toNat
  (bits v 10 0, bits v 21 11 + 1, bits v 32 22, bit v 33)

/-- Whether the region of Stall k of a shelf holds WAIT.BEAT: the Stall is a member (R207). -/
def Shelf.isMember (x : Shelf) (k : Nat) : Bool :=
  let (base, len, _, valid) := regionOf (x.regions.get k)
  valid && x.orders.any fun o => decide (base ≤ o.1) && decide (o.1 < base + len) && orderOp o.2.toNat == 0x70

/-- The member Stalls of a Lot's laid section, rising (R207). -/
def Lot.members (l : Lot) : List Nat :=
  (l.front.blocks.flatMap fun p => (List.range 4).filterMap fun k => if p.2.isMember k then some (4 * p.1 + k) else none)

/-- MEMBER_CLOCK_START (R408): from 64 cycles before the scheduled start of the next beat. -/
def memberClockStart (k : Nat) (s : Dev) : Dev :=
  let l := s.lot k
  if l.front.kind = 1 ∧ l.beat.active ∧ l.nextBeat ≤ s.now + 64 then each l.members (fun n s => s.rouse (n / 4)) s
  else s
def execMemberClockStart (lot : Nat) (s : State) : Host.Outcome State Fault Refusal :=
  s.actOn (decide (lot < 64)) (memberClockStart lot)

/-- Whether a cyclic Lot lies in a gap between windows (R409). -/
def Dev.inGapOf (s : Dev) (l : Lot) : Bool := s.lotCyclic l && l.cyc.isSome && l.t0.isSome && l.window.isNone
/-- Whether an elastic Lot has had no work that occupies it for RETIDLE (R409). -/
def Dev.isRested (s : Dev) (l : Lot) : Bool :=
  (l.seat0.isSome || l.seat1.isSome) && !s.lotCyclic l && decide (l.lastBusy + s.entry 0x2008 1 * usec ≤ s.now)

/-- BLOCK_RETENTION_ENTRY (R409): tiles, sidecars and flag words are lost; they are free values when the block runs again. -/
def blockRetentionEntry (b : Nat) (s : Dev) : Dev :=
  match s.lotOf b with
  | none => s
  | some k =>
    let l := s.lot k
    if (s.block b).island = .idle ∧ l.bstate = .empty ∧ (s.inGapOf l ∨ s.isRested l) then
      s.modBlock b fun x => { x with island := .ret }
    else s
def execBlockRetentionEntry (b : Nat) (s : State) : Host.Outcome State Fault Refusal :=
  s.actOn (decide (b < 576)) (blockRetentionEntry b)

/-- A block's island enters OFF (R407, R410): what it holds is lost, its latches clear (R206), its banks are off, and Concourse
requests that wait at its Chests get CHEST_OFF (R175, R177). -/
def Dev.powerOff (s : Dev) (b : Nat) : Dev :=
  let s := each (fourOf b) (fun c s => each ((s.chest c).ports.flatMap fun p => p.2) (fun r s => s.rejectReq r stChestOff) s) s
  let s := each (fourOf b) (fun n s =>
    let s := (s.setStall n default).wipeBanks n 0xFFFF
    let s := { s with tiles := memDrop s.tiles (32768 * n) 32768, sidecars := memDrop s.sidecars (2048 * n) 2048 }
    s.modChest n fun x => { x with banks := [], ports := [], units := [], gens := [], heldSince := none }) s
  let s := s.modGov (b / 288) fun g => { g with queue := g.queue.filter fun r => r.b != b || r.spare.isSome }
  s.modBlock b fun x => { x with island := .off, islandAt := none, banksAt := none, quiet := none, xfer := {} }

end Sys2Proof.Machine
end

