-- ==== Sys2Proof/Machine/Grid.lean ====
section
/-! DEFINITION. The logical grid and its sparing record (R11 to R22), flash operations of two-copy records (R380), fences and
column shifts (R462 to R465). -/
namespace Sys2Proof.Machine

/-! ## Flash operations (R380) -/

/-- Queue a flash operation behind those that the Warden has accepted. -/
def Dev.flashOp (s : Dev) (erase : List (Nat × Nat)) (prog : List (Nat × Bytes)) (t : FlashThen) : Dev :=
  s.modBoot fun b => { b with flashOps := b.flashOps ++ [{ erase := erase, prog := prog, andThen := t }] }

/-- Update a two-copy record: the copy that is invalid first, copy 1 when both are valid, and the other after it (R380). size is the
erased size of a copy. -/
def Dev.twoCopy (s : Dev) (o0 o1 size : Nat) (valid0 : Bool) (bytes : Bytes) (t : FlashThen) : Dev :=
  let (a, b) := if valid0 then (o1, o0) else (o0, o1)
  (s.flashOp [(a, size)] [(a, bytes)] .nothing).flashOp [(b, size)] [(b, bytes)] t

/-- The bytes of a two-copy record: copy 0 when it is valid, else copy 1 when that is, else none. -/
def Dev.twoRead (s : Dev) (o0 o1 len : Nat) (ok : Bytes → Bool) : Option Bytes :=
  let a := s.flashAt o0 len
  let b := s.flashAt o1 len
  if ok a then some a else if ok b then some b else none

/-! ## The map (R13, R14) -/

/-- Excluded physical row of a column; column index 24 × die + column (R13, R18). 13 more than the stored value, so that an unlisted
column excludes row 12. -/
def Grid.exclRow (g : Grid) (j : Nat) : Nat := (g.excl.get j + 12) % 13
/-- Set the excluded row of a column. -/
def Grid.setExcl (g : Grid) (j row : Nat) : Grid := { g with excl := g.excl.set j ((row + 1) % 13) }
/-- Physical row of logical row r with row x excluded (R13). -/
def physRow (x r : Nat) : Nat := if r < x then r else r + 1
/-- Logical row at physical row p with row x excluded. -/
def logRow (x p : Nat) : Option Nat := if p < x then some p else if x < p then some (p - 1) else none
/-- The logical block at a physical position. -/
def Grid.blockAt (g : Grid) (p : PhysPos) : Option Nat :=
  (logRow (g.exclRow (24 * p.die + p.col)) p.row).map fun r => 288 * p.die + 24 * r + p.col
/-- The physical position of a logical block. -/
def Grid.posOf (g : Grid) (b : Nat) : PhysPos :=
  let die := b / 288
  let col := b % 24
  { die := die, col := col, row := physRow (g.exclRow (24 * die + col)) (b % 288 / 24) }

/-! ## The sparing record (R18, R19) -/

/-- Bytes 0 to 123 of the record of a grid. -/
def Grid.recordBody (g : Grid) : Bytes :=
  let excl := (List.range 24).map fun i => g.exclRow (2 * i) + 16 * g.exclRow (2 * i + 1)
  let ret := (List.range 72).map fun i => ((List.range 8).map fun k => if g.retired.contains (8 * i + k) then 2 ^ k else 0).sum
  layout 8 [(0, 2, 0x5350), (2, 1, 1), (3, 1, 1), (4, 2, g.updates), (6, 2, g.retired.length)] ++ bytesOf excl ++ bytesOf ret ++ zeros 20
/-- The 128 bytes of the record. -/
def Grid.record (g : Grid) : Bytes := withCrc g.recordBody

/-- Whether a record is one that R19 uses: its CRC, magic, generation and version, and its reserved fields. An EXCL value of 13 to 15,
which R18 reserves, counts as a reserved field that is not zero, so that the record is rebuilt: DESIGN CHOICE (notes/assumptions/64.md).
-/
def sparingOk (r : Bytes) : Bool :=
  crcOk r 124 && fld r 0 2 == 0x5350 && byte r 2 == 1 && byte r 3 == 1 && zeroAt r 104 20
    && (List.range 48).all fun j => decide (bits (fld r 8 24) (4 * j + 3) (4 * j) < 13)

/-- The grid that a record gives: its fields, over what the start-up test found. -/
def Grid.ofRecord (g : Grid) (r : Bytes) : Grid :=
  let g := { g with updates := fld r 4 2, retired := below 576 fun b => bit (fld r 32 72) b, excl := [] }
  (List.range 48).foldl (fun g j => g.setExcl j (bits (fld r 8 24) (4 * j + 3) (4 * j))) g

/-- Flash offsets of the two copies (R444). -/
abbrev sparing0 : Nat := 0x06080000
abbrev sparing1 : Nat := 0x06090000

/-- Write the record back (R18). -/
def Dev.writeSparing (s : Dev) : Dev :=
  s.twoCopy sparing0 sparing1 0x10000 (sparingOk (s.flashAt sparing0 128)) s.grid.record .nothing

/-- Retire a logical block (R21): its island is power-gated. -/
def Dev.retireBlock (s : Dev) (b : Nat) : Dev :=
  ((s.modGrid fun g => { g with retired := insertUp b g.retired }).powerOff b).event 0x12 [(32, 2, b)]

/-- One failing row of a column at start-up (R19); the flag says that a shift has been applied to the column in this boot. -/
def mapRow (die col : Nat) (acc : Bool × Dev) (p : Nat) : Bool × Dev :=
  let (shifted, s) := acc
  let j := 24 * die + col
  let x := s.grid.exclRow j
  if p = x then acc
  else if !shifted && !(s.grid.failed.contains { die := die, col := col, row := x }) then
    let s := s.modGrid fun g => { g.setExcl j p with updates := min (g.updates + 1) 0xFFFF }
    (true, s.event 0x11 [(32, 1, die), (33, 1, col), (34, 1, p)])
  else match s.grid.blockAt { die := die, col := col, row := p } with
    | some b => (shifted, s.retireBlock b)
    | none => acc

/-- One column at start-up (R19). -/
def mapColumn (s : Dev) (j : Nat) : Dev :=
  let die := j / 24
  let col := j % 24
  let failing := below 13 fun p => s.grid.failed.contains { die := die, col := col, row := p }
  (failing.foldl (mapRow die col) (false, s)).2

/-- Fence a block (R462): its island and banks are off, its queues closed. -/
def Dev.fenceBlock (s : Dev) (b : Nat) : Dev :=
  let s := each (fourOf b) (fun n s => s.closeQueues n) s
  let qs := (fourOf b).map fun n => (s.stall n).queues
  let s := s.powerOff b
  let s := ((fourOf b).zip qs).foldl (fun s p => s.modStall p.1 fun x => { x with queues := p.2 }) s
  s.modBlock b fun x => { x with fenced := true }

/-- Switch points that failed the start-up test alone (R17, R464): their blocks are fenced and their bits set in the fault map. -/
def Dev.startFaults (s : Dev) : Dev :=
  each s.grid.swFailed (fun p s => match s.grid.blockAt p with
    | none => s
    | some b =>
      ((s.fenceBlock b).modGrid fun g => { g with faultMap := insertUp b g.faultMap }).event 0x32 [(32, 2, b)]) s

/-- The record of a position that failed the start-up test (R17, R454): the test has decided, so its outcome is lasting. UNIT is the
logical block that the map gives the position; the excluded position has none, and its UNIT is a free value. -/
def Dev.startupFail (s : Dev) (p : PhysPos) : Dev :=
  let (u, s) := match s.grid.blockAt p with
    | some b => (b, s)
    | none => let (r, t) := s.draw; (r % 2 ^ 32, t)
  (s.logAdd { seq := 0, persist := true, ekind := 0x13, uclass := 3, unit := u, outcome := 2, testId := 6 }).2

/-- SPARING_MAP_BUILD (R19): the map from the test results and the record; the record is written back if it changed. -/
def sparingMapBuild (s : Dev) : Dev :=
  if s.power.bring ≠ .map then s
  else
    let old := s.twoRead sparing0 sparing1 128 sparingOk
    let s := match old with
      | some r => s.modGrid fun g => { g.ofRecord r with shifts := [], faultMap := [], spareBad := [] }
      | none => (s.modGrid fun g => { g with excl := [], retired := [], updates := 0, shifts := [], faultMap := [], spareBad := [] }).event
          0x10 []
    let s := { s with blocks := s.blocks.map fun p => (p.1, { p.2 with fenced := false, testing := false }) }
    let s := each s.grid.failed (fun p s => s.startupFail p) s
    let s := (List.range 48).foldl mapColumn s
    let bad := below 48 fun j => s.grid.failed.contains { die := j / 24, col := j % 24, row := s.grid.exclRow j }
    let s := s.modGrid fun g => { g with spareBad := bad }
    let s := s.iff (old != some s.grid.record) fun s => s.writeSparing
    s.startFaults.modPower fun p => { p with bring := .train }
def execSparingMapBuild (s : State) : Host.Outcome State Fault Refusal := s.act sparingMapBuild

/-! ## Column shifts (R22, R465) -/

/-- Logical blocks that a shift moves (R22). -/
def Shift.span (h : Shift) : List Nat :=
  let lo := min h.failed h.old
  (List.range (max h.failed h.old - lo)).map fun i => 288 * h.die + 24 * (lo + i) + h.col

/-- A lasting fault of a block (R465): a shift, a retirement when the column has no unused spare, or a retirement that waits for the
shift that is pending there (R22). -/
def Dev.spareBlock (s : Dev) (b : Nat) : Dev :=
  let p := s.grid.posOf b
  let j := 24 * p.die + p.col
  if s.grid.shifts.any fun h => h.die == p.die && h.col == p.col then
    s.modGrid fun g => { g with shifts := g.shifts.map fun h =>
      if h.die = p.die ∧ h.col = p.col ∧ h.failed ≠ p.row then { h with others := insertUp p.row h.others } else h }
  else if s.grid.spareBad.contains j then (s.retireBlock b).writeSparing
  else
    let h : Shift := { die := p.die, col := p.col, failed := p.row, old := s.grid.exclRow j }
    (s.modGrid fun g => { g with shifts := g.shifts ++ [h], spareBad := insertUp j g.spareBad }).event 0x33
      [(32, 1, p.die), (33, 1, p.col), (34, 1, p.row)]

/-- The pending shift that makes a fenced block whole once it takes effect. -/
def Grid.heals (g : Grid) (b : Nat) : Option Shift :=
  let p := g.posOf b
  g.shifts.find? fun h => h.die == p.die && h.col == p.col && (h.failed == p.row || (h.others.contains p.row && h.span.contains b))

/-- Whether a shift may take effect with a Lot's swap: every block of its span lies in the Lot or in none (R22). -/
def Dev.shiftFits (s : Dev) (k : Nat) (h : Shift) : Bool := h.span.all fun b => match s.lotOf b with
  | none => true
  | some m => m == k

/-- A shift takes effect in the swap turn of a Lot (R22, R359, R465). -/
def Dev.applyShift (s : Dev) (h : Shift) : Dev :=
  let j := 24 * h.die + h.col
  let before := s.grid
  let s := s.modGrid fun g =>
    let g := g.setExcl j h.failed
    { g with updates := min (g.updates + 1) 0xFFFF, shifts := g.shifts.filter fun x => x != h }
  let s := each h.span (fun b s => each (fourOf b) (fun c s => s.wipeBanks c 0xFFFF) s) s
  let bad := h.failed :: h.others
  let healed := (List.range 12).map (fun r => 288 * h.die + 24 * r + h.col) |>.filter fun b =>
    bad.contains (before.posOf b).row && !bad.contains (s.grid.posOf b).row
  let s := each healed (fun b s =>
    (s.modBlock b fun x => { x with fenced := false }).modGrid fun g => { g with faultMap := g.faultMap.filter (· != b) }) s
  let s := each h.others (fun p s => match s.grid.blockAt { die := h.die, col := h.col, row := p } with
    | some b => (s.modBlock b fun x => { x with fenced := false }).retireBlock b
    | none => s) s
  s.writeSparing.event 0x34 [(32, 1, h.die), (33, 1, h.col), (34, 1, h.failed)]

end Sys2Proof.Machine
end

