-- ==== Sys2Proof/Machine/Swap.lean ====
section
/-! DEFINITION. The swap of shelves (R357 to R359): what each block takes over in the swap turn (R68, R123, R124, R160, R163, R173,
R202, R206, R207, R213), and when the swap turn comes. -/
namespace Sys2Proof.Machine

/-! ## What a block takes over -/

/-- A receive queue under a new queue word (R202). -/
def RQueue.swap (q : RQueue) (w : Nat) : RQueue :=
  let base := bits w 5 0
  let size := bits w 12 6
  if size = 0 then { q with base := 0, size := 0, isOpen := false, msgs := [] }
  else if q.size = size ∧ q.base = base then q
  else { q with base := base, size := size, isOpen := true, inc := (q.inc + 1) % 16, msgs := [] }

/-- A Stall under a new front shelf (R68, R124, R202, R206): k is its number in the block; rang are the lines that ring in this very
cycle. The fold counts stay for the lists in flight, which complete (R149); the first use of a list under the new shelf starts its own at
0 (R139). -/
def Stall.swap (st : Stall) (sh : Shelf) (k now step : Nat) (rang : BitVec 32) : Stall :=
  let (base, len, entry, valid) := regionOf (sh.regions.get k)
  let sub : BitVec 32 := BitVec.ofNat 32 (sh.bellSub.get k)
  { st with seq := if valid then .running else .stopped, pc := if valid then entry else 0, base := if valid then base else 0,
            len := if valid then len else 0, task := none, ended := false, ready := false, holdSince := none, beatStart := now,
            step := step, loops := [], uses := [],
            queues := Tab.ofList 0 ((List.range 16).map fun q => (st.queues.get q : RQueue).swap (sh.queues.get (16 * k + q))),
            tagMap := Tab.ofList 0 ((List.range 64).map fun t => sh.tags.get (64 * k + t)),
            sendInc := Tab.ofList 0 ((List.range 64).map fun t => sh.sendInc.get (64 * k + t)),
            latch := (st.latch &&& st.bellSub &&& sub) ||| (rang &&& sub), bellSub := sub }

/-- The generators of Chest k of a block that a shelf configures, at their first rows (R161, R163). -/
def Shelf.gensOf (sh : Shelf) (k : Nat) : Tab Gen :=
  (sh.objs 0x7).foldl (fun t l =>
    let d := sh.cfgLines l 2
    let g := genD d
    if g.gchest = k then t.set g.gidx { desc := d, taken := 0 } else t) []

/-- A block takes a new front shelf; old is the one it had. A block in IDLE runs from the swap turn on (DEDUCED,
notes/assumptions/62.md). -/
def Dev.swapBlock (s : Dev) (b : Nat) (old new : Shelf) (step : Nat) : Dev :=
  let s := each [0, 1, 2, 3] (fun k s =>
    let s := s.modStall (4 * b + k) fun st => st.swap new k s.now step s.rang
    s.modChest (4 * b + k) fun c => { c with gens := new.gensOf k }) s
  let ch := changes old.switchFrame new.switchFrame
  (s.rouse b).modBlock b fun x =>
    { x with epoch := !x.epoch, changed := ch, sw := x.sw.take ch new.switchFrame,
             xfer := { x.xfer with latch := (x.xfer.latch &&& old.trigLines &&& new.trigLines) ||| (s.rang &&& new.trigLines), preWait := [] } }

/-- After the shelves of a set of blocks have been exchanged: their banks, the flits and credits on their way, the reads of their OUT
endpoints and the orders that can start. -/
def Dev.afterSwap (s : Dev) (blocks : List Nat) : Dev :=
  let s := each blocks (fun b s => s.dropBanks b) s
  let s := s.sweepFlights.sweepCredits
  let s := each blocks (fun b s => each (List.range 32) (fun e s => s.askSout b e 2) s) s
  each (blocks.flatMap fourOf) (fun n s => s.kick n) s

/-! ## Beats (R207, R208) -/

/-- First turn boundary at or after a cycle, given the present one: whether the present cycle is a boundary at or after it. -/
def Dev.boundaryFrom (s : Dev) (t : Nat) : Bool := s.turnStart && decide (t ≤ s.now)

/-- Whether every member of a Lot has reported ready. -/
def Dev.allReady (s : Dev) (l : Lot) : Bool := l.members.all fun n => (s.stall n).ready
/-- The cycle of the last ready of a Lot's members. -/
def Dev.lastReady (s : Dev) (l : Lot) : Nat := l.members.foldl (fun m n => max m (s.stall n).readyAt) 0

/-- Whether R207 lets the next beat of a Lot start in this cycle, credit apart. -/
def Dev.beatDue (s : Dev) (l : Lot) : Bool :=
  s.allReady l && s.boundaryFrom (max l.nextBeat (if l.members.isEmpty then 0 else s.lastReady l + 8))

/-- The first turn boundary at or after a cycle. -/
def Dev.boundaryAt (s : Dev) (t : Nat) : Nat := let o := s.now - s.time; o + (t - o + 7) / 8 * 8

/-- The stretched cycles of a Lot's beat that ends (R208): what late members lengthened it by. -/
def Dev.countBeat (s : Dev) (k : Nat) : Dev :=
  let l := s.lot k
  s.iff (!l.members.isEmpty) fun s => s.bump 0x6040 k 0 (s.boundaryAt (s.lastReady l + 8) - l.nextBeat)

/-- The step value of a context's present laid run, else of its latest launch or collective start (R314, R322). -/
def Dev.runStep (s : Dev) (c : Nat) : Nat := match s.runningOp (s.ctx c).ring 0x12 with
  | some k => fld k.entry 16 7
  | none => (s.ctx c).step

/-- The next beat of a Lot starts now (R207): the members go on, with the step value of the run. -/
def Dev.beginBeat (s : Dev) (k : Nat) : Dev :=
  let l := s.lot k
  let c := l.front.ctx
  let s := s.countBeat k
  let s := each l.members (fun n s =>
    (s.rouse (n / 4)).modStall n fun x => { x with ready := false, beatStart := s.now }) s
  let s := each (l.rect.flatMap fourOf) (fun n s =>
    s.iff (s.stalls.any fun p => p.1 == n) fun s => s.modStall n fun x => { x with step := s.runStep c }) s
  s.modLot k fun x =>
    { x with beat := { x.beat with num := (x.beat.num + 1) % 2 ^ 32, stretch := x.stretchNext, start := s.now,
                                   ssto := (s.ctx c).sstoCycles, lateth := (s.ctx c).latethOf } }

/-! ## Lot scope and PITCH scope (R357, R358) -/

/-- The seat of a shelf's context in a Lot. -/
def Lot.seatOf (l : Lot) (c : Nat) : Nat := if l.seat1 = some c then 1 else 0

/-- A Lot-scope swap: the front and back shelves change places. It ends the beat of a laid front, whose lengthening is counted (R208), and
beat 0 of a laid section takes the STRETCH in force (R207). -/
def Dev.swapLot (s : Dev) (k : Nat) : Dev :=
  let l := s.lot k
  let old := l.front
  let new := l.back
  let kept : Bool := old.kind != 0
  let s := s.iff (old.kind == 1 && l.beat.active) fun s => s.countBeat k
  let s := s.modLot k fun x =>
    { x with front := new, back := if kept then old else {}, bstate := if kept then .ready else .empty, bretain := kept,
             promote := false, fseat := x.seatOf new.ctx, swaps := (x.swaps + 1) % 2 ^ 32, swapReq := none, swapTime := s.now, waitSince := none,
             beat := { num := 0, len := new.beat, stretch := if new.kind = 2 then min 48 x.stretchNext else x.stretchNext, active := new.kind == 1, start := s.now,
                       creditAt := s.now, ssto := (s.ctx new.ctx).sstoCycles, lateth := (s.ctx new.ctx).latethOf } }
  let s := each (s.grid.shifts.filter fun h => new.shifted && s.shiftFits k h) (fun h s => s.applyShift h) s
  let step := s.runStep new.ctx
  let s := each l.rect (fun b s => s.swapBlock b (old.blocks.get b) (new.blocks.get b) step) s
  let s := each l.rect (fun b s => s.iff ((s.block b).island == .off) fun s =>
    (s.askIsland (s.lot k) b 2 (some new.env)).askBanks b 2 (s.banksToWake b (new.blocks.get b))) s
  (s.afterSwap l.rect).refreshFront k

/-- Blocks of a Pitch's subtree, by the descriptors given; fuel bounds the depth. -/
def subtree (ps : List Pitch) : Nat → Nat → List Nat
  | 0, _ => []
  | n + 1, pid => match ps.find? fun p => p.pid = pid with
    | none => []
    | some p => p.children.flatMap fun c => if c.2 = 0 then [c.1] else subtree ps n c.1
/-- The Pitches of a subtree, its root among them. -/
def subPitches (ps : List Pitch) : Nat → Nat → List Nat
  | 0, _ => []
  | n + 1, pid => match ps.find? fun p => p.pid = pid with
    | none => []
    | some p => pid :: (p.children.flatMap fun c => if c.2 = 0 then [] else subPitches ps n c.1)

/-- A PITCH-scope swap: the blocks of the subtree take the shelves of the partial image, and the back shelf is EMPTY afterwards. -/
def Dev.swapPitch (s : Dev) (k pid : Nat) : Dev :=
  let l := s.lot k
  let bs := subtree l.front.pitches 16 pid
  let ps := subPitches l.front.pitches 16 pid
  let old := l.front
  let new := l.back
  let front := { old with blocks := bs.foldl (fun t b => t.set b (new.blocks.get b)) old.blocks,
                          pitches := (old.pitches.filter fun p => !ps.contains p.pid) ++ new.pitches,
                          bells := old.bells ||| new.bells }
  let s := s.modLot k fun x =>
    { x.emptyBack with front := front, swaps := (x.swaps + 1) % 2 ^ 32, swapReq := none, swapTime := s.now }
  let s := each bs (fun b s => s.swapBlock b (old.blocks.get b) (new.blocks.get b) (s.runStep old.ctx)) s
  s.afterSwap bs

/-! ## The swap turn (R357) -/

/-- Whether the swap turn of a waiting swap is now (R357). -/
def Dev.swapTurn (s : Dev) (l : Lot) (start : Nat) : Bool :=
  !s.lotTesting l && (if l.front.kind = 1 ∧ l.beat.active then s.beatDue l && s.boundaryFrom start else s.boundaryFrom start)

/-- Ask for a swap of a Lot: of a Pitch subtree, or of the whole Lot. -/
def Dev.askSwap (s : Dev) (k : Nat) (q : SwapReq) : Dev := s.modLot k fun l => { l with swapReq := some q }

/-- The ring of a context. -/
def Dev.ringOf (s : Dev) (c : Nat) : Nat := (s.ctx c).ring

/-- SWAP_SHELF of a scope (R357, R358): a scope that does not match the back shelf, or an EMPTY back shelf with no load of the context
in progress, completes with NOT_LOADED; else the command starts when the back shelf is READY, and waits for its swap turn. -/
def swapCommand (r scope : Nat) (s : Dev) : Dev :=
  match s.ringCtx r with
  | none => s
  | some c =>
    let k := (s.ctx c).lot
    let l := s.lot k
    let loadRuns := (s.ring r).running.any fun x => opcodeOf x.entry == 0x10
    let empty := l.bstate == .empty && !loadRuns
    let long := (s.ctx c).cyclic && s.tooLong l c
      (((s.ring r).fetched.head?.map fun x => x.entry).getD [])
    let fits (e : Bytes) : Bool := empty || long || (l.backReady && s.mayOccupy c e && l.swapReq.isNone)
    s.start r 0x11 (fun e => bits (byte e 8) 0 0 == scope && fits e) fun id _ s =>
      if empty then s.done r id 0x30 []
      else if long then s.done r id 0x45 []
      else if l.back.partialPitch.isSome ≠ (scope == 1) then s.done r id 0x30 []
      else s.askSwap k { pitch := if scope = 1 then l.back.partialPitch else none, cmd := some id, start := s.now, ctx := some c }
/-- SWAP_SHELF (R357). -/
def swapShelf (r : Nat) (s : Dev) : Dev := swapCommand r 0 s
def execSwapShelf (r : Nat) (s : State) : Host.Outcome State Fault Refusal := s.actOn (decide (r < 64)) (swapShelf r)
/-- SWAP_SHELF with PITCH scope (R358). -/
def swapShelfPitchScope (r : Nat) (s : Dev) : Dev := swapCommand r 1 s
def execSwapShelfPitchScope (r : Nat) (s : State) : Host.Outcome State Fault Refusal :=
  s.actOn (decide (r < 64)) (swapShelfPitchScope r)

end Sys2Proof.Machine
end

