-- ==== Sys2Proof/Machine/Board.lean ====
section
/-! DEFINITION. The Task Board (R321 to R335): laid runs and beats, tile tasks, demand swaps, and the windows of the cyclic class. -/
namespace Sys2Proof.Machine

/-- Counters of a context (R341): item c of record 0x6050. -/
def Dev.bumpCtx (s : Dev) (c w : Nat) (n : Nat := 1) : Dev := s.bump 0x6050 c w n

/-! ## Windows and overruns (R330 to R335) -/

/-- Ten microseconds in cycles, the unit of a cyclic table (R330). -/
abbrev tenUs : Nat := 28000

/-- Read a cyclic table at a local offset (R330). -/
def Dev.cycleAt (s : Dev) (a : Nat) : Cycle :=
  let n := s.memVal (a + 1) 1 + 1
  { frame := s.memVal (a + 2) 3, guardB := s.memVal (a + 5) 1,
    windows := (List.range n).map fun i =>
      let w := s.memVal (a + 16 + 8 * i) 8
      { start := bits w 16 0, len := bits w 33 17, seat := bits w 34 34, wake := bits w 42 35 } }

/-- Whether each window starts after the one before it has ended, and the last ends within the frame (R331). -/
def inOrderW (frame : Nat) : List Window → Bool
  | [] => true
  | [w] => decide (w.start + w.len ≤ frame)
  | w :: v :: r => decide (w.start + w.len ≤ v.start) && inOrderW frame (v :: r)

/-- Whether a table is accepted (R331): its header, its windows and their order. -/
def Dev.cycleOk (s : Dev) (a : Nat) : Bool :=
  let c := s.cycleAt a
  let raw := s.memAt (a + 16) (8 * c.windows.length)
  s.memVal a 1 == 1 && zeroAt (s.memAt a 16) 6 10 && decide (100 ≤ c.frame) && decide (c.frame ≤ 100000)
    && ((List.range c.windows.length).all fun i => bits (fld raw (8 * i) 8) 63 43 == 0)
    && (c.windows.all fun w => decide (1 ≤ w.len) && decide (w.len ≤ 100000)) && inOrderW c.frame c.windows

/-- CYCLE_LOAD (R331): a table loaded while another runs waits for the next frame start. -/
def cycleLoad (r : Nat) (s : Dev) : Dev :=
  s.start r 0x18 (fun _ => true) fun id e s =>
    let a := fld e 8 8
    match s.ringLot r with
    | none => s
    | some k =>
      let l := s.lot k
      if jobEnd < a + 16 ∨ jobEnd < a + 16 + 8 * (s.memVal (a + 1) 1 + 1) ∨ !s.cycleOk a ∨ !s.lotCyclic l then s.done r id 0x48 []
      else
        let c := s.cycleAt a
        let s := s.modLot k fun x => if x.t0.isSome ∧ x.cyc.isSome then { x with cycNext := some c } else { x with cyc := some c }
        s.done r id 0 []
def execCycleLoad (r : Nat) (s : State) : Host.Outcome State Fault Refusal := s.actOn (decide (r < 64)) (cycleLoad r)

/-- CYCLE_START (R332). -/
def cycleStart (r : Nat) (s : Dev) : Dev :=
  s.start r 0x19 (fun _ => true) fun id e s =>
    match s.ringLot r with
    | none => s
    | some k =>
      let l := s.lot k
      let t := fld e 8 8
      if l.cyc.isNone then s.done r id 0x48 []
      else if t < s.time + 10 * usec then s.done r id 0x4C []
      else
        let s := s.modLot k fun x =>
          { x with t0 := some t, frameNo := 0, winNext := 0, window := none, winOver := none, winIdle := false, waked := false,
                   cyc := x.cycNext.or x.cyc, cycNext := none }
        s.done r id 0 []
def execCycleStart (r : Nat) (s : State) : Host.Outcome State Fault Refusal := s.actOn (decide (r < 64)) (cycleStart r)

/-- Start of the next major frame on the time counter: t0 is the origin of the present one, or of the first before it has started. -/
def Lot.nextFrame (l : Lot) : Option Nat := match l.t0, l.cyc with
  | some t, some c => some (if l.frameNo = 0 then t else t + c.frame * tenUs)
  | _, _ => none

/-- FRAME_START (R332): a table that waits takes the place of the old one. -/
def frameStart (k : Nat) (s : Dev) : Dev :=
  match (s.lot k).nextFrame with
  | none => s
  | some t =>
    if s.time < t ∨ !s.lit then s
    else s.modLot k fun l =>
      { l with t0 := some t, frameNo := l.frameNo + 1, winNext := 0, cyc := l.cycNext.or l.cyc, cycNext := none }
def execFrameStart (lot : Nat) (s : State) : Host.Outcome State Fault Refusal := s.actOn (decide (lot < 64)) (frameStart lot)

/-- The next window of a Lot and its scheduled start: of the present frame, else the first of the next frame. -/
def Lot.nextWindow (l : Lot) : Option (Window × Nat) := match l.t0, l.cyc, l.nextFrame with
  | some t, some c, some f =>
    if l.frameNo ≠ 0 ∧ l.winNext < c.windows.length then (c.windows[l.winNext]?).map fun w => (w, t + w.start * tenUs)
    else ((l.cycNext.getD c).windows[0]?).map fun w => (w, f + w.start * tenUs)
  | _, _, _ => none

/-- The envelope of the shelf that a seat's context has in a Lot (R412). -/
def Lot.envOf (l : Lot) (c : Option Nat) : Option Envelope :=
  if l.front.kind ≠ 0 ∧ c = some l.front.ctx then some l.front.env
  else if l.back.kind ≠ 0 ∧ c = some l.back.ctx then some l.back.env
  else none

/-- WINDOW_WAKE_LEAD (R332). -/
def windowWakeLead (k : Nat) (s : Dev) : Dev :=
  let l := s.lot k
  match l.nextWindow with
  | none => s
  | some (w, t) =>
    if l.waked ∨ !s.lit ∨ s.time + w.wake * tenUs < t then s
    else (s.askLot l 0 (l.envOf (l.seat w.seat))).modLot k fun x => { x with waked := true }
def execWindowWakeLead (lot : Nat) (s : State) : Host.Outcome State Fault Refusal :=
  s.actOn (decide (lot < 64)) (windowWakeLead lot)

/-- Whether a running command lies in its non-preemptible span (R333): a laid run from its first credited beat on, a tile task from its
placement on and a commit from its taking on (aux), a swap from its start. -/
def RunCmd.spans (x : RunCmd) : Bool := match opcodeOf x.entry with
  | 0x11 => true
  | 0x12 | 0x13 => x.aux != 0
  | _ => false
/-- Whether a context has a non-preemptible command in flight. -/
def Dev.spansOf (s : Dev) (c : Nat) : Bool :=
  let y := s.ctx c
  y.seated && (s.ring y.ring).running.any RunCmd.spans

/-- The window of a Lot ends, or its overrun does (R335): d is how long the overrun lasted, op the command that completed last. -/
def Dev.closeWindow (s : Dev) (k d op : Nat) : Dev :=
  let l := s.lot k
  let free (s : Dev) : Dev := (s.iff l.winHeld fun s => s.bump 0x6040 k 2).modLot k fun x =>
    { x with window := none, winOver := none, winIdle := false, winHeld := false }
  match l.window, l.seat l.winSeat with
  | some i, some x =>
    if d = 0 then free s
    else
      let s := (s.bumpCtx x 5).bumpCtx x 6 (d / usec)
      let s := match l.nextWindow with
        | some (w, t) =>
          s.iff (decide (t < l.winEnd + d) && w.seat != l.winSeat) fun s => s.modCtx x fun y => { y with debt := y.debt + d }
        | none => s
      free (s.iff (decide (l.winGuard < d)) fun s =>
        (s.bumpCtx x 7).ctxEvent x 0x04 [(32, 1, i), (33, 1, op), (36, 4, d / usec)])
  | _, _ => free s

/-- WINDOW_END (R335): at its scheduled end a window closes, or its overrun begins; a fault that discards the commands of an overrun
ends it. -/
def windowEnd (k : Nat) (s : Dev) : Dev :=
  let l := s.lot k
  if l.window.isNone ∨ s.time < l.winEnd then s
  else match l.seat l.winSeat with
    | some c => if s.spansOf c then s.modLot k fun x => { x with winOver := some l.winEnd } else s.closeWindow k 0 0
    | none => s.closeWindow k 0 0
def execWindowEnd (lot : Nat) (s : State) : Host.Outcome State Fault Refusal := s.actOn (decide (lot < 64)) (windowEnd lot)

/-- An overrun ends with the completion of the latest non-preemptible command of the window's context (R335). -/
def Dev.endOverrun (s : Dev) (k c op : Nat) : Dev :=
  let l := s.lot k
  match l.winOver with
  | some e => if s.spansOf c then s else s.closeWindow k (s.time - e) op
  | none => s

/-- The laid run of a context that is in progress. -/
def Dev.laidRun (s : Dev) (c : Nat) : Option RunCmd :=
  (s.ring (s.ctx c).ring).running.find? fun x => opcodeOf x.entry == 0x12 && !isTask x.entry
/-- Whether a laid run that has not begun may begin now: in the cyclic class only inside a window of its seat that has room for its
declared maximum (R332 to R334). -/
def Dev.mayBegin (s : Dev) (l : Lot) (c : Nat) : Bool :=
  !(s.ctx c).cyclic || (match s.laidRun c with
    | some x => x.aux != 0 || s.inWindow l (s.ctx c).seat (s.maxOf l c x.entry)
    | none => s.inWindow l (s.ctx c).seat 0)

/-- Whether the next beat of a Lot may start now, a swap apart (R207, R322, R332). -/
def Dev.mayBeat (s : Dev) (l : Lot) : Bool :=
  l.front.kind == 1 && l.beat.active && l.credit != 0 && s.lotAwake l && s.beatDue l && s.boundaryFrom l.beat.creditAt
    && s.mayBegin l l.front.ctx
/-- The next beat of a Lot starts and takes its credit (R322). -/
def Dev.creditBeat (s : Dev) (k : Nat) : Dev :=
  let s := s.beginBeat k
  let s := s.modRing (s.ctx (s.lot k).front.ctx).ring fun y =>
    { y with running := y.running.map fun x => if opcodeOf x.entry = 0x12 then { x with aux := 1 } else x }
  s.modLot k fun x => { x with credit := x.credit - 1 }

/-- SHELF_SWAP (R357): in its swap turn the swap that waits takes effect, and the command that asked for it completes. A PITCH-scope swap
takes no credit, and a beat that has credit starts in its turn (R358; DEDUCED, notes/assumptions/25.md). -/
def shelfSwap (k : Nat) (s : Dev) : Dev :=
  let l := s.lot k
  match l.swapReq with
  | none => s
  | some q =>
    if !s.lit ∨ !s.swapTurn l q.start ∨ l.bstate ≠ .ready then s
    else
      let s := match q.pitch with
        | some p => (s.iff (s.mayBeat l) fun s => s.creditBeat k).swapPitch k p
        | none => s.swapLot k
      match q.cmd, q.ctx with
      | some id, some c => (s.done (s.ringOf c) id 0 [(32, 8, s.time), (40, 4, (s.lot k).swaps)]).endOverrun k c 0x11
      | _, _ => s
def execShelfSwap (lot : Nat) (s : State) : Host.Outcome State Fault Refusal := s.actOn (decide (lot < 64)) (shelfSwap lot)

/-- What keeps a window of a seat from running (R332, R340): no context, a faulted one, or a shelf not loaded with its preloads
complete. -/
def Dev.idleSeat (s : Dev) (l : Lot) (seat : Nat) : Bool := match l.seat seat with
  | none => true
  | some c => (s.ctx c).state != .bound ||
      !((l.front.kind != 0 && l.front.ctx == c) || (l.back.kind != 0 && l.back.ctx == c && l.backReady))

/-- Longest wait for the blocks of a Lot that are not awake, in cycles: none when a wake has not been admitted yet. -/
def Dev.wakeDelay (s : Dev) (l : Lot) : Option Nat :=
  let bs := (s.usable l).filter fun b => !(s.block b).awake
  bs.foldl (fun m b => match m, (s.block b).islandAt with
    | some d, some t => some (max d (t - s.now))
    | _, _ => none) (some 0)

/-- WAKE_LATE (R332), which no wait for a test raises (R501): the delay in µs is the longest admitted wake's, and a free value while a
wake waits for its admission. -/
def Dev.wakeLate (s : Dev) (k c i : Nat) : Dev :=
  let l := s.lot k
  if s.lotAwake l ∨ s.lotTesting l then s
  else
    let s := s.bump 0x6040 k 1
    let (d, s) := match s.wakeDelay l with
      | some d => (d / usec, s)
      | none => s.draw
    s.ctxEvent c 0x05 [(32, 1, i), (36, 4, d)]

/-- A window of a bound context with a shelf begins: its scheduled end falls short by the context's debit (R332, R335). -/
def Dev.openWindow (s : Dev) (k c i start : Nat) (w : Window) : Dev :=
  let x := s.ctx c
  let cut := min x.debt (w.len * tenUs)
  let s := s.iff (cut != 0) fun s => s.setCtx c { x with debt := x.debt - cut }
  let s := s.modLot k fun l =>
    { l with window := some i, winEnd := start + w.len * tenUs - cut, winSeat := w.seat,
             winGuard := (l.cyc.map Cycle.guardCycles).getD 0, winIdle := false, winHeld := s.lotTesting l, winNext := i + 1, waked := false }
  let s := s.iff (!(s.lotAwake (s.lot k))) fun s => s.askLot (s.lot k) 0 ((s.lot k).envOf (some c))
  s.wakeLate k c i

/-- WINDOW_START (R332): the seat's shelf comes to the front in its swap turn, or the window passes idle. After an overrun it begins at
a turn boundary (R335). A window whose swap waits for a test beyond its end counts as idle (R501). -/
def windowStart (k : Nat) (s : Dev) : Dev :=
  let l := s.lot k
  match l.t0, (l.cyc.bind fun c => c.windows[l.winNext]?) with
  | some t0, some w =>
    let start := t0 + w.start * tenUs
    if l.frameNo = 0 ∨ l.window.isSome ∨ s.time < start ∨ !s.lit then s
    else if s.idleSeat l w.seat then
      (s.modLot k fun x => { x with window := some l.winNext, winEnd := start + w.len * tenUs, winSeat := w.seat, winIdle := true,
                                    winNext := l.winNext + 1, waked := false }).bump 0x6040 k 2
    else match l.seat w.seat with
      | none => s
      | some c =>
        if l.front.kind ≠ 0 ∧ l.front.ctx = c then
          if s.time = start ∨ s.turnStart then s.openWindow k c l.winNext start w else s
        else if l.winHeld ∧ start + w.len * tenUs ≤ s.time then
          (s.modLot k fun x => { x with winNext := l.winNext + 1, winHeld := false, waked := false }).bump 0x6040 k 2
        else if s.swapTurn l s.now then (s.swapLot k).openWindow k c l.winNext start w
        else s
  | _, _ => s
def execWindowStart (lot : Nat) (s : State) : Host.Outcome State Fault Refusal := s.actOn (decide (lot < 64)) (windowStart lot)

/-! ## Laid runs and beats (R207 to R210, R322) -/

/-- LAUNCH of a laid run (R322): it adds to the beat credit. Where no other laid run of the context is in progress, the flag words of its
Stalls start at zero (R61; DEDUCED, notes/assumptions/63.md). -/
def launchLaidRun (r : Nat) (s : Dev) : Dev :=
  match s.ringCtx r with
  | none => s
  | some c =>
    let k := (s.ctx c).lot
    let l := s.lot k
    let long (e : Bytes) : Bool := (s.ctx c).cyclic && s.tooLong l c e
    s.start r 0x12 (fun e => !isTask e && (long e || (s.mayOccupy c e && !s.lotTesting l))) fun id e s =>
      if long e then s.done r id 0x45 []
      else if l.front.kind ≠ 1 then s.done r id 0x44 []
      else
        let s := s.modCtx c fun x => { x with step := fld e 16 7, lstep := fld e 16 7 }
        let s := s.iff (((s.ring r).running.filter fun x => opcodeOf x.entry == 0x12 && !isTask x.entry).length ≤ 1) fun s =>
          each ((s.stalls.filter fun p => l.has (p.1 / 4)).map (·.1)) (fun n s => s.modStall n fun x => { x with flags := 0 }) s
        let s := (s.bumpCtx c 0).iff (!s.lotAwake l) fun s => s.askLot l 1 (some l.front.env)
        s.modLot k fun x => { x with credit := x.credit + fld e 12 4, beat := { x.beat with creditAt := s.now } }
def execLaunchLaidRun (r : Nat) (s : State) : Host.Outcome State Fault Refusal := s.actOn (decide (r < 64)) (launchLaidRun r)

/-- BEAT_START (R207, R322). A swap that waits takes the place of the beat (R357). -/
def beatStart (k : Nat) (s : Dev) : Dev :=
  let l := s.lot k
  s.iff (s.lit && l.swapReq.isNone && s.mayBeat l) fun s => s.creditBeat k
def execBeatStart (lot : Nat) (s : State) : Host.Outcome State Fault Refusal := s.actOn (decide (lot < 64)) (beatStart lot)

/-- Whether a laid run is over (R322): no credit, and every member ready, or with no member the next beat due. -/
def Dev.runOver (s : Dev) (l : Lot) : Bool :=
  l.front.kind == 1 && l.beat.active && l.credit == 0 && (if l.members.isEmpty then s.beatDue l else s.allReady l)

/-- Flag words of a Lot's Stalls together (R61). -/
def Dev.lotFlags (s : Dev) (l : Lot) : BitVec 32 :=
  (s.stalls.filter fun p => l.has (p.1 / 4)).foldl (fun f p => f ||| p.2.flags) 0

/-- LAID_RUN_COMPLETE (R322): the flag words join the summary (R61), the command completes with the beat number. -/
def laidRunComplete (k : Nat) (s : Dev) : Dev :=
  let l := s.lot k
  let c := l.front.ctx
  let r := (s.ctx c).ring
  match s.laidRun c with
  | none => s
  | some x =>
    if !s.runOver l ∨ x.aux = 0 then s
    else
      let s := (s.joinSummary c (s.lotFlags l)).bumpCtx c 2
      (s.done r x.id 0 [(32, 4, l.beat.num)]).endOverrun k c 0x12
def execLaidRunComplete (lot : Nat) (s : State) : Host.Outcome State Fault Refusal :=
  s.actOn (decide (lot < 64)) (laidRunComplete lot)

/-- BEAT_TIMEOUT (R209): the lowest member that has not reported ready. The Stalls that a PITCH-scope swap starts have their time from the
swap (DEDUCED, notes/assumptions/25.md). -/
def beatTimeout (k : Nat) (s : Dev) : Dev :=
  let l := s.lot k
  match l.members.find? fun n => !(s.stall n).ready with
  | none => s
  | some n =>
    if l.front.kind = 1 ∧ l.beat.active ∧ max l.beat.start l.swapTime + l.beat.ssto < s.now then
      s.hang n 0x0008 (s.stall n).pc
    else s
def execBeatTimeout (lot : Nat) (s : State) : Host.Outcome State Fault Refusal := s.actOn (decide (lot < 64)) (beatTimeout lot)

/-! ## Demand swaps (R329) -/

/-- DEMAND_SWAP (R329). A FAULTED front context never blocks it (R340). -/
def demandSwap (k : Nat) (s : Dev) : Dev :=
  let l := s.lot k
  match l.other with
  | none => s
  | some c =>
    let frontLets : Bool := match l.owner with
      | none => true
      | some f => (s.ctx f).state != .bound || (!s.occFlight f && (!s.occReady f || s.quantumUp l))
    if s.lit ∧ !(s.ctx c).cyclic ∧ s.occReady c ∧ l.backReady ∧ l.back.ctx = c ∧ l.swapReq.isNone ∧ frontLets ∧ s.swapTurn l s.now then
      (s.swapLot k).bump 0x6040 k 3
    else s
def execDemandSwap (lot : Nat) (s : State) : Host.Outcome State Fault Refusal := s.actOn (decide (lot < 64)) (demandSwap lot)

/-! ## Tile tasks (R323 to R328) -/

/-- The Stalls of a unit of a task: the Stall, or every Stall of the Pitch's subtree. -/
def Lot.taskStalls (l : Lot) (u : Nat) : List Nat :=
  if u < 0x900 then [u] else (subtree l.front.pitches 16 u).flatMap fourOf

/-- Stalls that lie in a Pitch subtree of the front shelf. -/
def Lot.inPitch (l : Lot) (n : Nat) : Bool := l.front.pitches.any fun p => p.children.any fun c => c.2 == 0 && c.1 == n / 4

/-- Whether a slot that is not FREE names a Stall, or a Pitch whose subtree holds it (R325). -/
def Dev.tasked (s : Dev) (l : Lot) (n : Nat) : Bool :=
  s.tasks.any fun t => t.2.state != 0 && (l.taskStalls t.2.unit).contains n

/-- Whether a Stall is free of other tasks and may run one: a task that completed in this cycle still holds it (R325, R328). -/
def Dev.openStall (s : Dev) (l : Lot) (n : Nat) : Bool :=
  let b := n / 4
  l.has b && !s.retired b && !(s.block b).fenced && !(s.block b).testing && !s.tasked l n
    && ((s.stall n).readyAt == 0 || decide ((s.stall n).readyAt < s.now))

/-- Target unit of a launch: TARGET and its number (R325); none while it is not free. -/
def Dev.targetOf (s : Dev) (l : Lot) (e : Bytes) : Option Nat :=
  let n := bits (fld e 24 2) 12 0
  match bits (byte e 10) 1 0 with
  | 0 => (List.range 2304).find? fun n => l.has (n / 4) && s.openStall l n && !l.inPitch n
  | 1 => if s.openStall l n then some n else none
  | _ => if (l.taskStalls n).all (s.openStall l) then some n else none

/-- Whether a launch is refused with BAD_TARGET (R325, R326). -/
def Dev.badTarget (s : Dev) (l : Lot) (e : Bytes) : Bool :=
  let n := bits (fld e 24 2) 12 0
  match l.front.tasks[byte e 9]? with
  | none => true
  | some kd =>
    l.front.kind != 2 || (byte e 11 != 0 && !bit kd.region.toNat 40) ||
      (match bits (byte e 10) 1 0 with
      | 0 => false
      | 1 => !(decide (n < 2304) && l.has (n / 4)) || s.retired (n / 4) || l.inPitch n
      | _ => !(decide (l.pbase ≤ n) && decide (n < l.pbase + l.pcount)) || !(l.front.pitches.any fun p => p.pid == n))

/-- LAUNCH of a tile task (R323): it waits for its placement. -/
def launchTileTask (r : Nat) (s : Dev) : Dev :=
  match s.ringCtx r with
  | none => s
  | some c =>
    let x := s.ctx c
    let l := s.lot x.lot
    let long (e : Bytes) : Bool := x.cyclic && s.tooLong l c e
    let may : Bool := x.state == .bound && x.seat == l.fseat
      && (if x.cyclic then s.inWindow l x.seat 0 && s.lotAwake l else !s.quantumUp l)
      && !s.lotTesting l
    s.start r 0x12 (fun e => isTask e && (long e || may)) fun id e s =>
      if s.badTarget l e then s.done r id 0x44 []
      else if long e then s.done r id 0x45 []
      else (s.modCtx c fun y => { y with step := fld e 16 7, lstep := fld e 16 7 }).bumpCtx c 0
def execLaunchTileTask (r : Nat) (s : State) : Host.Outcome State Fault Refusal := s.actOn (decide (r < 64)) (launchTileTask r)

/-- The oldest launch of a context that has not been placed (R325). -/
def Dev.unplaced (s : Dev) (c : Nat) : Option RunCmd :=
  (s.ring (s.ctx c).ring).running.find? fun x => isTileLaunch x.entry && x.aux == 0

/-- The lowest free task slot (R324). -/
def Dev.freeSlot (s : Dev) : Option Nat := (List.range 4096).find? fun k => (s.task k).state == 0

/-- Whether the oldest launch of a context that waits for its placement may be placed now, and where: its unit and the lowest free slot
(R324, R325). In the cyclic class the window must have room for its declared maximum (R334), and the Lot be awake (R332). -/
def Dev.placeOf (s : Dev) (c : Nat) : Option (RunCmd × Nat × Nat) :=
  let x := s.ctx c
  let l := s.lot x.lot
  match s.unplaced c with
  | none => none
  | some q =>
    if l.frontCtx ≠ some c ∨ x.state ≠ .bound ∨ s.lotTesting l
        ∨ (x.cyclic ∧ !(s.inWindow l x.seat (s.maxOf l c q.entry) && s.lotAwake l)) then none
    else match s.targetOf l q.entry, s.freeSlot with
      | some u, some k => some (q, u, k)
      | _, _ => none

/-- Whether a context may place in this cycle: launches take slots in ascending context identifier, so no lower context can place, and no
higher one has (R324; DESIGN CHOICE, notes/assumptions/24.md). -/
def Dev.placeTurn (s : Dev) (c : Nat) : Bool :=
  !(s.placed.1 == s.now && decide (c < s.placed.2)) && s.ctxs.all fun p => decide (c ≤ p.1) || (s.placeOf p.1).isNone

/-- TASK_PLACE (R324, R325): the oldest launch that waits takes the lowest free slot and its target. -/
def taskPlace (c : Nat) (s : Dev) : Dev :=
  let x := s.ctx c
  let l := s.lot x.lot
  match s.placeOf c with
  | none => s
  | some (q, u, k) =>
    if !s.lit ∨ !s.placeTurn c then s
    else
      let e := q.entry
      let t : TaskSlot := { unit := u, ctx := c, kind := byte e 9, state := 1, crec := crecOf e, ttag := fld e 28 4,
                            step := fld e 16 7, cmd := q.id,
                            args := (List.range (byte e 11)).map fun i => BitVec.ofNat 32 (fld e (32 + 4 * i) 4) }
      let s := { s with tasks := s.tasks.set k t, placed := (s.now, c) }
      let s := (s.modCmd x.ring q.id fun y => { y with aux := k + 1 }).countSlots
      each ((l.taskStalls u).map fun n => n / 4) (fun b s => (s.rouse b).askIsland l b 1 (some l.front.env)) s
def execTaskPlace (ctx : Nat) (s : State) : Host.Outcome State Fault Refusal := s.actOn (decide (ctx < 1024)) (taskPlace ctx)

/-- A receive queue at a task's start (R202, R326). -/
def RQueue.taskStart (q : RQueue) (w : Nat) : RQueue :=
  let size := bits w 12 6
  if size = 0 then { q with base := 0, size := 0, isOpen := false, msgs := [] }
  else { q with base := bits w 5 0, size := size, isOpen := true, inc := (q.inc + 1) % 16, msgs := [] }

/-- A Stall at a task's start (R61, R91, R124, R326). -/
def Stall.taskStart (st : Stall) (kd : TaskKind) (k now step : Nat) (rang : BitVec 32) : Stall :=
  let (base, len, entry, _) := regionOf kd.region
  { st with seq := .running, pc := entry, base := base, len := len, task := some k, ended := false, ready := false,
            holdSince := none, beatStart := now, step := step, loops := [], pendEpi := none, uses := [], folds := [],
            inclCols := [], flags := 0,
            queues := Tab.ofList 0 ((List.range 16).map fun q => (st.queues.get q : RQueue).taskStart (kd.queues.getD q 0)),
            tagMap := Tab.ofList 0 kd.tags, sendInc := Tab.ofList 0 kd.sendInc, latch := rang &&& BitVec.ofNat 32 kd.bellSub,
            bellSub := BitVec.ofNat 32 kd.bellSub }

/-- One Stall of a task starts (R326): its generators rewind, its tiles are unpredictable (R92), the arguments enter ARGQ. -/
def Dev.startOn (s : Dev) (n k : Nat) (t : TaskSlot) (kd : TaskKind) : Dev :=
  let s := (s.loseTiles n).modStall n fun st => st.taskStart kd k s.now t.step s.rang
  let s := s.modChest n fun c => { c with gens := c.gens.map fun g => (g.1, { g.2 with taken := 0 }) }
  let s := s.iff (!t.args.isEmpty) fun s =>
    let q := bits kd.region.toNat 39 36
    let s := s.modStall n fun st =>
      let w : RQueue := st.queues.get q
      let m : Msg := { words := (List.range 4).map fun i => t.args.getD i 0, sdev := s.elveel.devnum, sunit := n, tag := 0,
                       nw := t.args.length - 1, qinc := w.inc, at_ := s.now }
      { st with queues := st.queues.set q { w with msgs := [m] } }
    s.bump 0x6010 n (3 * q)
  s.kick n

/-- TASK_START (R326): once every block of the task is at RUN. -/
def taskStart (k : Nat) (s : Dev) : Dev :=
  let t := s.task k
  let x := s.ctx t.ctx
  let l := s.lot x.lot
  let ns := l.taskStalls t.unit
  match l.front.tasks[t.kind]? with
  | none => s
  | some kd =>
    if !s.lit ∨ t.state ≠ 1 ∨ l.frontCtx ≠ some t.ctx ∨ !(ns.all fun n => (s.block (n / 4)).island == .run) then s
    else each ns (fun n s => s.startOn n k t kd) (s.modTask k fun y => { y with state := 2 })
def execTaskStart (slot : Nat) (s : State) : Host.Outcome State Fault Refusal := s.actOn (decide (slot < 4096)) (taskStart slot)

/-- A Stall at its task's end (R202, R206): readyAt keeps the cycle, in which the Stall is still busy (R328). -/
def Stall.taskEnd (st : Stall) (now : Nat) (rang : BitVec 32) : Stall :=
  { st with seq := .stopped, ended := false, task := none, latch := rang &&& st.bellSub, readyAt := now,
            queues := st.queues.map fun q => (q.1, { q.2 with isOpen := false, msgs := [] }) }

/-- A task completes (R327). -/
def Dev.taskDone (s : Dev) (k : Nat) : Dev :=
  let t := s.task k
  let x := s.ctx t.ctx
  let ns := (s.lot x.lot).taskStalls t.unit
  let f := ns.foldl (fun f n => f ||| (s.stall n).flags) (0 : BitVec 32)
  let s := each ns (fun n s => s.modStall n fun st => st.taskEnd s.now s.rang) s
  let s := ({ s with tasks := s.tasks.set k default }.joinSummary t.ctx f).countSlots.bumpCtx t.ctx 1
  (s.done x.ring t.cmd 0 [(32, 4, t.ttag), (36, 4, f.toNat), (40, 2, t.unit), (42, 2, k)]).endOverrun x.lot t.ctx 0x12

/-- END_COMPLETE (R90, R327): with every engine idle the sequencer stops; a Stall task is complete, a Pitch task when every Stall of
its subtree is. -/
def endComplete (n : Nat) (s : Dev) : Dev :=
  let st := s.stall n
  if !st.ended ∨ st.seq ≠ .running ∨ !st.jobs.isEmpty then s
  else
    let s := s.modStall n fun x => { x with seq := .stopped, ended := false }
    match st.task with
    | none => s
    | some k =>
      let t := s.task k
      let ended := insertUp n t.ended
      let ns := (s.lot (s.ctx t.ctx).lot).taskStalls t.unit
      if ns.all fun m => ended.contains m then s.taskDone k
      else s.modTask k fun y => { y with ended := ended }
def execEndComplete (n : Nat) (s : State) : Host.Outcome State Fault Refusal := s.actOn (decide (n < 2304)) (endComplete n)

/-! ## FENCE and waits (R321, R324, R325) -/

/-- FENCE (R321). -/
def fence (r : Nat) (s : Dev) : Dev := s.start r 0x14 (fun _ => true) fun id _ s => s.done r id 0 []
def execFence (r : Nat) (s : State) : Host.Outcome State Fault Refusal := s.actOn (decide (r < 65)) (fence r)

/-- One cycle of a Lot: the waits of its launches (R324, R325), how long the back context has waited, a test's time
apart (R329, R501), and when the Lot last had work (R409). -/
def Dev.lotTick (s : Dev) (k : Nat) : Dev :=
  let l := s.lot k
  let seats := l.seat0.toList ++ l.seat1.toList
  let s := seats.foldl (fun s c => match s.unplaced c with
    | none => s
    | some q =>
      if s.freeSlot.isNone then s.bumpCtx c 4
      else s.iff (s.targetOf l q.entry).isNone fun s => s.bumpCtx c 3) s
  let waits : Bool := match l.other with
    | some c => !(s.ctx c).cyclic && s.occReady c
    | none => false
  let busy := seats.any fun c => s.occFlight c || s.occReady c
  let test := s.lotTesting l
  let since : Option Nat := if waits then some (l.waitSince.getD s.now + b2n test) else none
  let held : Bool := if l.window.isSome then l.winHeld && test else l.winHeld || (test && l.nextWindow.any fun p => decide (p.2 ≤ s.time))
  if since = l.waitSince ∧ held = l.winHeld ∧ !busy then s
  else s.modLot k fun x => { x with waitSince := since, winHeld := held, lastBusy := if busy then s.now else x.lastBusy }

end Sys2Proof.Machine
end

