-- ==== Sys2Proof/Machine/Contexts.lean ====
section
/-! DEFINITION. The commands of the management ring on Lots and contexts (R29, R30, R177, R315 to R320, R340), the end of a teardown
(R339), and the small commands of every ring (R202, R374). -/
namespace Sys2Proof.Machine

/-! ## Lots (R29, R30, R177) -/

/-- The Lot that a descriptor word gives (R29), in state FORMING. -/
def lotOfWord (w : Nat) : Lot :=
  { x0 := bits w 5 0, y0 := bits w 11 8, width := bits w 17 12, height := bits w 23 20, pbase := bits w 35 24, pcount := bits w 46 36,
    state := 1 }
/-- The descriptor word of a Lot (R29). -/
def Lot.word (l : Lot) : Nat :=
  l.x0 + 2 ^ 8 * l.y0 + 2 ^ 12 * l.width + 2 ^ 20 * l.height + 2 ^ 24 * l.pbase + 2 ^ 36 * l.pcount + 2 ^ 48 * l.state

/-- Whether a word's own fields are in order for a formation (R29). -/
def lotWordOk (w : Nat) : Bool :=
  let l := lotOfWord w
  bits w 7 6 == 0 && bits w 19 18 == 0 && bit w 47 == false && bits w 63 48 == 0
    && decide (l.x0 ≤ 47) && decide (l.y0 ≤ 11) && decide (1 ≤ l.width) && decide (l.width ≤ 48) && decide (l.x0 + l.width ≤ 48)
    && decide (1 ≤ l.height) && decide (l.height ≤ 12) && decide (l.y0 + l.height ≤ 12) && decide (l.pcount ≤ 1792)
    && (l.pcount == 0 || (decide (0x900 ≤ l.pbase) && decide (l.pbase + l.pcount ≤ 0x1000)))

/-- Whether two Lots share a block or a Pitch identifier (R30). -/
def Lot.overlaps (a b : Lot) : Bool :=
  (decide (a.x0 < b.x0 + b.width) && decide (b.x0 < a.x0 + a.width) && decide (a.y0 < b.y0 + b.height)
    && decide (b.y0 < a.y0 + a.height))
  || (a.pcount != 0 && b.pcount != 0 && decide (a.pbase < b.pbase + b.pcount) && decide (b.pbase < a.pbase + a.pcount))

/-- LOT_FORM (R29, R30): the first failure is reported; a Lot that forms wakes its blocks. -/
def lotForm (s : Dev) : Dev :=
  s.start mgmtRing 0x01 (fun _ => true) fun id e s =>
    let k := bits (byte e 8) 5 0
    let w := fld e 16 8
    let l := lotOfWord w
    if !lotWordOk w then s.done mgmtRing id 0x49 []
    else if (s.lot k).state ≠ 0 then s.done mgmtRing id 0x4B []
    else if s.lots.any fun p => p.2.state != 0 && p.2.overlaps l then s.done mgmtRing id 0x4A []
    else
      let s := s.modLot k fun _ => l
      let s := s.modPower fun p => { p with dstate := .run }
      (s.askLot l 3 none).tryActive k
def execLotForm (s : State) : Host.Outcome State Fault Refusal := s.act lotForm

/-- LOT_RELEASE (R177): every powered bank of the Lot's Chests is cleared, and Concourse requests in flight to them get CHEST_OFF. -/
def lotRelease (s : Dev) : Dev :=
  s.start mgmtRing 0x02 (fun _ => true) fun id e s =>
    let k := bits (byte e 8) 5 0
    let l := s.lot k
    if l.seat0.isSome ∨ l.seat1.isSome then s.done mgmtRing id 0x4B []
    else if l.state ≠ 2 then s.done mgmtRing id 0 []
    else
      let s := s.modLot k fun x => { x with state := 3, relAt := s.now }
      each (l.rect.flatMap fourOf) (fun c s =>
        let s := each ((s.chest c).ports.flatMap fun p => p.2) (fun r s => s.rejectReq r stChestOff) s
        s.iff (!(s.chest c).banks.isEmpty) fun s =>
          (s.wipeBanks c 0xFFFF).modChest c fun x => { x with banks := [], ports := [] }) s
def execLotRelease (s : State) : Host.Outcome State Fault Refusal := s.act lotRelease

/-- LOT_RELEASE_DONE (R177): within 20 µs of the command; the blocks power-gate (R410), and the device leaves D-RUN when no Lot is
left (R405). -/
def lotReleaseDone (k : Nat) (s : Dev) : Dev :=
  let l := s.lot k
  if l.state ≠ 3 ∨ s.now < l.relAt + 20 * usec then s
  else
    let s := each l.rect (fun b s => s.powerOff b) s
    let s := { s with lots := s.lots.set k default }
    let s := s.iff (s.power.dstate == .run && s.lots.all fun p => p.2.state == 0) fun s => s.modPower fun p =>
      { p with dstate := .ready }
    match s.runningOp mgmtRing 0x02 with
    | some c => s.done mgmtRing c.id 0 []
    | none => s
def execLotReleaseDone (lot : Nat) (s : State) : Host.Outcome State Fault Refusal := s.actOn (decide (lot < 64)) (lotReleaseDone lot)

/-! ## Contexts (R313 to R320) -/

/-- Whether SSTO, LATETH and COLLTO lie in their ranges or are 0 (R314). -/
def timeoutsOk (ssto collto : Nat) : Bool :=
  (ssto == 0 || (decide (2 ^ 12 ≤ ssto) && decide (ssto ≤ 2 ^ 31))) && (collto == 0 || (decide (1000 ≤ collto) && decide (collto ≤ 10000000)))

/-- Whether an entry image is accepted (R313 to R315). -/
def ctxImageOk (b : Bytes) : Bool :=
  let w := fld b 0 8
  bits w 3 0 == 1 && bits w 15 12 == 0 && bits w 63 38 == 0 && bits (fld b 16 8) 63 56 == 0 && bits (fld b 40 4) 31 8 == 0
    && zeroAt b 44 4 && bits (fld b 64 4) 31 29 == 0 && zeroAt b 68 188 && decide (bits w 10 8 ≤ 4)
    && timeoutsOk (fld b 48 4) (fld b 56 4) && decide (fld b 24 8 < jobEnd) && decide (fld b 32 8 < jobEnd)

/-- The entry that an image gives: its RO fields are the device's own, FLAGSUM is cleared by ones (R313, R314). -/
def ctxOfImage (x : Ctx) (b : Bytes) : Ctx :=
  let w := fld b 0 8
  { x with gen := bits w 3 0, state := .defined, cyclic := bit w 6, strict := bit w 7, rmode := bits w 10 8, lenient := bit w 11,
           trapen := bits w 23 16, seed := BitVec.ofNat 64 (fld b 8 8), colltab := fld b 24 8, pooldesc := fld b 32 8,
           flagsum := clearFlags x.flagsum (fld b 40 4) 0, ssto := fld b 48 4, lateth := fld b 52 4, collto := fld b 56 4 }

/-- CTX_DEFINE (R315). -/
def ctxDefine (s : Dev) : Dev :=
  s.start mgmtRing 0x03 (fun _ => true) fun id e s =>
    let c := bits (fld e 8 2) 9 0
    let a := fld e 16 8
    let b := s.memAt a 256
    if (s.ctx c).seated then s.done mgmtRing id 0x42 []
    else if jobEnd < a + 256 ∨ !ctxImageOk b then s.done mgmtRing id 0x41 []
    else (s.setCtx c (ctxOfImage (s.ctx c) b)).done mgmtRing id 0 []
def execCtxDefine (s : State) : Host.Outcome State Fault Refusal := s.act ctxDefine

/-- Why a bind is refused (R317, R373); 0 for none. -/
def Dev.bindReason (s : Dev) (c k seat : Nat) : Nat :=
  let x := s.ctx c
  let l := s.lot k
  if x.state ≠ .defined then 5
  else if l.state ≠ 2 then 1
  else if (l.seat seat).isSome then 2
  else if (match l.seat (1 - seat) with
    | some o => (s.ctx o).cyclic != x.cyclic
    | none => false) then 3
  else if (s.ctxs.filter fun p => p.2.seated).length ≥ 64 then 4
  else 0

/-- Clerks in service of a pool (R471): 0 and 1 the compute dies, 2 the I/O die. -/
def Dev.poolUp (s : Dev) (pool : Nat) : List Nat :=
  ((List.range (if pool = 2 then 4 else 16)).map fun i => 16 * pool + i).filter fun k => (s.service.clerks.get k).up

/-- The home Clerk of a context bound to a Lot (R472): one of its die's pool, chosen by a free value. -/
def Dev.homeClerk (s : Dev) (l : Lot) : Nat × Dev :=
  let on1 := (l.rect.filter fun b => decide (288 ≤ b)).length
  let pool := if l.rect.length < 2 * on1 then 1 else 0
  let up := if s.poolUp pool = [] then s.poolUp (1 - pool) else s.poolUp pool
  let (r, s) := s.draw
  (up.getD (r % max 1 up.length) 0, s)

/-- A second context binds in a Lot, and the back shelf is its own, empty until it loads it (R317): what the first has there goes, and its
load in progress ends with ABORTED (DESIGN CHOICE, notes/assumptions/67.md). A shelf that waits to become front stays (R320). -/
def Dev.clearBack (s : Dev) (k : Nat) : Dev :=
  let l := s.lot k
  if l.bstate = .empty ∨ l.promote then s
  else
    let loads := s.loading.filter fun p => s.ringLot p.1 == some k
    let runs : Bool := l.bstate != .ready
    let r := (s.ctx l.back.ctx).ring
    let s := s.loseBack k
    if !runs then s
    else match s.runningOp r 0x10 with
      | none => s
      | some q => { s with loading := if loads.isSome then none else s.loading }.done r q.id 0x26 []

/-- CTX_BIND (R317): the lowest free command ring, whose counters start at 0 (R363). -/
def ctxBind (s : Dev) : Dev :=
  s.start mgmtRing 0x04 (fun _ => true) fun id e s =>
    let c := bits (fld e 8 2) 9 0
    let k := bits (byte e 10) 5 0
    let seat := bits (byte e 11) 0 0
    let why := s.bindReason c k seat
    if why ≠ 0 then s.done mgmtRing id 0x43 [(33, 1, why)]
    else match (List.range 64).find? fun r => !(s.ring r).live with
      | none => s.done mgmtRing id 0x43 [(33, 1, 4)]
      | some r =>
        let (h, s) := s.homeClerk (s.lot k)
        let s := s.modSvc fun v => { v with home := v.home.set c h }
        let s := s.modRing r fun _ => { live := true, ctx := some c }
        let first := ((s.lot k).seat (1 - seat)).isNone
        let s := if first then s else s.clearBack k
        let s := s.modLot k fun l =>
          { l with seat0 := if seat = 0 then some c else l.seat0, seat1 := if seat = 1 then some c else l.seat1,
                   fseat := if first then seat else if l.promote then 1 - seat else l.fseat }
        let s := s.setCtx c { s.ctx c with state := .bound, lot := k, seat := seat, ring := r }
        s.done mgmtRing id 0 [(32, 1, r)]
def execCtxBind (s : State) : Host.Outcome State Fault Refusal := s.act ctxBind

/-- Whether a context may not be unbound (R320, R376). -/
def Dev.unbindBusy (s : Dev) (c : Nat) : Bool :=
  let y := s.ring (s.ctx c).ring
  y.chead != y.ctail || !y.fetched.isEmpty || !y.running.isEmpty || y.unacked != 0 || !y.pend.isEmpty || s.teardowns.any fun t => t.ctx == c

/-- The front shelf of a Lot goes (R320): its Stalls stop, its queues close, its circuits and banks are those of no shelf. -/
def Dev.dropFront (s : Dev) (k : Nat) : Dev :=
  let l := s.lot k
  let old := l.front
  let s := each l.rect (fun b s => each (fourOf b) (fun n s => (s.stopStall n).closeQueues n) s) s
  let s := s.modLot k fun x => { x with front := {}, credit := 0, beat := { x.beat with active := false, len := 0 } }
  each l.rect (fun b s =>
    let s := each (fourOf b) (fun n s =>
      s.iff (s.stalls.any fun p => p.1 == n) fun s => s.modStall n fun st => { st with seq := .stopped, bellSub := 0 }) s
    let ch := changes (old.blocks.get b).switchFrame []
    let s := s.modBlock b fun x => { x with sw := x.sw.take ch [], xfer := { x.xfer with latch := 0 } }
    s.dropBanks b) s

/-- CTX_UNBIND (R320). -/
def ctxUnbind (s : Dev) : Dev :=
  s.start mgmtRing 0x05 (fun _ => true) fun id e s =>
    let c := bits (fld e 8 2) 9 0
    let x := s.ctx c
    if !x.seated then s.done mgmtRing id 0x41 []
    else if s.unbindBusy c then s.done mgmtRing id 0x42 []
    else
      let k := x.lot
      let l := s.lot k
      let isFront : Bool := l.front.kind != 0 && l.front.ctx == c
      let s := if isFront then s.dropFront k else s
      let s := s.iff (l.bstate != .empty && l.back.ctx == c) fun s => s.loseBack k
      let s := each l.rect (fun b s => s.modXfer b fun y => { y with tcache := y.tcache.filter fun t => t.1 / 2 ^ 36 != c }) s
      let s := s.modRing x.ring fun _ => {}
      let s := s.modLot k fun y =>
        let y := { y with seat0 := if x.seat = 0 then none else y.seat0, seat1 := if x.seat = 1 then none else y.seat1 }
        match y.seat (1 - x.seat) with
        | none => y
        | some o =>
          if isFront && y.back.kind != 0 && y.back.ctx == o then
            { y with promote := true, swapReq := if x.cyclic then y.swapReq else some { start := s.now } }
          else { y with fseat := 1 - x.seat }
      let s := (s.setCtx c { x with state := .defined, lot := 0, seat := 0, ring := 0 }).refreshFront k
      s.done mgmtRing id 0 []
def execCtxUnbind (s : State) : Host.Outcome State Fault Refusal := s.act ctxUnbind

/-- FAULT_ACK (R340). Entries that waited and for whose records there was no room still complete with CTX_FAULTED (R339). -/
def faultAck (s : Dev) : Dev :=
  s.start mgmtRing 0x06 (fun _ => true) fun id e s =>
    let c := bits (fld e 8 2) 9 0
    let x := s.ctx c
    if x.state ≠ .faulted then s.done mgmtRing id 0x41 []
    else if s.teardowns.any fun t => t.ctx == c then s.done mgmtRing id 0x42 []
    else
      let s := s.modRing x.ring fun y => { y with doomed := y.fetched.length + (y.ctail + 65536 - y.chead) % 65536 }
      ((s.setCtx c { x with state := .bound }).done mgmtRing id 0 []).pump x.ring pumpMax
def execFaultAck (s : State) : Host.Outcome State Fault Refusal := s.act faultAck

/-! ## The end of a teardown (R339) -/

/-- Whether a remote transaction belongs to work of a Lot's blocks. -/
def TxnSrc.inLot (x : TxnSrc) (l : Lot) : Bool := match x with
  | .epiSend n _ _ _ => l.has (n / 4)
  | .conc (.xfer b _ _) => l.has b
  | _ => false

/-- The context of a collective, active or ended by a fault. -/
def Dev.uidCtx (s : Dev) (u : Nat) : Option Nat := match s.coll.active.find? fun p => p.2.uid = u with
  | some p => some p.2.ctx
  | none => (s.coll.dying.find? fun p => p.1 = u).map (·.2)
/-- The context that a Concourse request works for. -/
def Dev.srcCtx (s : Dev) : CSrc → Option Nat
  | .xfer b i _ => (s.xinst b i).map (·.ctx)
  | .trans b i _ => (s.xinst b i).map (·.ctx)
  | .coll u _ _ => s.uidCtx u
  | .porterCopy j _ => (s.copies.find? fun p => p.1 = j).bind fun p => s.ringCtx p.2.ring
  | .porterAtomic r _ => s.ringCtx r
  | .remote _ _ => none
/-- The context that a remote request works for, where the request itself names its work. -/
def Dev.txnCtx (s : Dev) : TxnSrc → Option Nat
  | .conc q => s.srcCtx q
  | .collPut u _ => s.uidCtx u
  | .collSig u _ => s.uidCtx u
  | .collCredit u => s.uidCtx u
  | _ => none

/-- Whether the requests that a context has issued have resolved (R235, R280), and no commit of its is in progress (R338). -/
def Dev.resolved (s : Dev) (c : Nat) : Bool :=
  let l := s.lot (s.ctx c).lot
  let mine (x : TxnSrc) : Bool := s.txnCtx x == some c || (l.front.kind != 0 && l.front.ctx == c && x.inLot l)
  (l.rect.all fun b => ((s.block b).xfer.timedQ ++ (s.block b).xfer.bulkQ).all fun i => i.ctx != c || i.over)
    && !(s.conc.reqs.any fun q => s.srcCtx q.src == some c) && !(s.elveel.txns.any fun t => mine t.src)
    && !(s.elveel.outq.any fun o => s.txnCtx o.src == some c) && !(s.pool.busy.any fun b => b.2.2 == c)

/-- TEARDOWN_DONE (R339). -/
def teardownDone (c : Nat) (s : Dev) : Dev :=
  if (s.teardowns.any fun t => t.ctx == c && t.step4) ∧ s.resolved c then
    let s := each (s.lot (s.ctx c).lot).rect (fun b s => s.modXfer b fun y =>
      { y with timedQ := y.timedQ.filter fun i => i.ctx != c, bulkQ := y.bulkQ.filter fun i => i.ctx != c }) s
    let s := { s with teardowns := s.teardowns.filter fun t => t.ctx != c,
                      coll := { s.coll with dying := s.coll.dying.filter fun p => p.2 != c } }
    (s.bumpCtx c 12).ctxEvent c 0x02 []
  else s
def execTeardownDone (ctx : Nat) (s : State) : Host.Outcome State Fault Refusal := s.actOn (decide (ctx < 1024)) (teardownDone ctx)

/-! ## Small commands (R202, R369, R374) -/

/-- A receive queue is reset (R202). -/
def Dev.resetQueue (s : Dev) (n q : Nat) : Dev :=
  s.modStall n fun st =>
    let w : RQueue := st.queues.get q
    { st with queues := st.queues.set q { w with isOpen := w.size != 0, inc := (w.inc + 1) % 16, msgs := [] } }

/-- QUEUE_RESET (R202, R369). -/
def queueReset (r : Nat) (s : Dev) : Dev :=
  s.start r 0x1A (fun _ => true) fun id e s =>
    let n := bits (fld e 8 2) 11 0
    let q := bits (byte e 10) 3 0
    match s.ringLot r with
    | none => s
    | some k =>
      if n ≥ 2304 ∨ !(s.lot k).has (n / 4) ∨ ((s.stall n).queues.get q : RQueue).size = 0 then s.done r id 0x44 []
      else
        let s := s.resetQueue n q
        s.done r id 0 [(32, 1, ((s.stall n).queues.get q : RQueue).inc)]
def execQueueReset (r : Nat) (s : State) : Host.Outcome State Fault Refusal := s.actOn (decide (r < 64)) (queueReset r)

/-- EVENT_MASK (R374). -/
def eventMask (r : Nat) (s : Dev) : Dev :=
  s.start r 0x22 (fun _ => true) fun id e s =>
    let old := (s.ring r).mask
    (s.modRing r fun y => { y with mask := BitVec.ofNat 64 (fld e 8 8) }).done r id 0 [(32, 8, old.toNat)]
def execEventMask (r : Nat) (s : State) : Host.Outcome State Fault Refusal := s.actOn (decide (r < 65)) (eventMask r)

/-- NOP (R368). -/
def nopCommand (r : Nat) (s : Dev) : Dev := s.start r 0x23 (fun _ => true) fun id _ s => s.done r id 0 []
def execNopCommand (r : Nat) (s : State) : Host.Outcome State Fault Refusal := s.actOn (decide (r < 65)) (nopCommand r)

end Sys2Proof.Machine
end

