-- ==== Sys2Proof/Machine/Hash.lean ====
section
/-! DEFINITION. SHA-384 (FIPS 180-4), the hash of R343, R383 and R391, and big-endian values. -/
namespace Sys2Proof.Machine

/-- The value of bytes, the first most significant. -/
def beVal (bs : Bytes) : Nat := bs.foldl (fun a b => 256 * a + b.toNat) 0
/-- The n low bytes of a value, the most significant first. -/
def beBytes (n v : Nat) : Bytes := (leBytes n v).reverse

/-- Round constants, twenty at a time: the fractions of the cube roots of the first 80 primes. -/
def shaK0 : List W64 := [0x428A2F98D728AE22#64, 0x7137449123EF65CD#64, 0xB5C0FBCFEC4D3B2F#64, 0xE9B5DBA58189DBBC#64,
  0x3956C25BF348B538#64, 0x59F111F1B605D019#64, 0x923F82A4AF194F9B#64, 0xAB1C5ED5DA6D8118#64, 0xD807AA98A3030242#64,
  0x12835B0145706FBE#64, 0x243185BE4EE4B28C#64, 0x550C7DC3D5FFB4E2#64, 0x72BE5D74F27B896F#64, 0x80DEB1FE3B1696B1#64,
  0x9BDC06A725C71235#64, 0xC19BF174CF692694#64, 0xE49B69C19EF14AD2#64, 0xEFBE4786384F25E3#64, 0x0FC19DC68B8CD5B5#64,
  0x240CA1CC77AC9C65#64]
/-- Round constants, the next twenty. -/
def shaK1 : List W64 := [0x2DE92C6F592B0275#64, 0x4A7484AA6EA6E483#64, 0x5CB0A9DCBD41FBD4#64, 0x76F988DA831153B5#64,
  0x983E5152EE66DFAB#64, 0xA831C66D2DB43210#64, 0xB00327C898FB213F#64, 0xBF597FC7BEEF0EE4#64, 0xC6E00BF33DA88FC2#64,
  0xD5A79147930AA725#64, 0x06CA6351E003826F#64, 0x142929670A0E6E70#64, 0x27B70A8546D22FFC#64, 0x2E1B21385C26C926#64,
  0x4D2C6DFC5AC42AED#64, 0x53380D139D95B3DF#64, 0x650A73548BAF63DE#64, 0x766A0ABB3C77B2A8#64, 0x81C2C92E47EDAEE6#64,
  0x92722C851482353B#64]
/-- Round constants, the next twenty. -/
def shaK2 : List W64 := [0xA2BFE8A14CF10364#64, 0xA81A664BBC423001#64, 0xC24B8B70D0F89791#64, 0xC76C51A30654BE30#64,
  0xD192E819D6EF5218#64, 0xD69906245565A910#64, 0xF40E35855771202A#64, 0x106AA07032BBD1B8#64, 0x19A4C116B8D2D0C8#64,
  0x1E376C085141AB53#64, 0x2748774CDF8EEB99#64, 0x34B0BCB5E19B48A8#64, 0x391C0CB3C5C95A63#64, 0x4ED8AA4AE3418ACB#64,
  0x5B9CCA4F7763E373#64, 0x682E6FF3D6B2B8A3#64, 0x748F82EE5DEFB2FC#64, 0x78A5636F43172F60#64, 0x84C87814A1F0AB72#64,
  0x8CC702081A6439EC#64]
/-- Round constants, the next twenty. -/
def shaK3 : List W64 := [0x90BEFFFA23631E28#64, 0xA4506CEBDE82BDE9#64, 0xBEF9A3F7B2C67915#64, 0xC67178F2E372532B#64,
  0xCA273ECEEA26619C#64, 0xD186B8C721C0C207#64, 0xEADA7DD6CDE0EB1E#64, 0xF57D4F7FEE6ED178#64, 0x06F067AA72176FBA#64,
  0x0A637DC5A2C898A6#64, 0x113F9804BEF90DAE#64, 0x1B710B35131C471B#64, 0x28DB77F523047D84#64, 0x32CAAB7B40C72493#64,
  0x3C9EBE0A15C9BEBC#64, 0x431D67C49C100D4C#64, 0x4CC5D4BECB3E42B6#64, 0x597F299CFC657E2A#64, 0x5FCB6FAB3AD6FAEC#64,
  0x6C44198C4A475817#64]

/-- The initial hash value of SHA-384. -/
def sha384Init : List W64 := [0xCBBB9D5DC1059ED8#64, 0x629A292A367CD507#64, 0x9159015A3070DD17#64, 0x152FECD8F70E5939#64,
  0x67332667FFC00B31#64, 0x8EB44A8768581511#64, 0xDB0C2E0D64F98FA7#64, 0x47B5481DBEFA4FA4#64]

/-- One schedule word of SHA-512: from the words 2, 7, 15 and 16 back. -/
def shaNext (w2 w7 w15 w16 : W64) : W64 :=
  let s0 := w15.rotateRight 1 ^^^ w15.rotateRight 8 ^^^ (w15 >>> (7 : Nat))
  let s1 := w2.rotateRight 19 ^^^ w2.rotateRight 61 ^^^ (w2 >>> (6 : Nat))
  s1 + w7 + s0 + w16

/-- The schedule, newest word first, continued by n words. -/
def shaSchedule : Nat → List W64 → List W64
  | 0, w => w
  | n + 1, w => shaSchedule n (shaNext (w.getD 1 0) (w.getD 6 0) (w.getD 14 0) (w.getD 15 0) :: w)

/-- One round on the eight working variables. -/
def shaRound (x : List W64) (kw : W64 × W64) : List W64 := match x with
  | [a, b, c, d, e, f, g, h] =>
    let s1 := e.rotateRight 14 ^^^ e.rotateRight 18 ^^^ e.rotateRight 41
    let ch := (e &&& f) ^^^ (~~~ e &&& g)
    let t1 := h + s1 + ch + kw.1 + kw.2
    let s0 := a.rotateRight 28 ^^^ a.rotateRight 34 ^^^ a.rotateRight 39
    let maj := (a &&& b) ^^^ (a &&& c) ^^^ (b &&& c)
    [t1 + s0 + maj, a, b, c, d + t1, e, f, g]
  | _ => x

/-- Compress one block of 16 words into the hash value. -/
def shaBlock (h : List W64) (ws : List W64) : List W64 :=
  let sched := (shaSchedule 64 ws.reverse).reverse
  let ks := shaK0 ++ shaK1 ++ shaK2 ++ shaK3
  List.zipWith (· + ·) h ((ks.zip sched).foldl shaRound h)

/-- The 64-bit big-endian words of a byte string. -/
def shaWords : Nat → Bytes → List W64
  | 0, _ => []
  | n + 1, bs => BitVec.ofNat 64 (beVal (bs.take 8)) :: shaWords n (bs.drop 8)

/-- Compress n blocks of 128 bytes. -/
def shaBlocks : Nat → Bytes → List W64 → List W64
  | 0, _, h => h
  | n + 1, bs, h => shaBlocks n (bs.drop 128) (shaBlock h (shaWords 16 bs))

/-- The message padded to whole blocks. -/
def shaPad (bs : Bytes) : Bytes :=
  let n := bs.length
  bs ++ [0x80#8] ++ zeros ((239 - n % 128) % 128) ++ beBytes 16 (8 * n)

/-- SHA-384 of a byte string: 48 bytes. -/
def sha384 (bs : Bytes) : Bytes :=
  let p := shaPad bs
  ((shaBlocks (p.length / 128) p sha384Init).flatMap fun w => beBytes 8 w.toNat).take 48

/-- HMAC-SHA-384 (RFC 2104), with a key of at most 128 bytes. -/
def hmac384 (key msg : Bytes) : Bytes :=
  let k := sub key 0 128
  sha384 (k.map (· ^^^ 0x5C#8) ++ sha384 (k.map (· ^^^ 0x36#8) ++ msg))

end Sys2Proof.Machine
end

