-- ==== Sys2Proof/Machine/Crypto.lean ====
section
/-! DEFINITION. SHA-256 (FIPS 180-4), ECDSA over P-384 (FIPS 186) and HSS with LMS_SHA256_M32_H15 and LMOTS_SHA256_N32_W8 (RFC
8554), as R350, R381, R394 and R399 name them. -/
namespace Sys2Proof.Machine

/-! ## SHA-256 -/

/-- Round constants, the first half. -/
def sha256K0 : List W32 := [0x428A2F98#32, 0x71374491#32, 0xB5C0FBCF#32, 0xE9B5DBA5#32, 0x3956C25B#32, 0x59F111F1#32,
  0x923F82A4#32, 0xAB1C5ED5#32, 0xD807AA98#32, 0x12835B01#32, 0x243185BE#32, 0x550C7DC3#32, 0x72BE5D74#32, 0x80DEB1FE#32,
  0x9BDC06A7#32, 0xC19BF174#32, 0xE49B69C1#32, 0xEFBE4786#32, 0x0FC19DC6#32, 0x240CA1CC#32, 0x2DE92C6F#32, 0x4A7484AA#32,
  0x5CB0A9DC#32, 0x76F988DA#32, 0x983E5152#32, 0xA831C66D#32, 0xB00327C8#32, 0xBF597FC7#32, 0xC6E00BF3#32, 0xD5A79147#32,
  0x06CA6351#32, 0x14292967#32]
/-- Round constants, the second half. -/
def sha256K1 : List W32 := [0x27B70A85#32, 0x2E1B2138#32, 0x4D2C6DFC#32, 0x53380D13#32, 0x650A7354#32, 0x766A0ABB#32,
  0x81C2C92E#32, 0x92722C85#32, 0xA2BFE8A1#32, 0xA81A664B#32, 0xC24B8B70#32, 0xC76C51A3#32, 0xD192E819#32, 0xD6990624#32,
  0xF40E3585#32, 0x106AA070#32, 0x19A4C116#32, 0x1E376C08#32, 0x2748774C#32, 0x34B0BCB5#32, 0x391C0CB3#32, 0x4ED8AA4A#32,
  0x5B9CCA4F#32, 0x682E6FF3#32, 0x748F82EE#32, 0x78A5636F#32, 0x84C87814#32, 0x8CC70208#32, 0x90BEFFFA#32, 0xA4506CEB#32,
  0xBEF9A3F7#32, 0xC67178F2#32]
/-- The initial hash value. -/
def sha256Init : List W32 := [0x6A09E667#32, 0xBB67AE85#32, 0x3C6EF372#32, 0xA54FF53A#32, 0x510E527F#32, 0x9B05688C#32,
  0x1F83D9AB#32, 0x5BE0CD19#32]
/-- The schedule, newest word first, continued by n words. -/
def sha256Schedule : Nat → List W32 → List W32
  | 0, w => w
  | n + 1, w =>
    let w2 := w.getD 1 0
    let w15 := w.getD 14 0
    let s0 := w15.rotateRight 7 ^^^ w15.rotateRight 18 ^^^ (w15 >>> (3 : Nat))
    let s1 := w2.rotateRight 17 ^^^ w2.rotateRight 19 ^^^ (w2 >>> (10 : Nat))
    sha256Schedule n ((s1 + w.getD 6 0 + s0 + w.getD 15 0) :: w)
/-- One round. -/
def sha256Round (x : List W32) (kw : W32 × W32) : List W32 := match x with
  | [a, b, c, d, e, f, g, h] =>
    let s1 := e.rotateRight 6 ^^^ e.rotateRight 11 ^^^ e.rotateRight 25
    let ch := (e &&& f) ^^^ (~~~ e &&& g)
    let t1 := h + s1 + ch + kw.1 + kw.2
    let s0 := a.rotateRight 2 ^^^ a.rotateRight 13 ^^^ a.rotateRight 22
    let maj := (a &&& b) ^^^ (a &&& c) ^^^ (b &&& c)
    [t1 + s0 + maj, a, b, c, d + t1, e, f, g]
  | _ => x
/-- Compress n blocks of 64 bytes. -/
def sha256Blocks : Nat → Bytes → List W32 → List W32
  | 0, _, h => h
  | n + 1, bs, h =>
    let ws := (List.range 16).map fun i => BitVec.ofNat 32 (beVal ((bs.drop (4 * i)).take 4))
    let sched := (sha256Schedule 48 ws.reverse).reverse
    sha256Blocks n (bs.drop 64) (List.zipWith (· + ·) h (((sha256K0 ++ sha256K1).zip sched).foldl sha256Round h))
/-- SHA-256 of a byte string: 32 bytes. -/
def sha256 (bs : Bytes) : Bytes :=
  let n := bs.length
  let p := bs ++ [0x80#8] ++ zeros ((119 - n % 64) % 64) ++ beBytes 8 (8 * n)
  (sha256Blocks (p.length / 64) p sha256Init).flatMap fun w => beBytes 4 w.toNat

/-! ## P-384 -/

/-- The field prime. -/
def p384P : Nat := 2 ^ 384 - 2 ^ 128 - 2 ^ 96 + 2 ^ 32 - 1
/-- The curve's coefficient b. -/
def p384B : Nat := 0xb3312fa7e23ee7e4988e056be3f82d19181d9c6efe8141120314088f5013875ac656398d8a2ed19d2a85c8edd3ec2aef
/-- The order of the base point. -/
def p384N : Nat := 0xffffffffffffffffffffffffffffffffffffffffffffffffc7634d81f4372ddf581a0db248b0a77aecec196accc52973
/-- The base point. -/
def p384G : Nat × Nat :=
  (0xaa87ca22be8b05378eb1c71ef320ad746e1d3b628ba79b9859f741e082542a385502f25dbf55296c3a545e3872760ab7,
   0x3617de4a96262c6f5d9e98bf9292dc29f8f41dbd289a147ce9da3113b5f0b8c00a60b1ce1d7e819d7a431d7c90ea0e5f)

/-- Powers modulo m: the exponent's n low bits, highest first. -/
def powMod (m a e : Nat) : Nat → Nat
  | 0 => 1 % m
  | n + 1 =>
    let r := powMod m a (e / 2) n
    let q := r * r % m
    if e % 2 = 1 then q * a % m else q
/-- Inverse modulo a prime. -/
def invMod (m a : Nat) : Nat := powMod m a (m - 2) 384

/-- A point: none at infinity. -/
abbrev Point := Option (Nat × Nat)
/-- Sum of two points. -/
def p384Add : Point → Point → Point
  | none, q => q
  | q, none => q
  | some (x1, y1), some (x2, y2) =>
    let m := p384P
    if x1 = x2 ∧ (y1 + y2) % m = 0 then none
    else
      let l := if x1 = x2 then (3 * x1 * x1 + m - 3) * invMod m (2 * y1) % m
        else (y2 + m - y1) * invMod m ((x2 + m - x1) % m) % m
      let x := (l * l + 2 * m - x1 - x2) % m
      some (x, (l * (x1 + m - x) + m - y1) % m)
/-- Multiple of a point: the scalar's n low bits, highest first. -/
def p384Mul (k : Nat) (q : Point) : Nat → Point
  | 0 => none
  | n + 1 =>
    let r := p384Mul (k / 2) q n
    let d := p384Add r r
    if k % 2 = 1 then p384Add d q else d

/-- X and Y of a point, 48 big-endian bytes each. -/
def pointBytes : Point → Bytes
  | none => zeros 96
  | some (x, y) => beBytes 48 x ++ beBytes 48 y
/-- The public point of a private scalar (R394). -/
def ecdsaPublic (d : Nat) : Bytes := pointBytes (p384Mul d (some p384G) 384)
/-- Whether a public key of 96 bytes lies on the curve. -/
def onCurve (k : Bytes) : Bool :=
  let x := beVal (k.take 48)
  let y := beVal ((k.drop 48).take 48)
  decide (x < p384P) && decide (y < p384P) && y * y % p384P == (x * x * x + 3 * p384P - 3 * x + p384B) % p384P

/-- Whether a signature (r then s) over a digest verifies under a key. -/
def ecdsaVerify (key digest sig : Bytes) : Bool :=
  let n := p384N
  let r := beVal (sig.take 48)
  let s := beVal ((sig.drop 48).take 48)
  let z := beVal (digest.take 48)
  if !onCurve key ∨ r = 0 ∨ n ≤ r ∨ s = 0 ∨ n ≤ s then false
  else
    let w := invMod n s
    let q : Point := some (beVal (key.take 48), beVal ((key.drop 48).take 48))
    match p384Add (p384Mul (z * w % n) (some p384G) 384) (p384Mul (r * w % n) q 384) with
    | none => false
    | some (x, _) => x % n == r
/-- The signature of a digest by a private scalar with a nonce. -/
def ecdsaSign (d : Nat) (digest : Bytes) (nonce : Nat) : Bytes :=
  let n := p384N
  let k := nonce % (n - 1) + 1
  let r := match p384Mul k (some p384G) 384 with
    | none => 0
    | some (x, _) => x % n
  let s := invMod n k * (beVal (digest.take 48) + r * d) % n
  beBytes 48 r ++ beBytes 48 s

/-! ## LM-OTS and LMS (RFC 8554) -/

/-- The 34 coefficients of a message digest: its 32 bytes and the two of the checksum. -/
def otsCoefs (q : Bytes) : List Nat :=
  let l := q.map fun b => b.toNat
  let c := (l.map fun x => 255 - x).sum
  l ++ [c / 256 % 256, c % 256]
/-- n steps of a hash chain from step j. -/
def otsChain (i : Bytes) (q k : Nat) : Nat → Nat → Bytes → Bytes
  | 0, _, x => x
  | n + 1, j, x => otsChain i q k n (j + 1) (sha256 (i ++ beBytes 4 q ++ beBytes 2 k ++ beBytes 1 j ++ x))
/-- The message digest that an LM-OTS signature signs. -/
def otsDigest (i : Bytes) (q : Nat) (c msg : Bytes) : Bytes := sha256 (i ++ beBytes 4 q ++ beBytes 2 0x8181 ++ c ++ msg)
/-- The public key hash of chain ends. -/
def otsKey (i : Bytes) (q : Nat) (ends : List Bytes) : Bytes := sha256 (i ++ beBytes 4 q ++ beBytes 2 0x8080 ++ ends.flatten)
/-- The candidate public key of an LM-OTS signature: C, then 34 chain values. -/
def otsCandidate (i : Bytes) (q : Nat) (c y msg : Bytes) : Bytes :=
  let co := otsCoefs (otsDigest i q c msg)
  otsKey i q (co.zipIdx.map fun p => otsChain i q p.2 (255 - p.1) p.1 (sub y (32 * p.2) 32))
/-- A leaf of a tree from its public key hash. -/
def lmsLeaf (i : Bytes) (q : Nat) (key : Bytes) : Bytes := sha256 (i ++ beBytes 4 (2 ^ 15 + q) ++ beBytes 2 0x8282 ++ key)
/-- An inner node. -/
def lmsNode (i : Bytes) (r : Nat) (a b : Bytes) : Bytes := sha256 (i ++ beBytes 4 r ++ beBytes 2 0x8383 ++ a ++ b)
/-- The root that a node and its path give. -/
def lmsRoot (i : Bytes) : Nat → Bytes → List Bytes → Bytes
  | _, x, [] => x
  | r, x, p :: ps => lmsRoot i (r / 2) (if r % 2 = 1 then lmsNode i (r / 2) p x else lmsNode i (r / 2) x p) ps

/-- Whether an LMS signature (1,612 bytes) of a message verifies under an LMS public key (56 bytes). -/
def lmsVerify (pub sig msg : Bytes) : Bool :=
  let i := sub pub 8 16
  let q := beVal (sub sig 0 4)
  let key := otsCandidate i q (sub sig 8 32) (sub sig 40 1088) msg
  let path := (List.range 15).map fun k => sub sig (1132 + 32 * k) 32
  beVal (sub pub 0 4) == 7 && beVal (sub pub 4 4) == 4 && beVal (sub sig 4 4) == 4 && beVal (sub sig 1128 4) == 7
    && decide (q < 2 ^ 15) && lmsRoot i (2 ^ 15 + q) (lmsLeaf i q key) path == sub pub 24 32
/-- Whether an HSS signature (3,284 bytes) of a message verifies under an HSS public key (60 bytes). -/
def hssVerify (key msg sig : Bytes) : Bool :=
  let pub1 := sub sig 1616 56
  key.length == 60 && sig.length == 3284 && beVal (sub key 0 4) == 2 && beVal (sub sig 0 4) == 1
    && lmsVerify (sub key 4 56) (sub sig 4 1612) pub1 && lmsVerify pub1 (sub sig 1672 1612) msg

/-- Start of chain k of leaf q: Appendix A of RFC 8554. -/
def otsSecret (i seed : Bytes) (q k : Nat) : Bytes := sha256 (i ++ beBytes 4 q ++ beBytes 2 k ++ [0xFF#8] ++ seed)
/-- The public key hash of leaf q. -/
def otsPublic (i seed : Bytes) (q : Nat) : Bytes :=
  otsKey i q ((List.range 34).map fun k => otsChain i q k 255 0 (otsSecret i seed q k))
/-- Nodes of a tree level from the leaves: n levels up from a list of nodes that starts at number r. -/
def lmsUp (i : Bytes) (r : Nat) : List Bytes → List Bytes
  | a :: b :: l => lmsNode i r a b :: lmsUp i (r + 1) l
  | _ => []
/-- All nodes of a tree, root first (node 1 to 65,535), from its leaves. -/
def lmsTree (i : Bytes) : Nat → List Bytes → List Bytes
  | 0, l => l
  | n + 1, l => lmsTree i n (lmsUp i (2 ^ n) l) ++ l
/-- The nodes of the tree of a seed. -/
def lmsNodes (i seed : Bytes) : List Bytes := lmsTree i 15 ((List.range (2 ^ 15)).map fun q => lmsLeaf i q (otsPublic i seed q))
/-- The LMS public key of an identifier and a root. -/
def lmsPublic (i root : Bytes) : Bytes := beBytes 4 7 ++ beBytes 4 4 ++ i ++ root
/-- The LMS signature of a message by leaf q, with the randomizer c and the path that a reader of the tree's nodes gives. -/
def lmsSign (i seed : Bytes) (node : Nat → Bytes) (q : Nat) (c msg : Bytes) : Bytes :=
  let co := otsCoefs (otsDigest i q c msg)
  let y := co.zipIdx.flatMap fun p => otsChain i q p.2 p.1 0 (otsSecret i seed q p.2)
  let path := (List.range 15).flatMap fun k => node (Nat.xor ((2 ^ 15 + q) / 2 ^ k) 1)
  beBytes 4 q ++ beBytes 4 4 ++ c ++ y ++ beBytes 4 7 ++ path

/-! ## The identity keys (R394) -/

/-- The private ECDSA scalar that a seed K gives: the first derived value in range. -/
def identityScalar (k : Bytes) : Nat :=
  (((List.range 256).map fun c => beVal (hmac384 k (strBytes "TL-ID-EC" ++ beBytes 1 c))).find? fun t =>
    decide (1 ≤ t) && decide (t < p384N)).getD 0
/-- The identifier and seed of the top LMS tree. -/
def lmsTop (k : Bytes) : Bytes × Bytes := let h := hmac384 k (strBytes "TL-ID-LMS"); (sub h 0 16, sub h 16 32)
/-- The identifier and seed of second-level tree j. -/
def lmsSecond (k : Bytes) (j : Nat) : Bytes × Bytes :=
  let g := hmac384 k (strBytes "TL-ID-LMS2" ++ beBytes 4 j)
  (sub g 0 16, sub g 16 32)
/-- The identity digest. -/
def identityDigest (k : Bytes) : Bytes := sha384 (0x04#8 :: ecdsaPublic (identityScalar k))

end Sys2Proof.Machine
end

