-- ==== Sys2Proof/Machine/Reach.lean ====
section
/-! DEFINITION. The addresses that a walk reaches, as a set of bits: which bits of a tile or a Chest a strided walk touches, whether it
reaches one address twice, and which rows and banks it touches. The shelf loader's checks of walks (R100, R163, R172, R228) use
these. -/
namespace Sys2Proof.Machine

/-- A walk: a base and, by dimension, a count and a signed stride (R98). -/
structure Walk where
  base : Nat
  dims : List (Nat × Int)
  deriving DecidableEq, Repr, Inhabited

/-- The lowest and the highest address of a walk. -/
def Walk.bounds (w : Walk) : Int × Int :=
  w.dims.foldl (fun (a : Int × Int) d =>
    let e := ((d.1 : Int) - 1) * d.2
    (a.1 + min 0 e, a.2 + max 0 e)) ((w.base : Int), (w.base : Int))

/-- A set of bits m repeated n times, each copy st bits above the one before, and whether no two copies meet; the fuel bounds
log2 of n. -/
def spread : Nat → Nat → Nat → Nat → Nat × Bool
  | 0, m, _, _ => (m, true)
  | fuel + 1, m, n, st =>
    if n ≤ 1 then (m, true)
    else
      let (h, ok) := spread fuel m (n / 2) st
      let up := h <<< (n / 2 * st)
      let both := h ||| up
      let ok := ok && (h &&& up == 0)
      if n % 2 = 0 then (both, ok)
      else
        let top := m <<< ((n - 1) * st)
        (both ||| top, ok && (both &&& top == 0))

/-- The bits that a walk touches, when each address is an element of w bits of which the low v are touched, and whether no two index
vectors reach one address. The walk's lowest address must not be negative. -/
def Walk.cover (k : Walk) (w v : Nat) : Nat × Bool :=
  k.dims.foldl (fun (a : Nat × Bool) d =>
    let (m, ok) := spread 32 a.1 d.1 (d.2.natAbs * w)
    (m, a.2 && ok)) ((2 ^ v - 1) <<< (k.bounds.1.toNat * w), true)

/-- The positions of the non-empty pieces of a bit set, cut into 2^fuel pieces of u bits from position o on. -/
def pieces (u : Nat) : Nat → Nat → Nat → List Nat
  | 0, m, o => if m = 0 then [] else [o]
  | fuel + 1, m, o =>
    if m = 0 then []
    else pieces u fuel (m % 2 ^ (u * 2 ^ fuel)) o ++ pieces u fuel (m >>> (u * 2 ^ fuel)) (o + 2 ^ fuel)

/-- Rows that a set of Chest bits touches (R150). -/
def chestRowsOf (m : Nat) : List Nat := pieces 512 14 m 0
/-- Whether every row of a list lies in a bank of a set (R150, R172). -/
def inBanks (banks : Nat) (rows : List Nat) : Bool := rows.all fun q => bit banks (q % 16)

end Sys2Proof.Machine
end

