-- ==== Sys2Proof/Machine/CheckOrder.lean ====
section
/-! DEFINITION. The shelf loader's checks of orders and of what they name (R352): micro-ops and element programs (R107 to R111), vector
descriptors (R79, R100, R103), stage lists and program-form epilogues (R123, R129, R133, R134, R136, R142), and the order words
themselves (R72, R76, R81 to R91, R197, R207). Each check answers the status of the first refusal, or none. -/
namespace Sys2Proof.Machine

/-! ## Statuses (R351, R352) -/

abbrev iBadFrame : Nat := 0x10
abbrev iRetired : Nat := 0x11
abbrev iBadLinemap : Nat := 0x12
abbrev iBadOrder : Nat := 0x13
abbrev iBadVector : Nat := 0x14
abbrev iBadStage : Nat := 0x15
abbrev iBudget : Nat := 0x16
abbrev iSlots : Nat := 0x17
abbrev iBadAgen : Nat := 0x18
abbrev iBankOff : Nat := 0x19
abbrev iShared : Nat := 0x1A
abbrev iBadTransfer : Nat := 0x1B
abbrev iBadCircuit : Nat := 0x1C
abbrev iCert : Nat := 0x1D
abbrev iBadQueue : Nat := 0x1E
abbrev iBadPitch : Nat := 0x1F
abbrev iPitchRange : Nat := 0x20
abbrev iBadUnit : Nat := 0x21
abbrev iBellOwned : Nat := 0x22
abbrev iEnvelope : Nat := 0x23
abbrev iBadTask : Nat := 0x24
abbrev iPartial : Nat := 0x25

/-- A status when a refusal's condition holds. -/
def refusal (c : Bool) (st : Nat) : Option Nat := if c then some st else none
/-- The first refusal of a list. -/
def firstOf {α : Type} (l : List (Option α)) : Option α := l.findSome? fun x => x

/-! ## Micro-ops (R105, R107) -/

/-- What an opcode reads: operands A, B and C, the FUNC bits, and the first and last stage that R107 allows; none for a reserved
opcode. -/
def opShape (opc func : Nat) : Option ((Bool × Bool × Bool) × Nat × Nat × Nat) := match opc with
  | 0x01 => some ((true, false, false), 0, 1, 1)
  | 0x02 => some ((true, false, false), 0xF, 1, 1)
  | 0x03 => some ((true, false, false), 0xFF, 1, 1)
  | 0x04 => some ((true, false, false), 0, 1, 1)
  | 0x05 => some ((true, false, false), 0, 1, 1)
  | 0x06 => some ((false, false, false), 0x7, 1, 1)
  | 0x10 => some ((true, true, true), 0x3, 2, 3)
  | 0x11 => some ((true, true, false), 0, 2, 3)
  | 0x12 => some ((true, true, false), 0, 2, 3)
  | 0x13 => some ((true, true, false), 0, 2, 3)
  | 0x20 => some ((true, bit func 5, false), 0x3F, 4, 4)
  | 0x21 => some ((true, true, false), 0, 4, 4)
  | 0x30 => some ((true, true, false), 0x7, 5, 5)
  | 0x31 => some ((true, true, true), 0, 5, 5)
  | 0x32 => some ((true, true, false), 0, 5, 5)
  | 0x33 => some ((true, true, false), 0, 5, 5)
  | 0x34 => some ((true, true, true), 0, 5, 5)
  | 0x35 => some ((true, true, false), 0, 5, 5)
  | 0x36 => some ((true, false, false), 0x3F, 5, 5)
  | 0x37 => some ((true, false, false), 0x3F, 5, 5)
  | 0x3C => some ((true, false, false), 0x3, 6, 6)
  | _ => none

/-- Codes that CVT admits for a working format (R107). -/
def cvtOk (wfmt c : Nat) : Bool :=
  c != 0x7 && decide (c ≤ 0xD) && (if wfmt = 0 then true else if wfmt = 1 then c != 0x0 && c != 0x2 else c != 0x0 && c != 0x1)

/-- Whether the sub-function of a micro-op is one that R107 and R116 define. -/
def funcOk (wfmt : Nat) (o : MicroOp) : Bool := match o.opc with
  | 0x02 => cvtOk wfmt o.func
  | 0x06 => decide (o.func ≤ 5)
  | 0x20 => decide (bits o.func 4 0 ≤ 0xD)
  | 0x30 => decide (o.func ≤ 5)
  | _ => true

/-- Whether a micro-op word obeys R107 in a stage (1 to 6) and a working format. NOP is a word of zeros. -/
def microOk (wfmt stage w : Nat) : Bool :=
  let o := microOp w
  if o.opc = 0 then w == 0
  else match opShape o.opc o.func with
    | none => false
    | some ((ra, rb, rc), fmask, lo, hi) =>
      decide (lo ≤ stage) && decide (stage ≤ hi) && (o.func &&& fmask == o.func) && funcOk wfmt o
        && (ra || o.a == 0)
        && ((rb && o.imm != 1 && o.imm != 2) || o.b == 0) && ((rc && o.imm != 3) || o.c == 0)
        && (rb || (o.imm != 1 && o.imm != 2)) && (rc || o.imm != 3)

/-- Whether an element program obeys R110 by itself. -/
def progOk (wfmt : Nat) (p : Bytes) : Bool :=
  let w := fld p 0 8
  bits w 3 0 == 1 && bits w 7 4 == 0 && bits w 63 35 == 0 && zeroAt p 200 24
    && (List.range 6).all fun s =>
      let k := bits w (4 * s + 11) (4 * s + 8)
      decide (k ≤ 8) && (List.range 8).all fun j =>
        let u := fld p (8 + 32 * s + 4 * j) 4
        if j < k then microOk wfmt (s + 1) u else u == 0

/-- The RED micro-ops of a program. -/
def redOps (p : Bytes) : List MicroOp := ((progStages p).flatten.map microOp).filter fun o => o.opc == 0x3C
/-- OUTREG of a program (R109). -/
def outReg (p : Bytes) : Nat := bits (fld p 0 8) 34 32

/-! ## Vector descriptors (R79, R100, R103, R108, R111) -/

/-- Whether a descriptor with the program it runs (none for VEC) obeys R108, or R110's pairing. -/
def opsOk (d : VDesc) (prog : Option Bytes) : Bool := match prog with
  | none =>
    let o := microOp d.op
    o.opc != 0 && (o.opc == 0x3C) == (d.red != 0) && microOk d.wfmt (opStage d.op + 1) d.op
  | some p =>
    let reds := redOps p
    progOk d.wfmt p && (if d.red = 0 then reds.isEmpty else reds.length == 1 && reds.all fun o => o.dst == outReg p)

/-- Bits of an element in its location: six-bit elements lie in bytes in a tile. -/
def locBits (isTile : Bool) (fmt : Nat) : Nat := if isTile ∧ elemBits fmt = 6 then 8 else elemBits fmt
/-- Elements of a location: of a tile, or of the Chest (R99). -/
def locRange (isTile : Bool) (fmt : Nat) : Nat := if isTile then 32 * rowLen fmt else 786432 * 8 / elemBits fmt
/-- Whether a walk stays inside its location (R100). -/
def Walk.inside (k : Walk) (isTile : Bool) (fmt : Nat) : Bool :=
  decide (0 ≤ k.bounds.1) && decide (k.bounds.2 < locRange isTile fmt)
/-- The bits that a walk touches in the Stall's tile space, or in the Chest, and whether it reaches no element twice. -/
def Walk.coverIn (k : Walk) (isTile : Bool) (tile fmt : Nat) : Nat × Bool :=
  if isTile ∧ elemBits fmt = 64 then
    let (m, ok) := k.cover 32 32
    (m <<< (32768 * tile) ||| m <<< (32768 * (tile + 1)), ok)
  else
    let w := locBits isTile fmt
    let (m, ok) := k.cover w (elemBits fmt)
    (if isTile then m <<< (32768 * tile) else m, ok)

/-- A source's walk (R98, R114): the whole gather table for a gather. -/
def VDesc.walk1 (d : VDesc) : Walk :=
  if d.loc1 = 3 then { base := d.base1, dims := [(d.glen, d.istr.getD 0 0)] }
  else { base := d.base1, dims := (List.range 6).map fun i => (d.n i, d.istr.getD i 0) }
/-- The walk of source 2. -/
def VDesc.walk2 (d : VDesc) : Walk :=
  { base := d.base2, dims := (List.range 6).map fun i => (d.n i, if bit d.bc2 i then 0 else d.istr.getD i 0) }
/-- The walk of the output: reduced dimensions stand still. -/
def VDesc.walko (d : VDesc) : Walk :=
  { base := d.baseo, dims := (List.range 6).map fun i => if d.reduces i then (1, 0) else (d.n i, d.ostr.getD i 0) }
/-- The output's walk with the addresses that FILL writes (R101). -/
def VDesc.walkFill (d : VDesc) : Walk :=
  if d.tail = 2 ∧ d.red = 0 then
    { base := d.baseo, dims := (List.range 6).map fun i =>
        (if i = 0 then d.inner * lanesOf d.wfmt else d.n i, d.ostr.getD i 0) }
  else d.walko

/-- Whether a source may share its addresses with the output (R100): one location, base and element width, and one stride in every
dimension that is not reduced; source 2 broadcasts in none of these. -/
def VDesc.inPlace (d : VDesc) (loc base fmt : Nat) (second : Bool) : Bool :=
  loc == d.loco && base == d.baseo && elemBits fmt == elemBits d.ofmt
    && (List.range 6).all fun i => d.reduces i || (d.istr.getD i 0 == d.ostr.getD i 0 && !(second && bit d.bc2 i))

/-- The constraints of R100, R103 and R111 that need no walk. -/
def VDesc.fieldsOk (d : VDesc) (t1 t2 td : Nat) : Bool :=
  let chest1 := decide (2 ≤ d.loc1)
  let chest2 := d.loc2 == 2
  let chestO := d.loco == 2
  !d.rsv && d.gen == 1 && d.wfmt != 3 && d.loc2 != 3 && (d.loco == 1 || d.loco == 2) && d.tail != 3 && d.red != 3
    && d.fmt1 != 0xF && d.fmt2 != 0xF && d.ofmt != 0xF
    && !(d.loc1 == 0 && d.fmt1 != 0) && !(d.loc2 == 0 && d.fmt2 != 0)
    && !(chest1 && isMx d.fmt1) && !(chest2 && isMx d.fmt2) && !(chestO && isMx d.ofmt)
    && !(chest1 && d.stamp1 == 0) && !(chest2 && d.stamp2 == 0) && !(chestO && d.stampo == 0)
    && !(d.loc1 == 1 && d.fmt1 == 0xE && t1 % 2 == 1) && !(d.loc2 == 1 && d.fmt2 == 0xE && t2 % 2 == 1)
    && !(d.loco == 1 && d.ofmt == 0xE && td % 2 == 1)
    && !(d.loc1 == 3 && (d.loc2 == 0 || d.glen == 0))
    && (if d.red = 2 then decide (1 ≤ d.rdim) && decide (d.rdim ≤ 5) else d.rdim == 0)
    && !(d.tail == 0 && d.n 0 % lanesOf d.wfmt != 0)
    && (d.red != 2 || decide ((List.range (d.rdim - 1)).foldl (fun a i => a * d.n (i + 1)) d.inner ≤ 32))
    && (!isMx d.ofmt || d.red == 1
        || (d.ostr.getD 0 0 == 1 && d.baseo % 32 == 0 && (d.n 0 % 32 == 0 || d.tail == 2)))

/-- A descriptor against R79, R100, R103, R108, R110, R111, R166 and R172: with the order's tiles and the banks that the shelf names in
the paired Chest. -/
def vecCheck (d : VDesc) (prog : Option Bytes) (t1 t2 td banks : Nat) : Option Nat :=
  if !d.fieldsOk t1 t2 td || !opsOk d prog then some iBadVector
  else
    let ok1 := d.loc1 == 0 || d.walk1.inside (d.loc1 == 1) d.fmt1
    let ok2 := d.loc2 == 0 || d.walk2.inside (d.loc2 == 1) d.fmt2
    if !ok1 || !ok2 || !d.walkFill.inside (d.loco == 1) d.ofmt then some iBadVector
    else
      let m1 := if d.loc1 = 0 then 0 else (d.walk1.coverIn (d.loc1 == 1) t1 d.fmt1).1
      let m2 := if d.loc2 = 0 then 0 else (d.walk2.coverIn (d.loc2 == 1) t2 d.fmt2).1
      let (mo, once) := d.walko.coverIn (d.loco == 1) td d.ofmt
      let clash (loc base fmt m stamp : Nat) (second : Bool) : Bool :=
        loc != 0 && (loc == 1) == (d.loco == 1) && (m &&& mo != 0)
          && !(d.inPlace loc base fmt second && (d.loco == 1 || stamp == d.stampo))
      if !once || clash d.loc1 d.base1 d.fmt1 m1 d.stamp1 false || clash d.loc2 d.base2 d.fmt2 m2 d.stamp2 true then
        some iBadVector
      else
        let fill := (d.walkFill.coverIn (d.loco == 1) td d.ofmt).1
        let chest := (if d.loc1 ≥ 2 then m1 else 0) ||| (if d.loc2 = 2 then m2 else 0) ||| (if d.loco = 2 then fill else 0)
        refusal (!inBanks banks (chestRowsOf chest)) iBankOff

/-! ## The frame as the checks see it -/

/-- A frame of the image: where it lies, its block, its shelf with the unit numbers converted, the image offset of each line it carries
and its grant masks, by 16 * Chest + port code (R345). -/
structure Fr where
  at_ : Nat
  rel : Nat
  block : Nat
  nord : Nat
  size : Nat
  shelf : Shelf
  lineOff : Tab Nat
  grants : Tab Nat
  deriving DecidableEq, Repr, Inhabited

/-- Kind of a configuration line (R347). -/
def Fr.kind (f : Fr) (line : Nat) : Nat := f.shelf.kinds.get line
/-- Image offset of a line that the frame carries. -/
def Fr.lineAt (f : Fr) (line : Nat) : Nat := f.lineOff.get line
/-- Image offset of order i of the frame. -/
def Fr.orderAt (f : Fr) (i : Nat) : Nat := f.at_ + 2176 + 8 * i

/-- What the checks know of the image and of the Lot it is for: BELLS, whether it is a task shelf, the own device number, the relative
blocks and the Pitch range. -/
structure ImgEnv where
  bells : Nat
  isTask : Bool
  devnum : Nat
  nblocks : Nat
  pbase : Nat
  pcount : Nat
  deriving DecidableEq, Repr, Inhabited

/-- A region as the checks see it: the Chest it is paired with, its bounds, its queue words and its bell subscription. -/
structure Region_ where
  k : Nat
  base : Nat
  len : Nat
  queues : List Nat
  bellSub : Nat
  env : ImgEnv
  deriving DecidableEq, Repr, Inhabited

/-- A unit number of the own device, as an image names it (R24, R31, R344): the status that refuses it. -/
def ImgEnv.unitCheck (e : ImgEnv) (u : Nat) : Option Nat :=
  if 0x1900 ≤ u then some iBadUnit
  else if 0x900 ≤ u ∧ u < 0x1000 then refusal (!(decide (0x900 ≤ u) && decide (u - 0x900 < e.pcount))) iPitchRange
  else refusal (decide (e.nblocks ≤ u % 0x1000 / 4)) iBadUnit

/-- Order i of a region. -/
def Fr.order (f : Fr) (r : Region_) (i : Nat) : Nat := (f.shelf.orders.get (r.base + i)).toNat
/-- Banks that the frame names in Chest k (R172). -/
def Fr.banks (f : Fr) (k : Nat) : Nat := f.shelf.banks k

/-- The generator object that configures generator g of Chest k (R161). -/
def Fr.genOf (f : Fr) (k g : Nat) : Option GenD :=
  ((f.shelf.objs 0x7).map fun l => genD (f.shelf.cfgLines l 2)).find? fun d => d.gchest == k && d.gidx == g
/-- Whether an order or a stage of Stall k may name generator g (R163). -/
def Fr.genOk (f : Fr) (k g : Nat) : Bool := match f.genOf k g with
  | some d => d.bind == 0
  | none => false

/-- A vector order against its descriptor and program (R79). -/
def Fr.vecOrderCheck (f : Fr) (k w : Nat) (isProg : Bool) : Option Nat :=
  let o := vecOrder w
  if f.kind o.desc ≠ 0x1 then some iBadVector
  else
    let d := vdesc (f.shelf.cfgLines o.desc 3)
    if isProg then
      if !d.pvalid || f.kind d.prog != 0x2 then some iBadVector
      else vecCheck d (some (f.shelf.cfgLines d.prog 7)) o.src1 o.src2 o.dst (f.banks k)
    else vecCheck d none o.src1 o.src2 o.dst (f.banks k)

/-! ## Stage lists (R125 to R129, R133, R136, R142) -/

/-- Whether a kind may stand on the epilogue side, and on the prologue side (R127). -/
def kindSides (k : Nat) : Option (Bool × Bool) := match k with
  | 0x01 => some (true, true)
  | 0x02 => some (true, true)
  | 0x03 => some (true, false)
  | 0x04 => some (true, false)
  | 0x05 => some (true, true)
  | 0x06 => some (true, true)
  | 0x07 => some (true, false)
  | 0x08 => some (true, false)
  | 0x09 => some (true, false)
  | 0x0A => some (true, false)
  | 0x0B => some (true, false)
  | 0x0C => some (true, false)
  | 0x0D => some (true, false)
  | 0x0E => some (false, true)
  | 0x0F => some (true, false)
  | 0x10 => some (false, true)
  | _ => none

/-- Bits of a stage word that R126 and R128 define for a kind. -/
def kindMask (k : Nat) : Nat := match k with
  | 0x02 => 0x0000FFFFFFFF1FFF
  | 0x03 => 0x0000FFFFFFFF1FFF
  | 0x04 => 0x7FFFFF
  | 0x05 => 0x1FFFF
  | 0x06 => 0x3FFFFFFFFFF
  | 0x07 => 0x3FFFFFFFFFF
  | 0x09 => 0x0000FFFFFFFFFFFF
  | 0x0A => 0x1FFFFFFFFFFF
  | 0x0B => 0xFFFFFF
  | 0x0C => 0x1FFFFF
  | 0x0D => 0x0000FFFFFFFF7FFF
  | 0x0E => 0xFFFFFF
  | 0x0F => 0xFFFFFF
  | 0x10 => 0x7FFFFFFF
  | _ => 0x3FF

/-- Whether a stage's stated format is one that R129 allows. -/
def stageFmtOk (w : Nat) : Bool :=
  let k := stKind w
  if k = kRstat ∨ k = kSidew ∨ k = kOscl then stFmt w == 0
  else if k = kQmx then isMx (stFmt w)
  else decide (stFmt w ≤ 6)

/-- Whether a stage uses no reserved code, and a stamp code other than 0 where it touches stamped Chest rows (R128, R164). -/
def stageCodesOk (f : Fr) (w : Nat) : Bool :=
  let k := stKind w
  if k = kScale ∨ k = kBias then bits w 11 10 != 3 && !(stPro w && bits w 11 10 == 2)
  else if k = kResid then bits w 11 10 != 3 && decide (bits w 15 12 ≤ 6) && !(bits w 11 10 == 2 && bits w 21 18 == 0)
  else if k = kAct then (decide (bits w 14 10 ≤ 0xD) || bits w 14 10 == 0x10) && !(stPro w && bit w 15)
  else if k = kClamp then
    let lo := bf16.decode (bits w 25 10)
    let hi := bf16.decode (bits w 41 26)
    lo != .nan && hi != .nan && cmpRel 3 lo hi
  else if k = kSidew then decide (bits w 16 14 ≤ 3) && bits w 29 26 != 0
  else if k = kSend then
    bits w 11 10 == 0 || (bits w 11 10 == 1 && bits w 23 20 == 0 && f.kind (bits w 19 12) == 0x5
      && (let sr := f.shelf.cfgLines (bits w 19 12) 1; byte sr 16 < 2 && bits (byte sr 17) 6 5 == 0 && zeroAt sr 18 14))
  else if k = kStore then bit w 10 || bits w 19 16 != 0
  else if k = kSidea then bits w 30 29 != 3 && bits w 27 24 != 0
  else true

/-- The AUX tiles and the XT tile that a stage uses. -/
def stageTiles (w aux1 aux2 : Nat) : List Nat :=
  let k := stKind w
  if k = kScale ∨ k = kBias then (if bits w 11 10 = 0 then [] else [if bit w 12 then aux2 else aux1])
  else if k = kResid then (if bits w 11 10 = 0 then [aux1] else if bits w 11 10 = 1 then [aux2] else [])
  else if k = kAct then (if bit w 15 then [if bit w 16 then aux2 else aux1] else [])
  else if k = kStore then (if bit w 10 then [bits w 13 11] else [])
  else []

/-- Chest rows that a stage names by number: side entries and state slots (R128). -/
def stageRowsOf (w : Nat) : List Nat :=
  let k := stKind w
  if k = kSidew then (List.range 8).map (bits w 44 31 + ·)
  else if k = kSidea then (List.range 8).map (bits w 23 10 + ·)
  else if k = kOscl ∨ k = kOnrm then (List.range 32).map fun r => bits w 23 10 + 2 * r
  else []

/-- The generators that a stage names. -/
def stageGen (w : Nat) : Option Nat :=
  if stKind w = kResid ∧ bits w 11 10 = 2 then some (bits w 17 16)
  else if stKind w = kStore ∧ !bit w 10 then some (bits w 15 14)
  else none

/-- Slots of a list's RSTAT stages before position i. -/
def slotsBefore (ws : List Nat) (i : Nat) : List Nat :=
  ((ws.take i).filter fun w => stKind w == kRstat).map fun w => bits w 15 12

/-- The settle descriptor of a SIDEW (R142). -/
def Fr.settleCheck (f : Fr) (k w : Nat) : Option Nat :=
  if stKind w ≠ kSidew ∨ !bit w 17 then none
  else if f.kind (bits w 25 18) ≠ 0x1 then some iBadStage
  else
    let d := vdesc (f.shelf.cfgLines (bits w 25 18) 3)
    if !d.pvalid || f.kind d.prog != 0x2 || (d.loc1 != 0 && d.loc1 != 2) || (d.loc2 != 0 && d.loc2 != 2) || d.loco != 2 then
      some iBadStage
    else vecCheck d (some (f.shelf.cfgLines d.prog 7)) 0 0 0 (f.banks k)

/-- A stage list named by an EPI order of Stall k, with the MMA that takes it, none where no MMA does (R129, R133, R136, R142, R163,
R172). -/
def Fr.listCheck (f : Fr) (k : Nat) (o : EpiOrder) (m : Option MmaOp) : Option Nat :=
  if f.kind o.list ≠ 0x3 then some iBadStage
  else
    let hb := f.shelf.cfgLines o.list 1
    let h := ehdr hb
    let n := (h.nst + 3) / 4
    let body := f.shelf.cfgLines (o.list + 1) n
    let ws := (List.range h.nst).map fun i => fld body (8 * i) 8
    let es := epiStages ws
    let slots := (ws.filter fun w => stKind w == kRstat).map fun w => bits w 15 12
    let tiles := ws.flatMap fun w => stageTiles w o.aux1 o.aux2
    let mmaTiles := match m with
      | some x => [x.at_, x.bt] ++ x.dTiles
      | none => []
    let qmxAt := es.findIdx? fun w => stKind w = kQmx
    let bad := h.rsv || h.gen != 1 || h.nst == 0 || decide (16 < h.nst)
      || !zeroAt body (8 * h.nst) (32 * n - 8 * h.nst)
      || (if h.dwrite then !(decide (h.ofmt ≤ 6) || isMx h.ofmt) else h.ofmt != 0)
      || ws.any (fun w => match kindSides (stKind w) with
          | none => true
          | some (e, p) => !(if stPro w then p else e) || w &&& kindMask (stKind w) != w || !stageFmtOk w || !stageCodesOk f w)
      || (match qmxAt with
          | none => false
          | some i => i + 1 != es.length || !h.dwrite || h.ofmt != stFmt (es.getD i 0))
      || ws.zipIdx.any (fun p => stKind p.1 == kSidew && !(slotsBefore ws p.2).contains (bits p.1 13 10))
      || slots.dedup.length != slots.length
      || (ws.any (fun w => stKind w == kRstat || stKind w == kSidew || stKind w == kOmax) && h.nuse == 0xFFFF)
      || tiles.any (fun t => mmaTiles.contains t)
      || (match m with
          | some x => (x.czero && hasKind ws kOscl)
              || (isMx x.afmt && !(proStages ws).isEmpty && x.k % 32 != 0)
          | none => false)
      || ws.any (fun w => (stageRowsOf w).any fun q => decide (12288 ≤ q))
    let big := (ws.filter fun w => stKind w == kRstat || stKind w == kOmax).foldl
      (fun a w => max a (64 * ((if stKind w = kRstat then bits w 15 12 else bits w 13 10) + 1))) 0
    let over_ := decide (1536 < h.srows) || decide (12288 < h.sbase + h.srows) || decide (h.srows < big)
      || decide (1 < ((xtTiles ws).dedup).length)
    let rows := (List.range h.srows).map (h.sbase + ·) ++ ws.flatMap stageRowsOf
    firstOf ([refusal bad iBadStage, refusal over_ iBudget,
      refusal (ws.any fun w => match stageGen w with
        | some g => !f.genOk k g
        | none => false) iBadAgen,
      refusal (!inBanks (f.banks k) rows) iBankOff] ++ ws.map (f.settleCheck k))

/-- Λ of a program without Chest operands or a reduction (R119). -/
def progLatency (p : Bytes) : Nat := 4 + (((progStages p).zip [3, 4, 4, 6, 3, 4]).map fun x => max 1 x.1.length * x.2).sum

/-- A program-form epilogue named by an EPI.PROG order (R134). -/
def Fr.progListCheck (f : Fr) (o : EpiOrder) : Option Nat :=
  if f.kind o.list ≠ 0x4 then some iBadStage
  else
    let h := phdr (f.shelf.cfgLines o.list 1)
    let p := f.shelf.cfgLines (o.list + 1) 7
    refusal (h.rsv || h.gen != 1 || decide (6 < h.ofmt) || h.v1src == 3 || h.v2src == 3 || !progOk 0 p
      || !(redOps p).isEmpty || decide (h.dlat < 35 + progLatency p)) iBadStage

/-! ## Order words (R70 to R91) -/

/-- Bits of an order word that its table defines, opcode and SYNC apart; none for a reserved opcode (R70, R71). -/
def orderMask (op : Nat) : Option Nat := match op with
  | 0x10 => some 0x7FFFFFFFFC000
  | 0x20 => some 0xFFFFF80000000
  | 0x21 => some 0xFFFFF80000000
  | 0x30 => some 0xFFFFC00000000
  | 0x31 => some 0xFFFFC00000000
  | 0x40 => some 0x6FFFFC0000000
  | 0x41 => some 0x3FFFFC0000000
  | 0x42 => some 0x2E00000000000
  | 0x43 => some 0xFC0000000000
  | 0x50 => some 0xFFFFFFFFFFFC
  | 0x60 => some 0x1FFFE00000000
  | 0x70 => some 0
  | 0x71 => some 0
  | 0x80 => some 0xFFFFFFE00000
  | 0x81 => some 0
  | 0x82 => some 0
  | 0x90 => some 0x1F
  | 0x91 => some 0x1F
  | 0x92 => some 0xFFFC0000001F
  | _ => none

/-- Whether an MMA breaks R47, R76 or R123. -/
def mmaBad (o : MmaOp) : Bool :=
  let is16 (c : Nat) : Bool := c == 0x1 || c == 0x2
  (mclass o.afmt o.bfmt).isNone || o.afmt == 0xE || o.bfmt == 0xE || o.afmt == 0x7 || o.bfmt == 0x7
    || o.afmt == 0xF || o.bfmt == 0xF
    || (o.wide && (o.dt % 2 == 1 || o.ct % 2 == 1))
    || (let ds := if o.wide then [o.dt, o.dt + 1] else [o.dt]; ds.contains o.at_ || ds.contains o.bt)
    || decide (tileK o.afmt < 32 * o.akoff + o.k) || decide (tileK o.bfmt < 32 * o.bkoff + o.k)
    || (is16 o.afmt && o.akoff % 2 == 1) || (is16 o.bfmt && o.bkoff % 2 == 1)
    || (o.wide && o.epi)

/-- The MMAs that may take an epilogue made pending at an offset: the next with EPI set in program order, across the branches back of
the loops that end on the way (R129). loops are (first, last) offsets of bodies; seen bounds the search. -/
def takersOf (ws : Nat → Nat) (len : Nat) (loops : List (Nat × Nat)) : Nat → List Nat → List Nat → List Nat
  | 0, _, _ => []
  | _, [], _ => []
  | fuel + 1, j :: todo, seen =>
    if len ≤ j ∨ seen.contains j then takersOf ws len loops fuel todo seen
    else
      let w := ws j
      let op := orderOp w
      let next := (j + 1) :: (loops.filter fun l => l.2 == j).map (·.1)
      if op = 0x10 ∧ (mmaOp w).epi then j :: takersOf ws len loops fuel todo (j :: seen)
      else if op = 0x81 ∨ op = 0x30 ∨ op = 0x31 then takersOf ws len loops fuel todo (j :: seen)
      else takersOf ws len loops fuel (todo ++ next) (j :: seen)

/-- Loop bodies of a region: (first, last) offsets. -/
def loopBodies (ws : Nat → Nat) (len : Nat) : List (Nat × Nat) :=
  (List.range len).filterMap fun i => if orderOp (ws i) = 0x80 then some (i + 1, loopEnd (ws i)) else none

/-- The loops whose bodies hold an offset. -/
def around (loops : List (Nat × Nat)) (i : Nat) : List (Nat × Nat) := loops.filter fun l => decide (l.1 ≤ i) && decide (i ≤ l.2)

/-- Order i of a region by itself: its encoding, and what R76, R81 to R91 and R207 refuse. -/
def Fr.orderCheck (f : Fr) (r : Region_) (loops : List (Nat × Nat)) (i : Nat) : Option Nat :=
  let w := f.order r i
  let op := orderOp w
  match orderMask op with
  | none => some iBadOrder
  | some mask =>
    if bits w 54 0 &&& mask != bits w 54 0 then some iBadOrder
    else match op with
      | 0x10 => refusal (mmaBad (mmaOp w)) iBadOrder
      | 0x20 => if rmodeBad (vecOrder w).rmode then some iBadOrder else f.vecOrderCheck r.k w false
      | 0x21 => if rmodeBad (vecOrder w).rmode then some iBadOrder else f.vecOrderCheck r.k w true
      | 0x30 =>
        if rmodeBad (epiOrder w).rmode then some iBadOrder
        else
          let ts := takersOf (f.order r) r.len loops (4 * r.len + 8) [i + 1] []
          if ts.isEmpty then f.listCheck r.k (epiOrder w) none
          else firstOf (ts.map fun t => f.listCheck r.k (epiOrder w) (some (mmaOp (f.order r t))))
      | 0x31 =>
        if rmodeBad (epiOrder w).rmode then some iBadOrder else f.progListCheck (epiOrder w)
      | 0x40 =>
        let o := movOrder w
        if o.fmt == 0xF || o.stamp == 0 || (elemBits o.fmt == 6 && o.rows % 2 == 1) || (o.fmt == 0xE && o.tile % 2 == 1) then
          some iBadOrder
        else refusal (!f.genOk r.k o.agen) iBadAgen
      | 0x41 =>
        let o := movOrder w
        if o.fmt == 0xF || o.stamp == 0 || (elemBits o.fmt == 6 && o.rows % 2 == 1) || (o.fmt == 0xE && o.tile % 2 == 1) then
          some iBadOrder
        else refusal (!f.genOk r.k o.agen) iBadAgen
      | 0x43 => refusal (movDst w == movSrc w) iBadOrder
      | 0x50 =>
        let o := sendOrder w
        let twice := (List.range i).any fun j =>
          orderOp (f.order r j) == 0x50 && (let p := sendOrder (f.order r j); p.tag == o.tag && (p.dev != o.dev || p.unit != o.unit))
        if 31 < 4 * o.colq + o.nw then some iBadOrder
        else if 0x1900 ≤ o.unit then some iBadUnit
        else firstOf [refusal twice iBadOrder,
          if o.dev = 0x3FFF ∨ o.dev = r.env.devnum then r.env.unitCheck o.unit else none]
      | 0x60 =>
        let o := recvOrder w
        refusal (bits (r.queues.getD o.queue 0) 12 6 == 0 || (o.hdr && o.colq == 7)) iBadOrder
      | 0x70 => refusal r.env.isTask iBadOrder
      | 0x80 =>
        let out := around loops i
        refusal (decide (loopEnd w ≤ i) || decide (r.len ≤ loopEnd w) || out.any (fun l => decide (l.2 < loopEnd w))
          || decide (4 ≤ out.length)) iBadOrder
      | 0x81 => refusal (!(around loops i).isEmpty) iBadOrder
      | 0x90 => refusal (!bit r.env.bells (bellLine w)) iBadOrder
      | 0x91 => refusal (!bit r.bellSub (bellLine w)) iBadOrder
      | 0x92 => refusal (bellDev w == 0x3FFF) iBadOrder
      | _ => none

/-- A whole region (R72): the first refusal and the order index at fault. -/
def Fr.regionCheck (f : Fr) (r : Region_) : Option (Nat × Nat) :=
  let loops := loopBodies (f.order r) r.len
  (List.range r.len).findSome? fun i => (f.orderCheck r loops i).map fun st => (st, r.base + i)

/-! ## Ports that a region uses (R159) -/

/-- Chest ports that a region uses: by its moves, its vector launches and its stage lists, whose epilogue runs on the path in the cyclic
class and on the vector stages in the elastic class (R122). The array's read of an OSCL state area, at every use but the first, is by the
epilogue read port in both (R122, R152). -/
def Fr.portsOf (f : Fr) (r : Region_) (cyclic : Bool) : List Nat :=
  let desc (d : VDesc) : List Nat := (if d.loc1 ≥ 2 ∨ d.loc2 = 2 then [pVrd] else []) ++ if d.loco = 2 then [pVwr] else []
  ((List.range r.len).flatMap fun i =>
    let w := f.order r i
    match orderOp w with
    | 0x40 => [pMove]
    | 0x41 => [pMove]
    | 0x20 => desc (vdesc (f.shelf.cfgLines (vecOrder w).desc 3))
    | 0x21 => desc (vdesc (f.shelf.cfgLines (vecOrder w).desc 3))
    | 0x30 =>
      let l := (epiOrder w).list
      let h := ehdr (f.shelf.cfgLines l 1)
      let body := f.shelf.cfgLines (l + 1) ((h.nst + 3) / 4)
      let ws := (List.range h.nst).map fun j => fld body (8 * j) 8
      let rd := if cyclic then pEpr else pVrd
      let wr := if cyclic then pEpw else pVwr
      ws.flatMap fun w =>
        let k := stKind w
        if k = kResid ∧ bits w 11 10 = 2 then [rd]
        else if k = kStore ∧ !bit w 10 then [wr]
        else if k = kRstat ∨ k = kOmax then [rd, wr]
        else if k = kOnrm then [rd]
        else if k = kSidea then [pVrd]
        else if k = kOscl ∧ h.nuse ≠ 0 then [pEpr]
        else if k = kSidew then [rd, wr] ++ (if bit w 17 then desc (vdesc (f.shelf.cfgLines (bits w 25 18) 3)) else [])
        else []
    | _ => []).dedup

end Sys2Proof.Machine
end

