-- ==== Sys2Proof/Machine/CheckFrame.lean ====
section
/-! DEFINITION. Section images: the header (R343), frames (R344 to R347), and the shelf loader's checks of a frame (R352): its fixed part
and lines, its orders, slot tables (R158, R159), generators (R161, R163), banks (R172, R173), transfers (R228) and queues (R85,
R86). A refusal is a status, a relative block and an image offset (R351). -/
namespace Sys2Proof.Machine

/-- A refusal among the body checks: status, relative block, image offset. -/
abbrev Refused := Nat × Nat × Nat

/-! ## The header (R343) -/

/-- The header of a section image. -/
structure IHdr where
  magic : Nat
  gen : Nat
  ver : Nat
  kind : Nat
  signed : Bool
  family : Nat
  device : Nat
  minrev : Nat
  total : Nat
  width : Nat
  height : Nat
  beat : Nat
  nframe : Nat
  npitch : Nat
  ncert : Nat
  bells : Nat
  pitch : Nat
  ntask : Nat
  frameoff : Nat
  pitchoff : Nat
  taskoff : Nat
  certoff : Nat
  envoff : Nat
  trailoff : Nat
  certdig : Bytes
  imageid : Nat
  rsv : Bool
  deriving DecidableEq, Repr, Inhabited

/-- Read a header (R343). -/
def ihdr (b : Bytes) : IHdr :=
  { magic := fld b 0 4, gen := byte b 4, ver := byte b 5, kind := byte b 6, signed := bit (byte b 7) 0, family := byte b 8,
    device := byte b 9, minrev := byte b 10, total := fld b 12 4, width := byte b 16, height := byte b 17, beat := fld b 18 2,
    nframe := fld b 20 2, npitch := fld b 22 2, ncert := fld b 24 4, bells := fld b 28 4, pitch := fld b 32 2,
    ntask := fld b 34 2, frameoff := fld b 40 4, pitchoff := fld b 44 4, taskoff := fld b 48 4, certoff := fld b 52 4,
    envoff := fld b 56 4, trailoff := fld b 60 4, certdig := sub b 64 48, imageid := fld b 112 8,
    rsv := bits (byte b 7) 7 1 != 0 || byte b 11 != 0 || !zeroAt b 36 4 || !zeroAt b 120 8 }

/-- SIGLEN that SIGNED implies (R350). -/
def IHdr.siglen (h : IHdr) : Nat := if h.signed then 3380 else 0

/-! ## Relative numbers (R344) -/

/-- The block at relative coordinates of a Lot. -/
def Lot.blockXY (l : Lot) (x y : Nat) : Nat := blkAt (l.x0 + x) (l.y0 + y)
/-- The block of a relative block number. -/
def Lot.absBlock (l : Lot) (r : Nat) : Nat := l.blockXY (r % l.width) (r / l.width)
/-- The absolute Stall or Chest of a relative one. -/
def Lot.absStall (l : Lot) (n : Nat) : Nat := 4 * l.absBlock (n / 4) + n % 4
/-- The absolute unit number of one that an image names. -/
def Lot.absUnit (l : Lot) (u : Nat) : Nat :=
  if 0x900 ≤ u ∧ u < 0x1000 then u - 0x900 + l.pbase
  else if u < 0x900 then l.absStall u
  else 0x1000 + l.absStall (u - 0x1000)

/-- An order of the image with its unit number converted: a SEND on the own device (R344). -/
def absOrder (l : Lot) (devnum w : Nat) : Nat :=
  let o := sendOrder w
  if orderOp w = 0x50 ∧ (o.dev = 0x3FFF ∨ o.dev = devnum) ∧ o.unit < 0x1900 then
    w - o.unit * 2 ^ 21 + l.absUnit o.unit % 2 ^ 13 * 2 ^ 21
  else w

/-! ## Frames (R345 to R347) -/

/-- Lines of an object of a kind, from its first line's bytes (R347); none for a code that starts no object. -/
def objLines (kind : Nat) (first : Nat) : Option Nat := match kind with
  | 0x1 => some 3
  | 0x2 => some 7
  | 0x3 => some (1 + (bits first 8 4 + 3) / 4)
  | 0x4 => some 8
  | 0x5 => some 1
  | 0x6 => some 11
  | 0x7 => some 2
  | 0x8 => some 2
  | 0x9 => some 4
  | _ => none

/-- The first line from `line` on whose kind is not the one the objects before it call for: left counts the continuation lines that
still belong to an object. -/
def linemapBad (kinds : Tab Nat) (word : Nat → Nat) : Nat → Nat → Nat → Option Nat
  | 0, left, line => if left = 0 then none else some (line - 1)
  | fuel + 1, left, line =>
    let k := kinds.get line
    if left ≠ 0 then (if k = 0xF then linemapBad kinds word fuel (left - 1) (line + 1) else some line)
    else if k = 0 then linemapBad kinds word fuel 0 (line + 1)
    else match objLines k (word line) with
      | none => some line
      | some n => linemapBad kinds word fuel (n - 1) (line + 1)

/-- The owner of a cell by a Chest's grant masks: the port whose mask has its bit (R158). -/
def cellOwner (grants : Tab Nat) (k cell : Nat) : Nat :=
  ((List.range 10).map (· + 1) |>.find? fun p => bit (grants.get (16 * k + p)) cell).getD 0
/-- The merged owner table of Chest k (R158). -/
def ownerTable (grants : Tab Nat) (k : Nat) : Tab Nat := Tab.ofList 0 ((List.range 256).map (cellOwner grants k))

/-- Line j of the four lines of an owner table: code of cell c in the nibble c (R158). -/
def ownerLine (t : Tab Nat) (j : Nat) : BitVec 256 :=
  BitVec.ofNat 256 (((List.range 64).map fun i => t.get (64 * j + i) * 16 ^ i).sum)

/-- Read the frame at an image offset; fb is the image from there on, l the Lot (R345). -/
def readFrame (l : Lot) (at_ : Nat) (fb : Bytes) : Fr :=
  let rb := fld fb 0 2
  let x := bits rb 5 0
  let y := bits rb 11 8
  let nord := fld fb 2 2
  let nline := fld fb 4 2
  let kinds : Tab Nat := Tab.ofList 0 ((List.range 256).map fun i => byte fb (128 + i / 2) / 16 ^ (i % 2) % 16)
  let carried := kinds.map (·.1)
  let base := 2176 + 8 * nord
  let lines : Tab (BitVec 256) :=
    carried.zipIdx.foldl (fun t p => t.set p.1 (BitVec.ofNat 256 (fld fb (base + 32 * p.2) 32))) []
  let grants : Tab Nat := (List.range 4).foldl (fun t k => (List.range 10).foldl (fun t p =>
    t.set (16 * k + p + 1) (fld fb (256 + 320 * k + 32 * p) 32)) t) []
  let cfg : Tab W64 := Tab.ofList 0 ((List.range 4).map fun k => BitVec.ofNat 64 (fld fb (40 + 8 * k) 8))
  let named := below 4 fun k => bits (cfg.get k : W64).toNat 19 4 != 0
  let owners : Tab (Tab Nat) := named.foldl (fun t k => t.set k (ownerTable grants k)) []
  let tabs := ((kinds.filter fun p => p.2 == 0x9).map (·.1)).zip named
  let lines := tabs.foldl (fun (t : Tab (BitVec 256)) p =>
    (List.range 4).foldl (fun t j => t.set (p.1 + j) (ownerLine (owners.get p.2) j)) t) lines
  { at_ := at_, rel := x + l.width * y, block := l.blockXY x y, nord := nord, size := base + 32 * nline,
    shelf := {
      orders := Tab.ofList 0 ((List.range (min nord 2048)).map fun i => BitVec.ofNat 64 (fld fb (2176 + 8 * i) 8)),
      lines := lines, kinds := kinds,
      regions := Tab.ofList 0 ((List.range 4).map fun k => BitVec.ofNat 64 (fld fb (8 + 8 * k) 8)),
      cfg := cfg,
      bellSub := Tab.ofList 0 ((List.range 4).map fun k => fld fb (72 + 4 * k) 4),
      owners := owners,
      queues := Tab.ofList 0 ((List.range 64).map fun i => fld fb (1536 + 4 * i) 4),
      tags := Tab.ofList 0 ((List.range 256).map fun i => byte fb (1792 + i)),
      sendInc := Tab.ofList 0 ((List.range 256).map fun i => byte fb (2048 + i / 2) / 16 ^ (i % 2) % 16) },
    lineOff := carried.zipIdx.foldl (fun t p => t.set p.1 (at_ + base + 32 * p.2)) [],
    grants := grants }

/-- A refusal at a field of a frame. -/
def Fr.no (f : Fr) (c : Bool) (st off : Nat) : Option Refused := if c then some (st, f.rel, off) else none

/-- Whether a region word lies in the order memory with its ENTRY inside (R64, R346). -/
def regionWordOk (w : Nat) : Bool :=
  bits w 63 34 == 0 && (!bit w 33 || (decide (bits w 10 0 + bits w 21 11 + 1 ≤ 2048) && decide (bits w 32 22 ≤ bits w 21 11)))

/-- The fixed part and the lines (R345 to R348): prev is the frame before, pend the end of the frames. -/
def Fr.partCheck (f : Fr) (l : Lot) (env : ImgEnv) (prev : Option Nat) (pend : Nat) (fb : Bytes) : Option Refused :=
  let a := f.at_
  let rb := fld fb 0 2
  let nline := fld fb 4 2
  let named := (below 4 fun k => f.banks k != 0).length
  firstOf ([
    f.no (bits rb 7 6 != 0 || bits rb 15 12 != 0 || decide (l.width ≤ bits rb 5 0) || decide (l.height ≤ bits rb 11 8)
      || prev.any (fun p => decide (f.rel ≤ p))) iBadFrame a,
    f.no (decide (2048 < f.nord) || decide (256 < nline) || decide (pend < a + f.size)) iBadFrame a,
    f.no (!zeroAt fb 6 2) iBadFrame a]
    ++ (List.range 4).map (fun k => f.no (!regionWordOk (f.shelf.regions.get k).toNat) iBadFrame (a + 8 + 8 * k))
    ++ (List.range 4).map (fun k =>
      let w := (f.shelf.cfg.get k).toNat
      f.no (w != 0 && (bits w 3 0 != 1 || bits w 63 24 != 0)) iBadFrame (a + 40 + 8 * k))
    ++ (List.range 5).map (fun j => f.no (!zeroAt fb (88 + 8 * j) 8) iBadFrame (a + 88 + 8 * j))
    ++ [f.no (env.isTask && !(rb == 0 && zeroAt fb 8 32 && zeroAt fb 72 16 && zeroAt fb 1536 640)) iBadTask a,
      f.no (f.shelf.kinds.length != nline) iBadLinemap (a + 128),
      (linemapBad f.shelf.kinds (fun i => (f.shelf.lines.get i).toNat) 256 0 0).map fun i => (iBadLinemap, f.rel, f.lineAt i),
      f.no (decide (1 < (f.shelf.objs 0x6).length) || (f.shelf.objs 0x9).length != named) iBadLinemap (a + 128)])

/-- A block that is not given a frame: retired, or fenced unless a pending shift makes it whole (R21, R359, R462). A task shelf's frame
goes to the blocks that are not retired. -/
def Dev.noFrame (s : Dev) (k b : Nat) : Bool :=
  s.retired b || ((s.block b).fenced && !(s.grid.heals b).any fun h => s.shiftFits k h)

/-- The four regions of a frame, those that are valid (R346). -/
def Fr.regionsOf (f : Fr) (env : ImgEnv) : List Region_ := (List.range 4).filterMap fun k =>
  let w := (f.shelf.regions.get k).toNat
  if bit w 33 then
    some { k := k, base := bits w 10 0, len := bits w 21 11 + 1,
           queues := (List.range 16).map fun q => f.shelf.queues.get (16 * k + q), bellSub := f.shelf.bellSub.get k, env := env }
  else none

/-- The orders of a frame: each Stall's bell subscription, then its region (R72, R91). -/
def Fr.ordersCheck (f : Fr) (env : ImgEnv) : Option Refused := (List.range 4).findSome? fun k =>
  firstOf [f.no (f.shelf.bellSub.get k &&& env.bells != f.shelf.bellSub.get k) iBadOrder (f.at_ + 72 + 4 * k),
    ((f.regionsOf env).filter fun r => r.k == k).findSome? fun r =>
      (f.regionCheck r).map fun e => (e.1, f.rel, f.orderAt e.2)]

/-! ## Slot tables (R159) -/

/-- Cells of a grant mask at a position. -/
def cellsAt (mask pos : Nat) : Nat := ((List.range 16).filter fun b => bit mask (16 * b + pos)).length
/-- Banks in which a grant mask owns a cell. -/
def maskBanks (mask : Nat) : Nat := ((below 16 fun b => bits mask (16 * b + 15) (16 * b) != 0).map fun b => 2 ^ b).sum

/-- The slot tables of a frame; used gives the ports that each Chest's work uses. -/
def Fr.slotCheck (f : Fr) (used : Nat → List Nat) : Option Refused := (List.range 4).findSome? fun k =>
  let mask (p : Nat) := f.grants.get (16 * k + p)
  let banks := f.banks k
  (List.range 10).findSome? fun i =>
    let p := i + 1
    let before := (List.range i).foldl (fun m j => m ||| mask (j + 1)) 0
    let share (pos : Nat) : Nat := ((List.range 4).map fun c => cellsAt (f.grants.get (16 * c + p)) pos).sum
    f.no (mask p &&& before != 0
      || (List.range 16).any (fun pos => decide (portWidth p < cellsAt (mask p) pos))
      || ((p == pCrd || p == pCwr) && (List.range 16).any fun pos => decide (1 < share pos))
      || maskBanks (mask p) &&& banks != maskBanks (mask p)
      || ((used k).contains p && maskBanks (mask p) &&& banks != banks)) iSlots (f.at_ + 256 + 320 * k + 32 * i)

/-! ## Generators (R161, R163) -/

/-- Whether a generator's own fields and rows are accepted; banks are those that the shelf names in its Chest. -/
def GenD.ok (g : GenD) (banks : Nat) : Bool :=
  let w : Walk := { base := g.base, dims := g.cnt.zip g.str }
  !g.rsv && g.gen == 1 && g.bind != 3
    && (if g.bind = 0 then g.stamp == 0 && !g.hold && !g.release && g.endpt == 0
        else g.stamp != 0 && (if g.bind = 1 then !g.release else !g.hold) && decide (g.endpt ≤ 31))
    && decide (0 ≤ w.bounds.1) && decide (w.bounds.2 < 12288)
    && inBanks banks (pieces 1 14 (w.cover 1 1).1 0)

/-- The generators of a frame. -/
def Fr.gensCheck (f : Fr) : Option Refused :=
  let ls := f.shelf.objs 0x7
  ls.zipIdx.findSome? fun p =>
    let g := genD (f.shelf.cfgLines p.1 2)
    let before := (ls.take p.2).map fun l => genD (f.shelf.cfgLines l 2)
    f.no (decide (16 ≤ p.2) || !g.ok (f.banks g.gchest)
      || before.any (fun h => h.gchest == g.gchest && (h.gidx == g.gidx || (h.bind != 0 && g.bind != 0 && h.endpt == g.endpt))))
      iBadAgen (f.lineAt p.1)

/-! ## Banks shared with the front (R173) -/

/-- Banks that the front shelf of another context names too. -/
def Dev.sharedCheck (s : Dev) (k c : Nat) (f : Fr) : Option Refused :=
  let fr := (s.lot k).front
  if fr.kind = 0 ∨ fr.ctx = c then none
  else (List.range 4).findSome? fun i =>
    f.no ((fr.blocks.get f.block).banks i &&& f.banks i != 0) iShared (f.at_ + 40 + 8 * i)

/-! ## Transfers (R228) -/

/-- Lowest and highest displacement of a transfer's lines in memory, in lines. -/
def XferD.span (d : XferD) : Int × Int := ({ base := 0, dims := d.cnt.zip d.mstr } : Walk).bounds

/-- Whether the address range of a transfer is one that R228 allows: lp is the installed LPDDR5X capacity in GiB. -/
def XferD.addrOk (d : XferD) (devnum lp : Nat) : Bool :=
  let own := addrDev d.addr == 0x3FFF || addrDev d.addr == devnum
  let off := bits d.addr 43 0
  let lo := (off : Int) + 64 * d.span.1
  let hi := (off : Int) + 64 * d.span.2 + 63
  let cap := if own then lp else 1024
  let chest := decide (0x080000000000 ≤ lo) && decide (hi < 0x080090000000)
    && (lo - 0x080000000000) / 0x100000 == (hi - 0x080000000000) / 0x100000 && decide ((hi - 0x080000000000) % 0x100000 < 786432)
  decide (d.addr % 64 = 0) && bits d.addr 63 58 == 0 && decide (0 ≤ lo)
    && (decide (hi < jobEnd) || (decide (lpBase ≤ lo) && decide (hi < lpBase + cap * gib)) || (own && d.dir != 2 && chest))

/-- A transfer descriptor of a frame. -/
def XferD.check (d : XferD) (f : Fr) (env : ImgEnv) (beat lp : Nat) : Option Nat :=
  let w : Walk := { base := d.rowbase, dims := d.cnt.zip d.rstr }
  let port := if d.dir = 0 then pCwr else pCrd
  let bad := d.gen != 1 || d.rsv || d.dir == 3 || d.stamp == 0
    || (d.dir != 0 && (d.hold || d.waitheld)) || (d.dir == 0 && d.release)
    || (if d.dir = 2 then !(d.afmt == 0x0 || d.afmt == 0x1 || d.afmt == 0x7) else d.afmt != 0)
    || (d.trig == 0 && (env.isTask || decide (beat ≤ d.targ)))
    || (d.trig == 1 && (bits d.targ 9 5 != 0 || !bit env.bells (bits d.targ 4 0)))
    || (decide (2 ≤ d.trig) && d.targ != 0)
    || (d.doneb && !bit env.bells d.dline)
    || (if d.pooled then bits d.addr 63 46 != 0 else !d.addrOk env.devnum lp)
    || decide (w.bounds.1 < 0) || decide (12288 ≤ w.bounds.2)
  if bad then some iBadTransfer
  else
    let rows := pieces 1 14 (w.cover 1 1).1 0
    firstOf [refusal (!inBanks (f.banks d.chest) rows) iBankOff,
      refusal (!inBanks (maskBanks (f.grants.get (16 * d.chest + port))) rows) iBadTransfer]

/-- The transfers of a frame. -/
def Fr.transfersCheck (f : Fr) (env : ImgEnv) (beat lp : Nat) : Option Refused :=
  (f.shelf.objs 0x8).zipIdx.findSome? fun p =>
    if 16 ≤ p.2 then some (iBadTransfer, f.rel, f.lineAt p.1)
    else ((xferD (f.shelf.cfgLines p.1 2)).check f env beat lp).map fun st => (st, f.rel, f.lineAt p.1)

/-! ## Queues (R85, R86) -/

/-- The first queue word (its number) or tag map entry (16 plus its tag) at fault. -/
def queuesBad (ws ts : List Nat) : Option Nat :=
  let pool (w : Nat) : Nat := (2 ^ bits w 12 6 - 1) * 2 ^ bits w 5 0
  firstOf [(List.range 16).find? fun q =>
      let w := ws.getD q 0
      bits w 31 13 != 0 || decide (64 < bits w 5 0 + bits w 12 6)
        || (List.range q).any fun j => pool (ws.getD j 0) &&& pool w != 0,
    ((List.range 64).find? fun t => decide (32 ≤ ts.getD t 0)).map (16 + ·)]

/-- The queue words and tag maps of a frame. -/
def Fr.queuesCheck (f : Fr) : Option Refused := (List.range 4).findSome? fun k =>
  (queuesBad ((List.range 16).map fun q => f.shelf.queues.get (16 * k + q)) ((List.range 64).map fun t => f.shelf.tags.get (64 * k + t))).map
    fun e => (iBadQueue, f.rel, if e < 16 then f.at_ + 1536 + 64 * k + 4 * e else f.at_ + 1792 + 64 * k + (e - 16))

end Sys2Proof.Machine
end

