-- ==== Sys2Proof/Machine/CheckCircuit.lean ====
section
/-! DEFINITION. The shelf loader's checks of circuits (R185, R193, R464), of the queue certificate (R188 to R191) and of a partial update's
boundary (R358). Circuits are traced through the switch frames of the image, and of the front shelf for the blocks that a partial
update leaves alone. -/
namespace Sys2Proof.Machine

/-! ## Fields (R182, R183, R193) -/

/-- Whether a crosspoint entry uses no reserved field or code. -/
def xpointOk (w : Nat) : Bool :=
  let src := bits w 2 0
  let sel := bits w 7 3
  bits w 15 8 == 0 && src != 7 && (src == 5 || (src == 6 && decide (sel < 16)) || sel == 0)

/-- Whether an endpoint word uses no reserved field or code. -/
def epWordOk (w : EpWord) : Bool :=
  let inp := w.mode == 1 || w.mode == 3
  !w.rsv
    && (!inp || (decide (1 ≤ w.ilink) && decide (w.ilink ≤ 6) && decide (w.islot ≤ 6) && decide (1 ≤ w.depth) && decide (w.depth ≤ 256)
      && (w.ilink == 5 || (w.ilink == 6 && decide (w.isel < 16)) || w.isel == 0)))
    && (w.mode != 2 || w.depth == 0) && (!w.fork || w.mode == 2)
    && (!w.sink || w.mode == 1) && (if w.sink then w.steer % 4 != 3 else w.steer == 0)

/-- Whether a switch frame uses no reserved field or code. -/
def switchFieldsOk (fr : Bytes) : Bool :=
  (List.range 28).all (fun i => xpointOk (fld fr (2 * i) 2)) && zeroAt fr 56 8
    && (List.range 32).all (fun e => epWordOk (epWord fr e))
    && (List.range 8).all fun u =>
      let w := fld fr (320 + 4 * u) 4
      bits w 31 20 == 0 && (bits w 1 0 == 1 || bits w 19 11 == 0)

/-! ## Sources and sinks -/

/-- Whether a source of a switch frame exists: an OUT or RELAY endpoint, or an output of a steering unit that is on; only a BRANCH has
an output 1. -/
def sourceOk (fr : Bytes) (e : Nat) : Bool :=
  if e < 32 then (epWord fr e).mode == 2 || (epWord fr e).mode == 3
  else let k := (steerWord fr ((e - 32) / 2)).1; k != 0 && (e % 2 == 0 || k == 1)

/-- The sources of a block that send: (block, number). -/
def sendersOf (fr : Nat → Bytes) (b : Nat) : List (Nat × Nat) :=
  (below 48 fun e => sourceOk (fr b) e && (List.range 7).any fun t => sendsIn (fr b) e t).map fun e => (b, e)

/-- The sinks that a source's flits reach in a slot, in branch order. -/
def sinksIn (fr : Nat → Bytes) (o : Nat × Nat) (t : Nat) : List PathSink :=
  (tracePath fr o pathFuel o.1 (srcCode o.2).1 (srcCode o.2).2 t 0).1

/-- The slots in which a source sends. -/
def slotsOf (fr : Nat → Bytes) (o : Nat × Nat) : List Nat := below 7 fun t => sendsIn (fr o.1) o.2 t

/-- The distinct sinks of a source, in branch order. -/
def sinksOf (fr : Nat → Bytes) (o : Nat × Nat) : List (Nat × Nat) :=
  (slotsOf fr o).foldl (fun l t => l ++ ((sinksIn fr o t).map fun p => (p.1, p.2.1)).filter fun p => !l.contains p) []

/-- The circuits of a set of blocks: each source with each of its sinks. -/
def circuitsOf (fr : Nat → Bytes) (bs : List Nat) : List ((Nat × Nat) × (Nat × Nat)) :=
  (bs.flatMap (sendersOf fr)).flatMap fun o => (sinksOf fr o).map fun k => (o, k)

/-- Whether the path of a source in a slot stays in its Lot's rectangle, off slot 7, and off the switch points it has passed (R185). -/
def pathOk (fr : Nat → Bytes) (l : Lot) : Nat → Nat → Nat → Nat → Nat → List Nat → Bool
  | 0, _, _, _, _, _ => false
  | fuel + 1, b, src, sel, t, seen =>
    (below 4 fun o => xpoint (fr b) o t == (src, if src ≥ 5 then sel else 0)).all fun o => match neighbour b o with
      | none => false
      | some nb => l.has nb && decide (linkSlot b o t < 7) && !seen.contains nb
          && pathOk fr l fuel nb (opposite o + 1) 0 (linkSlot b o t) (nb :: seen)

/-- The switch points that a source's flits pass. -/
def passes_ (fr : Nat → Bytes) (o : Nat × Nat) : List Nat :=
  ((slotsOf fr o).flatMap fun t => ((tracePath fr o pathFuel o.1 (srcCode o.2).1 (srcCode o.2).2 t 0).2.map fun h => h.1)
    ++ (sinksIn fr o t).map fun p => p.1).dedup

/-- Where a flit that stands at a block with a source code and SEL in a slot comes from, with its links and join crossings: a source, or
none. A local loop counts as one link (R184). -/
def traceLinks (fr : Nat → Bytes) : Nat → Nat → Nat → Nat → Nat → Nat → Nat → Option ((Nat × Nat) × Nat × Nat)
  | 0, _, _, _, _, _, _ => none
  | fuel + 1, b, src, sel, t, h, j =>
    if src = 5 then some ((b, sel), max h 1, j)
    else if src = 6 then some ((b, 32 + sel), max h 1, j)
    else match neighbour b (src - 1) with
      | none => none
      | some pb =>
        let o := opposite (src - 1)
        let pt := if crosses pb o then (t + 5) % 8 else t
        let (c, l) := xpoint (fr pb) o pt
        if c = 0 ∨ pt = 7 then none else traceLinks fr fuel pb c l pt (h + 1) (j + b2n (crosses pb o))

/-- The source, links and crossings of the circuit that ends at endpoint e of block b. -/
def sinkTrace (fr : Nat → Bytes) (b e : Nat) : Option ((Nat × Nat) × Nat × Nat) :=
  let w := epWord (fr b) e
  if w.ilink = 0 then none else traceLinks fr pathFuel b w.ilink w.isel w.islot 0 0

/-- F of a circuit over h links of which j cross the join (R186). -/
def fOf (h j : Nat) : Nat := 8 * h + 3 * j

/-! ## Circuits (R185, R193, R464) -/

/-- Inputs of a steering unit that IN endpoints feed: 0 data 0, 1 data 1, 2 token. -/
def feeds (fr : Bytes) (u : Nat) : List Nat :=
  (List.range 32).filterMap fun e =>
    let w := epWord fr e
    if w.mode = 1 ∧ w.sink ∧ w.steer / 4 = u then some (w.steer % 4) else none

/-- Whether the steering units of a frame are fed as R193 asks, each input by one endpoint. -/
def feedsOk (fr : Bytes) : Bool := (List.range 8).all fun u =>
  let f := feeds fr u
  let need := match (steerWord fr u).1 with
    | 0 => []
    | 1 => [0, 2]
    | _ => [0, 1, 2]
  f.length == need.length && need.all fun i => f.contains i

/-- Whether the stream queues of a frame fit the stream buffer without meeting (R185). -/
def queuesFit (fr : Bytes) : Bool :=
  let qs := (below 32 fun e => (epWord fr e).mode == 1 || (epWord fr e).mode == 3).map fun e => ((epWord fr e).qbase, (epWord fr e).depth)
  qs.all (fun q => decide (q.1 + q.2 ≤ 256)) && qs.zipIdx.all fun p =>
    (qs.take p.2).all fun q => decide (q.1 + q.2 ≤ p.1.1) || decide (p.1.1 + p.1.2 ≤ q.1)

/-- Whether each endpoint that takes rows from or gives rows to a Chest has one generator bound to it (R185). -/
def boundOk (sh : Shelf) (fr : Bytes) : Bool :=
  let gens := (sh.objs 0x7).map fun l => genD (sh.cfgLines l 2)
  (List.range 32).all fun e =>
    let w := epWord fr e
    let want := if w.mode = 2 then 2 else 1
    w.mode == 0 || w.sink || (gens.filter fun g => g.bind == want && g.endpt == e).length == 1

/-- Whether the credits of a source equal the depths of the sinks that its branches reach (R185). -/
def creditsOk (fr : Nat → Bytes) (o : Nat × Nat) : Bool :=
  let depth (k : Nat × Nat) : Nat := (epWord (fr k.1) k.2).depth
  let w := epWord (fr o.1) o.2
  let st := steerWord (fr o.1) ((o.2 - 32) / 2)
  let c0 := if o.2 < 32 then w.cred0 else if o.2 % 2 = 0 then st.2.1 else st.2.2
  (sinksOf fr o).zipIdx.all fun p => depth p.1 == (if p.2 = 0 then c0 else w.cred1)

/-- The block's part of R185: its own fields and entries, and the circuits that start there. -/
def circuitOk (fr : Nat → Bytes) (l : Lot) (sh : Shelf) (faulty : List Nat) (b : Nat) : Bool :=
  let me := fr b
  let known (src sel t : Nat) : Bool := match traceLinks fr pathFuel b src sel t 0 0 with
    | some (o, _) => sourceOk (fr o.1) o.2
    | none => false
  switchFieldsOk me && feedsOk me && queuesFit me && boundOk sh me
    && (List.range 28).all (fun i =>
      let (src, sel) := xpoint me (i / 7) (i % 7)
      src == 0 || (known src sel (i % 7) && (match neighbour b (i / 7) with
        | some nb => l.has nb
        | none => false) && decide (linkSlot b (i / 7) (i % 7) < 7)))
    && (List.range 32).all (fun e =>
      let w := epWord me e
      !(w.mode == 1 || w.mode == 3) || known w.ilink w.isel w.islot)
    && (sendersOf fr b).all fun o =>
      let n := (sinksOf fr o).length
      decide (n ≤ if o.2 < 32 ∧ (epWord me o.2).fork then 2 else 1) && creditsOk fr o
        && (slotsOf fr o).all (fun t => pathOk fr l pathFuel b (srcCode o.2).1 (srcCode o.2).2 t [b])
        && (passes_ fr o).all fun x => !faulty.contains x

/-! ## The queue certificate (R188 to R191) -/

/-- Longest cyclic run of positions in which a mask owns no cell of a bank (R155). -/
def slotGap (mask bank : Nat) : Nat :=
  let run := (List.range 32).foldl (fun (a : Nat × Nat) i =>
    if bit mask (16 * bank + i % 16) then (0, a.2) else (a.1 + 1, max a.2 (a.1 + 1))) (0, 0)
  min 16 run.2
/-- The slot-wait bound of a port of Chest k under an owner table, over the banks the shelf powers (R155). -/
def Shelf.slotWait (sh : Shelf) (k port : Nat) : Nat :=
  let t := sh.owners.get k
  let mask := ((List.range 256).map fun c => if t.get c = port then 2 ^ c else 0).sum
  (below 16 fun b => bit (sh.banks k) b).foldl (fun m b => max m (slotGap mask b)) 0

/-- The least residence bound W_q that a sink may declare (R188). -/
def waitBound (sh : Shelf) (fr : Bytes) (e : Nat) : Nat :=
  if (epWord fr e).sink then 2
  else
    let g := ((sh.objs 0x7).map fun l => genD (sh.cfgLines l 2)).find? fun g => g.bind == 1 && g.endpt == e
    match g with
    | some g => sh.slotWait g.gchest pSin
    | none => 0

/-- D_rate of R188. -/
def dRate (f r wq : Nat) : Nat := ((2 * f + 2 + wq) * r + 7) / 8 + 1

/-- The slots per turn of a circuit: those in which the source's flits reach the sink. -/
def rateOf (fr : Nat → Bytes) (o k : Nat × Nat) : Nat :=
  ((slotsOf fr o).filter fun t => (sinksIn fr o t).any fun p => p.1 == k.1 && p.2.1 == k.2).length

/-- A STREAM record (R190): SLOTS, source, sink, links, crossings, W_q and DMIN, with the blocks absolute. -/
structure StreamRec where
  slots : Nat
  src : Nat × Nat
  snk : Nat × Nat
  h : Nat
  j : Nat
  wq : Nat
  dmin : Nat
  deriving DecidableEq, Repr, Inhabited

/-- The STREAM records of a certificate. -/
def streamRecs (l : Lot) (recs : List Bytes) : List StreamRec := (recs.filter fun r => byte r 0 == 1).map fun r =>
  { slots := byte r 1, src := (l.absBlock (fld r 2 2), byte r 4), snk := (l.absBlock (fld r 5 2), byte r 7), h := fld r 8 2,
    j := byte r 10, wq := byte r 11, dmin := fld r 12 4 }

/-- Whether a STREAM record agrees with what the loader traces (R191). -/
def StreamRec.ok (x : StreamRec) (fr : Nat → Bytes) (sh : Nat → Shelf) : Bool :=
  match sinkTrace fr x.snk.1 x.snk.2 with
  | none => false
  | some (o, h, j) =>
    o == x.src && x.h == h && x.j == j && x.slots == rateOf fr x.src x.snk && decide (1 ≤ x.slots) && decide (x.slots ≤ 7)
      && decide (waitBound (sh x.snk.1) (fr x.snk.1) x.snk.2 ≤ x.wq)
      && x.dmin == dRate (fOf h j) x.slots x.wq && decide (x.dmin ≤ (epWord (fr x.snk.1) x.snk.2).depth)

/-- The link latency of a path from a fork to a sink (R191): of the circuit that ends there, and of the fork's branch that does not end
at the other path's sink when another circuit lies between. -/
def pathLatency (fr : Nat → Bytes) (fork snk other : Nat × Nat) : Option Nat :=
  match sinkTrace fr snk.1 snk.2 with
  | none => none
  | some (o, h, j) =>
    if o = fork then some (fOf h j)
    else
      let b := (sinksOf fr fork).find? fun k => k != other
      match b with
      | none => some (fOf h j)
      | some k => match sinkTrace fr k.1 k.2 with
        | some (_, h2, j2) => some (fOf h j + fOf h2 j2)
        | none => some (fOf h j)

/-- Whether a RECONV record agrees with what the loader traces (R189, R191). -/
def reconvOk (r : Bytes) (l : Lot) (fr : Nat → Bytes) (st : List StreamRec) : Bool :=
  let fork := (l.absBlock (fld r 2 2), byte r 4)
  let join := l.absBlock (fld r 5 2)
  let short := (join, byte r 7)
  let long := (join, byte r 8)
  let fs := fld r 16 4
  let fl := fld r 20 4
  (epWord (fr fork.1) fork.2).fork
    && (match pathLatency fr fork short long, pathLatency fr fork long short, st.find? fun x => x.snk == short with
      | some s, some g, some x =>
        decide (s ≤ fs) && decide (g ≤ fl) && decide (fs ≤ fl) && byte r 1 == x.slots
          && fld r 12 4 == dRate (fOf x.h x.j) x.slots x.wq + ((fl - fs) * x.slots + 7) / 8
          && decide (fld r 12 4 ≤ (epWord (fr join) short.2).depth)
      | _, _, _ => false)

/-- Whether the bytes of a record beyond its fields are zero, and its block numbers lie in the Lot (R190, R191). -/
def recShapeOk (nblocks : Nat) (r : Bytes) : Bool := match byte r 0 with
  | 1 => zeroAt r 16 16 && decide (fld r 2 2 < nblocks) && decide (fld r 5 2 < nblocks)
  | 2 => byte r 9 == 0 && zeroAt r 10 2 && zeroAt r 24 8 && decide (fld r 2 2 < nblocks) && decide (fld r 5 2 < nblocks)
  | 3 => byte r 4 == 0 && zeroAt r 7 25 && decide (byte r 1 < 16) && decide (fld r 2 2 < 4 * nblocks)
    && decide (1 ≤ fld r 5 2) && decide (fld r 5 2 ≤ 64)
  | _ => false

/-- SIZE of a receive queue of an image's frames, by absolute Stall. -/
def sizeIn (sh : Nat → Shelf) (n q : Nat) : Nat := bits ((sh (n / 4)).queues.get (16 * (n % 4) + q)) 12 6

/-- The certificate of an image (R191): the number of the first failing record, or the number of records where something has none.
frames are the blocks with a frame in the image; fr and sh give every block's switch frame and shelf. -/
def certBad (l : Lot) (isTask : Bool) (blocks frames : List Nat) (fr : Nat → Bytes) (sh : Nat → Shelf) (recs : List Bytes) : Option Nat :=
  let nb := l.width * l.height
  let st := streamRecs l recs
  let circuits := circuitsOf fr blocks
  let mine := circuits.filter fun c => frames.contains c.1.1 || frames.contains c.2.1
  let bad := (List.range recs.length).find? fun i =>
    let r := recs.getD i []
    let n := l.absStall (fld r 2 2)
    !recShapeOk nb r || (match byte r 0 with
      | 1 =>
        let x := (streamRecs l [r]).headD default
        !x.ok fr sh || (streamRecs l (recs.take i)).any fun y => y.src == x.src && y.snk == x.snk
      | 2 => !reconvOk r l fr st
      | _ => isTask || !frames.contains (n / 4) || decide (sizeIn sh n (byte r 1) < fld r 5 2)
        || (recs.take i).any fun y => byte y 0 == 3 && byte y 1 == byte r 1 && fld y 2 2 == fld r 2 2)
  match bad with
  | some i => some i
  | none =>
    let noStream := mine.any fun c => !st.any fun x => x.src == c.1 && x.snk == c.2
    let noRcap := !isTask && frames.any fun b => (List.range 64).any fun i =>
      bits ((sh b).queues.get i) 12 6 != 0
        && !recs.any fun r => byte r 0 == 3 && byte r 1 == i % 16 && l.absStall (fld r 2 2) == 4 * b + i / 16
    if noStream || noRcap then some recs.length else none

/-! ## A partial update's boundary (R358) -/

/-- Whether every entry of the subtree's blocks that a circuit across the boundary uses equals the front's: circuits that have switch
points on both sides, in the old frames or in the new ones. -/
def boundaryKept (old new : Nat → Bytes) (blocks inside : List Nat) : Bool :=
  let crossing (fr : Nat → Bytes) : List (Nat × Nat) := (blocks.flatMap (sendersOf fr)).filter fun o =>
    let ps := passes_ fr o
    ps.any (fun b => inside.contains b) && ps.any fun b => !inside.contains b
  (crossing old ++ crossing new).all fun o =>
    let hops (fr : Nat → Bytes) := (slotsOf fr o).flatMap fun t => (tracePath fr o pathFuel o.1 (srcCode o.2).1 (srcCode o.2).2 t 0).2
    let word (fr : Nat → Bytes) : Nat × Nat × Nat :=
      if o.2 < 32 then (fld (fr o.1) (64 + 8 * o.2) 8, 0, 0) else steerWord (fr o.1) ((o.2 - 32) / 2)
    word old == word new && hops old == hops new
      && (sinksOf old o == sinksOf new o) && (sinksOf old o).all fun k => epWord (old k.1) k.2 == epWord (new k.1) k.2

end Sys2Proof.Machine
end

