-- ==== Sys2Proof/Machine/Loader.lean ====
section
/-! DEFINITION. The shelf loader (R342 to R356): acceptance of a section image in the order of R351 and R352, and the load of a back
shelf. -/
namespace Sys2Proof.Machine

/-! ## Pitches (R25 to R27, R31, R344) -/

/-- Child entry i of a Pitch descriptor: (NUM, KIND). -/
def childEntry (b : Bytes) (i : Nat) : Nat × Nat := let w := fld b (16 + 2 * i) 2; (bits w 11 0, bits w 15 14)
/-- Queue-map entry q of a Pitch descriptor: (STALL, QUEUE). -/
def qmapEntry (b : Bytes) (q : Nat) : Nat × Nat := let w := fld b (48 + 2 * q) 2; (bits w 11 0, bits w 15 12)

/-- The descriptor that the loader stores for one of an image (R344): absolute numbers and the Lot. -/
def readPitch (l : Lot) (k : Nat) (b : Bytes) : Pitch :=
  let w := fld b 0 8
  let pid (n : Nat) : Nat := n + l.pbase - 0x900
  let qv := fld b 8 2
  { pid := pid (bits w 11 0), depth := bits w 28 24, lot := k, head := l.absStall (bits w 51 40), qvalid := qv,
    children := (List.range (bits w 20 16)).map fun i =>
      let (n, kd) := childEntry b i
      (if kd = 0 then l.absBlock n else pid n, kd),
    qmap := (List.range 16).map fun q =>
      let (n, u) := qmapEntry b q
      if bit qv q then l.absStall n + 4096 * u else n + 4096 * u }

/-- Depth of a Pitch by the descriptors given; fuel bounds it (R25). -/
def depthOf (ps : List Pitch) : Nat → Nat → Nat
  | 0, _ => 0
  | fuel + 1, pid => match ps.find? fun p => p.pid = pid with
    | none => 0
    | some p => 1 + (p.children.map fun c => if c.2 = 0 then 0 else depthOf ps fuel c.1).foldl max 0

/-- Whether a Pitch identifier of an image falls in the Lot's range (R31). -/
def Lot.pidIn (l : Lot) (n : Nat) : Bool := decide (0x900 ≤ n) && decide (n - 0x900 < l.pcount)

/-- A descriptor of an image against R31, R24, R25 and R27; ps are all descriptors of the Lot's front after the load, p this one. -/
def pitchCheck (s : Dev) (l : Lot) (b : Bytes) (p : Pitch) (ps : List Pitch) : Option Nat :=
  let w := fld b 0 8
  let n := bits w 20 16
  let nb := l.width * l.height
  let kids := (List.range (min n 16)).map (childEntry b)
  let mapped := below 16 fun q => bit p.qvalid q
  let inside := subtree ps 16 p.pid
  let parents (c : Nat × Nat) : Nat := (ps.flatMap fun x => x.children).countP fun x => x == c
  firstOf [
    refusal (!l.pidIn (bits w 11 0) || kids.any fun c => c.2 == 1 && !l.pidIn c.1) iPitchRange,
    refusal (decide (nb ≤ bits w 51 40 / 4) || mapped.any fun q => decide (nb ≤ (qmapEntry b q).1 / 4)) iBadUnit,
    refusal (bits w 23 21 != 0 || bits w 31 29 != 0 || bits w 39 38 != 0 || bits w 63 52 != 0 || fld b 10 6 != 0
      || bits w 15 12 != 1 || decide (n < 2) || decide (16 < n)
      || (List.range 16).any (fun i => if i < n then bits (fld b (16 + 2 * i) 2) 13 12 != 0 else fld b (16 + 2 * i) 2 != 0)
      || kids.any (fun c => decide (2 ≤ c.2) || (c.2 == 0 && decide (nb ≤ c.1)))
      || p.children.any (fun c => (if c.2 = 0 then s.retired c.1 else !ps.any fun x => x.pid == c.1) || parents c != 1)
      || (ps.countP fun x => x.pid == p.pid) != 1
      || decide (15 < p.depth) || p.depth != depthOf ps 20 p.pid
      || !inside.contains (p.head / 4)
      || mapped.any (fun q => !inside.contains (p.qmap.getD q 0 % 4096 / 4))
      || (mapped.map fun q => p.qmap.getD q 0).dedup.length != mapped.length) iBadPitch]

/-! ## Tasks (R348) -/

/-- Read a task kind record (R348). -/
def readTask (b : Bytes) : TaskKind :=
  { region := BitVec.ofNat 64 (fld b 0 8), queues := (List.range 16).map fun q => fld b (8 + 4 * q) 4,
    tags := (List.range 64).map fun t => byte b (72 + t),
    sendInc := (List.range 64).map fun t => byte b (136 + t / 2) / 16 ^ (t % 2) % 16, bellSub := fld b 168 4 }

/-- The region of a task kind as Stall k would run it. -/
def TaskKind.asRegion (t : TaskKind) (env : ImgEnv) (k : Nat) : Region_ :=
  let w := t.region.toNat
  { k := k, base := bits w 10 0, len := bits w 21 11 + 1, queues := t.queues, bellSub := t.bellSub, env := env }

/-- A task kind's record, and its orders as each of the four Stalls would run them (R348); off is its image offset. -/
def taskCheck (f : Fr) (env : ImgEnv) (off : Nat) (b : Bytes) : Option Refused :=
  let t := readTask b
  let w := t.region.toNat
  let badRec := !bit w 33 || bits w 35 34 != 0 || bits w 47 41 != 0 || bits w 63 48 == 0 || !zeroAt b 172 20
    || !regionWordOk (bits w 33 0) || (queuesBad t.queues t.tags).isSome
    || (bit w 40 && bits (t.queues.getD (bits w 39 36) 0) 12 6 == 0)
  firstOf ([if badRec then some (iBadTask, 0, off) else none,
    if t.bellSub &&& env.bells != t.bellSub then some (iBadOrder, 0, off + 168) else none]
    ++ (List.range 4).map fun k => (f.regionCheck (t.asRegion env k)).map fun e => (e.1, f.rel, f.orderAt e.2))

/-! ## The envelope (R349) -/

/-- Read an envelope (R349). -/
def readEnv (b : Bytes) : Envelope :=
  { ipeak0 := fld b 4 2, ipeak1 := fld b 6 2, iavg0 := fld b 8 2, iavg1 := fld b 10 2, pavg := fld b 12 2, didt := fld b 14 2,
    profile := (List.range 16).map fun j => byte b (16 + j) }

/-- Whether an envelope is accepted for a Lot (R349). -/
def envOk (s : Dev) (l : Lot) (b : Bytes) : Bool :=
  let e := readEnv b
  let dies := (below 2 fun d => l.rect.any fun x => x / 288 == d).map s.slew
  byte b 0 == 1 && zeroAt b 1 3 && zeroAt b 32 32 && decide (e.ipeak0 ≤ 600) && decide (e.ipeak1 ≤ 600)
    && decide (e.iavg0 ≤ e.ipeak0) && decide (e.iavg1 ≤ e.ipeak1) && decide (e.pavg ≤ 1750)
    && dies.all fun v => decide (e.didt ≤ v)

/-! ## The body checks (R352) -/

/-- The frames of an image, from an offset on, as far as they lie before PITCHOFF. -/
def readFrames (l : Lot) (img : Bytes) (pend : Nat) : Nat → Nat → List Fr
  | 0, _ => []
  | n + 1, pos =>
    if pend < pos + 2176 then []
    else
      let f := readFrame l pos ((img.drop pos).take 26752)
      f :: readFrames l img pend n (pos + f.size)

/-- Everything the body checks read: the image, its header, its Lot and the frames. -/
structure Img where
  bytes : Bytes
  h : IHdr
  k : Nat
  c : Nat
  env : ImgEnv
  frames : List Fr
  deriving DecidableEq, Repr, Inhabited

/-- Read an image for Lot k and context c. -/
def readImg (s : Dev) (k c : Nat) (bs : Bytes) : Img :=
  let h := ihdr bs
  let l := s.lot k
  { bytes := bs, h := h, k := k, c := c,
    env := { bells := h.bells, isTask := h.kind == 1, devnum := s.elveel.devnum, nblocks := l.width * l.height, pbase := l.pbase,
             pcount := l.pcount },
    frames := readFrames l bs h.pitchoff h.nframe h.frameoff }

/-- Task record i of an image. -/
def Img.task (m : Img) (i : Nat) : Bytes := sub m.bytes (m.h.taskoff + 192 * i) 192
/-- Pitch descriptor i of an image. -/
def Img.pitch (m : Img) (i : Nat) : Bytes := sub m.bytes (m.h.pitchoff + 80 * i) 80
/-- Certificate records of an image. -/
def Img.certs (m : Img) : List Bytes := (List.range m.h.ncert).map fun i => sub m.bytes (m.h.certoff + 32 * i) 32

/-- The regions that may run on the Stall paired with Chest k of a frame: its own, or every task kind's. -/
def Img.regionsFor (m : Img) (f : Fr) (k : Nat) : List Region_ :=
  if m.h.kind = 1 then (List.range m.h.ntask).map fun i => (readTask (m.task i)).asRegion m.env k
  else (f.regionsOf m.env).filter fun r => r.k == k

/-- The checks of one frame, in the order of R352's table; i is its number. -/
def frameCheck (s : Dev) (m : Img) (i : Nat) (f : Fr) : Option Refused :=
  let l := s.lot m.k
  let fb := (m.bytes.drop f.at_).take 26752
  let prev := if i = 0 then none else m.frames[i - 1]?.map fun p => p.rel
  let cyclic := (s.ctx m.c).cyclic
  let blocks := if m.h.kind = 1 then l.rect else [f.block]
  firstOf [f.partCheck l m.env prev m.h.pitchoff fb,
    f.no (m.h.kind != 1 && s.noFrame m.k f.block) iRetired f.at_,
    f.ordersCheck m.env,
    f.slotCheck fun k => ((m.regionsFor f k).flatMap fun r => f.portsOf r cyclic)
      ++ ((f.shelf.objs 0x7).map fun x => genD (f.shelf.cfgLines x 2)).filterMap fun g =>
        if g.gchest = k ∧ g.bind = 1 then some pSin else if g.gchest = k ∧ g.bind = 2 then some pSout else none,
    f.gensCheck,
    blocks.findSome? fun b => s.sharedCheck m.k m.c { f with block := b },
    f.transfersCheck m.env m.h.beat s.conc.lpGiB,
    f.queuesCheck]

/-- The frames an image needs, one by one, and their end at PITCHOFF (R342). -/
def framesCheck (s : Dev) (m : Img) : Option Refused :=
  let stop := match m.frames.getLast? with
    | some f => f.at_ + f.size
    | none => m.h.frameoff
  firstOf [if m.h.kind = 1 ∧ m.h.nframe ≠ 1 then some (iBadTask, 0, m.h.frameoff) else none,
    m.frames.zipIdx.findSome? fun p => frameCheck s m p.2 p.1,
    if m.frames.length ≠ m.h.nframe ∨ stop ≠ m.h.pitchoff then some (iBadFrame, 0, stop) else none]

/-- The shelf of a frame as it is loaded: unit numbers converted (R344). -/
def Img.loadedShelf (m : Img) (l : Lot) (f : Fr) : Shelf :=
  { f.shelf with orders := f.shelf.orders.map fun p => (p.1, BitVec.ofNat 64 (absOrder l m.env.devnum p.2.toNat)) }

/-- The shelves that an image gives blocks: its frames', or one frame to every block of the Lot that can hold it (R348). -/
def Img.shelves (s : Dev) (m : Img) : Tab Shelf :=
  let l := s.lot m.k
  if m.h.kind = 1 then
    match m.frames with
    | [] => []
    | f :: _ => (l.rect.filter fun b => !s.noFrame m.k b).foldl (fun t b => t.set b (m.loadedShelf l f)) []
  else m.frames.foldl (fun t f => t.set f.block (m.loadedShelf l f)) []

/-- The shelf that a block would have beside the image's blocks: a partial update leaves the front's (R358). -/
def Img.shelfAt (s : Dev) (m : Img) (t : Tab Shelf) (b : Nat) : Shelf :=
  if m.h.kind = 2 ∧ !(m.frames.any fun f => f.block == b) then (s.lot m.k).front.blocks.get b else t.get b

/-- The descriptors of the Lot after the load: for a partial update, the front's outside the subtree and the image's (R358). -/
def Img.pitchesAfter (s : Dev) (m : Img) : List Pitch :=
  let l := s.lot m.k
  let mine := (List.range m.h.npitch).map fun i => readPitch l m.k (m.pitch i)
  if m.h.kind = 2 then
    let gone := subPitches l.front.pitches 16 (m.h.pitch + l.pbase - 0x900)
    (l.front.pitches.filter fun p => !gone.contains p.pid) ++ mine
  else mine

/-- The circuits of the image (R185, R464): the first block whose part fails. -/
def circuitsCheck (s : Dev) (m : Img) (t : Tab Shelf) : Option Refused :=
  let l := s.lot m.k
  let frames : Tab Bytes := l.rect.foldl (fun a b => a.set b (m.shelfAt s t b).switchFrame) []
  let fr (b : Nat) : Bytes := frames.get b
  l.rect.findSome? fun b =>
    if circuitOk fr l (m.shelfAt s t b) s.grid.faultMap b then none
    else match m.frames.find? fun f => f.block = b with
      | some f => some (iBadCircuit, f.rel, match f.shelf.objs 0x6 with
          | o :: _ => f.lineAt o
          | [] => f.at_ + 128)
      | none => some (iBadCircuit, 0, 0)

/-- The certificate of the image (R191). -/
def certCheck (s : Dev) (m : Img) (t : Tab Shelf) : Option Refused :=
  let l := s.lot m.k
  let frames : Tab Bytes := l.rect.foldl (fun a b => a.set b (m.shelfAt s t b).switchFrame) []
  let mine := if m.h.kind = 1 then l.rect.filter (fun b => !s.noFrame m.k b) else m.frames.map fun f => f.block
  (certBad l (m.h.kind == 1) l.rect mine (fun b => frames.get b) (m.shelfAt s t) m.certs).map fun i =>
    (iCert, 0, m.h.certoff + 32 * i)

/-- A partial update (R358). wasEmpty says whether the back shelf was EMPTY when the load was accepted. -/
def partialBad (s : Dev) (m : Img) (t : Tab Shelf) (wasEmpty : Bool) : Bool :=
  let l := s.lot m.k
  let pid := m.h.pitch + l.pbase - 0x900
  let new := (List.range m.h.npitch).map fun i => readPitch l m.k (m.pitch i)
  let inside := subtree l.front.pitches 16 pid
  let mine := m.frames.map fun f => f.block
  let same (a b : List Nat) : Bool := a.all (fun x => b.contains x) && b.all fun x => a.contains x
  let frames : Tab Bytes := l.rect.foldl (fun a b => a.set b (m.shelfAt s t b).switchFrame) []
  let kept : Bool := match l.front.pitches.find? fun p => p.pid = pid, new.find? fun p => p.pid = pid with
    | some a, some b => a.head == b.head && a.qvalid == b.qvalid
        && (List.range 16).all fun q => !bit a.qvalid q || a.qmap.getD q 0 == b.qmap.getD q 0
    | _, _ => false
  l.front.kind != 1 || l.front.ctx != m.c || (l.seat (1 - (s.ctx m.c).seat)).isSome || !wasEmpty || !l.pidIn m.h.pitch || !kept
    || !same inside mine || !same inside (subtree new 16 pid) || !same (new.map fun p => p.pid) (subPitches new 16 pid)
    || !boundaryKept (fun b => (l.front.blocks.get b).switchFrame) (fun b => frames.get b) l.rect inside

/-- BELLS that the loaded shelves of other Lots own (R205). -/
def Dev.bellsElsewhere (s : Dev) (k : Nat) : Nat :=
  (s.lots.filter fun p => p.1 != k).foldl (fun m p => m ||| p.2.front.bells ||| p.2.back.bells) 0

/-- The body checks in the order of R351 step 16. -/
def bodyCheck (s : Dev) (m : Img) (wasEmpty : Bool) : Option Refused :=
  let l := s.lot m.k
  let t := m.shelves s
  let ps := m.pitchesAfter s
  firstOf [if m.h.bells &&& s.bellsElsewhere m.k != 0 then some (iBellOwned, 0, 28) else none,
    framesCheck s m,
    circuitsCheck s m t,
    (List.range m.h.npitch).findSome? fun i =>
      (pitchCheck s l (m.pitch i) (readPitch l m.k (m.pitch i)) ps).map fun st => (st, 0, m.h.pitchoff + 80 * i),
    (List.range m.h.ntask).findSome? fun i =>
      taskCheck (m.frames.headD default) m.env (m.h.taskoff + 192 * i) (m.task i),
    certCheck s m t,
    if envOk s l (sub m.bytes m.h.envoff 64) then none else some (iEnvelope, 0, m.h.envoff),
    if m.h.kind = 2 ∧ partialBad s m t wasEmpty then some (iPartial, 0, m.h.pitchoff) else none]

/-! ## Acceptance (R351) -/

/-- The silicon revision of the part: A1 (R343). -/
abbrev revision : Nat := 0x11

/-- Steps 1 to 8: the status of the first failure. -/
def headCheck (l : Lot) (off len : Nat) (h : IHdr) : Option Nat :=
  let kindOk := match h.kind with
    | 0 => h.beat != 0 && h.pitch == 0 && h.ntask == 0
    | 1 => h.beat == 0 && h.pitch == 0 && decide (1 ≤ h.ntask) && decide (h.ntask ≤ 64)
    | 2 => h.beat != 0 && h.ntask == 0
    | _ => false
  firstOf [refusal (decide (jobEnd < off + len) || decide (len < 128)) 0x01,
    refusal (h.magic != 0x464C4853) 0x02,
    refusal (h.gen != 1 || h.ver != 1) 0x03,
    refusal (h.family != 1 || h.device != 1 || decide (revision < h.minrev)) 0x04,
    refusal (h.rsv || !kindOk) 0x05,
    refusal (h.frameoff != 128 || decide (h.pitchoff < 128) || h.taskoff != h.pitchoff + 80 * h.npitch
      || h.certoff != h.taskoff + 192 * h.ntask || h.envoff != h.certoff + 32 * h.ncert || h.trailoff != h.envoff + 64
      || h.total != h.trailoff + 16 + h.siglen) 0x06,
    refusal (decide (len < h.total)) 0x07,
    refusal (h.width != l.width || h.height != l.height || (h.kind == 2 && h.beat != l.front.beat)) 0x08]

/-- Step 9 (R317, R319): the back shelf belongs to the seat that does not own the front, and to the front's owner while the other seat
is empty. -/
def Dev.ownsBack (s : Dev) (k c : Nat) : Bool :=
  let l := s.lot k
  let seat := (s.ctx c).seat
  (seat != l.fseat || (l.seat (1 - seat)).isNone) && (l.bstate == .empty || l.back.ctx == c || l.back.kind == 0)

/-- Step 10: no earlier load and no SWAP_SHELF of the context is in flight. -/
def PRing.loadBusy (x : PRing) (id : Nat) : Bool :=
  x.running.any fun k => opcodeOf k.entry == 0x11 || (opcodeOf k.entry == 0x10 && decide (k.id < id))

/-- Whether a certificate is a release certificate (R390). -/
def isRelease (c : Bytes) : Bool := zeroAt c 24 172 && byte c 6 == 0
/-- REQSECT and the section-signing keys of the owner certificate in force (R390, R391): none with no owner. -/
def Boot.ownerKeys (b : Boot) : Option (Bool × Bytes × Bytes) :=
  if b.ownerCert.isEmpty ∨ isRelease b.ownerCert then none
  else some (bit (byte b.ownerCert 6) 0, sub b.ownerCert 40 96, sub b.ownerCert 136 60)

/-- Steps 11 to 15 on the whole image. -/
def trailCheck (s : Dev) (h : IHdr) (bs : Bytes) : Option Nat :=
  let o := h.trailoff
  let digest := sha384 (bs.take (o + 16))
  let signed : Bool := match s.boot.ownerKeys with
    | some (_, ec, hss) => ecdsaVerify ec digest (sub bs (o + 16) 96) && hssVerify hss digest (sub bs (o + 112) 3284)
    | none => false
  let must : Bool := match s.boot.ownerKeys with
    | some (r, _, _) => r
    | none => false
  firstOf [refusal (fld bs o 4 != 0x524C5254 || fld bs (o + 8) 4 != h.siglen || !zeroAt bs (o + 12) 4) 0x07,
    refusal (fld bs (o + 4) 4 != (crc32c (bs.take o)).toNat) 0x0B,
    refusal (must && !h.signed) 0x0C,
    refusal (h.signed && !signed) 0x0D,
    refusal (sha384 (sub bs h.certoff (32 * h.ncert)) != h.certdig) 0x0E]

/-- The DETAIL word (R351). -/
def detailWord (rel off : Nat) : Nat := rel % 4096 + off / 8 % 2 ^ 20 * 4096

/-- A load completes with a status (R354): LSTAT, and the record with DETAIL and IMAGEID. -/
def Dev.loadEnds (s : Dev) (k r id st detail image : Nat) : Dev :=
  let s := s.modLot k fun l => { l with lstat := st }
  s.done r id st [(32, 4, detail), (40, 8, image)]

/-- The pending shifts whose span a Lot holds a block of (R359). -/
def Dev.shiftsOf (s : Dev) (l : Lot) : List Shift := s.grid.shifts.filter fun h => h.span.any l.has

/-- The back shelf that an image gives a Lot. -/
def Img.lotShelf (s : Dev) (m : Img) : LotShelf :=
  let l := s.lot m.k
  { kind := if m.h.kind = 1 then 2 else 1, ctx := m.c, imageId := m.h.imageid, beat := m.h.beat, bells := m.h.bells,
    partialPitch := if m.h.kind = 2 then some (m.h.pitch + l.pbase - 0x900) else none,
    env := readEnv (sub m.bytes m.h.envoff 64), blocks := m.shelves s,
    pitches := (List.range m.h.npitch).map fun i => readPitch l m.k (m.pitch i),
    tasks := (List.range m.h.ntask).map fun i => readTask (m.task i),
    shifted := !(s.shiftsOf l).isEmpty }

/-- The load of an accepted image (R355): the back shelf is written, and the blocks in RET, the spare positions of pending shifts (R359)
and the newly named banks are woken. -/
def Dev.loadBack (s : Dev) (m : Img) : Dev :=
  let sh := m.lotShelf s
  let s := s.modLot m.k fun l => { l with back := sh, bstate := .loading, bretain := false, lstat := 0 }
  let l := s.lot m.k
  let s := each (s.shiftsOf l) (fun h s => s.askSpare l h (288 * h.die + h.col) (some sh.env)) s
  each l.rect (fun b s =>
    let s := s.iff ((s.block b).island == .ret) fun s => s.askIsland l b 2 (some sh.env)
    s.iff ((s.block b).island != .off && !(s.block b).testing) fun s => s.askBanks b 2 (s.banksToWake b (sh.blocks.get b))) s

/-- HBM lines of a range. -/
def linesOf (off len : Nat) : List Nat := (List.range ((off + len + 63) / 64 - off / 64)).map fun i => off / 64 + i
/-- Whether a range of HBM holds a poisoned line (R237). -/
def Dev.poisonIn (s : Dev) (off len : Nat) : Bool := s.conc.poison.any fun p => decide (off < p + 64) && decide (p < off + len)
/-- The loader reads a range of HBM line by line: the slices count it (R248), and what poison it meets (R237). -/
def Dev.readLines (s : Dev) (off len : Nat) : Dev := each (linesOf off len) (fun i s =>
  let s := s.bumpSlice (hbmSlice (64 * i)) 0
  s.iff (s.conc.poison.contains (64 * i)) fun s => (s.bumpSlice (hbmSlice (64 * i)) 8).bumpSlice (hbmSlice (64 * i)) 9) s

/-- The loader takes a command: acceptance, and the load or the refusal. A poisoned line gives it no data (R237): a header line leaves no
MAGIC, another line no matching CRC (DESIGN CHOICE, notes/assumptions/67.md). -/
def Dev.loadImage (s : Dev) (r id : Nat) (e : Bytes) : Dev :=
  match s.ringCtx r with
  | none => s
  | some c =>
    let k := (s.ctx c).lot
    let l := s.lot k
    let off := fld e 8 8
    let len := fld e 16 4
    let hb := if s.poisonIn off 128 then [] else s.memAt off (min len 128)
    let h := ihdr hb
    let s := if jobEnd < off + len then s else s.readLines off (min len 128)
    match headCheck l off len h with
    | some st => s.loadEnds k r id st 0 (if st = 1 then 0 else h.imageid)
    | none =>
      if !s.ownsBack k c then s.loadEnds k r id 0x09 0 h.imageid
      else if (s.ring r).loadBusy id then s.loadEnds k r id 0x0A 0 h.imageid
      else
        let wasEmpty := l.bstate == .empty
        let s := s.loseBack k
        let bs := s.memAt off h.total
        let s := s.readLines off h.total
        match if s.poisonIn off h.total then some 0x0B else trailCheck s h bs with
        | some st => s.loadEnds k r id st 0 h.imageid
        | none =>
          let m := readImg s k c bs
          match bodyCheck s m wasEmpty with
          | some (st, rel, o) => s.loadEnds k r id st (detailWord rel o) h.imageid
          | none => { s with loading := some (r, id) }.loadBack m

/-! ## The commands -/

/-- LOAD_SHELF (R351): the command is accepted and waits for the loader. -/
def loadShelf (r : Nat) (s : Dev) : Dev :=
  s.start r 0x10 (fun _ => true) fun id _ s => { s with loadQ := s.loadQ ++ [(r, id)] }
def execLoadShelf (r : Nat) (s : State) : Host.Outcome State Fault Refusal := s.actOn (decide (r < 64)) (loadShelf r)

/-- SHELF_LOAD_START (R351): the loader, when it is free, takes the oldest accepted load. -/
def shelfLoadStart (s : Dev) : Dev :=
  match s.loading, s.loadQ with
  | none, (r, id) :: rest =>
    let s := { s with loadQ := rest }
    match (s.ring r).cmd id with
    | none => s
    | some c => s.loadImage r id c.entry
  | _, _ => s
def execShelfLoadStart (s : State) : Host.Outcome State Fault Refusal := s.act shelfLoadStart

/-- Whether every block, spare position and bank that a load woke is ready (R355, R359). -/
def Dev.loadWoken (s : Dev) (l : Lot) : Bool :=
  (s.shiftsOf l).all (fun h => !s.spareAsked h && h.spareAt.all fun t => decide (t ≤ s.now)) && l.rect.all fun b =>
  let x := s.block b
  x.island == .off || (x.island != .ret && x.islandAt.isNone && !s.asked b true
    && (List.range 4).all fun i => (below 16 fun n => bit ((l.back.blocks.get b).banks i) n).all fun n => s.bankOn (4 * b + i) n)

/-- SHELF_LOADED (R355) of the load that occupies the loader: BSTATE becomes LOADED, the loader is free, and the preload transfers fire. -/
def shelfLoaded (s : Dev) : Dev := match s.loading with
  | none => s
  | some (r, _) => match s.ringLot r with
    | none => s
    | some k =>
      let l := s.lot k
      if l.bstate = .loading ∧ s.loadWoken l then
        let s := { s with loading := none }.modLot k fun l => { l with bstate := .loaded }
        each l.rect (fun b s =>
          let ds := (l.back.blocks.get b).transfers.zipIdx.filterMap fun p => if (xferD p.1).trig = 3 then some p.2 else none
          s.iff (!ds.isEmpty && (s.block b).island != .off) fun s => (s.rouse b).modXfer b fun x => { x with preWait := ds }) s
      else s
def execShelfLoaded (s : State) : Host.Outcome State Fault Refusal := s.act shelfLoaded

/-- PRELOAD_COMPLETE (R355): with no preload left the back shelf is READY, and the load completes with OK. -/
def preloadComplete (k : Nat) (s : Dev) : Dev :=
  let l := s.lot k
  let left := l.rect.any fun b =>
    let x := (s.block b).xfer
    !x.preWait.isEmpty || x.bulkQ.any fun i => i.preload
  if l.bstate = .loaded ∧ !left then
    let s := s.modLot k fun l => { l with bstate := .ready }
    let r := (s.ctx l.back.ctx).ring
    match s.runningOp r 0x10 with
    | some c => s.done r c.id 0 [(32, 4, 0), (40, 8, l.back.imageId)]
    | none => s
  else s
def execPreloadComplete (lot : Nat) (s : State) : Host.Outcome State Fault Refusal :=
  s.actOn (decide (lot < 64)) (preloadComplete lot)

end Sys2Proof.Machine
end

