-- ==== Sys2Proof/Machine/Pool.lean ====
section
/-! DEFINITION. The page pool (R241 to R246) and the step commit that drives it (R336 to R338). The pool engine takes a commit in
one step and completes it in a later one. -/
namespace Sys2Proof.Machine

/-! ## Frames (R241, R245) -/

/-- First frame and frame count of a tier's pool range (R241). -/
def Dev.poolRange (s : Dev) (tier : Nat) : Nat × Nat := (s.entry 0x3001 (2 * tier), s.entry 0x3001 (2 * tier + 1))
/-- Frames of a tier that are not free, rising. -/
def Pool.used (p : Pool) (tier : Nat) : List Nat := if tier = 0 then p.usedH else p.usedL
/-- The k-th free frame from a first frame on, past the used ones. -/
def nthFree : Nat → List Nat → Nat
  | k, [] => k
  | k, u :: r => if u ≤ k then nthFree (k + 1) r else k

/-- Free frames of a tier. -/
def Dev.freeFrames (s : Dev) (tier : Nat) : Nat :=
  let (f, n) := s.poolRange tier
  n - ((s.pool.used tier).filter fun u => decide (f ≤ u) && decide (u < f + n)).length

/-- Count n accesses of the pool engine at each slice of a tier: a frame has 8 lines in each HBM slice and 32 in each LPDDR5X slice, so
the slices count alike (R221, R222, R248). w is 0 for reads, 1 for writes. -/
def Dev.countFrame (s : Dev) (tier w : Nat) : Dev :=
  if tier = 0 then each (List.range 128) (fun sl s => s.bump (sliceCtr sl).1 (sliceCtr sl).2 w 8) s
  else each (List.range 32) (fun sl s => s.bump (sliceCtr (128 + sl)).1 (sliceCtr (128 + sl)).2 w 32) s

/-- Zero a frame: each line is written whole, which clears its poison (R237, R245). -/
def Dev.zeroFrame (s : Dev) (tier f : Nat) : Dev :=
  let o := frameOff tier f
  ({ s with mem := memDrop s.mem o 65536 }.modConc fun c =>
    { c with poison := c.poison.filter fun p => !(decide (o ≤ p) && decide (p < o + 65536)) }).countFrame tier 1
/-- Copy a frame to one of the other tier (R245). -/
def Dev.copyFrame (s : Dev) (tier f g : Nat) : Dev :=
  ((s.memPut (frameOff (1 - tier) g) (s.memAt (frameOff tier f) 65536)).countFrame tier 0).countFrame (1 - tier) 1
/-- Whether a frame of HBM holds a poisoned line (R237). -/
def Dev.framePoisoned (s : Dev) (f : Nat) : Bool :=
  s.conc.poison.any fun p => decide (frameOff 0 f ≤ p) && decide (p < frameOff 0 f + 65536)

/-- Take a free frame of a tier, zeroed; the manual leaves open which, and a free value chooses it. -/
def Dev.takeFrame (s : Dev) (tier : Nat) : Option (Nat × Dev) :=
  let n := s.freeFrames tier
  if n = 0 then none
  else
    let (r, s) := s.draw
    let (f, _) := s.poolRange tier
    let k := nthFree (f + r % n) ((s.pool.used tier).filter fun u => decide (f ≤ u))
    some (k, (s.modPool fun p =>
      if tier = 0 then { p with usedH := insertUp k p.usedH } else { p with usedL := insertUp k p.usedL }).zeroFrame tier k)

/-- Return a frame to its tier's free list; one that is withdrawn stays out of it (R474). -/
def Dev.freeFrame (s : Dev) (tier f : Nat) : Dev :=
  if tier = 0 ∧ s.conc.withdrawn.contains f then s
  else s.modPool fun p => if tier = 0 then { p with usedH := p.usedH.filter fun u => u != f }
    else { p with usedL := p.usedL.filter fun u => u != f }

/-! ## The descriptor's counts, the page map and the sequence records (R242, R243) -/

/-- Offset of a context's pool descriptor. -/
def Dev.poolOff (s : Dev) (c : Nat) : Nat := bits (s.ctx c).pooldesc 43 0
/-- A 4-byte field of the descriptor: 24 HQUOTA, 28 LQUOTA, 32 RTARGET, 36 HUSED, 40 LUSED. -/
def Dev.poolFld (s : Dev) (c o : Nat) : Nat := s.memVal (s.poolOff c + o) 4
/-- Write one of the counts. -/
def Dev.setPoolFld (s : Dev) (c o v : Nat) : Dev := s.memPut (s.poolOff c + o) (leBytes 4 v)
/-- The reserve of a context. -/
def Dev.reserveOf (s : Dev) (c : Nat) : List Nat := s.pool.reserve.get c
/-- Change a context's reserve, with RHELD. -/
def Dev.setReserve (s : Dev) (c : Nat) (l : List Nat) : Dev :=
  (s.modPool fun p => { p with reserve := p.reserve.set c l }).setPoolFld c 44 l.length

/-- A sequence record: state 0 FREE, 1 ACTIVE, 2 PARKED, 3 EVICTED. -/
structure SeqRec where
  state  : Nat
  prio   : Nat
  npages : Nat
  last   : Nat
  deriving DecidableEq, Repr, Inhabited

/-- The record of a slot. -/
def Dev.seqRec (s : Dev) (p : PoolD) (slot : Nat) : SeqRec :=
  let w := s.memVal (p.seqbase + 16 * slot) 8
  { state := bits w 1 0, prio := bits w 9 2, npages := bits w 33 10, last := bits (s.memVal (p.seqbase + 16 * slot + 8) 8) 55 0 }
/-- Write the record of a slot. -/
def Dev.setSeq (s : Dev) (p : PoolD) (slot : Nat) (x : SeqRec) : Dev :=
  s.memPut (p.seqbase + 16 * slot) (leBytes 8 (x.state + 4 * x.prio + 2 ^ 10 * x.npages) ++ leBytes 8 x.last)
/-- Change the record of a slot. -/
def Dev.modSeq (s : Dev) (p : PoolD) (slot : Nat) (f : SeqRec → SeqRec) : Dev := s.setSeq p slot (f (s.seqRec p slot))

/-- The map entry of a page, as tier and frame; none where it is not mapped. -/
def Dev.pageOf (s : Dev) (p : PoolD) (slot page : Nat) : Option (Nat × Nat) :=
  let e := s.memVal (p.entryAt slot page) 8
  if bit e 0 then some (bits e 1 1, bits e 26 3) else none
/-- Map a page to a frame. -/
def Dev.setPage (s : Dev) (p : PoolD) (slot page tier f : Nat) : Dev :=
  s.memPut (p.entryAt slot page) (leBytes 8 (1 + 2 * tier + 8 * f))

/-! ## Operations (R245, R246) -/

/-- An HBM frame from the free list within HQUOTA. -/
def Dev.allocH (s : Dev) (c : Nat) : Option (Nat × Dev) :=
  if s.poolFld c 36 < s.poolFld c 24 then
    (s.takeFrame 0).map fun r => (r.1, r.2.setPoolFld c 36 (r.2.poolFld c 36 + 1))
  else none
/-- An LPDDR5X frame from the free list within LQUOTA. -/
def Dev.allocL (s : Dev) (c : Nat) : Option (Nat × Dev) :=
  if s.poolFld c 40 < s.poolFld c 28 then
    (s.takeFrame 1).map fun r => (r.1, r.2.setPoolFld c 40 (r.2.poolFld c 40 + 1))
  else none
/-- A frame that a context held returns to its free list. -/
def Dev.giveBack (s : Dev) (c tier f : Nat) : Dev :=
  let o := if tier = 0 then 36 else 40
  (s.freeFrame tier f).setPoolFld c o (s.poolFld c o - 1)

/-- Release every frame of a slot and clear its entries; the record takes a state (R245). -/
def Dev.releaseSlot (s : Dev) (c : Nat) (p : PoolD) (slot state : Nat) : Dev :=
  let n := (s.seqRec p slot).npages
  let s := each (List.range n) (fun i s =>
    let s := match s.pageOf p slot i with
      | some (t, f) => s.giveBack c t f
      | none => s
    s.memPut (p.entryAt slot i) (zeros 8)) s
  s.modSeq p slot fun x => { x with state := state, npages := 0 }

/-- Lowest HBM page of a slot that can be copied: a page with a poisoned line, whose data the copy could not read, stays where it is
(R237; DESIGN CHOICE, notes/assumptions/67.md). -/
def Dev.firstH (s : Dev) (p : PoolD) (slot : Nat) : Option Nat :=
  (List.range (s.seqRec p slot).npages).find? fun i => match s.pageOf p slot i with
    | some (t, f) => t == 0 && !s.framePoisoned f
    | none => false

/-- Slots whose pages are idle and that hold an HBM page, with the oldest LASTSTEP (R245). keep is a slot that is left alone. -/
def Dev.idleSlots (s : Dev) (p : PoolD) (step : Nat) (keep : Option Nat) : List Nat :=
  let l := (List.range p.slots).filter fun i =>
    let x := s.seqRec p i
    x.state == 2 && decide (x.last + p.idlemin ≤ step) && keep != some i && (s.firstH p i).isSome
  let oldest := l.foldl (fun m i => min m (s.seqRec p i).last) (2 ^ 56)
  l.filter fun i => (s.seqRec p i).last == oldest

/-- Demote one idle page (R245): none where there is none, or no LPDDR5X frame within LQUOTA. Between sequences of one LASTSTEP a
free value chooses. -/
def Dev.demote (s : Dev) (c : Nat) (p : PoolD) (step : Nat) (keep : Option Nat) : Option Dev :=
  let l := s.idleSlots p step keep
  if l = [] then none
  else
    let (r, s) := s.draw
    let slot := l.getD (r % l.length) 0
    match s.firstH p slot, s.allocL c with
    | some i, some (f, s) => match s.pageOf p slot i with
      | some (_, g) =>
        let s := ((s.copyFrame 0 g f).setPage p slot i 1 f).giveBack c 0 g
        some (s.bump 0x6050 c 23)
      | none => none
    | _, _ => none

/-- Evict the ACTIVE sequence of lowest PRIO, the highest slot among equals (R246): the slot. -/
def Dev.evict (s : Dev) (c : Nat) (p : PoolD) : Option (Nat × Dev) :=
  let l := (List.range p.slots).filter fun i => (s.seqRec p i).state == 1
  let low := l.foldl (fun m i => min m (s.seqRec p i).prio) 256
  match (l.filter fun i => (s.seqRec p i).prio == low).getLast? with
  | none => none
  | some i => some (i, ((s.releaseSlot c p i 3).bump 0x6050 c 25).ctxEvent c 0x07 [(32, 2, i)])

/-- A frame for a new page of a growing sequence: the reserve, the free list within HQUOTA, a demotion, and then evictions until one is
found (R245, R246). The slots evicted on the way. -/
def Dev.takeOne (s : Dev) (c : Nat) (p : PoolD) (step slot : Nat) : Nat → Option Nat × List Nat × Dev
  | 0 => (none, [], s)
  | n + 1 => match s.reserveOf c with
    | f :: r => (some f, [], s.setReserve c r)
    | [] => match s.allocH c with
      | some (f, s) => (some f, [], s)
      | none => match s.demote c p step none with
        | some s => Dev.takeOne s c p step slot n
        | none => match s.evict c p with
          | none => (none, [], s)
          | some (i, s) =>
            if i = slot then (none, [i], s)
            else
              let (f, l, s) := Dev.takeOne s c p step slot n
              (f, i :: l, s)

/-- Append n pages to a slot (TAKE): the slots evicted on the way. The growth ends when its own sequence is evicted. -/
def Dev.grow (s : Dev) (c : Nat) (p : PoolD) (step slot : Nat) : Nat → List Nat × Dev
  | 0 => ([], s)
  | n + 1 =>
    let (f, l, s) := s.takeOne c p step slot (p.slots + 2)
    match f with
    | none => (l, s)
    | some f =>
      let i := (s.seqRec p slot).npages
      let s := (s.setPage p slot i 0 f).modSeq p slot fun x => { x with npages := i + 1 }
      let (l', s) := Dev.grow s c p step slot n
      (l ++ l', s)

/-- Fill the reserve to a target (REFILL): moves that are left. -/
def Dev.refill (s : Dev) (c : Nat) (p : PoolD) (step target : Nat) : Nat → Nat → Nat × Dev
  | 0, moves => (moves, s)
  | n + 1, moves =>
    if target ≤ (s.reserveOf c).length then (moves, s)
    else match s.allocH c with
      | some (f, s) => Dev.refill (s.setReserve c (s.reserveOf c ++ [f])) c p step target n moves
      | none =>
        if moves = 0 then (moves, s)
        else match s.demote c p step none with
          | some s => Dev.refill s c p step target n (moves - 1)
          | none => (moves, s)

/-- An HBM frame for a join: the free list within HQUOTA, then a demotion (ADMIT). -/
def Dev.admitFrame (s : Dev) (c : Nat) (p : PoolD) (step slot moves : Nat) : Option (Nat × Nat × Dev) := match s.allocH c with
  | some (f, s) => some (f, moves, s)
  | none =>
    if moves = 0 then none
    else match s.demote c p step (some slot) with
      | none => none
      | some s => (s.allocH c).map fun r => (r.1, moves - 1, r.2)

/-- Promote the LPDDR5X pages of a list of pages. -/
def Dev.promote (s : Dev) (c : Nat) (p : PoolD) (step slot : Nat) : List Nat → Nat → Option (Nat × Dev)
  | [], moves => some (moves, s)
  | i :: r, moves => match s.pageOf p slot i with
    | some (1, g) =>
      if moves = 0 then none
      else match s.admitFrame c p step slot (moves - 1) with
        | none => none
        | some (f, moves, s) =>
          let s := ((s.copyFrame 1 g f).setPage p slot i 0 f).giveBack c 1 g
          Dev.promote (s.bump 0x6050 c 24) c p step slot r moves
    | _ => Dev.promote s c p step slot r moves

/-- Map n new pages of a join. -/
def Dev.joinPages (s : Dev) (c : Nat) (p : PoolD) (step slot : Nat) : Nat → Nat → Option (Nat × Dev)
  | 0, moves => some (moves, s)
  | n + 1, moves => match s.admitFrame c p step slot moves with
    | none => none
    | some (f, moves, s) =>
      let i := (s.seqRec p slot).npages
      Dev.joinPages ((s.setPage p slot i 0 f).modSeq p slot fun x => { x with npages := i + 1 }) c p step slot n moves

/-- Admit a join or a returning sequence whole, or not at all (ADMIT): moves that are left. -/
def Dev.admitJoin (s : Dev) (c : Nat) (p : PoolD) (step slot newPages moves : Nat) : Option (Nat × Dev) :=
  match s.promote c p step slot (List.range (s.seqRec p slot).npages) moves with
  | none => none
  | some (moves, s) => s.joinPages c p step slot newPages moves

/-! ## The commit (R336, R337) -/

/-- An entry of a commit list. -/
structure ComEnt where
  slot : Nat
  op   : Nat
  prio : Nat
  setp : Bool
  new  : Nat
  st   : Option Nat := none
  deriving DecidableEq, Repr, Inhabited

/-- Read an entry (R336). -/
def comEnt (w : Nat) : ComEnt :=
  { slot := bits w 11 0, op := bits w 13 12, prio := bits w 21 14, setp := bit w 22, new := bits w 47 24 }

/-- Whether a list lies in the job area and has no reserved field set (R336). -/
def Dev.listOk (s : Dev) (o : Nat) : Bool :=
  let h := s.memAt o 16
  let n := fld h 2 2
  decide (o + 16 + 8 * n ≤ jobEnd) && byte h 0 == 1 && byte h 1 == 0 && decide (n ≤ 4096) && byte h 15 == 0
    && (List.range n).all fun i => let w := s.memVal (o + 16 + 8 * i) 8; bits w 23 23 == 0 && bits w 63 52 == 0

/-- Step 1: the check of each entry. -/
def comCheck (p : PoolD) (s : Dev) (seen : List Nat) : List ComEnt → List ComEnt
  | [] => []
  | e :: r =>
    let x := s.seqRec p e.slot
    let right := match e.op with
      | 0 => x.state == 1 || x.state == 2
      | 1 => x.state == 1
      | 2 => x.state == 0 || x.state == 3
      | _ => x.state == 2
    let st := if p.slots ≤ e.slot ∨ seen.contains e.slot ∨ !right then some 3
      else if p.pages < x.npages + e.new then some 4 else none
    { e with st := st } :: comCheck p s (e.slot :: seen) r

/-- Entries of an op that still take part. -/
def liveOf (l : List ComEnt) (op : Nat) : List ComEnt := l.filter fun e => e.op == op && e.st.isNone

/-- Step 4: TAKE for the STAY entries, in list order: the slots evicted. -/
def takeAll (c : Nat) (p : PoolD) (step : Nat) (out : List Nat) (s : Dev) : List ComEnt → List Nat × Dev
  | [] => (out, s)
  | e :: r =>
    if out.contains e.slot then takeAll c p step out s r
    else
      let (l, s) := s.grow c p step e.slot e.new
      takeAll c p step (out ++ l) s r

/-- Step 6: ADMIT, in list order: the entries with their statuses. -/
def comAdmit (c : Nat) (p : PoolD) (step : Nat) : List ComEnt → Nat → Dev → List ComEnt × Dev
  | [], _, s => ([], s)
  | e :: r, moves, s =>
    if (e.op = 2 ∨ e.op = 3) ∧ e.st.isNone then
      match s.admitJoin c p step e.slot e.new moves with
      | some (moves, s) => let (l, s) := comAdmit c p step r moves s; ({ e with st := some 0 } :: l, s)
      | none => let (l, s) := comAdmit c p step r moves (s.bump 0x6050 c 26); ({ e with st := some 1 } :: l, s)
    else let (l, s) := comAdmit c p step r moves s; (e :: l, s)

/-- Empty a context's translations in every cache (R244). -/
def Dev.dropTrans (s : Dev) (c : Nat) : Dev :=
  { s with blocks := s.blocks.map fun q =>
      (q.1, { q.2 with xfer := { q.2.xfer with tcache := q.2.xfer.tcache.filter fun t => t.1 / 2 ^ 36 != c } }) }

/-- Process a list (R337): the entries with their statuses. -/
def Dev.commitList (s : Dev) (c : Nat) (p : PoolD) (o : Nat) : List ComEnt × Dev :=
  let h := s.memAt o 16
  let step := bits (fld h 8 8) 55 0
  let ents := comCheck p s [] ((List.range (fld h 2 2)).map fun i => comEnt (s.memVal (o + 16 + 8 * i) 8))
  let s := each (liveOf ents 0) (fun e s => s.releaseSlot c p e.slot 0) s
  let stay := liveOf ents 1
  let s := each (List.range p.slots) (fun i s =>
    s.iff ((s.seqRec p i).state == 1 && !(stay.any fun e => e.slot == i)) fun s => s.modSeq p i fun x => { x with state := 2 }) s
  let (out, s) := takeAll c p step [] s stay
  let target := s.poolFld c 32
  let (moves, s) := s.refill c p step target (2 * target + 2) (fld h 4 4)
  let s := s.iff (decide ((s.reserveOf c).length < target)) fun s =>
    (s.bump 0x6050 c 27).ctxEvent c 0x06 [(32, 4, (s.reserveOf c).length)]
  let ents := ents.map fun e =>
    if e.st.isSome then e
    else if e.op = 0 then { e with st := some 0 }
    else if e.op = 1 then { e with st := some (if out.contains e.slot then 2 else 0) }
    else e
  let (ents, s) := comAdmit c p step ents moves s
  let s := each ents (fun e s => s.iff (e.st == some 0 && e.op != 0) fun s => s.modSeq p e.slot fun x =>
    { x with state := 1, last := step, prio := if e.op = 1 ∧ !e.setp then x.prio else e.prio }) s
  let s := each ents.zipIdx (fun q s =>
    let a := o + 16 + 8 * q.2
    let w := s.memVal a 8
    s.memPut a (leBytes 8 (w - bits w 51 48 * 2 ^ 48 + (q.1.st.getD 0) * 2 ^ 48))) s
  (ents, s)

/-! ## The command (R321, R334, R336, R338) -/

/-- STEP_COMMIT (R336): a list that is in order waits for the pool engine, device-wide in the order in which commands become ready. -/
def stepCommit (r : Nat) (s : Dev) : Dev :=
  match s.ringCtx r with
  | none => s
  | some c =>
    let x := s.ctx c
    let l := s.lot x.lot
    let long (e : Bytes) : Bool := x.cyclic && s.tooLong l c e
    s.start r 0x13 (fun e => long e || s.mayOccupy c e) fun id e s =>
      let o := fld e 8 8
      if long e then s.done r id 0x45 []
      else if !s.listOk o ∨ (s.poolD c).isNone then s.done r id 0x47 []
      else s.modPool fun p => { p with commits := p.commits ++ [(r, id)] }
/-- The page-pool engine meets a parity error (R454): the context whose commit it has taken faults, and the commit is discarded. -/
def poolParity (s : Dev) : Dev :=
  if !s.lit then s
  else match s.pool.busy with
    | some (r, id, c) =>
      let s := s.modPool fun p => { p with busy := none }
      (s.done r id 0x46 []).engineParity 11 0 ioUnit [c]
    | none => s.engineParity 11 0 ioUnit []
def execStepCommit (r : EngineTurn) (s : State) : Host.Outcome State Fault Refusal :=
  s.actOn (decide (r.at_ < 64)) (if r.parity then poolParity else stepCommit r.at_)

/-- Counts of a status. -/
def countSt (l : List ComEnt) (v : Nat) : Nat := (l.filter fun e => e.st == some v).length

/-- The pool engine takes the oldest commit (R338): in the cyclic class only where R334 lets it start. The context's translations go from
every cache before a map entry changes (R244). A list that is not in order any more is refused whole. -/
def Dev.takeCommit (s : Dev) : Dev := match s.pool.commits with
  | [] => s
  | (r, id) :: rest => match s.ringCtx r, (s.ring r).cmd id with
    | some c, some cmd =>
      let x := s.ctx c
      let l := s.lot x.lot
      if x.cyclic ∧ !s.inWindow l x.seat (s.maxOf l c cmd.entry) then s
      else
        let s := s.modPool fun p => { p with commits := rest }
        if !s.listOk (fld cmd.entry 8 8) ∨ (s.poolD c).isNone then s.done r id 0x47 []
        else ((s.modPool fun p => { p with busy := some (r, id, c) }).modCmd r id fun y => { y with aux := 1 }).dropTrans c
    | _, _ => s.modPool fun p => { p with commits := rest }

/-- The commit that the pool engine has taken completes, also when its context has faulted (R337, R338). -/
def Dev.endCommit (s : Dev) (r id c : Nat) : Dev :=
  let s := s.modPool fun p => { p with busy := none }
  match (s.ring r).cmd id, s.poolD c with
  | some cmd, some p =>
    let (ents, s) := s.commitList c p (fld cmd.entry 8 8)
    let s := ((s.bumpCtx c 8).bumpCtx c 9 (countSt ents 1)).bumpCtx c 10 (countSt ents 2)
    (s.done r id 0 [(32, 2, countSt ents 0), (34, 2, countSt ents 1), (36, 2, countSt ents 2), (38, 2, countSt ents 3),
      (40, 2, countSt ents 4), (44, 4, (s.reserveOf c).length), (48, 4, s.poolFld c 36)]).endOverrun (s.ctx c).lot c 0x13
  | some _, none => s.done r id 0x47 []
  | none, _ => s

/-- STEP_COMMIT_PROCESS (R337, R338): the pool engine completes the commit that it has taken, or takes the oldest that waits. -/
def stepCommitProcess (s : Dev) : Dev :=
  if !s.lit then s
  else match s.pool.busy with
    | some (r, id, c) => s.endCommit r id c
    | none => if s.engineTested 11 0 then s else s.takeCommit
def execStepCommitProcess (s : State) : Host.Outcome State Fault Refusal := s.act stepCommitProcess

end Sys2Proof.Machine
end

