-- ==== Sys2Proof/Machine/Porter.lean ====
section
/-! DEFINITION. The Porter link (R360 to R366): host frames, the link, and the commands COPY and MEM_ATOMIC (R370). -/
namespace Sys2Proof.Machine

/-! ## Frames (R361) -/

/-- TYPE of a frame. -/
def frameType (f : Bytes) : Nat := byte f 0
/-- Payload of a frame. -/
def framePay (f : Bytes) : Bytes := f.drop 4
/-- Whether a frame's header is in order: its reserved byte zero, and LEN the length of its payload. -/
def frameHdrOk (f : Bytes) : Bool := decide (4 ≤ f.length) && byte f 1 == 0 && fld f 2 2 == f.length - 4
/-- Whether a TYPE is one that a host sends (R361). -/
def hostType (t : Nat) : Bool := decide (1 ≤ t) && decide (t ≤ 6)

/-- Drop a frame and raise FRAME_BAD (R361). -/
def Dev.frameBad (s : Dev) (f : Bytes) : Dev := s.event 0x1D [(32, 1, frameType f)]

/-- Whether a TYPE may not arrive at a row for another TYPE: a reserved one may. -/
def otherType (f : Bytes) (t : Nat) : Bool := frameType f != t && hostType (frameType f)

/-- A frame of a row's TYPE arrives (R361): the link runs, the frame is in order, and g gives its effect on the payload. A frame of
another host TYPE is another row's. -/
def Dev.frame_ (s : Dev) (f : Bytes) (t : Nat) (ok : Bytes → Bool) (g : Bytes → Dev → Dev) : Dev :=
  if !s.lit ∨ !s.porterUp ∨ otherType f t then s
  else if frameType f != t || !frameHdrOk f || !ok (framePay f) then s.frameBad f
  else g (framePay f) s

/-- Write consecutive command slots of a ring, wrapping (R361, R363). -/
def Dev.writeSlots (s : Dev) (r slot : Nat) (entries : Bytes) : Dev :=
  each (List.range (entries.length / 64)) (fun i s =>
    s.memPut (cmdRing r + 64 * ((slot + i) % 1024)) (sub entries (64 * i) 64)) s

/-- RING_WR (R361). A ring number above 64 names no ring. -/
def ringWr (f : Bytes) (s : Dev) : Dev :=
  s.frame_ f 0x01 (fun p => decide (byte p 0 ≤ 64) && decide (1 ≤ byte p 1) && decide (byte p 1 ≤ 8) && decide (fld p 2 2 < 1024)
      && p.length == 4 + 64 * byte p 1) fun p s =>
    s.writeSlots (byte p 0) (fld p 2 2) (p.drop 4)
def execRingWr (frame : Bytes) (s : State) : Host.Outcome State Fault Refusal := s.act (ringWr frame)

/-- Whether a doorbell is valid (R364). -/
def PRing.bellOk (x : PRing) (tail : Nat) : Bool :=
  x.live && decide ((x.ctail + 65536 - x.chead) % 65536 ≤ (tail + 65536 - x.chead) % 65536)
    && decide ((tail + 65536 - x.chead) % 65536 ≤ 1024)

/-- DOORBELL (R364). -/
def doorbell (f : Bytes) (s : Dev) : Dev :=
  s.frame_ f 0x02 (fun p => p.length == 4 && byte p 1 == 0) fun p s =>
    let r := byte p 0
    let tail := fld p 2 2
    if r ≤ 64 ∧ (s.ring r).bellOk tail then (s.modRing r fun x => { x with ctail := tail }).pump r pumpMax
    else s.event 0x1C [(32, 1, r), (34, 2, tail)]
def execDoorbell (frame : Bytes) (s : State) : Host.Outcome State Fault Refusal := s.act (doorbell frame)

/-- EVT_ACK (R365): one out of range, or of a ring that does not exist, is ignored. -/
def evtAck (f : Bytes) (s : Dev) : Dev :=
  s.frame_ f 0x03 (fun p => p.length == 4 && byte p 1 == 0) fun p s =>
    let r := byte p 0
    let h := fld p 2 2
    let x := s.ring r
    if x.live ∧ (h + 65536 - x.ehead) % 65536 ≤ x.unacked then (s.modRing r fun y => { y with ehead := h }).pump r pumpMax
    else s
def execEvtAck (frame : Bytes) (s : State) : Host.Outcome State Fault Refusal := s.act (evtAck frame)

/-! ## Host memory accesses (R362) -/

/-- Whether a host access lies in the HBM job area or in the installed LPDDR5X. -/
def Dev.hostOk (s : Dev) (off n : Nat) : Bool :=
  let a := region s.conc.lpGiB off
  a == region s.conc.lpGiB (off + n - 1) && (a == .hbm || a == .lpddr)
/-- Pieces of a range by line: (offset, bytes). -/
def linePieces (off : Nat) (bs : Bytes) : List (Nat × Bytes) :=
  (List.range (bs.length / 64 + 2)).filterMap fun i =>
    let lo := max off (64 * (off / 64 + i))
    let hi := min (off + bs.length) (64 * (off / 64 + i + 1))
    if lo < hi then some (lo, sub bs (lo - off) (hi - lo)) else none
/-- Whether a line is poisoned (R237). -/
def Dev.isPoisoned (s : Dev) (off : Nat) : Bool := s.conc.poison.contains (64 * (off / 64))

/-- One piece of a host write at its slice (R231, R237). -/
def Dev.hostPut (s : Dev) (off : Nat) (bs : Bytes) : Dev :=
  let sl := sliceOf off
  let line := off / 64
  let s := (s.noMerge sl line).bumpSlice sl 1
  let s := s.iff (bs.length == 64) fun s => s.modConc fun c => { c with poison := c.poison.filter fun p => p != 64 * line }
  s.memPut off bs

/-- MWR (R361, R362): a write that fails is dropped whole. -/
def mwr (f : Bytes) (s : Dev) : Dev :=
  s.frame_ f 0x04 (fun p => decide (12 ≤ p.length) && decide (p.length ≤ 520) && p.length % 4 == 0 && fld p 0 8 % 4 == 0)
    fun p s =>
    let off := fld p 0 8
    let data := p.drop 8
    let ps := linePieces off data
    if !s.hostOk off data.length then s.event 0x1E [(32, 1, stUnmapped), (40, 8, off)]
    else if ps.any fun q => q.2.length != 64 && s.isPoisoned q.1 then s.event 0x1E [(32, 1, stMemUe), (40, 8, off)]
    else each ps (fun q s => s.hostPut q.1 q.2) s
def execMwr (frame : Bytes) (s : State) : Host.Outcome State Fault Refusal := s.act (mwr frame)

/-- MRD (R361, R362). -/
def mrd (f : Bytes) (s : Dev) : Dev :=
  s.frame_ f 0x05 (fun p => p.length == 12 && decide (4 ≤ fld p 8 2) && decide (fld p 8 2 ≤ 512) && fld p 8 2 % 4 == 0
      && fld p 0 8 % 4 == 0) fun p s =>
    let off := fld p 0 8
    let n := fld p 8 2
    let ps := linePieces off (zeros n)
    let reply (st : Nat) (d : Bytes) : Output := .porter (porterFrame 0x82 (layout 4 [(0, 2, fld p 10 2), (2, 1, st)] ++ d))
    if !s.hostOk off n then s.emit (reply stUnmapped [])
    else
      let bad := ps.filter fun q => s.isPoisoned q.1
      let s := each ps (fun q s => s.bumpSlice (sliceOf q.1) 0) s
      let s := each bad (fun q s => (s.bumpSlice (sliceOf q.1) 8).bumpSlice (sliceOf q.1) 9) s
      if bad.isEmpty then s.emit (reply stOk (s.memAt off n)) else s.emit (reply stMemUe [])
def execMrd (frame : Bytes) (s : State) : Host.Outcome State Fault Refusal := s.act (mrd frame)

/-! ## The link (R360, R365) -/

/-- The ring word (R363). -/
def PRing.word (x : PRing) : Nat := x.ctail + 2 ^ 16 * x.chead + 2 ^ 32 * x.etail + 2 ^ 48 * x.ehead
/-- Send again every record from EHEAD to ETAIL of a ring, in order. -/
def Dev.resend (s : Dev) (r : Nat) : Dev :=
  let x := s.ring r
  each (List.range x.unacked) (fun i s =>
    let k := x.ehead + i
    s.emit (.porter (evtFrame r k (s.memAt (evtRing r + 64 * (k % 4096)) 64)))) s

/-- PORTER_LINK_UP (R365): RING_STATE, then the unacknowledged records. The link runs in D-READY and D-RUN (R405). -/
def porterLinkUp (s : Dev) : Dev :=
  if !s.lit then s
  else
    let s := { s with porterUp := true }
    let s := s.emit (.porter (porterFrame 0x83 ((List.range 65).flatMap fun r => leBytes 8 (s.ring r).word)))
    each (List.range 65) (fun r s => s.resend r) s
def execPorterLinkUp (s : State) : Host.Outcome State Fault Refusal := s.act porterLinkUp

/-- PORTER_LINK_LOSS (R360): the link is down; what was sent and not acknowledged is lost. -/
def porterLinkLoss (s : Dev) : Dev := s.iff s.porterUp fun s => { s with porterUp := false, porterLossAt := s.now }
def execPorterLinkLoss (s : State) : Host.Outcome State Fault Refusal := s.act porterLinkLoss

/-! ## COPY and MEM_ATOMIC (R370) -/

/-- Requester class of a ring's commands (R363). -/
def ringClass (r : Nat) : LClass := if r = mgmtRing then .mgmt else .host
/-- The Concourse port of the Porter copy engine: an I/O-die port (R217). -/
abbrev porterPort : Nat := 576

/-- Row of the map of R215 that an offset lies in. -/
def mapRow_ (lp off : Nat) : Nat :=
  if off < jobEnd then 0 else if off < 0x00A000000000 then 1 else if off < lpBase then 4
  else if off < lpBase + lp * gib then 2 else if 0x080000000000 ≤ off ∧ off < 0x080090000000 then 3 else 4

/-- Whether one end of a COPY is in order (R370). -/
def Dev.copyEnd (s : Dev) (a len : Nat) : Bool :=
  let off := bits a 43 0
  let lp := if s.isLocal a then s.conc.lpGiB else 1024
  bits a 63 62 == 0 && !badAddr a && a % 64 == 0 && decide (off + len ≤ 2 ^ 44) && mapRow_ lp off == mapRow_ lp (off + len - 1)

/-- Bytes of the next packet of a COPY with a remote end (R251): to the end of its 4 KiB page. -/
def CopyJob.chunk (j : CopyJob) (a : Nat) : Nat := min (j.len - j.done) (4096 - (a + j.done) % 4096)

/-- Issue what a COPY does next: a read into its buffer, a write out of it, or its completion. -/
def Dev.copyNext (s : Dev) (id : Nat) : Dev := match s.copies.find? fun p => p.1 = id with
  | none => s
  | some (_, j) =>
    let base : CReq := { id := 0, src := .porterCopy id 0, kind := .read, off := 0, port := porterPort, cls := ringClass j.ring }
    let rd (a n : Nat) : Dev := s.access a { base with len := n }
    let wr (a : Nat) (d : Bytes) : Dev := s.access a { base with src := .porterCopy id 1, kind := .write, len := d.length, data := d }
    if j.done ≥ j.len then
      { s with copies := s.copies.filter fun p => p.1 != id }.done j.ring id 0 [(32, 4, j.done)]
    else if !s.isLocal j.src then
      if j.buf = [] then rd (j.src + j.done) (j.chunk j.src) else wr (j.dst + j.done) (j.buf.take 64)
    else
      let n := if s.isLocal j.dst then 64 else j.chunk j.dst
      if j.buf.length < n then rd (j.src + j.done + j.buf.length) 64 else wr (j.dst + j.done) j.buf

/-- COPY (R370). -/
def copy (r : Nat) (s : Dev) : Dev :=
  s.start r 0x15 (fun _ => !s.engineTested 15 0) fun id e s =>
    let d := fld e 8 8
    let a := fld e 16 8
    let n := fld e 24 4
    if n = 0 ∨ n % 64 ≠ 0 ∨ !s.copyEnd d n ∨ !s.copyEnd a n ∨ (!s.isLocal d ∧ !s.isLocal a) then s.done r id 0x4F []
    else
      { s with copies := s.copies.set id { ring := r, cmd := id, dst := d, src := a, len := n, vc := 4 + byte e 28 % 2 } }.copyNext id
/-- The Porter copy engine meets a parity error (R454): the contexts with a COPY in it fault. -/
def copyParity (s : Dev) : Dev :=
  if s.lit then s.engineParity 15 0 ioUnit (s.copies.filterMap fun p => if p.2.stopped then none else s.ringCtx p.2.ring) else s
def execCopy (r : EngineTurn) (s : State) : Host.Outcome State Fault Refusal :=
  s.actOn (decide (r.at_ < 65)) (if r.parity then copyParity else copy r.at_)

/-- A reply for a COPY: off 0 for a read, 1 for a write. The first that is not OK stops it. -/
def Dev.copyReply (s : Dev) (id off st : Nat) (data : Bytes) : Dev := match s.copies.find? fun p => p.1 = id with
  | none => s
  | some (_, j) =>
    let away := !s.isLocal j.src
    let drop : Dev := { s with copies := s.copies.filter fun p => p.1 != id }
    if j.stopped then drop
    else if st ≠ 0 then
      let a := if off = 1 then j.dst + j.done else j.src + j.done + j.buf.length
      drop.done j.ring id 0x50 [(32, 4, j.done), (36, 1, st), (40, 8, a)]
    else
      let turn := if away || !s.isLocal j.dst then (j.rot + 1) % 4 else j.rot
      let j' : CopyJob :=
        if off = 0 then { j with buf := j.buf ++ data, rot := if away then turn else j.rot }
        else if away then { j with done := j.done + 64, buf := j.buf.drop 64 }
        else { j with done := j.done + j.buf.length, buf := [], rot := turn }
      { s with copies := s.copies.set id j' }.copyNext id

/-- MEM_ATOMIC (R370). -/
def memAtomic (r : Nat) (s : Dev) : Dev :=
  s.start r 0x16 (fun _ => true) fun id e s =>
    let a := fld e 8 8
    if bits a 63 62 ≠ 0 ∨ badAddr a then s.done r id 0x4F []
    else s.access a { id := 0, src := .porterAtomic r id, kind := .atomic, off := 0, len := if bit (byte e 16) 4 then 8 else 4,
                      port := porterPort, cls := ringClass r, aop := bits (byte e 16) 3 0, aw := bit (byte e 16) 4,
                      op1 := fld e 24 8, op2 := fld e 32 8 }
def execMemAtomic (r : Nat) (s : State) : Host.Outcome State Fault Refusal := s.actOn (decide (r < 65)) (memAtomic r)

/-- The reply of a MEM_ATOMIC. -/
def Dev.atomicReply (s : Dev) (r id st : Nat) (data : Bytes) (flags : BitVec 32) : Dev :=
  if st = 0 then s.done r id 0 [(32, 8, leVal data), (40, 4, flags.toNat)]
  else s.done r id 0x50 [(36, 1, st)]

end Sys2Proof.Machine
end

