-- ==== Sys2Proof/Machine/Elveel.lean ====
section
/-! DEFINITION. The Elveel router (chapter 9): packets (R251, R260), the peer table and cache (R274 to R276), routes (R268 to R271),
how a packet leaves on a port (R254 to R256, R264), and the training, loss and retraining of ports (R257 to R259, R272). -/
namespace Sys2Proof.Machine

/-! ## Packets (R251, R260, R263) -/

/-- Opcodes (R251). -/
abbrev opLoad : Nat := 0x01
abbrev opStore : Nat := 0x02
abbrev opAtomic : Nat := 0x03
abbrev opLineadd : Nat := 0x04
abbrev opPut : Nat := 0x05
abbrev opGet : Nat := 0x06
abbrev opRunner : Nat := 0x07
abbrev opBell : Nat := 0x08
abbrev opMgmt : Nat := 0x09
abbrev opLoadR : Nat := 0x21
abbrev opComp : Nat := 0x22
abbrev opAtomR : Nat := 0x23
abbrev opGetR : Nat := 0x24
abbrev opMgmtR : Nat := 0x29

/-- Whether a packet is a request, or a BELL or RUNNER. -/
def isRequest (op : Nat) : Bool := decide (1 ≤ op) && decide (op ≤ 9)
/-- Whether a packet is a reply. -/
def isReply (op : Nat) : Bool := op == opLoadR || op == opComp || op == opAtomR || op == opGetR || op == opMgmtR

/-- Whether bytes of the payload follow a header: those that LEN counts. -/
def hasPayload (op : Nat) : Bool := !(op == opLoad || op == opGet || op == opBell || op == opComp)

/-- The header of a packet without its ECRC (R260). -/
def EPkt.header (e : EPkt) (hops : Nat) : Bytes :=
  layout 28 [(0, 1, e.op), (1, 1, e.flags), (2, 2, e.ddev), (4, 2, e.sdev), (6, 1, e.dinc), (7, 1, e.sinc), (8, 2, e.tid),
    (10, 2, e.len), (12, 1, e.aop), (13, 1, e.stamp), (14, 1, hops), (15, 1, e.flow), (16, 8, e.addr), (24, 4, e.aux)]
/-- The ECRC of a packet (R260): HOPS is taken as zero. -/
def EPkt.ecrc (e : EPkt) : Nat := (crc32c (e.header 0 ++ e.payload)).toNat
/-- The bytes of a packet. -/
def EPkt.bytes (e : EPkt) : Bytes := e.header e.hops ++ leBytes 4 e.ecrc ++ e.payload
/-- The packet of some bytes. -/
def epktOf (b : Bytes) : EPkt :=
  { op := byte b 0, flags := byte b 1, ddev := fld b 2 2, sdev := fld b 4 2, dinc := byte b 6, sinc := byte b 7, tid := fld b 8 2,
    len := fld b 10 2, aop := byte b 12, stamp := byte b 13, hops := byte b 14, flow := byte b 15, addr := fld b 16 8,
    aux := fld b 24 4, payload := b.drop 32 }
/-- Whether the ECRC of some bytes is theirs. -/
def ecrcOk (b : Bytes) : Bool := decide (32 ≤ b.length) && fld b 28 4 == (epktOf b).ecrc
/-- Status of a reply (R260). -/
def EPkt.status (e : EPkt) : Nat := bits e.stamp 7 4

/-- AUX bits that an opcode defines (R251). -/
def auxMask (op : Nat) : Nat := if op = opLineadd then 0xF else if op = opGet then 1 else if op = opBell then 0x1F else 0
/-- Whether a packet uses no undefined opcode and no reserved field (R260). -/
def EPkt.fieldsOk (e : EPkt) : Bool :=
  (isRequest e.op || isReply e.op) && decide (e.flags < 32) && decide (e.ddev < 2 ^ 14) && decide (e.sdev < 2 ^ 14)
    && decide (e.len < 2 ^ 13) && decide (e.aop < 32) && decide (e.hops < 64) && e.aux &&& auxMask e.op == e.aux
    && (!(isReply e.op || e.op == opBell || e.op == opRunner) || e.addr == 0)

/-- The VC of a packet (R263): a PUT's is the one chosen at its source, which a GET carries in AUX. -/
def vcOf (op sel : Nat) : Nat :=
  if op = opBell then 0
  else if op = opLoadR ∨ op = opComp ∨ op = opAtomR then 1
  else if op = opRunner then 3
  else if op = opPut ∨ op = opGetR then 4 + sel
  else if op = opMgmt ∨ op = opMgmtR then 6
  else 2

/-- Sectors that a run of packet bytes occupies (R261). -/
def sectorsOf (bytes : Nat) : Nat := (bytes + 31) / 32

/-- Add to a device counter of the fabric (R286, R451). -/
def Dev.bumpFab (s : Dev) (w : Nat) : Dev := s.bump 0x6080 0 w
/-- Add to a counter of a port. -/
def Dev.bumpPort (s : Dev) (p w : Nat) (n : Nat := 1) : Dev := s.bump 0x6070 p w n

/-! ## The peer table and the peer cache (R274 to R276) -/

/-- The peer table entry of a device, and whether it is well formed (R274): a malformed one is ABSENT. -/
def Dev.peerEntry (s : Dev) (d : Nat) : Peer × Bool :=
  let b := s.memAt (s.peerTab + 64 * d) 64
  let w := fld b 0 8
  let ok := bits w 3 0 == 1 && bits w 7 7 == 0 && bits w 29 16 == d && bits w 31 30 == 0 && bits w 63 38 == 0
    && bits (fld b 16 4) 31 15 == 0 && zeroAt b 20 44
  ({ state := if ok then bits w 5 4 else 0, pin := bit w 6, dinc := bits w 15 8, memr := bit w 32, memw := bit w 33,
     atom := bit w 34, unit := bit w 35, bell := bit w 36, ledger := bit w 37, ident := BitVec.ofNat 64 (fld b 8 8),
     loc := fld b 16 4 }, ok)

/-- The cached entry of a peer. -/
def Dev.peerOf (s : Dev) (d : Nat) : Option Peer := (s.elveel.cache.find? fun p => p.1 = d).map (·.2)
/-- Mark a cached entry as the most recently used. -/
def Dev.touchPeer (s : Dev) (d : Nat) : Dev :=
  s.modElv fun e => { e with cache := (e.cache.filter fun p => p.1 != d) ++ e.cache.filter fun p => p.1 == d }
/-- Ask for an entry that is not cached: the read is counted once (R275). -/
def Dev.askPeer (s : Dev) (d : Nat) : Dev :=
  if s.elveel.fills.any fun f => f.1 == d then s
  else (s.modElv fun e => { e with fills := e.fills ++ [(d, false)] }).bumpFab 11

/-- Put an entry into the cache: at most 4,096, of which 2,048 pinned; the least recently used one that is not pinned makes room. -/
def cachePut (l : List (Nat × Peer)) (d : Nat) (p : Peer) : List (Nat × Peer) :=
  let l := l.filter fun q => q.1 != d
  let p := if (l.filter fun q => q.2.pin).length ≥ 2048 then { p with pin := false } else p
  (if l.length ≥ 4096 then dropFirst (fun q => !q.2.pin) l else l) ++ [(d, p)]

/-- PEER_CACHE_FILL (R275, R276): the read of an entry ends; one that PEERINV has overtaken is read again. An entry with PIN set is also
loaded unasked. -/
def peerCacheFill (d : Nat) (s : Dev) : Dev :=
  let load (s : Dev) : Dev :=
    let (p, ok) := s.peerEntry d
    let s := s.iff (!ok) fun s => s.bumpFab 12
    s.modElv fun e => { e with fills := e.fills.filter fun f => f.1 != d, cache := cachePut e.cache d p }
  match s.elveel.fills.find? fun f => f.1 = d with
  | some (_, true) => s.modElv fun e => { e with fills := e.fills.map fun f => if f.1 = d then (d, false) else f }
  | some (_, false) => load s
  | none => if s.lit && (s.peerOf d).isNone && (s.peerEntry d).1.pin && (s.peerEntry d).2 then load s else s
def execPeerCacheFill (dev : Nat) (s : State) : Host.Outcome State Fault Refusal :=
  s.actOn (decide (dev < 16384)) (peerCacheFill dev)

/-- Drop a peer's copy, and let a fill in progress read again (R276). -/
def Dev.dropPeer (s : Dev) (d : Nat) : Dev :=
  s.modElv fun e => { e with cache := e.cache.filter fun p => p.1 != d,
                             fills := e.fills.map fun f => if f.1 = d then (d, true) else f }

/-! ## Routes (R268 to R271) -/

/-- Whether a port carries packets: it is UP, and its training is over. -/
def EPort.carries (x : EPort) : Bool := x.st == .up && x.phase == 0

/-- Candidates of a route word: (port, dateline) in order, the valid ones (R268). -/
def routeCands (w : BitVec 32) : List (Nat × Bool) :=
  (List.range 4).filterMap fun i =>
    let c := bits w.toNat (7 * i + 6) (7 * i)
    if bit c 5 then some (c % 32, bit c 6) else none
/-- The usable candidates toward a device: none to the own number. -/
def Dev.usableCands (s : Dev) (d : Nat) : List (Nat × Bool) :=
  if d = s.elveel.devnum then []
  else (routeCands (s.elveel.routes.get d)).filter fun c => decide (c.1 < 18) && (s.port c.1).carries

/-- The route hash (R269). -/
def routeHash (vc : Nat) (e : EPkt) : Nat :=
  let bs := leBytes 2 e.sdev ++ leBytes 2 e.ddev ++ if vc = 2 then leBytes 4 (bits e.addr 43 12) else leBytes 1 e.flow
  (crc32c bs).toNat % 256

/-- The congestion estimate of a port for a VC (R269). -/
def EPort.congestion (x : EPort) (vc : Nat) : Nat := x.outst.get (2 * vc) + x.outst.get (2 * vc + 1)

/-- The candidate that a packet takes (R269). -/
def Dev.pickRoute (s : Dev) (vc : Nat) (e : EPkt) : Option (Nat × Bool) :=
  let l := s.usableCands e.ddev
  if l = [] then none
  else
    let h := routeHash vc e % l.length
    if vc = 1 ∨ vc = 4 ∨ vc = 5 then
      let est (c : Nat × Bool) : Nat := (s.port c.1).congestion vc
      let low := l.foldl (fun m c => min m (est c)) (est (l.getD h (0, false)))
      (l.drop h ++ l.take h).find? fun c => est c == low
    else l[h]?

/-- Whether a flit of a VC and class may leave on a port: a packet waits, a credit is at hand, and the replay buffer has room (R256,
R264). -/
def EPort.canSend (x : EPort) (k : Nat) : Bool :=
  !(x.tx.get k : List TxPkt).isEmpty && decide (x.outst.get k < x.full.get k) && decide (x.replay.length < 1024)

/-- Forty nanoseconds. -/
abbrev ns40 : Nat := 112
/-- Count the link budget (R265): more than 16 flits of VC 0 to 3 in 40 ns; a window that exceeds it counts once. -/
def Dev.linkBudget (s : Dev) (p vc n : Nat) : Dev :=
  if 4 ≤ vc then s
  else
    let l := ((s.port p).recent.filter fun t => s.now < t + ns40) ++ List.replicate n s.now
    let s := s.modPort p fun x => { x with recent := if l.length > 16 then [] else l }
    s.iff (decide (l.length > 16)) fun s => s.bumpPort p 20

/-- Queue a packet at an output port for its VC and class. -/
def Dev.sendOn (s : Dev) (p vc cls : Nat) (bs : Bytes) (from_ : Option (Nat × Nat × Nat) := none) : Dev :=
  s.modPort p fun x => { x with tx := x.tx.mod (2 * vc + cls) (· ++ [{ bytes := bs, from_ := from_ }]) }

/-- Return credits to the peer of a port, with the flits that leave next (R255, R263). -/
def Dev.giveBack_ (s : Dev) (p k n : Nat) : Dev := s.iff (n != 0) fun s => s.modPort p fun x => { x with due := x.due.mod k (· + n) }

/-- What routing a packet gives. -/
inductive Routed where
  | sent (s : Dev)
  | unreachable         -- no usable candidate, or the hop limit
  deriving Inhabited

/-- Send the bytes of a packet toward its DDEV from a buffer class (R269, R271): on the candidate that its first flit chose, where that
still carries, else on the one that the table and the masks give now. -/
def Dev.routeBytes (s : Dev) (sel cls : Nat) (e : EPkt) (bs : Bytes) (cand : Option (Nat × Bool) := none)
    (from_ : Option (Nat × Nat × Nat) := none) : Routed :=
  let vc := vcOf e.op sel
  if 31 ≤ e.hops then .unreachable
  else match (cand.filter fun c => (s.port c.1).carries) <|> s.pickRoute vc e with
    | none => .unreachable
    | some (p, dl) => .sent (s.sendOn p vc (if dl then 1 else cls) bs from_)
/-- Send a packet of the device's own: the first router passed is its own. -/
def Dev.route (s : Dev) (sel : Nat) (e : EPkt) : Routed := s.routeBytes sel 0 e { e with hops := e.hops + 1 }.bytes
/-- A packet in transit with its HOPS grown by one: nothing else of it changes (R271, R273). -/
def hopBytes (bs : Bytes) : Bytes := splice bs 14 [BitVec.ofNat 8 (byte bs 14 + 1)]

/-- Whether the route table sends traffic over a port (R283). -/
def Elveel.routesVia (e : Elveel) (p : Nat) : Bool := e.routes.any fun r => (routeCands r.2).any fun c => c.1 == p

/-! ## Ports (R253, R257 to R259, R267, R272) -/

/-- The own IDENT (R394). -/
def Dev.ident (s : Dev) : Nat := match s.boot.k with
  | some k => leVal ((identityDigest k).take 8)
  | none => 0

/-- The own link-up record (R258). -/
def Dev.linkRecord (s : Dev) (p sel : Nat) : Bytes :=
  withCrc (layout 60 [(0, 2, 0x454C), (2, 1, 1), (3, 1, 1), (4, 1, sel), (5, 1, p), (6, 2, s.elveel.devnum), (8, 1, s.elveel.inc),
    (9, 1, b2n (s.elveel.drain != .no)), (16, 8, s.ident), (24, 4, s.entry 0x4000 1)])

/-- Flits that a masked port discards: those of its replay buffer and of its receive buffers. -/
def EPort.held (x : EPort) : Nat :=
  x.replay.length + (x.rx.map (·.credits)).sum + (x.part.filterMap fun q => q.2.map (·.credits)).sum
/-- Mask a port (R272): what stands in its buffers is discarded and counted. What has been routed to it and waits is lost with it (DESIGN
CHOICE, notes/assumptions/35.md). -/
def Dev.maskPort (s : Dev) (p : Nat) (st : PState) : Dev :=
  let n := (s.port p).held
  (s.modPort p fun x => { x with st := st, phase := 0, replay := [], again := [], nak := false, tx := [], arb := {}, rx := [], part := [],
                                 due := [], rep := [], outst := [], full := [], records := 0, rxSeq := 4095, txSeq := 0 }).bumpPort p 21 n
/-- A port fails its link (R257, R272): an error of the port (R454). -/
def Dev.linkFail (s : Dev) (p : Nat) : Dev := ((s.bumpPort p 19).event 0x15 [(32, 1, p)]).unitError 0x07 6 p [] 0 0
/-- A retrain from phase 2 (R257). -/
def Dev.retrainPort (s : Dev) (p : Nat) : Dev :=
  (((s.maskPort p .retraining).modPort p fun x => { x with phase := 2, phaseAt := s.now, failedAt := s.now }).bumpPort p 18).emit (.ctl p 5)

/-- Flash offset of a port's equalization record (R444). -/
def eqRecord (p : Nat) : Nat := 0x06400000 + 0x10000 * p
/-- Whether the stored equalization record of a port matches its peer (R257). The manual gives the record no layout: the model keeps
the peer identity in its first 8 bytes. A port whose peer is not known yet tries the record that is there. -/
def Dev.eqMatch (s : Dev) (p : Nat) : Bool :=
  let r := s.flashAt (eqRecord p) 8
  let x := s.port p
  r != List.replicate 8 0xFF#8 && (x.peerIdent == 0 || leVal r == x.peerIdent.toNat)

/-- Bound of a training phase in cycles (R257). -/
def Dev.phaseBound (s : Dev) (p : Nat) : Nat := match (s.port p).phase with
  | 1 => 10 * msec
  | 2 => if s.eqMatch p then 5 * msec else 30 * msec
  | 3 => msec
  | 4 => 100 * usec
  | 5 => 100 * usec
  | _ => 10 * usec
/-- Whether a port trains: from light to its last phase. -/
def EPort.trains (x : EPort) : Bool := x.phase != 0
/-- Whether a training port has missed a bound (R257). -/
def Dev.missed (s : Dev) (p : Nat) : Bool :=
  let x := s.port p
  decide (x.phaseAt + s.phaseBound p < s.now) || (x.st == .retraining && decide (x.failedAt + 2 * msec < s.now))

/-- Whether a port may train: its transmitter has light, and neither a test (R460) nor a fence takes it out of service. -/
def Dev.mayTrain (s : Dev) (p : Nat) : Bool :=
  s.lit && !(s.port p).dark && s.elveel.drain != .drained && !(s.service.tests.any fun t => t.uclass == 6 && t.unit == p && t.running)
    && !s.service.fenced.contains (6, p)
/-- Start of training at a phase. -/
def Dev.trainFrom (s : Dev) (p phase : Nat) : Dev :=
  s.modPort p fun x => { x with st := .training, phase := phase, phaseAt := s.now, records := 0, full := [] }

/-- PORT_LIGHT_DETECT (R257): both ends have light, and the port is down with its laser input good and its transmitter on. -/
def portLightDetect (p : Nat) (s : Dev) : Dev :=
  let x := s.port p
  if x.st == .down && s.mayTrain p then s.trainFrom p 1 else s
def execPortLightDetect (p : Nat) (s : State) : Host.Outcome State Fault Refusal := s.actOn (decide (p < 18)) (portLightDetect p)

/-- After a full adaptation the settings are written to the store (R257): the manual gives their layout nowhere, so beyond the
peer identity the record's bytes are a free value. -/
def Dev.storeEq (s : Dev) (p : Nat) : Dev :=
  if s.eqMatch p && (s.port p).peerIdent.toNat == leVal (s.flashAt (eqRecord p) 8) then s
  else
    let (r, s) := s.draw
    s.flashOp [(eqRecord p, 0x10000)] [(eqRecord p, leBytes 8 (s.port p).peerIdent.toNat ++ leBytes 248 r)] .nothing

/-- In phase 6 the receiver returns the full credits of every VC and class (R257). -/
def Dev.returnAll (s : Dev) (p : Nat) : Dev := s.modPort p fun x =>
  { x with due := (List.range 16).foldl (fun t k => t.set k (Config.linkBuffer (k / 2) (k % 2))) [] }

/-- PORT_TRAINING_PHASE (R257, R267): the present phase ends. Phase 4 ends with LINK_UP_RECORD. flight is the one-way time that phase 5
measured, in nanoseconds, rounded up. -/
def portTrainingPhase (p flight : Nat) (s : Dev) : Dev :=
  let x := s.port p
  if !x.trains ∨ s.missed p ∨ x.phase = 4 then s
  else
    let next (s : Dev) (n : Nat) : Dev := s.modPort p fun y => { y with phase := n, phaseAt := s.now }
    match x.phase with
    | 3 => ((next s 4).modPort p fun y => { y with rep := [0] }).emit (.linkRec p (s.linkRecord p 0))
    | 5 => ((next s 6).modPort p fun y => { y with flight := min flight 250 }).returnAll p
    | 6 => (s.modPort p fun y => { y with phase := 0 }).storeEq p
    | n => next s (n + 1)
def execPortTrainingPhase (p flight : Nat) (s : State) : Host.Outcome State Fault Refusal :=
  s.actOn (decide (p < 18)) (portTrainingPhase p flight)

/-- PORT_TRAINING_TIMEOUT (R257). -/
def portTrainingTimeout (p : Nat) (s : Dev) : Dev :=
  if (s.port p).trains && s.missed p then
    ((s.maskPort p .failed).modPort p fun x => { x with failedAt := s.now }).linkFail p
  else s
def execPortTrainingTimeout (p : Nat) (s : State) : Host.Outcome State Fault Refusal :=
  s.actOn (decide (p < 18)) (portTrainingTimeout p)

/-- PORT_RETRY (R257): 1 s after it failed. -/
def portRetry (p : Nat) (s : Dev) : Dev :=
  let x := s.port p
  if x.st == .failed && s.mayTrain p && decide (x.failedAt + second ≤ s.now) then s.trainFrom p 1 else s
def execPortRetry (p : Nat) (s : State) : Host.Outcome State Fault Refusal := s.actOn (decide (p < 18)) (portRetry p)

/-- PORT_LOSS_OF_LOCK (R272, R284). -/
def portLossOfLock (p : Nat) (s : Dev) : Dev :=
  let x := s.port p
  if s.lit && (x.st == .up || x.st == .mgmtOnly || x.st == .loop || x.st == .retraining || x.st == .training) then
    (s.maskPort p .down).linkFail p
  else s
def execPortLossOfLock (p : Nat) (s : State) : Host.Outcome State Fault Refusal := s.actOn (decide (p < 18)) (portLossOfLock p)

/-- Whether a link-up record counts (R258, R259). -/
def linkRecOk (r : Bytes) : Bool :=
  r.length == 64 && crcOk r 60 && fld r 0 2 == 0x454C && decide (byte r 5 < 18) && decide (fld r 6 2 < 2 ^ 14) && decide (byte r 9 < 2)
    && zeroAt r 10 6 && decide (fld r 24 4 < 2 ^ 15) && zeroAt r 28 32

/-- The state that two agreeing records give a port (R259). Phase 5 starts, with its timed probe flit (R267). -/
def Dev.agreed (s : Dev) (p : Nat) (r : Bytes) : Dev :=
  let dev := fld r 6 2
  let id := fld r 16 8
  let s := s.emit (.probe p)
  let s := s.modPort p fun x =>
    let y := { x with rep := [], peerDev := dev, peerInc := byte r 8, peerIdent := BitVec.ofNat 64 id, peerLoc := fld r 24 4 }
    { y with peerGen := byte r 2, peerDraining := byte r 9 == 1, phase := 5, phaseAt := s.now }
  let set (st : PState) : Dev := s.modPort p fun x => { x with st := st }
  if id = s.ident then set .loop
  else if dev = 0x3FFF ∨ s.elveel.devnum = 0x3FFF then set .mgmtOnly
  else if dev = s.elveel.devnum then (s.maskPort p .down).event 0x17 [(32, 1, p)]
  else
    let s := (set .up).event 0x18 [(32, 1, p), (34, 2, dev), (36, 1, byte r 8), (40, 8, id), (48, 4, fld r 24 4)]
    s.iff (byte r 9 == 1) fun s => s.event 0x19 [(32, 1, p), (34, 2, dev)] |>.iff (!s.elveel.routesVia p) fun s => s.emit (.ctl p 2)

/-- LINK_UP_RECORD (R258, R259): the first record carries the peer's range, the second the generation that it selected. -/
def linkUpRecord (p : Nat) (r : Bytes) (s : Dev) : Dev :=
  let x := s.port p
  if x.phase ≠ 4 ∨ s.missed p ∨ !linkRecOk r then s
  else
    let mismatch : Dev := (s.maskPort p .down).event 0x16 [(32, 1, p), (33, 1, byte r 2)]
    if x.records = 0 then
      if byte r 4 ≠ 0 then s
      else if byte r 3 ≤ 1 ∧ 1 ≤ byte r 2 then
        (s.modPort p fun y => { y with records := 1, genSel := 1 }).emit (.linkRec p (s.linkRecord p 1))
      else mismatch
    else if byte r 4 ≠ 1 then mismatch
    else s.agreed p r
def execLinkUpRecord (p : Nat) (rcd : Bytes) (s : State) : Host.Outcome State Fault Refusal :=
  s.actOn (decide (p < 18)) (linkUpRecord p rcd)

/-! ## Flits that a port sends (R254 to R256, R261, R264) -/

/-- The link header of a flit (R255). -/
def linkHdr (fkind vc cls sop svalid seq ack : Nat) (nak : Bool) (crvc crcls crcnt : Nat) : Nat :=
  fkind + 4 * vc + 32 * cls + 64 * sop + 2 ^ 14 * svalid + 2 ^ 22 * seq + 2 ^ 34 * ack + 2 ^ 46 + 2 ^ 47 * b2n nak + 2 ^ 48 * crvc
    + 2 ^ 51 * crcls + 2 ^ 52 * crcnt
/-- A wire flit (R254): payload field, link header, FEC parity. Byte b travels on lane b mod 8. -/
def wireFlit (payload : Bytes) (header : Nat) : Bytes :=
  let b := payload ++ leBytes 9 header
  b ++ leBytes 15 (Config.fecParity (leVal b))
/-- The slot of the alignment markers (R254): 35 bytes of each lane's pattern. -/
def markerSlot : Bytes := (List.range 280).map fun b => BitVec.ofNat 8 (Config.alignMarker (b % 8) / 2 ^ (8 * (b / 8)))

/-- A flit leaves a port: it carries the highest SEQ received in order, a NAK that is due, and credits that are due of one VC and class. -/
def Dev.flitOut (s : Dev) (p fkind : Nat) (f : TFlit) : Dev :=
  let x := s.port p
  let (k, n) := x.due.headD (0, 0)
  let n := min n 255
  let s := s.modPort p fun y => { y with nak := false, due := y.due.mod k (· - n) }
  s.emit (.flit p (wireFlit f.payload (linkHdr fkind f.vc f.cls f.sop f.svalid f.seq x.rxSeq x.nak (k / 2) (k % 2) n)))

/-- The first k sectors of a packet's bytes: whether a packet starts there, and 32 bytes. -/
def TxPkt.sectors (q : TxPkt) (k : Nat) : List (Bool × Bytes) := (List.range k).map fun i =>
  let b := sub q.bytes (32 * i) 32
  (i == 0 && !q.started, b ++ zeros (32 - b.length))
/-- Fill a flit with packets of one VC and class (R261): its sectors, the packets that stay, and those that have left whole. A packet of at
most 256 bytes that does not fit waits for the next flit. -/
def fillFlit : Nat → List TxPkt → List (Bool × Bytes) × List TxPkt × List TxPkt
  | _, [] => ([], [], [])
  | room, q :: r =>
    let n := sectorsOf q.bytes.length
    if room = 0 ∨ (!q.started ∧ q.bytes.length ≤ 256 ∧ room < n) then ([], q :: r, [])
    else if n ≤ room then
      let (a, b, c) := fillFlit (room - n) r
      (q.sectors n ++ a, b, q :: c)
    else (q.sectors room, { q with started := true, bytes := q.bytes.drop (32 * room) } :: r, [])

/-- A data flit of a VC and class leaves (R255, R261, R265): it takes a credit, stands in the replay buffer, and frees the credits of the
packets in transit that end in it. -/
def Dev.dataOut (s : Dev) (p vc cls : Nat) : Dev :=
  let k := 2 * vc + cls
  let x := s.port p
  let (secs, rest, over_) := fillFlit 8 (x.tx.get k)
  let f : TFlit := { seq := x.txSeq, vc := vc, cls := cls, sop := (secs.zipIdx.map fun q => b2n q.1.1 * 2 ^ q.2).sum,
                     svalid := 2 ^ secs.length - 1, payload := secs.flatMap (·.2) ++ zeros (256 - 32 * secs.length) }
  let s := s.modPort p fun y => { y with
    tx := y.tx.set k rest, outst := y.outst.mod k (· + 1), txSeq := (y.txSeq + 1) % 4096, replay := y.replay ++ [f] }
  let s := each (over_.filterMap (·.from_)) (fun q s => s.giveBack_ q.1 q.2.1 q.2.2) s
  ((s.bumpPort p (2 * vc)).linkBudget p vc 1).flitOut p 1 f

/-- Whether a flit of a VC may leave. -/
def EPort.vcReady (x : EPort) (vc : Nat) : Bool := x.canSend (2 * vc) || x.canSend (2 * vc + 1)
/-- The one of two VCs that share in rotation: the one that did not leave last, where both may. -/
def EPort.shared (x : EPort) (a b last : Nat) : Option Nat :=
  if x.vcReady a && (last != a || !x.vcReady b) then some a else if x.vcReady b then some b else none
/-- The VC whose flit leaves in a data slot (R264). VC 6 and the bulk each get a slot after fourteen in which they waited, so that both get
at least one of every sixteen. -/
def EPort.pickVc (x : EPort) : Option Nat :=
  let bulk := x.shared 4 5 x.arb.last45
  let six := if x.vcReady 6 then some 6 else none
  if 14 ≤ x.arb.wait6 ∧ six.isSome then six
  else if 14 ≤ x.arb.waitB ∧ bulk.isSome then bulk
  else if x.vcReady 0 then some 0
  else if x.vcReady 1 then some 1
  else x.shared 2 3 x.arb.last23 <|> six <|> bulk
/-- The arbitration after a data slot that went to a VC and class. -/
def EPort.arbAfter (x : EPort) (vc cls : Nat) : PortArb :=
  let a := x.arb
  { last23 := if vc = 2 ∨ vc = 3 then vc else a.last23, last45 := if vc = 4 ∨ vc = 5 then vc else a.last45, lastCls := cls,
    wait6 := if vc = 6 ∨ !x.vcReady 6 then 0 else a.wait6 + 1,
    waitB := if vc = 4 ∨ vc = 5 ∨ (x.shared 4 5 0).isNone then 0 else a.waitB + 1 }

/-- An idle flit (R254). -/
def idleFlit : TFlit := { seq := 0, vc := 0, cls := 0, sop := 0, svalid := 0, payload := zeros 256 }
/-- A data slot of a port: a flit that is sent again goes first (R256), then what the arbitration picks, else an idle flit. -/
def Dev.dataSlot (s : Dev) (p : Nat) : Dev :=
  let x := s.port p
  match x.again with
  | q :: r =>
    let s := s.modPort p fun y => { y with again := r }
    match x.replay.find? fun f => f.seq = q with
    | some f => (s.bumpPort p 17).flitOut p 1 f
    | none => s.flitOut p 0 idleFlit
  | [] => match x.pickVc with
    | none => s.flitOut p 0 idleFlit
    | some vc =>
      let cls := if x.canSend (2 * vc) && (x.arb.lastCls != 0 || !x.canSend (2 * vc + 1)) then 0 else 1
      (s.modPort p fun y => { y with arb := x.arbAfter vc cls }).dataOut p vc cls
/-- A slot for link control (R254, R256): a control flit that has not been answered is repeated, else the slot is idle. The manual lays the
content of a control flit out only for the link-up record. -/
def Dev.controlSlot (s : Dev) (p k : Nat) : Dev := match (s.port p).rep[k]? with
  | some 0 => s.emit (.linkRec p (s.linkRecord p (s.port p).genSel))
  | some n => s.emit (.ctl p n)
  | none => s.flitOut p 0 idleFlit

/-- Number of the slot that runs in a cycle: 0.625 ns each, which is 7 slots in 4 cycles of the main clock turned round (R254). -/
def slotOf (t : Nat) : Nat := 4 * t / 7
/-- Whether a port sends frames: it has lock, from phase 4 on, and it is not down. -/
def EPort.framed (x : EPort) : Bool := decide (4 ≤ x.phase) || (x.phase == 0 && (x.st == .up || x.st == .mgmtOnly || x.st == .loop))
/-- One cycle of a port: when a slot starts, what it carries leaves (R254): the alignment marker in slot 0, link control in slots 1 and 2,
and data in the others. Frames are counted from the first cycle of the clock. -/
def Dev.portTick (s : Dev) (p : Nat) : Dev :=
  if !(s.port p).framed ∨ slotOf (s.now + 1) = slotOf s.now then s
  else match slotOf (s.now + 1) % 128 with
    | 0 => s.emit (.flit p markerSlot)
    | 1 => s.controlSlot p 0
    | 2 => s.controlSlot p 1
    | _ => s.dataSlot p

/-! ## Flits that a port receives (R254 to R256, R261, R263) -/

end Sys2Proof.Machine

namespace Sys2Proof

/-- Fields of a received link header (R255). -/
def WireFlit.fkind (f : WireFlit) : Nat := Machine.bits f.header 1 0
def WireFlit.vc (f : WireFlit) : Nat := Machine.bits f.header 4 2
def WireFlit.cls (f : WireFlit) : Nat := Machine.bits f.header 5 5
def WireFlit.sop (f : WireFlit) (i : Nat) : Bool := Machine.bit f.header (6 + i)
def WireFlit.svalid (f : WireFlit) (i : Nat) : Bool := Machine.bit f.header (14 + i)
def WireFlit.seq (f : WireFlit) : Nat := Machine.bits f.header 33 22
def WireFlit.ack (f : WireFlit) : Nat := Machine.bits f.header 45 34
def WireFlit.ackv (f : WireFlit) : Bool := Machine.bit f.header 46
def WireFlit.nak (f : WireFlit) : Bool := Machine.bit f.header 47
def WireFlit.crKey (f : WireFlit) : Nat := 2 * Machine.bits f.header 50 48 + Machine.bits f.header 51 51
def WireFlit.crcnt (f : WireFlit) : Nat := Machine.bits f.header 59 52
/-- Whether the header has a reserved FKIND or a reserved field set. -/
def WireFlit.bad (f : WireFlit) : Bool := f.fkind == 3 || Machine.bits f.header 71 60 != 0

end Sys2Proof

namespace Sys2Proof.Machine


/-- Whether a SEQ is covered by an ACK, in the half of the numbers before it. -/
def covered (seq ack : Nat) : Bool := decide ((ack + 4096 - seq) % 4096 < 2048)

/-- What the link header of a flit returns: an ACK frees the replay buffer, a NAK sends again all that it does not cover, in order, and
credits come back (R255, R256). In phase 6 the credits are the whole of the peer's buffers. -/
def Dev.linkHeader (s : Dev) (p : Nat) (f : WireFlit) : Dev :=
  let s := s.iff f.ackv fun s => s.modPort p fun x => { x with replay := x.replay.filter fun q => !covered q.seq f.ack }
  let s := s.iff (f.crcnt != 0) fun s => s.modPort p fun x =>
    if x.phase = 6 then { x with full := x.full.mod f.crKey (· + f.crcnt) } else { x with outst := x.outst.mod f.crKey (· - f.crcnt) }
  s.iff f.nak fun s => s.modPort p fun x => { x with again := x.replay.map (·.seq) }

/-- An uncorrectable flit (R256) is discarded, a data flit NAKed; above the retrain threshold in 1 ms the port retrains. -/
def Dev.badFlit (s : Dev) (p : Nat) (isData : Bool) : Dev :=
  let x := s.port p
  let (n, t) := if s.now < x.uncorrAt + msec then (x.uncorr + 1, x.uncorrAt) else (1, s.now)
  let s := s.modPort p fun y => { y with uncorr := n, uncorrAt := t, nak := y.nak || isData }
  if n > s.entry 0x4002 1 then (s.modPort p fun y => { y with uncorr := 0 }).retrainPort p else s

/-- Length of the packet whose header some bytes hold (R260). -/
def pktLen (b : Bytes) : Nat := 32 + if hasPayload (byte b 0) then bits (fld b 10 2) 12 0 else 0

/-- One sector of a packet (R255, R261): what is whole, and what is not yet. A packet in transit chooses its candidate here, when its first
sector comes (R272). A sector that neither starts a packet nor continues one is passed over. -/
def Dev.takeSector (s : Dev) (f : WireFlit) (a : List RxPkt × Option RxPkt) (i : Nat) : List RxPkt × Option RxPkt :=
  let b := sub f.payload (32 * i) 32
  if !f.svalid i then a
  else
    let cur : Option RxPkt := if f.sop i then
        let e := epktOf b
        some { vc := f.vc, cls := f.cls, bytes := b, credits := if a.1.isEmpty then (a.2.map (·.credits)).getD 0 else 0,
               cand := if e.ddev = s.elveel.devnum then none else s.pickRoute f.vc e }
      else a.2.map fun q => { q with bytes := q.bytes ++ b }
    match cur with
    | none => a
    | some q => if sectorsOf q.bytes.length < sectorsOf (pktLen q.bytes) then (a.1, some q)
      else (a.1 ++ [{ q with bytes := q.bytes.take (pktLen q.bytes) }], none)

/-- The packets of a data flit join those that wait for the router. The flit's credit goes with the packet that holds the flit longest. -/
def Dev.takePackets (s : Dev) (p : Nat) (f : WireFlit) : Dev :=
  let k := 2 * f.vc + f.cls
  let more (q : RxPkt) : RxPkt := { q with credits := q.credits + 1 }
  match (List.range 8).foldl (s.takeSector f) ([], (s.port p).part.get k) with
  | (done, some q) => s.modPort p fun y => { y with rx := y.rx ++ done, part := y.part.set k (some (more q)) }
  | (done, none) =>
    let s := s.modPort p fun y => { y with part := y.part.set k none }
    match done.getLast? with
    | some q => s.modPort p fun y => { y with rx := y.rx ++ done.dropLast ++ [more q] }
    | none => s.giveBack_ p k 1

/-- A data flit in order: its packets wait for the router; VC 7 is dropped and its credit returned (R263). A MGMT_ONLY port takes VC 6
alone, a LOOP port none (R259). -/
def Dev.goodFlit (s : Dev) (p : Nat) (f : WireFlit) : Dev :=
  let x := s.port p
  if f.seq ≠ (x.rxSeq + 1) % 4096 then s
  else
    let s := (s.modPort p fun y => { y with rxSeq := f.seq }).bumpPort p (2 * f.vc + 1)
    if f.vc = 7 then (s.bumpPort p 22).giveBack_ p (2 * f.vc + f.cls) 1
    else if x.st = .up ∨ (x.st = .mgmtOnly ∧ f.vc = 6) then s.takePackets p f
    else s.giveBack_ p (2 * f.vc + f.cls) 1

/-- WIRE_FLIT_RECEIVE (R255, R256). -/
def wireFlitReceive (p : Nat) (f : WireFlit) (s : Dev) : Dev :=
  let x := s.port p
  if !(x.carries || x.st == .mgmtOnly || x.st == .loop || x.phase == 6) then s
  else if f.bad ∨ f.fec = .uncorrectable then s.badFlit p (f.fkind == 1)
  else
    let s := s.iff (f.fec == .corrected) fun s => s.bumpPort p 16 f.symbols
    let s := s.linkHeader p f
    if f.fkind = 1 then s.goodFlit p f else s
def execWireFlitReceive (p : Nat) (flit : WireFlit) (s : State) : Host.Outcome State Fault Refusal :=
  s.actOn (decide (p < 18) && flit.payload.length == 256 && decide (flit.header < 2 ^ 72)) (wireFlitReceive p flit)

end Sys2Proof.Machine
end

