-- ==== Sys2Proof/Machine/Collect.lean ====
section
/-! DEFINITION. The collective engine (chapter 10): descriptors and their checks, starts, the schedules of the six kinds, pieces and
signals, the arithmetic of reductions, completion, abort and timeout. -/
namespace Sys2Proof.Machine

/-! ## Descriptors (R290, R291) -/

/-- Kinds of collective. -/
abbrev kAllreduce : Nat := 1
abbrev kReduceScatter : Nat := 2
abbrev kAllgather : Nat := 3
abbrev kAlltoall : Nat := 4
abbrev kRingpass : Nat := 5
abbrev kPermute : Nat := 6

/-- Whether a kind reduces. -/
def CollD.reduces (d : CollD) : Bool := d.kind == kAllreduce || d.kind == kReduceScatter
/-- Format of the accumulator (R55, R293): INT32, FP64 or FP32. -/
def CollD.afmt (d : CollD) : Nat := if d.ifmt = 0x7 then 0x7 else if d.ifmt = 0xE then 0xE else 0x0
/-- Bytes of an accumulator element. -/
def CollD.ab (d : CollD) : Nat := if d.ifmt = 0xE then 8 else 4
/-- Bytes of an input element. -/
def CollD.ib (d : CollD) : Nat := elemBits d.ifmt / 8
/-- Bytes of an output element. -/
def CollD.ob (d : CollD) : Nat := elemBits d.ofmt / 8
/-- Elements of a chunk. -/
def CollD.chunk (d : CollD) : Nat := d.count / d.n
/-- Bytes of a workspace region (R293). -/
def CollD.region (d : CollD) : Nat := (d.count * d.ab + 4095) / 4096 * 4096
/-- Offset of chunk c in workspace region k. -/
def CollD.workAt (d : CollD) (k c : Nat) : Nat := d.work + k * d.region + c * d.chunk * d.ab
/-- Lines of the destination walk. -/
def CollD.lines (d : CollD) : Nat := d.cnt.foldl (· * ·) 1
/-- Local offset of a line of a destination walk, of buffer 0 or 1 (R227). -/
def CollD.lineOff (d : CollD) (buf k : Nat) : Nat :=
  (((if buf = 0 then d.daddr else d.daddr1 : Nat) : Int) + 64 * walkAt d.cnt d.mstr k).toNat
/-- Bytes of the signal block (R293). -/
def CollD.sigLen (d : CollD) : Nat := if d.reduces then 8 * (3 + 4 * d.n) else 64
/-- Destination lines that R293 gives, none for PERMUTE. -/
def CollD.needLines (d : CollD) : Option Nat := match d.kind with
  | 1 => some (d.count * d.ob / 64)
  | 2 => some (d.chunk * d.ob / 64)
  | 3 => some (d.n * d.count / 64)
  | 4 => some (d.count / 64)
  | 5 => some (d.count / 64)
  | _ => none

/-- Local offset of a context's descriptor. -/
def Dev.collOff (s : Dev) (c didx : Nat) : Nat := (s.ctx c).colltab + 128 * didx
/-- The group of a descriptor: device numbers by rank. -/
def Dev.groupOf (s : Dev) (d : CollD) : List Nat := (List.range d.n).map fun i => s.memVal (d.groupAt + 2 * i) 2
/-- PTAB of a descriptor. -/
def Dev.ptabOf (s : Dev) (d : CollD) : List Nat := (List.range d.n).map fun i => s.memVal (d.ptab + 2 * i) 2

/-! ## Cycles of a permutation (R310) -/

/-- The cycle of rank a from a on: at most `fuel` ranks. -/
def cycleFrom (p : List Nat) (a : Nat) : Nat → Nat → List Nat
  | 0, _ => []
  | fuel + 1, x =>
    let y := p.getD x 0
    if y = a then [x] else x :: cycleFrom p a fuel y
/-- The cycle that holds a rank, from its smallest rank on. -/
def cycleOf (p : List Nat) (r : Nat) : List Nat :=
  let c := cycleFrom p r p.length r
  let m := c.foldl min r
  cycleFrom p m p.length m
/-- Whether a table is a permutation. -/
def isPerm (p : List Nat) : Bool := (List.range p.length).all fun i => p.contains i

/-! ## Checks (R292) -/

/-- Whether a range of bytes lies in the job area, or in one Chest window (R292). -/
def inLocal (off len : Nat) : Bool :=
  len == 0 || match region 0 off, region 0 (off + len - 1) with
    | .hbm, .hbm => true
    | .chest a _, .chest b _ => a == b
    | _, _ => false
/-- Whether a range of bytes lies in the job area of HBM. -/
def inJob (off len : Nat) : Bool := decide (off + len ≤ jobEnd)
/-- Whether a line is a whole line of the job area or of a Chest window; of a Chest window alone where `chestOnly` is set. -/
def lineIn (chestOnly : Bool) (off : Nat) : Bool := off % 64 == 0 && match region 0 off with
  | .chest _ _ => true
  | .hbm => !chestOnly
  | _ => false

/-- Formats that a reducing kind takes. -/
def redFmt (f : Nat) : Bool := [0x0, 0x1, 0x2, 0x3, 0x4, 0x7, 0xE].contains f

/-- Whether the engine accepts a descriptor (R292). An element whose sizes or alignments R291 gives otherwise is refused too. -/
def Dev.collOk (s : Dev) (d : CollD) : Bool :=
  let g := s.groupOf d
  let p := s.ptabOf d
  let stamped := d.fud || d.kind == kRingpass
  let fmts := if d.reduces then
      redFmt d.ifmt && redFmt d.ofmt && (d.ifmt == 0x7) == (d.ofmt == 0x7) && (d.ofmt != 0xE || d.ifmt == 0xE)
        && (decide (d.rmode ≤ 4) || d.rmode == 7)
    else d.rop == 0 && d.ifmt == 0 && d.ofmt == 0 && d.rmode == 0 && !d.nonsat && !d.strict
  let sizes := if d.reduces then d.count % d.n == 0 && d.chunk % 64 == 0
    else if d.kind = kAlltoall then d.count % (64 * d.n) == 0 else d.count % 64 == 0
  let srcLen := if d.reduces then d.count * d.ib else d.count
  d.gen == 1 && decide (1 ≤ d.kind) && decide (d.kind ≤ 6) && !d.rsv && d.rop != 3 && decide (d.src ≤ 1) && d.trig != 3
    && (stamped == (d.stamp != 0))
    && decide (d.rank < d.n) && inLocal d.groupAt (2 * d.n) && g.getD d.rank 0x3FFF == s.elveel.devnum
    && g.all (fun x => decide (x < 2 ^ 14)) && decide g.Nodup
    && fmts && sizes && (d.src == 0 || d.reduces) && (d.trig != 2 || d.src == 1)
    && (match d.needLines with
      | some m => d.lines == m && ((List.range m).all fun k =>
          lineIn stamped (d.lineOff 0 k) && (d.kind != kRingpass || lineIn stamped (d.lineOff 1 k)))
      | none => true)
    && (d.src == 1 || d.kind == kRingpass || inLocal d.saddr srcLen)
    && (!d.reduces || (d.work % 4096 == 0 && inJob d.work (5 * d.region)))
    && d.sig % 64 == 0 && inJob d.sig d.sigLen
    && (d.kind != kPermute || (inLocal d.ptab (2 * d.n) && isPerm p &&
      ((cycleOf p d.rank).length ≤ 1 || (cycleOf p d.rank).headD 0 != d.rank || inJob d.stage d.count)))
    && (d.kind != kRingpass || d.aline % 2 == 0)

/-! ## Local memory (R287) -/

/-- The I/O-die port of a line's request: the router's two ports share the engine's traffic by line (R287). -/
def collPort (off : Nat) : Nat := 577 + off / 64 % 2

/-- Local bytes that the engine writes outside its jobs: the signal block (R298). -/
def Dev.collPut (s : Dev) (off : Nat) (bs : Bytes) : Dev := each (linePieces off bs) (fun q s => s.hostPut q.1 q.2) s

/-- Requests that read a range of local memory, one a line. -/
def readReqs (off n : Nat) : List CReq := (linePieces off (zeros n)).map fun q =>
  { id := 0, src := .coll 0 0 0, kind := .read, off := q.1, len := q.2.length }
/-- Requests that write bytes to local memory. -/
def writeReqs (off : Nat) (bs : Bytes) : List CReq := (linePieces off bs).map fun q =>
  { id := 0, src := .coll 0 0 0, kind := .write, off := q.1, len := q.2.length, data := q.2 }

/-- Fault a context for its collective engine. -/
def Dev.collFail (s : Dev) (c fcode didx : Nat) (name : FaultName := .nothing) : Dev := s.faultCtx c fcode ioUnit didx 0 name

/-- Count of a context's collectives in record 0x6050 (R311, R451). -/
def Dev.collCount (s : Dev) (c w : Nat) (n : Nat := 1) : Dev := s.bump 0x6050 c w n

/-- The active collective in a slot. -/
def Dev.collAt (s : Dev) (slot : Nat) : Option Coll := (s.coll.active.find? fun p => p.1 = slot).map (·.2)
/-- Change the active collective with a uid. -/
def Dev.modColl (s : Dev) (uid : Nat) (f : Coll → Coll) : Dev :=
  { s with coll := { s.coll with active := s.coll.active.map fun p => if p.2.uid = uid then (p.1, f p.2) else p } }
/-- The active collective with a uid. -/
def Dev.collOf (s : Dev) (uid : Nat) : Option Coll := (s.coll.active.find? fun p => p.2.uid = uid).map (·.2)
/-- Start a local job of a collective (R287): its requests go to the Concourse, in the class of CLASS. -/
def Dev.collIssue (s : Dev) (uid : Nat) (op : CollOp) (reqs : List CReq) : Dev := match s.collOf uid with
  | none => s
  | some x =>
    let j := x.nextJob
    let s := s.modColl uid fun y => { y with nextJob := j + 1, jobs := y.jobs ++ [{ id := j, op := op, left := reqs.length }] }
    each reqs.zipIdx (fun q s =>
      s.cReq { q.1 with src := .coll uid j q.2, timed := (collD x.desc).cls, port := collPort q.1.off }) s

/-- Set flags of a collective (R61); an enabled one faults the context (R63). -/
def Dev.collFlags (s : Dev) (x : Coll) (f : Nat) : Dev :=
  let s := s.modColl x.uid fun y => { y with flags := joinFlags y.flags f }
  s.iff (trapped x.trapen (BitVec.ofNat 32 f) != 0) fun s => s.collFail x.ctx 0x0003 x.didx

/-! ## Arithmetic (R55, R303) -/

/-- Convert an element exactly to the accumulator format. -/
def toAcc (afmt fmt v : Nat) : Nat := if fmt = afmt then v else (convNum afmt false 0 0 (decodeElem fmt v)).1
/-- Combine two accumulator elements, the left operand first. -/
def CollD.combine (d : CollD) (x y : Nat) : Nat × Nat :=
  let f := d.afmt
  if d.rop = 0 then (if f = 0x7 then addI32 x y else if f = 0xE then add64 x y else add32 0 x y)
  else
    let a := decodeElem f x
    let b := decodeElem f y
    convNum f false 0 0 (if d.rop = 1 then a.max b else a.min b)
/-- Elements of a run of bytes. -/
def elemsOf (w : Nat) (bs : Bytes) : List Nat := (List.range (bs.length / w)).map fun i => fld bs (w * i) w
/-- Combine two runs of accumulator elements: bytes and flags. -/
def CollD.combineAll (d : CollD) (l r : Bytes) : Bytes × Nat :=
  let z := (elemsOf d.ab l).zipWith d.combine (elemsOf d.ab r)
  (z.flatMap fun p => leBytes d.ab p.1, z.foldl (fun f p => f ||| p.2) 0)

/-- Convert a chunk of accumulator elements to the output format (R303): bytes and flags. Where RPITCH is 0 the manual gives an element no
row or column: its bits are those of a free value. -/
def CollD.convert (d : CollD) (seed : W64) (rmode step chunk free : Nat) (bs : Bytes) : Bytes × Nat :=
  let z := (elemsOf d.ab bs).zipIdx.map fun p =>
    let e := chunk * d.chunk + p.2
    let r := if d.rpitch = 0 then free / 2 ^ (32 * p.2) % 2 ^ 32 else srBits seed d.tid (e / d.rpitch) (e % d.rpitch) step 1
    if d.ofmt = d.afmt ∧ d.ofmt = 0x7 then (p.1, 0) else convNum d.ofmt d.nonsat rmode r (decodeElem d.afmt p.1)
  (z.flatMap fun p => leBytes d.ob p.1, z.foldl (fun f p => f ||| p.2) 0)

/-- The converted bytes of a chunk of region P, and the flags of the conversion. -/
def Dev.collResult (s : Dev) (x : Coll) (d : CollD) (c : Nat) (bs : Bytes) : Bytes × Nat :=
  let k := s.ctx x.ctx
  d.convert k.seed (rmodeOf d.rmode k.rmode) x.step c (Config.freeValue x.uid) bs

/-! ## The tree (R300) -/

/-- Levels of the tree of n members. -/
def treeLevels (n : Nat) : Nat := if n ≤ 1 then 0 else Nat.log2 (n - 1) + 1
/-- First rank and size of the block of level k that holds rank r. -/
def treeBlock (n k r : Nat) : Nat × Nat := let lo := r / 2 ^ k * 2 ^ k; (lo, min (2 ^ k) (n - lo))
/-- The holder of chunk c in a block. -/
def treeHolder (b : Nat × Nat) (c : Nat) : Nat := (b.1 : Nat) + (((c : Int) - b.1) % b.2).toNat
/-- Whether the block of level k + 1 that holds rank r merges two blocks. -/
def treeMerges (n k r : Nat) : Bool := let lo := r / 2 ^ (k + 1) * 2 ^ (k + 1); decide (lo + 2 ^ k < n)
/-- The two blocks that the block of level k + 1 around rank r merges. -/
def treeHalves (n k r : Nat) : (Nat × Nat) × (Nat × Nat) :=
  let lo := r / 2 ^ (k + 1) * 2 ^ (k + 1)
  (treeBlock n k lo, treeBlock n k (lo + 2 ^ k))

/-- Whether the engine runs a ring (R302). -/
def Dev.collRing (s : Dev) (c : Nat) (d : CollD) : Bool := d.reduces && !d.strict && !(s.ctx c).strict
/-- Signal word of inbound region (p, side) and chunk c (R294). -/
def CollD.pieceWord (d : CollD) (p side c : Nat) : Nat := 3 + (2 * p + side) * d.n + c
/-- The level at which a reduced chunk is final. -/
def CollD.lastLevel (d : CollD) (ring : Bool) : Nat := if ring then d.n - 1 else treeLevels d.n

/-- Partials that a member holds once it has one of chunk c at level k: blocks with no right neighbour pass through (R300). -/
def passUp (n r c : Nat) : Nat → Nat → List (Nat × Nat)
  | 0, k => [(c, k)]
  | fuel + 1, k =>
    if k < treeLevels n ∧ !treeMerges n k r then (c, k) :: passUp n r c fuel (k + 1) else [(c, k)]

/-- The pieces that member r sends in the tree: each partial that it holds and whose merged block has another holder. -/
def CollD.treeSends (d : CollD) : List Piece :=
  let n := d.n
  let r := d.rank
  (List.range (treeLevels n)).flatMap fun k =>
    if !treeMerges n k r then []
    else
      let b := treeBlock n (k + 1) r
      let mine := treeBlock n k r
      let side := if mine.1 = b.1 then 0 else 1
      (List.range n).filterMap fun c =>
        if treeHolder mine c = r ∧ treeHolder b c ≠ r then
          some { rank := treeHolder b c, src := .mem (d.workAt 0 c), dst := .mem (d.workAt (1 + 2 * (k % 2) + side) c),
                 bytes := d.chunk * d.ab, sigWord := d.pieceWord (k % 2) side c, needP := some (c, k) }
        else none

/-- The pieces that member r sends in the ring (R302). -/
def CollD.ringSends (d : CollD) : List Piece :=
  let n := d.n
  (List.range (n - 1)).map fun t =>
    let c := (d.rank + 2 * n - t - 1) % n
    { rank := (d.rank + 1) % n, src := .mem (d.workAt 0 c), dst := .mem (d.workAt (1 + 2 * (t % 2)) c), bytes := d.chunk * d.ab,
      sigWord := 2, needP := some (c, t), credit := if 2 ≤ t then t - 1 else 0 }

/-- The other ranks, from rank + 1 onward and wrapping (R301, R306). -/
def CollD.others (d : CollD) : List Nat := (List.range (d.n - 1)).map fun i => (d.rank + 1 + i) % d.n

/-- Effective stamp of a destination write, 0 for none (R307). -/
def CollD.eff (d : CollD) : Nat := if d.fud then d.stamp else 0

/-- Segments of a PERMUTE: (offset, bytes). -/
def CollD.segments (d : CollD) : List (Nat × Nat) :=
  (List.range ((d.count + 65535) / 65536)).map fun m => (65536 * m, min 65536 (d.count - 65536 * m))

/-- The rank whose pieces a member receives, and whose CREDIT it grows (R302, R308, R310): its left neighbour, or in a PERMUTE the one that
PTAB maps to it. -/
def CollD.feeder (d : CollD) (perm : List Nat) : Nat :=
  if d.kind = kPermute then ((List.range d.n).find? fun a => perm.getD a 0 == d.rank).getD 0 else (d.rank + d.n - 1) % d.n

/-- The schedule of a member: the pieces that it sends (R300 to R302, R306, R308, R310). -/
def CollD.schedule (d : CollD) (ring : Bool) (perm : List Nat) : List Piece :=
  let n := d.n
  let r := d.rank
  match d.kind with
  | 1 => (if ring then d.ringSends else d.treeSends) ++ d.others.map fun q =>
      { rank := q, src := .result r, dst := .walk 0 (r * d.chunk * d.ob / 64), bytes := d.chunk * d.ob, sigWord := 2, needR := true,
        eff := d.eff }
  | 2 => if ring then d.ringSends else d.treeSends
  | 3 => d.others.map fun q =>
      { rank := q, src := .mem d.saddr, dst := .walk 0 (r * d.count / 64), bytes := d.count, sigWord := 2, eff := d.eff }
  | 4 => d.others.map fun q =>
      { rank := q, src := .mem (d.saddr + q * d.chunk), dst := .walk 0 (r * d.chunk / 64), bytes := d.chunk, sigWord := 2,
        eff := d.eff }
  | 5 => (List.range (n - 1)).map fun t =>
      { rank := (r + 1) % n, src := .walk (t % 2) 0, dst := .walk ((t + 1) % 2) 0, bytes := d.count, sigWord := 2,
        eff := (d.stamp + t) % 15 + 1, credit := t, data := t,
        creditTo := if t + 3 ≤ n then some (d.feeder perm) else none }
  | _ =>
    let cyc := cycleOf perm r
    if cyc.length ≤ 1 then []
    else
      let lead := cyc.headD 0 == r
      d.segments.zipIdx.map fun q =>
        { rank := perm.getD r 0, src := .mem ((if lead then d.stage else d.saddr) + q.1.1), dst := .mem (d.saddr + q.1.1),
          bytes := q.1.2, sigWord := 2, credit := q.2 + 1, creditTo := if lead then none else some (d.feeder perm) }

/-- Arrivals on DATA that a member expects (R301, R302, R306, R308, R310): of a PERMUTE as many as it sends. -/
def CollD.expects (d : CollD) (ring : Bool) (sends : Nat) : Nat := match d.kind with
  | 1 => if ring then 2 * (d.n - 1) else d.n - 1
  | 2 => if ring then d.n - 1 else 0
  | 6 => sends
  | _ => d.n - 1

/-! ## Signals (R294, R296) -/

/-- Local offset of a signal word. -/
def CollD.sigAt (d : CollD) (w : Nat) : Nat := d.sig + 8 * w
/-- The value of a signal word. -/
def Dev.sigVal (s : Dev) (d : CollD) (w : Nat) : Nat := s.memVal (d.sigAt w) 8
/-- Global address of an offset on the device of a rank. -/
def Coll.globalOf (x : Coll) (rank off : Nat) : Nat := 2 ^ 44 * x.group.getD rank 0x3FFF + off
/-- The ATOMIC ADD of 1 to a signal word of a member. -/
def addPkt (addr : Nat) : EPkt :=
  { op := opAtomic, ddev := addrDev addr, len := 16, aop := 0x10, addr := addr, payload := leBytes 16 1 }
/-- Grow the CREDIT of a rank. -/
def Dev.giveCredit (s : Dev) (x : Coll) (d : CollD) (rank : Nat) : Dev :=
  s.request (addPkt (x.globalOf rank (d.sigAt 1))) (.collCredit x.uid)

/-! ## Starting (R292, R297) -/

/-- Requests that write lines of the own destination, stamped where FUD is set (R301, R306, R307). -/
def CollD.destReqs (d : CollD) (first : Nat) (bs : Bytes) : List CReq := (List.range (bs.length / 64)).map fun i =>
  let r : CReq := { id := 0, src := .coll 0 0 0, kind := .write, off := d.lineOff 0 (first + i), data := sub bs (64 * i) 64 }
  if d.fud then { r with eff := some d.stamp, hold := true, waitHeld := true } else r

/-- The own chunk of a reduction is final (R300): it is read, to be converted once and written to the destination. -/
def Dev.collFinal (s : Dev) (uid : Nat) : Dev := match s.collOf uid with
  | none => s
  | some x =>
    let d := collD x.desc
    let under := x.jobs.any fun j => j.op == .result || j.op == .stored
    if x.done_ ∨ !x.have_.contains (d.rank, d.lastLevel (s.collRing x.ctx d)) ∨ under then s
    else s.collIssue uid .result (readReqs (d.workAt 0 d.rank) (d.chunk * d.ab))

/-- A member holds partials: an input of its own, or a sum (R300, R302, R304). -/
def Dev.collHave (s : Dev) (uid : Nat) (l : List (Nat × Nat)) : Dev :=
  (s.modColl uid fun y => { y with have_ := y.have_ ++ l }).collFinal uid
/-- A member holds its own input of chunks (R300, R304). -/
def Dev.collInput (s : Dev) (x : Coll) (d : CollD) (cs : List Nat) : Dev :=
  let ring := s.collRing x.ctx d
  s.collHave x.uid (cs.flatMap fun c => if ring then [(c, 0)] else passUp d.n d.rank c (treeLevels d.n) 0)

/-- What a kind does locally at its start (R297, R306, R310). -/
def Dev.collLocal (s : Dev) (x : Coll) (d : CollD) (perm : List Nat) : Dev := match d.kind with
  | 3 => s.collIssue x.uid .own (readReqs d.saddr d.count)
  | 4 => s.collIssue x.uid .own (readReqs (d.saddr + d.rank * d.chunk) d.chunk)
  | 5 => s
  | 6 =>
    let cyc := cycleOf perm d.rank
    if cyc.length ≤ 1 ∨ cyc.headD 0 ≠ d.rank then s
    else each d.segments.zipIdx (fun q s => s.collIssue x.uid (.stage q.2) (readReqs (d.saddr + q.1.1) q.1.2)) s
  | _ => if d.src = 1 then s else s.collIssue x.uid .source (readReqs d.saddr (d.count * d.ib))

/-- A free slot. -/
def Dev.collSlot (s : Dev) : Option Nat :=
  if s.engineTested 9 0 then none
  else (List.range 64).find? fun k => s.coll.active.all fun p => p.1 != k
/-- Whether a start may go on now: a slot is free, and with CREC a record slot (R287, R366). -/
def Dev.collRoom (s : Dev) (c : Nat) (d : CollD) : Bool :=
  s.collSlot.isSome && (!d.crec || (s.ring (s.ctx c).ring).slotFree)

/-- The start itself, with its descriptor accepted (R297): refused when CTRL holds ABORT. -/
def Dev.collBegin (s : Dev) (c didx step : Nat) : Dev :=
  let b := s.memAt (s.collOff c didx) 128
  let d := collD b
  match s.collSlot with
  | none => s
  | some slot =>
    if bit (s.sigVal d 0) 63 then s.collFail c 0x0011 didx
    else
      let (uid, s) := s.fresh
      let group := s.groupOf d
      let perm := if d.kind = kPermute then s.ptabOf d else []
      let x : Coll := { uid := uid, ctx := c, didx := didx, desc := b, step := step, started := s.now,
                        limit := (s.ctx c).colltoCycles, trapen := (s.ctx c).trapen, group := group,
                        sends := d.schedule (s.collRing c d) perm, feeder := d.feeder perm,
                        done_ := !d.reduces, left_ := s.sigVal d 2,
                        ctrls := d.others.map fun q => 2 ^ 44 * group.getD q 0x3FFF + d.sig }
      let s := { s with coll := { s.coll with active := s.coll.active.set slot x } }
      let s := s.iff d.crec fun s => s.modRing (s.ctx c).ring fun y => { y with reserved := y.reserved + 1 }
      s.collLocal x d perm

/-- Whether a context has a collective table, and its descriptor is accepted (R292). -/
def Dev.collAccepts (s : Dev) (c didx : Nat) : Bool :=
  (s.ctx c).colltab != 0 && s.collOk (collD (s.memAt (s.collOff c didx) 128))
/-- Whether a descriptor's collective is active. -/
def Dev.collActive (s : Dev) (c didx : Nat) : Bool := s.coll.active.any fun p => p.2.ctx == c && p.2.didx == didx

/-- COLL_START (R297, R368): the command completes when its start is accepted. -/
def collStart (r : Nat) (s : Dev) : Dev :=
  match s.ringCtx r with
  | none => s
  | some c =>
    s.start r 0x17 (fun _ => true) fun id e s =>
      let didx := bits (fld e 8 2) 11 0
      let step := fld e 16 7
      if s.collActive c didx ∨ s.coll.waiting.any (fun w => w.1 == c && w.2.1 == didx) then s.done r id 0x52 []
      else if !s.collAccepts c didx then s.done r id 0x51 []
      else
        let s := s.modCtx c fun x => { x with step := step }
        if s.collRoom c (collD (s.memAt (s.collOff c didx) 128)) then
          let s := s.collBegin c didx step
          s.done r id 0 []
        else { s with coll := { s.coll with waiting := s.coll.waiting ++ [(c, didx, step, some (r, id))] } }
def execCollStart (r : Nat) (s : State) : Host.Outcome State Fault Refusal := s.actOn (decide (r < 64)) (collStart r)

/-- A start by bell or by row (R297): a refused one faults the context, COLL_BUSY under the code of R339 that a refused start by bell or row
has (R292). -/
def Dev.collFire (s : Dev) (c didx : Nat) : Dev :=
  if s.collActive c didx then s.collFail c 0x0013 didx
  else if !s.collAccepts c didx then s.collFail c 0x0013 didx
  else if s.collRoom c (collD (s.memAt (s.collOff c didx) 128)) then s.collBegin c didx (s.ctx c).lstep
  else { s with coll := { s.coll with waiting := s.coll.waiting ++ [(c, didx, (s.ctx c).lstep, none)] } }

/-- A start that waited for a slot goes on. -/
def Dev.collResume (s : Dev) (w : Nat × Nat × Nat × Option (Nat × Nat)) : Dev :=
  let (c, didx, step, cmd) := w
  if !s.collRoom c (collD (s.memAt (s.collOff c didx) 128)) then s
  else
    let s := { s with coll := { s.coll with waiting := s.coll.waiting.filter fun v => !(v.1 == c && v.2.1 == didx) } }
    match cmd with
    | some (r, id) =>
      if s.collAccepts c didx then (s.collBegin c didx step).done r id 0 [] else s.done r id 0x51 []
    | none => if s.collAccepts c didx then s.collBegin c didx step else s.collFail c 0x0013 didx

/-- Whether an epilogue of a context offers a contribution row of a collective now (R297, R304). -/
def Dev.rowOffered (s : Dev) (c didx : Nat) : Bool :=
  s.stalls.any fun p => s.stallCtx p.1 == some c && p.2.jobs.any fun j => j.offers == some didx

/-- The latch of a descriptor clears as it fires; a ring of this cycle on a latch that was set sets it again (R91). -/
def CollEng.fired (e : CollEng) (k : Nat × Nat) : CollEng :=
  if e.again.contains k then { e with again := e.again.filter fun l => l != k }
  else { e with latches := e.latches.filter fun l => l != k }

/-- COLLECTIVE_TRIGGER (R297): a start that waits goes on, the latch of TLINE fires, or the first contribution row has reached the
engine. -/
def collectiveTrigger (c didx : Nat) (s : Dev) : Dev :=
  if !s.lit ∨ (s.ctx c).state ≠ .bound then s
  else match s.coll.waiting.find? fun w => w.1 = c ∧ w.2.1 = didx with
    | some w => s.collResume w
    | none =>
      let d := collD (s.memAt (s.collOff c didx) 128)
      if s.coll.latches.contains (c, didx) then
        { s with coll := s.coll.fired (c, didx) }.collFire c didx
      else if d.trig = 2 ∧ !s.collActive c didx ∧ s.rowOffered c didx then s.collFire c didx
      else s
def execCollectiveTrigger (ctx didx : Nat) (s : State) : Host.Outcome State Fault Refusal :=
  s.actOn (decide (ctx < 1024) && decide (didx < 4096)) (collectiveTrigger ctx didx)

/-- A ring on a line sets the latch of each descriptor of a bound context that names it (R91, R297). -/
def Dev.collLatch (line : Nat) (s : Dev) : Dev :=
  let armed := (s.ctxs.filter fun p => p.2.state == .bound && p.2.colltab != 0).flatMap fun p =>
    (List.range 4096).filterMap fun i =>
      let d := collD (s.memAt (p.2.colltab + 128 * i) 128)
      if d.gen == 1 && d.trig == 1 && d.tline == line then some (p.1, i) else none
  let (old, new) := armed.partition fun k => s.coll.latches.contains k
  s.iff (!armed.isEmpty) fun s => { s with coll := { s.coll with latches := s.coll.latches ++ new, again := s.coll.again ++ old } }

/-! ## Rows (R304, R305) -/

/-- Elements of a row in the accumulator format. -/
def CollD.rowAcc (d : CollD) (fmt : Nat) (data : Bytes) : Bytes :=
  (List.range 32).flatMap fun i => leBytes d.ab (toAcc d.afmt fmt (unpackElem (elemBits fmt) data i))

/-- COLL_ROW_ACCEPT (R304, R305): the oldest row of a collective's inbox that is not yet on its way is converted and written into region P.
A row of a chunk that is complete changes nothing. -/
def collRowAccept (c didx : Nat) (s : Dev) : Dev :=
  let mine (r : CRow) : Bool := r.ctx == c && r.didx == didx && r.job.isNone
  match s.coll.rows.find? mine, (s.coll.active.find? fun p => p.2.ctx == c && p.2.didx == didx) with
  | some r, some (_, x) =>
    let d := collD x.desc
    let e := r.row * d.rpitch + r.col
    let k := e / d.chunk
    let got : Nat := x.rowsIn.get k
    if e % 32 ≠ 0 ∨ d.count < e + 32 then s.collFail c 0x0012 didx
    else if d.chunk / 32 ≤ got then { s with coll := { s.coll with rows := dropFirst mine s.coll.rows } }
    else
      let s := { s with coll := { s.coll with rows := modFirst mine (fun y => { y with job := some x.nextJob }) s.coll.rows } }
      (s.modColl x.uid fun y => { y with rowsIn := y.rowsIn.set k (got + 1) }).collIssue x.uid (.row k)
        (writeReqs (d.work + e * d.ab) (d.rowAcc r.fmt r.data))
  | _, _ => s
def execCollRowAccept (ctx didx : Nat) (s : State) : Host.Outcome State Fault Refusal :=
  s.actOn (decide (ctx < 1024) && decide (didx < 4096)) (collRowAccept ctx didx)

/-! ## Sending (R289, R296) -/

/-- Whether a piece's data stands at the member. -/
def Coll.dataReady (x : Coll) (p : Piece) : Bool :=
  (match p.needP with
    | some q => x.have_.contains q
    | none => true) && (!p.needR || x.done_)

/-- Requests that read the bytes of a piece. -/
def CollD.pieceReqs (d : CollD) (p : Piece) : List CReq := match p.src with
  | .mem off => readReqs off p.bytes
  | .result c => readReqs (d.workAt 0 c) (d.chunk * d.ab)
  | .walk buf first => (List.range (p.bytes / 64)).flatMap fun i => readReqs (d.lineOff buf (first + i)) 64

/-- Lines of a piece at its receiver: (offset, data). -/
def CollD.pieceLines (d : CollD) (p : Piece) (bs : Bytes) : List (Nat × Bytes) := match p.dst with
  | .mem off => linePieces off bs
  | .walk buf first => (List.range (bs.length / 64)).map fun i => (d.lineOff buf (first + i), sub bs (64 * i) 64)
  | .result _ => []

/-- Join consecutive runs of bytes that lie in one 4 KiB page: one PUT each (R251). -/
def joinRuns : List (Nat × Bytes) → List (Nat × Bytes)
  | [] => []
  | (o, b) :: r => match joinRuns r with
    | (o', b') :: r' => if o + b.length = o' ∧ o / 4096 = o' / 4096 then (o, b ++ b') :: r' else (o, b) :: (o', b') :: r'
    | [] => [(o, b)]
/-- FLOW values of runs: one a page, in rotation (R289). -/
def flowsOf : Nat → Option Nat → List (Nat × Bytes) → List Nat
  | _, _, [] => []
  | f, page, (o, _) :: r =>
    let f' := if page = some (o / 4096) then f else if page.isNone then 0 else (f + 1) % 4
    f' :: flowsOf f' (some (o / 4096)) r

/-- The PUT of one run of a piece. -/
def Coll.putPkt (x : Coll) (p : Piece) (flow : Nat) (run : Nat × Bytes) : EPkt :=
  let st := p.eff != 0
  { op := opPut, ddev := x.group.getD p.rank 0x3FFF, flags := 2 * b2n st + 4 * b2n st + 16 * b2n st, stamp := p.eff,
    len := run.2.length, addr := x.globalOf p.rank run.1, flow := flow, payload := run.2 }

/-- COLL_PIECE_SEND (R289, R296): the first piece that its data, DATA and CREDIT let go is read, and its PUTs follow. -/
def collPieceSend (slot : Nat) (s : Dev) : Dev := match s.collAt slot with
  | none => s
  | some x =>
    let d := collD x.desc
    let credit := s.sigVal d 1
    let data := s.sigVal d 2
    let ok (p : Piece) : Bool := p.state == 0 && x.dataReady p && decide (p.credit ≤ credit) && decide (p.data ≤ data)
    match x.sends.findIdx? ok with
    | none => s
    | some i =>
      let p := x.sends.getD i default
      let s := s.modColl x.uid fun y => { y with sends := y.sends.modify i fun q => { q with state := 1, since := none } }
      ((s.collCount x.ctx 17).collCount x.ctx 19 p.bytes).collIssue x.uid (.piece i) (d.pieceReqs p)
/-- The collective engine meets a parity error (R454). -/
def collParity (s : Dev) : Dev := if s.lit then s.engineParity 9 0 ioUnit (s.coll.active.map fun p => p.2.ctx) else s
def execCollPieceSend (slot : EngineTurn) (s : State) : Host.Outcome State Fault Refusal :=
  s.actOn (decide (slot.at_ < 64)) (if slot.parity then collParity else collPieceSend slot.at_)

/-- The bytes of piece i have been read: its PUTs leave (R289). -/
def Dev.collPuts (s : Dev) (x : Coll) (d : CollD) (i : Nat) (bs : Bytes) : Dev :=
  let p := x.sends.getD i default
  let bs := match p.src with
    | .result c => (s.collResult x d c bs).1
    | _ => bs
  let runs := joinRuns (d.pieceLines p bs)
  let s := s.modColl x.uid fun y => { y with
    sends := y.sends.modify i fun q => { q with state := if runs.isEmpty then 2 else 1, left := runs.length } }
  each (runs.zip (flowsOf 0 none runs)) (fun q s => s.request (x.putPkt p q.2 q.1) (.collPut x.uid i)) s

/-- A reply other than OK faults the context with COLL_FAULT, which names the collective, the peer and the status (R289). -/
def Dev.collStatus (s : Dev) (x : Coll) (peer st : Nat) : Dev := s.collFail x.ctx 0x0010 x.didx (.coll x.didx peer st)

/-- The COMP of a PUT of a piece (R289, R308, R310): after the last, the CREDIT of the rank that waits for it grows. -/
def Dev.collPutReply (s : Dev) (uid i st : Nat) : Dev := match s.collOf uid with
  | none => s
  | some x =>
    let p := x.sends.getD i default
    if st ≠ 0 then s.collStatus x (x.group.getD p.rank 0x3FFF) st
    else
      let last := p.left == 1
      let s := s.modColl uid fun y => { y with
        sends := y.sends.modify i fun q => { q with left := q.left - 1, state := if last then 2 else q.state } }
      match p.creditTo with
      | some r => s.iff last fun s => s.giveCredit x (collD x.desc) r
      | none => s

/-- The piece whose signal goes next: the first whose COMPs are all in. The signals of one word of one member go in the order of the
pieces, so that the receiver can tell a ring step from what follows it (R302; DESIGN CHOICE, notes/assumptions/66.md). -/
def Coll.signalNext (x : Coll) : Option Nat := (List.range x.sends.length).find? fun i =>
  let p := x.sends.getD i default
  p.state == 2 && (x.sends.take i).all fun q => q.rank != p.rank || q.sigWord != p.sigWord || decide (3 ≤ q.state)

/-- COLL_SIGNAL_SEND (R296): one ATOMIC ADD for the oldest piece whose COMPs are all in. -/
def collSignalSend (slot : Nat) (s : Dev) : Dev := match s.collAt slot with
  | none => s
  | some x => match x.signalNext with
    | none => s
    | some i =>
      let p := x.sends.getD i default
      let s := s.modColl x.uid fun y => { y with sends := y.sends.modify i fun q => { q with state := 3 } }
      s.request (addPkt (x.globalOf p.rank ((collD x.desc).sigAt p.sigWord))) (.collSig x.uid i)
def execCollSignalSend (slot : Nat) (s : State) : Host.Outcome State Fault Refusal := s.actOn (decide (slot < 64)) (collSignalSend slot)

/-- The reply to a signal or a credit (R289). -/
def Dev.collSigReply (s : Dev) (uid : Nat) (piece : Option Nat) (st : Nat) : Dev := match s.collOf uid with
  | none => s
  | some x =>
    if st ≠ 0 then s.collStatus x (match piece with
      | some i => x.group.getD (x.sends.getD i default).rank 0x3FFF
      | none => x.group.getD (x.feeder) 0x3FFF) st
    else match piece with
      | some i => s.modColl uid fun y => { y with sends := y.sends.modify i fun q => { q with state := 4 } }
      | none => s

/-! ## Arrivals (R296, R300 to R302, R308) -/

/-- Add a left and a right operand into region P, chunk c (R301): the operands are read, their sum is written, and the partials then stand.
words: the signal words whose pieces the add consumes. The residue check of a sum may fail (R59). -/
def Dev.collAdd (s : Dev) (x : Coll) (d : CollD) (c left right : Nat) (newHave : List (Nat × Nat)) (words : List Nat) (credit : Bool)
    (residueOk : Bool) : Dev :=
  let n := d.chunk * d.ab
  if !residueOk && d.rop == 0 then (s.collFail x.ctx 0x0002 x.didx).unitError 0x01 9 0 [x.ctx] 0x0002 0
  else
    let t := s.now
    let s := s.modColl x.uid fun y => { y with
      used := words.foldl (fun u w => u.mod w (· + 1)) y.used, lastIn := words.foldl (fun u w => u.set w t) y.lastIn }
    (s.collCount x.ctx 18 words.length).collIssue x.uid (.operands c newHave credit) (readReqs left n ++ readReqs right n)

/-- The operands of an add have been read (R301). -/
def Dev.collSum (s : Dev) (x : Coll) (d : CollD) (c : Nat) (newHave : List (Nat × Nat)) (credit : Bool) (bs : Bytes) : Dev :=
  let n := d.chunk * d.ab
  let (v, f) := d.combineAll (bs.take n) (bs.drop n)
  let s := (s.bump 0x6080 1 1 d.chunk).iff (d.ab == 8) fun s => s.bump 0x6080 1 2 d.chunk
  (s.collIssue x.uid (.sum c newHave credit) (writeReqs (d.workAt 0 c) v)).collFlags x f

/-- Whether an add that gives a partial is under way. -/
def Coll.adding (x : Coll) (q : Nat × Nat) : Bool := x.jobs.any fun j => match j.op with
  | .operands _ l _ => l.contains q
  | .sum _ l _ => l.contains q
  | _ => false

/-- A piece of the tree is consumed: the first level of its parity whose merge the member holds and has not done, once both operands are
at hand. -/
def Dev.treeArrival (s : Dev) (x : Coll) (d : CollD) (word : Nat) (residueOk : Bool) : Dev :=
  let n := d.n
  let r := d.rank
  let c := (word - 3) % n
  let p := (word - 3) / n / 2
  let new (w : Nat) : Bool := decide ((x.used.get w : Nat) < s.sigVal d w)
  let open_ (k : Nat) : Bool := k % 2 == p && treeMerges n k r && treeHolder (treeBlock n (k + 1) r) c == r
    && !x.have_.contains (c, k + 1) && !x.adding (c, k + 1)
  match (List.range (treeLevels n)).find? open_ with
  | none => s
  | some k =>
    let (l, h) := treeHalves n k r
    let ownL := treeHolder l c == r
    let ownR := treeHolder h c == r
    let wl := d.pieceWord p 0 c
    let wr := d.pieceWord p 1 c
    if (if ownL then x.have_.contains (c, k) else new wl) ∧ (if ownR then x.have_.contains (c, k) else new wr) then
      let side (own : Bool) (i : Nat) : Nat := if own then d.workAt 0 c else d.workAt (1 + 2 * p + i) c
      s.collAdd x d c (side ownL 0) (side ownR 1) (passUp n r c (treeLevels n) (k + 1))
        ((if ownL then [] else [wl]) ++ if ownR then [] else [wr]) false residueOk
    else s

/-- A step of the ring is consumed (R302), once the member's own input of the chunk stands and the step before is done. -/
def Dev.ringArrival (s : Dev) (x : Coll) (d : CollD) (residueOk : Bool) : Dev :=
  let n := d.n
  let t := x.ringIn
  let c := (d.rank + 2 * n - t - 2) % n
  if !x.have_.contains (c, 0) then s
  else
    let s := s.modColl x.uid fun y => { y with ringIn := t + 1 }
    s.collAdd x d c (d.workAt (1 + 2 * (t % 2)) c) (d.workAt 0 c) [(c, t + 1)] [2] (decide (t + 3 ≤ n)) residueOk

/-- Ring steps of the left neighbour that have arrived (R302): the first n - 1 signals that it sends on DATA. -/
def Coll.ringGot (x : Coll) (d : CollD) : Nat := min x.left_ (d.n - 1)

/-- COLL_PIECE_ARRIVAL (R296): a signal word stands above what has been consumed of it, and the next piece of it is consumed. -/
def collPieceArrival (slot word : Nat) (residueOk : Bool) (s : Dev) : Dev := match s.collAt slot with
  | none => s
  | some x =>
    let d := collD x.desc
    let used := (x.used.get word : Nat)
    let ring := s.collRing x.ctx d
    if s.sigVal d word ≤ used ∨ word < 2 then s
    else if 3 ≤ word then
      if d.reduces ∧ word < 3 + 4 * d.n then s.treeArrival x d word residueOk else s
    else if ring ∧ x.ringIn < x.ringGot d then s.ringArrival x d residueOk
    else if ring ∧ s.sigVal d 2 ≤ used - x.ringIn + x.ringGot d then s
    else
      let t := s.now
      let s := (s.modColl x.uid fun y => { y with used := y.used.set 2 (used + 1), lastIn := y.lastIn.set 2 t }).collCount x.ctx 18
      s.iff (d.kind == kRingpass) fun s => s.ringLine (d.aline + (used + 1) % 2)
def execCollPieceArrival (slot word : Nat) (residueOk : Bool) (s : State) : Host.Outcome State Fault Refusal :=
  s.actOn (decide (slot < 64)) (collPieceArrival slot word residueOk)

/-! ## What follows a local job -/

/-- A local job is over: what it was for goes on. -/
def Dev.collGoes (s : Dev) (uid job : Nat) : Dev := match s.collOf uid with
  | none => s
  | some x => match x.jobs.find? fun j => j.id = job with
    | none => s
    | some j =>
      let d := collD x.desc
      let bs := j.data.flatMap (·.2)
      let s := s.modColl uid fun y => { y with jobs := y.jobs.filter fun k => k.id != job }
      match j.op with
      | .source => s.collIssue uid .input (writeReqs d.work ((elemsOf d.ib bs).flatMap fun v => leBytes d.ab (toAcc d.afmt d.ifmt v)))
      | .input => s.collInput x d (List.range d.n)
      | .own => s.collIssue uid .dest (d.destReqs (d.rank * (if d.kind = kAllgather then d.count else d.chunk) / 64) bs)
      | .dest => s
      | .stage m => s.collIssue uid (.staged m) (writeReqs (d.stage + 65536 * m) bs)
      | .staged _ => s.giveCredit x d x.feeder
      | .piece i => s.collPuts x d i bs
      | .result =>
        let (v, f) := s.collResult x d d.rank bs
        (s.collIssue uid .stored (d.destReqs (if d.kind = kAllreduce then d.rank * d.chunk * d.ob / 64 else 0) v)).collFlags x f
      | .stored => s.modColl uid fun y => { y with done_ := true }
      | .operands c l credit => s.collSum x d c l credit bs
      | .sum _ l credit => (s.collHave uid l).iff credit fun s => s.giveCredit x d x.feeder
      | .row k =>
        let written (r : CRow) : Bool := r.ctx == x.ctx && r.didx == x.didx && r.job == some job
        let s := { s with coll := { s.coll with rows := s.coll.rows.filter fun r => !written r } }
        let whole := (x.rowsIn.get k : Nat) == d.chunk / 32 && x.jobs.all fun i => i.id == job || i.op != .row k
        s.iff whole fun s => s.collInput x d [k]

/-- The reply of part k of a local job: with the last, the job is over. One other than OK faults the context (R289). -/
def Dev.collReply (s : Dev) (uid job k st : Nat) (data : Bytes) : Dev := match s.collOf uid with
  | none => s
  | some x =>
    if st ≠ 0 then s.collStatus x s.elveel.devnum st
    else match x.jobs.find? fun j => j.id = job with
      | none => s
      | some j =>
        let s := s.modColl uid fun y => { y with
          jobs := modFirst (fun i => i.id = job) (fun i => { i with left := i.left - 1, data := i.data.set k data }) y.jobs }
        s.iff (j.left == 1) fun s => s.collGoes uid job

/-! ## Completion, abort and timeout (R298, R299) -/

/-- Whether a request of a collective has not had its reply. -/
def TxnSrc.ofColl (uid : Nat) : TxnSrc → Bool
  | .collPut u _ => u == uid
  | .collSig u _ => u == uid
  | .collCredit u => u == uid
  | _ => false
/-- Whether every request of a collective has had its reply. -/
def Dev.collQuiet (s : Dev) (x : Coll) : Bool :=
  x.jobs.isEmpty && (s.elveel.outq.all fun o => !o.src.ofColl x.uid) && s.elveel.txns.all fun t => !t.src.ofColl x.uid
/-- Whether a collective is over (R298). -/
def Dev.collOver (s : Dev) (x : Coll) : Bool :=
  let d := collD x.desc
  x.done_ && (x.sends.all fun p => p.state == 4)
    && decide (d.expects (s.collRing x.ctx d) x.sends.length ≤ (x.used.get 2 : Nat)) && s.collQuiet x

/-- COLL_COMPLETE (R298). -/
def collComplete (slot : Nat) (s : Dev) : Dev := match s.collAt slot with
  | none => s
  | some x =>
    let d := collD x.desc
    if !s.collOver x then s
    else
      let r := (s.ctx x.ctx).ring
      let s := s.collPut d.sig (zeros d.sigLen)
      let s := s.joinSummary x.ctx x.flags
      let s := s.iff d.doneb fun s => s.ringLine d.dline
      let s := s.iff d.crec fun s =>
        (s.modRing r fun y => { y with reserved := y.reserved - 1 }).record r 3 0 0 x.didx (result [(32, 4, x.flags.toNat)])
      { s with coll := { s.coll with active := s.coll.active.filter fun p => p.1 != slot } }.collCount x.ctx 13
def execCollComplete (slot : Nat) (s : State) : Host.Outcome State Fault Refusal := s.actOn (decide (slot < 64)) (collComplete slot)

/-- COLL_ABORT (R299): CTRL holds ABORT. -/
def collAbort (slot : Nat) (s : Dev) : Dev := match s.collAt slot with
  | none => s
  | some x =>
    if bit (s.sigVal (collD x.desc) 0) 63 then (s.collCount x.ctx 15).collFail x.ctx 0x0011 x.didx else s
def execCollAbort (slot : Nat) (s : State) : Host.Outcome State Fault Refusal := s.actOn (decide (slot < 64)) (collAbort slot)

/-- The pieces of the tree that a member waits for: the signal word, the level and the sender (R300). -/
def Dev.treeWaits (s : Dev) (x : Coll) (d : CollD) : List (Nat × Nat × Nat) :=
  let n := d.n
  let r := d.rank
  (List.range n).flatMap fun c => [0, 1].flatMap fun p =>
    match (List.range (treeLevels n)).find? fun k => k % 2 == p && treeMerges n k r && treeHolder (treeBlock n (k + 1) r) c == r
        && !x.have_.contains (c, k + 1) && !x.adding (c, k + 1) with
    | none => []
    | some k =>
      let (l, h) := treeHalves n k r
      [(0, treeHolder l c), (1, treeHolder h c)].filterMap fun q =>
        let w := d.pieceWord p q.1 c
        if q.2 ≠ r ∧ s.sigVal d w ≤ x.used.get w then some (w, k, q.2) else none
/-- The piece on DATA that a member waits for: the word, the step and the sender. Of the pieces that several ranks send on DATA the model
names the rank that is next in the order of R301 (DESIGN CHOICE, notes/assumptions/66.md). -/
def Dev.dataWaits (s : Dev) (x : Coll) (d : CollD) : List (Nat × Nat × Nat) :=
  let used := (x.used.get 2 : Nat)
  let ring := s.collRing x.ctx d
  if d.expects ring x.sends.length ≤ used ∨ used < s.sigVal d 2 then []
  else if (ring ∧ x.ringIn < d.n - 1) ∨ d.kind = kRingpass then [(2, used, (d.rank + d.n - 1) % d.n)]
  else if d.kind = kPermute then [(2, used, x.feeder)]
  else [(2, used, d.others.getD (used - x.ringIn) 0)]
/-- What a collective waits for (R299): since when, the step, and the rank. Pieces from the start or the latest consumption of their word,
CREDIT from the first cycle in which it held a send back, and replies from their requests. -/
def Dev.collWaits (s : Dev) (x : Coll) : List (Nat × Nat × Nat) :=
  let d := collD x.desc
  let rankOf (i : Nat) : Nat := (x.sends.getD i default).rank
  let wait (t : TxnSrc) (at_ : Nat) : Option (Nat × Nat × Nat) := match t with
    | .collPut u i => if u = x.uid then some (at_, i, rankOf i) else none
    | .collSig u i => if u = x.uid then some (at_, i, rankOf i) else none
    | .collCredit u => if u = x.uid then some (at_, x.ringIn, x.feeder) else none
    | _ => none
  let pieces := (if d.reduces && !s.collRing x.ctx d then s.treeWaits x d else []) ++ s.dataWaits x d
  (pieces.map fun q => (max x.started (x.lastIn.get q.1), q.2))
    ++ (x.sends.zipIdx.filterMap fun q => q.1.since.map fun t => (t, q.2, q.1.rank))
    ++ (s.elveel.outq.filterMap fun o => wait o.src o.at_) ++ (s.elveel.txns.filterMap fun t => wait t.src t.at_)
    ++ s.conc.reqs.filterMap fun r => match r.src with
      | .coll u _ _ => if u = x.uid then some (r.at_, 0, d.rank) else none
      | _ => none

/-- COLL_TIMEOUT (R299): the event names the collective, and of the wait that is too long, the step and the rank. -/
def collTimeout (slot : Nat) (s : Dev) : Dev := match s.collAt slot with
  | none => s
  | some x => match (s.collWaits x).find? fun w => w.1 + x.limit < s.now with
    | none => s
    | some (_, step, rank) => (s.collCount x.ctx 16).collFail x.ctx 0x000F x.didx (.collWait x.didx step rank)
def execCollTimeout (slot : Nat) (s : State) : Host.Outcome State Fault Refusal := s.actOn (decide (slot < 64)) (collTimeout slot)

/-- One cycle of an active collective: jobs that had nothing to ask for go on; a ready send that waits on CREDIT or DATA keeps the start of
its wait and is counted (R299, R311). -/
def Dev.collStep (s : Dev) (x : Coll) : Dev :=
  let d := collD x.desc
  let s := each (x.jobs.filter fun j => j.left == 0) (fun j s => s.collGoes x.uid j.id) s
  let noCredit (q : Piece) : Bool := q.state == 0 && x.dataReady q && decide (s.sigVal d 1 < q.credit)
  let noData (q : Piece) : Bool := q.state == 0 && x.dataReady q && decide (s.sigVal d 2 < q.data)
  let s := s.iff (x.sends.any noCredit) fun s => s.collCount x.ctx 20
  let s := s.iff (x.sends.any noData) fun s => s.collCount x.ctx 21
  let t := s.now
  let mark (q : Piece) : Piece := { q with since := if noCredit q || noData q then some (q.since.getD t) else none }
  s.modColl x.uid fun y => { y with sends := y.sends.map mark }

/-- One cycle of the engine's waits (R299, R311): starts that wait for a slot, active collectives, and rows that wait for inbox room. -/
def Dev.collTick (s : Dev) : Dev :=
  let s := s.iff (!s.coll.waiting.isEmpty && s.collSlot.isNone) fun s => s.bump 0x6080 1 0 s.coll.waiting.length
  let s := each s.coll.active (fun p s => s.collStep p.2) s
  let full := s.coll.active.filter fun p => p.2.fromRows && !s.inboxRoom p.2.ctx p.2.didx
  each full (fun p s => s.collCount p.2.ctx 22 (s.stalls.filter fun q =>
    s.stallCtx q.1 == some p.2.ctx && q.2.jobs.any fun j => j.offers == some p.2.didx).length) s

end Sys2Proof.Machine
end

