-- ==== Sys2Proof/Machine/Fabric.lean ====
section
/-! DEFINITION. Requests at the own router, replies, transit (R271, R273, R277 to R280) and the Concourse's replies (R235): who gets
what a request brings back. -/
namespace Sys2Proof.Machine

/-! ## Checks of a request at its target (R250, R251) -/

/-- Space of a packet's address (R249). -/
def EPkt.space (e : EPkt) : Nat := bits e.addr 63 62

/-- Whether LEN, the alignment and the payload of a memory request fit its opcode (R251). -/
def EPkt.shapeOk (e : EPkt) : Bool :=
  let off := bits e.addr 43 0
  let small := [4, 8, 16, 32, 64].contains e.len && off % e.len == 0
  let big := decide (64 ≤ e.len) && decide (e.len ≤ 4096) && e.len % 64 == 0 && off % 64 == 0 && decide (off % 4096 + e.len ≤ 4096)
  (if hasPayload e.op then e.payload.length == e.len else e.payload.isEmpty) && match e.op with
    | 0x01 => small
    | 0x02 => small
    | 0x03 => e.len == 16
    | 0x04 => e.len == 64 && off % 64 == 0
    | 0x05 => big
    | 0x06 => big
    | _ => false

/-- The Concourse request of part k of a packet that is served (R252), with a peer's class (R216): by the router's two ports, even lines
through the one and odd lines through the other (DESIGN CHOICE, notes/assumptions/67.md). -/
def EPkt.part (e : EPkt) (id k : Nat) : CReq :=
  let f (i : Nat) : Bool := bit e.flags i
  let base : CReq := { id := 0, src := .remote id k, kind := .read, off := bits e.addr 43 0 + 64 * k, timed := f 0,
                       port := 577 + (bits e.addr 43 0 / 64 + k) % 2,
                       cls := .peer, eff := if f 1 then some (e.stamp % 16) else none, hold := f 2, release := f 3,
                       waitHeld := f 4 }
  match e.op with
  | 0x01 => { base with len := e.len }
  | 0x02 => { base with kind := .write, len := e.len, data := e.payload }
  | 0x03 => { base with kind := .atomic, aop := e.aop % 16, aw := bit e.aop 4, op1 := fld e.payload 0 8, op2 := fld e.payload 8 8 }
  | 0x04 => { base with kind := .lineAdd, data := e.payload, afmt := e.aux % 16 }
  | 0x05 => { base with kind := .write, data := sub e.payload (64 * k) 64 }
  | _ => base
/-- Parts of a served packet: lines of a PUT or a GET. -/
def EPkt.parts (e : EPkt) : Nat := if e.op = opPut ∨ e.op = opGet then e.len / 64 else 1

/-- The reply opcode of a request (R251). -/
def replyOp (op : Nat) : Nat := match op with
  | 0x01 => opLoadR
  | 0x03 => opAtomR
  | 0x06 => opGetR
  | 0x09 => opMgmtR
  | _ => opComp
/-- The reply to a request (R260, R270): data go with OK alone. A GET_R keeps the VC that AUX selects until it is sent. -/
def EPkt.reply (e : EPkt) (own st : Nat) (data : Bytes) : EPkt :=
  let d := if st = 0 then data else []
  { op := replyOp e.op, ddev := e.sdev, sdev := own, dinc := e.sinc, sinc := e.sinc, tid := e.tid, len := d.length,
    stamp := 16 * st, flow := e.flow, aux := if e.op = opGet then e.aux % 2 else 0, payload := d }
/-- Queue a reply at the own router. port: the port to a MGMT_ONLY peer. -/
def Dev.sendReply (s : Dev) (e : EPkt) (st : Nat) (data : Bytes) (port : Option Nat := none) : Dev :=
  let id := s.elveel.nextOut
  s.modElv fun v => { v with nextOut := id + 1, outq := v.outq ++
    [{ id := id, pkt := e.reply s.elveel.devnum st data, src := .none, at_ := s.now, port := port }] }

/-- Serve a memory request at the Concourse (R252). own: the source of a request of the device's own to a local address (R249). -/
def Dev.serve (s : Dev) (e : EPkt) (own : Option TxnSrc) : Dev :=
  let id := s.elveel.nextSrv
  let n := e.parts
  let s := s.modElv fun v => { v with nextSrv := id + 1, served := v.served ++ [{ id := id, pkt := e, parts := n, own := own }] }
  each (List.range n) (fun k s => s.cReq (e.part id k)) s

/-! ## What a reply brings (R235, R262, R279, R289) -/

/-- The bells that waited for a PUT of an epilogue SEND alone leave now (R279). failed: the PUT had no OK, and its bell is not rung. -/
def Dev.bellsAfter (s : Dev) (req : Nat) (failed : Bool) : Dev :=
  let l := s.elveel.bellWait.filterMap fun w =>
    if !w.1.contains req then some w else if failed then none else some (w.1.filter fun i => i != req, w.2)
  let go := l.filter fun w => w.1.isEmpty
  let s := s.modElv fun v => { v with bellWait := l.filter fun w => !w.1.isEmpty,
                                      sendIds := v.sendIds.filter fun p => p.2 != req }
  each go (fun w s => s.request w.2 .none) s

/-- A reply for a line of a transfer (R229, R235): the data of a read go to the Chest. -/
def Dev.xferReply (s : Dev) (b id k st : Nat) (data : Bytes) (flags : BitVec 32) (late : Option (Nat × Nat)) : Dev := match s.xinst b id with
  | none => s
  | some i =>
    let d := xferD i.desc
    if st = 0 ∧ d.dir = 0 then s.xferData b id k data late
    else s.lineReply b id k st flags

/-- A request of the router's own has its reply: of a remote transaction, or of a local request that the router served. req is the
request's id at the router. -/
def Dev.servedOwn (s : Dev) (src : TxnSrc) (req st : Nat) : Dev := match src with
  | .epiSend _ _ _ _ => s.bellsAfter req (st != 0)
  | .collPut uid i => s.collPutReply uid i st
  | .collSig uid i => s.collSigReply uid (some i) st
  | .collCredit uid => s.collSigReply uid none st
  | _ => s

/-- A part of a served request has its reply: with the last, the request does (R277). -/
def Dev.servedPart (s : Dev) (id k st : Nat) (data : Bytes) : Dev :=
  match s.elveel.served.find? fun v => v.id = id with
  | none => s
  | some v =>
    let v : Served := { v with parts := v.parts - 1, status := if v.status = 0 then st else v.status, data := v.data.set k data }
    if v.parts ≠ 0 then s.modElv fun e => { e with served := e.served.map fun w => if w.id = id then v else w }
    else
      let s := s.modElv fun e => { e with served := e.served.filter fun w => w.id != id }
      match v.own with
      | some src => s.servedOwn src v.pkt.tid v.status
      | none =>
        let all := (List.range v.pkt.parts).flatMap fun i => v.data.get i
        let d := if v.pkt.op = opAtomic then sub all 0 8 else all
        s.sendReply v.pkt v.status (if v.pkt.op = opLoad ∨ v.pkt.op = opGet ∨ v.pkt.op = opAtomic then d else [])

/-- The reply of a Concourse request goes to the one that issued it. late: the bound that the row of a timed read has (R223). -/
def Dev.replyTo (s : Dev) (src : CSrc) (st : Nat) (data : Bytes) (flags : BitVec 32) (late : Option (Nat × Nat)) : Dev := match src with
  | .xfer b i k => s.xferReply b i k st data flags late
  | .trans b i key => s.transReply b i key st data
  | .coll uid job k => s.collReply uid job k st data
  | .porterCopy j off => s.copyReply j off st data
  | .porterAtomic r id => s.atomicReply r id st data flags
  | .remote p k => s.servedPart p k st data

/-- Whether a reply can pass now (R217, R219): one without data, or of an I/O-die port, does; data pass a block port when its arbitration
picks them, one flit a cycle. -/
def Dev.replyGoes (s : Dev) (r : CReq) : Bool :=
  if s.dataReply r then
    s.dirFree (portKey r.port 1) && (pickNext (s.conc.turns.get (portKey r.port 1)) (s.inWaits r.port)).any fun q => q.id == r.id
  else (s.leavesAt r).isNone
/-- The data of a reply take their block port's cycle. -/
def Dev.replyPasses (s : Dev) (r : CReq) : Dev :=
  s.iff (s.dataReply r) fun s => (s.granted (portKey r.port 1) (s.inWaits r.port) r).pass r.port 1 r.timed

/-- CONCOURSE_REPLY (R235): the reply that the port's arbitration lets pass arrives. -/
def concourseReply (id : Nat) (s : Dev) : Dev := match s.creq id with
  | none => s
  | some r => match r.status with
    | none => s
    | some st =>
      if !s.replyGoes r then s
      else (((s.replyPasses r).modConc fun c => { c with reqs := c.reqs.filter fun q => q.id != id }).countLate r).replyTo
        r.src st r.result r.flags r.lateMark
def execConcourseReply (id : Nat) (s : State) : Host.Outcome State Fault Refusal := s.act (concourseReply id)

/-- A remote transaction completes with a status (R262, R280). The bound of a timed read goes with its data (R266). -/
def Dev.remoteDone (s : Dev) (src : TxnSrc) (req st : Nat) (data : Bytes) (late : Option Nat := none) : Dev := match src with
  | .conc c => s.replyTo c st data 0 (late.map fun t => (t, 160))
  | x => s.servedOwn x req st

/-! ## Runner packets at the router (R203, R277) -/

/-- The block where a column's gateway stands, for a unit: row 0 of its column (R198). -/
def Dev.gateway (s : Dev) (u : Nat) : Nat := blkAt (blkX ((s.unitHome u).getD 0)) 0

/-- A runner packet of the device's own that the router refuses becomes an event at its gateway (R203); an event is dropped and
counted. -/
def Dev.runnerBack (s : Dev) (p : RPkt) (ecode : Nat) : Dev := s.dropWith (s.gateway p.sunit) p ecode

/-- The event that goes back to a peer for its runner packet (R203); an event gives none. -/
def Dev.eventTo (s : Dev) (p : RPkt) (ecode : Nat) : Dev :=
  if p.kind = 1 then s.undeliverable (s.gateway p.dunit)
  else
    let e : RPkt := { ddev := p.sdev, dunit := p.sunit, tag := p.tag, kind := 1, sdev := s.elveel.devnum, sunit := p.dunit, ecode := ecode,
                      cause := BitVec.ofNat 64 p.word0 }
    let id := s.elveel.nextOut
    s.modElv fun v => { v with nextOut := id + 1, outq := v.outq ++
      [{ id := id, pkt := { op := opRunner, ddev := p.sdev, len := 64 }, src := .none, at_ := s.now, runner := some e }] }

/-- Columns by distance from one, west before east (R199). -/
def nearColumns (x : Nat) : List Nat :=
  x :: (List.range 48).flatMap fun i => (if i < x then [x - 1 - i] else []) ++ if x + 1 + i < 48 then [x + 1 + i] else []
/-- The block of row 0 where a packet from outside enters for block t, and its lane (R199): its own column, else the nearest clear one on
lane 1. -/
def Dev.entryBlock (s : Dev) (t : Nat) : Option (Nat × Nat) :=
  let clear (x : Nat) : Bool := let g := blkAt x 0; !s.grid.faultMap.contains g && s.clearPath (routePath g t false)
  ((nearColumns (blkX t)).find? clear).map fun x => (blkAt x 0, if x = blkX t then 0 else 1)

/-- Whether a runner packet from outside finds room where it enters, or has no such place: a full buffer of four makes it wait (R198). -/
def Dev.gridRoom (s : Dev) (p : RPkt) : Bool := match (s.unitHome p.dunit).bind s.entryBlock with
  | some (g, lane) => decide ((s.inbuf g 2 lane).length < 4)
  | none => true

/-- A runner packet enters the switch points at row 0 (R198, R199, R277): with no clear column it is UNREACHABLE. A unit that is not
there is BAD_UNIT. -/
def Dev.enterGrid (s : Dev) (p : RPkt) : Dev :=
  let p := { p with ddev := 0x3FFF }
  let back (e : Nat) : Dev := if p.sdev = s.elveel.devnum then s.runnerBack p e else s.eventTo p e
  match s.unitHome p.dunit with
  | none => back ecBadUnit
  | some t => match s.entryBlock t with
    | some (g, lane) => s.modInbuf g 2 lane fun l => l ++ [{ p with lane := lane, at_ := s.now + 56 }]
    | none => back ecUnreachable

/-! ## Outgoing requests (R275, R277, R280) -/

/-- FLOW of a request (R270). -/
def Dev.flowOf (s : Dev) (o : OutReq) : Nat := match o.runner with
  | some p => p.sunit % 256
  | none => match o.src with
    | .conc (.xfer b _ _) => b % 256
    | .conc (.porterCopy j _) => (s.copies.get j : CopyJob).rot
    | .conc _ => 0
    | .epiSend n _ _ _ => n % 256
    | _ => o.pkt.flow

/-- VC of the bulk of a request: of a COPY as its command says, else as AUX has it. -/
def Dev.selOf (s : Dev) (o : OutReq) : Nat := match o.src with
  | .conc (.porterCopy j _) => (s.copies.get j : CopyJob).vc - 4
  | _ => if o.pkt.op = opPut ∨ o.pkt.op = opGet ∨ o.pkt.op = opGetR then o.pkt.aux % 2 else 0

/-- Remove a request from the router's queue. -/
def Dev.dropOut (s : Dev) (id : Nat) : Dev := s.modElv fun e => { e with outq := e.outq.filter fun o => o.id != id }

/-- Refuse a request at its own router (R277). -/
def Dev.refuseOut (s : Dev) (o : OutReq) (st : Nat) : Dev :=
  let s := s.dropOut o.id
  match o.runner with
  | some p => s.runnerBack p ecUnreachable
  | none =>
    if o.pkt.op = opBell then s.bumpFab 6
    else if isReply o.pkt.op then s
    else s.remoteDone o.src o.id st []

/-- Whether an earlier request of one order of R278 still waits. -/
def Dev.heldBack (s : Dev) (o : OutReq) : Bool :=
  let vc := vcOf o.pkt.op 0
  s.elveel.outq.any fun q => decide (q.id < o.id) && q.pkt.ddev == o.pkt.ddev && vcOf q.pkt.op 0 == vc &&
    (if vc = 0 ∨ vc = 3 ∨ vc = 6 then s.flowOf q == s.flowOf o
     else vc == 2 && bits q.pkt.addr 43 12 == bits o.pkt.addr 43 12)

/-- The transaction entries that are free (R280). -/
def Dev.freeTids (s : Dev) : List Nat := below 8192 fun i => s.elveel.txns.all fun t => t.tid % 8192 != i

/-- A request of the device's own to a local address (R249, R282). -/
def Dev.serveOwn (s : Dev) (o : OutReq) : Dev :=
  match o.runner with
  | some p => s.iff (s.gridRoom p) fun s => (s.dropOut o.id).enterGrid p
  | none =>
    let s := s.dropOut o.id
    if o.pkt.op = opBell then s.ringLine (o.pkt.aux % 32)
    else if badAddr o.pkt.addr ∨ bits o.pkt.addr 63 62 ≠ 0 then s.remoteDone o.src o.id stUnmapped []
    else if !o.pkt.shapeOk then s.remoteDone o.src o.id stUnsupported []
    else s.serve { o.pkt with tid := o.id } (some o.src)

/-- A packet with its header filled in for a peer (R260, R277). -/
def Dev.filled (s : Dev) (o : OutReq) (dinc tid : Nat) : EPkt :=
  let e := { o.pkt with sdev := s.elveel.devnum, sinc := s.elveel.inc, dinc := dinc, tid := tid, flow := s.flowOf o }
  let e := if o.pkt.op = opPut then { e with aux := 0 } else if o.pkt.op = opGet then { e with aux := s.selOf o } else e
  match o.runner with
  | some p => { e with len := 64, payload := { p with dinc := dinc }.bytes }
  | none => e

/-- The cycle by which a timed remote access should be answered (R266), none for one that has no bound: the figures of the table, and twice
P of the route, which the device does not know (a free value). -/
def OutReq.remoteBound (o : OutReq) : Option Nat :=
  let e := o.pkt
  let off := bits e.addr 43 0
  let base : Nat := match region 1024 off with
    | .chest _ _ => if e.op = opLoad then 672 else 0
    | .unmapped => 0
    | r =>
      let lp := r == .lpddr
      if e.op = opLoad then (if lp then 2072 else 1568)
      else if e.op = opStore then (if lp then 1512 else 1176)
      else if lp then 2408 else 1736
  if bit e.flags 0 ∧ e.space = 0 ∧ base ≠ 0 then some (o.at_ + base + 2 * Config.routeBound e.ddev) else none

/-- Send a request to a peer that is UP: one that wants a reply takes a free entry, which one the manual leaves open. -/
def Dev.sendRemote (s : Dev) (o : OutReq) (p : Peer) : Dev :=
  let lone := o.pkt.op = opRunner ∨ o.pkt.op = opBell
  let free := if lone then [0] else s.freeTids
  if free = [] then s
  else
    let (r, s') := if lone then (0, s) else s.draw
    let i := free.getD (r % free.length) 0
    let tid := if lone then 0 else i + 2 ^ 14 * (s.elveel.reuse.get i % 4)
    match s'.route (s.selOf o) (s.filled o p.dinc tid) with
    | .unreachable => s.refuseOut o stUnreachable
    | .sent t =>
      let t := t.dropOut o.id
      if lone then t
      else t.modElv fun e => { e with
        reuse := e.reuse.set i ((e.reuse.get i + 1) % 4),
        txns := e.txns ++ [{ tid := tid, at_ := s.now, sinc := e.inc, ddev := o.pkt.ddev, op := o.pkt.op, src := o.src, req := o.id,
                              late := o.remoteBound }] }

/-- Send a reply: over its own port to a MGMT_ONLY peer (R259), else by the route table; one with no route is lost. -/
def Dev.sendBack (s : Dev) (o : OutReq) : Dev :=
  let e := if o.pkt.op = opGetR then { o.pkt with aux := 0 } else o.pkt
  match o.port with
  | some p =>
    (s.dropOut o.id).sendOn p 6 0 { e with hops := 1 }.bytes
  | none => match s.route (s.selOf o) e with
    | .sent t => t.dropOut o.id
    | .unreachable => s.dropOut o.id

/-- OUTGOING_REQUEST (R277): local service, the peer entry, the device's own draining, the header and the route. The event that answers a
peer's runner message is no new request of a draining device. -/
def outgoingRequest (id : Nat) (s : Dev) : Dev := match s.elveel.outq.find? fun o => o.id = id with
  | none => s
  | some o =>
    let d := o.pkt.ddev
    if !s.lit then s
    else if isReply o.pkt.op then s.sendBack o
    else if s.heldBack o ∨ s.engineTested 7 0 then s
    else if d = 0x3FFF ∨ d = s.elveel.devnum then s.serveOwn o
    else match s.peerOf d with
      | none => s.askPeer d
      | some p =>
        let s := s.touchPeer d
        if p.state = 2 then s.refuseOut o stDrained
        else if p.state ≠ 1 then s.refuseOut o stUnreachable
        else if s.elveel.drain ≠ .no ∧ o.pkt.op ≠ opMgmt ∧ !(o.runner.any fun q => q.kind == 1) then s.refuseOut o stDrained
        else s.sendRemote o p
def execOutgoingRequest (id : Nat) (s : State) : Host.Outcome State Fault Refusal := s.act (outgoingRequest id)

/-! ## Received packets -/

/-- Position of a received packet at a port that is at the head of its VC and class. -/
def headAt (l : List RxPkt) (bs : Bytes) : Option Nat :=
  (List.range l.length).find? fun i =>
    let q := l.getD i default
    q.bytes == bs && (l.take i).all fun r => !(r.vc == q.vc && r.cls == q.cls)

/-- Take a packet that some port holds at the head of its VC and class, its credits going back (R263): the port, the VC, and the device. -/
def Dev.takeRx (s : Dev) (bs : Bytes) : Option (Nat × Nat × Dev) :=
  (List.range 18).findSome? fun p =>
    let l := (s.port p).rx
    (headAt l bs).map fun i =>
      let q := l.getD i default
      (p, q.vc, (s.modPort p fun x => { x with rx := x.rx.eraseIdx i }).giveBack_ p (2 * q.vc + q.cls) q.credits)

/-- A packet whose ECRC does not match is dropped, counted and reported as an error of the router (R277, R454). -/
def Dev.ecrcDrop (s : Dev) : Dev := (s.bumpFab 0).unitError 0x08 7 0 [] 0 0

/-- Whether a reply answers a request of an opcode. -/
def answers (op : Nat) (t : Txn) : Bool := replyOp t.op == op

/-- A reply of an opcode arrives (R277, R280): it completes its transaction, or is stale. -/
def replyRow (op : Nat) (bs : Bytes) (s : Dev) : Dev :=
  let e := epktOf bs
  if !s.lit ∨ e.op ≠ op ∨ e.ddev ≠ s.elveel.devnum then s
  else match s.takeRx bs with
    | none => s
    | some (_, _, s) =>
      if !ecrcOk bs then s.ecrcDrop
      else if !e.fieldsOk then s.bumpFab 7
      else match s.elveel.txns.find? fun t => t.tid = e.tid ∧ answers op t with
        | some t =>
          if e.sinc ≠ s.elveel.inc then s.bumpFab 7
          else
            let s := s.modElv fun v => { v with txns := v.txns.filter fun x => x.tid != e.tid }
            let s := s.iff (t.late.any fun x => decide (x < s.now) && (match t.src with
              | .conc (.xfer _ _ _) => !(e.status == 0 && t.op == opLoad)
              | _ => true)) fun s => s.bumpFab 9
            s.remoteDone t.src t.req e.status e.payload t.late
        | none => s.bumpFab 7

/-- LOAD_R (R277). -/
def loadR (pkt : Bytes) (s : Dev) : Dev := replyRow opLoadR pkt s
def execLoadR (pkt : Bytes) (s : State) : Host.Outcome State Fault Refusal := s.act (loadR pkt)
/-- COMP (R277). -/
def comp (pkt : Bytes) (s : Dev) : Dev := replyRow opComp pkt s
def execComp (pkt : Bytes) (s : State) : Host.Outcome State Fault Refusal := s.act (comp pkt)
/-- ATOM_R (R277). -/
def atomR (pkt : Bytes) (s : Dev) : Dev := replyRow opAtomR pkt s
def execAtomR (pkt : Bytes) (s : State) : Host.Outcome State Fault Refusal := s.act (atomR pkt)
/-- GET_R (R277). -/
def getR (pkt : Bytes) (s : Dev) : Dev := replyRow opGetR pkt s
def execGetR (pkt : Bytes) (s : State) : Host.Outcome State Fault Refusal := s.act (getR pkt)
/-- MGMT_R (R251, R277). -/
def mgmtR (pkt : Bytes) (s : Dev) : Dev := replyRow opMgmtR pkt s
def execMgmtR (pkt : Bytes) (s : State) : Host.Outcome State Fault Refusal := s.act (mgmtR pkt)

/-- REMOTE_TIMEOUT (R280). -/
def remoteTimeout (tid : Nat) (s : Dev) : Dev := match s.elveel.txns.find? fun t => t.tid = tid with
  | none => s
  | some t =>
    if s.now ≤ t.at_ + s.remTo then s
    else
      let s := (s.modElv fun v => { v with txns := v.txns.filter fun x => x.tid != tid }).bumpFab 8
      s.remoteDone t.src t.req stRemoteTimeout []
def execRemoteTimeout (tid : Nat) (s : State) : Host.Outcome State Fault Refusal := s.act (remoteTimeout tid)

/-! ## Transit (R269, R271, R273) -/

/-- A transit packet that no route takes, or that has reached the hop limit (R268, R271). -/
def Dev.transitLost (s : Dev) (bs : Bytes) : Dev :=
  let e := epktOf bs
  let s := s.iff (decide (31 ≤ e.hops)) fun s => s.bumpFab 5
  if e.op = opBell then s.bumpFab 6
  else if e.op = opRunner then s.eventTo (rpktOf e.payload) ecUnreachable
  else if isReply e.op then s
  else s.sendReply e stUnreachable []

/-- Transit packets of a port at the heads of their VC and class. -/
def Dev.transits (s : Dev) (p : Nat) : List RxPkt :=
  let l := (s.port p).rx
  (List.range 7).flatMap fun vc => [0, 1].filterMap fun cls =>
    (l.find? fun q => q.vc = vc ∧ q.cls = cls).filter fun q => (epktOf q.bytes).ddev != s.elveel.devnum && (s.port p).st == .up

/-- ROUTER_FORWARD (R269, R272, R273): the first transit packet of a port, in the order of its VCs, goes to the output that its candidate
gives; its receive buffer is free once it has left there. -/
def routerForward (p : Nat) (s : Dev) : Dev :=
  if !s.lit ∨ s.engineTested 7 0 then s
  else match s.transits p with
    | [] => s
    | q :: _ =>
      let gone := (s.modPort p fun x => { x with rx := dropFirst (fun r => r == q) x.rx }).modElv fun v => { v with lastTransit := s.now }
      match gone.routeBytes (q.vc - 4) q.cls (epktOf q.bytes) (hopBytes q.bytes) q.cand (some (p, 2 * q.vc + q.cls, q.credits)) with
      | .sent t => t
      | .unreachable => (gone.giveBack_ p (2 * q.vc + q.cls) q.credits).transitLost q.bytes
def execRouterForward (p : Nat) (s : State) : Host.Outcome State Fault Refusal := s.actOn (decide (p < 18)) (routerForward p)

/-- One cycle of requests that want a transaction entry and find none (R280). -/
def Dev.txnTick (s : Dev) : Dev :=
  let n := (s.elveel.outq.filter fun o => isRequest o.pkt.op && o.pkt.op != opBell && o.pkt.op != opRunner
    && (s.peerOf o.pkt.ddev).any fun p => p.state == 1).length
  s.iff (decide (0 < n) && decide (8192 ≤ s.elveel.txns.length)) fun s => s.bump 0x6080 0 10 n

end Sys2Proof.Machine
end

