-- ==== Sys2Proof/Machine/Boot.lean ====
section
/-! DEFINITION. The boot flash and its records (R377 to R380, R386, R390 to R393, R396, R444, R452), the thirteen checks of an image (R384)
and the boot of the mask ROM (R385 to R388, R393). Every record that the ROM writes is in the flash when its step ends. -/
namespace Sys2Proof.Machine

/-! ## The flash -/

/-- Erase a range. -/
def flashErase (m : Memory) (r : Nat × Nat) : Memory := memDrop m r.1 r.2
/-- Program bytes. -/
def flashProgram (m : Memory) (p : Nat × Bytes) : Memory := memWrite 0xFF m p.1 p.2
/-- Whether an operation keeps clear of the golden image and of what lies above the LMS state (R378). -/
def flashAllowed (a n : Nat) : Bool := (decide (a + n ≤ 0x04000000) || decide (0x06000000 ≤ a)) && decide (a + n ≤ 0x08000000)
/-- Erase ranges and program bytes at once. -/
def Dev.flashNow (s : Dev) (erase : List (Nat × Nat)) (prog : List (Nat × Bytes)) : Dev :=
  let m := (erase.filter fun r => flashAllowed r.1 r.2).foldl flashErase s.flash
  { s with flash := (prog.filter fun p => flashAllowed p.1 p.2.length).foldl flashProgram m }

/-- Of two copies of a record with a sequence field, the one in force: the valid one with the higher value. -/
def Dev.newest (s : Dev) (o0 o1 len : Nat) (ok : Bytes → Bool) (seq : Bytes → Nat) : Option Bytes :=
  let a := s.flashAt o0 len
  let b := s.flashAt o1 len
  match ok a, ok b with
  | true, true => some (if seq a < seq b then b else a)
  | true, false => some a
  | false, true => some b
  | false, false => none
/-- The copy that an update writes: the invalid one, or the older (R380). -/
def Dev.olderCopy (s : Dev) (o0 o1 len : Nat) (ok : Bytes → Bool) (seq : Bytes → Nat) : Nat :=
  let a := s.flashAt o0 len
  let b := s.flashAt o1 len
  if !ok a then o0 else if !ok b then o1 else if seq a < seq b then o0 else o1

/-! ## Signed objects (R350, R381) -/

/-- Whether the trailer at an offset is whole: its magic, signature length and zeros. -/
def trailerOk (bs : Bytes) (o : Nat) : Bool := fld bs o 4 == 0x524C5254 && fld bs (o + 8) 4 == 3380 && zeroAt bs (o + 12) 4
/-- Whether the CRC-32C in the trailer is that of the bytes before it. -/
def trailerCrcOk (bs : Bytes) (o : Nat) : Bool := fld bs (o + 4) 4 == (crc32c (bs.take o)).toNat
/-- The digest that an object's signatures cover. -/
def signedDigest (bs : Bytes) (o : Nat) : Bytes := sha384 (bs.take (o + 16))
/-- Whether the ECDSA signature of an object verifies against the Taltis key. -/
def ecdsaGood (bs : Bytes) (o : Nat) : Bool := ecdsaVerify Config.romEcdsaKey (signedDigest bs o) (sub bs (o + 16) 96)
/-- Whether its HSS signature does. -/
def hssGood (bs : Bytes) (o : Nat) : Bool := hssVerify Config.romHssKey (signedDigest bs o) (sub bs (o + 112) 3284)
/-- Whether an object of a body length verifies whole under R381. -/
def signedOk (bs : Bytes) (o : Nat) : Bool := trailerOk bs o && trailerCrcOk bs o && ecdsaGood bs o && hssGood bs o

/-- Whether a scope names this device or all (R390, R392). -/
def inScope (scope ident : Nat) : Bool := scope == 0 || scope == ident

/-- Whether an owner certificate passes every check of R391 but its SERIAL. -/
def ownerOk (ident : Nat) (c : Bytes) : Bool :=
  c.length == 3652 && signedOk c 256 && fld c 0 4 == 0x5452434F && byte c 4 == 1 && byte c 5 == 1 && decide (byte c 6 < 2)
    && zeroAt c 7 1 && zeroAt c 12 4 && zeroAt c 196 60 && inScope (fld c 16 8) ident
/-- SERIAL of an owner certificate; 0 for none. -/
def ownerSerial (c : Bytes) : Nat := fld c 8 4
/-- Whether a minimum-version record is valid and in scope (R392). -/
def minverOk (ident : Nat) (r : Bytes) : Bool :=
  r.length == 3460 && signedOk r 64 && fld r 0 4 == 0x564E494D && byte r 4 == 1 && byte r 5 == 1 && zeroAt r 6 2 && zeroAt r 24 40
    && inScope (fld r 16 8) ident
/-- SEQ of a minimum-version record; 0 for none. -/
def minverSeq (r : Bytes) : Nat := fld r 8 4
/-- MINSVN of a minimum-version record; 0 for none. -/
def minverSvn (r : Bytes) : Nat := fld r 12 4

/-! ## The checks of an image (R382 to R384) -/

/-- Component entry i of a header (R383). -/
def compEntry (h : Bytes) (i : Nat) : Bytes := sub h (64 + 64 * i) 64
/-- TYPE, OFFSET and LENGTH of a component entry. -/
def compType (e : Bytes) : Nat := byte e 0
/-- See compType. -/
def compOff (e : Bytes) : Nat := fld e 8 4
/-- See compType. -/
def compLen (e : Bytes) : Nat := fld e 12 4
/-- NCOMP of a header. -/
def ncomp (h : Bytes) : Nat := byte h 11
/-- The entries in use. -/
def comps (h : Bytes) : List Bytes := (List.range (min (ncomp h) 8)).map (compEntry h)

/-- Step 6: KIND, and every reserved field and code. -/
def hdrReserved (h : Bytes) : Bool :=
  byte h 6 == 1 && zeroAt h 7 1 && zeroAt h 27 1 && zeroAt h 28 36
    && (comps h).all fun e => zeroAt e 1 7 && decide (1 ≤ compType e) && decide (compType e ≤ 5)
/-- Bodies in ascending order that do not overlap and end at or before TRAILOFF. -/
def bodiesOk (trailoff : Nat) : Nat → List Bytes → Bool
  | _, [] => true
  | lo, e :: r => decide (lo ≤ compOff e) && compOff e % 64 == 0 && decide (1 ≤ compLen e)
      && (compType e != 1 || decide (compLen e ≤ 0x100000)) && decide (compOff e + compLen e ≤ trailoff)
      && bodiesOk trailoff (compOff e + compLen e) r
/-- Step 7: TOTAL, TRAILOFF and the component table. -/
def hdrLengths (h : Bytes) : Bool :=
  let total := fld h 12 4
  let n (t : Nat) : Nat := ((comps h).filter fun e => compType e == t).length
  decide (3972 ≤ total) && decide (total ≤ 33554432) && fld h 16 4 == total - 3396 && decide (1 ≤ ncomp h) && decide (ncomp h ≤ 8)
    && zeroAt h (64 + 64 * ncomp h) (512 - 64 * ncomp h) && bodiesOk (total - 3396) 576 (comps h)
    && n 1 == 1 && n 2 == 1 && n 3 == 1 && n 4 == 1 && decide (n 5 ≤ 1)

/-- Steps 2 to 8, on the 576 bytes of the header: the code of the first failure. -/
def hdrCheck (h : Bytes) (minsvn : Nat) : Nat :=
  if (sub h 0 4).all (· == 0xFF#8) then 0x0C
  else if fld h 0 4 ≠ 0x57464C54 then 0x02
  else if byte h 4 ≠ 1 ∨ byte h 5 ≠ 1 then 0x03
  else if byte h 8 ≠ 1 ∨ byte h 9 ≠ 1 ∨ 0x11 < byte h 10 then 0x04
  else if !hdrReserved h then 0x05
  else if !hdrLengths h then 0x06
  else if fld h 20 4 < minsvn then 0x07
  else 0
/-- Steps 10 to 13, on the whole image: the code of the first failure and DETAIL. -/
def imgBody (img : Bytes) : Nat × Nat :=
  let o := fld img 16 4
  if !trailerOk img o then (0x08, 0)
  else if !trailerCrcOk img o then (0x09, 0)
  else
    let d := b2n (!ecdsaGood img o) + 2 * b2n (!hssGood img o)
    if d ≠ 0 then (0x0A, d)
    else if (comps img).all fun e => sha384 (sub img (compOff e) (compLen e)) == sub e 16 48 then (0, 0)
    else (0x0B, 0)

/-- Flash offset of a boot source: slot A, slot B, golden (R378). -/
def sourceAt (k : Nat) : Nat := 0x02000000 * k

/-- The thirteen checks of a boot source (R384), with what the boot report says of it (R387). -/
def Dev.imageCheck (s : Dev) (k minsvn : Nat) : BootStat :=
  let h := s.flashAt (sourceAt k) 576
  let c := hdrCheck h minsvn
  let past7 := c = 0 ∨ c = 7
  let svn := if past7 then fld h 20 4 else 0
  let ver := if past7 then fld h 24 4 else 0
  if c ≠ 0 then { status := c, svn := svn, version := ver }
  else
    let (c, d) := imgBody (s.flashAt (sourceAt k) (fld h 12 4))
    { status := c, detail := d, svn := svn, version := ver }

/-- What a boot makes of a source: a read of its header or its body that fails gives FLASH_IO, and a component whose copy mismatches
BAD_COMPONENT, whose boot falls back (R384, R385). -/
def Dev.sourceCheck (s : Dev) (k minsvn : Nat) : BootStat :=
  let bad (i : Nat) : Bool := bit s.boot.flashFail (i + k)
  let st := s.imageCheck k minsvn
  if bad 0 then { status := 0x01 }
  else if hdrCheck (s.flashAt (sourceAt k) 576) minsvn ≠ 0 then st
  else if bad 3 then { st with status := 0x01, detail := 0 }
  else if st.status = 0 ∧ bad 6 then { st with status := 0x0B }
  else st

/-- Digests of the components of a header, by TYPE. -/
def compDigests (h : Bytes) : Tab Bytes := (comps h).foldl (fun t e => t.set (compType e) (sub e 16 48)) []
/-- The body of the component of a TYPE of a boot source, empty for none. -/
def Dev.component (s : Dev) (k type : Nat) : Bytes :=
  match (comps (s.flashAt (sourceAt k) 576)).find? fun e => compType e = type with
  | some e => s.flashAt (sourceAt k + compOff e) (compLen e)
  | none => []

/-! ## The boot record (R386) -/

/-- The boot record's fields. -/
structure BootRec where
  pref  : Nat := 0
  trial : Bool := false
  tries : Nat := 0
  seq   : Nat := 0
  deriving DecidableEq, Repr, Inhabited

/-- The 32 bytes of a boot record. -/
def BootRec.bytes (r : BootRec) : Bytes :=
  withCrc (layout 28 [(0, 4, 0x43525442), (4, 1, 1), (5, 1, r.pref), (6, 1, b2n r.trial), (7, 1, r.tries), (8, 4, r.seq)])
/-- Whether a copy is valid. -/
def bootRecOk (b : Bytes) : Bool :=
  fld b 0 4 == 0x43525442 && byte b 4 == 1 && decide (byte b 5 < 2) && decide (byte b 6 < 2) && decide (byte b 7 < 4) && zeroAt b 12 16
    && crcOk b 28
/-- Flash offsets of its copies. -/
abbrev bootRec0 : Nat := 0x06000000
abbrev bootRec1 : Nat := 0x06001000
/-- The boot record in force. -/
def Dev.bootRec (s : Dev) : BootRec := match s.newest bootRec0 bootRec1 32 bootRecOk (fun b => fld b 8 4) with
  | some b => { pref := byte b 5, trial := byte b 6 == 1, tries := byte b 7, seq := fld b 8 4 }
  | none => {}
/-- The erase and the program that write a boot record: its SEQ is one more than that in force. -/
def Dev.bootRecWrite (s : Dev) (r : BootRec) : List (Nat × Nat) × List (Nat × Bytes) :=
  let o := s.olderCopy bootRec0 bootRec1 32 bootRecOk fun b => fld b 8 4
  ([(o, 0x1000)], [(o, { r with seq := s.bootRec.seq + 1 }.bytes)])
/-- Write the boot record within the step. -/
def Dev.bootRecNow (s : Dev) (r : BootRec) : Dev := let w := s.bootRecWrite r; s.flashNow w.1 w.2
/-- Queue a write of the boot record. -/
def Dev.bootRecLater (s : Dev) (r : BootRec) (t : FlashThen) : Dev := let w := s.bootRecWrite r; s.flashOp w.1 w.2 t

/-! ## Owner certificate and minimum version (R391, R392) -/

/-- Flash offsets of the copies. -/
abbrev minver0 : Nat := 0x06010000
abbrev minver1 : Nat := 0x06020000
abbrev owner0 : Nat := 0x06030000
abbrev owner1 : Nat := 0x06040000
/-- The minimum-version record that the flash gives; empty for none. -/
def Dev.minverFlash (s : Dev) : Bytes := (s.newest minver0 minver1 3460 (minverOk s.ident) minverSeq).getD []
/-- The owner certificate that the flash gives; empty for none. -/
def Dev.ownerFlash (s : Dev) : Bytes := (s.newest owner0 owner1 3652 (ownerOk s.ident) ownerSerial).getD []

/-! ## Incarnation (R281, R444)

The manual gives the record no layout: SEQ in bytes 0 to 3, INC in byte 4, zeros, a CRC-32C in bytes 28 to 31. -/

/-- Flash offsets of its copies. -/
abbrev incRec0 : Nat := 0x060A0000
abbrev incRec1 : Nat := 0x060B0000
/-- Whether a copy is valid. -/
def incRecOk (b : Bytes) : Bool := crcOk b 28 && zeroAt b 5 23
/-- The record in force: SEQ and INC; zeros for none. -/
def Dev.incRec (s : Dev) : Nat × Nat := match s.newest incRec0 incRec1 32 incRecOk (fun b => fld b 0 4) with
  | some b => (fld b 0 4, byte b 4)
  | none => (0, 0)
/-- The erase and the program that store an incarnation. -/
def Dev.incWrite (s : Dev) (inc : Nat) : List (Nat × Nat) × List (Nat × Bytes) :=
  let o := s.olderCopy incRec0 incRec1 32 incRecOk fun b => fld b 0 4
  ([(o, 0x10000)], [(o, withCrc (layout 28 [(0, 4, s.incRec.1 + 1), (4, 1, inc)]))])

/-! ## The journal of persistent entries (R444) -/

/-- Offset and size of a half. -/
def jHalf (h : Nat) : Nat := 0x06800000 + 0x400000 * h
/-- See jHalf. -/
abbrev jSize : Nat := 0x400000
/-- Bytes of a record with a value of n bytes. -/
def jLen (n : Nat) : Nat := 16 + (n + 3) / 4 * 4
/-- A journal record. -/
def jRecord (index sub_ n seq value : Nat) : Bytes :=
  withCrc (layout 12 [(0, 2, 0x4A52), (2, 2, index), (4, 1, sub_), (6, 2, n), (8, 4, seq)] ++ leBytes ((n + 3) / 4 * 4) value)
/-- Whether a record stands at a position of a half: its length, none where no valid one does. -/
def Dev.jAt (s : Dev) (h pos : Nat) : Option Bytes :=
  let hd := s.flashAt (jHalf h + pos) 12
  let n := jLen (fld hd 6 2)
  if fld hd 0 2 = 0x4A52 ∧ zeroAt hd 5 1 ∧ pos + n ≤ jSize then
    let r := s.flashAt (jHalf h + pos) n
    if crcOk r (n - 4) then some r else none
  else none
/-- The records of a half from a position on, and the position after the last. -/
def Dev.jScan (s : Dev) (h : Nat) : Nat → Nat → List Bytes × Nat
  | 0, pos => ([], pos)
  | f + 1, pos => match s.jAt h pos with
    | none => ([], pos)
    | some r => let (l, e) := Dev.jScan s h f (pos + r.length); (r :: l, e)
/-- SEQ of a record. -/
def jSeq (r : Bytes) : Nat := fld r 8 4
/-- The highest SEQ of a list of records. -/
def jTop (l : List Bytes) : Nat := l.foldl (fun m r => max m (jSeq r)) 0
/-- Put a record's value into a table of values, with the SEQ that gave each. -/
def jTake (t : Tab (Nat × Nat)) (r : Bytes) : Tab (Nat × Nat) :=
  let k := entryKey (fld r 2 2) (byte r 4)
  if (t.get k : Nat × Nat).1 < jSeq r + 1 then t.set k (jSeq r + 1, fld r 12 (fld r 6 2) + 1) else t
/-- The persistent entries at power-on: for each entry the valid record with the highest SEQ. A half whose last record is torn takes
no more. -/
def Dev.loadJournal (s : Dev) : Dev :=
  let (a, ea) := s.jScan 0 262144 0
  let (b, eb) := s.jScan 1 262144 0
  let vals := (a ++ b).foldl jTake []
  let h := if jTop a < jTop b then 1 else 0
  let e := if h = 0 then ea else eb
  let clean := (s.flashAt (jHalf h + e) 12).all (· == 0xFF#8)
  s.modLedger fun l => { l with vals := vals.map fun p => (p.1, p.2.2), jseq := max (jTop a) (jTop b), jhalf := h,
                                jpos := if clean then e else jSize }

/-! ## The fault-log ring (R444, R452) -/

/-- A record of the log from its bytes. -/
def logRecOf (b : Bytes) : LogRec :=
  { seq := fld b 0 4, persist := byte b 4 == 1, inc := byte b 5, time := fld b 8 8, ekind := fld b 16 2, uclass := byte b 18,
    outcome := byte b 19, unit := fld b 20 4, ctx := fld b 24 2, fcode := fld b 26 2, testId := byte b 28, tcount := fld b 30 2,
    halt := fld b 32 4, detail := BitVec.ofNat 64 (fld b 40 8), addr := fld b 48 8 }
/-- The slots of the ring that hold a record. -/
def Dev.ringRecords (s : Dev) : List LogRec :=
  (List.range 4096).filterMap fun i =>
    let b := s.flashAt (0x06520000 + 64 * i) 64
    if fld b 0 4 % 4096 = i ∧ byte b 4 = 1 ∧ zeroAt b 56 8 then some (logRecOf b) else none
/-- Insert a record into a list by its SEQ. -/
def insertLog (x : LogRec) : List LogRec → List LogRec
  | [] => [x]
  | y :: r => if x.seq < y.seq then x :: y :: r else y :: insertLog x r
/-- The log at a power-up of the always-on domain: the last 256 persistent records. SEQ goes on from the last one used, which the model
keeps beside the flash (DEDUCED, notes/assumptions/69.md). -/
def Dev.loadLog (s : Dev) : Dev :=
  let l := s.ringRecords.foldl (fun l x => insertLog x l) []
  s.modLedger fun g => { g with log := l.drop (l.length - 256), logSeq := l.foldl (fun m x => max m x.seq) g.logSeq }

/-! ## LMS state (R396, R397) -/

/-- Flash offset of record slot i of a reservation sector. -/
def lmsSlot (sec i : Nat) : Nat := 0x07000000 + 0x10000 * sec + 32 * i
/-- Whether a reservation record is valid. -/
def lmsRecOk (b : Bytes) : Bool := fld b 0 4 == 0x5652534C && zeroAt b 8 20 && crcOk b 28
/-- A reservation record. -/
def lmsRecord (next : Nat) : Bytes := withCrc (layout 28 [(0, 4, 0x5652534C), (4, 4, next)])
/-- NEXT of the valid records of a sector. -/
def Dev.lmsNexts (s : Dev) (sec : Nat) : List Nat :=
  (List.range 2048).filterMap fun i => let b := s.flashAt (lmsSlot sec i) 32; if lmsRecOk b then some (fld b 4 4) else none
/-- Whether a record slot is erased. -/
def Dev.lmsErased (s : Dev) (sec i : Nat) : Bool := (s.flashAt (lmsSlot sec i) 32).all (· == 0xFF#8)
/-- Flash offsets of a second-level tree's nodes and of its header, by buffer (R396). -/
def lmsNodesAt (buf : Nat) : Nat := 0x07400000 + 0x400000 * buf
/-- See lmsNodesAt. -/
def lmsHeadAt (buf : Nat) : Nat := 0x07600000 + 0x400000 * buf
/-- The header of a buffer: tree index, LMS public key, its signature by the top leaf of the index, CRC-32C. -/
def lmsHeader (j : Nat) (pub sig : Bytes) : Bytes := withCrc (leBytes 4 j ++ pub ++ sig)
/-- Bytes of a header before its CRC. -/
abbrev lmsHeadLen : Nat := 1672
/-- The tree in a buffer that is complete: its header reads back whole, and names the root of its nodes (R398). -/
def Dev.lmsTreeIn (s : Dev) (buf : Nat) : Option Nat :=
  let h := s.flashAt (lmsHeadAt buf) (lmsHeadLen + 4)
  if crcOk h lmsHeadLen ∧ sub h 28 32 = s.flashAt (lmsNodesAt buf) 32 then some (fld h 0 4) else none
/-- LMS state at cold boot: the next leaf and the limit; a sector with no valid record that is not erased is erased (R397). -/
def Dev.loadLms (s : Dev) : Dev :=
  let l := s.lmsNexts 0 ++ s.lmsNexts 1
  let n := l.foldl max 0
  let dirty := [0, 1].filter fun sec => (s.lmsNexts sec).isEmpty && !(List.range 2048).all fun i => s.lmsErased sec i
  let s := s.modBoot fun b => { b with lmsNext := n, lmsLimit := n, lmsLost := l.isEmpty,
                                       lmsTrees := ([0, 1].filterMap fun i => s.lmsTreeIn i) }
  s.iff (!dirty.isEmpty) fun s => s.flashOp (dirty.map fun sec => (lmsSlot sec 0, 0x10000)) [] .nothing

/-! ## Start of the firmware (R281, R285, R385, R391, R405, R437, R491) -/

/-- The values of a Ledger defaults table (R437). The manual gives its layout nowhere: records of 8 bytes and a value, index in bytes 0
and 1, subindex in byte 2, the value's length in bytes 4 and 5, the value padded to a multiple of 4 bytes. -/
def defaultsOf : Nat → Bytes → List (Nat × Nat × Nat)
  | 0, _ => []
  | f + 1, b =>
    if b.length < 8 then []
    else
      let n := fld b 4 2
      (fld b 0 2, byte b 2, fld b 8 n) :: defaultsOf f (b.drop (8 + (n + 3) / 4 * 4))

/-- Ranges of the scalar RW and RWP entries (R430, R448 to R450): lowest, highest, and whether it keeps its value through power-off;
none for an entry of another kind. F32 entries are compared as their bits: all their values are positive. -/
def scalarRange (index sub_ : Nat) : Option (Nat × Nat × Bool) := match index, sub_ with
  | 0x2001, 1 => some (300, 800, true)
  | 0x2001, 2 => some (300, 800, true)
  | 0x2002, 1 => some (0, 20, true)
  | 0x2003, 1 => some (70, 103, true)
  | 0x2003, 2 => some (70, 95, true)
  | 0x2004, 1 => some (500, 1750, true)
  | 0x2004, 2 => some (500, 1750, true)
  | 0x2005, 1 => some (15, 60, true)
  | 0x2006, 1 => some (0x3C23D70A, 0x3F800000, true)
  | 0x2006, 2 => some (0x3C23D70A, 0x3F800000, true)
  | 0x2006, 3 => some (0x3C23D70A, 0x41200000, true)
  | 0x2007, 1 => some (0x3F000000, 0x40A00000, true)
  | 0x2007, 2 => some (100, 10000, true)
  | 0x2008, 1 => some (100, 10000000, true)
  | 0x3000, 0 => some (8533, 10667, true)
  | 0x3001, 0 => some (0, 2 ^ 32 - 1, false)
  | 0x3001, 1 => some (0, 2 ^ 32 - 1, false)
  | 0x3001, 2 => some (0, 2 ^ 32 - 1, false)
  | 0x3001, 3 => some (0, 2 ^ 32 - 1, false)
  | 0x4000, 0 => some (0, 0x3FFF, true)
  | 0x4000, 1 => some (0, 2 ^ 32 - 1, true)
  | 0x4001, 0 => some (0x009FC0000000, 0x009FFFF00000, false)
  | 0x4002, 0 => some (10, 100000, true)
  | 0x4002, 1 => some (1, 65535, true)
  | 0x50A0, 0 => some (100, 1000000, false)
  | _, _ => none
/-- Whether every valid candidate of a route word is a port (R268). -/
def routeOk (v : Nat) : Bool := (List.range 4).all fun i => let c := bits v (7 * i + 6) (7 * i); !bit c 5 || decide (c % 32 < 18)
/-- Whether a value is one that an entry takes by itself: in range, one of LPRATE's three, a 64 KiB aligned peer table. -/
def scalarOk (index sub_ v : Nat) : Bool := match scalarRange index sub_ with
  | none => false
  | some (lo, hi, _) => decide (lo ≤ v) && decide (v ≤ hi) && (index != 0x3000 || [8533, 9600, 10667].contains v)
      && (index != 0x4001 || v % 0x10000 == 0)

/-- Take the defaults table of the running image. -/
def Dev.loadDefaults (s : Dev) (k : Nat) : Dev :=
  let body := s.component k 5
  let t := (defaultsOf (body.length / 8 + 1) body).foldl (fun (t : Tab Nat) d =>
    let route : Bool := decide (0x4100 ≤ d.1) && decide (d.1 < 0x4140) && routeOk d.2.2
    if scalarOk d.1 d.2.1 d.2.2 ∨ route then t.set (entryKey d.1 d.2.1) (d.2.2 + 1) else t) []
  s.modLedger fun l => { l with defaults := t }

/-- The route words that the defaults table lists (R437): they are in force when the dies have power. -/
def Dev.routeDefaults (s : Dev) : Tab (BitVec 32) :=
  (s.ledger.defaults.filter fun d => decide (0x410000 ≤ d.1) && decide (d.1 < 0x414000)).foldl
    (fun t d => t.set (d.1 - 0x410000) (BitVec.ofNat 32 ((d.2 - 1) % 2 ^ 28))) []

/-- A trip that the RWS cells hold and the ring does not is logged when the firmware starts (R491). -/
def tripRec (t : Nat × Nat × Nat) : LogRec :=
  { seq := 0, persist := true, ekind := 0x0E, uclass := 14, unit := 1024 * t.1 + t.2.1, detail := BitVec.ofNat 64 t.2.2 }
/-- See tripRec. -/
def Dev.logTrip (s : Dev) : Dev := match s.power.rwsTrip with
  | none => s
  | some t => if s.ringRecords.any fun x => x.ekind == 0x0E && x.detail.toNat == t.2.2 then s else (s.logAdd (tripRec t)).2

/-- The firmware of a boot source starts: the records in force are taken, the incarnation grows, and bring-up begins. -/
def Dev.firmwareStart (s : Dev) (k : Nat) (trial : Bool) : Dev :=
  let h := s.flashAt (sourceAt k) 576
  let dig := signedDigest (s.flashAt (sourceAt k) (fld h 12 4)) (fld h 16 4)
  let w := s.incWrite ((s.incRec.2 + 1) % 256)
  let inc := (s.incRec.2 + 1) % 256
  let s := (s.flashNow w.1 w.2).loadDefaults k
  let s := s.modElv fun e => { e with inc := inc }
  let s := s.modElv fun e => { e with devnum := s.entry 0x4000 0 }
  let s := s.modBoot fun b => { b with booted := some k, trialBoot := trial, fwRun := true, header := h, running := compDigests h, imageDig := dig,
                                       ownerCert := s.ownerFlash, allowance := 64, allowAt := s.now }
  let s := s.modWarden fun w => { w with plantAt := s.now, beaconAt := s.now }
  (s.loadLms.logTrip).modPower fun p => { p with bring := .rails }

/-! ## The ROM (R386, R388, R393) -/

/-- The safe state (R388): ALERT_L is low while it lasts (R491). -/
def Dev.enterSafe (s : Dev) : Dev := s.modBoot fun b => { b with safe := true, romPending := false }

/-- Check the sources of a list in order and start the first that passes. trial: the slot on trial. -/
def Dev.bootFrom (s : Dev) (trial : Option Nat) : List Nat → Dev
  | [] => s.enterSafe
  | k :: r =>
    let st := s.sourceCheck k (minverSvn s.boot.minver)
    let s := s.modBoot fun b => { b with report := modNth k (fun _ => st) b.report }
    if st.status = 0 then s.firmwareStart k (trial == some k) else s.bootFrom trial r

/-- ROM_BOOT (R386): the trial rule, then the chain. -/
def Dev.romChain (s : Dev) : Dev :=
  let r := s.bootRec
  let s := if !r.trial then s
    else if r.tries = 3 then s.bootRecNow { r with pref := 1 - r.pref, trial := false, tries := 0 }
    else s.bootRecNow { r with tries := r.tries + 1 }
  let r := s.bootRec
  let s := s.modBoot fun b => { b with minver := s.minverFlash, report := [{}, {}, {}], romPending := false }
  s.bootFrom (if r.trial then some r.pref else none) [r.pref, 1 - r.pref, 2]

/-- A valid copy of the PUF helper record. -/
def helperOk (r : Bytes) : Bool := crcOk r 4092
/-- The seed K that a reading and the helper record give, when its check value is theirs (R393). The manual places the 48-byte check
value nowhere: the model has it in bytes 4,044 to 4,091. -/
def Dev.seedOf (s : Dev) (reading : Nat) : Option Bytes := match s.twoRead 0x06050000 0x06060000 4096 helperOk with
  | none => none
  | some h =>
    let k := sub (Config.pufCombine reading h) 0 32
    if sha384 (k ++ strBytes "TL-PUF-CHK") = sub h 4044 48 then some k else none

/-- Identity reconstruction, then the boot (R393): a failed readout switches the array off; the third enters the safe state. -/
def Dev.romIdentity (s : Dev) (reading : Nat) : Dev := match s.seedOf reading with
  | some k => ((s.modBoot fun b => { b with k := some k, pufOffAt := none, romPending := false }).loadLog.loadJournal).romChain
  | none =>
    let s := s.modBoot fun b => { b with pufTries := b.pufTries + 1, pufOffAt := some s.now, romPending := true }
    if s.boot.pufTries < 3 then s
    else
      let s := s.loadLog.loadJournal
      let (u, s) := s.draw
      let s := (s.logAdd { seq := 0, persist := true, ekind := 0x10, uclass := u % 16, unit := u / 16 % 2 ^ 32 }).2
      (s.modBoot fun b => { b with report := List.replicate 3 { status := 0x0D } }).enterSafe

/-- Start of the ROM with a PUF reading: the flash first (R377). -/
def Dev.romStart (s : Dev) (reading : Nat) : Dev :=
  let s := s.modPower fun p => { p with wpLow := true }
  if s.boot.flashUsable then s.romIdentity reading
  else (s.modBoot fun b => { b with report := List.replicate 3 { status := 0x01 } }).enterSafe

/-- What the memory tiers keep without power (R236): the rows that hard repair has replaced, and those that it shall replace. -/
def Conc.kept (c : Conc) : Conc := { softRows := c.softRows, hardRows := c.hardRows }

/-- What a cold boot leaves of the device: the flash, the latched straps and pins, and the RWS cells. -/
def Dev.coldState (s : Dev) (p : Power) : Dev :=
  { (default : Dev) with now := s.now, freeCount := s.freeCount, nextId := s.nextId, flash := s.flash, out := s.out, power := p,
                         ledger := { logSeq := s.ledger.logSeq },
                         conc := s.conc.kept,
                         boot := { (default : Boot) with flashUsable := s.boot.flashUsable, flashOctal := s.boot.flashOctal, flashFail := s.boot.flashFail } }

/-- A cold boot that the Warden or RESET_L causes: the always-on domain is reset, the PUF is off for 1 ms, and the ROM then starts
(R490). -/
def Dev.coldBoot (s : Dev) : Dev :=
  let q := s.power
  let p := { q with dstate := .aon, bring := .none, mainStart := none, wpLow := false, lpReset := true }
  (s.coldState p).modBoot fun b => { b with romPending := true, pufOffAt := some s.now }

/-- PUF_RETRY (R393, R490): the array has been off for 1 ms, the rails are down, and RESET_L is high. -/
def pufRetry (reading : Nat) (s : Dev) : Dev := match s.boot.pufOffAt with
  | some t =>
    if s.boot.romPending && s.power.dstate == .aon && s.power.resetL && !s.power.lowering && decide (t + msec ≤ s.now) then
      s.romStart reading
    else s
  | none => s
def execPufRetry (reading : Nat) (s : State) : Host.Outcome State Fault Refusal := s.act (pufRetry reading)

end Sys2Proof.Machine
end

