-- ==== Sys2Proof/Machine/Answer.lean ====
section
/-! DEFINITION. The Ledger's entries, their types and access kinds (R431 to R435, R446 to R452), the frames of the Ledger Access Protocol
(R441), and how a request is answered (R371, R442, R443). -/
namespace Sys2Proof.Machine

/-! ## The table of entries -/

/-- Access kinds (R435); an RWP entry is rw here, and scalarRange says that it persists. -/
inductive Access where
  | ro | rw | wo | cmd
  deriving DecidableEq, Repr, Inhabited

/-- An entry: its type code (R434), its length in bytes, its access kind. -/
structure Entry where
  type   : Nat
  len    : Nat
  access : Access
  deriving DecidableEq, Repr, Inhabited

/-- Entries of the identity, power and memory areas, by index and subindex. -/
def singles0 : List (Nat × Nat × Entry) := [
  (0x1000, 0, ⟨1, 1, .ro⟩), (0x1000, 1, ⟨1, 1, .ro⟩), (0x1000, 2, ⟨1, 1, .ro⟩), (0x1000, 3, ⟨1, 1, .ro⟩), (0x1000, 4, ⟨1, 1, .ro⟩),
  (0x1000, 5, ⟨1, 1, .ro⟩), (0x1001, 0, ⟨4, 8, .ro⟩), (0x1001, 1, ⟨8, 48, .ro⟩), (0x1002, 0, ⟨9, 32, .ro⟩),
  (0x1003, 0, ⟨9, 128, .ro⟩), (0x1004, 0, ⟨9, 3652, .ro⟩), (0x1004, 1, ⟨9, 3652, .cmd⟩), (0x1005, 0, ⟨9, 3460, .ro⟩),
  (0x1005, 1, ⟨9, 3460, .cmd⟩), (0x1006, 0, ⟨8, 65536, .ro⟩), (0x1010, 0, ⟨9, 8, .cmd⟩), (0x1010, 1, ⟨8, 33554432, .wo⟩),
  (0x1010, 2, ⟨1, 1, .cmd⟩), (0x1010, 3, ⟨9, 16, .ro⟩),
  (0x2000, 1, ⟨1, 1, .ro⟩), (0x2000, 2, ⟨1, 1, .cmd⟩), (0x2001, 1, ⟨2, 2, .rw⟩), (0x2001, 2, ⟨2, 2, .rw⟩), (0x2002, 1, ⟨2, 2, .rw⟩),
  (0x2003, 1, ⟨1, 1, .rw⟩), (0x2003, 2, ⟨1, 1, .rw⟩), (0x2004, 1, ⟨2, 2, .rw⟩), (0x2004, 2, ⟨2, 2, .rw⟩), (0x2005, 1, ⟨1, 1, .rw⟩),
  (0x2006, 1, ⟨6, 4, .rw⟩), (0x2006, 2, ⟨6, 4, .rw⟩), (0x2006, 3, ⟨6, 4, .rw⟩), (0x2007, 1, ⟨6, 4, .rw⟩), (0x2007, 2, ⟨2, 2, .rw⟩),
  (0x2008, 1, ⟨3, 4, .rw⟩), (0x2009, 1, ⟨4, 8, .ro⟩), (0x200A, 1, ⟨9, 12, .ro⟩), (0x200A, 2, ⟨9, 28, .ro⟩),
  (0x3000, 0, ⟨2, 2, .rw⟩), (0x3000, 1, ⟨2, 2, .ro⟩), (0x3000, 2, ⟨1, 1, .ro⟩), (0x3001, 0, ⟨3, 4, .rw⟩), (0x3001, 1, ⟨3, 4, .rw⟩),
  (0x3001, 2, ⟨3, 4, .rw⟩), (0x3001, 3, ⟨3, 4, .rw⟩)]
/-- Entries of the other areas, by index and subindex. -/
def singles1 : List (Nat × Nat × Entry) := [
  (0x4000, 0, ⟨2, 2, .rw⟩), (0x4000, 1, ⟨3, 4, .rw⟩), (0x4000, 2, ⟨1, 1, .ro⟩), (0x4001, 0, ⟨4, 8, .rw⟩), (0x4002, 0, ⟨3, 4, .rw⟩),
  (0x4002, 1, ⟨2, 2, .rw⟩), (0x4003, 0, ⟨2, 2, .cmd⟩), (0x50A0, 0, ⟨3, 4, .rw⟩), (0x50C0, 0, ⟨2, 2, .cmd⟩),
  (0x6080, 0, ⟨9, 104, .rw⟩), (0x6080, 1, ⟨9, 24, .rw⟩), (0x6080, 2, ⟨9, 16, .rw⟩), (0x6080, 3, ⟨9, 24, .rw⟩),
  (0x7000, 0, ⟨3, 4, .ro⟩), (0x7000, 1, ⟨1, 1, .cmd⟩)]
/-- Arrays of entries: base index, number of items, the entry (R449, R450 to R452). -/
def arrays : List (Nat × Nat × Entry) := [
  (0x4010, 18, ⟨3, 4, .ro⟩), (0x4011, 18, ⟨2, 2, .ro⟩), (0x4012, 18, ⟨1, 1, .cmd⟩), (0x4100, 16384, ⟨3, 4, .rw⟩),
  (0x5000, 1024, ⟨9, 256, .rw⟩), (0x5010, 64, ⟨4, 8, .ro⟩), (0x5011, 64, ⟨4, 8, .ro⟩), (0x5012, 64, ⟨4, 8, .ro⟩),
  (0x5020, 1792, ⟨9, 80, .ro⟩), (0x5030, 4096, ⟨4, 8, .ro⟩), (0x5040, 2304, ⟨3, 4, .ro⟩), (0x5050, 2304, ⟨9, 64, .ro⟩),
  (0x5060, 2304, ⟨8, 32, .rw⟩), (0x5070, 2304, ⟨9, 128, .ro⟩), (0x5080, 2304, ⟨4, 8, .ro⟩), (0x50B0, 65, ⟨4, 8, .ro⟩),
  (0x6000, 2304, ⟨9, 3616, .rw⟩), (0x6010, 2304, ⟨9, 384, .rw⟩), (0x6020, 2304, ⟨9, 32, .rw⟩), (0x6030, 576, ⟨9, 544, .rw⟩),
  (0x6040, 64, ⟨9, 32, .rw⟩), (0x6050, 1024, ⟨9, 224, .rw⟩), (0x6060, 128, ⟨9, 80, .rw⟩), (0x6061, 32, ⟨9, 80, .rw⟩),
  (0x6070, 18, ⟨9, 184, .rw⟩), (0x7001, 256, ⟨9, 64, .ro⟩)]

/-- Item number of an entry of an array with a base (R450). -/
def itemOf (base index sub_ : Nat) : Nat := 256 * (index - base) + sub_
/-- The base index and entry of the array that holds an index and subindex. -/
def arrayOf (index sub_ : Nat) : Option (Nat × Entry) :=
  arrays.findSome? fun a => if a.1 ≤ index ∧ itemOf a.1 index sub_ < a.2.1 then some (a.1, a.2.2) else none
/-- The entry of an index and subindex. -/
def entryInfo (index sub_ : Nat) : Option Entry :=
  match (singles0 ++ singles1).find? fun e => e.1 = index ∧ e.2.1 = sub_ with
  | some e => some e.2.2
  | none => (arrayOf index sub_).map (·.2)
/-- Whether an index names a defined entry (R431). -/
def indexKnown (index : Nat) : Bool :=
  ((singles0 ++ singles1).any fun e => e.1 == index) || arrays.any fun a => decide (a.1 ≤ index) && decide (256 * (index - a.1) < a.2.1)

/-! ## Frames (R441) -/

/-- A response frame. -/
def lapFrame (op seq st type index sub_ offset total : Nat) (data : Bytes) : Bytes :=
  withCrc (layout 24 [(0, 2, 0x504C), (2, 1, 1), (3, 1, op), (4, 2, seq), (6, 1, st), (7, 1, type), (8, 2, index), (10, 1, sub_),
    (12, 4, offset), (16, 2, data.length), (18, 4, total)] ++ data)

/-- A source as the Ledger tells sources apart (R442): a peer by its number alone. -/
def srcKey : ReqSrc → ReqSrc
  | .elveel d _ => .elveel d 0
  | x => x

/-- Keep a response for 1 s: at most 16 of a source, at most 32 sources, the one heard least recently goes (R442). -/
def Dev.keep (s : Dev) (src : ReqSrc) (seq : Nat) (resp : Bytes) : Dev :=
  let k := srcKey src
  let old := (s.ledger.kept.find? fun p => p.1 = k).map (·.2) |>.getD []
  let new := old ++ [{ seq := seq, at_ := s.now, resp := resp }]
  let rest := s.ledger.kept.filter fun p => p.1 != k
  let rest := if rest.length ≥ 32 then rest.drop 1 else rest
  s.modLedger fun l => { l with kept := rest ++ [(k, new.drop (new.length - 16))] }
/-- The kept response of a request. -/
def Dev.keptFor (s : Dev) (src : ReqSrc) (seq : Nat) : Option Bytes :=
  ((s.ledger.kept.find? fun p => p.1 = srcKey src).map (·.2) |>.getD []).findSome? fun r =>
    if r.seq = seq ∧ s.now < r.at_ + second then some r.resp else none

/-- Send a LAP frame on the path that its request took. -/
def Dev.sendLap (s : Dev) (a : Asked) (frame : Bytes) : Dev := match a.req.src with
  | .udp _ _ => s.emit (.lap a.req.src frame)
  | .elveel d t =>
    let e := if a.pkt.op = opMgmt then a.pkt else { op := opMgmt, sdev := d, tid := t }
    s.sendReply e 0 frame a.port
  | _ => s

/-! ## Answers -/

/-- Bytes as one-byte fields of a record from an offset. -/
def byteFields (o : Nat) (bs : Bytes) : List (Nat × Nat × Nat) := bs.zipIdx.map fun p => (o + p.2, 1, p.1.toNat)

/-- Complete a LEDGER_READ or LEDGER_WRITE of a ring with a Ledger status (R371): data inline, or in the job-area buffer. -/
def Dev.ringAnswer (s : Dev) (r id st : Nat) (write : Bool) (data : Bytes) : Dev :=
  match (s.ring r).cmd id with
  | none => s
  | some c =>
    let buf := fld c.entry 16 8
    let inline := buf = 0 ∧ data.length ≤ 28
    let s := s.iff (st == 0 && !write && decide (¬ inline)) fun s => s.memPut buf data
    let fs := if write then [(32, 1, st)] else [(32, 1, st), (34, 2, data.length)] ++ if inline then byteFields 36 data else []
    s.done r id (if st = 0 then 0 else 0x53) fs

/-- Answer a request for an entry: a response frame that is kept, the completion of a ring's command, or an answer to firmware. -/
def Dev.respond (s : Dev) (a : Asked) (write : Bool) (index sub_ st total : Nat) (data : Bytes) : Dev :=
  let s := s.modLedger fun l => { l with asked := l.asked.filter fun b => b.req != a.req }
  match a.req.src with
  | .ring r => s.ringAnswer r a.req.seq st write data
  | .firmware => s.emit (.led a.req st data)
  | _ =>
    let type := ((entryInfo index sub_).map fun e => e.type).getD 0
    let f := lapFrame (if write then 0x82 else 0x81) a.req.seq st type index sub_ a.offset total data
    (s.keep a.req.src a.req.seq f).sendLap a f

/-- Answer a write whose act has ended. -/
def Dev.answerWrite (s : Dev) (req : Requester) (index sub_ st : Nat) : Dev :=
  let a := (s.ledger.asked.find? fun b => b.req = req).getD { req := req }
  s.respond a true index sub_ st (((entryInfo index sub_).map fun e => e.len).getD 0) []
/-- Note a write whose answer waits for its act. -/
def Dev.await (s : Dev) (a : Asked) : Dev := s.modLedger fun l => { l with asked := l.asked ++ [a] }

end Sys2Proof.Machine
end

