-- ==== Sys2Proof/Machine/Install.lean ====
section
/-! DEFINITION. What writes the flash in service: persistent entries (R444), recovery (R389, R447), installation of owner certificates and
minimum-version records (R391, R392), and the start of a live update (R475). Each act answers its request, or leaves it to the flash
operation that it queues. -/
namespace Sys2Proof.Machine

/-! ## Persistent entries (R444) -/

/-- The scalar entries that keep their values through power-off: index, subindex, bytes. -/
def rwpList : List (Nat × Nat × Nat) := (singles0 ++ singles1).filterMap fun e => match scalarRange e.1 e.2.1 with
  | some (_, _, true) => some (e.1, e.2.1, e.2.2.len)
  | _ => none
/-- The latest value of an entry, one whose write waits in the flash queue included. -/
def Dev.latest (s : Dev) (index sub_ : Nat) : Nat :=
  s.boot.flashOps.foldl (fun v o => match o.andThen with
    | .setEntry _ i u w => if i = index ∧ u = sub_ then w else v
    | _ => v) (s.entry index sub_)
/-- Append a value to the journal, in the other half when the active one is full (R444). -/
def Dev.journalPut (s : Dev) (index sub_ len value : Nat) (t : FlashThen) : Dev :=
  let g := s.ledger
  let seq := g.jseq + 1
  if g.jpos + jLen len ≤ jSize then
    (s.modLedger fun l => { l with jseq := seq, jpos := g.jpos + jLen len }).flashOp []
      [(jHalf g.jhalf + g.jpos, jRecord index sub_ len seq value)] t
  else
    let h := 1 - g.jhalf
    let val (e : Nat × Nat × Nat) : Nat := if e.1 = index ∧ e.2.1 = sub_ then value else s.latest e.1 e.2.1
    let bs := (rwpList.zipIdx.map fun p => jRecord p.1.1 p.1.2.1 p.1.2.2 (seq + p.2) (val p.1)).flatten
    let s := s.modLedger fun l => { l with jseq := g.jseq + rwpList.length, jhalf := h, jpos := bs.length }
    (s.flashOp [] [(jHalf h, bs)] .nothing).flashOp [(jHalf g.jhalf, jSize)] [] t
/-- Write a persistent entry: it has its value, and the request its answer, when the flash holds the record. -/
def Dev.persistEntry (s : Dev) (a : Asked) (index sub_ len value : Nat) : Dev :=
  (s.await a).journalPut index sub_ len value (.setEntry a.req index sub_ value)

/-! ## Recovery (R389, R447) -/

/-- Whether recovery acts in the present state: in the safe state, in D-READY and in D-RUN. -/
def Dev.recoverable (s : Dev) : Bool := s.boot.safe || s.lit
/-- Whether a slot may be written: in service, only the one that the boot record does not prefer, and none during a live update. -/
def Dev.slotOpen (s : Dev) (slot : Nat) : Bool := s.recoverable && (s.boot.safe || (slot != s.bootRec.pref && s.service.update.isNone))
/-- RECOVERY_BEGIN: the status, and the recovery. -/
def Dev.recBegin (s : Dev) (a : Asked) (slot total : Nat) : Dev :=
  let no (st : Nat) : Dev := s.respond a true 0x1010 0 st 8 []
  if 1 < slot ∨ total = 0 ∨ 33554432 < total then no 7
  else if !s.slotOpen slot then no 8
  else if s.boot.recovery.isSome then no 9
  else
    let s := s.modBoot fun b => { b with recovery := some { slot := slot, total := total, chunks := [], last := s.now } }
    (s.await a).flashOp [(sourceAt slot, 0x02000000)] [] (.recoveryErased a.req)

/-- Whether a chunk meets one already written. -/
def Recovery.overlaps (r : Recovery) (off n : Nat) : Bool := r.chunks.any fun c => decide (off < c.1 + c.2) && decide (c.1 < off + n)
/-- RECOVERY_DATA: each chunk of at most 1,024 bytes is written at once. -/
def Dev.recData (s : Dev) (a : Asked) (off : Nat) (data : Bytes) : Dev :=
  let no (st : Nat) : Dev := s.respond a true 0x1010 1 st 33554432 []
  let n := data.length
  if n = 0 ∨ 1024 < n ∨ 33554432 < off + n then no 6
  else match s.boot.recovery with
    | none => no 8
    | some r =>
      if !s.recoverable ∨ !r.erased ∨ r.checking ∨ r.overlaps off n then no 8
      else
        let s := s.modBoot fun b => { b with recovery := some { r with chunks := r.chunks ++ [(off, n)], last := s.now } }
        (s.await a).flashOp [] [(sourceAt r.slot + off, data)] (.answer a.req 0x1010 1)

/-- RECOVERY_COMMIT, 1: the slot is read and checked once the flash operations before it have ended. -/
def Dev.recCommit (s : Dev) (a : Asked) : Dev := match s.boot.recovery with
  | none => s.respond a true 0x1010 2 8 1 []
  | some r =>
    if !s.recoverable ∨ !r.erased ∨ r.checking then s.respond a true 0x1010 2 8 1 []
    else
      let s := s.modBoot fun b => { b with recovery := some { r with checking := true } }
      (s.await a).flashOp [] [] (.recoveryCheck a.req)
/-- RECOVERY_COMMIT, 2: abort. -/
def Dev.recAbort (s : Dev) (a : Asked) : Dev :=
  if s.boot.recovery.isNone then s.respond a true 0x1010 2 8 1 []
  else (s.modBoot fun b => { b with recovery := none }).respond a true 0x1010 2 0 1 []

/-- RECOVERY_IDLE_TIMEOUT (R389). -/
def recoveryIdleTimeout (s : Dev) : Dev := match s.boot.recovery with
  | some r => if !r.checking && r.erased && decide (r.last + 60 * second ≤ s.now) then s.modBoot fun b => { b with recovery := none } else s
  | none => s
def execRecoveryIdleTimeout (s : State) : Host.Outcome State Fault Refusal := s.act recoveryIdleTimeout

/-- The 16 bytes of RECOVERY_STATE (R446). -/
def Boot.recoveryState (b : Boot) : Bytes := match b.recovery with
  | none => layout 16 [(8, 1, b.recStatus)]
  | some r => layout 16 [(0, 1, if r.checking then 2 else 1), (1, 1, r.slot), (4, 4, (r.chunks.map (·.2)).sum), (8, 1, b.recStatus)]

/-! ## Live update (R475) -/

/-- Write a record of an event to the fault log that persists (R455). The manual gives it no EKIND and no unit. -/
def Dev.eventLog (s : Dev) (detail : Nat) : Dev :=
  let (u, s) := s.draw
  (s.logAdd { seq := 0, persist := true, ekind := u % 65536, uclass := u / 65536 % 256, unit := u / 2 ^ 24 % 2 ^ 32,
              detail := BitVec.ofNat 64 detail }).2

/-- A live update starts: the Warden firmware and the self-test set are replaced, the Clerks follow one by one. -/
def Dev.liveStart (s : Dev) (slot : Nat) : Dev :=
  let d := compDigests (s.flashAt (sourceAt slot) 576)
  let s := s.modBoot fun b => { b with running := (b.running.set 1 (d.get 1)).set 3 (d.get 3) }
  s.modSvc fun v => { v with update := some 0, updSlot := slot,
                             clerks := (List.range 36).foldl (fun t k => t.mod k fun c => { c with newFw := false }) v.clerks }
/-- The last live component is in service. -/
def Dev.liveEnd (s : Dev) : Dev :=
  let slot := s.service.updSlot
  let h := s.flashAt (sourceAt slot) 576
  let s := s.bootRecLater { s.bootRec with trial := false } .trialCleared
  let s := s.modBoot fun b => { b with running := b.running.set 2 ((compDigests h).get 2), liveUpdated := true }
  let s := s.modSvc fun v => { v with update := none }
  each [1, 2, 3] (fun t s => (s.event 0x39 [(32, 1, t), (36, 4, fld h 24 4)]).eventLog t) s
/-- A live update stops: those already updated reload from the other slot once that passes R384 again, and PREF returns to it. -/
def Dev.liveFail (s : Dev) (type status : Nat) : Dev :=
  let old := 1 - s.service.updSlot
  let s := (s.event 0x3A [(32, 1, type), (33, 1, status)]).eventLog type
  let s := s.modSvc fun v => { v with update := none }
  if (s.imageCheck old (minverSvn s.boot.minver)).status ≠ 0 then s
  else
    let d := compDigests (s.flashAt (sourceAt old) 576)
    let s := s.modBoot fun b => { b with running := ((b.running.set 1 (d.get 1)).set 2 (d.get 2)).set 3 (d.get 3) }
    let s := s.modSvc fun v => { v with clerks := (List.range 36).foldl (fun t k => t.mod k fun c => { c with newFw := false }) v.clerks }
    s.bootRecLater { s.bootRec with pref := old, trial := false, tries := 0 } .trialCleared

/-- The next Clerk of a live update that is in service. -/
def nextClerk (t : Tab Clerk) (k : Nat) : Option Nat := (List.range 36).find? fun i => decide (k ≤ i) && (t.get i : Clerk).up
/-- CLERK_UPDATE (R475): the next Clerk loads the new firmware, whose digest must match, passes CLERK, and rejoins. -/
def clerkUpdate (digestOk pass : Bool) (s : Dev) : Dev := match s.service.update with
  | none => s
  | some k => match nextClerk s.service.clerks k with
    | none => s.liveEnd
    | some i =>
      if !digestOk then s.liveFail 2 0x0B
      else if !pass then s.liveFail 2 0xFF
      else
        let s := s.modSvc fun v => { v with update := some (i + 1),
                                            clerks := v.clerks.mod i fun c => { c with newFw := true, wdtAt := s.now, testAt := s.now } }
        if (nextClerk s.service.clerks (i + 1)).isNone then s.liveEnd else s
def execClerkUpdate (digestOk pass : Bool) (s : State) : Host.Outcome State Fault Refusal := s.act (clerkUpdate digestOk pass)

/-- A commit's check ends (R389, R447): on OK the boot record is to prefer the slot, on trial. Its answer is OK, else RANGE;
RECOVERY_STATE holds the status of R384. -/
def Dev.commitChecked (s : Dev) (req : Requester) (readOk : Bool) : Dev := match s.boot.recovery with
  | none => s.answerWrite req 0x1010 2 8
  | some r =>
    let st := if readOk then (s.imageCheck r.slot (minverSvn s.boot.minver)).status else 0x01
    let s := s.modBoot fun b => { b with recovery := none, recStatus := st }
    if st ≠ 0 then s.answerWrite req 0x1010 2 (if readOk then 7 else 11)
    else
      s.bootRecLater { s.bootRec with pref := r.slot, trial := true, tries := 0 } (.prefSet req r.slot)
/-- The boot record prefers the slot: the answer, and the cold boot or the live update. -/
def Dev.prefDone (s : Dev) (req : Requester) (slot : Nat) : Dev :=
  let s := s.answerWrite req 0x1010 2 0
  if s.boot.safe then s.coldBoot else s.liveStart slot

/-! ## Owner certificates and minimum versions (R391, R392) -/

/-- OWNER_INSTALL: a certificate that fails a check gets RANGE (R447). -/
def Dev.ownerInstall (s : Dev) (a : Asked) (cert : Bytes) : Dev :=
  if !ownerOk s.ident cert ∨ ownerSerial cert ≤ ownerSerial s.boot.ownerCert then s.respond a true 0x1004 1 7 3652 []
  else
    let o := s.olderCopy owner0 owner1 3652 (ownerOk s.ident) ownerSerial
    (s.await a).flashOp [(o, 0x10000)] [(o, cert)] (.answer a.req 0x1004 1)
/-- SVN of the running image and of the golden image. -/
def Dev.lowestSvn (s : Dev) : Nat := min (fld s.boot.header 20 4) (fld (s.flashAt (sourceAt 2) 576) 20 4)
/-- MINVER_INSTALL. -/
def Dev.minverInstall (s : Dev) (a : Asked) (rcd : Bytes) : Dev :=
  if !minverOk s.ident rcd ∨ minverSeq rcd ≤ minverSeq s.boot.minver ∨ minverSvn rcd < minverSvn s.boot.minver
      ∨ s.lowestSvn < minverSvn rcd then s.respond a true 0x1005 1 7 3460 []
  else
    let o := s.olderCopy minver0 minver1 3460 (minverOk s.ident) minverSeq
    (s.await a).flashOp [(o, 0x10000)] [(o, rcd)] (.answer a.req 0x1005 1)

end Sys2Proof.Machine
end

