-- ==== Sys2Proof/Machine/Spdm.lean ====
section
/-! DEFINITION. Attestation: the SPDM 1.3 responder on the Porter link (R399), the report (R400, R401), the LMS leaves (R397, R398). The
manual names SPDM 1.3 for the messages and lays out none of them: their layouts are those of DSP0274 1.3 (PRESUMED, see
notes/assumptions). -/
namespace Sys2Proof.Machine

/-- Send an SPDM message to the host. -/
def Dev.spdm (s : Dev) (m : Bytes) : Dev := s.emit (.porter (porterFrame 0x06 m))
/-- An ERROR response of a code. -/
def spdmError (code : Nat) : Bytes := bytesOf [0x13, 0x7F, code, 0]
/-- Error codes of SPDM. -/
abbrev spInvalid : Nat := 0x01
abbrev spBusy : Nat := 0x03
abbrev spUnexpected : Nat := 0x04
abbrev spUnspecified : Nat := 0x05
abbrev spVersion : Nat := 0x41

abbrev spUnsupported : Nat := 0x07
/-- Request codes of the seven requests that R399 supports. -/
def spdmCodes : List Nat := [0x81, 0x82, 0x83, 0x84, 0xE0, 0xE1, 0xE3]

/-- A request with a code, over a link that is up: refused with an error when its version or its place is wrong, else f. A request that
R399 does not support is refused; one of another supported code is another row's. -/
def Dev.spdmReq (s : Dev) (code : Nat) (m : Bytes) (inPlace : Bool) (f : Dev → Dev) : Dev :=
  if !s.lit ∨ !s.porterUp then s
  else if !spdmCodes.contains (byte m 1) then s.spdm (spdmError spUnsupported)
  else if byte m 1 ≠ code then s
  else if byte m 0 ≠ (if code = 0x84 then 0x10 else 0x13) then s.spdm (spdmError spVersion)
  else if !inPlace then s.spdm (spdmError spUnexpected)
  else f s

/-- 32 free bytes. -/
def Dev.nonce (s : Dev) : Bytes × Dev := let (r, s) := s.draw; (leBytes 32 r, s)

/-! ## Version, capabilities, algorithms -/

/-- GET_VERSION: version 1.3 alone. It starts the exchange anew. -/
def getVersion (m : Bytes) (s : Dev) : Dev := s.spdmReq 0x84 m true fun s =>
  let r := bytesOf [0x10, 0x04, 0, 0, 0, 1, 0x00, 0x13]
  let b := s.boot
  { s with boot := { b with spdmVersion := true, spdmCaps := false, spdmAlgs := false, spdmA := m ++ r, spdmB := [], spdmL := [] } }.spdm r
def execGetVersion (msg : Bytes) (s : State) : Host.Outcome State Fault Refusal := s.act (getVersion msg)

/-- GET_CAPABILITIES: CERT_CAP, CHAL_CAP, MEAS_CAP with signatures; 4,096 bytes a message. The CT exponent is a free value. -/
def getCapabilities (m : Bytes) (s : Dev) : Dev := s.spdmReq 0xE1 m s.boot.spdmVersion fun s =>
  let (ct, s) := s.draw
  let r := layout 20 [(0, 1, 0x13), (1, 1, 0x61), (5, 1, ct), (8, 4, 0x16), (12, 4, 4096), (16, 4, 4096)]
  let b := s.boot
  { s with boot := { b with spdmCaps := true, spdmA := b.spdmA ++ m ++ r } }.spdm r
def execGetCapabilities (msg : Bytes) (s : State) : Host.Outcome State Fault Refusal := s.act (getCapabilities msg)

/-- NEGOTIATE_ALGORITHMS: ECDSA P-384, SHA-384, the DMTF measurement specification; a request that offers less is invalid. -/
def negotiateAlgorithms (m : Bytes) (s : Dev) : Dev := s.spdmReq 0xE3 m s.boot.spdmCaps fun s =>
  if !bit (fld m 8 4) 7 ∨ !bit (fld m 12 4) 1 then s.spdm (spdmError spInvalid)
  else
    let r := layout 36 [(0, 1, 0x13), (1, 1, 0x63), (4, 2, 36), (6, 1, 1), (8, 4, 4), (12, 4, 0x80), (16, 4, 2)]
    let b := s.boot
    { s with boot := { b with spdmAlgs := true, spdmA := b.spdmA ++ m ++ r } }.spdm r
def execNegotiateAlgorithms (msg : Bytes) (s : State) : Host.Outcome State Fault Refusal := s.act (negotiateAlgorithms msg)

/-! ## The certificate chain (R395) -/

/-- Length of the DER object at the head of some bytes. -/
def derLen (b : Bytes) : Nat :=
  let n := byte b 1
  if n < 0x80 then 2 + n else 2 + (n - 0x80) + beVal (sub b 2 (n - 0x80))
/-- The certificates of the chain in flash: the region without the erased bytes at its end. -/
def Dev.certChain (s : Dev) : Bytes :=
  ((s.flashAt 0x06070000 65536).reverse.dropWhile fun b => b == 0xFF#8).reverse
/-- The chain as SPDM carries it: length, root digest, certificates. -/
def Dev.spdmChain (s : Dev) : Bytes :=
  let c := s.certChain
  leBytes 2 (52 + c.length) ++ zeros 2 ++ sha384 (c.take (derLen c)) ++ c

/-- GET_DIGESTS: slot 0. -/
def getDigests (m : Bytes) (s : Dev) : Dev := s.spdmReq 0x81 m s.boot.spdmAlgs fun s =>
  let r := bytesOf [0x13, 0x01, 1, 1] ++ sha384 s.spdmChain
  let b := s.boot
  { s with boot := { b with spdmB := b.spdmB ++ m ++ r, spdmL := [] } }.spdm r
def execGetDigests (msg : Bytes) (s : State) : Host.Outcome State Fault Refusal := s.act (getDigests msg)

/-- GET_CERTIFICATE: a portion of slot 0. -/
def getCertificate (m : Bytes) (s : Dev) : Dev := s.spdmReq 0x82 m s.boot.spdmAlgs fun s =>
  let c := s.spdmChain
  let off := fld m 4 2
  if byte m 2 % 16 ≠ 0 ∨ c.length ≤ off then s.spdm (spdmError spInvalid)
  else
    let d := (c.drop off).take (min (fld m 6 2) (4096 - 8))
    let r := layout 8 [(0, 1, 0x13), (1, 1, 0x02), (4, 2, d.length), (6, 2, c.length - off - d.length)] ++ d
    let b := s.boot
    { s with boot := { b with spdmB := b.spdmB ++ m ++ r, spdmL := [] } }.spdm r
def execGetCertificate (msg : Bytes) (s : State) : Host.Outcome State Fault Refusal := s.act (getCertificate msg)

/-! ## Signatures -/

/-- The identity scalar. -/
def Boot.scalar (b : Boot) : Nat := (b.k.map identityScalar).getD 0
/-- The message that an SPDM signature signs: the prefix of version 1.3, the context, and the transcript's digest. -/
def spdmSigned (ctx : String) (transcript : Bytes) : Bytes :=
  let v := strBytes "dmtf-spdm-v1.3.*"
  let c := strBytes ctx
  v ++ v ++ v ++ v ++ zeros (36 - c.length) ++ c ++ sha384 transcript
/-- A signature by the identity ECDSA key over a transcript, with a nonce that is a free value. -/
def Dev.spdmSign (s : Dev) (ctx : String) (transcript : Bytes) : Bytes × Dev :=
  let (r, s) := s.draw
  (ecdsaSign s.boot.scalar (sha384 (spdmSigned ctx transcript)) r, s)

/-! ## Measurements (R399, R400) -/

/-- The digest of a record that may be absent: of no bytes when none is in force. -/
def Boot.measured (b : Boot) (i : Nat) : Option Bytes :=
  if 1 ≤ i ∧ i ≤ 5 then (if (b.running.get i).isEmpty then none else some (b.running.get i))
  else if i = 0x10 then some (sha384 b.ownerCert)
  else if i = 0x11 then some (sha384 b.minver)
  else none
/-- A measurement block: index, DMTF specification, size, value type, value. -/
def measBlock (i type : Nat) (v : Bytes) : Bytes := bytesOf [i, 1] ++ leBytes 2 (v.length + 3) ++ bytesOf [type] ++ leBytes 2 v.length ++ v
/-- Value type of a digest block. -/
def measType (i : Nat) : Nat := if i ≤ 5 then 1 else 3
/-- The digest blocks, in index order. -/
def Boot.digestBlocks (b : Boot) : List Bytes :=
  [1, 2, 3, 4, 5, 0x10, 0x11].filterMap fun i => (b.measured i).map fun v => measBlock i (measType i) v

/-- CHALLENGE: an identity signature over the exchanges before it. -/
def challenge (m : Bytes) (s : Dev) : Dev := s.spdmReq 0x83 m s.boot.spdmAlgs fun s =>
  if byte m 2 % 16 ≠ 0 then s.spdm (spdmError spInvalid)
  else
    let (n, s) := s.nonce
    let sum := if byte m 3 = 0 then [] else sha384 s.boot.digestBlocks.flatten
    let r := bytesOf [0x13, 0x03, 0, 1] ++ sha384 s.spdmChain ++ n ++ sum ++ zeros 2 ++ sub m 36 8
    let (sig, s) := s.spdmSign "responder-challenge_auth signing" (s.boot.spdmA ++ s.boot.spdmB ++ m ++ r)
    let b := s.boot
    { s with boot := { b with spdmB := [], spdmL := [] } }.spdm (r ++ sig)
def execChallenge (msg : Bytes) (s : State) : Host.Outcome State Fault Refusal := s.act (challenge msg)

/-- Which buffer holds a complete tree. -/
def Dev.treeBuffer (s : Dev) (j : Nat) : Option Nat := [0, 1].find? fun i => s.lmsTreeIn i == some j && s.boot.lmsTrees.contains j
/-- Node r of the tree in a buffer. -/
def Dev.treeNode (s : Dev) (base r : Nat) : Bytes := s.flashAt (base + 32 * (r - 1)) 32
/-- The HSS signature of a message by leaf q (R396, R397). -/
def Dev.hssSign (s : Dev) (k : Bytes) (buf q : Nat) (c msg : Bytes) : Bytes :=
  let h := s.flashAt (lmsHeadAt buf) lmsHeadLen
  let (i, seed) := lmsSecond k (q / 32768)
  beBytes 4 1 ++ sub h 60 1612 ++ sub h 4 56 ++ lmsSign i seed (s.treeNode (lmsNodesAt buf)) (q % 32768) c msg

/-- The 256-byte body of the attestation report (R400). -/
def Dev.reportBody (s : Dev) (nonce : Bytes) (q : Nat) : Bytes :=
  let b := s.boot
  let owned := !b.ownerCert.isEmpty && !isRelease b.ownerCert
  let flags := b2n owned + 2 * b2n (owned && bit (byte b.ownerCert 6) 0) + 4 * b2n b.trialBoot + 8 * b2n b.liveUpdated
  layout 32 [(0, 4, 0x52414C54), (4, 1, 1), (5, 1, 1), (6, 1, 1), (7, 1, 1), (8, 1, 0x11), (9, 1, b.booted.getD 0),
    (10, 1, s.elveel.inc), (11, 1, flags), (12, 4, fld b.header 20 4), (16, 4, fld b.header 24 4), (20, 4, minverSeq b.minver),
    (24, 4, minverSvn b.minver), (28, 4, ownerSerial b.ownerCert)] ++ sub nonce 0 32
    ++ ((b.k.map identityDigest).getD (zeros 48)) ++ sub b.imageDig 0 48
    ++ sha384 ([1, 2, 3, 4, 5].flatMap fun i => b.running.get i) ++ sub b.ownerCert 24 16 ++ leBytes 4 q ++ zeros 28
/-- The whole report, signed by both identity keys (R350, R400). -/
def Dev.report (s : Dev) (k : Bytes) (nonce : Bytes) (buf q : Nat) : Bytes × Dev :=
  let b := s.reportBody nonce q
  let all := b ++ layout 16 [(0, 4, 0x524C5254), (4, 4, (crc32c b).toNat), (8, 4, 3380)]
  let d := sha384 all
  let (r, s) := s.draw
  let (c, s) := s.nonce
  (all ++ ecdsaSign s.boot.scalar d r ++ s.hssSign k buf q c d, s)

/-- The requester's nonce of a GET_MEASUREMENTS: present when it asks for a signature. -/
def measNonce (m : Bytes) : Bytes := if bit (byte m 2) 0 then sub m 4 32 else zeros 32
/-- The requester's context of a GET_MEASUREMENTS. -/
def measCtx (m : Bytes) : Bytes := if bit (byte m 2) 0 then sub m 37 8 else sub m 4 8

/-- Answer a GET_MEASUREMENTS with a record of blocks. -/
def Dev.measAnswer (s : Dev) (m : Bytes) (blocks : List Bytes) : Dev :=
  let (n, s) := s.nonce
  let rcd := blocks.flatten
  let total := if byte m 3 = 0 then s.boot.digestBlocks.length + 1 else 0
  let r := bytesOf [0x13, 0x60, total, 0, blocks.length] ++ leBytes 3 rcd.length ++ rcd ++ n ++ zeros 2 ++ measCtx m
  let l := s.boot.spdmL ++ m ++ r
  if bit (byte m 2) 0 then
    let (sig, s) := s.spdmSign "responder-measurements signing" (s.boot.spdmA ++ l)
    (s.modBoot fun b => { b with spdmL := [], spdmB := [] }).spdm (r ++ sig)
  else (s.modBoot fun b => { b with spdmL := l, spdmB := [] }).spdm r

/-- Sign a fresh report with the next leaf and answer. -/
def Dev.freshReport (s : Dev) (m : Bytes) : Dev := match s.boot.k, s.treeBuffer (s.boot.lmsNext / 32768) with
  | some k, some buf =>
    let q := s.boot.lmsNext
    let s := s.modBoot fun b => { b with lmsNext := q + 1, allowance := b.allowance - 1 }
    let (r, s) := s.report k (measNonce m) buf q
    s.measAnswer m [measBlock 0xF0 0x84 r]
  | _, _ => s.spdm (spdmError spBusy)

/-- The record slot that a reservation takes: the next erased slot of the active sector, else the first of the other; and the sector that
is erased once that record reads back (R397). -/
def Dev.lmsPlace (s : Dev) : Nat × Option Nat :=
  let top (sec : Nat) : Nat := (s.lmsNexts sec).foldl max 0
  let act := if top 0 < top 1 then 1 else 0
  match (List.range 2048).find? fun i => (List.range (2048 - i)).all fun k => s.lmsErased act (i + k) with
  | some i => (lmsSlot act i, none)
  | none => (lmsSlot (1 - act) 0, some act)

/-- Block 0xF0 (R397, R400, R401): no leaf, no allowance, no tree, a new reservation, or the report. -/
def Dev.reportAsked (s : Dev) (m : Bytes) : Dev :=
  let b := s.boot
  if b.lmsLost || b.k.isNone || decide (2 ^ 30 ≤ b.lmsNext) then s.spdm (spdmError spUnspecified)
  else if b.allowance = 0 then s.spdm (spdmError spBusy)
  else if (s.treeBuffer (b.lmsNext / 32768)).isNone then s.spdm (spdmError spBusy)
  else if b.lmsNext < b.lmsLimit then s.freshReport m
  else
    let (at_, _) := s.lmsPlace
    s.flashOp [] [(at_, lmsRecord (b.lmsLimit + 1024))] (.lmsLimit (b.lmsLimit + 1024) m)
/-- A reservation reads back (R397): the limit rises, a sector that was full is erased, and the report that waited is made. -/
def Dev.lmsReserved (s : Dev) (limit : Nat) (m : Bytes) : Dev :=
  let full := [0, 1].filter fun sec => !(s.lmsNexts sec).isEmpty && !(s.lmsNexts sec).contains limit
    && (List.range 2048).all fun i => !s.lmsErased sec i
  let s := s.modBoot fun b => { b with lmsLimit := max b.lmsLimit limit }
  let s := s.iff (!full.isEmpty) fun s => s.flashOp (full.map fun sec => (lmsSlot sec 0, 0x10000)) [] .nothing
  s.reportAsked m

/-- GET_MEASUREMENTS: the number of blocks, one block, or all digest blocks: a response with the report among all would exceed the
transfer size. -/
def getMeasurements (m : Bytes) (s : Dev) : Dev := s.spdmReq 0xE0 m s.boot.spdmAlgs fun s =>
  let op := byte m 3
  if bit (byte m 2) 0 ∧ byte m 36 % 16 ≠ 0 then s.spdm (spdmError spInvalid)
  else if op = 0 then s.measAnswer m []
  else if op = 0xFF then s.measAnswer m s.boot.digestBlocks
  else if op = 0xF0 then s.reportAsked m
  else match s.boot.measured op with
    | some v => s.measAnswer m [measBlock op (measType op) v]
    | none => s.spdm (spdmError spInvalid)
def execGetMeasurements (msg : Bytes) (s : State) : Host.Outcome State Fault Refusal := s.act (getMeasurements msg)

/-! ## Trees and the allowance (R398, R401) -/

/-- LMS_TREE_BUILD (R398): with 16,384 or fewer leaves of the current tree left, the next tree is built in the free buffer, and its public
key signed by its top leaf. It is used once its header reads back. Where the tree of the next leaf itself is not complete, the tree before
it is the current one, which has none left (DEDUCED, notes/assumptions/68.md). The flash must be free of other operations (R380). -/
def lmsTreeBuild (readBackOk : Bool) (s : Dev) : Dev :=
  let b := s.boot
  let j := b.lmsNext / 32768
  match b.k with
  | none => s
  | some k =>
    let t := if (s.treeBuffer j).isNone then j else j + 1
    if !b.fwRun ∨ b.lmsLost ∨ !b.flashOps.isEmpty ∨ (t = j + 1 ∧ 16384 < 32768 * (j + 1) - b.lmsNext) ∨ 32768 ≤ t
        ∨ (s.treeBuffer t).isSome then s
    else
      let buf := if s.treeBuffer j = some 0 then 1 else 0
      let (i, seed) := lmsSecond k t
      let nodes := lmsNodes i seed
      let pub := lmsPublic i (nodes.headD [])
      let (ti, tseed) := lmsTop k
      let (c, s) := s.nonce
      let sig := lmsSign ti tseed (s.treeNode 0x07100000) t c pub
      let s := s.flashNow [(lmsNodesAt buf, 0x200000), (lmsHeadAt buf, 0x10000)]
        [(lmsNodesAt buf, nodes.flatten), (lmsHeadAt buf, lmsHeader t pub sig)]
      s.iff readBackOk fun s => s.modBoot fun b => { b with lmsTrees := (b.lmsTrees.filter fun x => x == j && x != t) ++ [t] }
def execLmsTreeBuild (readBackOk : Bool) (s : State) : Host.Outcome State Fault Refusal := s.act (lmsTreeBuild readBackOk)

/-- REPORT_ALLOWANCE_REFILL (R401). -/
def reportAllowanceRefill (s : Dev) : Dev :=
  if s.boot.fwRun && decide (s.boot.allowAt + second ≤ s.now) then
    s.modBoot fun b => { b with allowance := min 64 (b.allowance + 1), allowAt := b.allowAt + second }
  else s
def execReportAllowanceRefill (s : State) : Host.Outcome State Fault Refusal := s.act reportAllowanceRefill

end Sys2Proof.Machine
end

