-- ==== Sys2Proof/WellFormed.lean ====
section
/-! DEFINITION. Well-formed commands: every unit that a command names is a unit of the part (R11, R14, R15, R23, R29, R312,
R324, R363, R471, R487). A meaning stops with noSuchUnit on a command that is not well formed in this sense. -/
namespace Sys2Proof

/-- Whether a unit number names a tile with a Trestle core: a Stall or a Chest (R23, R458). -/
def isTile (u : Nat) : Bool := decide (u < 0x900) || (decide (0x1000 ≤ u) && decide (u < 0x1900))

/-- Sensors of a group (R419). -/
def groupSize : SensorGroup → Nat
  | .block => 624
  | .hotspot => 20
  | .hbm => 8
  | .optical => 4

/-- Whether a configuration word exists (R466). -/
def ScrubWord.there : ScrubWord → Bool
  | .frontShelf b _ => decide (b < 576)
  | .backShelf b _ => decide (b < 576)
  | .switchMap b => decide (b < 576)
  | .gridMap col => decide (col < 48)
  | .route dev => decide (dev < 16384)
  | .board lot => decide (lot < 64)

/-- Whether every unit that a command names exists. -/
def Instr.wf : Instr → Bool
  | .aonPwrokRise _ => true
  | .pufRetry _ => true
  | .aonPwrokFall => true
  | .resetLFall => true
  | .resetLRise _ _ => true
  | .bringUp _ => true
  | .powerStageRaise _ => true
  | .pwrPgRise i => decide (i < 12)
  | .pwrPgFall i => decide (i < 12)
  | .powerGoodTimeout i => decide (i < 12)
  | .powerStageLower => true
  | .mainPllLossOfLock => true
  | .thermalTrip group idx _ => decide (idx < groupSize group)
  | .dreqDAon _ => true
  | .dreqDReady _ => true
  | .sparingMapBuild => true
  | .governorTick => true
  | .blockReachesRun b => decide (b < 576)
  | .blockIdleEntry b => decide (b < 576)
  | .memberClockStart lot => decide (lot < 64)
  | .blockRetentionEntry b => decide (b < 576)
  | .sensorSample group readings => readings.length == groupSize group
  | .stretchUpdate => true
  | .avsPoll rail _ _ _ => decide (rail < 6)
  | .voltageTrim rail _ _ => decide (rail < 4)
  | .forecastCompute => true
  | .forecast => true
  | .plantStatus _ _ => true
  | .plantLost => true
  | .plantLimited => true
  | .plantOk => true
  | .laserSample powers => powers.length == 4
  | .lotForm => true
  | .lotRelease => true
  | .lotReleaseDone lot => decide (lot < 64)
  | .ctxDefine => true
  | .ctxBind => true
  | .ctxUnbind => true
  | .faultAck => true
  | .drain => true
  | .undrain => true
  | .loadShelf r => decide (r < 64)
  | .shelfLoadStart => true
  | .shelfLoaded => true
  | .preloadComplete lot => decide (lot < 64)
  | .swapShelf r => decide (r < 64)
  | .swapShelfPitchScope r => decide (r < 64)
  | .shelfSwap lot => decide (lot < 64)
  | .demandSwap lot => decide (lot < 64)
  | .launchLaidRun r => decide (r < 64)
  | .launchTileTask r => decide (r < 64)
  | .taskPlace ctx => decide (ctx < 1024)
  | .taskStart slot => decide (slot < 4096)
  | .beatStart lot => decide (lot < 64)
  | .laidRunComplete lot => decide (lot < 64)
  | .beatTimeout lot => decide (lot < 64)
  | .stepCommit r => decide (r.at_ < 64)
  | .stepCommitProcess => true
  | .fence r => decide (r < 65)
  | .copy r => decide (r.at_ < 65)
  | .memAtomic r => decide (r < 65)
  | .collStart r => decide (r < 64)
  | .cycleLoad r => decide (r < 64)
  | .cycleStart r => decide (r < 64)
  | .queueReset r => decide (r < 64)
  | .ledgerRead r => decide (r < 65)
  | .ledgerWrite r => decide (r < 65)
  | .eventMask r => decide (r < 65)
  | .nopCommand r => decide (r < 65)
  | .frameStart lot => decide (lot < 64)
  | .windowWakeLead lot => decide (lot < 64)
  | .windowStart lot => decide (lot < 64)
  | .windowEnd lot => decide (lot < 64)
  | .teardownDone ctx => decide (ctx < 1024)
  | .ringWr _ => true
  | .doorbell _ => true
  | .evtAck _ => true
  | .mwr _ => true
  | .mrd _ => true
  | .porterLinkUp => true
  | .porterLinkLoss => true
  | .getVersion _ => true
  | .getCapabilities _ => true
  | .negotiateAlgorithms _ => true
  | .getDigests _ => true
  | .getCertificate _ => true
  | .challenge _ => true
  | .getMeasurements _ => true
  | .lmsTreeBuild _ => true
  | .reportAllowanceRefill => true
  | .lapRead _ _ => true
  | .lapWrite _ _ => true
  | .lapStagingTimeout _ _ => true
  | .violationRead _ chest => decide (chest < 2304)
  | .ownerInstall _ _ => true
  | .minverInstall _ _ => true
  | .recoveryBegin _ _ _ => true
  | .recoveryData _ _ _ => true
  | .recoveryCommit _ => true
  | .recoveryAbort _ => true
  | .recoveryIdleTimeout => true
  | .peerinv _ dev => decide (dev < 65536)
  | .retrain _ port => decide (port < 18)
  | .qreset _ value => decide (value < 65536)
  | .logclear _ => true
  | .mma n => decide (n < 2304)
  | .mmaDrainComplete n _ => decide (n < 2304)
  | .epilogueComplete n _ => decide (n < 2304)
  | .epiLate n => decide (n < 2304)
  | .epiSendTimeout n => decide (n < 2304)
  | .vec n => decide (n < 2304)
  | .vecProg n => decide (n < 2304)
  | .vectorLaunchComplete n _ => decide (n < 2304)
  | .epi n => decide (n < 2304)
  | .epiProg n => decide (n < 2304)
  | .movLd n => decide (n < 2304)
  | .movSt n => decide (n < 2304)
  | .moveComplete n => decide (n < 2304)
  | .movZero n => decide (n < 2304)
  | .movTt n => decide (n < 2304)
  | .send n => decide (n < 2304)
  | .sendAccept n => decide (n < 2304)
  | .sendTimeout n => decide (n < 2304)
  | .recv n => decide (n < 2304)
  | .recvTimeout n => decide (n < 2304)
  | .waitBeat n => decide (n < 2304)
  | .waitIdle n => decide (n < 2304)
  | .loop n => decide (n < 2304)
  | .endOrder n => decide (n < 2304)
  | .endComplete n => decide (n < 2304)
  | .nop n => decide (n < 2304)
  | .bellRing n => decide (n < 2304)
  | .bellWait n => decide (n < 2304)
  | .bellTimeout n => decide (n < 2304)
  | .bellRemote n => decide (n < 2304)
  | .chestGrant c _ => decide (c < 2304)
  | .heldWaitTimeout c => decide (c < 2304)
  | .slotStarved c port => decide (c < 2304) && decide (port < 16)
  | .streamFlitSend b ep => decide (b < 576) && decide (ep < 32)
  | .streamFlitArrive _ _ => true
  | .creditReturn _ => true
  | .steeringFire b u => decide (b < 576) && decide (u < 8)
  | .runnerHop b port lane _ => decide (b < 576) && decide (port < 9) && decide (lane < 2)
  | .runnerEjection n => decide (n < 2304)
  | .transferTrigger b d => decide (b < 576) && decide (d < 32)
  | .transferLineIssue b _ => decide (b.at_ < 576)
  | .transferInstanceComplete b _ => decide (b < 576)
  | .sliceRead _ _ => true
  | .sliceWrite _ _ => true
  | .wordAtomic _ _ => true
  | .lineAdd _ _ => true
  | .concourseReply _ => true
  | .hbmPatrolScrub slice _ _ => decide (slice < 128)
  | .portLightDetect p => decide (p < 18)
  | .portTrainingPhase p _ => decide (p < 18)
  | .portTrainingTimeout p => decide (p < 18)
  | .portRetry p => decide (p < 18)
  | .linkUpRecord p _ => decide (p < 18)
  | .wireFlitReceive p flit => decide (p < 18) && flit.payload.length == 256 && decide (flit.header < 2 ^ 72)
  | .portLossOfLock p => decide (p < 18)
  | .routerForward p => decide (p < 18)
  | .outgoingRequest _ => true
  | .peerCacheFill dev => decide (dev < 16384)
  | .load _ => true
  | .store _ => true
  | .atomic _ => true
  | .lineadd _ => true
  | .put _ => true
  | .get _ => true
  | .runner _ => true
  | .bell _ => true
  | .mgmt _ => true
  | .loadR _ => true
  | .comp _ => true
  | .atomR _ => true
  | .getR _ => true
  | .mgmtR _ => true
  | .remoteTimeout _ => true
  | .drainNotice p => decide (p < 18)
  | .routeClear p => decide (p < 18)
  | .drainComplete => true
  | .linkDown p => decide (p < 18)
  | .collectiveTrigger ctx didx => decide (ctx < 1024) && decide (didx < 4096)
  | .collRowAccept ctx didx => decide (ctx < 1024) && decide (didx < 4096)
  | .collPieceSend slot => decide (slot.at_ < 64)
  | .collSignalSend slot => decide (slot < 64)
  | .collPieceArrival slot _ _ => decide (slot < 64)
  | .collComplete slot => decide (slot < 64)
  | .collAbort slot => decide (slot < 64)
  | .collTimeout slot => decide (slot < 64)
  | .targetedTestStart _ => true
  | .targetedTestEnd _ _ => true
  | .rowRepairComplete slice _ => decide (slice < 128)
  | .scrubWordRead word _ => word.there
  | .scrubPassEnd _ => true
  | .scrubberCheck v => decide (v < 2 ^ 32)
  | .clerkWdt k => decide (k < 36)
  | .clerkPeriodicTest k _ => decide (k < 36)
  | .clerkUpdate _ _ => true
  | .halt t => isTile t
  | .add t => isTile t
  | .sub t => isTile t
  | .andT t => isTile t
  | .orT t => isTile t
  | .xorT t => isTile t
  | .shl t => isTile t
  | .shr t => isTile t
  | .sra t => isTile t
  | .mul t => isTile t
  | .sltu t => isTile t
  | .addi t => isTile t
  | .li t => isTile t
  | .lih t => isTile t
  | .ld t => isTile t
  | .st t => isTile t
  | .beq t => isTile t
  | .bne t => isTile t
  | .bltu t => isTile t
  | .jmp t => isTile t
  | .sendt t => isTile t
  | .recvt t => isTile t
  | .test t _ => isTile t
  | .csr t => isTile t
  | .waitc t => isTile t
  | .crc t => isTile t
  | .trestleWaitTimeout t => isTile t
  | .extest _ => true
  | .sample _ => true
  | .preload _ => true
  | .bypass code => decide (3 ≤ code) && decide (code < 256)
  | .trstLAssert => true
  | .flashOperationComplete _ => true
  | .clerkUe k => decide (k < 36)
  | .plcaBeaconTimeout => true
  | .plcaBeaconReturn => true

end Sys2Proof
end

