-- ==== Sys2Proof/Machine/Power.lean ====
section
/-! DEFINITION. The device's power states (R405, R406), resets and rails (R485 to R492), the thermal trip (R404), and bring-up (R17, R240,
R406). -/
namespace Sys2Proof.Machine

/-! ## Power-on and reset (R405, R488 to R490) -/

/-- What a flash operation cut short leaves (R489): each of its ranges erased or not, each byte programmed or not, as free values
choose. -/
def Dev.tornOp (s : Dev) (o : FlashOp) : Dev :=
  let (r, s) := s.draw
  let (w, s) := s.draw
  let er := (o.erase.zipIdx.filter fun p => bit r p.2).map (·.1)
  let bs := o.prog.flatMap fun p => p.2.zipIdx.map fun b => (p.1 + b.2, [b.1])
  s.flashNow er ((bs.zipIdx.filter fun p => bit w p.2).map (·.1))
/-- The flash operation in progress is cut short, and those behind it never start. -/
def Dev.flashCut (s : Dev) : Dev := match s.boot.flashOps with
  | [] => s
  | o :: _ => (s.tornOp o).modBoot fun b => { b with flashOps := [] }

/-- AON_PWROK_RISE (R405, R489): the straps are latched and the ROM starts, unless RESET_L holds it. -/
def aonPwrokRise (e : AonEnv) (s : Dev) : Dev :=
  if s.power.aonPwrok ∨ s.power.dstate ≠ .off ∨ !e.vaonValid then s
  else
    let s := s.modPower fun p => { p with dstate := .aon, aonPwrok := true, trayslot := e.traySlot % 4, testMode := e.testMode }
    let s := s.modBoot fun b => { b with flashUsable := e.flashUsable, flashOctal := e.flashUsable && e.flashOctal, flashFail := e.flashFail }
    if s.power.resetL then s.romStart e.pufReading else s.modBoot fun b => { b with romPending := true }
def execAonPwrokRise (env : AonEnv) (s : State) : Host.Outcome State Fault Refusal := s.act (aonPwrokRise env)

/-- AON_PWROK_FALL (R489): everything but the flash is lost; RESET_L is the tray's. -/
def aonPwrokFall (s : Dev) : Dev :=
  if !s.power.aonPwrok then s
  else
    let t := s.flashCut
    { (default : Dev) with now := t.now, freeCount := t.freeCount, nextId := t.nextId, flash := t.flash, out := t.out,
                           power := { (default : Power) with resetL := t.power.resetL }, ledger := { logSeq := t.ledger.logSeq },
                           conc := t.conc.kept }
def execAonPwrokFall (s : State) : Host.Outcome State Fault Refusal :=
  .next { s with dev := aonPwrokFall s.dev, jtag := if s.dev.power.aonPwrok then {} else s.jtag }

/-- RESET_L_FALL (R490): the rails that are up are lowered, and the always-on domain is reset but for its RWS cells. -/
def resetLFall (s : Dev) : Dev :=
  if !s.power.resetL then s
  else
    let s := s.modPower fun p => { p with resetL := false }
    if !s.power.aonPwrok then s
    else
      let s := s.flashCut.coldBoot
      (s.modPower fun p => { p with lowering := p.stage != 0, enAt := s.now }).modBoot fun b => { b with pufOffAt := none }
def execResetLFall (s : State) : Host.Outcome State Fault Refusal := s.act resetLFall

/-- RESET_L_RISE (R488 to R491): straps latched, THERMTRIP_L released; the PUF is off for 1 ms from now, or from when the rails are
down. -/
def resetLRise (slot : Nat) (testMode : Bool) (s : Dev) : Dev :=
  if s.power.resetL then s
  else
    let s := s.modPower fun p => { p with resetL := true }
    if !s.power.aonPwrok then s
    else
      let s := s.modPower fun p => { p with trayslot := slot % 4, testMode := testMode, thermTrip := false }
      s.modBoot fun b => { b with romPending := true, pufOffAt := some s.now }
def execResetLRise (traySlot : Nat) (testMode : Bool) (s : State) : Host.Outcome State Fault Refusal := s.act (resetLRise traySlot testMode)

/-! ## D-AON (R404 to R406, R418) -/

/-- What the device keeps when its main rails go (R402): the always-on domain. Everything on the dies is lost; RW entries that live there
take their defaults when they are powered again. -/
def Dev.powerDown (s : Dev) (p : Power) : Dev :=
  let vals := s.ledger.vals.filter fun e => !((e.1 / 256 == 0x3001) || (e.1 / 256 == 0x4001) || (e.1 / 256 == 0x50A0))
  let asked := s.ledger.asked.filter fun a => match a.req.src with
    | .udp _ _ => true
    | .firmware => true
    | _ => false
  let boot := { s.boot with spdmVersion := false, spdmCaps := false, spdmAlgs := false, spdmA := [], spdmB := [], spdmL := [] }
  let warden := { s.warden with gov0 := {}, gov1 := {}, sensors := [], sampled := [], powers := [], laserLow := [] }
  let counters := s.counters.filter fun c => c.1 / 2 ^ 12 == 0x6080 * 2 ^ 16 + 3
  { (default : Dev) with now := s.now, freeCount := s.freeCount, nextId := s.nextId, flash := s.flash, out := s.out, early := s.early,
                         elveel := { (default : Elveel) with inc := s.elveel.inc, devnum := s.elveel.devnum }, power := p, boot := boot,
                         conc := s.conc.kept, warden := warden, ledger := { s.ledger with vals := vals, asked := asked }, counters := counters }

/-- To D-AON with every enable dropped at once. -/
def Dev.dropRails (s : Dev) : Dev :=
  let q := s.power
  let p := { q with dstate := .aon, bring := .none, pwrEn := List.replicate 12 false, stage := 0, lowering := false, mainStart := none,
                    lpReset := true }
  s.powerDown p
/-- To D-AON by lowering the rails stage by stage. -/
def Dev.lowerRails (s : Dev) : Dev :=
  let q := s.power
  let p := { q with dstate := .aon, bring := .none, lowering := q.stage != 0, enAt := s.now, mainStart := none, lpReset := true }
  s.powerDown p
/-- A step of bring-up failed (R406). -/
def Dev.bringFail (s : Dev) (k : Nat) : Dev := (s.lowerRails).modBoot fun b => { b with failStep := k }

/-- AVSBus bus and rail of an AVSBus rail index (R417, R485). -/
def avsBus (i : Nat) : Nat × Nat := if i < 2 then (i, 0) else if i < 4 then (i - 2, 1) else if i = 4 then (2, 0) else (2, 1)

/-- RAIL_FAULT (R418, R492): logged, raised at the next D-READY, and the device is in D-AON as after a trip. -/
def Dev.railFault (s : Dev) (bus rail status : Nat) : Dev :=
  let s := (s.logAdd { seq := 0, persist := true, ekind := 0x0F, uclass := 13, unit := bus + 256 * rail,
                       detail := BitVec.ofNat 64 status }).2
  let raising := s.power.bring == .rails
  let s := s.dropRails.modPower fun p => { p with alert := true, pendRail := some (bus, rail, status) }
  s.iff raising fun s => s.modBoot fun b => { b with failStep := 1 }
/-- A rail fault of a rail index with no AVSBus status: the status, and bus and rail of a rail without AVSBus, are free values. -/
def Dev.pgFault (s : Dev) (i : Nat) : Dev :=
  let (st, s) := s.draw
  let (x, s) := s.draw
  let (b, r) := if i < 6 then avsBus i else (x % 256, x / 256 % 256)
  s.railFault b r (st % 256)

/-- Group code of a sensor (R429). -/
def groupCode : SensorGroup → Nat
  | .block => 0
  | .hotspot => 1
  | .hbm => 2
  | .optical => 3

/-- THERMAL_TRIP (R404, R491): a sensor of a device with rails up reads 110 °C or more. -/
def thermalTrip (g : SensorGroup) (i reading : Nat) (s : Dev) : Dev :=
  if reading < 1760 ∨ s.power.dstate = .off ∨ !s.power.pwrEn.any id then s
  else
    let t := (groupCode g, i, reading)
    let s := (s.logAdd (tripRec t)).2
    let s := s.dropRails
    s.modPower fun p => { p with thermTrip := true, alert := true, rwsTrip := some t, pendTrip := some t }
def execThermalTrip (group : SensorGroup) (idx reading : Nat) (s : State) : Host.Outcome State Fault Refusal :=
  s.actOn (decide (idx < groupSize group)) (thermalTrip group idx reading)

/-- MAIN_PLL_LOSS_OF_LOCK (R492). -/
def mainPllLossOfLock (s : Dev) : Dev :=
  if s.lit then let (st, s) := s.draw; s.railFault 0xFF 0xFF (st % 256) else s
def execMainPllLossOfLock (s : State) : Host.Outcome State Fault Refusal := s.act mainPllLossOfLock

/-! ## Rails (R417, R418, R485, R487) -/

/-- Rail indices of the ten stages (R487). -/
def stageRails (k : Nat) : List Nat := [[], [4], [2, 3], [0, 1], [6], [10], [7], [8], [9], [11], [5]].getD k []
/-- Nominal, lowest and highest setpoint of an AVSBus rail in mV (R485). -/
def railRange (i : Nat) : Nat × Nat × Nat :=
  [(750, 650, 850), (750, 650, 850), (800, 700, 900), (800, 700, 900), (750, 700, 850), (900, 850, 950)].getD i (0, 0, 0)
/-- Whether a copy of the voltage record is valid (R418, R444). The manual gives it no layout: IDENT in bytes 0 to 7, six setpoints in mV
of 2 bytes, a CRC-32C in bytes 20 to 23. -/
def voltOk (ident : Nat) (b : Bytes) : Bool :=
  crcOk b 20 && fld b 0 8 == ident && (List.range 6).all fun i =>
    let v := fld b (8 + 2 * i) 2
    decide ((railRange i).2.1 ≤ v) && decide (v ≤ (railRange i).2.2)
/-- Setpoint of an AVSBus rail: the record's, else the nominal plus 25 mV (R418). -/
def Dev.setpoint (s : Dev) (i : Nat) : Nat := match s.twoRead 0x060C0000 0x060D0000 24 (voltOk s.ident) with
  | some b => fld b (8 + 2 * i) 2
  | none => (railRange i).1 + 25

/-- Whether an enable is up. -/
def Power.en (p : Power) (i : Nat) : Bool := p.pwrEn.getD i false
/-- Whether a power-good is up. -/
def Power.pg (p : Power) (i : Nat) : Bool := p.pwrPg.getD i false

/-- RAIL_WARN (R418): the status byte is the slave's own, which the manual does not lay out. -/
def Dev.railWarn (s : Dev) (i : Nat) : Dev :=
  let (st, s) := s.draw
  let (b, r) := avsBus i
  (s.modWarden fun w => { w with rails := w.rails.mod i fun r => { r with warn := true } }).event 0x24 [(32, 1, b), (33, 1, r), (34, 1, st % 256)]
/-- What the AVSBus status after a command, and the read-back after a write, bring (R417, R418). -/
def Dev.avsStatus (s : Dev) (i : Nat) : AvsStatus → Dev
  | .ok => s.modWarden fun w => { w with rails := w.rails.mod i fun r => { r with warn := false } }
  | .warnCurrent => s.railWarn i
  | .warnTemp => s.railWarn i
  | .fault code => s.railFault (avsBus i).1 (avsBus i).2 (code % 256)
  | .readBackFailed => s.pgFault i

/-- POWER_STAGE_RAISE (R487): 0.2 ms after the last power-good of the present stage; a slave that does not report AVSBus 1.3 is a rail
fault (R417), and so is a status fault or a failed read-back of the stage's first AVSBus rail, whose status is the operand. -/
def powerStageRaise (avsVersionOk : Bool) (st : AvsStatus) (s : Dev) : Dev :=
  let p := s.power
  let k := p.stage + 1
  let rails := stageRails k
  if p.bring ≠ .rails ∨ p.dstate ≠ .aon ∨ !p.resetL ∨ p.lowering ∨ 10 < k ∨ !((stageRails p.stage).all p.pg) ∨ rails.any p.pg
      ∨ (p.stage ≠ 0 ∧ s.now < p.stageAt + 200 * usec) then s
  else match rails.find? fun i => i < 6 && !avsVersionOk with
    | some i => s.pgFault i
    | none =>
      let s := each (rails.filter fun i => decide (i < 6)) (fun i s =>
        let v := s.setpoint i
        ((s.modWarden fun w => { w with rails := w.rails.mod i fun r => { r with setMv := v, baseMv := v, warn := false } }).emit (.avs i v)).emit (.avsRate i)) s
      let s := s.modPower fun p => { p with pwrEn := rails.foldl (fun l i => modNth i (fun _ => true) l) p.pwrEn, stage := k, enAt := s.now }
      match rails.find? fun i => decide (i < 6) with
      | some i => s.avsStatus i st
      | none => s
def execPowerStageRaise (avs : AvsAnswer) (s : State) : Host.Outcome State Fault Refusal :=
  s.act (powerStageRaise avs.versionOk avs.status)

/-- PWR_PG_RISE (R487). -/
def pwrPgRise (i : Nat) (s : Dev) : Dev :=
  if s.power.en i && !s.power.pg i then
    s.modPower fun p => { p with pwrPg := modNth i (fun _ => true) p.pwrPg, stageAt := s.now }
  else s
def execPwrPgRise (i : Nat) (s : State) : Host.Outcome State Fault Refusal := s.actOn (decide (i < 12)) (pwrPgRise i)

/-- PWR_PG_FALL (R487): of an enabled rail, it is a rail fault. -/
def pwrPgFall (i : Nat) (s : Dev) : Dev :=
  if !s.power.pg i then s
  else
    let up := s.power.en i
    (s.modPower fun p => { p with pwrPg := modNth i (fun _ => false) p.pwrPg }).iff up fun s => s.pgFault i
def execPwrPgFall (i : Nat) (s : State) : Host.Outcome State Fault Refusal := s.actOn (decide (i < 12)) (pwrPgFall i)

/-- POWER_GOOD_TIMEOUT (R487): no power-good within 1 ms of the enable. -/
def powerGoodTimeout (i : Nat) (s : Dev) : Dev :=
  if s.power.en i && !s.power.pg i && decide (s.power.enAt + msec < s.now) then s.pgFault i else s
def execPowerGoodTimeout (i : Nat) (s : State) : Host.Outcome State Fault Refusal := s.actOn (decide (i < 12)) (powerGoodTimeout i)

/-- POWER_STAGE_LOWER (R487): the next stage's enables drop once every power-good of the stage before has fallen, or after 1 ms. With the
last stage down, a ROM that waits for the rails has its PUF off from then on (R488, R490). -/
def powerStageLower (s : Dev) : Dev :=
  let p := s.power
  let gone := (List.range 12).all fun i => p.en i || !p.pg i
  if !p.lowering ∨ !(gone || decide (p.enAt + msec ≤ s.now)) then s
  else
    let s := s.modPower fun p => { p with pwrEn := (stageRails p.stage).foldl (fun l i => modNth i (fun _ => false) l) p.pwrEn,
                                          stage := p.stage - 1, lowering := decide (1 < p.stage), enAt := s.now }
    s.iff (!s.power.lowering && s.boot.pufOffAt.isSome) fun s => s.modBoot fun b => { b with pufOffAt := some s.now }
def execPowerStageLower (s : State) : Host.Outcome State Fault Refusal := s.act powerStageLower

/-! ## Bring-up (R17, R239, R240, R406) -/

/-- The key of a training record (R240), of what the state holds: the part's identity, the data rate and the firmware version. The device
IDs and mode registers that belong to it are the bring-up's operand. The manual lays no record out: the model puts the key at its
start. -/
def Dev.trainKey (s : Dev) : Bytes :=
  layout 32 [(0, 8, s.ident), (8, 4, s.entry 0x3000 0), (12, 4, (s.boot.report.getD (s.boot.booted.getD 0) {}).version)]
/-- Whether a training record with the part's key stands at a flash offset (R240). -/
def Dev.hasTraining (s : Dev) (o : Nat) : Bool := s.flashAt o 32 == s.trainKey
/-- Write a training record: its values are free. -/
def Dev.writeTraining (s : Dev) (o : Nat) : Dev :=
  let (r, s) := s.draw
  s.flashOp [(o, 0x100000)] [(o, s.trainKey ++ leBytes 4064 r)] .nothing
/-- Flash offsets of the training records of the two tiers (R444). -/
abbrev trainHbm : Nat := 0x06100000
abbrev trainLp : Nat := 0x06200000

/-- Step 5 (R236, R239, R240): both tiers are trained; an LPDDR5X tier that fails is absent. The rows that soft repair replaced in service
get hard repair now: which rows a cold boot repairs the manual leaves open (DESIGN CHOICE, notes/assumptions/65.md). -/
def Dev.trainMemory (s : Dev) (e : BringEnv) : Dev :=
  let hbm := e.hbmFromRecord && s.hasTraining trainHbm
  let lp := e.lpOk && e.lpFromRecord && s.hasTraining trainLp
  let s := s.iff (!hbm) fun s => s.writeTraining trainHbm
  let s := s.iff (e.lpOk && !lp) fun s => s.writeTraining trainLp
  let s := s.modConc fun c => { c with lpGiB := if e.lpOk then e.lpGiB else 0, trainSrc := b2n hbm + 2 * b2n lp,
                                       hardRows := distinct (c.hardRows ++ c.softRows), softRows := [] }
  s.iff (!e.lpOk) fun s => s.event 0x13 [(32, 1, e.lpPackage)]

/-- Raise what waited for the management ring (R363, R404, R429). -/
def Dev.raiseEarly (s : Dev) : Dev :=
  let s := s.modRing mgmtRing fun _ => { live := true }
  let s := each s.early (fun e s => s.ringEvent mgmtRing e.1 e.2) { s with early := [] }
  let s := match s.power.pendTrip with
    | some (g, i, r) => s.event 0x23 [(32, 1, g), (33, 2, i), (36, 2, r)]
    | none => s
  let s := match s.power.pendRail with
    | some (b, r, st) => s.event 0x25 [(32, 1, b), (33, 1, r), (34, 1, st)]
    | none => s
  s.modPower fun p => { p with pendTrip := none, pendRail := none, alert := false }

/-- Step 6: D-READY. TRIAL is cleared (R386). -/
def Dev.enterReady (s : Dev) : Dev :=
  let s := s.modPower fun p => { p with dstate := .ready, bring := .done, lpReset := false }
  let s := (s.raiseEarly).modElv fun e => { e with routes := s.routeDefaults }
  let s := s.modWarden fun w => { w with stretchAt := s.now, govAt := s.now, laserAt := s.now }
  let s := s.modSvc fun v => { v with scrubAt := s.now, scrubCheckAt := s.now,
                                      clerks := (List.range 36).foldl (fun t k => t.mod k fun c => { c with wdtAt := s.now, testAt := s.now }) v.clerks }
  s.iff s.bootRec.trial fun s => s.bootRecLater { s.bootRec with trial := false } .trialCleared

/-- Whether a position is one of the 624 (R11). -/
def posOk (p : PhysPos) : Bool := decide (p.die < 2) && decide (p.col < 24) && decide (p.row < 13)
/-- BRING_UP (R406): steps 2 to 4 once the rails are up, then, with the map built, steps 5 and 6. With TEST_MODE latched the Warden stops
after step 2 (R495). -/
def bringUp (e : BringEnv) (s : Dev) : Dev :=
  let p := s.power
  if p.dstate ≠ .aon then s
  else match p.bring with
    | .rails =>
      if p.stage ≠ 10 ∨ p.lowering ∨ !((List.range 12).all fun i => p.pg i && p.en i) then s
      else if !e.pllLock then s.bringFail 2
      else
        let s := s.modPower fun p => { p with mainStart := some s.now }
        if p.testMode then s.modPower fun p => { p with bring := .none }
        else if !e.diesOk then s.bringFail 3
        else
          let s := s.modGrid fun g => { g with failed := e.failing.filter posOk, swFailed := e.switchFailing.filter posOk }
          (s.modPower fun p => { p with bring := .map }).modBoot fun b => { b with failStep := 0 }
    | .train => (s.trainMemory e).enterReady
    | _ => s
def execBringUp (env : BringEnv) (s : State) : Host.Outcome State Fault Refusal := s.act (bringUp env)

/-- Whether ALERT_L is low (R491): in the safe state, and from a trip or rail fault until D-READY. -/
def Dev.alertLow (s : Dev) : Bool := s.boot.safe || s.power.alert

/-! ## DREQ (R406) -/

/-- DREQ 1, D-AON: in D-READY with no port UP, or after DRAINED. -/
def Dev.reqAon (s : Dev) (a : Asked) : Dev :=
  let upPorts := (List.range 18).any fun p => (s.port p).st == .up
  if s.power.dstate = .ready ∧ (!upPorts ∨ s.elveel.drain = .drained) then (s.respond a true 0x2000 2 0 1 []).lowerRails
  else s.respond a true 0x2000 2 8 1 []
/-- DREQ 2, D-READY: in D-AON with firmware running. -/
def Dev.reqReady (s : Dev) (a : Asked) : Dev :=
  if s.power.dstate = .aon ∧ s.boot.fwRun ∧ s.power.bring = .none then
    (s.respond a true 0x2000 2 0 1 []).modPower fun p => { p with bring := .rails }
  else s.respond a true 0x2000 2 8 1 []

end Sys2Proof.Machine
end

