-- ==== Sys2Proof/Machine/Plant.lean ====
section
/-! DEFINITION. Sensors and throttling (R419 to R421), rails in service (R417, R418), the plant (R423 to R427) and the laser inputs (R253,
R479). Temperatures are in 1/16 °C, powers in mW where not said otherwise; the forecast is exact rational arithmetic. -/
namespace Sys2Proof.Machine

/-! ## Sensors (R419) -/

/-- Key of a sensor's reading. -/
def sensorKey (g i : Nat) : Nat := 1024 * g + i
/-- Period of a sensor group in cycles. -/
def groupPeriod : SensorGroup → Nat
  | .block => 10 * usec
  | .hotspot => 10 * usec
  | .hbm => msec
  | .optical => msec
/-- Whether the dies, and so their sensors, have power. -/
def Dev.diesOn (s : Dev) : Bool := s.lit || s.power.bring == .map || s.power.bring == .train

/-- SENSOR_SAMPLE (R419): a whole group at its period. The reading of a physical block is number 312 × die + 24 × row + column. -/
def sensorSample (g : SensorGroup) (readings : List Nat) (s : Dev) : Dev :=
  let c := groupCode g
  let last := s.warden.sampled.get c
  if !s.diesOn ∨ (last ≠ 0 ∧ s.now < last + groupPeriod g) then s
  else
    let put (t : Tab Nat) (p : Nat × Nat) : Tab Nat := t.set (sensorKey c p.2) p.1
    s.modWarden fun w => { w with sensors := readings.zipIdx.foldl put w.sensors, sampled := w.sampled.set c s.now }
def execSensorSample (group : SensorGroup) (readings : List Nat) (s : State) : Host.Outcome State Fault Refusal :=
  s.actOn (readings.length == groupSize group) (sensorSample group readings)

/-- Number of the sensor of a physical position. -/
def sensorOf (p : PhysPos) : Nat := 312 * p.die + 24 * p.row + p.col
/-- A reading. -/
def Dev.reading (s : Dev) (g i : Nat) : Nat := s.warden.sensors.get (sensorKey g i)
/-- The largest of a list of numbers, 0 for none. -/
def top (l : List Nat) : Nat := l.foldl max 0
/-- Dies that a Lot's blocks lie on. -/
def Lot.dies (l : Lot) : List Nat := [0, 1].filter fun d => l.rect.any fun b => b / 288 == d
/-- The hottest block or hotspot reading of a Lot's sensor set. -/
def Dev.lotHot (s : Dev) (l : Lot) : Nat :=
  max (top (l.rect.map fun b => s.reading 0 (sensorOf (s.grid.posOf b))))
    (top (l.dies.flatMap fun d => (List.range 8).map fun i => s.reading 1 (8 * d + i)))
/-- The hottest HBM reading of a Lot's sensor set. -/
def Dev.lotHbm (s : Dev) (l : Lot) : Nat := top (l.dies.flatMap fun d => (List.range 4).map fun i => s.reading 2 (4 * d + i))
/-- The hottest block or hotspot reading of the device. -/
def Dev.deviceHot (s : Dev) : Nat :=
  max (top ((List.range 624).map fun i => s.reading 0 i)) (top ((List.range 20).map fun i => s.reading 1 i))

/-! ## Package power (R417, R420, R426) -/

/-- Power of an AVSBus rail in mW. -/
def Dev.railMw (s : Dev) (i : Nat) : Nat := let r := s.warden.rails.get i; r.setMv * r.curMa / 1000
/-- Power of the memory rails, which no AVSBus reports: a measured value that the manual does not state. -/
def Dev.memoryMw (s : Dev) : Nat := Config.measured 0 s.now
/-- Package power now. -/
def Dev.packageMw (s : Dev) : Nat := ((List.range 6).map s.railMw).sum + s.memoryMw
/-- Mean of the power samples of the last t cycles; 0 with none. -/
def Dev.meanMw (s : Dev) (t : Nat) : Nat :=
  let l := s.warden.powers.filter fun p => decide (s.now < p.1 + t)
  if l = [] then 0 else (l.map (·.2)).sum / l.length

/-- Whether a warning of a rail stands. -/
def Dev.railWarned (s : Dev) : Bool := s.warden.rails.any fun p => p.2.warn
/-- The effective power cap in W (R418, R421, R427). -/
def Dev.pcapEff (s : Dev) : Nat :=
  let p := s.entry 0x2004 1
  let p := if s.railWarned then min p (p * 9 / 10) else p
  match s.warden.capPlant with
  | some c => min p c
  | none => p

/-- Largest STRETCH of a Lot, or largest issue gap. -/
def Lot.stretchMax (l : Lot) : Nat := if l.front.kind = 1 then min 255 (4 * l.beat.len) else 48
/-- Step of a change. -/
def Lot.stretchStep (l : Lot) : Nat := if l.front.kind = 1 then max 1 ((l.beat.len + 31) / 32) else 1
/-- Set a Lot's STRETCH, which takes effect at its next beat start, or its issue gap. -/
def Lot.setStretch (l : Lot) (v : Nat) : Lot :=
  if l.front.kind = 1 then { l with stretchNext := v } else { l with stretchNext := v, beat := { l.beat with stretch := v } }

/-- Whether the power averaged over 100 µs exceeds 2,000 W (R421). -/
def Dev.overLimit (s : Dev) : Bool := decide (2000000 < s.meanMw (100 * usec))
/-- Whether a Lot has a STRETCH or an issue gap (R420, R421). -/
def Lot.stretches (l : Lot) : Bool := l.state == 2 && l.front.kind != 0
/-- A Lot's STRETCH or gap is set (R420). cause: [0] thermal, [1] power; hottest: the hottest reading of its sensor set. -/
def Dev.putStretch (s : Dev) (k new cause hottest : Nat) : Dev :=
  let old := (s.lot k).stretchNext
  let s := s.modLot k fun x => x.setStretch new
  let s := s.iff (old == 0 && new != 0) fun s => s.event 0x20 [(32, 1, k), (33, 1, cause), (34, 1, new), (36, 2, hottest)]
  s.iff (old != 0 && new == 0) fun s => s.event 0x21 [(32, 1, k)]
/-- The power is above its limit: a Lot's STRETCH or gap goes to its own limit at once (R421). -/
def Dev.limitLot (s : Dev) (k : Nat) : Dev :=
  let l := s.lot k
  s.iff l.stretches fun s => s.putStretch k l.stretchMax 2 (max (s.lotHot l) (s.lotHbm l))

/-- Whether a period has passed since a time that may not have come yet. -/
def dueSince (t : Option Nat) (period now : Nat) : Bool := match t with
  | none => true
  | some x => decide (x + period ≤ now)

/-- AVS_POLL (R417): the current every 100 µs, the temperature with it every 10 ms. -/
def avsPoll (i ma temp : Nat) (st : AvsStatus) (s : Dev) : Dev :=
  let r := s.warden.rails.get i
  if !s.lit ∨ !dueSince r.curAt (100 * usec) s.now then s
  else
    let r := if dueSince r.tempAt (10 * msec) s.now then { r with temp := temp, tempAt := some s.now } else r
    let s := s.modWarden fun w => { w with rails := w.rails.set i { r with curMa := ma, curAt := some s.now } }
    let p := s.packageMw
    let s := s.modWarden fun w => { w with powers := (w.powers.filter fun x => decide (s.now < x.1 + msec)) ++ [(s.now, p)] }
    (s.iff s.overLimit fun s => each (List.range 64) (fun k s => s.limitLot k) s).avsStatus i st
def execAvsPoll (rail ma temp : Nat) (status : AvsStatus) (s : State) : Host.Outcome State Fault Refusal :=
  s.actOn (decide (rail < 6)) (avsPoll rail ma temp status)

/-- VOLTAGE_TRIM (R418): a 5 mV step within 25 mV of the record and within the setpoint range. -/
def voltageTrim (i : Nat) (up : Bool) (st : AvsStatus) (s : Dev) : Dev :=
  let r := s.warden.rails.get i
  let v := if up then r.setMv + 5 else r.setMv - 5
  let (_, lo, hi) := railRange i
  if !s.lit ∨ !dueSince r.trimAt msec s.now ∨ v + 25 < r.baseMv ∨ r.baseMv + 25 < v ∨ v < lo ∨ hi < v then s
  else
    let s := s.modWarden fun w => { w with rails := w.rails.set i { r with setMv := v, trimAt := some s.now } }
    (s.emit (.avs i v)).avsStatus i st
def execVoltageTrim (rail : Nat) (up : Bool) (status : AvsStatus) (s : State) : Host.Outcome State Fault Refusal :=
  s.actOn (decide (rail < 4)) (voltageTrim rail up status)

/-! ## STRETCH and issue gap (R420, R421) -/

/-- The rule of R420 for one Lot. -/
def Dev.stretchLot (s : Dev) (k : Nat) : Dev :=
  let l := s.lot k
  if !l.stretches then s
  else
    let hotR := s.lotHot l
    let hbmR := s.lotHbm l
    let tthr := 16 * s.entry 0x2003 1
    let hthr := 16 * s.entry 0x2003 2
    let cap := 1000 * s.pcapEff
    let p := s.meanMw msec
    let hot := tthr ≤ hotR ∨ hthr ≤ hbmR
    let over_ := cap < p
    let cool := hotR + 32 < tthr ∧ hbmR + 32 < hthr
    let old := l.stretchNext
    let new := if s.overLimit then l.stretchMax
      else if hot ∨ over_ then min l.stretchMax (old + l.stretchStep)
      else if cool ∧ p + 50000 ≤ cap then old - l.stretchStep
      else old
    let s := s.putStretch k new (b2n (decide hot) + 2 * b2n (decide over_ || s.overLimit)) (max hotR hbmR)
    if new ≠ l.stretchMax ∨ hotR < 1680 then s.modLot k fun x => { x with hotSince := none }
    else
      let t := l.hotSince.getD s.now
      let s := s.modLot k fun x => { x with hotSince := some t }
      if t + 10 * msec ≤ s.now ∧ !l.hotRaised then (s.modLot k fun x => { x with hotRaised := true }).event 0x22 [(32, 1, k), (36, 2, hotR)]
      else s
/-- STRETCH_UPDATE (R420). -/
def stretchUpdate (s : Dev) : Dev :=
  if !s.lit ∨ s.now < s.warden.stretchAt + 100 * usec then s
  else each (List.range 64) (fun k s => s.stretchLot k) (s.modWarden fun w => { w with stretchAt := s.now })
def execStretchUpdate (s : State) : Host.Outcome State Fault Refusal := s.act stretchUpdate

/-! ## The forecast (R426) -/

/-- The value of the bits of a positive F32. -/
def f32Rat (v : Nat) : Rat :=
  let e := bits v 30 23
  let m := bits v 22 0
  if e = 0 then (m : Rat) / 2 ^ 149 else (2 ^ 23 + m : Rat) * 2 ^ e / 2 ^ 150

/-- The Warden's clock for the plant runs in D-AON too. -/
def Dev.awake (s : Dev) : Bool := s.boot.fwRun && s.power.dstate != .off

/-- Whether the plant's latest message stands (R427): it is at most 1 s old and names no fault. -/
def Dev.plantGood (s : Dev) : Option Plant := s.warden.plant.filter fun p => decide (s.now < s.warden.plantAt + second) && p.state != 2
/-- Inlet temperature in °C. -/
def Dev.tin (s : Dev) : Rat := match s.plantGood with
  | some p => (p.tin : Rat) / 16
  | none => s.entry 0x2005 1
/-- Flow in mL/min. -/
def Dev.flow (s : Dev) : Rat := match s.plantGood with
  | some p => p.flow
  | none => s.entry 0x2007 2
/-- Power of a compute die in W. -/
def Dev.dieW (s : Dev) (d : Nat) : Rat := ((s.railMw d + s.railMw (2 + d) : Nat) : Rat) / 1000
/-- A junction at its steady value for a flow (R426). With no flow the manual states no rise: a free value. -/
def Dev.steady (s : Dev) (p flow : Rat) (d : Nat) : Rat :=
  let rise : Rat := if flow = 0 then Config.measured 96 s.now else 7.17 * p / flow
  s.tin + rise + f32Rat (s.entry 0x2006 (d + 1)) * s.dieW d

/-- The envelope of the shelf that a seat's context has in a Lot; of none, zeros. -/
def Lot.seatEnv (l : Lot) (seat : Nat) : Envelope := match if seat = 0 then l.seat0 else l.seat1 with
  | some c => (l.shelfFor c).env
  | none => {}
/-- Forecast mean power of a Lot in W (R426). -/
def Dev.lotW (s : Dev) (k : Nat) (l : Lot) : Rat := match l.cyc with
  | some c =>
    let duty (seat : Nat) : Rat := ((c.windows.filter fun w => w.seat == seat).map fun w => (w.len : Rat)).sum / c.frame
    duty 0 * (l.seatEnv 0).pavg + duty 1 * (l.seatEnv 1).pavg
  | none =>
    if s.now < l.swapTime + second then l.front.env.pavg else (Config.measured (16 + k) s.now : Rat) / 1000

/-- A rational rounded up to a natural number of 16 bits. -/
def up16 (q : Rat) : Nat := min 65535 q.ceil.toNat

/-- The forecast now, and the thermal model's next values. -/
def Dev.foreNow (s : Dev) : Fore × Rat × Rat :=
  let fixed : Rat := ((s.railMw 4 + s.railMw 5 + s.memoryMw : Nat) : Rat) / 1000
  let lots := s.lots.filter fun p => p.2.state == 2 && p.2.front.kind != 0
  let forming := (s.lots.filter fun p => p.2.state == 1).map fun p => ((p.2.width * p.2.height : Nat) : Rat)
  let v (d : Nat) : Rat := ((s.warden.rails.get d : Rail).setMv : Rat) / 1000
  let p1 := fixed + (lots.map fun p => s.lotW p.1 p.2).sum + forming.sum
  let pmax := fixed + (lots.map fun p => (p.2.front.env.ipeak0 : Rat) * v 0 + (p.2.front.env.ipeak1 : Rat) * v 1).sum
  let flowreq := max (s.entry 0x2007 2) (f32Rat (s.entry 0x2007 1) * p1).ceil.toNat
  let tau := f32Rat (s.entry 0x2006 3)
  let next (d : Nat) (t : Rat) : Rat := t + (s.steady p1 s.flow d - t) * 0.01 / tau
  let tj10 := max (s.steady p1 flowreq 0) (s.steady p1 flowreq 1)
  let tinmax := (s.entry 0x2003 1 : Rat) - (tj10 - s.tin)
  let stretched := s.lots.any fun p => p.2.stretchNext != 0
  let ds := if s.power.dstate = .run then 2 else if s.power.dstate = .ready then 1 else 0
  ({ pnow := s.meanMw msec / 1000, p1s := up16 p1, p10s := up16 p1, pmax10 := up16 pmax, tj := s.deviceHot, tj10 := up16 (16 * tj10),
     flowreq := min 65535 flowreq, tinmax := up16 (16 * tinmax - 1), dstate := ds, flags := b2n stretched + 2 * b2n s.warden.plantLost },
   next 0 s.warden.td0, next 1 s.warden.td1)

/-- Start of a span in which a condition holds, or none. -/
def since (c : Bool) (old : Option Nat) (now : Nat) : Option Nat := if c then some (old.getD now) else none
/-- The spans of R427: FLOW below 90 % of FLOWREQ, and the plant OK with FLOW at least FLOWREQ. -/
def Warden.flowSpans (w : Warden) (now : Nat) : Warden := match w.plant with
  | none => w
  | some p => { w with lowSince := since (decide (10 * p.flow < 9 * w.fore.flowreq)) w.lowSince now,
                       okSince := since (p.state == 0 && decide (w.fore.flowreq ≤ p.flow)) w.okSince now }

/-- FORECAST_COMPUTE (R426): every 10 ms; the first starts the thermal model at TINDEF when no PLANT_STATUS has come (R428). -/
def forecastCompute (s : Dev) : Dev :=
  if !s.awake ∨ (s.warden.foreAt ≠ 0 ∧ s.now < s.warden.foreAt + 10 * msec) then s
  else
    let seed : Rat := s.entry 0x2005 1
    let s := s.iff (s.warden.foreAt == 0 && s.warden.plant.isNone) fun s => s.modWarden fun w => { w with td0 := seed, td1 := seed }
    let (f, a, b) := s.foreNow
    s.modWarden fun w => ({ w with fore := f, foreAt := s.now, td0 := a, td1 := b } : Warden).flowSpans s.now
def execForecastCompute (s : State) : Host.Outcome State Fault Refusal := s.act forecastCompute

/-! ## Plant messages (R423 to R425) -/

/-- Bytes 8 to 35 of a FORECAST message. -/
def Dev.foreBody (s : Dev) (f : Fore) : Bytes :=
  layout 28 [(0, 8, s.ident), (8, 2, f.pnow), (10, 2, f.p1s), (12, 2, f.p10s), (14, 2, f.pmax10), (16, 2, f.tj), (18, 2, f.tj10),
    (20, 2, f.flowreq), (22, 2, f.tinmax), (24, 1, f.dstate), (25, 1, f.flags)]
/-- Whether a forecast differs enough from the one sent last to be sent at once (R424). -/
def Fore.moved (f g : Fore) : Bool :=
  decide (g.flowreq < 10 * (max f.flowreq g.flowreq - min f.flowreq g.flowreq)) || decide (100 < max f.p1s g.p1s - min f.p1s g.p1s)

/-- The MAC address of the 10BASE-T1S port (R423). -/
def Dev.mac (s : Dev) : Bytes := match s.boot.k with
  | some k => 0x02#8 :: (identityDigest k).take 5
  | none => [0x02#8, 0x54#8, 0x4C#8, 0, 0, BitVec.ofNat 8 s.power.trayslot]
/-- The PLCA node of the port (R423). -/
def Dev.plcaNode (s : Dev) : Nat := 1 + s.power.trayslot
/-- The IPv6 link-local address of the port: fe80::/64 with the MAC's modified EUI-64 (R423). -/
def Dev.linkLocal (s : Dev) : Nat :=
  let m := s.mac
  let eui := (((m.getD 0 0 ^^^ 2#8) :: sub m 1 2) ++ [0xFF#8, 0xFE#8] ++ sub m 3 3)
  leVal ((0xFE#8 :: 0x80#8 :: zeros 6) ++ eui).reverse

/-- FORECAST (R424): every 100 ms, or early on a large change, at most one in 10 ms. -/
def forecast (s : Dev) : Dev :=
  let w := s.warden
  let due : Bool := match w.sentFore with
    | none => true
    | some g => decide (w.sentAt + 100 * msec ≤ s.now) || (w.fore.moved g && decide (w.sentAt + 10 * msec ≤ s.now))
  if !s.awake ∨ w.foreAt = 0 ∨ !due then s
  else
    let m := withCrc (layout 8 [(0, 2, 0x4C50), (2, 1, 1), (3, 1, 1), (4, 2, w.seqOut), (6, 2, 28)] ++ s.foreBody w.fore)
    (s.modWarden fun w => { w with sentFore := some w.fore, sentAt := s.now, seqOut := (w.seqOut + 1) % 65536 }).emit (.plant s.linkLocal w.plantSrc m)
def execForecast (s : State) : Host.Outcome State Fault Refusal := s.act forecast

/-- Whether a message has the header and CRC of its TYPE with a body of n bytes (R424). -/
def plantHdr (m : Bytes) (type n : Nat) : Bool :=
  m.length == n + 12 && fld m 0 2 == 0x4C50 && byte m 2 == 1 && byte m 3 == type && fld m 6 2 == n && crcOk m (n + 8)
/-- Whether a message is a valid PLANT_STATUS (R424, R425). -/
def plantOkMsg (m : Bytes) : Bool := plantHdr m 2 12 && decide (byte m 16 < 3) && zeroAt m 17 3
/-- Whether a message is a valid FORECAST: another device's, which is no message for this one (R424). -/
def foreOkMsg (m : Bytes) : Bool := plantHdr m 1 28 && decide (byte m 33 < 4) && zeroAt m 34 2
/-- PLANT_LOST's caps and event (R427). -/
def Dev.loseplant (s : Dev) : Dev :=
  let c := s.entry 0x2004 2
  (s.modWarden fun w => { w with plantLost := true, okSince := none, capPlant := some (min c (w.capPlant.getD c)) }).event 0x26 []

/-- PLANT_STATUS (R425): a message that fails a check is dropped and counted; a FAULT acts as PLANT_LOST (R427). -/
def plantStatus (src : Nat) (m : Bytes) (s : Dev) : Dev :=
  if !s.awake then s
  else if foreOkMsg m then s
  else if !plantOkMsg m then s.bump 0x6080 3 1
  else
    let p : Plant := ⟨fld m 8 2, fld m 10 2, fld m 12 2, fld m 14 2, byte m 16⟩
    let first := s.warden.plant.isNone
    let t : Rat := (p.tin : Rat) / 16
    let s := s.modWarden fun w => { w with
      plant := some p, plantAt := s.now, plantSrc := some src, td0 := if first then t else w.td0, td1 := if first then t else w.td1 }
    let s := s.modWarden fun w => w.flowSpans s.now
    s.iff (p.state == 2 && !s.warden.plantLost) fun s => s.loseplant
def execPlantStatus (src : Nat) (msg : Bytes) (s : State) : Host.Outcome State Fault Refusal := s.act (plantStatus src msg)

/-- PLANT_LOST (R427). -/
def plantLost (s : Dev) : Dev :=
  if s.awake && !s.warden.plantLost && decide (s.warden.plantAt + second ≤ s.now) then s.loseplant else s
def execPlantLost (s : State) : Host.Outcome State Fault Refusal := s.act plantLost

/-- The largest power whose steady junctions stay 2 °C below TTHR at the delivered flow and inlet (R427). -/
def Dev.plantCap (s : Dev) : Nat :=
  let room (d : Nat) : Rat := (s.entry 0x2003 1 : Rat) - 2 - s.tin - f32Rat (s.entry 0x2006 (d + 1)) * s.dieW d
  (min (room 0) (room 1) * s.flow / 7.17).floor.toNat
/-- PLANT_LIMITED (R427). -/
def plantLimited (s : Dev) : Dev := match s.warden.plant with
  | none => s
  | some p =>
    let low : Bool := match s.warden.lowSince with
      | some t => decide (t + 2 * second ≤ s.now)
      | none => false
    if s.awake && !s.warden.plantLim && (p.state == 1 || low) then
      let c := s.plantCap
      (s.modWarden fun w => { w with plantLim := true, capPlant := some (min c (w.capPlant.getD c)) }).event 0x27
        [(36, 2, p.flow), (38, 2, s.warden.fore.flowreq)]
    else s
def execPlantLimited (s : State) : Host.Outcome State Fault Refusal := s.act plantLimited

/-- PLANT_OK (R427). -/
def plantOk (s : Dev) : Dev := match s.warden.okSince with
  | none => s
  | some t =>
    if s.awake && (s.warden.plantLost || s.warden.plantLim) && s.plantGood.isSome && decide (t + 2 * second ≤ s.now) then
      (s.modWarden fun w => { w with plantLost := false, plantLim := false, capPlant := none }).event 0x28 []
    else s
def execPlantOk (s : State) : Host.Outcome State Fault Refusal := s.act plantOk

/-! ## Laser inputs (R253, R479) -/

/-- Ports that a laser input feeds (R253). -/
def laserPorts (i : Nat) : List Nat :=
  if i = 0 then [0, 1, 2, 3, 4] else if i = 1 then [5, 6, 7, 8] else if i = 2 then [9, 10, 11, 12, 13] else [14, 15, 16, 17]
/-- One laser input's sample, in hundredths of a dBm. -/
def Dev.laser (s : Dev) (i power : Nat) : Dev :=
  let low := s.warden.laserLow.contains i
  if power < 2000 ∧ !low then
    let s := s.modWarden fun w => { w with laserLow := insertUp i w.laserLow }
    (each (laserPorts i) (fun p s => (s.maskPort p .down).modPort p fun x => { x with dark := true }) s).event 0x14 [(32, 1, i)]
  else if 2050 ≤ power ∧ low then
    let s := s.modWarden fun w => { w with laserLow := w.laserLow.filter (· != i) }
    each (laserPorts i) (fun p s => s.modPort p fun x => { x with dark := false }) s
  else s
/-- LASER_SAMPLE (R479): every 1 ms. -/
def laserSample (powers : List Nat) (s : Dev) : Dev :=
  if !s.lit ∨ s.now < s.warden.laserAt + msec then s
  else each powers.zipIdx (fun p s => s.laser p.2 p.1) (s.modWarden fun w => { w with laserAt := s.now })
def execLaserSample (powers : List Nat) (s : State) : Host.Outcome State Fault Refusal :=
  s.actOn (powers.length == 4) (laserSample powers)

/-! ## PLCA (R423) -/

/-- PLCA_BEACON_TIMEOUT. -/
def plcaBeaconTimeout (s : Dev) : Dev :=
  if s.power.dstate != .off && decide (s.warden.beaconAt + 4 * msec ≤ s.now) then s.modWarden fun w => { w with plca := false } else s
def execPlcaBeaconTimeout (s : State) : Host.Outcome State Fault Refusal := s.act plcaBeaconTimeout
/-- PLCA_BEACON_RETURN. -/
def plcaBeaconReturn (s : Dev) : Dev :=
  if s.power.dstate != .off then s.modWarden fun w => { w with plca := true, beaconAt := s.now } else s
def execPlcaBeaconReturn (s : State) : Host.Outcome State Fault Refusal := s.act plcaBeaconReturn

end Sys2Proof.Machine
end

