-- ==== Sys2Proof/Machine/Ledger.lean ====
section
/-! DEFINITION. The Ledger: what each entry reads as (R429, R446 to R452), who may reach it (R436, R440), the checks of a request in their
order (R438), what a write does, and its paths (R371, R441 to R443). -/
namespace Sys2Proof.Machine

/-! ## Values -/

/-- BOOTREPORT (R387, R446). A source that the chain has not reached is NOT_TRIED. -/
def Boot.reportBytes (b : Boot) : Bytes :=
  ((List.range 3).flatMap fun i =>
    let r : BootStat := b.report.getD i {}
    leBytes 1 r.status ++ leBytes 1 r.detail ++ leBytes 4 r.svn ++ leBytes 4 r.version)
    ++ leBytes 1 (b.booted.getD 0xFF) ++ leBytes 1 (b2n b.trialBoot)

/-- Identity area (R446). -/
def Dev.identityValue (s : Dev) (index sub_ : Nat) : Option Bytes := match index, sub_ with
  | 0x1000, 5 => some [0x11]
  | 0x1000, _ => some [1]
  | 0x1001, 0 => s.boot.k.map fun k => (identityDigest k).take 8
  | 0x1001, _ => s.boot.k.map identityDigest
  | 0x1002, _ => some s.boot.reportBytes
  | 0x1003, _ => if s.lit then some s.grid.record else s.twoRead sparing0 sparing1 128 sparingOk
  | 0x1004, _ => some (sub s.boot.ownerCert 0 3652)
  | 0x1005, _ => some (sub s.boot.minver 0 3460)
  | 0x1006, _ => if s.certChain.isEmpty then none else some s.certChain
  | 0x1010, _ => some s.boot.recoveryState
  | _, _ => none

/-- Power and plant entries that hold no setting (R430). -/
def Dev.plantValue (s : Dev) (index sub_ : Nat) : Option Bytes := match index, sub_ with
  | 0x2000, 1 => some [if s.power.dstate = .run then 2 else if s.power.dstate = .ready then 1 else 0]
  | 0x2009, _ => some (leBytes 8 s.time)
  | 0x200A, 1 => some (match s.warden.plant with
    | some p => layout 12 [(0, 2, p.tin), (2, 2, p.tout), (4, 2, p.flow), (6, 2, p.flowmax), (8, 1, p.state)]
    | none => zeros 12)
  | 0x200A, _ => some (match s.warden.sentFore with
    | some f => s.foreBody f
    | none => zeros 28)
  | _, _ => none

/-- Code of a port state (R449). -/
def PState.code : PState → Nat
  | .down => 0
  | .training => 1
  | .up => 2
  | .mgmtOnly => 3
  | .loop => 4
  | .failed => 5
  | .retraining => 6
/-- Code of a back shelf state (R354). -/
def BState.code : BState → Nat
  | .empty => 0
  | .loading => 1
  | .loaded => 2
  | .ready => 3
/-- BEATSTATE (R210). -/
def Lot.beatState (l : Lot) : Nat := l.beat.num + 2 ^ 32 * l.beat.len + 2 ^ 48 * l.beat.stretch + 2 ^ 56 * b2n l.beat.active
/-- SHELFSTAT (R354). -/
def Lot.shelfStat (l : Lot) : Nat :=
  l.bstate.code + 2 ^ 2 * l.front.kind + 2 ^ 4 * l.back.kind + 2 ^ 6 * l.fseat + 2 ^ 7 * b2n l.bretain + 2 ^ 8 * l.lstat
    + 2 ^ 16 * (l.swaps % 2 ^ 32)
/-- The 80 bytes of a Pitch descriptor (R26). -/
def Pitch.bytes (p : Pitch) : Bytes :=
  layout 80 ([(0, 8, p.pid + 2 ^ 12 + 2 ^ 16 * p.children.length + 2 ^ 24 * p.depth + 2 ^ 32 * p.lot + 2 ^ 40 * p.head), (8, 2, p.qvalid)]
    ++ (p.children.zipIdx.map fun c => (16 + 2 * c.2, 2, c.1.1 + 2 ^ 14 * c.1.2))
    ++ (p.qmap.zipIdx.map fun q => (48 + 2 * q.2, 2, q.1)))
/-- The Pitch with an identifier in some Lot's front shelf. -/
def Dev.pitchDesc (s : Dev) (pid : Nat) : Option Pitch := s.lots.findSome? fun l => l.2.front.pitches.find? fun p => p.pid = pid
/-- A task slot's word (R324). -/
def TaskSlot.word (t : TaskSlot) : Nat :=
  if t.state = 0 then 0
  else t.unit + 2 ^ 13 * t.ctx + 2 ^ 23 * t.kind + 2 ^ 29 * t.state + 2 ^ 31 * b2n t.crec + 2 ^ 32 * (t.ttag % 2 ^ 32)
/-- A receive queue's word (R85) in a cycle: COUNT includes a message from the cycle after the one that wrote it (R88). -/
def RQueue.word (q : RQueue) (now : Nat) : Nat :=
  q.base + 2 ^ 6 * q.size + 2 ^ 13 * q.inc + 2 ^ 17 * b2n q.isOpen + 2 ^ 18 * (q.msgs.filter fun m => decide (m.at_ < now)).length
/-- The owner table of a Chest as 128 bytes (R158). -/
def Shelf.ownerBytes (x : Shelf) (k : Nat) : Bytes :=
  (List.range 128).map fun i =>
    let t : Tab Nat := x.owners.get k
    BitVec.ofNat 8 (t.get (2 * i) + 16 * t.get (2 * i + 1))

/-- The words of a counter record. -/
def Dev.ctrBytes (s : Dev) (rcd n len : Nat) : Bytes := (List.range (len / 8)).flatMap fun w => leBytes 8 (s.ctr rcd n w)

/-- Item n of an array (R449 to R452). -/
def Dev.itemValue (s : Dev) (base n : Nat) : Option Bytes := match base with
  | 0x4010 => let p := s.port n; some (leBytes 4 (p.st.code + 2 ^ 16 * p.peerDev))
  | 0x4011 => some (leBytes 2 (s.port n).flight)
  | 0x4100 => some (leBytes 4 (s.elveel.routes.get n).toNat)
  | 0x5000 => some (ctxBytes (s.ctx n) (s.isFront n))
  | 0x5010 => some (leBytes 8 (s.lot n).word)
  | 0x5011 => some (leBytes 8 (s.lot n).beatState)
  | 0x5012 => some (leBytes 8 (s.lot n).shelfStat)
  | 0x5020 => some (((s.pitchDesc (0x900 + n)).map Pitch.bytes).getD (zeros 80))
  | 0x5030 => some (leBytes 8 (s.task n).word)
  | 0x5040 => some (leBytes 4 (s.seqWord n))
  | 0x5050 => some ((List.range 16).flatMap fun q => leBytes 4 (((s.stall n).queues.get q : RQueue).word s.now))
  | 0x5060 => some ((List.range 32).map fun i => BitVec.ofNat 8 ((s.stall n).sendInc.get (2 * i) + 16 * (s.stall n).sendInc.get (2 * i + 1)))
  | 0x5070 => some ((s.shelf (n / 4)).ownerBytes (n % 4))
  | 0x5080 => some (leBytes 8 (s.chest n).violation.toNat)
  | 0x50B0 => some (leBytes 8 (s.ring n).word)
  | 0x6061 => if s.conc.lpGiB = 0 then none else some (s.ctrBytes base n 80)
  | 0x7001 => some (match s.ledger.log.find? fun x => x.seq % 256 = n with
    | some x => x.bytes
    | none => zeros 64)
  | _ => none

/-- Whether an entry is served in the present device state (R440): always in service, else what the Warden holds. -/
def Dev.served (s : Dev) (index sub_ : Nat) : Bool :=
  s.lit || index / 0x1000 == 1 || index / 0x1000 == 2 || index / 0x1000 == 7 || (index == 0x4000 && decide (sub_ < 2))

/-- The value of a defined entry; none while its object does not exist. -/
def Dev.entryValue (s : Dev) (index sub_ : Nat) (e : Entry) : Option Bytes :=
  if (scalarRange index sub_).isSome then some (leBytes e.len (s.entry index sub_))
  else match index / 0x1000 with
    | 1 => s.identityValue index sub_
    | 2 => s.plantValue index sub_
    | 3 => some (leBytes e.len (if sub_ = 1 then s.conc.lpGiB else s.conc.trainSrc))
    | _ =>
      if index = 0x4000 then some [BitVec.ofNat 8 s.elveel.inc]
      else if index = 0x7000 then some (leBytes 4 (if s.ledger.log = [] then 0 else s.ledger.logSeq))
      else if index = 0x6080 then some (s.ctrBytes 0x6080 sub_ e.len)
      else match arrayOf index sub_ with
        | none => none
        | some (base, _) =>
          let n := itemOf base index sub_
          match s.itemValue base n with
          | some v => some v
          | none => if index / 0x1000 = 6 ∧ base ≠ 0x6061 then some (s.ctrBytes base n e.len) else none

/-! ## Classes (R436) -/

/-- Whether a host ring's context owns an entry: its own context, its Lot, or a unit of its Lot. val is the value of a write. -/
def Dev.ownEntry (s : Dev) (r index sub_ val : Nat) : Bool := match s.ringCtx r, s.ringLot r with
  | some c, some k =>
    let l := s.lot k
    if index = 0x50C0 then l.has (val % 4096 / 4)
    else match arrayOf index sub_ with
      | none => false
      | some (base, _) =>
        let n := itemOf base index sub_
        match base with
        | 0x5000 => n == c
        | 0x5010 => n == k
        | 0x5011 => n == k
        | 0x5012 => n == k
        | 0x5020 => decide (l.pbase ≤ 0x900 + n) && decide (0x900 + n < l.pbase + l.pcount)
        | 0x5030 => (s.task n).state != 0 && (s.task n).ctx == c
        | 0x50B0 => n == r
        | 0x6030 => l.has n
        | 0x6040 => n == k
        | 0x6050 => n == c
        | 0x5040 => l.has (n / 4)
        | 0x5050 => l.has (n / 4)
        | 0x5060 => l.has (n / 4)
        | 0x5070 => l.has (n / 4)
        | 0x5080 => l.has (n / 4)
        | 0x6000 => l.has (n / 4)
        | 0x6010 => l.has (n / 4)
        | 0x6020 => l.has (n / 4)
        | _ => false
  | _, _ => false

/-- Entries that the MGMT class alone may write (R391, R392, R406, R446). -/
def mgmtOnly (index sub_ : Nat) : Bool :=
  (index == 0x2000 && sub_ == 2) || ((index == 0x1004 || index == 0x1005) && sub_ == 1) || (index == 0x1010 && decide (sub_ < 3))
/-- Whether a counter record is one of the device's (R436, R451). -/
def deviceRecord (index : Nat) : Bool := decide (0x6060 ≤ index)

/-- Whether a request's class permits it (R436). -/
def Dev.permits (s : Dev) (req : Requester) (write : Bool) (index sub_ val : Nat) : Bool :=
  let area := index / 0x1000
  match req.cls with
  | .mgmt => true
  | .fw => !(write && mgmtOnly index sub_)
  | .peer => !write && (area == 1 || index == 0x4000 || area == 6)
  | .host =>
    let own : Bool := match req.src with
      | .ring r => s.ownEntry r index sub_ val
      | _ => false
    if area = 5 then own
    else if area = 6 then own || (!write && deviceRecord index)
    else !write

/-! ## Reads -/

/-- Most data bytes of a request on its path (R443). -/
def pathMax : ReqSrc → Nat
  | .udp _ _ => 1344
  | .elveel _ _ => 996
  | .ring _ => 4096
  | _ => 2 ^ 32

/-- A read of an entry (R438): its status, its data, the entry's present length, and what the read changes: it re-arms a violation record
(R170). -/
def Dev.ledgerGet (s : Dev) (req : Requester) (index sub_ off len : Nat) : Nat × Bytes × Nat × Dev :=
  if !indexKnown index then (1, [], 0, s)
  else match entryInfo index sub_ with
    | none => (2, [], 0, s)
    | some e =>
      if !s.permits req false index sub_ 0 then (4, [], e.len, s)
      else if e.access = .wo ∨ e.access = .cmd then (3, [], e.len, s)
      else if !s.served index sub_ then (0x0A, [], e.len, s)
      else match s.entryValue index sub_ e with
        | none => (0x0A, [], e.len, s)
        | some v =>
          if v.length < off + len ∨ pathMax req.src < len then (6, [], v.length, s)
          else
            let s := match arrayOf index sub_ with
              | some (0x5080, _) => s.modChest (itemOf 0x5080 index sub_) fun x => { x with latched := false }
              | _ => s
            (0, sub v off len, v.length, s)
/-- Read an entry and answer the request. -/
def Dev.ledgerRead (s : Dev) (a : Asked) (index sub_ off len : Nat) : Dev :=
  let (st, d, total, s) := s.ledgerGet a.req index sub_ off len
  s.respond a false index sub_ st total d

/-! ## Writes -/

/-- Field ranges of a context entry that a write may cover (R450). -/
def ctxFieldOk (off len : Nat) : Bool := [(2, 1), (40, 4), (48, 4), (52, 4), (56, 4), (48, 12)].contains (off, len)
/-- Whether OFFSET and LEN of a write obey R433 and the entry's table. -/
def writeLenOk (index sub_ : Nat) (e : Entry) (off len : Nat) : Bool := match arrayOf index sub_ with
  | some (0x5000, _) => decide (off + len ≤ 256)
  | some (0x5060, _) => decide (1 ≤ len) && decide (off + len ≤ 32)
  | _ => if index / 0x1000 = 6 then decide (1 ≤ len) && decide (off + len ≤ e.len) else off == 0 && len == e.len

/-- RANGE of the timeouts of a context entry when a write puts bytes into it (R315). -/
def Dev.ctxWriteOk (s : Dev) (n off : Nat) (bs : Bytes) : Bool :=
  let b := splice (ctxBytes (s.ctx n) false) off bs
  timeoutsOk (fld b 48 4) (fld b 56 4)
/-- A write of a context entry (R450): a flag set in the same cycle stays set (R439). -/
def Dev.ctxWrite (s : Dev) (n off : Nat) (bs : Bytes) : Dev := s.modCtx n fun x =>
  if off = 2 then { x with trapen := byte bs 0 }
  else if off = 40 then { x with flagsum := clearFlags x.flagsum (fld bs 0 4) (s.flagged.get n) }
  else
    let b := splice (ctxBytes x false) off bs
    { x with ssto := fld b 48 4, lateth := fld b 52 4, collto := fld b 56 4 }
/-- A write of a send incarnation table (R197, R450). -/
def Stall.sendIncWrite (x : Stall) (off : Nat) (bs : Bytes) : Stall :=
  { x with sendInc := bs.zipIdx.foldl (fun (t : Tab Nat) b =>
      (t.set (2 * (off + b.2)) (b.1.toNat % 16)).set (2 * (off + b.2) + 1) (b.1.toNat / 16)) x.sendInc }
/-- Clear the words of a counter record (R451): a change of the same cycle is applied after the clear (R439). Slots-in-use is RO. -/
def Dev.ctrClear (s : Dev) (rcd n off len : Nat) : Dev :=
  let ws := (List.range (len / 8)).map (· + off / 8)
  let ws := if rcd = 0x6080 ∧ n = 2 then ws.filter (· != 0) else ws
  { s with counters := ws.foldl (fun (t : Tab Nat) w => t.set (ctrKey rcd n w) (s.bumped.get (ctrKey rcd n w))) s.counters }

/-- Whether FIRST and COUNT of a pool range fit their tier when one of them is written (R448). -/
def Dev.poolOk (s : Dev) (sub_ v : Nat) : Bool :=
  let other := s.entry 0x3001 (if sub_ % 2 = 0 then sub_ + 1 else sub_ - 1)
  decide (v + other ≤ if sub_ < 2 then 10469376 else s.conc.lpGiB * 16384)
/-- Whether a bound context holds a pool descriptor (R448). -/
def Dev.poolHeld (s : Dev) : Bool := s.ctxs.any fun p => p.2.seated && p.2.pooldesc != 0
/-- Status of the checks on the value and the object's state (steps 8 and 9) of entries that the Ledger itself writes; 0 when they pass. -/
def Dev.valueCheck (s : Dev) (index sub_ off : Nat) (bs : Bytes) : Nat :=
  let v := leVal bs
  if (scalarRange index sub_).isSome then
    if !scalarOk index sub_ v then 7
    else if index = 0x3001 then (if !s.poolOk sub_ v then 7 else if s.poolHeld then 8 else 0)
    else if index = 0x4001 ∧ (List.range 18).any fun p => (s.port p).st == .up then 8
    else 0
  else match arrayOf index sub_ with
    | some (0x5000, _) => if s.ctxWriteOk (itemOf 0x5000 index sub_) off bs then 0 else 7
    | some (0x4100, _) => if routeOk v then 0 else 7
    | some (0x5060, _) => 0
    | _ => if index / 0x1000 = 6 ∧ (off % 8 ≠ 0 ∨ bs.length % 8 ≠ 0 ∨ v ≠ 0) then 7 else 0

/-- Write a route word: a draining peer's port that no destination routes over any more gets ROUTE_CLEAR (R283). -/
def Dev.setRoute (s : Dev) (n : Nat) (w : BitVec 32) : Dev :=
  let old := s.elveel
  let s := s.modElv fun e => { e with routes := e.routes.set n w }
  each (List.range 18) (fun p s =>
    let x := s.port p
    s.iff (x.st == .up && x.peerDraining && old.routesVia p && !s.elveel.routesVia p) fun s => s.emit (.ctl p 2)) s

/-- What a write of an RW entry does. -/
def Dev.applyWrite (s : Dev) (index sub_ off : Nat) (bs : Bytes) : Dev :=
  if (scalarRange index sub_).isSome then s.setEntry index sub_ (leVal bs)
  else if index = 0x6080 then s.ctrClear 0x6080 sub_ off bs.length
  else match arrayOf index sub_ with
    | none => s
    | some (base, _) =>
      let n := itemOf base index sub_
      match base with
      | 0x4100 => s.setRoute n (BitVec.ofNat 32 (leVal bs % 2 ^ 28))
      | 0x5000 => s.ctxWrite n off bs
      | 0x5060 => s.modStall n fun x => x.sendIncWrite off bs
      | _ => s.ctrClear base n off bs.length

/-- The act of a CMD or WO entry (steps 8 to 11), which answers its request. -/
def Dev.act (s : Dev) (a : Asked) (index sub_ off : Nat) (bs : Bytes) : Dev :=
  let v := leVal bs
  let ans (s : Dev) (st : Nat) : Dev := s.respond a true index sub_ st bs.length []
  match index, sub_ with
  | 0x1004, _ => s.ownerInstall a bs
  | 0x1005, _ => s.minverInstall a bs
  | 0x1010, 0 => if zeroAt bs 1 3 then s.recBegin a (byte bs 0) (fld bs 4 4) else ans s 7
  | 0x1010, 1 => s.recData a off bs
  | 0x1010, _ => if v = 1 then s.recCommit a else if v = 2 then s.recAbort a else ans s 7
  | 0x2000, _ => if v = 1 then s.reqAon a else if v = 2 then s.reqReady a else ans s 7
  | 0x4003, _ => if v < 16384 then ans (s.dropPeer v) 0 else ans s 7
  | 0x4012, p =>
    if v ≠ 1 then ans s 7
    else
      let st := (s.port p).st
      if st = .up ∨ st = .mgmtOnly ∨ st = .loop then ans (s.retrainPort p) 0 else ans s 8
  | 0x50C0, _ => if v % 4096 < 2304 then ans (s.resetQueue (v % 4096) (v / 4096)) 0 else ans s 7
  | 0x7000, _ =>
    if v ≠ 1 then ans s 7
    else
      let s := s.modLedger fun l => { l with log := [] }
      (s.await a).flashOp [(0x06520000, 0x40000)] [] (.answer a.req 0x7000 1)
  | _, _ => s

/-- Whether a staging or an act of an entry is open for another source (step 10). -/
def Dev.openFor (s : Dev) (src : ReqSrc) (index sub_ : Nat) : Bool :=
  (s.ledger.staging.any fun g => g.index == index && g.sub == sub_ && srcKey g.src != srcKey src)
  || s.boot.flashOps.any fun o => match o.andThen with
    | .setEntry q i u _ => i == index && u == sub_ && srcKey q.src != srcKey src
    | _ => false

/-- A write of a whole value, or of a range that the entry's table allows, in the order of R438. type: the TYPE that the request names. -/
def Dev.ledgerWrite (s : Dev) (a : Asked) (index sub_ : Nat) (type : Option Nat) (off : Nat) (bs : Bytes) : Dev :=
  let no (st total : Nat) : Dev := s.respond a true index sub_ st total []
  if !indexKnown index then no 1 0
  else match entryInfo index sub_ with
    | none => no 2 0
    | some e =>
      let isCtx : Bool := match arrayOf index sub_ with
        | some (0x5000, _) => true
        | _ => false
      let data := index = 0x1010 ∧ sub_ = 1
      if !s.permits a.req true index sub_ (leVal bs) then no 4 e.len
      else if e.access = .ro ∨ (isCtx ∧ !ctxFieldOk off bs.length) then no 3 e.len
      else if !s.served index sub_ ∨ (e.access = .rw ∧ (s.entryValue index sub_ e).isNone) then no 0x0A e.len
      else if type.any fun t => t != e.type then no 5 e.len
      else if ¬ data ∧ !writeLenOk index sub_ e off bs.length then no 6 e.len
      else if e.access ≠ .rw then s.act a index sub_ off bs
      else
        let st := s.valueCheck index sub_ off bs
        if st ≠ 0 then no st e.len
        else if s.openFor a.req.src index sub_ then no 9 e.len
        else if (scalarRange index sub_).any fun r => r.2.2 then s.persistEntry a index sub_ e.len (leVal bs)
        else (s.applyWrite index sub_ off bs).respond a true index sub_ 0 e.len []

/-! ## LEDGER_READ and LEDGER_WRITE on a ring (R371) -/

/-- The requester of a ring's command. -/
def ringAsked (r id : Nat) : Asked := { req := { cls := if r = mgmtRing then .mgmt else .host, src := .ring r, seq := id } }
/-- Whether a buffer lies in the job area. -/
def bufferOk (buf len : Nat) : Bool := decide (len ≤ 4096) && decide (buf + len ≤ jobEnd)

/-- LEDGER_READ. -/
def ledgerRead (r : Nat) (s : Dev) : Dev := s.start r 0x20 (fun _ => true) fun id e s =>
  let len := fld e 12 2
  let buf := fld e 16 8
  let inline := buf = 0 ∧ len ≤ 28
  let a := ringAsked r id
  if ¬ inline ∧ (buf = 0 ∨ !bufferOk buf len) then s.respond a false (fld e 8 2) (byte e 10) 6 0 []
  else s.ledgerRead a (fld e 8 2) (byte e 10) 0 len
def execLedgerRead (r : Nat) (s : State) : Host.Outcome State Fault Refusal := s.actOn (decide (r < 65)) (ledgerRead r)

/-- LEDGER_WRITE. -/
def ledgerWrite (r : Nat) (s : Dev) : Dev := s.start r 0x21 (fun _ => true) fun id e s =>
  let len := fld e 12 2
  let buf := fld e 16 8
  let inline := buf = 0 ∧ len ≤ 32
  let a := ringAsked r id
  if ¬ inline ∧ (buf = 0 ∨ !bufferOk buf len) then s.respond a true (fld e 8 2) (byte e 10) 6 0 []
  else s.ledgerWrite a (fld e 8 2) (byte e 10) none 0 (if inline then sub e 32 len else s.memAt buf len)
def execLedgerWrite (r : Nat) (s : State) : Host.Outcome State Fault Refusal := s.actOn (decide (r < 65)) (ledgerWrite r)

/-! ## The Ledger Access Protocol (R441, R442) -/

/-- Whether a request frame is well formed (R441). -/
def lapOk (src : ReqSrc) (f : Bytes) : Bool :=
  let op := byte f 3
  let n := if op = 2 then fld f 16 2 else 0
  fld f 0 2 == 0x504C && byte f 2 == 1 && (op == 1 || op == 2) && byte f 6 == 0 && decide (byte f 11 < (if op = 2 then 2 else 1))
    && fld f 18 4 == 0 && zeroAt f 22 2 && f.length == 28 + n && decide (n ≤ pathMax src) && crcOk f (24 + n)

/-- Class of a LAP request (R436). -/
def lapAsked (src : ReqSrc) (f : Bytes) (pkt : EPkt) (port : Option Nat) : Asked :=
  { req := { cls := .mgmt, src := src, seq := fld f 4 2 }, offset := fld f 12 4, pkt := pkt, port := port }

/-- Staging of a write of an entry by a source. -/
def Dev.stagingOf (s : Dev) (src : ReqSrc) (index sub_ : Nat) : Option Staging :=
  s.ledger.staging.find? fun g => g.index = index ∧ g.sub = sub_ ∧ srcKey g.src = srcKey src
/-- Drop the staging of an entry. -/
def Dev.unstage (s : Dev) (index sub_ : Nat) : Dev :=
  s.modLedger fun l => { l with staging := l.staging.filter fun g => !(g.index == index && g.sub == sub_) }
/-- Hold staged bytes. -/
def Dev.stage (s : Dev) (src : ReqSrc) (index sub_ : Nat) (bs : Bytes) : Dev :=
  (s.unstage index sub_).modLedger fun l => { l with staging := l.staging ++ [⟨src, index, sub_, bs, s.now⟩] }

/-- A WRITE frame (R442): RECOVERY_DATA acts at once; else the bytes are staged until the LAST frame. Of partial writes, a single LAST frame
carries its own OFFSET. A staged frame is answered OK. -/
def Dev.lapWriteFrame (s : Dev) (a : Asked) (f : Bytes) : Dev :=
  let index := fld f 8 2
  let sub_ := byte f 10
  let off := fld f 12 4
  let d := sub f 24 (fld f 16 2)
  let type := some (byte f 7)
  let last := bit (byte f 11) 0
  let total := ((entryInfo index sub_).map fun e => e.len).getD 0
  if index = 0x1010 ∧ sub_ = 1 then s.ledgerWrite a index sub_ type off d
  else if s.ledger.staging.any fun g => g.index == index && g.sub == sub_ && srcKey g.src != srcKey a.req.src then
    s.respond a true index sub_ 9 total []
  else match s.stagingOf a.req.src index sub_ with
    | some g =>
      if off = 0 then
        if last then (s.unstage index sub_).ledgerWrite a index sub_ type 0 d
        else (s.stage a.req.src index sub_ d).respond a true index sub_ 0 total []
      else if off ≠ g.bytes.length ∨ total < off + d.length then (s.unstage index sub_).respond a true index sub_ 6 total []
      else if last then (s.unstage index sub_).ledgerWrite a index sub_ type 0 (g.bytes ++ d)
      else (s.stage a.req.src index sub_ (g.bytes ++ d)).respond a true index sub_ 0 total []
    | none =>
      if last then s.ledgerWrite a index sub_ type off d
      else if !indexKnown index then s.respond a true index sub_ 1 0 []
      else if total = 0 then s.respond a true index sub_ 2 0 []
      else if off ≠ 0 ∨ total < d.length then s.respond a true index sub_ 6 total []
      else (s.stage a.req.src index sub_ d).respond a true index sub_ 0 total []

/-- A source of which responses are kept is heard (R442): it is the last to be evicted. -/
def Dev.heard (s : Dev) (src : ReqSrc) : Dev :=
  s.modLedger fun l => { l with kept := (l.kept.filter fun p => p.1 != srcKey src) ++ l.kept.filter fun p => p.1 == srcKey src }

/-- Serve a LAP frame of an operation: a bad one is dropped and counted, a duplicate gets the kept response (R441, R442). -/
def Dev.lapServe (s : Dev) (op : Nat) (src : ReqSrc) (f : Bytes) (pkt : EPkt) (port : Option Nat) : Dev :=
  if s.power.dstate = .off then s
  else if !lapOk src f then s.bump 0x6080 3 0
  else if byte f 3 ≠ op then s
  else
    let a := lapAsked src f pkt port
    match s.keptFor src a.req.seq with
    | some r => ((s.heard src).bump 0x6080 3 2).sendLap a r
    | none =>
      let s := s.heard src
      if s.ledger.asked.any fun b => srcKey b.req.src == srcKey src && b.req.seq == a.req.seq then s
      else if op = 1 then s.ledgerRead a (fld f 8 2) (byte f 10) a.offset (fld f 16 2)
      else s.lapWriteFrame a f

/-- LAP_READ. -/
def lapRead (src : ReqSrc) (f : Bytes) (s : Dev) : Dev := s.lapServe 1 src f {} none
def execLapRead (src : ReqSrc) (frame : Bytes) (s : State) : Host.Outcome State Fault Refusal := s.act (lapRead src frame)
/-- LAP_WRITE. -/
def lapWrite (src : ReqSrc) (f : Bytes) (s : Dev) : Dev := s.lapServe 2 src f {} none
def execLapWrite (src : ReqSrc) (frame : Bytes) (s : State) : Host.Outcome State Fault Refusal := s.act (lapWrite src frame)
/-- LAP_STAGING_TIMEOUT (R442). -/
def lapStagingTimeout (index sub_ : Nat) (s : Dev) : Dev :=
  if s.ledger.staging.any fun g => g.index == index && g.sub == sub_ && decide (g.last + 10 * second ≤ s.now) then s.unstage index sub_ else s
def execLapStagingTimeout (index sub_ : Nat) (s : State) : Host.Outcome State Fault Refusal := s.act (lapStagingTimeout index sub_)

/-! ## Commands that are a request for one entry -/

/-- A request for an entry outside a frame: a device that is off answers nothing. -/
def Dev.ask (s : Dev) (req : Requester) (index sub_ off : Nat) (bs : Bytes) : Dev :=
  if s.power.dstate = .off then s else s.ledgerWrite { req := req, offset := off } index sub_ none off bs

/-- VIOLATION_READ (R170, R450). -/
def violationRead (req : Requester) (c : Nat) (s : Dev) : Dev :=
  if s.power.dstate = .off then s else s.ledgerRead { req := req } (0x5080 + c / 256) (c % 256) 0 8
def execViolationRead (req : Requester) (chest : Nat) (s : State) : Host.Outcome State Fault Refusal :=
  s.actOn (decide (chest < 2304)) (violationRead req chest)
/-- DREQ_D_AON (R406). -/
def dreqDAon (req : Requester) (s : Dev) : Dev := s.ask req 0x2000 2 0 (leBytes 1 1)
def execDreqDAon (req : Requester) (s : State) : Host.Outcome State Fault Refusal := s.act (dreqDAon req)
/-- DREQ_D_READY (R406). -/
def dreqDReady (req : Requester) (s : Dev) : Dev := s.ask req 0x2000 2 0 (leBytes 1 2)
def execDreqDReady (req : Requester) (s : State) : Host.Outcome State Fault Refusal := s.act (dreqDReady req)
/-- OWNER_INSTALL (R391). -/
def ownerInstall (req : Requester) (cert : Bytes) (s : Dev) : Dev := s.ask req 0x1004 1 0 cert
def execOwnerInstall (req : Requester) (cert : Bytes) (s : State) : Host.Outcome State Fault Refusal := s.act (ownerInstall req cert)
/-- MINVER_INSTALL (R392). -/
def minverInstall (req : Requester) (rcd : Bytes) (s : Dev) : Dev := s.ask req 0x1005 1 0 rcd
def execMinverInstall (req : Requester) (record : Bytes) (s : State) : Host.Outcome State Fault Refusal := s.act (minverInstall req record)
/-- RECOVERY_BEGIN (R389, R446). -/
def recoveryBegin (req : Requester) (slot total : Nat) (s : Dev) : Dev := s.ask req 0x1010 0 0 (layout 8 [(0, 1, slot), (4, 4, total)])
def execRecoveryBegin (req : Requester) (slot total : Nat) (s : State) : Host.Outcome State Fault Refusal := s.act (recoveryBegin req slot total)
/-- RECOVERY_DATA (R389, R447). -/
def recoveryData (req : Requester) (off : Nat) (data : Bytes) (s : Dev) : Dev := s.ask req 0x1010 1 off data
def execRecoveryData (req : Requester) (offset : Nat) (data : Bytes) (s : State) : Host.Outcome State Fault Refusal :=
  s.act (recoveryData req offset data)
/-- RECOVERY_COMMIT (R389). -/
def recoveryCommit (req : Requester) (s : Dev) : Dev := s.ask req 0x1010 2 0 (leBytes 1 1)
def execRecoveryCommit (req : Requester) (s : State) : Host.Outcome State Fault Refusal := s.act (recoveryCommit req)
/-- RECOVERY_ABORT (R389). -/
def recoveryAbort (req : Requester) (s : Dev) : Dev := s.ask req 0x1010 2 0 (leBytes 1 2)
def execRecoveryAbort (req : Requester) (s : State) : Host.Outcome State Fault Refusal := s.act (recoveryAbort req)
/-- PEERINV (R276, R449). -/
def peerinv (req : Requester) (dev : Nat) (s : Dev) : Dev := s.ask req 0x4003 0 0 (leBytes 2 dev)
def execPeerinv (req : Requester) (dev : Nat) (s : State) : Host.Outcome State Fault Refusal := s.actOn (decide (dev < 65536)) (peerinv req dev)
/-- RETRAIN (R257, R449). -/
def retrain (req : Requester) (p : Nat) (s : Dev) : Dev := s.ask req 0x4012 p 0 (leBytes 1 1)
def execRetrain (req : Requester) (port : Nat) (s : State) : Host.Outcome State Fault Refusal := s.actOn (decide (port < 18)) (retrain req port)
/-- QRESET (R202, R450). -/
def qreset (req : Requester) (v : Nat) (s : Dev) : Dev := s.ask req 0x50C0 0 0 (leBytes 2 v)
def execQreset (req : Requester) (value : Nat) (s : State) : Host.Outcome State Fault Refusal := s.actOn (decide (value < 65536)) (qreset req value)
/-- LOGCLEAR (R452). -/
def logclear (req : Requester) (s : Dev) : Dev := s.ask req 0x7000 1 0 (leBytes 1 1)
def execLogclear (req : Requester) (s : State) : Host.Outcome State Fault Refusal := s.act (logclear req)

/-! ## The flash operation that ends (R380) -/

/-- What follows a flash operation that has succeeded. -/
def Dev.flashDone (s : Dev) : FlashThen → Dev
  | .nothing => s
  | .answer req i u => s.answerWrite req i u 0
  | .setEntry req i u v => (s.setEntry i u v).answerWrite req i u 0
  | .recoveryErased req =>
    (s.modBoot fun b => { b with recovery := b.recovery.map fun r => { r with erased := true, last := s.now } }).answerWrite req 0x1010 0 0
  | .recoveryCheck req => s.commitChecked req true
  | .lmsLimit n m => s.lmsReserved n m
  | .trialCleared => s
  | .prefSet req slot => s.prefDone req slot
/-- What follows one that has failed: FLASH (R438). -/
def Dev.flashFailed (s : Dev) : FlashThen → Dev
  | .nothing => s
  | .answer req i u => s.answerWrite req i u 0x0B
  | .setEntry req i u _ => s.answerWrite req i u 0x0B
  | .recoveryErased req => (s.modBoot fun b => { b with recovery := none }).answerWrite req 0x1010 0 0x0B
  | .recoveryCheck req => s.commitChecked req false
  | .lmsLimit _ _ => s.spdm (spdmError spUnspecified)
  | .trialCleared => s
  | .prefSet req _ => s.answerWrite req 0x1010 2 0x0B

/-- FLASH_OPERATION_COMPLETE (R380). -/
def flashOperationComplete (ok : Bool) (s : Dev) : Dev := match s.boot.flashOps with
  | [] => s
  | o :: rest =>
    let s := s.modBoot fun b => { b with flashOps := rest }
    if ok && s.boot.flashUsable then (s.flashNow o.erase o.prog).flashDone o.andThen else (s.tornOp o).flashFailed o.andThen
def execFlashOperationComplete (ok : Bool) (s : State) : Host.Outcome State Fault Refusal := s.act (flashOperationComplete ok)

end Sys2Proof.Machine
end

