-- ==== Sys2Proof/Machine/Arrive.lean ====
section
/-! DEFINITION. Requests that arrive from a peer (R250, R251, R277), and the draining of a device (R283, R285). -/
namespace Sys2Proof.Machine

/-! ## The checks at the destination (R277) -/

/-- Whether the offset of an address has zeros where R250 wants them. -/
def EPkt.offsetOk (e : EPkt) : Bool := match e.space with
  | 1 => bits e.addr 43 23 == 0
  | 2 => bits e.addr 43 24 == 0
  | _ => true

/-- The permission bit that a request needs (R274): none for MGMT. A request to the Ledger space needs LEDGER, one to the
unit-and-queue space UNIT. -/
def Peer.permits (p : Peer) (e : EPkt) : Bool :=
  if e.op = opMgmt then true
  else if e.op = opRunner then p.unit
  else if e.op = opBell then p.bell
  else if e.space = 1 then p.unit
  else if e.space = 2 then p.ledger
  else if e.op = opLoad ∨ e.op = opGet then p.memr
  else if e.op = opStore ∨ e.op = opPut then p.memw
  else p.atom

/-- What the checks of R277 find wrong, as a status of R235: none when they pass. lone: a MGMT packet on a MGMT_ONLY port, whose peer has
no device number or meets one that has none (R259). -/
def Dev.checkArrival (s : Dev) (e : EPkt) (lone : Bool) : Option Nat :=
  let shape := if e.op = opRunner then e.payload.length == 64 && e.len == 64
    else if e.op = opBell then e.payload.isEmpty && e.len == 0
    else true
  if !e.fieldsOk ∨ badAddr e.addr ∨ !e.offsetOk ∨ !shape then some stUnmapped
  else if !lone ∧ e.dinc ≠ s.elveel.inc then some stDeviceStale
  else if s.elveel.drain ≠ .no ∧ e.op ≠ opMgmt then some stDrained
  else if lone then none
  else match s.peerOf e.sdev with
    | some p => if p.state = 1 ∧ p.dinc = e.sinc ∧ p.permits e then none else some stPeerDenied
    | none => none

/-- Word of the device counters that a refusal counts in (R286). -/
def refusalWord (st : Nat) : Nat :=
  if st = stDeviceStale then 1 else if st = stPeerDenied then 2 else if st = stDrained then 3 else 4

/-- Refuse an arrived packet (R277): a request gets a reply, a RUNNER becomes an event, a BELL is dropped and counted. -/
def Dev.refuseArrival (s : Dev) (e : EPkt) (st : Nat) (port : Option Nat) : Dev :=
  let s := s.bumpFab (refusalWord st)
  if e.op = opBell then s.bumpFab 6
  else if e.op = opRunner then
    if st = stDeviceStale then s.eventTo (rpktOf e.payload) ecDeviceStale
    else if st = stDrained then s.eventTo (rpktOf e.payload) ecUnreachable
    else if st = stPeerDenied then s.eventTo (rpktOf e.payload) ecBadUnit
    else s
  else s.sendReply e st [] port

/-! ## What a request that passes does (R250 to R252) -/

/-- A LOAD of a Ledger entry (R250, R443). -/
def Dev.peerLoad (s : Dev) (e : EPkt) : Dev :=
  let req : Requester := { cls := .peer, src := .elveel e.sdev e.tid, seq := e.tid }
  let (st, d, _, s) := s.ledgerGet req (bits e.addr 23 8) (bits e.addr 7 0) 0 e.len
  let r := if st = 0 then stOk else if st = 1 ∨ st = 2 ∨ st = 0x0A then stUnmapped else if st = 4 then stPeerDenied else stUnsupported
  s.sendReply e r d

/-- A STORE to the unit-and-queue space: a runner message of 1 to 4 words, from no unit of the peer (R250). -/
def EPkt.runnerOf (e : EPkt) : RPkt :=
  { dunit := bits e.addr 12 0, tag := bits e.addr 18 13, qinc := bits e.addr 22 19, nw := e.len / 4 - 1, dinc := e.dinc, sdev := e.sdev,
    sunit := 0x1FFF, words := (List.range (e.len / 4)).map fun i => BitVec.ofNat 32 (fld e.payload (4 * i) 4) }

/-- A request to the unit-and-queue space: only STORE of 4, 8, 12 or 16 bytes. -/
def Dev.unitStore (s : Dev) (e : EPkt) : Dev :=
  if e.op = opStore ∧ [4, 8, 12, 16].contains e.len ∧ e.payload.length = e.len then (s.enterGrid e.runnerOf).sendReply e stOk []
  else s.sendReply e stUnsupported []

/-- A request to the Ledger space. -/
def Dev.ledgerSpace (s : Dev) (e : EPkt) : Dev :=
  if e.op = opLoad then (if [4, 8, 16, 32, 64].contains e.len ∧ e.payload.isEmpty then s.peerLoad e else s.sendReply e stUnsupported [])
  else if e.op = opStore then
    let index := bits e.addr 23 8
    let known := indexKnown index && (entryInfo index (bits e.addr 7 0)).isSome
    s.sendReply e (if known then stPeerDenied else stUnmapped) []
  else s.sendReply e stUnsupported []

/-- The runner packet that a request brings: a RUNNER's, or that of a STORE to the unit-and-queue space. -/
def EPkt.brings (e : EPkt) : Option RPkt :=
  if e.op = opRunner then some { rpktOf e.payload with sdev := e.sdev }
  else if e.op = opStore ∧ e.space = 1 then some e.runnerOf
  else none

/-- The effect of a request that has passed its checks. -/
def Dev.passOn (s : Dev) (e : EPkt) (port : Option Nat) : Dev :=
  if e.op = opMgmt then
    let src : ReqSrc := .elveel e.sdev e.tid
    let f := e.payload
    if f.length ≠ e.len ∨ e.len < 16 ∨ 1024 < e.len then s.sendReply e stUnsupported [] port
    else if byte f 3 = 1 then s.lapServe 1 src f e port
    else s.lapServe 2 src f e port
  else if e.op = opRunner then s.enterGrid { rpktOf e.payload with sdev := e.sdev }
  else if e.op = opBell then s.ringLine (e.aux % 32)
  else if e.space = 1 then s.unitStore e
  else if e.space = 2 then s.ledgerSpace e
  else if e.shapeOk then s.serve e none
  else s.sendReply e stUnsupported []

/-- A request of an opcode arrives at its destination: a packet that a port holds at the head of its VC and class. It waits while its
sender's peer entry is read (R275). A packet of an undefined opcode belongs to no row of its own: whichever row it comes to refuses it with
UNMAPPED (check 2). -/
def requestRow (op : Nat) (bs : Bytes) (s : Dev) : Dev :=
  let e := epktOf bs
  if !s.lit ∨ s.engineTested 7 0 ∨ (e.op ≠ op ∧ (isRequest e.op || isReply e.op)) then s
  else match s.takeRx bs with
    | none => s
    | some (p, vc, t) =>
      let lone := (s.port p).st == .mgmtOnly && vc == 6 && op == opMgmt
      let port := if lone then some p else none
      if !lone ∧ e.ddev ≠ s.elveel.devnum then s
      else if !ecrcOk bs then t.ecrcDrop
      else match s.checkArrival e lone with
        | some st => t.refuseArrival e st port
        | none =>
          if !lone ∧ (s.peerOf e.sdev).isNone then s.askPeer e.sdev
          else if e.brings.any fun p => !s.gridRoom p then s
          else
            let t := t.iff (!lone) fun t => t.touchPeer e.sdev
            t.passOn e port

/-- LOAD (R250, R277). -/
def load (pkt : Bytes) (s : Dev) : Dev := requestRow opLoad pkt s
def execLoad (pkt : Bytes) (s : State) : Host.Outcome State Fault Refusal := s.act (load pkt)
/-- STORE (R250, R277). -/
def store (pkt : Bytes) (s : Dev) : Dev := requestRow opStore pkt s
def execStore (pkt : Bytes) (s : State) : Host.Outcome State Fault Refusal := s.act (store pkt)
/-- ATOMIC (R233, R277). -/
def atomic (pkt : Bytes) (s : Dev) : Dev := requestRow opAtomic pkt s
def execAtomic (pkt : Bytes) (s : State) : Host.Outcome State Fault Refusal := s.act (atomic pkt)
/-- LINEADD (R234, R277). -/
def lineadd (pkt : Bytes) (s : Dev) : Dev := requestRow opLineadd pkt s
def execLineadd (pkt : Bytes) (s : State) : Host.Outcome State Fault Refusal := s.act (lineadd pkt)
/-- PUT (R277). -/
def putRequest (pkt : Bytes) (s : Dev) : Dev := requestRow opPut pkt s
def execPut (pkt : Bytes) (s : State) : Host.Outcome State Fault Refusal := s.act (putRequest pkt)
/-- GET (R277). -/
def getRequest (pkt : Bytes) (s : Dev) : Dev := requestRow opGet pkt s
def execGet (pkt : Bytes) (s : State) : Host.Outcome State Fault Refusal := s.act (getRequest pkt)
/-- RUNNER (R198, R277). -/
def runnerArrives (pkt : Bytes) (s : Dev) : Dev := requestRow opRunner pkt s
def execRunner (pkt : Bytes) (s : State) : Host.Outcome State Fault Refusal := s.act (runnerArrives pkt)
/-- BELL (R277). -/
def bellArrival (pkt : Bytes) (s : Dev) : Dev := requestRow opBell pkt s
def execBell (pkt : Bytes) (s : State) : Host.Outcome State Fault Refusal := s.act (bellArrival pkt)
/-- MGMT (R251, R277, R443). -/
def mgmt (pkt : Bytes) (s : Dev) : Dev := requestRow opMgmt pkt s
def execMgmt (pkt : Bytes) (s : State) : Host.Outcome State Fault Refusal := s.act (mgmt pkt)

/-! ## Draining and returning (R283, R285) -/

/-- Set a bell counter of the draining: the ports that are UP. -/
def Dev.upPorts (s : Dev) : List Nat := below 18 fun p => (s.port p).st == .up

/-- DRAIN (R283, R373): refused while any context is BOUND or FAULTED. -/
def drain (s : Dev) : Dev := s.start mgmtRing 0x07 (fun _ => true) fun id _ s =>
  if s.ctxs.any fun p => p.2.seated then s.done mgmtRing id 0x4D []
  else
    let s := s.modElv fun e => { e with drain := .draining, drainCmd := some id,
                                        ports := e.ports.map fun p => (p.1, { p.2 with routeClear := false }) }
    each s.upPorts (fun p s => (s.emit (.ctl p 1)).modPort p fun x => { x with rep := [1] }) s
def execDrain (s : State) : Host.Outcome State Fault Refusal := s.act drain

/-- DRAIN_NOTICE (R283): of a neighbour; its port gets ROUTE_CLEAR at once when nothing is routed over it. -/
def drainNotice (p : Nat) (s : Dev) : Dev :=
  let x := s.port p
  if s.lit && x.st == .up then
    ((s.modPort p fun y => { y with peerDraining := true }).event 0x19 [(32, 1, p), (34, 2, x.peerDev)]).iff (!s.elveel.routesVia p)
      fun s => s.emit (.ctl p 2)
  else s
def execDrainNotice (p : Nat) (s : State) : Host.Outcome State Fault Refusal := s.actOn (decide (p < 18)) (drainNotice p)

/-- ROUTE_CLEAR (R283). -/
def routeClear (p : Nat) (s : Dev) : Dev :=
  if s.elveel.drain == .draining && (s.port p).st == .up then
    s.modPort p fun x => { x with routeClear := true, rep := [] } else s
def execRouteClear (p : Nat) (s : State) : Host.Outcome State Fault Refusal := s.actOn (decide (p < 18)) (routeClear p)

/-- Whether step 4 of R283 may be taken. -/
def Dev.drainReady (s : Dev) : Bool :=
  s.elveel.drain == .draining && (s.upPorts.all fun p => (s.port p).routeClear) && decide (s.elveel.lastTransit + 100 * usec ≤ s.now)
    && s.elveel.txns.isEmpty

/-- DRAIN_COMPLETE (R283): LINK_DOWN on every port, transmitters off, DRAINED; DRAIN completes. A port that was in use keeps its
ROUTE_CLEAR mark, by which UNDRAIN finds it. -/
def drainComplete (s : Dev) : Dev :=
  if !s.drainReady then s
  else
    let s := each (List.range 18) (fun p s =>
      let st := (s.port p).st
      let live := st == .up || st == .mgmtOnly || st == .loop
      let s := s.iff live fun s => s.emit (.ctl p 3)
      s.iff (live || st != .down) fun s => (s.maskPort p .down).modPort p fun x => { x with routeClear := live }) s
    let cmd := s.elveel.drainCmd
    let s := (s.modElv fun e => { e with drain := .drained, drainCmd := none }).event 0x1B []
    match cmd with
    | some id => s.done mgmtRing id 0 []
    | none => s
def execDrainComplete (s : State) : Host.Outcome State Fault Refusal := s.act drainComplete

/-- LINK_DOWN (R283): the port masks itself and raises PEER_GONE. -/
def linkDown (p : Nat) (s : Dev) : Dev :=
  let x := s.port p
  if s.lit && (x.st == .up || x.st == .mgmtOnly || x.st == .loop) then
    (s.maskPort p .down).event 0x1A [(32, 1, p), (34, 2, x.peerDev)]
  else s
def execLinkDown (p : Nat) (s : State) : Host.Outcome State Fault Refusal := s.actOn (decide (p < 18)) (linkDown p)

/-- UNDRAIN (R281, R285, R449): the incarnation grows and is stored, the device number is read again, and the ports that the drain took
down retrain from phase 2. -/
def undrain (s : Dev) : Dev := s.start mgmtRing 0x08 (fun _ => true) fun id _ s =>
  if s.elveel.drain ≠ .drained then s.done mgmtRing id 0x4E []
  else
    let inc := (s.elveel.inc + 1) % 256
    let w := s.incWrite inc
    let s := s.flashOp w.1 w.2 .nothing
    let s := s.modElv fun e => { e with drain := .no, inc := inc, devnum := s.entry 0x4000 0, undrainCmd := some id }
    each (below 18 fun p => (s.port p).routeClear) (fun p s => s.retrainPort p) s
def execUndrain (s : State) : Host.Outcome State Fault Refusal := s.act undrain

/-- UNDRAIN completes once no port that it retrains is still at it: each has its new state or has failed. -/
def Dev.undrainTick (s : Dev) : Dev := match s.elveel.undrainCmd with
  | none => s
  | some id =>
    if (List.range 18).any fun p => let x := s.port p; x.routeClear && (x.st == .retraining || x.phase != 0) then s
    else
      let s := s.modElv fun e => { e with undrainCmd := none, ports := e.ports.map fun p => (p.1, { p.2 with routeClear := false }) }
      s.done mgmtRing id 0 []

end Sys2Proof.Machine
end

