-- ==== Sys2Proof/Machine/Lands.lean ====
section
/-! DEFINITION. The land grid (R480 to R484) and the boundary-scan register that covers it (R495). -/
namespace Sys2Proof.Machine

/-- The supplies that lands carry (R480 to R485). -/
inductive Supply where
  | vss | vcore (die : Nat) | vsram (die : Nat) | viod | voe | vhphy | vhbmp | vhbmc | vhbmq | vlpc | vlpq | vio18 | vaon
  deriving DecidableEq, Repr, Inhabited

/-- A land: of a supply, non-repetitive land j of R484, an NC land, land k of an LPDDR5X channel (R483), or a package's RESET_L. -/
inductive Land where
  | supply (rail : Supply)
  | signal (j : Nat)
  | nc (n : Nat)
  | lp (pkg ch k : Nat)
  | lpReset (pkg : Nat)
  deriving DecidableEq, Repr, Inhabited

/-- The supply of even land k of die region d (R481). -/
def dieLand (d k : Nat) : Supply :=
  if k < 114 then .vhbmc else if k < 204 then .vhbmq else if k < 216 then .vhbmp else if k < 270 then .vhphy
  else if k < 390 then .vsram d else .vcore d
/-- Even land j of the I/O band (R482). -/
def ioLand (j : Nat) : Land :=
  if j < 81 then .signal j else if j < 128 then .nc (j - 81) else if j < 144 then .supply .vio18 else if j < 152 then .supply .vaon
  else if j < 392 then .supply .viod else .supply .voe
/-- Lands of the 42 of a channel that are VSS (R483). -/
def lpVss : List Nat := [2, 12, 26, 40, 41]
/-- Names of the 42 lands of a channel, in their order (R483). -/
def lpNames : List String := ["CK_T", "CK_C", "VSS", "CA0", "CA1", "CA2", "CA3", "CA4", "CA5", "CA6", "CS0", "CS1", "VSS", "WCK0_T", "WCK0_C",
  "DQ0", "DQ1", "DQ2", "DQ3", "DQ4", "DQ5", "DQ6", "DQ7", "DMI0", "RDQS0_T", "RDQS0_C", "VSS", "WCK1_T", "WCK1_C", "DQ8", "DQ9", "DQ10",
  "DQ11", "DQ12", "DQ13", "DQ14", "DQ15", "DMI1", "RDQS1_T", "RDQS1_C", "VSS", "VSS"]
/-- The land of the LPDDR5X band at a position (R483). -/
def lpLand (row col : Nat) : Land :=
  if col < 3 then .supply .vlpc
  else if 98 < col then .supply .vss
  else
    let x := (col - 3) % 6
    let k := 6 * ((row - 1) % 7) + x
    if row = 30 then .supply .vss
    else if row = 29 then (if x = 0 then .lpReset ((col - 3) / 6) else .supply .vlpq)
    else if lpVss.contains k then .supply .vss
    else .lp ((col - 3) / 6) ((row - 1) / 7) k

/-- The land at a row and column (R480). -/
def landAt (row col : Nat) : Option Land :=
  if row = 0 ∨ 96 < row ∨ col = 0 ∨ 100 < col then none
  else if row ≤ 30 then some (lpLand row col)
  else if (row + col) % 2 = 1 then some (.supply .vss)
  else if row ≤ 42 then some (ioLand (50 * (row - 31) + (col - 1) / 2))
  else some (.supply (dieLand ((col - 1) / 50) (25 * (96 - row) + (col - 1) % 50 / 2)))

/-- Serial of the supply land at a position: the lands of its supply below it, and west of it in its row (R484). -/
def landSerial (row col : Nat) : Nat :=
  let same (r c : Nat) : Bool := landAt r c == landAt row col
  ((List.range row).map fun r => ((List.range 101).filter fun c => same r c).length).sum + ((List.range col).filter fun c => same row c).length

/-- Whether non-repetitive land j has the 1.8 V levels and is no JTAG land, and so is scanned; with whether it can drive (R484, R495). -/
def signalDrives (j : Nat) : Option Bool :=
  if j < 2 ∨ (55 ≤ j ∧ j ≤ 56) ∨ (59 ≤ j ∧ j ≤ 67) ∨ 69 ≤ j then none
  else if j ≤ 4 ∨ (19 ≤ j ∧ j ≤ 30) ∨ [33, 36, 39, 44, 57, 58, 68].contains j then some false
  else some true

/-- The lands that the boundary-scan register covers, in its order, with whether each can drive (R495). Every LPDDR5X signal land is taken to
drive, the RDQS lands too, of which the manual does not say it (DESIGN CHOICE, notes/assumptions/69.md). -/
def scanLands : List (Land × Bool) :=
  ((List.range 81).filterMap fun j => (signalDrives j).map fun d => (.signal j, d))
    ++ (List.range 16).flatMap fun p =>
      ((List.range 4).flatMap fun c => ((List.range 42).filter fun k => !lpVss.contains k).map fun k => (.lp p c k, true)) ++ [(.lpReset p, true)]

/-- What a cell of the register is for. -/
inductive ScanCell where
  | input | output | enable
  deriving DecidableEq, Repr, Inhabited

/-- The cells of the register: a land's input cell, then its output and enable cells where it can drive (R495). -/
def scanCells : List (Land × ScanCell) :=
  scanLands.flatMap fun l => if l.2 then [(l.1, .input), (l.1, .output), (l.1, .enable)] else [(l.1, .input)]

/-- A list of bits as long as a register: cut, or filled up with zeros. -/
def fitBits (n : Nat) (l : List Bool) : List Bool := l.take n ++ List.replicate (n - l.length) false

/-- The lands that the cells drive while EXTEST is in effect, with their levels: those whose enable cell is 1. -/
def Jtag.driven (j : Jtag) : List (Land × Bool) :=
  if !j.driving then []
  else
    let cs := scanCells.zip j.cells
    cs.filterMap fun c => if c.1.2 = .output ∧ cs.any (fun e => e.1 == (c.1.1, .enable) && e.2) then some (c.1.1, c.2) else none

end Sys2Proof.Machine
end

