-- ==== Sys2Proof/Machine/Jtag.lean ====
section
/-! DEFINITION. The JTAG port (R495): boundary scan. It runs while the always-on domain is powered, and nothing but its own commands and a
power-on reset touches it. -/
namespace Sys2Proof.Machine

/-- Instruction codes. -/
abbrev irExtest : Nat := 0x00
abbrev irSample : Nat := 0x01
abbrev irPreload : Nat := 0x02
abbrev irBypass : Nat := 0xFF

/-- Whether VIOD is present: its power-good. -/
def Power.viod (p : Power) : Bool := p.pwrPg.getD 4 false

/-- An instruction that acts as BYPASS. -/
def Jtag.toBypass (j : Jtag) (code : Nat) : Jtag := { j with ir := code, bypass := true, driving := false }
/-- What a capture finds: one level for each land that the register covers. -/
def capture (pins : List Bool) : List Bool := fitBits scanLands.length pins
/-- EXTEST in effect: the cells drive the lands and capture them. -/
def Jtag.toExtest (j : Jtag) (pins : List Bool) : Jtag := { j with ir := irExtest, bypass := false, driving := true, captured := capture pins }
/-- SAMPLE: the lands are captured; without VIOD nothing is. -/
def Jtag.toSample (j : Jtag) (viod : Bool) (pins : List Bool) : Jtag :=
  { j with ir := irSample, bypass := false, driving := false, captured := if viod then capture pins else [] }
/-- PRELOAD in effect: the cells are loaded. -/
def Jtag.toPreload (j : Jtag) (cells : List Bool) : Jtag := { j with ir := irPreload, bypass := false, driving := false, cells := fitBits scanCells.length cells }

/-- A JTAG instruction acts on the port of a device whose always-on domain is powered. -/
def State.scan (s : State) (f : Jtag → Jtag) : Host.Outcome State Fault Refusal :=
  .next (if s.dev.power.aonPwrok then { s with jtag := f s.jtag } else s)

/-- EXTEST: with TEST_MODE latched, else as BYPASS. -/
def execExtest (pins : List Bool) (s : State) : Host.Outcome State Fault Refusal :=
  s.scan fun j => if s.dev.power.testMode then j.toExtest pins else j.toBypass irExtest
/-- SAMPLE. -/
def execSample (pins : List Bool) (s : State) : Host.Outcome State Fault Refusal :=
  s.scan fun j => j.toSample s.dev.power.viod pins
/-- PRELOAD: with TEST_MODE latched, else as BYPASS. -/
def execPreload (cells : List Bool) (s : State) : Host.Outcome State Fault Refusal :=
  s.scan fun j => if s.dev.power.testMode then j.toPreload cells else j.toBypass irPreload
/-- BYPASS, 0xFF, and every code that R495 does not list. -/
def execBypass (code : Nat) (s : State) : Host.Outcome State Fault Refusal :=
  if irPreload < code ∧ code < 256 then s.scan fun j => j.toBypass code else .fault .noSuchUnit
/-- TRST_L_ASSERT: the TAP is reset, which selects BYPASS, and nothing else. -/
def execTrstLAssert (s : State) : Host.Outcome State Fault Refusal := s.scan fun j => j.toBypass irBypass

end Sys2Proof.Machine
end

