-- ==== Sys2Proof/Machine/Service.lean ====
section
/-! DEFINITION. Targeted tests and their outcomes (R460 to R465), configuration scrubbing (R466 to R470), the Clerks (R471, R472) and row
repair (R474). -/
namespace Sys2Proof.Machine

/-! ## The back shelf that an error takes (R353, R462, R464, R468) -/

/-- A load of a Lot's back shelf that is not over ends with ABORTED. -/
def Dev.abortLoad (s : Dev) (k : Nat) : Dev :=
  let l := s.lot k
  if l.bstate = .loading ∨ l.bstate = .loaded then
    let r := (s.ctx l.back.ctx).ring
    match s.runningOp r 0x10 with
    | some c => { s with loading := s.loading.filter fun p => p.1 != r }.loadEnds k r c.id 0x26 0 l.back.imageId
    | none => s
  else s
/-- A back shelf is lost to an error of a block: BACK_SHELF_LOST goes to its owner. -/
def Dev.backLost (s : Dev) (k b ekind : Nat) : Dev :=
  let l := s.lot k
  if l.back.kind = 0 then s else ((s.abortLoad k).ctxEvent l.back.ctx 0x35 [(32, 2, b), (34, 1, ekind)]).loseBack k

/-! ## What a test does to the unit (R458 to R460) -/

/-- Trestle tiles of a test: the Stall or the Chest, or the tiles of the block. -/
def testTiles (uclass unit b : Nat) : List Nat := match uclass with
  | 0 => [unit]
  | 1 => [0x1000 + unit % 0x1000]
  | 2 => [4 * b, 4 * b + 1, 4 * b + 2, 4 * b + 3]
  | _ => [4 * b, 4 * b + 1, 4 * b + 2, 4 * b + 3, 0x1000 + 4 * b, 0x1001 + 4 * b, 0x1002 + 4 * b, 0x1003 + 4 * b]

/-- A tile's program is written by the Clerks and starts (R458, R459). The manual does not list the programs: their words are free. -/
def Dev.startTile (s : Dev) (u : Nat) : Dev :=
  let (r, s) := s.draw
  let prog : Tab W32 := Tab.ofList 0 ((List.range 1024).map fun i => BitVec.ofNat 32 (r / 2 ^ (32 * i)))
  { s with trestles := s.trestles.mod u fun t => { t with prog := prog, pc := 0, stat := .run } }
/-- A tile stops with its test. -/
def Dev.stopTile (s : Dev) (u : Nat) : Dev :=
  { s with trestles := s.trestles.mod u fun t => match t.stat with
    | .halted _ => t
    | _ => { t with stat := .halted 0 } }

/-- Banks of a Chest that a test may write: those that shelves of the faulted contexts name (R459). -/
def Dev.testBanks (s : Dev) (ctxs : List Nat) (c : Nat) : Nat := match s.lotOf (c / 4) with
  | none => 0
  | some k =>
    let l := s.lot k
    let of (x : LotShelf) : Nat := if x.kind ≠ 0 ∧ ctxs.contains x.ctx then (x.blocks.get (c / 4)).banks (c % 4) else 0
    of l.front ||| of l.back
/-- A bank that a test has written holds free values. -/
def Dev.testedBank (s : Dev) (c n : Nat) : Dev :=
  let (r, s) := s.draw
  let (q, s) := s.draw
  let rows := (List.range 768).map fun i => 16 * i + n
  let s := rows.zipIdx.foldl (fun s p => s.memPut (chestOff c + 64 * p.1) (leBytes 64 (r / 2 ^ (512 * p.2)))) s
  s.modChest c fun x => { x with
    stat := rows.zipIdx.foldl (fun (t : Tab RowStat) p => t.set p.1 { stamp := q / 2 ^ (5 * p.2) % 16, held := bit q (5 * p.2 + 4) }) x.stat,
    badWords := x.badWords.filter fun w => w.1 % 16 != n }
/-- What a test leaves in the unit: tile registers and test-writable banks. -/
def Dev.afterTest (s : Dev) (t : UTest) (b : Nat) : Dev :=
  each (testTiles t.uclass t.unit b) (fun u s =>
    let s := s.stopTile u
    if t.uclass = 2 then s
    else if u < 0x1000 then s.loseTiles u
    else
      let c := u - 0x1000
      each (below 16 fun n => bit (s.testBanks t.ctxs c) n) (fun n s => s.testedBank c n) s) s

/-! ## TARGETED_TEST_START (R460, R461) -/

/-- Whether a block's Lot holds a command of a context that is not faulted. -/
def Dev.lotWorks (s : Dev) (b : Nat) : Bool := match s.lotOf b with
  | none => false
  | some k => ((s.lot k).seat0.toList ++ (s.lot k).seat1.toList).any fun c => (s.ctx c).state == .bound && s.occFlight c
/-- Whether a test may start: its contexts have passed step 4 of their teardowns, and the work that completes first has completed. -/
def Dev.testReady (s : Dev) (t : UTest) : Bool :=
  !t.running && (t.ctxs.all fun c => s.teardowns.all fun d => d.ctx != c || d.step4) && match unitBlock t.uclass t.unit with
    | some b => !s.lotWorks b
    | none => match t.uclass with
      | 7 => s.elveel.txns.isEmpty && s.elveel.served.isEmpty
      | 9 => s.coll.active.isEmpty
      | 10 => (s.block t.unit).xfer.timedQ.isEmpty && (s.block t.unit).xfer.bulkQ.isEmpty
      | 11 => s.pool.busy.isNone
      | 15 => s.copies.isEmpty
      | _ => true
/-- The tests that run. -/
def Dev.testsRunning (s : Dev) : Nat := (s.service.tests.filter fun t => t.running).length

/-- While a switch point is tested, alone or with its block, its bit is set in the switch fault maps, so that runners detour (R459). -/
def Dev.mapTested (s : Dev) (t : UTest) (b : Nat) : Dev :=
  if (t.uclass = 2 ∨ t.uclass = 3) ∧ !s.grid.faultMap.contains b then
    (s.modGrid fun g => { g with faultMap := insertUp b g.faultMap }).modSvc fun v =>
      { v with tests := v.tests.map fun u => if u.id = t.id then { u with mapped := true } else u }
  else s
/-- The bit of a test that is over is cleared. -/
def Dev.unmapTested (s : Dev) (t : UTest) (b : Nat) : Dev :=
  s.iff t.mapped fun s => s.modGrid fun g => { g with faultMap := g.faultMap.filter (· != b) }

/-- The unit leaves service (R460). A test sets the island to RUN at once, a retired block's too, which R21 keeps power-gated otherwise: the
manual does not say how the two go together (DESIGN CHOICE, notes/assumptions/64.md). -/
def Dev.outOfService (s : Dev) (t : UTest) : Dev := match unitBlock t.uclass t.unit with
  | some b => (fun s : Dev => s.mapTested t b) <| each (testTiles t.uclass t.unit b) (fun u s => s.startTile u)
      (s.modBlock b fun x => { x with testing := true, island := .run, quiet := none })
  | none =>
    if t.uclass = 6 then
      let st := (s.port t.unit).st
      s.iff (st != .down && st != .failed) fun s => s.maskPort t.unit .down
    else s

/-- TARGETED_TEST_START (R460, R461): at most 32 at once, in the order of their errors. A block below IDLE is woken first. -/
def targetedTestStart (id : Nat) (s : Dev) : Dev := match s.service.tests.find? fun t => t.id = id with
  | none => s
  | some t =>
    let before := (s.service.tests.filter fun u => decide (u.id < id) && s.testReady u).length
    if !s.lit ∨ !s.testReady t ∨ 32 ≤ s.testsRunning + before then s
    else
      let go := (s.modSvc fun v => { v with tests := v.tests.map fun u => if u.id = id then { u with running := true, started := s.now } else u
        }).outOfService t
      match unitBlock t.uclass t.unit with
      | none => go
      | some b =>
        if (s.block b).awake ∨ (s.block b).fenced ∨ s.retired b then go
        else s.askIsland (((s.lotOf b).map s.lot).getD {}) b 2 none
def execTargetedTestStart (id : Nat) (s : State) : Host.Outcome State Fault Refusal := s.act (targetedTestStart id)

/-! ## TARGETED_TEST_END (R460, R462 to R465) -/

/-- Whether a shelf of a Lot has a circuit through the switch point of a block. -/
def LotShelf.through (x : LotShelf) (b : Nat) : Bool :=
  let fr (n : Nat) : Bytes := (x.blocks.get n).switchFrame
  x.blocks.any fun p => (sendersOf fr p.1).any fun o => o.1 == b || (passes_ fr o).contains b

/-- What a fence does to the contexts whose shelves hold frames on the block or a Pitch that contains it (R28, R462), or with `circuit` a
circuit through it (R464): faulted names those that the error has faulted. -/
def Dev.fenceShelves (s : Dev) (b ekind : Nat) (circuit : Bool) (faulted : List Nat) : Dev := match s.lotOf b with
  | none => s
  | some k =>
    let l := s.lot k
    let hit (x : LotShelf) : Bool := x.kind != 0 && if circuit then x.through b else x.blocks.any fun p => p.1 == b
    let s := s.iff ((hit l.front || (!circuit && l.inPitch (4 * b))) && !faulted.contains l.front.ctx) fun s =>
      s.faultCtx l.front.ctx (if circuit then 0x0021 else 0x0020) (4 * b) 0
    s.iff (hit (s.lot k).back) fun s => s.backLost k b ekind

/-- Fence the unit of a lasting error, and spare or repair it. -/
def Dev.fenceUnit (s : Dev) (t : UTest) : Dev :=
  let fenced (s : Dev) : Dev := s.event 0x31 [(32, 1, t.uclass), (36, 4, t.unit)]
  match unitBlock t.uclass t.unit with
  | some b =>
    let s := s.fenceBlock b
    let s := s.iff (t.uclass == 2) fun s =>
      ((s.modGrid fun g => { g with faultMap := insertUp b g.faultMap }).event 0x32 [(32, 2, b)]).fenceShelves b t.ekind true t.ctxs
    (fenced (s.fenceShelves b t.ekind false t.ctxs)).spareBlock b
  | none =>
    let s := fenced (s.modSvc fun v => { v with fenced := v.fenced ++ [(t.uclass, t.unit)] })
    let row := rowOff (rowKey t.addr)
    s.iff (t.uclass == 4 && (t.ekind == 0x05 || (t.ekind == 0x12 && t.addr != 0)) && s.conc.repairs.all fun r => r.row != row) fun s =>
      s.modConc fun c => { c with repairs := c.repairs ++ [{ slice := t.unit, row := row, started := s.now }] }

/-- The unit is in service again (R460): a block rejoins its Lot, one of no Lot is off. A Clerk restarts. -/
def Dev.inService (s : Dev) (t : UTest) : Dev := match unitBlock t.uclass t.unit with
  | none => s.iff (t.uclass == 8) fun s => s.modSvc fun v =>
      { v with clerks := v.clerks.mod t.unit fun c => { c with up := true, wdtAt := s.now, testAt := s.now } }
  | some b =>
    if s.service.tests.any fun u => u.running && unitBlock u.uclass u.unit == some b then s
    else
      let s := s.modBlock b fun x => { x with testing := false }
      if (s.block b).fenced ∨ s.retired b then s.powerOff b
      else match s.lotOf b with
        | none => s.powerOff b
        | some k => s.askBanks b 2 (s.banksToWake b ((s.lot k).back.blocks.get b))

/-- Pool of a Clerk (R471). -/
def clerkPool (k : Nat) : Nat := if k < 32 then k / 16 else 2

/-- Whether two Clerks can decide (R473, R475): of different pools, in service, of one version. -/
def Dev.mayDecide (s : Dev) : Bool :=
  let up := (List.range 36).filter fun k => (s.service.clerks.get k).up
  up.any fun a => up.any fun b => clerkPool a != clerkPool b && (s.service.clerks.get a).newFw == (s.service.clerks.get b).newFw

/-- A Clerk leaves service (R472): contexts homed on it have a home in its pool again, else in the other compute pool. -/
def Dev.clerkDown (s : Dev) (k : Nat) (cs : List Nat) : Dev :=
  let s := s.modSvc fun v => { v with clerks := v.clerks.mod k fun c => { c with up := false } }
  let p := clerkPool k
  if s.poolUp p = [] ∧ p = 2 then s.lowerRails
  else match s.poolUp p ++ s.poolUp (1 - p) with
    | h :: _ => s.modSvc fun v => { v with home := cs.foldl (fun (t : Tab Nat) c => t.set c h) v.home }
    | [] => s
/-- Bound contexts whose home a Clerk is. -/
def Dev.homedOn (s : Dev) (k : Nat) : List Nat :=
  (s.ctxs.filter fun p => p.2.state == .bound && (s.service.home.get p.1 : Nat) == k).map (·.1)

/-- Two Clerks of different pools disagree on a decision (R473): neither result is applied and both are tested. R454 gives the disagreement no
EKIND, and so no record (DESIGN CHOICE, notes/assumptions/69.md). -/
def Dev.clerksDisagree (s : Dev) (a b : Nat) : Dev :=
  if clerkPool a = clerkPool b ∨ !(s.service.clerks.get a).up ∨ !(s.service.clerks.get b).up then s
  else each [a, b] (fun k s =>
    let cs := s.homedOn k
    (s.modSvc fun v => { v with tests := v.tests ++ [{ id := v.nextId, uclass := 8, unit := k, ekind := 0, logSeq := 0, ctxs := [] }],
                                nextId := v.nextId + 1 }).clerkDown k cs) s

/-- TARGETED_TEST_END (R460): the record is rewritten, UNIT_ERROR raised, and the unit returns or is fenced. The fourth transient outcome
within 24 h is lasting, and needs two Clerks that decide (R473). The last test of the unit decides a pass. -/
def targetedTestEnd (id : Nat) (r : TestResult) (s : Dev) : Dev := match s.service.tests.find? fun t => t.id = id && t.running with
  | none => s
  | some t =>
    let l := testsOf t.ekind t.uclass
    let known : Bool := match r with
      | .pass => true
      | .fail i _ => l.contains i
      | .disagree _ _ => false
    let now := s.now
    let fourth := decide (4 ≤ (s.service.trans.filter fun (x : Nat × Nat × Nat) => now < x.2.2 + day && x.1 == t.uclass && x.2.1 == t.unit).length + 1)
    if !s.lit then s
    else if !known then
      match r with
      | .disagree a b => s.clerksDisagree a b
      | _ => s
    else if (r != .pass || fourth) && !s.mayDecide then s
    else
      let old := s.service.trans.filter fun (x : Nat × Nat × Nat) => now < x.2.2 + day
      let pass := r == .pass
      let trans := if pass then old ++ [(t.uclass, t.unit, now)] else old
      let n := (trans.filter fun (x : Nat × Nat × Nat) => x.1 == t.uclass && x.2.1 == t.unit).length
      let lasting := !pass || decide (4 ≤ n)
      let (tid, halt) := match r with
        | .pass => (l.getLastD 0, 0)
        | .fail i h => (i, h)
        | .disagree _ _ => (0, 0)
      let out := if lasting then 2 else 1
      let s := s.modSvc fun v => { v with trans := trans, tests := v.tests.filter fun u => u.id != id }
      let s := match unitBlock t.uclass t.unit with
        | some b => (s.afterTest t b).unmapTested t b
        | none => s
      let s := s.logRewrite t.logSeq fun x => { x with outcome := out, persist := x.persist || lasting, testId := tid, tcount := n, halt := halt }
      let s := s.event 0x30 [(32, 1, t.uclass), (33, 1, out), (34, 2, t.ekind), (36, 4, t.unit), (40, 1, tid), (44, 4, t.logSeq)]
      let s := s.iff (t.uclass == 8) fun s => s.event 0x37 [(32, 1, t.unit), (33, 1, out)]
      if lasting then
        let s := s.fenceUnit t
        match unitBlock t.uclass t.unit with
        | some _ => s.inService t
        | none => s
      else s.inService t
def execTargetedTestEnd (id : Nat) (result : TestResult) (s : State) : Host.Outcome State Fault Refusal := s.act (targetedTestEnd id result)

/-! ## Row repair (R474) -/

/-- Pool frames of HBM that hold lines of a row: its sixteen lines lie 16 KiB apart. -/
def rowFrames (row : Nat) : List Nat :=
  let k := rowKey row
  distinct ((List.range 16).map fun i => patrolOff (k % 128) (k / 128 + 2 * i) / 65536)

/-- ROW_REPAIR_COMPLETE (R474): the slice's repair ends, and the next row of the slice takes the buffer. With no spare row, the pool
frames of the row are withdrawn when they are next freed. -/
def rowRepairComplete (slice : Nat) (spareLeft : Bool) (s : Dev) : Dev := match s.conc.repairs.find? fun r => r.slice = slice with
  | none => s
  | some r =>
    if !s.lit then s
    else
      let rest := s.conc.repairs.filter fun q => q != r
      let now := s.now
      let s := s.modConc fun c => { c with repairs := modFirst (fun q => q.slice = slice) (fun q => { q with started := now }) rest }
      let s := s.modConc fun c => if spareLeft then { c with softRows := insertUp r.row c.softRows } else
        { c with noSpare := insertUp r.row c.noSpare, withdrawn := (rowFrames r.row).foldl (fun l f => insertUp f l) c.withdrawn }
      (s.event 0x38 [(32, 1, slice), (33, 1, if spareLeft then 1 else 2), (40, 8, r.row)]).eventLog r.row
def execRowRepairComplete (slice : Nat) (spareLeft : Bool) (s : State) : Host.Outcome State Fault Refusal :=
  s.actOn (decide (slice < 128)) (rowRepairComplete slice spareLeft)

/-! ## Scrubbing (R466 to R470) -/

/-- The block or unit that holds a word, by class and number: a map word is the block's at logical row 0 of its column, a Task Board word
the I/O die's. -/
def scrubUnit : ScrubWord → Nat × Nat
  | .frontShelf b _ => (3, b)
  | .backShelf b _ => (3, b)
  | .switchMap b => (3, b)
  | .gridMap c => (3, 288 * (c / 24) + c % 24)
  | .route _ => (7, 0)
  | .board _ => (7, 0)
/-- A corrected word (R467): rewritten in place and counted. -/
def Dev.scrubCorrected (s : Dev) (w : ScrubWord) : Dev :=
  let (c, u) := scrubUnit w
  let s := s.iff (c == 3) fun s => s.modSvc fun v => { v with scrubCorr := v.scrubCorr.mod u (· + 1) }
  s.corrected c u

/-- An uncorrectable word (R468). The Clerks rewrite a map, route or Task Board word from their own copy. -/
def Dev.scrubUe (s : Dev) (w : ScrubWord) : Dev :=
  let (c, u) := scrubUnit w
  match w with
  | .frontShelf b _ => match s.lotOf b with
    | some k =>
      let l := s.lot k
      if l.front.kind = 0 then s.unitError 0x09 c u [] 0 0
      else
        let x := l.front.ctx
        ((s.faultCtx x 0x0023 (4 * b) 0).dropFront k).unitError 0x09 c u [x] 0x0023 0
    | none => s.unitError 0x09 c u [] 0 0
  | .backShelf b _ => ((match s.lotOf b with
    | some k => s.backLost k b 0x09
    | none => s) : Dev).unitError 0x09 c u [] 0 0
  | .route d =>
    let ps := (routeCands (s.elveel.routes.get d)).filter fun q => (s.port q.1).carries
    (each ps (fun q s => s.retrainPort q.1) s).unitError 0x09 c u [] 0 0
  | _ => s.unitError 0x09 c u [] 0 0

/-- SCRUB_WORD_READ (R467, R468). -/
def scrubWordRead (w : ScrubWord) (ecc : Ecc) (s : Dev) : Dev :=
  if !s.lit then s
  else match ecc with
    | .corrected => s.scrubCorrected w
    | .uncorrectable => s.scrubUe w
    | _ => s
def execScrubWordRead (word : ScrubWord) (ecc : Ecc) (s : State) : Host.Outcome State Fault Refusal :=
  s.actOn word.there (scrubWordRead word ecc)

/-- SCRUB_PASS_END (R466, R469): minority copies of the scrubber's own cells are rewritten and counted. -/
def scrubPassEnd (minority : Nat) (s : Dev) : Dev :=
  if !s.lit ∨ s.now < s.service.scrubAt + 10 * msec then s
  else s.modSvc fun v => { v with scrubAt := s.now, scrubFix := v.scrubFix + minority }
def execScrubPassEnd (minority : Nat) (s : State) : Host.Outcome State Fault Refusal := s.act (scrubPassEnd minority)

/-- SCRUBBER_CHECK (R470): on a mismatch the configuration is reloaded and the pass restarted. -/
def scrubberCheck (crc : Nat) (s : Dev) : Dev :=
  if !s.lit ∨ s.now < s.service.scrubCheckAt + 100 * msec then s
  else
    let s := s.modSvc fun v => { v with scrubCheckAt := s.now }
    let want := Config.scrubberRomCrc % 2 ^ 32
    if crc = want then s
    else
      let s := s.modSvc fun v => { v with scrubAt := s.now }
      let s := (s.logAdd { seq := 0, persist := true, ekind := 0x11, uclass := 12 }).2
      s.event 0x36 [(36, 4, crc), (40, 4, want)]
def execScrubberCheck (crc : Nat) (s : State) : Host.Outcome State Fault Refusal := s.actOn (decide (crc < 2 ^ 32)) (scrubberCheck crc)

/-! ## The Clerks (R471, R472) -/

/-- A Clerk fails (R472): its contexts fault with CLERK_FAULT and its work moves to the lowest Clerk in service of its pool, else of the
other compute pool. It is tested. Without a Clerk in the fabric pool the device goes to D-AON. -/
def Dev.clerkFail (s : Dev) (ekind k : Nat) : Dev :=
  if !s.lit ∨ !(s.service.clerks.get k).up then s
  else
    let cs := s.homedOn k
    let s := each cs (fun c s => s.faultCtx c 0x0022 ioUnit 0) s
    (s.unitError ekind 8 k cs (if cs = [] then 0 else 0x0022) 0).clerkDown k cs
/-- CLERK_WDT (R471). -/
def clerkWdt (k : Nat) (s : Dev) : Dev := s.clerkFail 0x0B k
def execClerkWdt (k : Nat) (s : State) : Host.Outcome State Fault Refusal := s.actOn (decide (k < 36)) (clerkWdt k)
/-- CLERK_UE (R454). -/
def clerkUe (k : Nat) (s : Dev) : Dev := s.clerkFail 0x0A k
def execClerkUe (k : Nat) (s : State) : Host.Outcome State Fault Refusal := s.actOn (decide (k < 36)) (clerkUe k)

/-- CLERK_PERIODIC_TEST (R471): once in every 60 s, by another Clerk of the pool, one of a die at a time. A failed test is a failure of
the Clerk. -/
def clerkPeriodicTest (k : Nat) (pass : Bool) (s : Dev) : Dev :=
  let c : Clerk := s.service.clerks.get k
  let other := (s.poolUp (clerkPool k)).any fun i => i != k
  let busy := s.service.tests.any fun t => t.uclass == 8 && t.running && clerkPool t.unit == clerkPool k
  if !s.lit ∨ !c.up ∨ !other ∨ busy ∨ s.now < c.testAt + 60 * second then s
  else if pass then s.modSvc fun v => { v with clerks := v.clerks.mod k fun c => { c with testAt := s.now } }
  else s.clerkFail 0x0A k
def execClerkPeriodicTest (k : Nat) (pass : Bool) (s : State) : Host.Outcome State Fault Refusal :=
  s.actOn (decide (k < 36)) (clerkPeriodicTest k pass)

end Sys2Proof.Machine
end

