-- ==== Sys2Proof/Machine/Trestle.lean ====
section
/-! DEFINITION. The Trestle core (R458): the orders that a tile of a block under test runs. -/
namespace Sys2Proof.Machine

/-! ## The core -/

/-- Block of a tile: Stall numbers, and Chest numbers of R23. -/
def tileBlock (u : Nat) : Nat := u % 0x1000 / 4

/-- The core of a tile. -/
def Dev.core (s : Dev) (u : Nat) : Trestle := s.trestles.get u
/-- Change a core. -/
def Dev.modCore (s : Dev) (u : Nat) (f : Trestle → Trestle) : Dev := { s with trestles := s.trestles.mod u f }

/-- Register g: g0 reads 0. -/
def Trestle.g (t : Trestle) (i : Nat) : W32 := if i = 0 then 0 else t.regs.get i
/-- Write register g: g0 ignores writes, and there is none above g63. -/
def Trestle.setG (t : Trestle) (i : Nat) (v : W32) : Trestle :=
  if i = 0 ∨ 64 ≤ i then t else { t with regs := t.regs.set i v }

/-- Halt codes of the core itself. -/
abbrev haltOpcode : Nat := 0xFFFFFFF0
abbrev haltRange : Nat := 0xFFFFFFF1
abbrev haltWait : Nat := 0xFFFFFFF2
/-- Stop with a code. -/
def Trestle.halt (t : Trestle) (code : Nat) : Trestle := { t with stat := .halted code }

/-- Go on at an order; a PC outside 0 to 1,023 halts. -/
def Trestle.goto (t : Trestle) (pc : Int) : Trestle :=
  if 0 ≤ pc ∧ pc < 1024 then { t with pc := pc.toNat, stat := .run } else t.halt haltRange
/-- Go on at the next order. -/
def Trestle.next (t : Trestle) : Trestle := t.goto (t.pc + 1)

/-- Fields of an order. -/
def tOp (w : W32) : Nat := bits w.toNat 31 26
def tA (w : W32) : Nat := bits w.toNat 25 20
def tB (w : W32) : Nat := bits w.toNat 19 14
def tC (w : W32) : Nat := bits w.toNat 13 8
/-- sext(IMM14). -/
def tImm14 (w : W32) : Int := (w.extractLsb' 0 14).toInt
/-- sext(IMM20). -/
def tImm20 (w : W32) : Int := (w.extractLsb' 0 20).toInt

/-- Opcodes of R458. -/
def trestleOps : List Nat := [0x00, 0x01, 0x02, 0x03, 0x04, 0x05, 0x06, 0x07, 0x08, 0x09, 0x0A, 0x10, 0x11, 0x12, 0x18, 0x19, 0x20, 0x21,
  0x22, 0x23, 0x28, 0x29, 0x2A, 0x2B, 0x2C, 0x2D]
/-- Whether an order is reserved: its opcode is not listed, or it is a LIH whose IMM20 [19:16] are not 0. -/
def reservedOrder (w : W32) : Bool := !trestleOps.contains (tOp w) || (tOp w == 0x12 && bits w.toNat 19 16 != 0)

/-- Whether a core can run an order in this cycle: its block is in test status, and it is neither halted nor waiting for a cycle. -/
def Dev.coreRuns (s : Dev) (u : Nat) : Bool :=
  let t := s.core u
  s.lit && (s.block (tileBlock u)).testing && t.ranAt != some s.now && match t.stat with
    | .run => true
    | .waitMsg _ => true
    | .waitTest _ => true
    | .waitUntil c => decide (c ≤ s.now)
    | .halted _ => false

/-- The order of a core's PC, when it has the opcode and can run. -/
def Dev.tileOrder (s : Dev) (u op : Nat) : Option W32 :=
  let w : W32 := (s.core u).prog.get (s.core u).pc
  if s.coreRuns u && tOp w == op && !reservedOrder w then some w else none

/-- An order that changes its own core alone. -/
def coreOrder (u op : Nat) (f : W32 → Trestle → Trestle) (s : Dev) : Dev := match s.tileOrder u op with
  | none => s
  | some w => s.modCore u fun t => f w { t with ranAt := some s.now }
/-- An order that writes a register and goes on. -/
def aluOrder (u op : Nat) (f : W32 → Trestle → W32) (s : Dev) : Dev :=
  coreOrder u op (fun w t => (t.setG (tA w) (f w t)).next) s

/-! ## Registers (R458) -/

/-- HALT: report g[A]. A reserved order halts here too, with its own code. -/
def halt (u : Nat) (s : Dev) : Dev :=
  let w : W32 := (s.core u).prog.get (s.core u).pc
  if s.coreRuns u && reservedOrder w then s.modCore u fun t => { t.halt haltOpcode with ranAt := some s.now }
  else coreOrder u 0x00 (fun w t => t.halt (t.g (tA w)).toNat) s
def execHalt (t : Nat) (s : State) : Host.Outcome State Fault Refusal := s.actOn (isTile t) (halt t)
/-- ADD. -/
def tileAdd (u : Nat) (s : Dev) : Dev := aluOrder u 0x01 (fun w t => t.g (tB w) + t.g (tC w)) s
def execAdd (t : Nat) (s : State) : Host.Outcome State Fault Refusal := s.actOn (isTile t) (tileAdd t)
/-- SUB. -/
def tileSub (u : Nat) (s : Dev) : Dev := aluOrder u 0x02 (fun w t => t.g (tB w) - t.g (tC w)) s
def execSub (t : Nat) (s : State) : Host.Outcome State Fault Refusal := s.actOn (isTile t) (tileSub t)
/-- AND. -/
def tileAnd (u : Nat) (s : Dev) : Dev := aluOrder u 0x03 (fun w t => t.g (tB w) &&& t.g (tC w)) s
def execAndT (t : Nat) (s : State) : Host.Outcome State Fault Refusal := s.actOn (isTile t) (tileAnd t)
/-- OR. -/
def tileOr (u : Nat) (s : Dev) : Dev := aluOrder u 0x04 (fun w t => t.g (tB w) ||| t.g (tC w)) s
def execOrT (t : Nat) (s : State) : Host.Outcome State Fault Refusal := s.actOn (isTile t) (tileOr t)
/-- XOR. -/
def tileXor (u : Nat) (s : Dev) : Dev := aluOrder u 0x05 (fun w t => t.g (tB w) ^^^ t.g (tC w)) s
def execXorT (t : Nat) (s : State) : Host.Outcome State Fault Refusal := s.actOn (isTile t) (tileXor t)
/-- SHL: by g[C] mod 32. -/
def tileShl (u : Nat) (s : Dev) : Dev := aluOrder u 0x06 (fun w t => t.g (tB w) <<< ((t.g (tC w)).toNat % 32)) s
def execShl (t : Nat) (s : State) : Host.Outcome State Fault Refusal := s.actOn (isTile t) (tileShl t)
/-- SHR. -/
def tileShr (u : Nat) (s : Dev) : Dev := aluOrder u 0x07 (fun w t => t.g (tB w) >>> ((t.g (tC w)).toNat % 32)) s
def execShr (t : Nat) (s : State) : Host.Outcome State Fault Refusal := s.actOn (isTile t) (tileShr t)
/-- SRA. -/
def tileSra (u : Nat) (s : Dev) : Dev := aluOrder u 0x08 (fun w t => (t.g (tB w)).sshiftRight ((t.g (tC w)).toNat % 32)) s
def execSra (t : Nat) (s : State) : Host.Outcome State Fault Refusal := s.actOn (isTile t) (tileSra t)
/-- MUL: the low 32 bits. -/
def tileMul (u : Nat) (s : Dev) : Dev := aluOrder u 0x09 (fun w t => t.g (tB w) * t.g (tC w)) s
def execMul (t : Nat) (s : State) : Host.Outcome State Fault Refusal := s.actOn (isTile t) (tileMul t)
/-- SLTU. -/
def tileSltu (u : Nat) (s : Dev) : Dev := aluOrder u 0x0A (fun w t => if (t.g (tB w)).toNat < (t.g (tC w)).toNat then 1 else 0) s
def execSltu (t : Nat) (s : State) : Host.Outcome State Fault Refusal := s.actOn (isTile t) (tileSltu t)
/-- ADDI. -/
def tileAddi (u : Nat) (s : Dev) : Dev := aluOrder u 0x10 (fun w t => t.g (tB w) + BitVec.ofInt 32 (tImm14 w)) s
def execAddi (t : Nat) (s : State) : Host.Outcome State Fault Refusal := s.actOn (isTile t) (tileAddi t)
/-- LI. -/
def tileLi (u : Nat) (s : Dev) : Dev := aluOrder u 0x11 (fun w _ => BitVec.ofInt 32 (tImm20 w)) s
def execLi (t : Nat) (s : State) : Host.Outcome State Fault Refusal := s.actOn (isTile t) (tileLi t)
/-- LIH: g[A][31:16]. -/
def tileLih (u : Nat) (s : Dev) : Dev :=
  aluOrder u 0x12 (fun w t => w.extractLsb' 0 16 ++ (t.g (tA w)).extractLsb' 0 16) s
def execLih (t : Nat) (s : State) : Host.Outcome State Fault Refusal := s.actOn (isTile t) (tileLih t)

/-! ## The data window (R458) -/

/-- Bytes of a tile's window: the tile registers of a Stall, or a Chest. -/
def windowBytes (u : Nat) : Nat := if u < 0x1000 then 32768 else 786432
/-- Window address of a load or store; none out of range or not aligned. -/
def windowAddr (u : Nat) (w : W32) (t : Trestle) : Option Nat :=
  let a := (t.g (tB w)).toNat + tImm14 w
  if 0 ≤ a ∧ a < windowBytes u ∧ a % 4 = 0 then some a.toNat else none
/-- Whether a window word can hold data: a Chest's bank is on. -/
def Dev.windowOn (s : Dev) (u a : Nat) : Bool :=
  decide (u < 0x1000) || (s.chest (u - 0x1000)).banks.any fun p => p.1 == a / 64 % 16 && p.2 == .on

/-- Whether the SVC port of a Chest may access a bank in this cycle (R152 to R154): it owns the cell or no port does; a bank that the front
shelf does not name has no cells, and SVC goes before the preload writes there (R247). -/
def Dev.svcTurn (s : Dev) (c bank : Nat) : Bool :=
  let front := bit ((s.shelf (c / 4)).banks (c % 4)) bank
  let back := bit ((s.backShelf (c / 4)).banks (c % 4)) bank
  if front then s.ownsCell c pSvc bank (s.time % 16) else !(back && (s.chest c).granted == some s.now)

/-- Whether a core's access of its window waits for the slot wheel in this cycle: a Chest's bank that is on and not the SVC port's. -/
def Dev.windowWaits (s : Dev) (u a : Nat) : Bool :=
  decide (0x1000 ≤ u) && s.windowOn u a && !s.svcTurn (u - 0x1000) (a / 64 % 16)

/-- The row request that a core's access of a Chest stands for: four bytes, unstamped. -/
def svcReq (a : Nat) (isWrite : Bool) (v : Nat) : RowReq :=
  { row := a / 64, unit := 0, isWrite := isWrite, data := rowAt (a % 64) (leBytes 4 v), mask := byteMask (a % 64) 4, sink := .svc 0 }

/-- A core's access of a Chest meets a word with a double error (R178): the access is suppressed, the owner of the bank faults. -/
def Dev.svcUe (s : Dev) (c a : Nat) : Dev :=
  let owner := s.bankOwner c (a / 64 % 16)
  let s := s.violationFault c (svcReq a false 0) 0 0
  s.unitError 0x02 1 (0x1000 + c) owner.toList 0x0004 (a / 64)
/-- Whether the word that an access names holds a double error. -/
def Dev.svcBad (s : Dev) (c a : Nat) : Bool := (s.chest c).badWords.contains (a / 64, a % 64 / 4)
/-- The SVC port accesses a bank in this cycle. -/
def Dev.svcUses (s : Dev) (c a : Nat) : Dev := s.modChest c fun x => { x with svcAt := some (s.now, a / 64 % 16) }

/-- LD, through the SVC port for a Chest's window. A word of a bank that is off, or one with a double error, is a free value. -/
def tileLd (u : Nat) (s : Dev) : Dev := match s.tileOrder u 0x18 with
  | none => s
  | some w => match windowAddr u w (s.core u) with
    | none => s.modCore u fun t => { t.halt haltRange with ranAt := some s.now }
    | some a =>
      if s.windowWaits u a then s
      else
        let c := u - 0x1000
        let (v, s) : Nat × Dev :=
          if !s.windowOn u a then s.draw
          else if u < 0x1000 then (leVal (memRead 0 s.tiles (32768 * u + a) 4), s)
          else if s.svcBad c a then ((s.svcUses c a).svcUe c a).draw
          else (s.memVal (chestOff c + a) 4, s.svcUses c a)
        s.modCore u fun t => { (t.setG (tA w) (BitVec.ofNat 32 v)).next with ranAt := some s.now }
def execLd (t : Nat) (s : State) : Host.Outcome State Fault Refusal := s.actOn (isTile t) (tileLd t)

/-- ST: unstamped, through the SVC port for a Chest's window. A bank that is off takes nothing; a whole word clears the error that it
held (R178). -/
def tileSt (u : Nat) (s : Dev) : Dev := match s.tileOrder u 0x19 with
  | none => s
  | some w => match windowAddr u w (s.core u) with
    | none => s.modCore u fun t => { t.halt haltRange with ranAt := some s.now }
    | some a =>
      if s.windowWaits u a then s
      else
        let c := u - 0x1000
        let v := leBytes 4 ((s.core u).g (tA w)).toNat
        let s := if u < 0x1000 then { s with tiles := memWrite 0 s.tiles (32768 * u + a) v }
          else s.iff (s.windowOn u a) fun s => ((s.svcUses c a).memPut (chestOff c + a) v).modChest c fun x =>
            { x with badWords := x.badWords.filter fun p => p != (a / 64, a % 64 / 4) }
        s.modCore u fun t => { t.next with ranAt := some s.now }
def execSt (t : Nat) (s : State) : Host.Outcome State Fault Refusal := s.actOn (isTile t) (tileSt t)

/-! ## Branches (R458): offsets count orders from the branch itself -/

/-- A branch. -/
def branchOrder (u op : Nat) (p : W32 → W32 → Bool) (s : Dev) : Dev :=
  coreOrder u op (fun w t => if p (t.g (tA w)) (t.g (tB w)) then t.goto (t.pc + tImm14 w) else t.next) s
/-- BEQ. -/
def tileBeq (u : Nat) (s : Dev) : Dev := branchOrder u 0x20 (fun a b => a == b) s
def execBeq (t : Nat) (s : State) : Host.Outcome State Fault Refusal := s.actOn (isTile t) (tileBeq t)
/-- BNE. -/
def tileBne (u : Nat) (s : Dev) : Dev := branchOrder u 0x21 (fun a b => a != b) s
def execBne (t : Nat) (s : State) : Host.Outcome State Fault Refusal := s.actOn (isTile t) (tileBne t)
/-- BLTU. -/
def tileBltu (u : Nat) (s : Dev) : Dev := branchOrder u 0x22 (fun a b => decide (a.toNat < b.toNat)) s
def execBltu (t : Nat) (s : State) : Host.Outcome State Fault Refusal := s.actOn (isTile t) (tileBltu t)
/-- JMP. -/
def tileJmp (u : Nat) (s : Dev) : Dev := coreOrder u 0x23 (fun w t => t.goto (t.pc + tImm20 w)) s
def execJmp (t : Nat) (s : State) : Host.Outcome State Fault Refusal := s.actOn (isTile t) (tileJmp t)

/-! ## Messages, the test port and the rest (R458) -/

/-- Registers g[A] to g[A + n]; those above g63 are free values. -/
def Dev.sendWords (s : Dev) (t : Trestle) (a : Nat) : Nat → List W32 × Dev
  | 0 => ([t.g a], s)
  | n + 1 =>
    let (l, s) := s.sendWords t a n
    if a + n + 1 < 64 then (l ++ [t.g (a + n + 1)], s) else let (v, s) := s.draw; (l ++ [BitVec.ofNat 32 v], s)

/-- SENDT: the message enters the local input buffer of the block's switch point, or waits for room there. The manual gives it no queue
incarnation: that is a free value. -/
def tileSendt (u : Nat) (s : Dev) : Dev := match s.tileOrder u 0x28 with
  | none => s
  | some w =>
    let t := s.core u
    let b := tileBlock u
    let dst := (t.g (tB w)).toNat
    let n := bits w.toNat 1 0
    let (ws, s') := s.sendWords t (tA w) n
    let (q, s') := s'.draw
    let p : RPkt := { ddev := 0x3FFF, dunit := bits dst 12 0, tag := bits dst 18 13, nw := n, qinc := q % 16, dinc := s.elveel.inc,
                      sdev := s.elveel.devnum, sunit := u, words := ws, at_ := s.now + 1 }
    let sent := s'.modCore u fun t => { t.next with ranAt := some s.now }
    match s.headsFor b p with
    | none => sent.dropWith b p ecBadUnit
    | some h => match s.chooseLane b h with
      | none => sent.dropWith b p ecUnreachable
      | some lane => if (s.inbuf b 4 lane).length < 4 then sent.modInbuf b 4 lane fun l => l ++ [{ p with lane := lane }] else s
def execSendt (t : Nat) (s : State) : Host.Outcome State Fault Refusal := s.actOn (isTile t) (tileSendt t)

/-- RECVT: the head message, or a wait for one. -/
def tileRecvt (u : Nat) (s : Dev) : Dev := match s.tileOrder u 0x29 with
  | none => s
  | some w => s.modCore u fun t => match t.queue with
    | [] => (match t.stat with
      | .waitMsg _ => t
      | _ => { t with stat := .waitMsg s.now })
    | m :: rest =>
      let t := (List.range 4).foldl (fun (t : Trestle) i => t.setG (tA w + i) (m.words.getD i 0)) { t with queue := rest }
      { t.next with ranAt := some s.now }
def execRecvt (t : Nat) (s : State) : Host.Outcome State Fault Refusal := s.actOn (isTile t) (tileRecvt t)

/-- TEST: the test port's result, 0 for a pass, or a wait for it. -/
def tileTest (u : Nat) (result : Option Nat) (s : Dev) : Dev := match s.tileOrder u 0x2A with
  | none => s
  | some w => s.modCore u fun t => match result with
    | none => (match t.stat with
      | .waitTest _ => t
      | _ => { t with stat := .waitTest s.now })
    | some v => { (t.setG (tA w) (BitVec.ofNat 32 v)).next with ranAt := some s.now }
def execTest (t : Nat) (result : Option Nat) (s : State) : Host.Outcome State Fault Refusal := s.actOn (isTile t) (tileTest t result)

/-- CSR: the unit number, the halves of the cycle count, the queue count. A status word that R458 does not list is a free value. -/
def tileCsr (u : Nat) (s : Dev) : Dev := match s.tileOrder u 0x2B with
  | none => s
  | some w =>
    let (v, s) : Nat × Dev := match bits w.toNat 13 0 with
      | 0 => (u, s)
      | 1 => (s.time % 2 ^ 32, s)
      | 2 => (s.time / 2 ^ 32, s)
      | 3 => ((s.core u).queue.length, s)
      | _ => s.draw
    s.modCore u fun t => { (t.setG (tA w) (BitVec.ofNat 32 v)).next with ranAt := some s.now }
def execCsr (t : Nat) (s : State) : Host.Outcome State Fault Refusal := s.actOn (isTile t) (tileCsr t)

/-- WAITC: the next order runs g[B] cycles later. -/
def tileWaitc (u : Nat) (s : Dev) : Dev := coreOrder u 0x2C (fun w t =>
  let n := t.next
  match n.stat with
  | .run => { n with stat := .waitUntil (s.now + (t.g (tB w)).toNat) }
  | _ => n) s
def execWaitc (t : Nat) (s : State) : Host.Outcome State Fault Refusal := s.actOn (isTile t) (tileWaitc t)

/-- CRC-32C of c continued over bytes. -/
def crcOver (c : W32) (bs : Bytes) : W32 := ~~~ (bs.foldl crcByte (~~~ c))
/-- CRC. -/
def tileCrc (u : Nat) (s : Dev) : Dev := aluOrder u 0x2D (fun w t => crcOver (t.g (tA w)) (leBytes 4 (t.g (tB w)).toNat)) s
def execCrc (t : Nat) (s : State) : Host.Outcome State Fault Refusal := s.actOn (isTile t) (tileCrc t)

/-- TRESTLE_WAIT_TIMEOUT: a RECVT or TEST has waited more than 2^20 cycles. -/
def trestleWaitTimeout (u : Nat) (s : Dev) : Dev :=
  let late (since : Nat) : Bool := decide (since + 2 ^ 20 < s.now)
  let due : Bool := match (s.core u).stat with
    | .waitMsg t => late t
    | .waitTest t => late t
    | _ => false
  if due && s.lit && (s.block (tileBlock u)).testing then s.modCore u fun t => t.halt haltWait else s
def execTrestleWaitTimeout (t : Nat) (s : State) : Host.Outcome State Fault Refusal := s.actOn (isTile t) (trestleWaitTimeout t)

end Sys2Proof.Machine
end

