-- ==== Sys2Proof/Machine/Dispatch.lean ====
section
/-! DEFINITION. One arm for each command: each arm is one direct call of that command's meaning. -/
namespace Sys2Proof.Machine

/-- The effect of a command on everything but the queue of waiting commands. -/
def exec (i : Instr) (s : State) : Host.Outcome State Fault Refusal :=
  match i with
  | .aonPwrokRise env => Sys2Proof.Machine.execAonPwrokRise env s
  | .pufRetry reading => Sys2Proof.Machine.execPufRetry reading s
  | .aonPwrokFall => Sys2Proof.Machine.execAonPwrokFall s
  | .resetLFall => Sys2Proof.Machine.execResetLFall s
  | .resetLRise traySlot testMode => Sys2Proof.Machine.execResetLRise traySlot testMode s
  | .bringUp env => Sys2Proof.Machine.execBringUp env s
  | .powerStageRaise avs => Sys2Proof.Machine.execPowerStageRaise avs s
  | .pwrPgRise idx => Sys2Proof.Machine.execPwrPgRise idx s
  | .pwrPgFall idx => Sys2Proof.Machine.execPwrPgFall idx s
  | .powerGoodTimeout idx => Sys2Proof.Machine.execPowerGoodTimeout idx s
  | .powerStageLower => Sys2Proof.Machine.execPowerStageLower s
  | .mainPllLossOfLock => Sys2Proof.Machine.execMainPllLossOfLock s
  | .thermalTrip group idx reading => Sys2Proof.Machine.execThermalTrip group idx reading s
  | .dreqDAon req => Sys2Proof.Machine.execDreqDAon req s
  | .dreqDReady req => Sys2Proof.Machine.execDreqDReady req s
  | .sparingMapBuild => Sys2Proof.Machine.execSparingMapBuild s
  | .governorTick => Sys2Proof.Machine.execGovernorTick s
  | .blockReachesRun b => Sys2Proof.Machine.execBlockReachesRun b s
  | .blockIdleEntry b => Sys2Proof.Machine.execBlockIdleEntry b s
  | .memberClockStart lot => Sys2Proof.Machine.execMemberClockStart lot s
  | .blockRetentionEntry b => Sys2Proof.Machine.execBlockRetentionEntry b s
  | .sensorSample group readings => Sys2Proof.Machine.execSensorSample group readings s
  | .stretchUpdate => Sys2Proof.Machine.execStretchUpdate s
  | .avsPoll rail ma temp status => Sys2Proof.Machine.execAvsPoll rail ma temp status s
  | .voltageTrim rail up status => Sys2Proof.Machine.execVoltageTrim rail up status s
  | .forecastCompute => Sys2Proof.Machine.execForecastCompute s
  | .forecast => Sys2Proof.Machine.execForecast s
  | .plantStatus src msg => Sys2Proof.Machine.execPlantStatus src msg s
  | .plantLost => Sys2Proof.Machine.execPlantLost s
  | .plantLimited => Sys2Proof.Machine.execPlantLimited s
  | .plantOk => Sys2Proof.Machine.execPlantOk s
  | .laserSample powers => Sys2Proof.Machine.execLaserSample powers s
  | .lotForm => Sys2Proof.Machine.execLotForm s
  | .lotRelease => Sys2Proof.Machine.execLotRelease s
  | .lotReleaseDone lot => Sys2Proof.Machine.execLotReleaseDone lot s
  | .ctxDefine => Sys2Proof.Machine.execCtxDefine s
  | .ctxBind => Sys2Proof.Machine.execCtxBind s
  | .ctxUnbind => Sys2Proof.Machine.execCtxUnbind s
  | .faultAck => Sys2Proof.Machine.execFaultAck s
  | .drain => Sys2Proof.Machine.execDrain s
  | .undrain => Sys2Proof.Machine.execUndrain s
  | .loadShelf r => Sys2Proof.Machine.execLoadShelf r s
  | .shelfLoadStart => Sys2Proof.Machine.execShelfLoadStart s
  | .shelfLoaded => Sys2Proof.Machine.execShelfLoaded s
  | .preloadComplete lot => Sys2Proof.Machine.execPreloadComplete lot s
  | .swapShelf r => Sys2Proof.Machine.execSwapShelf r s
  | .swapShelfPitchScope r => Sys2Proof.Machine.execSwapShelfPitchScope r s
  | .shelfSwap lot => Sys2Proof.Machine.execShelfSwap lot s
  | .demandSwap lot => Sys2Proof.Machine.execDemandSwap lot s
  | .launchLaidRun r => Sys2Proof.Machine.execLaunchLaidRun r s
  | .launchTileTask r => Sys2Proof.Machine.execLaunchTileTask r s
  | .taskPlace ctx => Sys2Proof.Machine.execTaskPlace ctx s
  | .taskStart slot => Sys2Proof.Machine.execTaskStart slot s
  | .beatStart lot => Sys2Proof.Machine.execBeatStart lot s
  | .laidRunComplete lot => Sys2Proof.Machine.execLaidRunComplete lot s
  | .beatTimeout lot => Sys2Proof.Machine.execBeatTimeout lot s
  | .stepCommit r => Sys2Proof.Machine.execStepCommit r s
  | .stepCommitProcess => Sys2Proof.Machine.execStepCommitProcess s
  | .fence r => Sys2Proof.Machine.execFence r s
  | .copy r => Sys2Proof.Machine.execCopy r s
  | .memAtomic r => Sys2Proof.Machine.execMemAtomic r s
  | .collStart r => Sys2Proof.Machine.execCollStart r s
  | .cycleLoad r => Sys2Proof.Machine.execCycleLoad r s
  | .cycleStart r => Sys2Proof.Machine.execCycleStart r s
  | .queueReset r => Sys2Proof.Machine.execQueueReset r s
  | .ledgerRead r => Sys2Proof.Machine.execLedgerRead r s
  | .ledgerWrite r => Sys2Proof.Machine.execLedgerWrite r s
  | .eventMask r => Sys2Proof.Machine.execEventMask r s
  | .nopCommand r => Sys2Proof.Machine.execNopCommand r s
  | .frameStart lot => Sys2Proof.Machine.execFrameStart lot s
  | .windowWakeLead lot => Sys2Proof.Machine.execWindowWakeLead lot s
  | .windowStart lot => Sys2Proof.Machine.execWindowStart lot s
  | .windowEnd lot => Sys2Proof.Machine.execWindowEnd lot s
  | .teardownDone ctx => Sys2Proof.Machine.execTeardownDone ctx s
  | .ringWr frame => Sys2Proof.Machine.execRingWr frame s
  | .doorbell frame => Sys2Proof.Machine.execDoorbell frame s
  | .evtAck frame => Sys2Proof.Machine.execEvtAck frame s
  | .mwr frame => Sys2Proof.Machine.execMwr frame s
  | .mrd frame => Sys2Proof.Machine.execMrd frame s
  | .porterLinkUp => Sys2Proof.Machine.execPorterLinkUp s
  | .porterLinkLoss => Sys2Proof.Machine.execPorterLinkLoss s
  | .getVersion msg => Sys2Proof.Machine.execGetVersion msg s
  | .getCapabilities msg => Sys2Proof.Machine.execGetCapabilities msg s
  | .negotiateAlgorithms msg => Sys2Proof.Machine.execNegotiateAlgorithms msg s
  | .getDigests msg => Sys2Proof.Machine.execGetDigests msg s
  | .getCertificate msg => Sys2Proof.Machine.execGetCertificate msg s
  | .challenge msg => Sys2Proof.Machine.execChallenge msg s
  | .getMeasurements msg => Sys2Proof.Machine.execGetMeasurements msg s
  | .lmsTreeBuild readBackOk => Sys2Proof.Machine.execLmsTreeBuild readBackOk s
  | .reportAllowanceRefill => Sys2Proof.Machine.execReportAllowanceRefill s
  | .lapRead src frame => Sys2Proof.Machine.execLapRead src frame s
  | .lapWrite src frame => Sys2Proof.Machine.execLapWrite src frame s
  | .lapStagingTimeout index sub => Sys2Proof.Machine.execLapStagingTimeout index sub s
  | .violationRead req chest => Sys2Proof.Machine.execViolationRead req chest s
  | .ownerInstall req cert => Sys2Proof.Machine.execOwnerInstall req cert s
  | .minverInstall req record => Sys2Proof.Machine.execMinverInstall req record s
  | .recoveryBegin req slot total => Sys2Proof.Machine.execRecoveryBegin req slot total s
  | .recoveryData req offset data => Sys2Proof.Machine.execRecoveryData req offset data s
  | .recoveryCommit req => Sys2Proof.Machine.execRecoveryCommit req s
  | .recoveryAbort req => Sys2Proof.Machine.execRecoveryAbort req s
  | .recoveryIdleTimeout => Sys2Proof.Machine.execRecoveryIdleTimeout s
  | .peerinv req dev => Sys2Proof.Machine.execPeerinv req dev s
  | .retrain req port => Sys2Proof.Machine.execRetrain req port s
  | .qreset req value => Sys2Proof.Machine.execQreset req value s
  | .logclear req => Sys2Proof.Machine.execLogclear req s
  | .mma n => Sys2Proof.Machine.execMma n s
  | .mmaDrainComplete n residueOk => Sys2Proof.Machine.execMmaDrainComplete n residueOk s
  | .epilogueComplete n residueOk => Sys2Proof.Machine.execEpilogueComplete n residueOk s
  | .epiLate n => Sys2Proof.Machine.execEpiLate n s
  | .epiSendTimeout n => Sys2Proof.Machine.execEpiSendTimeout n s
  | .vec n => Sys2Proof.Machine.execVec n s
  | .vecProg n => Sys2Proof.Machine.execVecProg n s
  | .vectorLaunchComplete n residueOk => Sys2Proof.Machine.execVectorLaunchComplete n residueOk s
  | .epi n => Sys2Proof.Machine.execEpi n s
  | .epiProg n => Sys2Proof.Machine.execEpiProg n s
  | .movLd n => Sys2Proof.Machine.execMovLd n s
  | .movSt n => Sys2Proof.Machine.execMovSt n s
  | .moveComplete n => Sys2Proof.Machine.execMoveComplete n s
  | .movZero n => Sys2Proof.Machine.execMovZero n s
  | .movTt n => Sys2Proof.Machine.execMovTt n s
  | .send n => Sys2Proof.Machine.execSend n s
  | .sendAccept n => Sys2Proof.Machine.execSendAccept n s
  | .sendTimeout n => Sys2Proof.Machine.execSendTimeout n s
  | .recv n => Sys2Proof.Machine.execRecv n s
  | .recvTimeout n => Sys2Proof.Machine.execRecvTimeout n s
  | .waitBeat n => Sys2Proof.Machine.execWaitBeat n s
  | .waitIdle n => Sys2Proof.Machine.execWaitIdle n s
  | .loop n => Sys2Proof.Machine.execLoop n s
  | .endOrder n => Sys2Proof.Machine.execEndOrder n s
  | .endComplete n => Sys2Proof.Machine.execEndComplete n s
  | .nop n => Sys2Proof.Machine.execNop n s
  | .bellRing n => Sys2Proof.Machine.execBellRing n s
  | .bellWait n => Sys2Proof.Machine.execBellWait n s
  | .bellTimeout n => Sys2Proof.Machine.execBellTimeout n s
  | .bellRemote n => Sys2Proof.Machine.execBellRemote n s
  | .chestGrant c codes => Sys2Proof.Machine.execChestGrant c codes s
  | .heldWaitTimeout c => Sys2Proof.Machine.execHeldWaitTimeout c s
  | .slotStarved c port => Sys2Proof.Machine.execSlotStarved c port s
  | .streamFlitSend b ep => Sys2Proof.Machine.execStreamFlitSend b ep s
  | .streamFlitArrive id ecc => Sys2Proof.Machine.execStreamFlitArrive id ecc s
  | .creditReturn id => Sys2Proof.Machine.execCreditReturn id s
  | .steeringFire b u => Sys2Proof.Machine.execSteeringFire b u s
  | .runnerHop b port lane ecc => Sys2Proof.Machine.execRunnerHop b port lane ecc s
  | .runnerEjection n => Sys2Proof.Machine.execRunnerEjection n s
  | .transferTrigger b d => Sys2Proof.Machine.execTransferTrigger b d s
  | .transferLineIssue b timed => Sys2Proof.Machine.execTransferLineIssue b timed s
  | .transferInstanceComplete b id => Sys2Proof.Machine.execTransferInstanceComplete b id s
  | .sliceRead id ecc => Sys2Proof.Machine.execSliceRead id ecc s
  | .sliceWrite id ecc => Sys2Proof.Machine.execSliceWrite id ecc s
  | .wordAtomic id ecc => Sys2Proof.Machine.execWordAtomic id ecc s
  | .lineAdd id ecc => Sys2Proof.Machine.execLineAdd id ecc s
  | .concourseReply id => Sys2Proof.Machine.execConcourseReply id s
  | .hbmPatrolScrub slice line ecc => Sys2Proof.Machine.execHbmPatrolScrub slice line ecc s
  | .portLightDetect p => Sys2Proof.Machine.execPortLightDetect p s
  | .portTrainingPhase p flight => Sys2Proof.Machine.execPortTrainingPhase p flight s
  | .portTrainingTimeout p => Sys2Proof.Machine.execPortTrainingTimeout p s
  | .portRetry p => Sys2Proof.Machine.execPortRetry p s
  | .linkUpRecord p record => Sys2Proof.Machine.execLinkUpRecord p record s
  | .wireFlitReceive p flit => Sys2Proof.Machine.execWireFlitReceive p flit s
  | .portLossOfLock p => Sys2Proof.Machine.execPortLossOfLock p s
  | .routerForward p => Sys2Proof.Machine.execRouterForward p s
  | .outgoingRequest id => Sys2Proof.Machine.execOutgoingRequest id s
  | .peerCacheFill dev => Sys2Proof.Machine.execPeerCacheFill dev s
  | .load pkt => Sys2Proof.Machine.execLoad pkt s
  | .store pkt => Sys2Proof.Machine.execStore pkt s
  | .atomic pkt => Sys2Proof.Machine.execAtomic pkt s
  | .lineadd pkt => Sys2Proof.Machine.execLineadd pkt s
  | .put pkt => Sys2Proof.Machine.execPut pkt s
  | .get pkt => Sys2Proof.Machine.execGet pkt s
  | .runner pkt => Sys2Proof.Machine.execRunner pkt s
  | .bell pkt => Sys2Proof.Machine.execBell pkt s
  | .mgmt pkt => Sys2Proof.Machine.execMgmt pkt s
  | .loadR pkt => Sys2Proof.Machine.execLoadR pkt s
  | .comp pkt => Sys2Proof.Machine.execComp pkt s
  | .atomR pkt => Sys2Proof.Machine.execAtomR pkt s
  | .getR pkt => Sys2Proof.Machine.execGetR pkt s
  | .mgmtR pkt => Sys2Proof.Machine.execMgmtR pkt s
  | .remoteTimeout tid => Sys2Proof.Machine.execRemoteTimeout tid s
  | .drainNotice p => Sys2Proof.Machine.execDrainNotice p s
  | .routeClear p => Sys2Proof.Machine.execRouteClear p s
  | .drainComplete => Sys2Proof.Machine.execDrainComplete s
  | .linkDown p => Sys2Proof.Machine.execLinkDown p s
  | .collectiveTrigger ctx didx => Sys2Proof.Machine.execCollectiveTrigger ctx didx s
  | .collRowAccept ctx didx => Sys2Proof.Machine.execCollRowAccept ctx didx s
  | .collPieceSend slot => Sys2Proof.Machine.execCollPieceSend slot s
  | .collSignalSend slot => Sys2Proof.Machine.execCollSignalSend slot s
  | .collPieceArrival slot word residueOk => Sys2Proof.Machine.execCollPieceArrival slot word residueOk s
  | .collComplete slot => Sys2Proof.Machine.execCollComplete slot s
  | .collAbort slot => Sys2Proof.Machine.execCollAbort slot s
  | .collTimeout slot => Sys2Proof.Machine.execCollTimeout slot s
  | .targetedTestStart id => Sys2Proof.Machine.execTargetedTestStart id s
  | .targetedTestEnd id result => Sys2Proof.Machine.execTargetedTestEnd id result s
  | .rowRepairComplete slice spareLeft => Sys2Proof.Machine.execRowRepairComplete slice spareLeft s
  | .scrubWordRead word ecc => Sys2Proof.Machine.execScrubWordRead word ecc s
  | .scrubPassEnd minority => Sys2Proof.Machine.execScrubPassEnd minority s
  | .scrubberCheck crc => Sys2Proof.Machine.execScrubberCheck crc s
  | .clerkWdt k => Sys2Proof.Machine.execClerkWdt k s
  | .clerkPeriodicTest k pass => Sys2Proof.Machine.execClerkPeriodicTest k pass s
  | .clerkUpdate digestOk pass => Sys2Proof.Machine.execClerkUpdate digestOk pass s
  | .halt t => Sys2Proof.Machine.execHalt t s
  | .add t => Sys2Proof.Machine.execAdd t s
  | .sub t => Sys2Proof.Machine.execSub t s
  | .andT t => Sys2Proof.Machine.execAndT t s
  | .orT t => Sys2Proof.Machine.execOrT t s
  | .xorT t => Sys2Proof.Machine.execXorT t s
  | .shl t => Sys2Proof.Machine.execShl t s
  | .shr t => Sys2Proof.Machine.execShr t s
  | .sra t => Sys2Proof.Machine.execSra t s
  | .mul t => Sys2Proof.Machine.execMul t s
  | .sltu t => Sys2Proof.Machine.execSltu t s
  | .addi t => Sys2Proof.Machine.execAddi t s
  | .li t => Sys2Proof.Machine.execLi t s
  | .lih t => Sys2Proof.Machine.execLih t s
  | .ld t => Sys2Proof.Machine.execLd t s
  | .st t => Sys2Proof.Machine.execSt t s
  | .beq t => Sys2Proof.Machine.execBeq t s
  | .bne t => Sys2Proof.Machine.execBne t s
  | .bltu t => Sys2Proof.Machine.execBltu t s
  | .jmp t => Sys2Proof.Machine.execJmp t s
  | .sendt t => Sys2Proof.Machine.execSendt t s
  | .recvt t => Sys2Proof.Machine.execRecvt t s
  | .test t result => Sys2Proof.Machine.execTest t result s
  | .csr t => Sys2Proof.Machine.execCsr t s
  | .waitc t => Sys2Proof.Machine.execWaitc t s
  | .crc t => Sys2Proof.Machine.execCrc t s
  | .trestleWaitTimeout t => Sys2Proof.Machine.execTrestleWaitTimeout t s
  | .extest pins => Sys2Proof.Machine.execExtest pins s
  | .sample pins => Sys2Proof.Machine.execSample pins s
  | .preload cells => Sys2Proof.Machine.execPreload cells s
  | .bypass code => Sys2Proof.Machine.execBypass code s
  | .trstLAssert => Sys2Proof.Machine.execTrstLAssert s
  | .flashOperationComplete ok => Sys2Proof.Machine.execFlashOperationComplete ok s
  | .clerkUe k => Sys2Proof.Machine.execClerkUe k s
  | .plcaBeaconTimeout => Sys2Proof.Machine.execPlcaBeaconTimeout s
  | .plcaBeaconReturn => Sys2Proof.Machine.execPlcaBeaconReturn s

end Sys2Proof.Machine
end

