-- ==== Sys2Proof/Machine/Tick.lean ====
section
/-! DEFINITION. One cycle of the main clock: what happens at every cycle whatever is commanded. -/
namespace Sys2Proof.Machine

/-- What waits in a cycle is counted, and what moves in every cycle moves: Stalls, wait-held
writes (R168), streams, ejection buffers, Lots, the Concourse, the ports' frames, collectives and transaction entries. -/
def Dev.cycleWork (s : Dev) : Dev :=
  let s := each (s.stalls.map (·.1)) (fun n s => (s.stallTick n).ejectTick n) s
  let s := each ((s.chests.filter fun p => p.2.heldSince.isSome).map (·.1)) (fun c s => s.bump 0x6020 c 2) s
  let s := each (s.blocks.map (·.1)) (fun b s => (s.streamTick b).quietTick b) s
  let s := each (s.lots.map (·.1)) (fun k s => s.lotTick k) s
  (each ((s.elveel.ports.map (·.1)).filter fun p => decide (p < 18)) (fun p s => s.portTick p) s.concTick).collTick.txnTick

/-- What rang in the cycle that has passed rings no more. -/
def Dev.rangOver (s : Dev) : Dev :=
  if s.rang = 0 then s
  else
    let s := each ((s.stalls.filter fun p => p.2.again != 0).map (·.1)) (fun n s => s.modStall n fun x => { x with again := 0 }) s
    let s := each ((s.blocks.filter fun p => p.2.xfer.again != 0).map (·.1)) (fun b s => s.modXfer b fun x => { x with again := 0 }) s
    { s with rang := 0, coll := { s.coll with again := [] } }

/-- The rings that are due set their latches (R205, R206). -/
def Dev.ringsDue (s : Dev) : Dev :=
  let s := s.rangOver
  let due := s.bells.filter fun r => decide (r.due ≤ s.now)
  if due = [] then s
  else
    let s := { s with bells := s.bells.filter fun r => !decide (r.due ≤ s.now) }
    each due (fun r s => s.bellArrives r.line (fun b => (s.shelf b).trigLines) fun line s => s.collLatch line) s

/-- The entries of FAULTED contexts complete as their rings take them up (R339). -/
def Dev.ringTick (s : Dev) : Dev :=
  let busy (y : PRing) : Bool := !y.fetched.isEmpty || y.chead != y.ctail
  each ((s.rings.filter fun p => s.ringFaulted p.1 && busy p.2).map (·.1)) (fun r s => s.pump r pumpMax) s

/-- One cycle of time. The clock alone runs while the device is not in service. -/
def tick (s : Dev) : Dev :=
  let t := s.now + 1
  if !s.lit then { s with now := t, bumped := [], flagged := [] }
  else
    let s := { s.cycleWork.recordTick with now := t, bumped := [], flagged := [] }
    let s := s.ringTick.ringsDue.sweepFlights.sweepCredits
    let s := each (s.stalls.map (·.1)) (fun n s => s.kick n) s
    { s.undrainTick with now := t }

end Sys2Proof.Machine
end

