-- ==== Sys2Proof/Safety.lean ====
section
/-! DEFINITION. What counts as a sound state, and other conditions, in the terms that the claims use. -/
namespace Sys2Proof.Machine

/-- The four byte memories are in canonical form: addresses rising, and no byte listed that an unlisted address reads as. -/
def Dev.memoriesWf (s : Dev) : Bool := Memory.wf 0 s.mem && Memory.wf 0 s.tiles && Memory.wf 0 s.sidecars && Memory.wf 0xFF s.flash

/-- What the boundary-scan port may hold (R495): an 8-bit instruction register; the cells drive the lands only under EXTEST; and every
code but the three that act on the boundary selects the bypass. -/
def Jtag.wf (j : Jtag) : Bool :=
  decide (j.ir < 256) && (!j.driving || (j.ir == 0 && !j.bypass)) && (decide (j.ir < 3) || j.bypass)

/-- A state is sound at a time when its port is, and the clock has not run back. -/
def State.soundSince (s : State) (t : Nat) : Bool := s.jtag.wf && decide (t ≤ s.dev.now)

/-- What the dies hold is lost (R402, R489, R490): memory, tiles, Stalls, Chests, blocks, Lots, contexts, tasks and rings are as after
reset; of the memory tiers, the rows that repair has replaced stay (R236). -/
def Dev.diesLost (s : Dev) : Prop :=
  s.mem = [] ∧ s.tiles = [] ∧ s.sidecars = [] ∧ s.stalls = [] ∧ s.chests = [] ∧ s.blocks = [] ∧ s.lots = [] ∧ s.ctxs = [] ∧ s.tasks = []
    ∧ s.rings = [] ∧ s.flights = [] ∧ s.credits = [] ∧ s.bells = [] ∧ s.coll = {} ∧ s.pool = {} ∧ s.conc = s.conc.kept

/-- The device is in D-AON with every enable dropped and the main clock stopped, ALERT_L low, and what the dies held lost (R404, R418). -/
def Dev.railsDropped (s : Dev) : Prop :=
  s.power.dstate = .aon ∧ (∀ i, s.power.en i = false) ∧ s.power.mainStart = none ∧ s.power.alert = true ∧ s.diesLost

/-- A Stall's sequencer has issued an order in this cycle and gone on to the next (R65, R67). -/
def Dev.stepped (s : Dev) (n : Nat) : Dev := s.modStall n fun x => x.advance s.now

/-- A Stall takes issue of an order with an opcode in this cycle, with no order of its engines under way (R65, R89). -/
def Dev.issuesIdle (s : Dev) (n op : Nat) : Prop := n < 2304 ∧ s.mayIssue n op = true ∧ (s.stall n).jobs = []

/-- A context has been faulted with a code and a unit, and its teardown has begun (R339). -/
def Dev.hasFaulted (s : Dev) (c fcode funit : Nat) : Prop :=
  (s.ctx c).state = .faulted ∧ (s.ctx c).fcode = fcode ∧ (s.ctx c).funit = funit ∧ s.teardowns.any (fun x => x.ctx == c) = true

/-- Stall n works for context c, which is bound to the Lot of the Stall's block and has its shelf in front there (R317). -/
def Dev.worksFor (s : Dev) (n c : Nat) : Prop :=
  n < 2304 ∧ (s.ctx c).state = .bound ∧ s.lotOf (n / 4) = some (s.ctx c).lot ∧ (s.lot (s.ctx c).lot).frontCtx = some c

/-- The oldest fetched entry of a ring may start (R321, R360, R365): the device is lit, the ring live and its context not faulted, the
entry is of the opcode and well formed, an event slot is free for its completion, and it may run beside what runs. -/
def Dev.mayStart (s : Dev) (r op : Nat) (c : Cmd) (rest : List Cmd) : Prop :=
  s.lit = true ∧ (s.ring r).live = true ∧ (s.ring r).fetched = c :: rest ∧ opcodeOf c.entry = op ∧ cmdOk r c.entry = true
    ∧ (s.ring r).slotFree = true ∧ s.ringFaulted r = false ∧ (s.ring r).doomed = 0 ∧ inOrder r (s.ring r).running c.entry = true

/-- The state in which a ring's oldest entry has started: it runs under the next id, with the slot of its completion reserved (R366). -/
def Dev.started (s : Dev) (r : Nat) (c : Cmd) (rest : List Cmd) : Dev :=
  ({ s with nextId := s.nextId + 1 } : Dev).modRing r fun y =>
    { y with
      fetched := rest
      reserved := y.reserved + 1
      running := y.running ++ [{ id := s.nextId, entry := c.entry, since := s.now }] }

end Sys2Proof.Machine
end

