-- ==== Sys2Proof/Certificates/Slice0/Obligations.lean ====
section
/-! DEFINITION. The statements for the provers. In each of them a hypothesis on the state or the operands is a condition that a rule of the
manual gives; what a statement says rests on the model's choices only where it names an entry of the assumption log. -/
open Sys2Proof Sys2Proof.Machine

/-! ## The machine -/

/-- Taking a command is running it: a step with command c at the front of the queue is exec of c with the queue's rest (that a step takes
one command is the model's choice, notes/assumptions/1.md). -/
def Obligations.StepRunsTheCommandInFront : Prop :=
  ∀ (c : Instr) (rest : List Instr) (s : State), step { s with pending := c :: rest } = exec c { s with pending := rest }

/-- What reset leaves (R405, R495): nothing waits, the port selects the bypass, no rail is enabled, the device is OFF, every memory is in
canonical form, and the device's memory reads as zeros. That reset is power absent, and the zeros, are the model's choice
(notes/assumptions/5.md). -/
def Obligations.ResetIsSound : Prop :=
  State.reset.pending = [] ∧ State.reset.soundSince 0 = true ∧ State.reset.dev.memoriesWf = true ∧ State.reset.dev.power.dstate = .off
    ∧ (∀ i, State.reset.dev.power.en i = false) ∧ ∀ a n, State.reset.dev.memAt a n = zeros n

/-- Soundness is an invariant of every step, from every state (R495): the boundary-scan port stays legal (an 8-bit instruction; the cells
drive the lands only under EXTEST; every code but the three that act on the boundary selects the bypass), and time does not run back. -/
def Obligations.EveryStepKeepsSoundness : Prop :=
  ∀ (s t : State) (n : Nat), s.soundSince n = true → step s = .next t → t.soundSince n = true

/-- A command answers a next state exactly when every unit that it names exists, and noSuchUnit otherwise (the model's choice,
notes/assumptions/4.md); nothing is refused. -/
def Obligations.ExactlyWellFormedCommandsAnswer : Prop :=
  ∀ (c : Instr) (s : State), (c.wf = true → ∃ t, exec c s = .next t) ∧ (c.wf = false → exec c s = .fault .noSuchUnit)

/-- What a command leaves alone: no command reads or changes the queue of those that wait behind it, and none takes time (the model's
choice, notes/assumptions/1.md); with no command waiting a step is one cycle of the main clock (notes/assumptions/2.md): the queue and the
boundary-scan port keep still, and the clock moves on by one. -/
def Obligations.CommandsLeaveTheQueueAndTheClock : Prop :=
  (∀ (c : Instr) (s t : State), exec c s = .next t →
    t.pending = s.pending ∧ t.dev.now = s.dev.now ∧ ∀ q, exec c { s with pending := q } = .next { t with pending := q }) ∧
  ∀ s : State, s.pending = [] → ∃ d, step s = .next { s with dev := d } ∧ d.now = s.dev.now + 1

/-- Boundary scan is apart from the device (R495): its five commands change nothing but the port, whatever the state, and no other
command but the loss of standby power, which resets the port, changes the port. -/
def Obligations.BoundaryScanIsApart : Prop :=
  ∀ (c : Instr) (s t : State), exec c s = .next t →
    match c with
    | .extest _ | .sample _ | .preload _ | .bypass _ | .trstLAssert => t.dev = s.dev
    | .aonPwrokFall => t.jtag = if s.dev.power.aonPwrok then {} else s.jtag
    | _ => t.jtag = s.jtag

/-! ## Power, resets and rails -/

/-- Standby power, RESET_L and the ROM (R405, R488 to R490, R393). A rise of AON_PWROK takes the device from D-OFF to D-AON, latches the
straps, and starts the ROM unless RESET_L is low, in which case the ROM waits. A fall loses everything but the flash (that the fault log's
SEQ goes on is the model's choice, notes/assumptions/69.md). RESET_L low is a cold boot that lowers the rails and keeps the flash, the
latched straps and the RWS cells; its rise latches the straps, releases THERMTRIP_L and switches the PUF array off; a readout after 1 ms
starts the ROM, and one that fails switches the array off again. -/
def Obligations.StandbyPowerAndResetLines : Prop :=
  (∀ (e : AonEnv) (s : State), s.dev.power.aonPwrok = false → s.dev.power.dstate = .off → e.vaonValid = true →
    let up : Dev := { s.dev with
      power := { s.dev.power with dstate := .aon, aonPwrok := true, trayslot := e.traySlot % 4, testMode := e.testMode }
      boot := { s.dev.boot with flashUsable := e.flashUsable, flashOctal := e.flashUsable && e.flashOctal, flashFail := e.flashFail } }
    exec (.aonPwrokRise e) s = .next { s with dev :=
      if s.dev.power.resetL then { up.romStart e.pufReading with now := s.dev.now }
      else { up with boot := { up.boot with romPending := true } } }) ∧
  (∀ s : State, s.dev.power.aonPwrok = true → ∃ t, exec .aonPwrokFall s = .next t ∧ t.jtag = {} ∧ t.pending = s.pending
    ∧ t.dev.power = { (default : Power) with resetL := s.dev.power.resetL } ∧ t.dev.diesLost ∧ t.dev.boot = {}
    ∧ t.dev.ledger = { logSeq := s.dev.ledger.logSeq }
    ∧ (s.dev.boot.flashOps = [] → t.dev.flash = s.dev.flash)) ∧
  (∀ s : State, s.dev.power.aonPwrok = true → s.dev.power.resetL = true → ∃ t, exec .resetLFall s = .next t
    ∧ t.dev.power = { s.dev.power with resetL := false, dstate := .aon, bring := .none, mainStart := none, wpLow := false,
                                       lpReset := true, lowering := s.dev.power.stage != 0, enAt := s.dev.now }
    ∧ t.dev.diesLost ∧ t.dev.boot.romPending = true ∧ t.dev.boot.pufOffAt = none
    ∧ (s.dev.boot.flashOps = [] → t.dev.flash = s.dev.flash)) ∧
  (∀ (slot : Nat) (tm : Bool) (s : State), s.dev.power.aonPwrok = true → s.dev.power.resetL = false →
    exec (.resetLRise slot tm) s = .next { s with dev := { s.dev with
      power := { s.dev.power with resetL := true, trayslot := slot % 4, testMode := tm, thermTrip := false }
      boot := { s.dev.boot with romPending := true, pufOffAt := some s.dev.now } } }) ∧
  ∀ (reading u : Nat) (s : State), s.dev.boot.pufOffAt = some u → u + msec ≤ s.dev.now → s.dev.boot.romPending = true →
    s.dev.power.dstate = .aon → s.dev.power.resetL = true → s.dev.power.lowering = false →
    exec (.pufRetry reading) s = .next { s with dev := { s.dev.romStart reading with now := s.dev.now } }
    ∧ (s.dev.boot.flashUsable = true → s.dev.seedOf reading = none → s.dev.boot.pufTries < 2 →
        exec (.pufRetry reading) s = .next { s with dev := { s.dev with
          power := { s.dev.power with wpLow := true }
          boot := { s.dev.boot with pufTries := s.dev.boot.pufTries + 1, pufOffAt := some s.dev.now, romPending := true } } })

/-- Rails rise and fall stage by stage (R487): a stage is raised 0.2 ms after the last power-good of the stage before, a power-good is
noted with its cycle, and a stage is lowered once the power-goods of the stage above it have fallen, or after 1 ms. -/
def Obligations.RailsRiseAndFallByStages : Prop :=
  (∀ (st : AvsStatus) (s : State), let p := s.dev.power
    p.bring = .rails → p.dstate = .aon → p.resetL = true → p.lowering = false → p.stage < 10 → (stageRails p.stage).all p.pg = true →
    (stageRails (p.stage + 1)).any p.pg = false → (p.stage = 0 ∨ p.stageAt + 200 * usec ≤ s.dev.now) →
    (p.stage ∈ [3, 4, 5, 6, 7, 8] ∨ st ∈ [.ok, .warnCurrent, .warnTemp]) → ∃ t, exec (.powerStageRaise ⟨true, st⟩) s = .next t
      ∧ t.dev.power = { p with pwrEn := (stageRails (p.stage + 1)).foldl (fun l i => modNth i (fun _ => true) l) p.pwrEn,
                               stage := p.stage + 1, enAt := s.dev.now }
      ∧ ∀ i ∈ stageRails (p.stage + 1), i < 6 → (t.dev.warden.rails.get i).setMv = s.dev.setpoint i) ∧
  (∀ (i : Nat) (s : State), i < 12 → s.dev.power.en i = true → s.dev.power.pg i = false →
    exec (.pwrPgRise i) s = .next { s with dev := { s.dev with
      power := { s.dev.power with pwrPg := modNth i (fun _ => true) s.dev.power.pwrPg, stageAt := s.dev.now } } }) ∧
  (∀ (i : Nat) (s : State), i < 12 → s.dev.power.en i = false → s.dev.power.pg i = true →
    exec (.pwrPgFall i) s = .next { s with dev := { s.dev with
      power := { s.dev.power with pwrPg := modNth i (fun _ => false) s.dev.power.pwrPg } } }) ∧
  ∀ s : State, let p := s.dev.power
    p.lowering = true → ((∀ i < 12, p.en i = true ∨ p.pg i = false) ∨ p.enAt + msec ≤ s.dev.now) →
    ∃ t, exec .powerStageLower s = .next t
      ∧ t.dev.power = { p with pwrEn := (stageRails p.stage).foldl (fun l i => modNth i (fun _ => false) l) p.pwrEn,
                               stage := p.stage - 1, lowering := decide (1 < p.stage), enAt := s.dev.now }
      ∧ t.dev.boot = (if p.stage ≤ 1 ∧ s.dev.boot.pufOffAt.isSome = true then { s.dev.boot with pufOffAt := some s.dev.now } else s.dev.boot)

/-- What takes the device to D-AON at once (R404, R418, R487, R492): a sensor at 110 °C or more, a power-good that falls or is missing, a
slave that does not report AVSBus 1.3, or reports a fault as its stage is raised, and a main clock that loses lock. Every enable drops, the
main clock stops and what the dies hold is lost; a trip drives THERMTRIP_L low and is kept in the RWS cells, and a loss of lock is a rail
fault of bus and rail 0xFF. -/
def Obligations.TripsAndRailFaultsDropEveryRail : Prop :=
  (∀ (g : SensorGroup) (i r : Nat) (s : State), i < groupSize g → 1760 ≤ r → s.dev.power.dstate ≠ .off → s.dev.power.pwrEn.any id = true →
    ∃ t, exec (.thermalTrip g i r) s = .next t ∧ t.dev.railsDropped ∧ t.dev.power.thermTrip = true
      ∧ t.dev.power.rwsTrip = some (groupCode g, i, r) ∧ t.dev.power.pendTrip = some (groupCode g, i, r)) ∧
  (∀ (i : Nat) (s : State), i < 12 → s.dev.power.en i = true → s.dev.power.pg i = true →
    ∃ t, exec (.pwrPgFall i) s = .next t ∧ t.dev.railsDropped ∧ t.dev.power.pendRail.isSome = true) ∧
  (∀ (i : Nat) (s : State), i < 12 → s.dev.power.en i = true → s.dev.power.pg i = false → s.dev.power.enAt + msec < s.dev.now →
    ∃ t, exec (.powerGoodTimeout i) s = .next t ∧ t.dev.railsDropped ∧ t.dev.power.pendRail.isSome = true) ∧
  (∀ (ok : Bool) (st : AvsStatus) (s : State), let p := s.dev.power
    (ok = false ∨ st = .readBackFailed ∨ ∃ code, st = .fault code) →
    p.bring = .rails → p.dstate = .aon → p.resetL = true → p.lowering = false → p.stage ∈ [0, 1, 2, 9] →
    (stageRails p.stage).all p.pg = true → (stageRails (p.stage + 1)).any p.pg = false →
    (p.stage = 0 ∨ p.stageAt + 200 * usec ≤ s.dev.now) →
    ∃ t, exec (.powerStageRaise ⟨ok, st⟩) s = .next t ∧ t.dev.railsDropped ∧ t.dev.power.pendRail.isSome = true
      ∧ t.dev.boot.failStep = 1) ∧
  ∀ s : State, s.dev.lit = true → ∃ t st, exec .mainPllLossOfLock s = .next t ∧ t.dev.railsDropped
    ∧ t.dev.power.pendRail = some (0xFF, 0xFF, st)

/-- Bring-up (R19, R406, R495): with every rail good and the PLL locked the main clock starts and, with the dies released, the start-up
block test is next; with TEST_MODE latched the Warden stops there; a PLL that does not lock or a die that does not start returns the device
to D-AON with the failing step recorded. SPARING_MAP_BUILD is next: with every position passing the test and a valid record, the map is the
record's, and the training of the memories follows, after which the device is in D-READY. -/
def Obligations.BringUpReachesReady : Prop :=
  ((∀ (e : BringEnv) (s : State), let p := s.dev.power
    p.dstate = .aon → p.bring = .rails → p.stage = 10 → p.lowering = false → (∀ i < 12, p.pg i = true ∧ p.en i = true) →
    ∃ t, exec (.bringUp e) s = .next t
      ∧ (e.pllLock = true → p.testMode = false → e.diesOk = true →
          t.dev = { s.dev with power := { p with mainStart := some s.dev.now, bring := .map }
                               boot := { s.dev.boot with failStep := 0 }
                               grid := { s.dev.grid with failed := e.failing.filter posOk, swFailed := e.switchFailing.filter posOk } })
      ∧ (e.pllLock = true → p.testMode = true → t.dev = { s.dev with power := { p with mainStart := some s.dev.now, bring := .none } })
      ∧ (e.pllLock = true → p.testMode = false → e.diesOk = false →
          t.dev.power.bring = .none ∧ t.dev.power.mainStart = none ∧ t.dev.boot.failStep = 3 ∧ t.dev.diesLost)
      ∧ (e.pllLock = false → t.dev.power.bring = .none ∧ t.dev.power.lowering = true ∧ t.dev.boot.failStep = 2 ∧ t.dev.diesLost)) ∧
  ∀ (e : BringEnv) (s : State), s.dev.power.dstate = .aon → s.dev.power.bring = .train →
    ∃ t, exec (.bringUp e) s = .next t ∧ t.dev.power.dstate = .ready ∧ t.dev.power.bring = .done ∧ t.dev.power.alert = false
      ∧ t.dev.conc.lpGiB = if e.lpOk then e.lpGiB else 0) ∧
  ((∀ s : State, s.dev.power.bring = .map → ∃ t, exec .sparingMapBuild s = .next t ∧ t.dev.power = { s.dev.power with bring := .train }) ∧
  ∀ (r : Bytes) (s : State), s.dev.power.bring = .map → s.dev.grid.failed = [] → s.dev.grid.swFailed = [] →
    s.dev.twoRead sparing0 sparing1 128 sparingOk = some r → ∃ t, exec .sparingMapBuild s = .next t
      ∧ t.dev.grid = { s.dev.grid.ofRecord r with shifts := [], faultMap := [], spareBad := [] })

/-! ## Block power, the governor and the sparing map -/

/-- Block islands (R407 to R409, R416): an island whose power-up is over, with no bank wake of its block pending, reaches RUN at a turn
boundary; a block quiet for 64 cycles enters IDLE; the members of a beat have their clocks started from 64 cycles before the beat, at a
turn boundary (which one is the model's choice, notes/assumptions/69.md); and a block of a Lot that rests, or lies in a gap, enters RET. No
other block's island changes. -/
def Obligations.BlockIslandsMoveThroughTheirStates : Prop :=
  (∀ (b u : Nat) (s : State), b < 576 → (s.dev.block b).islandAt = some u → u ≤ s.dev.now → (s.dev.block b).banksAt.getD 0 ≤ s.dev.now →
    s.dev.asked b true = false → s.dev.turnStart = true → ∃ t, exec (.blockReachesRun b) s = .next t
      ∧ t.dev.block b = { s.dev.block b with island := .run, islandAt := none, banksAt := none, quiet := none }
      ∧ ∀ c, c ≠ b → t.dev.block c = s.dev.block c) ∧
  (∀ (b u : Nat) (s : State), b < 576 → (s.dev.block b).island = .run → (s.dev.block b).quiet = some u → u + 64 ≤ s.dev.now →
    s.dev.isQuiet b = true → exec (.blockIdleEntry b) s =
      .next { s with dev := s.dev.modBlock b fun x => { x with island := .idle, quiet := none } }) ∧
  (∀ (k : Nat) (s : State), k < 64 → (s.dev.lot k).front.kind = 1 → (s.dev.lot k).beat.active = true →
    (s.dev.lot k).nextBeat ≤ s.dev.now + 64 → ∃ t, exec (.memberClockStart k) s = .next t ∧ ∀ b,
      t.dev.block b = if (s.dev.block b).island = .idle ∧ ∃ n ∈ (s.dev.lot k).members, n / 4 = b
        then { s.dev.block b with island := .run, quiet := none, clockAt := s.dev.now + (8 - s.dev.time % 8) % 8 } else s.dev.block b) ∧
  ∀ (b k : Nat) (s : State), b < 576 → s.dev.lotOf b = some k → (s.dev.block b).island = .idle → (s.dev.lot k).bstate = .empty →
    (s.dev.inGapOf (s.dev.lot k) = true ∨ s.dev.isRested (s.dev.lot k) = true) →
    exec (.blockRetentionEntry b) s = .next { s with dev := s.dev.modBlock b fun x => { x with island := .ret } }

/-- The governor (R414): in a tick of an AON clock period in which it has not run, each die's bucket grows by the slew allowance, up to
one period of it, and the requests of a queue whose hint has led long enough are admitted oldest of the lowest class first while the
bucket pays for them; a queue left empty empties the bucket. An admitted island starts its power-up (R407). -/
def Obligations.TheGovernorAdmitsWhatTheBucketPays : Prop :=
  (∀ s : State, s.dev.lit = true → s.dev.warden.govAt ≠ s.dev.now / aonTick + 1 →
    ∃ t, exec .governorTick s = .next t ∧ t.dev.warden.govAt = s.dev.now / aonTick + 1
      ∧ ∀ die < 2, let g := s.dev.gov die
        let a := 10 * s.dev.slew die
        g.hint = true → g.queue ≠ [] → g.hintAt + s.dev.entry 0x2002 1 * usec ≤ s.dev.now →
          (t.dev.gov die).queue = (admitAll g.queue.length (min a (g.bucket + a)) g.queue).2.2
          ∧ ((t.dev.gov die).queue ≠ [] → (t.dev.gov die).bucket = (admitAll g.queue.length (min a (g.bucket + a)) g.queue).2.1)
          ∧ ((t.dev.gov die).queue = [] → (t.dev.gov die).bucket = 0)) ∧
  ∀ (r : WakeReq) (s : State), s.dev.lit = true → s.dev.warden.govAt ≠ s.dev.now / aonTick + 1 → s.dev.warden.gov0.queue = [r] →
    s.dev.warden.gov1.queue = [] → r.cls < 4 → r.isBank = false → r.spare = none → s.dev.warden.gov0.hint = true →
    s.dev.warden.gov0.hintAt + s.dev.entry 0x2002 1 * usec ≤ s.dev.now → r.cost ≤ 10 * s.dev.slew 0 →
    ∃ t, exec .governorTick s = .next t
      ∧ (t.dev.block r.b).islandAt = some (s.dev.now + powerUp (s.dev.block r.b).island) ∧ t.dev.warden.gov0.queue = []

/-! ## Sensors, supplies and the plant -/

/-- Sensors and supplies in service (R417 to R421, R253, R479): a group's sample sets the reading of each of its sensors and of no other
group; a poll keeps a rail's current and adds a power sample, and a status fault drops every rail; a trim moves a setpoint by 5 mV within
25 mV of the record; STRETCH grows by its step in a Lot that is hot or over the cap, and to its limit over 2,000 W; a laser input below
20 dBm darkens its ports until it is back at 20.5 dBm. -/
def Obligations.SensorsAndSuppliesAreFollowed : Prop :=
  (∀ (g : SensorGroup) (l : List Nat) (s : State), l.length = groupSize g → s.dev.diesOn = true →
    (s.dev.warden.sampled.get (groupCode g) = 0 ∨ s.dev.warden.sampled.get (groupCode g) + groupPeriod g ≤ s.dev.now) →
    ∃ t, exec (.sensorSample g l) s = .next t ∧ t.dev.warden.sampled.get (groupCode g) = s.dev.now
      ∧ (∀ i (h : i < l.length), t.dev.reading (groupCode g) i = l[i])
      ∧ ∀ c i, c ≠ groupCode g → i < 1024 → t.dev.reading c i = s.dev.reading c i) ∧
  (∀ (i ma temp : Nat) (s : State), i < 6 → s.dev.lit = true → dueSince (s.dev.warden.rails.get i).curAt (100 * usec) s.dev.now = true →
    (∃ t, exec (.avsPoll i ma temp .ok) s = .next t ∧ (t.dev.warden.rails.get i).curMa = ma
      ∧ (t.dev.warden.rails.get i).curAt = some s.dev.now ∧ (t.dev.warden.rails.get i).warn = false
      ∧ (t.dev.warden.rails.get i).temp = (if dueSince (s.dev.warden.rails.get i).tempAt (10 * msec) s.dev.now then temp
          else (s.dev.warden.rails.get i).temp)
      ∧ (∀ j, j ≠ i → t.dev.warden.rails.get j = s.dev.warden.rails.get j)
      ∧ t.dev.warden.powers.getLast? = some (s.dev.now, t.dev.packageMw)) ∧
    ∀ code, ∃ t, exec (.avsPoll i ma temp (.fault code)) s = .next t ∧ t.dev.railsDropped
      ∧ t.dev.power.pendRail = some ((avsBus i).1, (avsBus i).2, code % 256)) ∧
  (∀ (i : Nat) (up : Bool) (s : State), let r := s.dev.warden.rails.get i
    let v := if up then r.setMv + 5 else r.setMv - 5
    i < 4 → s.dev.lit = true → dueSince r.trimAt msec s.dev.now = true → r.baseMv ≤ v + 25 → v ≤ r.baseMv + 25 →
    (railRange i).2.1 ≤ v → v ≤ (railRange i).2.2 → ∃ t, exec (.voltageTrim i up .ok) s = .next t
      ∧ t.dev.warden.rails.get i = { r with setMv := v, trimAt := some s.dev.now, warn := false } ∧ t.dev.out = s.dev.out ++ [.avs i v]) ∧
  (∀ s : State, s.dev.lit = true → s.dev.warden.stretchAt + 100 * usec ≤ s.dev.now → ∃ t, exec .stretchUpdate s = .next t
    ∧ t.dev.warden.stretchAt = s.dev.now ∧ ∀ k < 64, let l := s.dev.lot k
      ((l.state ≠ 2 ∨ l.front.kind = 0) → t.dev.lot k = l)
      ∧ (l.state = 2 → l.front.kind ≠ 0 → 2000000 < s.dev.meanMw (100 * usec) → (t.dev.lot k).stretchNext = l.stretchMax)
      ∧ (l.state = 2 → l.front.kind ≠ 0 → s.dev.meanMw (100 * usec) ≤ 2000000 →
          (16 * s.dev.entry 0x2003 1 ≤ s.dev.lotHot l ∨ 16 * s.dev.entry 0x2003 2 ≤ s.dev.lotHbm l
            ∨ 1000 * s.dev.pcapEff < s.dev.meanMw msec) →
          (t.dev.lot k).stretchNext = min l.stretchMax (l.stretchNext + l.stretchStep))) ∧
  ∀ (ps : List Nat) (s : State), ps.length = 4 → s.dev.lit = true → s.dev.warden.laserAt + msec ≤ s.dev.now →
    ∃ t, exec (.laserSample ps) s = .next t ∧ t.dev.warden.laserAt = s.dev.now ∧ ∀ i (h : i < ps.length),
      (ps[i] < 2000 → i ∈ t.dev.warden.laserLow) ∧ (2050 ≤ ps[i] → i ∉ t.dev.warden.laserLow)
      ∧ (ps[i] < 2000 → i ∉ s.dev.warden.laserLow → ∀ p ∈ laserPorts i, (t.dev.port p).dark = true)
      ∧ (2050 ≤ ps[i] → i ∈ s.dev.warden.laserLow → ∀ p ∈ laserPorts i, (t.dev.port p).dark = false)

/-- The plant (R423 to R427). The forecast is computed every 10 ms; it is sent every 100 ms, and at once, but not within 10 ms, when it has
moved by more than 10 % of FLOWREQ or 100 W. A valid PLANT_STATUS is taken, and with it the spans of R427 are followed; a bad message is
dropped and counted (that another device's FORECAST is dropped uncounted is the model's choice, notes/assumptions/49.md). Silence for 1 s,
or a FAULT, caps the power at PCAPLOST; a LIMITED state, or a flow below 90 % of the request for 2 s, caps it at the largest power whose
steady junctions at the delivered flow stay 2 °C below TTHR; and a plant that is OK with enough flow for 2 s lifts the caps. A PLCA beacon
that stays away for 4 ms ends PLCA until it returns. -/
def Obligations.ThePlantCapsAndFreesThePower : Prop :=
  (∀ s : State, let w := s.dev.warden
    s.dev.awake = true → (w.foreAt = 0 ∨ w.foreAt + 10 * msec ≤ s.dev.now) → ∃ t, exec .forecastCompute s = .next t
      ∧ t.dev.warden = ({ w with fore := s.dev.foreNow.1, foreAt := s.dev.now, td0 := t.dev.warden.td0, td1 := t.dev.warden.td1 }
          : Warden).flowSpans s.dev.now
      ∧ ((w.foreAt ≠ 0 ∨ w.plant.isSome = true) → t.dev.warden.td0 = s.dev.foreNow.2.1 ∧ t.dev.warden.td1 = s.dev.foreNow.2.2)) ∧
  (∀ s : State, let w := s.dev.warden
    s.dev.awake = true → w.foreAt ≠ 0 →
    (w.sentFore = none ∨ w.sentAt + 100 * msec ≤ s.dev.now
      ∨ ∃ g, w.sentFore = some g ∧ w.sentAt + 10 * msec ≤ s.dev.now ∧
          (g.flowreq < 10 * (max w.fore.flowreq g.flowreq - min w.fore.flowreq g.flowreq)
            ∨ 100 < max w.fore.p1s g.p1s - min w.fore.p1s g.p1s)) →
    exec .forecast s = .next { s with dev := { s.dev with
      warden := { w with sentFore := some w.fore, sentAt := s.dev.now, seqOut := (w.seqOut + 1) % 65536 }
      out := s.dev.out ++ [.plant s.dev.linkLocal w.plantSrc (withCrc (layout 8 [(0, 2, 0x4C50), (2, 1, 1), (3, 1, 1), (4, 2, w.seqOut),
        (6, 2, 28)] ++ s.dev.foreBody w.fore))] } }) ∧
  (∀ (src : Nat) (m : Bytes) (s : State), let w := s.dev.warden
    s.dev.awake = true →
    (foreOkMsg m = true → exec (.plantStatus src m) s = .next s) ∧
    (foreOkMsg m = false → plantOkMsg m = false → exec (.plantStatus src m) s = .next { s with dev := s.dev.bump 0x6080 3 1 }) ∧
    (plantOkMsg m = true → ∃ t, exec (.plantStatus src m) s = .next t ∧ t.dev.warden.plantAt = s.dev.now
      ∧ t.dev.warden.plantSrc = some src ∧ t.dev.warden.plant = some ⟨fld m 8 2, fld m 10 2, fld m 12 2, fld m 14 2, byte m 16⟩
      ∧ t.dev.warden.lowSince = (if 10 * fld m 12 2 < 9 * w.fore.flowreq then some (w.lowSince.getD s.dev.now) else none)
      ∧ t.dev.warden.okSince = (if byte m 16 = 0 ∧ w.fore.flowreq ≤ fld m 12 2 then some (w.okSince.getD s.dev.now) else none)
      ∧ t.dev.warden.plantLost = (w.plantLost || byte m 16 == 2)
      ∧ t.dev.warden.capPlant = (if byte m 16 = 2 ∧ w.plantLost = false then
          some (min (s.dev.entry 0x2004 2) (w.capPlant.getD (s.dev.entry 0x2004 2))) else w.capPlant))) ∧
  (∀ s : State, let c := s.dev.entry 0x2004 2
    s.dev.awake = true → s.dev.warden.plantLost = false → s.dev.warden.plantAt + second ≤ s.dev.now → ∃ t, exec .plantLost s = .next t
      ∧ t.dev.warden = { s.dev.warden with
          plantLost := true, okSince := none, capPlant := some (min c (s.dev.warden.capPlant.getD c)) }) ∧
  (∀ (p : Plant) (s : State), s.dev.awake = true → s.dev.warden.plant = some p → s.dev.warden.plantLim = false →
    (p.state = 1 ∨ ∃ u, s.dev.warden.lowSince = some u ∧ u + 2 * second ≤ s.dev.now) → ∃ t c, exec .plantLimited s = .next t
      ∧ t.dev.warden = { s.dev.warden with plantLim := true, capPlant := some (min c (s.dev.warden.capPlant.getD c)) }
      ∧ (0 < s.dev.flow → ∀ n : Nat, 0 < n →
          (n ≤ c ↔ ∀ d < 2, s.dev.steady n s.dev.flow d ≤ (s.dev.entry 0x2003 1 : Rat) - 2))) ∧
  (∀ (u : Nat) (s : State), s.dev.awake = true → (s.dev.warden.plantLost = true ∨ s.dev.warden.plantLim = true) →
    s.dev.plantGood.isSome = true → s.dev.warden.okSince = some u → u + 2 * second ≤ s.dev.now → ∃ t, exec .plantOk s = .next t
      ∧ t.dev.warden = { s.dev.warden with plantLost := false, plantLim := false, capPlant := none }) ∧
  ∀ s : State, s.dev.power.dstate ≠ .off →
    (s.dev.warden.beaconAt + 4 * msec ≤ s.dev.now →
      exec .plcaBeaconTimeout s = .next { s with dev := s.dev.modWarden fun w => { w with plca := false } }) ∧
    exec .plcaBeaconReturn s = .next { s with dev := s.dev.modWarden fun w => { w with plca := true, beaconAt := s.dev.now } }

/-! ## Boundary scan -/

/-- The instructions of the port (R495), while the always-on domain is powered: EXTEST and PRELOAD act with TEST_MODE latched and as
BYPASS otherwise, SAMPLE captures the lands with VIOD present (a capture has one level for each land that the register covers, a PRELOAD one
bit for each of its cells), and every other code acts as BYPASS, which a TAP reset selects. Without
standby power nothing changes. -/
def Obligations.BoundaryScanInstructions : Prop :=
  ∀ s : State,
    (s.dev.power.aonPwrok = true →
      (∀ pins, exec (.extest pins) s = .next { s with jtag :=
        if s.dev.power.testMode then { s.jtag with ir := 0, bypass := false, driving := true, captured := fitBits scanLands.length pins }
        else { s.jtag with ir := 0, bypass := true, driving := false } }) ∧
      (∀ pins, exec (.sample pins) s = .next { s with jtag :=
        { s.jtag with ir := 1, bypass := false, driving := false, captured :=
          if s.dev.power.viod then fitBits scanLands.length pins else [] } }) ∧
      (∀ cells, exec (.preload cells) s = .next { s with jtag :=
        if s.dev.power.testMode then { s.jtag with ir := 2, bypass := false, driving := false, cells := fitBits scanCells.length cells }
        else { s.jtag with ir := 2, bypass := true, driving := false } }) ∧
      (∀ code, 3 ≤ code → code ≤ 255 → exec (.bypass code) s = .next { s with jtag :=
        { s.jtag with ir := code, bypass := true, driving := false } }) ∧
      exec .trstLAssert s = .next { s with jtag := { s.jtag with ir := 255, bypass := true, driving := false } }) ∧
    (s.dev.power.aonPwrok = false →
      (∀ pins, exec (.extest pins) s = .next s) ∧ (∀ pins, exec (.sample pins) s = .next s) ∧
      (∀ cells, exec (.preload cells) s = .next s) ∧ (∀ code, 3 ≤ code → code ≤ 255 → exec (.bypass code) s = .next s) ∧
      exec .trstLAssert s = .next s)

/-! ## Orders -/

/-- Orders that are done when they issue, on a Stall whose engines are idle (R65, R67, R80, R89 to R91, R205, R207, R208): the sequencer
goes on, in the order of its loops, and the order has its effect and no other. NOP and WAIT.IDLE have none; LOOP pushes a loop; END stops
issue and leaves the PC; EPI and EPI.PROG make an epilogue pending; BELL.RING sends a ring that arrives 12 cycles later; BELL.WAIT takes its
latch, which a ring that arrived in this cycle sets again; BELL.REMOTE to the own device rings locally, and to another queues a packet at
the router; WAIT.BEAT reports ready in this cycle, and a member that does so later than 8 cycles before the next beat's scheduled start
counts a late beat. -/
def Obligations.OrdersDoneAtIssue : Prop :=
  (∀ (n : Nat) (s : State), let d := s.dev.stepped n
    let pc := (s.dev.stall n).pc
    let w := s.dev.orderAt n
    (s.dev.issuesIdle n 0x82 → exec (.nop n) s = .next { s with dev := d }) ∧
    (s.dev.issuesIdle n 0x71 → exec (.waitIdle n) s = .next { s with dev := d }) ∧
    (s.dev.issuesIdle n 0x80 → exec (.loop n) s = .next { s with dev := d.modStall n fun x =>
      { x with loops := { first := pc + 1, last := loopEnd w, left := loopCount w } :: x.loops } }) ∧
    (s.dev.issuesIdle n 0x81 → exec (.endOrder n) s = .next { s with dev := d.modStall n fun x => { x with ended := true, pc := pc } }) ∧
    (s.dev.issuesIdle n 0x30 → (s.dev.stall n).pendEpi = none → rmodeBad (epiOrder w).rmode = false → exec (.epi n) s = .next { s with dev := d.modStall n fun x =>
      { x with pendEpi := some (epiCopy (s.dev.shelf (n / 4)) false pc w) } }) ∧
    (s.dev.issuesIdle n 0x31 → (s.dev.stall n).pendEpi = none → rmodeBad (epiOrder w).rmode = false → exec (.epiProg n) s = .next { s with dev := d.modStall n fun x =>
      { x with pendEpi := some (epiCopy (s.dev.shelf (n / 4)) true pc w) } }) ∧
    (s.dev.issuesIdle n 0x90 → exec (.bellRing n) s = .next { s with dev :=
      { d with bells := s.dev.bells ++ [{ line := bellLine w, due := s.dev.now + 12 }] } }) ∧
    (s.dev.issuesIdle n 0x91 → (s.dev.stall n).latch.getLsbD (bellLine w) = true →
      let mark : BitVec 32 := BitVec.ofNat 32 (2 ^ bellLine w)
      exec (.bellWait n) s = .next { s with dev := d.modStall n fun x =>
        { x with latch := (x.latch &&& ~~~ mark) ||| (x.again &&& mark), again := x.again &&& ~~~ mark } }) ∧
    (s.dev.issuesIdle n 0x92 → let pkt : EPkt := { op := 0x08, ddev := bellDev w, aux := bellLine w, flow := n % 256 }
      exec (.bellRemote n) s = .next { s with
        dev := if bellDev w = s.dev.elveel.devnum then { d with bells := s.dev.bells ++ [{ line := bellLine w, due := s.dev.now + 12 }] }
          else d.modElv fun e => { e with
            nextOut := e.nextOut + 1, outq := e.outq ++ [{ id := e.nextOut, src := .none, at_ := s.dev.now, pkt := pkt }] } })) ∧
  (∀ (n : Nat) (s : State), s.dev.issuesIdle n 0x70 → ∃ t, exec (.waitBeat n) s = .next t
    ∧ t.dev.stall n = { (s.dev.stall n).advance s.dev.now with ready := true, readyAt := s.dev.now }
    ∧ (∀ m, m ≠ n → t.dev.stall m = s.dev.stall m)
    ∧ ∀ k, s.dev.lotOf (n / 4) = some k → (s.dev.lot k).front.kind = 1 →
        ((s.dev.lot k).nextBeat - 8 < s.dev.now → t.dev.ctr 0x6000 n 2 = min (s.dev.ctr 0x6000 n 2 + 1) (2 ^ 48 - 1))
        ∧ (s.dev.now ≤ (s.dev.lot k).nextBeat - 8 → t.dev = (s.dev.stepped n).modStall n fun x =>
            { x with ready := true, readyAt := s.dev.now }))

/-- Orders for an engine (R65, R75, R79, R81 to R83, R87, R123, R124, R133): with room in the engine's queue the sequencer goes on, the
order stands last in the queue with what it latches, and the engines start what they can. An MMA with EPI takes the pending epilogue and its
use, and queues with it the implicit vector launches that R124 and R133 give it. -/
def Obligations.OrdersEnterTheirQueue : Prop :=
  ∀ (n : Nat) (s : State), n < 2304 → let d := s.dev.stepped n
    let w := s.dev.orderAt n
    let queued (j : Job) : Host.Outcome State Fault Refusal := .next { s with dev :=
      { (d.newJob n { j with word := BitVec.ofNat 64 w, pc := (s.dev.stall n).pc }).kick n with now := s.dev.now } }
    (s.dev.mayIssue n 0x10 = true → 1 ≤ (s.dev.stall n).room .matrix → (mmaOp w).epi = false → (mmaOp w).afmt ≠ 0xF → (mmaOp w).bfmt ≠ 0xF →
      exec (.mma n) s = queued { eng := .matrix, op := .mma, rdAbc := (mmaOp w).abc, wr := (mmaOp w).dTiles }) ∧
    (∀ e, s.dev.mayIssue n 0x10 = true → 1 ≤ (s.dev.stall n).room .matrix → (mmaOp w).epi = true → (mmaOp w).afmt ≠ 0xF →
      (mmaOp w).bfmt ≠ 0xF → (s.dev.stall n).pendEpi = some e → s.dev.mmaEntries n w ≤ (s.dev.stall n).room .vector →
      let use : Nat × Nat := (s.dev.stall n).uses.get e.line
      let base : Job := { word := BitVec.ofNat 64 w, pc := (s.dev.stall n).pc, epi := some e, useU := use.1, useB := use.2,
                          link := (s.dev.stall n).ticket + if e.hasPro then 1 else 0 }
      let d := d.modStall n fun x => { x with
        pendEpi := none, uses := x.uses.set e.line (if e.nuse ≤ use.1 then (0, use.2 + 1) else (use.1 + 1, use.2)) }
      let d := if e.hasPro then d.newJob n { base with
        eng := .vector, op := .prologue, rd := [(mmaOp w).at_, e.aux1, e.aux2], wr := [(mmaOp w).at_] } else d
      let d := d.newJob n { base with eng := .matrix, op := .mma, rd := [e.aux1, e.aux2], rdAbc := (mmaOp w).abc,
                                      wr := (mmaOp w).dTiles ++ if e.isProg then [] else xtTiles e.words }
      let d := if e.isProg || !(s.dev.stallCfg n).cyclic then d.newJob n { base with eng := .vector, op := .epiPasses } else d
      exec (.mma n) s = .next { s with dev := { d.kick n with now := s.dev.now } }) ∧
    (s.dev.mayIssue n 0x20 = true → 1 ≤ (s.dev.stall n).room .vector → rmodeBad (vecOrder w).rmode = false → let o := vecOrder w
      let l := (s.dev.shelf (n / 4)).cfgLines o.desc 3
      exec (.vec n) s = queued { eng := .vector, op := .vec, desc := l, rd := (vecTiles o (vdesc l)).1, wr := (vecTiles o (vdesc l)).2 }) ∧
    (s.dev.mayIssue n 0x21 = true → 1 ≤ (s.dev.stall n).room .vector → rmodeBad (vecOrder w).rmode = false → let o := vecOrder w
      let l := (s.dev.shelf (n / 4)).cfgLines o.desc 3
      let g := (s.dev.shelf (n / 4)).cfgLines (vdesc l).prog 7
      let ts := vecTiles o (vdesc l)
      exec (.vecProg n) s = queued { eng := .vector, op := .vecProg, desc := l, rd := ts.1, wr := ts.2, prog := g }) ∧
    (s.dev.mayIssue n 0x40 = true → 1 ≤ (s.dev.stall n).room .move → (movOrder w).fmt ≠ 0xF →
      exec (.movLd n) s = queued { eng := .move, op := .movLd, wr := (movOrder w).tiles }) ∧
    (s.dev.mayIssue n 0x41 = true → 1 ≤ (s.dev.stall n).room .move → (movOrder w).fmt ≠ 0xF →
      exec (.movSt n) s = queued { eng := .move, op := .movSt, rd := (movOrder w).tiles }) ∧
    (s.dev.mayIssue n 0x42 = true → 1 ≤ (s.dev.stall n).room .move →
      exec (.movZero n) s = queued { eng := .move, op := .movZero, wr := [movDst w] }) ∧
    (s.dev.mayIssue n 0x43 = true → 1 ≤ (s.dev.stall n).room .move →
      exec (.movTt n) s = queued { eng := .move, op := .movTt, rd := [movSrc w], wr := [movDst w] }) ∧
    (s.dev.mayIssue n 0x50 = true → 1 ≤ (s.dev.stall n).room .runner →
      exec (.send n) s = queued { eng := .runner, op := .send, rd := [(sendOrder w).tile] }) ∧
    (s.dev.mayIssue n 0x60 = true → 1 ≤ (s.dev.stall n).room .runner → (s.dev.stall n).recvReady s.dev.now (recvOrder w).queue = true →
      exec (.recv n) s = queued { eng := .runner, op := .recv, wr := [(recvOrder w).tile] })

/-- Where the order at the PC is not the named one, or is held by SYNC behind earlier orders, or the engine's queue is full, nothing issues:
the state is as it was (R65, R70; that such a command changes nothing is the model's reading, notes/assumptions/3.md). Illegal orders at run
time (R40, R80, R92), an MMA with EPI and no epilogue pending, an EPI or EPI.PROG with one pending, a reserved operand format code and a
reserved rounding mode, fault the Stall's context with FCODE 0x0001, the PC on the order. -/
def Obligations.OrdersThatMayNotIssue : Prop :=
  (∀ (n : Nat) (s : State), n < 2304 → ∀ p ∈ [(Instr.mma n, 0x10), (.vec n, 0x20), (.vecProg n, 0x21), (.epi n, 0x30), (.epiProg n, 0x31),
      (.movLd n, 0x40), (.movSt n, 0x41), (.movZero n, 0x42), (.movTt n, 0x43), (.send n, 0x50), (.recv n, 0x60), (.waitBeat n, 0x70),
      (.waitIdle n, 0x71), (.loop n, 0x80), (.endOrder n, 0x81), (.nop n, 0x82), (.bellRing n, 0x90), (.bellWait n, 0x91),
      (.bellRemote n, 0x92)],
    (s.dev.mayIssue n p.2 = false → exec p.1 s = .next s) ∧
    (p.2 = 0x10 ∧ (s.dev.stall n).room .matrix = 0 ∨ p.2 / 16 = 2 ∧ (s.dev.stall n).room .vector = 0
      ∨ p.2 / 16 = 4 ∧ (s.dev.stall n).room .move = 0 ∨ (p.2 = 0x50 ∨ p.2 = 0x60) ∧ (s.dev.stall n).room .runner = 0 →
      exec p.1 s = .next s)) ∧
  (∀ (n c : Nat) (s : State), s.dev.worksFor n c → let w := s.dev.orderAt n
    let illegal (i : Instr) : Prop := exec i s = .next { s with dev :=
      { ((s.dev.stepped n).faultStall n 0x0001 (s.dev.stall n).pc).kick n with now := s.dev.now } }
    (s.dev.mayIssue n 0x10 = true → 1 ≤ (s.dev.stall n).room .matrix → s.dev.mmaEntries n w ≤ (s.dev.stall n).room .vector →
      ((mmaOp w).afmt = 0xF ∨ (mmaOp w).bfmt = 0xF ∨ (mmaOp w).epi = true ∧ (s.dev.stall n).pendEpi = none) → illegal (.mma n)) ∧
    (s.dev.mayIssue n 0x20 = true → 1 ≤ (s.dev.stall n).room .vector → rmodeBad (vecOrder w).rmode = true → illegal (.vec n)) ∧
    (s.dev.mayIssue n 0x21 = true → 1 ≤ (s.dev.stall n).room .vector → rmodeBad (vecOrder w).rmode = true → illegal (.vecProg n)) ∧
    (s.dev.mayIssue n 0x30 = true → ((s.dev.stall n).pendEpi.isSome = true ∨ rmodeBad (epiOrder w).rmode = true) → illegal (.epi n)) ∧
    (s.dev.mayIssue n 0x31 = true → ((s.dev.stall n).pendEpi.isSome = true ∨ rmodeBad (epiOrder w).rmode = true) →
      illegal (.epiProg n)) ∧
    (s.dev.mayIssue n 0x40 = true → 1 ≤ (s.dev.stall n).room .move → (movOrder w).fmt = 0xF → illegal (.movLd n)) ∧
    (s.dev.mayIssue n 0x41 = true → 1 ≤ (s.dev.stall n).room .move → (movOrder w).fmt = 0xF → illegal (.movSt n)) ∧
    ((s.dev.stepped n).faultStall n 0x0001 (s.dev.stall n).pc).hasFaulted c 0x0001 n)

/-- Completions of orders (R77, R81, R120, R132, R137, R142, R198): the first order of the Stall that is due leaves its engine; what it
computed is written in the tiles and sidecars at once, its flags join the flag word, its settle passes issue, and the engines then start
what they can. An MMA whose epilogue runs on the vector stages waits for them, and one with a fixed list enters the epilogue path; a tile
that the path holds delays the next drain. A failed residue check of a launch or an epilogue that has nothing to check is no failure (R59).
A SEND's packet enters the injection buffer, which holds four, and is counted. -/
def Obligations.CompletionsWriteTheirTiles : Prop :=
  ∀ (n : Nat) (j : Job) (s : State), n < 2304 → let js := (s.dev.stall n).jobs
    let due (i : Job) : Bool := decide (i.due ≤ s.dev.now)
    let on (d : Dev) : Host.Outcome State Fault Refusal := .next { s with dev := { d.kick n with now := s.dev.now } }
    (js.find? (fun i => i.op == .mma && i.phase == .running && due i && !(i.scales && i.need != 0) && !(s.dev.stall n).holds) = some j →
      (j.epi = none → exec (.mmaDrainComplete n true) s =
        on (((s.dev.commitTiles n { j with outTiles := j.dWrites }).dropJob n j.ticket).setFlags n j.pc j.trapen j.flags.toNat)) ∧
      ∀ e, j.epi = some e → exec (.mmaDrainComplete n true) s =
        on (if e.isProg || !(s.dev.stallCfg n).cyclic then s.dev.modJob n j.ticket fun k => { k with phase := .done }
          else s.dev.startEpi n j (j.occEnd + 14 + epiLatency e.words (j.useU == e.nuse)))) ∧
    (∀ ok, js.find? (fun i => (i.op == .vec || i.op == .vecProg || i.op == .prologue) && i.launchDone s.dev.now) = some j →
      (ok = true ∨ s.dev.launchChecked n j = false) → exec (.vectorLaunchComplete n ok) s =
        on (((s.dev.commitTiles n j).dropJob n j.ticket).setFlags n j.pc j.trapen j.flags.toNat)) ∧
    (∀ ok, js.find? (fun i => (i.op == .mma || i.op == .epiPasses) && i.epiDone && due i && decide (i.occEnd ≤ s.dev.now)) = some j →
      (ok = true ∨ j.epi.any PendEpi.checked = false) → ∀ m, s.dev.job n j.link = some m → exec (.epilogueComplete n ok) s =
        on ((j.settle.reverse.foldl (fun d line => d.settlePass n line j.pc)
          (((s.dev.commitTiles n j).dropJob n j.ticket).dropJob n m.ticket)).setFlags n j.pc m.trapen (j.flags ||| m.flags).toNat)) ∧
    (js.find? (fun i => i.eng == .move && i.phase == .writing && due i) = some j →
      exec (.moveComplete n) s = on ((s.dev.commitTiles n j).dropJob n j.ticket)) ∧
    (js.find? (fun i => i.sending && decide ((s.dev.stall n).inj.length < 4)) = some j → let p := s.dev.sendPkt n j.word.toNat
      exec (.sendAccept n) s = on (((s.dev.modStall n fun x => { x with inj := x.inj ++ [{ p with at_ := s.dev.now }] }).dropJob n
        j.ticket).bump 0x6000 n (tagWord p.tag 0)))

/-- A failed residue check (R59, R60, R454) faults the context of the Stall with FCODE 0x0002, whichever completion meets it; and waits that
last longer than the send-stall timeout that was in force when they began (R88, R91, R134, R137, R204, R315), or a cyclic epilogue that
passes its declared latency unfinished, fault it with RECV_TIMEOUT 0x0005, BELL_TIMEOUT 0x0006, SEND_TIMEOUT 0x0007, EPI_LATE 0x0009,
EPI_SEND_TIMEOUT 0x000A. -/
def Obligations.ErrorsAndLongWaitsFaultTheContext : Prop :=
  (∀ (n c : Nat) (j : Job) (s : State), s.dev.worksFor n c → let js := (s.dev.stall n).jobs
    let due (i : Job) : Bool := decide (i.due ≤ s.dev.now)
    let faults (i : Instr) : Prop := ∃ t, exec i s = .next t ∧ t.dev.hasFaulted c 0x0002 n
    (js.find? (fun i => i.op == .mma && i.phase == .running && due i && !(i.scales && i.need != 0) && !(s.dev.stall n).holds) = some j →
      faults (.mmaDrainComplete n false)) ∧
    (js.find? (fun i => (i.op == .vec || i.op == .vecProg || i.op == .prologue) && i.launchDone s.dev.now) = some j →
      s.dev.launchChecked n j = true → faults (.vectorLaunchComplete n false)) ∧
    (js.find? (fun i => (i.op == .mma || i.op == .epiPasses) && i.epiDone && due i && decide (i.occEnd ≤ s.dev.now)) = some j →
      j.epi.any PendEpi.checked = true → faults (.epilogueComplete n false))) ∧
  (∀ (n c : Nat) (s : State), s.dev.worksFor n c → let js := (s.dev.stall n).jobs
    let faults (i : Instr) (code : Nat) : Prop := ∃ t, exec i s = .next t ∧ t.dev.hasFaulted c code n
    ((s.dev.heldTooLong n 0x60 = true ∨ js.any (fun i => i.op == .recv && i.phase == .reading && decide (i.since + i.limit < s.dev.now)) = true)
      → faults (.recvTimeout n) 0x0005) ∧
    (s.dev.heldTooLong n 0x91 = true → faults (.bellTimeout n) 0x0006) ∧
    (js.any (fun i => i.sending && decide (i.since + i.limit < s.dev.now)) = true → faults (.sendTimeout n) 0x0007) ∧
    (js.any (s.dev.epiIsLate n) = true → faults (.epiLate n) 0x0009) ∧
    (js.any (fun i => i.phase == .epiWriting && !i.sends.isEmpty && decide (i.since + i.limit < s.dev.now)) = true →
      faults (.epiSendTimeout n) 0x000A))

/-! ## Chests and blocks -/

/-- Where a block stands (R13, R14): block 288 d + 24 r + c has X = 24 d + c, from 0 to 47, and Y = r, from 0 to 11, and each place of
the grid of 48 columns by 12 rows holds one block. Of the 13 physical positions of a column one, at physical row x, is excluded and holds no
block; the others hold the logical rows 0 to 11 in ascending order, logical row r at physical row r below x and at r + 1 from there on. -/
def Obligations.BlocksStandOnTheGrid : Prop :=
  (∀ d r c, d < 2 → r < 12 → c < 24 → let b := 288 * d + 24 * r + c
    b / 288 = d ∧ blkX b = 24 * d + c ∧ blkY b = r ∧ blkX b < 48 ∧ blkY b < 12) ∧
  (∀ x y, x < 48 → y < 12 → blkAt x y < 576 ∧ blkX (blkAt x y) = x ∧ blkY (blkAt x y) = y) ∧
  (∀ b, b < 576 → blkAt (blkX b) (blkY b) = b) ∧
  ∀ (g : Grid) (d c : Nat), d < 2 → c < 24 → let x := g.exclRow (24 * d + c)
    x < 13 ∧ g.blockAt { die := d, col := c, row := x } = none ∧
    (∀ r, r < 12 → g.posOf (288 * d + 24 * r + c) = { die := d, col := c, row := if r < x then r else r + 1 }) ∧
    ∀ p, p < 13 → p ≠ x → ∃ r, r < 12 ∧ g.blockAt { die := d, col := c, row := p } = some (288 * d + 24 * r + c)
      ∧ g.posOf (288 * d + 24 * r + c) = { die := d, col := c, row := p }

/-- Stamped writes (R164, R165): effective stamps are S = ((k - 1 + B) mod 15) + 1, never 0, and a producer with code k and a consumer d
beats later agree when the consumer uses code ((k - 1 - d) mod 15) + 1. A write to a row that is held with another stamp is a HELD_OVERWRITE
violation, and the row stays as it was; any other write stores its data, sets the row's stamp to S, and sets the held bit when the unit
holds, so a unit never violates its own hold. No other row of the Chest changes. A wait-held CWR write waits instead (R168), and a lenient
context's write is counted and proceeds (R171). (r is the request, u its unit, S its effective stamp.) -/
def Obligations.StampedWritesCheckTheHeldBit : Prop :=
  (∀ k beat d, 1 ≤ k → k ≤ 15 → d ≤ 14 →
    effStamp k beat = (k - 1 + beat) % 15 + 1 ∧ 1 ≤ effStamp k beat ∧ effStamp k beat ≤ 15 ∧
    effStamp ((k - 1 + 15 - d) % 15 + 1) (beat + d) = effStamp k beat) ∧
  (∀ (c p : Nat) (r : RowReq) (d : Dev), let u := (d.chest c).units.get r.unit
    let stamp := u.eff.getD (effStamp u.code (d.beatB (c / 4)))
    let x := (d.chest c).stat.get r.row
    let stores (g : Dev) : Prop := g.rowData c r.row = mergeRow (d.rowData c r.row) r.data r.mask
      ∧ (g.chest c).stat.get r.row = { stamp := stamp, held := x.held || u.hold }
      ∧ ∀ q, q ≠ r.row → (g.chest c).stat.get q = (d.chest c).stat.get q ∧ g.rowData c q = d.rowData c q
    let stays (g : Dev) : Prop := g.mem = d.mem ∧ (g.chest c).stat = (d.chest c).stat
    r.isWrite = true → u.stamped = true → d.meetsUe c r true = false →
    ((x.held = false ∨ x.stamp = stamp) → ∃ g : Dev, d.grantOne c p r = .done (g.deliver r 0) ∧ stores g) ∧
    (x.held = true → x.stamp ≠ stamp →
      (r.waitHeld = true → p = pCwr → ∃ g : Dev, d.grantOne c p r = .waits g ∧ stays g ∧ (g.chest c).ports = (d.chest c).ports
        ∧ (g.chest c).heldSince = some ((d.chest c).heldSince.getD d.now)) ∧
      ((r.waitHeld = false ∨ p ≠ pCwr) → let v := violRec c r.row p 1 stamp x (d.time % 16) (d.beatB (c / 4))
        (d.isLenient c r.row = false → ∃ g : Dev, d.grantOne c p r = .done ((g.violationFault c r u.pc v).rejectReq r stHeldOverwrite)
          ∧ stays g ∧ g.ctr 0x6020 c 1 = min (d.ctr 0x6020 c 1 + 1) (2 ^ 48 - 1)
          ∧ (g.chest c).violation = (if (d.chest c).latched then (d.chest c).violation else v) ∧ (g.chest c).latched = true) ∧
        (d.isLenient c r.row = true → ∃ g : Dev, d.grantOne c p r = .done (g.deliver r 0) ∧ stores g
          ∧ g.ctr 0x6020 c 1 = min (d.ctr 0x6020 c 1 + 1) (2 ^ 48 - 1)))))

/-- The read grants of stamped units, and unstamped accesses (R104, R166, R167): a read compares the row's stamp with S, and with that of
a second unit that the same row serves; where they agree, or the context is lenient, the row's data is delivered; where they differ it is a
STAMP_MISMATCH violation. The data of unstamped reads is delivered unchecked; an unstamped CWR write takes the Chest's DSTAMP, and with
DSTAMP 0 is answered STAMP_REQUIRED. A read changes neither rows nor stamps. -/
def Obligations.ReadsCompareTheStamp : Prop :=
  ∀ (c p : Nat) (r : RowReq) (d : Dev), let u := (d.chest c).units.get r.unit
    let stamp := u.eff.getD (effStamp u.code (d.beatB (c / 4)))
    let second := (r.also.bind fun a => d.unitStamp c a).getD stamp
    let x := (d.chest c).stat.get r.row
    let stays (g : Dev) : Prop := g.mem = d.mem ∧ (g.chest c).stat = (d.chest c).stat
    (r.isWrite = false → u.stamped = true → d.meetsUe c r true = false →
      (x.stamp = stamp → second = stamp → ∃ g : Dev, d.grantOne c p r = .done (g.deliver r (d.rowData c r.row)) ∧ stays g) ∧
      (x.stamp ≠ stamp ∨ second ≠ stamp →
        let v := violRec c r.row p 0 (if x.stamp = stamp then second else stamp) x (d.time % 16) (d.beatB (c / 4))
        (d.isLenient c r.row = false → ∃ g : Dev, d.grantOne c p r = .done ((g.violationFault c r u.pc v).rejectReq r stStampMismatch)
          ∧ stays g ∧ g.ctr 0x6020 c 0 = min (d.ctr 0x6020 c 0 + 1) (2 ^ 48 - 1)) ∧
        (d.isLenient c r.row = true → ∃ g : Dev, d.grantOne c p r = .done (g.deliver r (d.rowData c r.row)) ∧ stays g
          ∧ g.ctr 0x6020 c 0 = min (d.ctr 0x6020 c 0 + 1) (2 ^ 48 - 1)))) ∧
    (u.stamped = false →
      (r.isWrite = false → d.meetsUe c r false = false →
        ∃ g : Dev, d.grantOne c p r = .done (g.deliver r (d.rowData c r.row)) ∧ stays g) ∧
      (r.isWrite = true → p = pCwr → let ds := bits ((d.shelf (c / 4)).cfg.get (c % 4)).toNat 23 20
        (ds = 0 → ∃ g : Dev, d.grantOne c p r = .done (g.rejectReq r stStampRequired) ∧ stays g) ∧
        (ds ≠ 0 → d.meetsUe c r true = false → (x.held = false ∨ x.stamp = ds) → ∃ g : Dev, d.grantOne c p r = .done (g.deliver r 0)
          ∧ g.rowData c r.row = mergeRow (d.rowData c r.row) r.data r.mask
          ∧ (g.chest c).stat.get r.row = { stamp := ds, held := x.held })))

/-- The grants of a Chest (R154, R158, R162, R166, R175): the generator rows that the paired Stall's epilogue takes in this cycle become
pending; a Chest whose block's clock runs then grants once in a cycle; the held bits of units that
read with RELEASE and whose last read was granted in an earlier cycle clear first; a Concourse request at a Chest that is off is answered
CHEST_OFF; the oldest request of a port is granted where the port owns the cell of its bank at the wheel position and no other access has
taken the bank in this cycle, and leaves the port; a wait-held write stays. Said for one pending request; the order of more is R154's. -/
def Obligations.ChestGrantServesTheCellsOwner : Prop :=
  ∀ (c p : Nat) (r : RowReq) (s : State), c < 2304 → p ∈ ([1, 2, 3, 4, 5, 6, 7, 8, 9, 10] : List Nat) → let a := s.dev.askRows c
    a.lit = true → (a.block (c / 4)).island = .run → (a.block (c / 4)).clockAt ≤ a.now → (a.chest c).granted ≠ some a.now →
    let d := (a.modChest c fun x => { x with granted := some a.now }).releaseHeld c
    let bank := r.row % 16
    let taken : Prop := (a.chest c).svcAt = some (a.now, bank)
    let off : Prop := (p = pCrd ∨ p = pCwr) ∧ d.chestIsOff c r.row = true
    let goesOn (g : Dev) : Prop := exec (.chestGrant c []) s = .next { s with dev := { g.kick c with now := s.dev.now } }
    let ends (g : Dev) : Prop := (∀ q, (g.chest c).ports.get q = []) → goesOn g
    (∀ q, (d.chest c).stat.get q = if ((a.chest c).units.filter fun (e : Nat × AccUnit) => e.2.left == 0
        && decide (e.2.lastRead < a.now)).any (fun e => e.2.release && e.2.rowsRead.contains q)
      then { (a.chest c).stat.get q with held := false } else (a.chest c).stat.get q) ∧
    ((∀ q, (d.chest c).ports.get q = []) → goesOn d) ∧
    ((d.chest c).ports.get p = [r] → (∀ q, q ≠ p → (d.chest c).ports.get q = []) →
      (d.now < r.since → goesOn d) ∧
      (r.since ≤ d.now → off → ends ((d.rejectReq r stChestOff).popReq c p r)) ∧
      (r.since ≤ d.now → ¬ off → (d.ownsCell c p bank (d.time % 16) = false ∨ taken ∨ d.bankOn c bank = false) → goesOn d) ∧
      (r.since ≤ d.now → ¬ off → d.ownsCell c p bank (d.time % 16) = true → ¬ taken → d.bankOn c bank = true →
        (∀ g, d.grantOne c p r = .done g → ends (g.popReq c p r)) ∧
        (∀ g, d.grantOne c p r = .waits g → goesOn g)))

/-- Waits at a Chest that end in a fault (R160, R168, R171): a wait-held write that has waited longer than the limit in force when its wait
began, the send-stall timeout of the context that owns the bank, is a HELD_WAIT_TIMEOUT violation, which leaves the port and faults that
context, or proceeds where it is lenient; a request whose port has had no cell of its bank for longer than that faults the context that
issued it with SLOT_STARVED, which names the Chest, the port and the row. -/
def Obligations.ChestWaitsEndInAFault : Prop :=
  ∀ (c p x : Nat) (r : RowReq) (rest : List RowReq) (s : State), c < 2304 → p < 16 →
    let u := (s.dev.chest c).units.get r.unit
    let stamp := (s.dev.reqStamp c r).getD 0
    (∀ since, (s.dev.chest c).heldSince = some since → (s.dev.chest c).ports.get pCwr = r :: rest →
      (s.dev.chest c).heldLimit < s.dev.now - since →
      let v := violRec c r.row pCwr 2 stamp ((s.dev.chest c).stat.get r.row) (s.dev.time % 16) (s.dev.beatB (c / 4))
      let d := (s.dev.iff (!(s.dev.chest c).latched) fun d => d.modChest c fun y => { y with violation := v, latched := true }).popReq c pCwr r
      (s.dev.isLenient c r.row = false → exec (.heldWaitTimeout c) s = .next { s with dev :=
        { (d.violationFault c r u.pc v).rejectReq r stHeldWait with now := s.dev.now } }) ∧
      (s.dev.isLenient c r.row = true → exec (.heldWaitTimeout c) s = .next { s with dev :=
        { d.perform c r (some stamp) u.hold with now := s.dev.now } })) ∧
    (∀ (d : Dev) (v : W64), d.bankOwner c (r.row % 16) = some x → (∀ n t k, r.sink ≠ .job n t k ∧ r.sink ≠ .epi n t k) →
      d.violationFault c r u.pc v = d.faultCtx x 0x0004 (0x1000 + c) u.pc v) ∧
    ((s.dev.chest c).ports.get p = r :: rest → u.ctx = some x → (∀ pos, pos < 16 → s.dev.ownsCell c p (r.row % 16) pos = false) →
      max r.since ((s.dev.lotOf (c / 4)).elim 0 fun k => (s.dev.lot k).swapTime) + r.limit < s.dev.now →
      exec (.slotStarved c p) s = .next { s with dev :=
        { (s.dev.markPc r.sink x u.pc).faultCtx x 0x000B (0x1000 + c) u.pc 0 (.port p r.row) with now := s.dev.now } })

/-! ## Streams, steering units and runners -/

/-- Streams (R181, R186, R187, R213): in a slot of its circuit a source that holds a credit for every branch sends its head flit on every
branch, taking one credit from each, and does not send without; the flit arrives F cycles later and enters its sink's queue, and a credit
that is back can be spent. A flit or a credit that its entry refuses by its epoch is discarded and counted; a double error, at the sink or
at a switch point on the way, discards the flit and faults the context that owns the circuit there (R181). -/
def Obligations.StreamsMoveByCredit : Prop :=
  ∀ (b ep id : Nat) (f : SFlit) (s : State), let d := s.dev
    let on (g : Dev) : Host.Outcome State Fault Refusal := .next { s with dev := { g with now := d.now } }
    let br := (d.branches b ep (d.time % 8)).length
    (∀ data, (d.sendFlit b ep data).flights = d.flights ++ (d.branches b ep (d.time % 8)).zipIdx.map fun (p : PathSink × Nat) =>
      { id := d.nextId + p.2, srcB := b, srcE := ep, branch := p.2, dstB := p.1.1, dstE := p.1.2.1, delay := p.1.2.2,
        due := d.now + p.1.2.2, epoch := (d.block b).epoch, data := data, hops := d.way b ep (d.time % 8) (p.1.1, p.1.2.1) }) ∧
    (b < 576 → ep < 32 → d.lit = true → sendsIn (d.frame b) ep (d.time % 8) = true → br ≠ 0 → d.sentNow b ep = false →
      ((d.ep b ep).credited br = false → exec (.streamFlitSend b ep) s = .next s) ∧
      ((d.ep b ep).credited br = true → f.at_ < d.now →
        (∀ rest, (epWord (d.frame b) ep).mode = 2 → (d.ep b ep).staging = f :: rest → exec (.streamFlitSend b ep) s =
          on (((d.sendFlit b ep f.data).modEp b ep fun y => { y.spend br with staging := rest }).askSout b ep 2)) ∧
        ((epWord (d.frame b) ep).mode = 3 → (d.ep b ep).queue.find? (fun g => !g.sent) = some f → exec (.streamFlitSend b ep) s =
          on (((d.sendFlit b ep f.data).modEp b ep fun y => { y.spend br with
            queue := modFirst (fun g => !g.sent) (fun g => { g with sent := true }) y.queue }).freeDone b ep 256)))) ∧
    (∀ x, d.flights.find? (fun g => g.id = id) = some x → x.due ≤ d.now →
      let g := { d with flights := d.flights.filter fun y => y.id != id }.rouse x.dstB
      let w := epWord (g.frame x.dstB) x.dstE
      let mesh : Prop := 1 ≤ w.ilink ∧ w.ilink ≤ 4
      (∀ ecc, ecc = .clean ∨ ecc = .corrected → let g := if mesh ∧ ecc = .corrected then g.flitFixed x.dstB w.ilink else g
        (g.refuses x.dstB x.dstE x.epoch = false → let y := g.modEp x.dstB x.dstE fun y =>
            { y with queue := y.queue ++ [{ data := x.data, epoch := x.epoch, at_ := d.now }] }
          exec (.streamFlitArrive id ecc) s = on (if w.sink = true ∧ w.mode ≠ 3 then y else y.askSin x.dstB x.dstE x.data)) ∧
        (g.refuses x.dstB x.dstE x.epoch = true → exec (.streamFlitArrive id ecc) s = on (g.bump 0x6030 x.dstB 67))) ∧
      (∀ c, mesh → g.frontOf x.dstB = some c → exec (.streamFlitArrive id .uncorrectable) s =
        on ((g.faultCtx c 0x0014 (4 * x.dstB) 0).unitError 0x03 2 x.dstB [c] 0x0014 0))) ∧
    (∀ x h, d.flights.find? (fun g => g.id = id) = some x → d.now < x.due →
      x.hops.find? (fun h => h.2.2 != 0 && x.due - x.delay + h.2.2 == d.now) = some h →
      exec (.streamFlitArrive id .clean) s = .next s ∧
      exec (.streamFlitArrive id .uncorrectable) s =
        on ({ d with flights := d.flights.filter fun y => !x.sameAt y h }.flitUe h.1)) ∧
    (∀ x, d.credits.find? (fun g => g.id = id) = some x → x.due ≤ d.now →
      let g := { d with credits := d.credits.filter fun y => y.id != id }
      let gone := d.refuses x.dstB (if x.dstE < 32 then x.dstE else 60 + (x.dstE - 32) / 2) x.epoch
      (gone = true → exec (.creditReturn id) s = on (g.bump 0x6030 x.dstB 67)) ∧
      (gone = false → x.dstE < 32 → exec (.creditReturn id) s = on (g.modEp x.dstB x.dstE fun y =>
        if x.branch = 0 then { y with cred0 := y.cred0 + 1 } else { y with cred1 := y.cred1 + 1 })) ∧
      (gone = false → 32 ≤ x.dstE → exec (.creditReturn id) s = on (g.modSteer x.dstB ((x.dstE - 32) / 2) fun y =>
        if x.dstE % 2 = 0 then { y with cred0 := y.cred0 + 1 } else { y with cred1 := y.cred1 + 1 })))

/-- Steering units (R194): the table of what a BRANCH, MERGE or SELECT does with each token, and the firing: with the token and the data
it needs at the head of their queues, and a credit and a free register at each output it drives, a unit fires once in a cycle, popping the
token and the data that the table names, its flits entering the output registers. Without them it does not fire (R195). -/
def Obligations.SteeringUnitsFireByTheirToken : Prop :=
  ∀ (b u t : Nat) (ts : List Nat) (f : Firing) (s : State), b < 576 → u < 8 → let x := s.dev.steer b u
    (firing 1 0 = some ⟨true, false, some 0, none⟩ ∧ firing 1 1 = some ⟨true, false, none, some 0⟩ ∧
      firing 1 2 = some ⟨true, false, some 0, some 0⟩ ∧ firing 1 3 = some ⟨true, false, none, none⟩ ∧
      (∀ k, firing 2 (2 * k) = some ⟨true, false, some 0, none⟩ ∧ firing 2 (2 * k + 1) = some ⟨false, true, some 1, none⟩ ∧
        firing 3 (2 * k) = some ⟨true, true, some 0, none⟩ ∧ firing 3 (2 * k + 1) = some ⟨true, true, some 1, none⟩)) ∧
    (x.token = [] → exec (.steeringFire b u) s = .next s) ∧
    (x.token = t :: ts → firing (steerWord (s.dev.frame b) u).1 t = some f →
      let ok := (!f.pop0 || !x.data0.isEmpty) && (!f.pop1 || !x.data1.isEmpty) && (f.to0.isNone || s.dev.outFree b u 0)
        && (f.to1.isNone || s.dev.outFree b u 1)
      (ok = false → exec (.steeringFire b u) s = .next s) ∧
      (ok = true → s.dev.lit = true → x.firedAt ≠ s.dev.now + 1 →
        let d := if f.to0.isSome then s.dev.sendOut b u 0 else s.dev
        let d := if f.to1.isSome then d.sendOut b u 1 else d
        let flit (k : Option Nat) (old : Option (Nat × Row)) : Option (Nat × Row) := match k with
          | some k => some (s.dev.now, (if k = 0 then x.data0 else x.data1).headD 0)
          | none => old
        exec (.steeringFire b u) s = .next { s with dev := { (d.modSteer b u fun y =>
          { y with
            token := ts, data0 := if f.pop0 then y.data0.drop 1 else y.data0, data1 := if f.pop1 then y.data1.drop 1 else y.data1
            out0 := flit f.to0 y.out0, out1 := flit f.to1 y.out1
            cred0 := if f.to0.isSome then y.cred0 - 1 else y.cred0, cred1 := if f.to1.isSome then y.cred1 - 1 else y.cred1
            firedAt := s.dev.now + 1 }) with now := s.dev.now } }))

/-- Runner packets move buffer by buffer (R196, R198, R199): from the injection buffer on the lane that the fault map leaves, over a link
when the rotation serves its input and the next buffer has room, off row 0 into the router, and into the ejection buffer of their Stall;
a malformed packet is dropped and counted; an uncorrectable one never arrives (R181). The ejection head meets the fixed order (R86, R88,
R201): BAD_UNIT where no configured queue takes its tag, CLOSED, STALE, a wait while the queue is full, else it enters the queue, COUNT
increases, and the Stall goes on; while the block is tested it goes to the tile's Trestle core (R458). An event packet is counted
instead (R203). -/
def Obligations.RunnerPacketsHopAndEject : Prop :=
  (∀ (b port lane : Nat) (p : RPkt) (rest : List RPkt) (s : State), b < 576 → lane < 2 → s.dev.lit = true → let d := s.dev
    let on (g : Dev) : Host.Outcome State Fault Refusal := .next { s with dev := { g with now := d.now } }
    (port < 5 → d.inbuf b port lane = p :: rest → p.at_ ≤ d.now → let h := (d.hopOf b p).1
      let q := (d.hopOf b p).2
      let popped := d.modInbuf b port lane fun _ => rest
      let served (out : Nat) : Prop := (rotation ((d.block b).sw.lastIn.get out)).find? (d.wants b out) = some (port, lane)
      (h = .malformed → ∀ ecc, exec (.runnerHop b port lane ecc) s = on (popped.bump 0x6030 b 60)) ∧
      (∀ e, h = .drop e → ∀ ecc, exec (.runnerHop b port lane ecc) s = on (popped.dropWith b p e)) ∧
      (∀ out ecc, h.out = some out → ¬ served out → exec (.runnerHop b port lane ecc) s = .next s) ∧
      (∀ o, h = .link o → served o → let g := popped.modSw b fun x => { x with lastIn := x.lastIn.set o port }
        let g := g.modSw b fun x => { x with lastOut := x.lastOut.set o (d.turn + 1) }
        (∀ nb, neighbour b o = some nb → exec (.runnerHop b port lane .clean) s =
            on (g.modInbuf nb (opposite o) q.lane fun l => l ++ [{ q with at_ := d.now + linkTime b o }])
          ∧ exec (.runnerHop b port lane .corrected) s = on (((g.bump 0x6030 nb (56 + opposite o)).corrected 2 nb).modInbuf nb (opposite o)
              q.lane fun l => l ++ [{ q with at_ := d.now + linkTime b o }])
          ∧ exec (.runnerHop b port lane .uncorrectable) s = on (g.unitError 0x04 2 nb [] 0 0)) ∧
        (neighbour b o = none → ∀ ecc, exec (.runnerHop b port lane ecc) s = on (g.modElv fun e =>
          { e with nextOut := e.nextOut + 1, outq := e.outq ++
            [{ id := e.nextOut, pkt := { op := 0x07, ddev := q.ddev, len := 64 }, src := .none, at_ := d.now, runner := some q }] }))) ∧
      (∀ n ecc, h = .eject n → served (4 + n % 4) → exec (.runnerHop b port lane ecc) s =
        on ((popped.modSw b fun x => { x with lastIn := x.lastIn.set (4 + n % 4) port }).modStall n fun x =>
          { x with ej := x.ej ++ [{ q with at_ := d.now }] })) ∧
      (∀ u ecc, h = .tile u → served (8 + u % 4) → exec (.runnerHop b port lane ecc) s =
        let g := popped.modSw b fun x => { x with lastIn := x.lastIn.set (8 + u % 4) port }
        on { g with trestles := g.trestles.mod u fun t => { t with queue := t.queue ++ [q.msg d.now] } })) ∧
    (5 ≤ port → port < 9 → ∀ ecc, let n := 4 * b + (port - 5)
      (d.stall n).inj = p :: rest → p.at_ < d.now → let popped := d.modStall n fun x => { x with inj := rest }
      (d.headsFor b p = none → exec (.runnerHop b port lane ecc) s = on (popped.dropWith b p 3)) ∧
      (∀ t, d.headsFor b p = some t →
        (d.clearPath (routePath b t true) = false → d.clearPath (routePath b t false) = false →
          exec (.runnerHop b port lane ecc) s = on (popped.dropWith b p 4)) ∧
        (∀ l, d.chooseLane b t = some l → (d.inbuf b 4 l).length < 4 → exec (.runnerHop b port lane ecc) s =
          on (popped.modInbuf b 4 l fun x => x ++ [{ p with lane := l, at_ := d.now + 1 }]))))) ∧
  (∀ (n : Nat) (p : RPkt) (rest : List RPkt) (s : State), n < 2304 → let d := s.dev
    let on (g : Dev) : Host.Outcome State Fault Refusal := .next { s with dev := { g with now := d.now } }
    let popped := d.modStall n fun x => { x with ej := rest }
    (d.stall n).ej = p :: rest → p.at_ < d.now →
    (p.kind = 1 → exec (.runnerEjection n) s = on (popped.countEvent n p)) ∧
    (p.kind ≠ 1 → (d.block (n / 4)).testing = true → exec (.runnerEjection n) s = if (d.trestles.get n).queue.length < 8
      then on { popped with trestles := popped.trestles.mod n fun t => { t with queue := t.queue ++ [p.msg d.now] } } else .next s) ∧
    (p.kind ≠ 1 → (d.block (n / 4)).testing = false →
      ((d.stall n).queueOf p = none → exec (.runnerEjection n) s = on (popped.dropWith (n / 4) p 3)) ∧
      (∀ i, (d.stall n).queueOf p = some i → let q := (d.stall n).queues.get i
        (q.size = 0 → exec (.runnerEjection n) s = on (popped.dropWith (n / 4) p 3)) ∧
        (q.size ≠ 0 → q.isOpen = false → exec (.runnerEjection n) s = on (popped.dropWith (n / 4) p 1)) ∧
        (q.size ≠ 0 → q.isOpen = true → p.qinc ≠ q.inc → exec (.runnerEjection n) s = on (popped.dropWith (n / 4) p 2)) ∧
        (q.size ≠ 0 → q.isOpen = true → p.qinc = q.inc →
          (q.size ≤ q.taken d.now → exec (.runnerEjection n) s = .next s) ∧
          (q.taken d.now < q.size → let q' : RQueue := { q with msgs := q.msgs ++ [p.msg d.now] }
            exec (.runnerEjection n) s = on ((((popped.rouse (n / 4)).modStall n fun x =>
              { x with queues := (d.stall n).queues.set i q' }).bump 0x6010 n (3 * i)).kick n))))))

/-! ## The Concourse -/

/-- What a slice does with the request that is next in its order, its code clean, its line not poisoned, and no read of the line pending
that has failed (R215, R231 to R234): a read answers with the bytes of memory; a write stores its bytes and no others; a word atomic stores
what its operation gives and answers with the old value; a line add stores the elementwise sum of its line. Nothing else changes in
memory. -/
def Obligations.SlicesPerformRequests : Prop :=
  ∀ (id : Nat) (r : CReq) (s : State), (s.dev.target r = .hbm ∨ s.dev.target r = .lpddr) →
    s.dev.conc.poison.contains (r.off / 64 * 64) = false →
    let answers (t : State) (res : Bytes) (flags : BitVec 32) : Prop :=
      t.dev.creq id = some { r with status := some stOk, result := res, flags := flags, doneAt := s.dev.now }
    let stores (t : State) (bs : Bytes) : Prop := t.dev.memAt r.off bs.length = bs
      ∧ ∀ a n, (a + n ≤ r.off ∨ r.off + bs.length ≤ a) → t.dev.memAt a n = s.dev.memAt a n
    (s.dev.arrives id .read = some r → (∀ q ∈ s.dev.conc.reads.get (sliceOf r.off), q.line = r.off / 64 → q.bad = false) →
      ∃ t, exec (.sliceRead id .clean) s = .next t ∧ answers t (s.dev.memAt r.off r.len) r.flags
      ∧ t.dev.mem = s.dev.mem) ∧
    (s.dev.arrives id .write = some r → ∃ t, exec (.sliceWrite id .clean) s = .next t ∧ answers t [] r.flags ∧ stores t r.data) ∧
    (s.dev.arrives id .atomic = some r → atomOk r.aop r.aw r.off = true → let n := if r.aw then 8 else 4
      let old := s.dev.memVal r.off n
      let v := atomicOp r.aop (8 * n) old (r.op1 % 2 ^ (8 * n)) (r.op2 % 2 ^ (8 * n))
      ∃ t, exec (.wordAtomic id .clean) s = .next t ∧ answers t (leBytes n old) (BitVec.ofNat 32 v.2) ∧ stores t (leBytes n v.1)) ∧
    (s.dev.arrives id .lineAdd = some r → let v := addLine r.afmt (s.dev.memAt r.off 64) r.data
      ∃ t, exec (.lineAdd id .clean) s = .next t ∧ answers t [] (BitVec.ofNat 32 v.2) ∧ stores t v.1)

/-- Requests that memory does not perform (R151, R159, R175, R215, R216, R233, R235, R237): an offset that names nothing is answered
UNMAPPED; an atomic or a line add at a Chest window, and an atomic that is misaligned or of a reserved operation, UNSUPPORTED; a read of a
poisoned line, and one that merges with a read that failed (R232), MEM_UE; each without an effect on memory. A read or write at a Chest
window becomes a row request of port CRD or CWR there, or is answered CHEST_OFF where its bank has no shelf or no power. -/
def Obligations.RequestsThatMemoryTurnsAway : Prop :=
  ∀ (id : Nat) (r : CReq) (ecc : Ecc) (s : State), let d := s.dev
    let turnsAway (i : Instr) (st : Nat) : Prop := exec i s = .next { s with dev := { d.answer id st with now := d.now } }
    (d.target r = .unmapped →
      (d.arrives id .read = some r → turnsAway (.sliceRead id ecc) stUnmapped) ∧
      (d.arrives id .write = some r → turnsAway (.sliceWrite id ecc) stUnmapped) ∧
      (d.arrives id .atomic = some r → turnsAway (.wordAtomic id ecc) stUnmapped) ∧
      (d.arrives id .lineAdd = some r → turnsAway (.lineAdd id ecc) stUnmapped)) ∧
    ((d.target r = .hbm ∨ d.target r = .lpddr) → d.arrives id .atomic = some r → atomOk r.aop r.aw r.off = false →
      turnsAway (.wordAtomic id ecc) stUnsupported) ∧
    (d.target r = .hbm → r.off < lpBase → d.conc.poison.contains (r.off / 64 * 64) = true →
      (∀ q ∈ d.conc.reads.get (hbmSlice r.off), q.line = r.off / 64 → q.bad = true) → d.arrives id .read = some r →
      ∃ t, exec (.sliceRead id ecc) s = .next t ∧ (t.dev.creq id).bind (·.status) = some stMemUe ∧ t.dev.mem = d.mem) ∧
    (∀ c a, d.target r = .chest c a →
      (d.arrives id .atomic = some r → turnsAway (.wordAtomic id ecc) stUnsupported) ∧
      (d.arrives id .lineAdd = some r → turnsAway (.lineAdd id ecc) stUnsupported) ∧
      (let g := d.rouse (c / 4)
       let u : AccUnit := { stamped := r.eff.isSome, eff := r.eff, hold := r.hold, release := r.release, left := 1 }
       let asked (q : RowReq) : Dev := ((g.newUnit c u).2.modReq r.id fun x => { x with arrived := true }).pushReq c
         (if q.isWrite then pCwr else pCrd) q
       (g.chestIsOff c (a / 64) = true → d.arrives id .read = some r → exec (.sliceRead id ecc) s = .next { s with dev :=
         { g.answer r.id stChestOff with now := d.now } }) ∧
       (g.chestIsOff c (a / 64) = true → d.arrives id .write = some r → exec (.sliceWrite id ecc) s = .next { s with dev :=
         { g.answer r.id stChestOff with now := d.now } }) ∧
       (g.chestIsOff c (a / 64) = false → d.arrives id .read = some r → exec (.sliceRead id ecc) s = .next { s with dev :=
         { asked { row := a / 64, unit := d.nextId, sink := .creq r.id, since := d.now } with now := d.now } }) ∧
       (g.chestIsOff c (a / 64) = false → d.arrives id .write = some r → exec (.sliceWrite id ecc) s = .next { s with dev :=
         { asked { row := a / 64, unit := d.nextId, isWrite := true, data := rowAt (a % 64) r.data, mask := byteMask (a % 64) r.len,
                   sink := .creq r.id, since := d.now, waitHeld := r.waitHeld } with now := d.now } }))) ∧
    (∀ q, (d.target r = .hbm ∨ d.target r = .lpddr) → d.arrives id .read = some r →
      ((d.conc.reads.get (sliceOf r.off)).filter fun q => decide (r.came ≤ q.at_ + 90)).find?
        (fun q => q.line == r.off / 64 && (q.timed || !r.timed)) = some q → q.bad = true →
      ∃ t, exec (.sliceRead id ecc) s = .next t ∧ (t.dev.creq id).bind (·.status) = some stMemUe ∧ t.dev.mem = d.mem)

/-- Transfer instances start at their trigger (R91, R229, R247): the beat turn, the bell latch or the task start of a front descriptor,
and the turn of a preload. A bell latch fires every descriptor of the front shelf that names its line, and clears; a ring that arrives in
this cycle sets it again. The instance enters the queue of its class, with the effective stamp of that cycle; a full queue of 8 faults
the context with TRANSFER_OVERRUN. -/
def Obligations.TransfersStartAtTheirTrigger : Prop :=
  (∀ (b k c : Nat) (desc : Bytes) (g : Dev), let x := xferD desc
    let q := if x.timed then (g.block b).xfer.timedQ else (g.block b).xfer.bulkQ
    (8 ≤ q.length → g.newInst b k desc c = g.faultCtx c 0x000D (0x1000 + 4 * b + x.chest) k) ∧
    (q.length < 8 → g.newInst b k desc c =
      let i : XInst := { id := g.nextId, didx := k, desc := desc, eff := effStamp x.stamp (g.beatB b), ctx := c, trigAt := g.now }
      (({ g with nextId := g.nextId + 1 } : Dev).rouse b).modXfer b fun y =>
        if x.timed then { y with timedQ := y.timedQ ++ [i] } else { y with bulkQ := y.bulkQ ++ [i] })) ∧
  ∀ (b k l c : Nat) (desc : Bytes) (s : State), b < 576 → (s.dev.block b).awake = true → let d := s.dev
    let x := xferD desc
    let fires (g : Dev) : Prop := exec (.transferTrigger b k) s = .next { s with dev := { g with now := d.now } }
    (k < 16 → (d.shelf b).transfers[k]? = some desc → d.lotOf b = some l → d.frontOf b = some c →
      (d.block b).xfer.justFired k d.now = false →
      (x.trig = 0 → (d.lot l).beat.active = true → d.now = (d.lot l).beat.start + 8 * x.targ → fires (d.newInst b k desc c)) ∧
      (x.trig = 1 → let line := bits x.targ 4 0
        let mark : BitVec 32 := BitVec.ofNat 32 (2 ^ line)
        (d.block b).xfer.latch.getLsbD line = true →
        fires ((d.shelf b).transfers.zipIdx.foldl (fun g p =>
            if (xferD p.1).trig = 1 ∧ bits (xferD p.1).targ 4 0 = line then g.newInst b p.2 p.1 c else g)
          (d.modXfer b fun y => { y with latch := (y.latch &&& ~~~ mark) ||| (y.again &&& mark), again := y.again &&& ~~~ mark }))) ∧
      (x.trig = 2 → (d.stall (4 * b + x.chest)).task.isSome = true → (d.stall (4 * b + x.chest)).beatStart = d.now →
        fires (d.newInst b k desc c))) ∧
    (∀ rest, k < 16 → (d.block b).xfer.preWait = k :: rest → (d.backShelf b).transfers[k]? = some desc → d.lotOf b = some l →
      (d.block b).xfer.bulkQ.length < 8 → exec (.transferTrigger b (16 + k)) s = .next { s with dev :=
        { ({ d.rouse b with nextId := d.nextId + 1 } : Dev).modXfer b (fun y =>
            { y with
              preWait := rest
              bulkQ := y.bulkQ ++ [{ id := d.nextId, didx := k, desc := desc, eff := x.stamp, ctx := (d.lot l).back.ctx, preload := true,
                                     trigAt := d.now }] }) with now := d.now } })

/-- Transfers walk their lines (R219, R229, R230, R235, R244): the first instance of a queue with lines left issues the next, one of the
queue in a cycle: from memory at once, toward memory after a read of its Chest row; a pooled line goes by its entry in the block's
translation cache, whose miss reads the entry from memory first, while a commit of the context holds such reads back. A reply whose data
the port's arbitration lets pass goes to its line: not OK, it faults the context with MEM_FAULT, which names the descriptor, the line, the
address and the status; with a reply for every line the instance leaves its queue, and rings DLINE where DONEB is set. A parity error of
the engine faults the contexts with work in it (R454). At an arbitration point VC 0 goes before the others, but of eight grants a lower VC
that waits gets one, and ports of equal priority take turns. -/
def Obligations.TransfersWalkTheirLines : Prop :=
  (∀ (turn : Nat × Nat) (l : List CReq) (r : CReq), pickNext turn l = some r →
    r ∈ l ∧ ((∃ q ∈ l, q.vc = 0) → (r.vc ≠ 0 ↔ 7 ≤ turn.1 ∧ ∃ q ∈ l, q.vc ≠ 0)) ∧
    ∀ q ∈ l, (q.vc = 0 ↔ r.vc = 0) → (r.port + 1024 - turn.2) % 1024 ≤ (q.port + 1024 - turn.2) % 1024) ∧
  ∀ (b id : Nat) (timed : Bool) (i : XInst) (s : State), b < 576 → let d := s.dev
    let x := xferD i.desc
    let on (g : Dev) : Host.Outcome State Fault Refusal := .next { s with dev := { g with now := d.now } }
    let q := if timed then (d.block b).xfer.timedQ else (d.block b).xfer.bulkQ
    let hit := d.pooledLine b i.ctx x i.next
    ((d.block b).island = .run → d.engineTested 10 b = false → q.any (fun j => j.lastIssue == d.now + 1) = false →
      q.find? (fun j => !j.stopped && decide (j.next < (xferD j.desc).lines)) = some i →
      let g := d.modInst b i.id fun j => { j with next := i.next + 1, lastIssue := d.now + 1, isPending := false, missAt := none }
      (∀ a, ((x.pooled = false ∧ a = x.lineAddr i.next) ∨ ∃ m, x.pooled = true ∧ hit = .at_ m ∧ a = m + 2 ^ 44 * 0x3FFF) →
        (x.dir = 0 → exec (.transferLineIssue ⟨b, false⟩ timed) s = on (g.access a (i.lineReq b i.next []))) ∧
        (x.dir ≠ 0 → exec (.transferLineIssue ⟨b, false⟩ timed) s =
          (let u : AccUnit := { stamped := true, code := x.stamp, eff := some i.eff, release := x.release, left := 1, ctx := some i.ctx }
           on ((g.newUnit (4 * b + x.chest) u).2.pushReq (4 * b + x.chest) pCrd
             { row := x.lineRow i.next, unit := d.nextId, sink := .xferRead b i.id i.next a, since := d.now })))) ∧
      (x.pooled = true → hit = .invalid → exec (.transferLineIssue ⟨b, false⟩ timed) s = on (g.lineReply b i.id i.next stPoolInvalid 0)) ∧
      (x.pooled = true → hit = .moving →
        ((i.reading = true ∨ d.pool.busy.any (fun w => w.2.2 == i.ctx) = true) → exec (.transferLineIssue ⟨b, false⟩ timed) s = .next s) ∧
        (∀ p slot page line, i.reading = false → d.pool.busy.any (fun w => w.2.2 == i.ctx) = false → d.poolD i.ctx = some p →
          x.pooledRef i.next = some (slot, page, line) → exec (.transferLineIssue ⟨b, false⟩ timed) s =
            on (((d.modInst b i.id fun j =>
                { j with lastIssue := d.now + 1, isPending := true, reading := true, missAt := some d.now }).bump 0x6030 b 66).cReq
              { id := 0, src := .trans b i.id (transKey i.ctx slot page), kind := .read, off := p.entryAt slot page, len := 8,
                timed := x.timed && !i.preload, port := b, cls := .fw })))) ∧
    (d.lit = true → (d.block b).island = .run → exec (.transferLineIssue ⟨b, true⟩ timed) s = on (d.engineParity 10 b (0x1000 + 4 * b)
      (((d.block b).xfer.timedQ ++ (d.block b).xfer.bulkQ).map fun j => j.ctx))) ∧
    (∀ r st, d.creq id = some r → r.status = some st →
      (d.replyGoes r = false → exec (.concourseReply id) s = .next s) ∧
      (d.replyGoes r = true → d.xinst b i.id = some i →
        let g := ((d.replyPasses r).modConc fun c => { c with reqs := c.reqs.filter fun y => y.id != id }).countLate r
        (∀ k, r.src = .xfer b i.id k →
          ((st ≠ 0 ∨ x.dir ≠ 0) → exec (.concourseReply id) s = on (
            let y := g.modInst b i.id fun j => { j with replies := j.replies + 1, flags := j.flags ||| r.flags }
            let a := if x.pooled then ((x.addr : Int) + x.disp k).toNat else x.lineAddr k
            if st = 0 then y
            else y.faultCtx i.ctx (if i.preload then 0x0015 else 0x000E) (4 * b + x.chest + 0x1000) i.didx 0 (.access i.didx k a st))) ∧
          (st = 0 → x.dir = 0 → exec (.concourseReply id) s = on (g.xferData b i.id k r.result r.lateMark))) ∧
        (∀ key, r.src = .trans b i.id key → st = 0 → let e := BitVec.ofNat 64 (leVal r.result)
          e.getLsbD 2 = false → d.pool.busy.any (fun w => w.2.2 == i.ctx) = false →
          ∃ t, exec (.concourseReply id) s = .next t ∧ (t.dev.block b).xfer.tcache.get key = some e))) ∧
    (d.xinst b id = some i → i.replies = (if i.stopped then i.next else x.lines) →
      let g := d.modXfer b fun y => { y with timedQ := dropFirst (fun j => j.id = id) y.timedQ,
                                             bulkQ := dropFirst (fun j => j.id = id) y.bulkQ }
      let g := if i.flags = 0 then g else g.joinSummary i.ctx i.flags
      exec (.transferInstanceComplete b id) s = on (if x.doneb = true ∧ i.stopped = false then g.ringLine x.dline else g))

/-- The patrol scrubber (R237): it reads the next line of its slice and no other, and goes on to the one after, from the last line to the
first; memory stays as it is; a line that cannot be corrected is poisoned and raises an error of its slice. -/
def Obligations.ThePatrolReadsEveryLineInTurn : Prop :=
  ∀ (slice line : Nat) (ecc : Ecc) (s : State), slice < 128 → s.dev.lit = true →
    (s.dev.conc.patrolAt.get slice ≠ line → exec (.hbmPatrolScrub slice line ecc) s = .next s) ∧
    (s.dev.conc.patrolAt.get slice = line → ∃ t, exec (.hbmPatrolScrub slice line ecc) s = .next t ∧ t.dev.mem = s.dev.mem
      ∧ t.dev.conc.patrolAt.get slice = (line + 1) % sliceLines
      ∧ (ecc = .uncorrectable → line < sliceLines → t.dev.conc.poison.contains (patrolOff slice line / 64 * 64) = true)) ∧
    (line < sliceLines → hbmSlice (patrolOff slice line) = slice ∧ patrolOff slice line < jobEnd + gib)

/-! ## The fabric -/

/-- Elveel ports come up and go down (R257 to R259, R272, R283, R284): light starts training at phase 1; each phase leads to the next,
phase 3 sends the link-up record, phase 5 takes the measured flight time and gives the peer the credits of the whole buffers, and phase 6
ends training; a missed bound fails the port, which tries again from phase 1 after 1 s; loss of
lock and LINK_DOWN mask a port, discarding what its buffers hold. The first link-up record that counts is answered with the selection of the
generation; the second sets the port: LOOP where the peer's identity is the own one, MGMT_ONLY where either end has no device number, DOWN
where the numbers are the same, UP otherwise, with what the record says of the peer. A record of another generation takes the port down. -/
def Obligations.PortsTrainAndMask : Prop :=
  (∀ (p flight : Nat) (s : State), p < 18 → let d := s.dev
    let x := d.port p
    let on (g : Dev) : Host.Outcome State Fault Refusal := .next { s with dev := { g with now := d.now } }
    let masked (st : PState) : Dev := (d.modPort p fun y => { y with
      st := st, phase := 0, replay := [], again := [], nak := false, tx := [], arb := {}, rx := [], part := [], due := [], rep := [],
      outst := [], full := [], records := 0, rxSeq := 4095, txSeq := 0 }).bumpPort p 21 x.held
    (x.st = .down → d.mayTrain p = true → exec (.portLightDetect p) s = on (d.modPort p fun y =>
      { y with st := .training, phase := 1, phaseAt := d.now, records := 0, full := [] })) ∧
    (d.missed p = false →
      ((x.phase = 1 ∨ x.phase = 2) → exec (.portTrainingPhase p flight) s = on (d.modPort p fun y =>
        { y with phase := x.phase + 1, phaseAt := d.now })) ∧
      (x.phase = 3 → exec (.portTrainingPhase p flight) s = on (((d.modPort p fun y => { y with phase := 4, phaseAt := d.now }).modPort p
        fun y => { y with rep := [0] }).emit (.linkRec p (d.linkRecord p 0)))) ∧
      (x.phase = 5 → ∃ t, exec (.portTrainingPhase p flight) s = .next t ∧ (∀ k, k < 16 →
          (t.dev.port p).due.get k = Config.linkBuffer (k / 2) (k % 2))
        ∧ t.dev.port p = { x with phase := 6, phaseAt := d.now, flight := min flight 250, due := (t.dev.port p).due }
        ∧ ∀ q, q ≠ p → t.dev.port q = d.port q) ∧
      (x.phase = 6 → exec (.portTrainingPhase p flight) s = on ((d.modPort p fun y => { y with phase := 0 }).storeEq p))) ∧
    (x.phase ≠ 0 → d.missed p = true → exec (.portTrainingTimeout p) s =
      on (((masked .failed).modPort p fun y => { y with failedAt := d.now }).linkFail p)) ∧
    (x.phase ≠ 0 → d.missed p = false → exec (.portTrainingTimeout p) s = .next s) ∧
    (x.st = .failed → d.mayTrain p = true → (x.failedAt + second ≤ d.now → exec (.portRetry p) s = on (d.modPort p fun y =>
        { y with st := .training, phase := 1, phaseAt := d.now, records := 0, full := [] }))
      ∧ (d.now < x.failedAt + second → exec (.portRetry p) s = .next s)) ∧
    (d.lit = true → x.st ≠ .down → x.st ≠ .failed → exec (.portLossOfLock p) s = on ((masked .down).linkFail p)) ∧
    (d.lit = true → (x.st = .up ∨ x.st = .mgmtOnly ∨ x.st = .loop) →
      exec (.linkDown p) s = on ((masked .down).event 0x1A [(32, 1, p), (34, 2, x.peerDev)]))) ∧
  (∀ (p : Nat) (r : Bytes) (s : State), p < 18 → (s.dev.port p).phase = 4 → s.dev.missed p = false → linkRecOk r = true →
    let dev := fld r 6 2
    let sets (st : PState) : Prop := ∃ t, exec (.linkUpRecord p r) s = .next t ∧ (t.dev.port p).st = st
      ∧ (t.dev.port p).peerDev = dev ∧ (t.dev.port p).peerInc = byte r 8 ∧ (t.dev.port p).peerIdent = BitVec.ofNat 64 (fld r 16 8)
    ((s.dev.port p).records = 0 → byte r 4 = 0 →
      (1 ≤ byte r 2 → byte r 3 ≤ 1 →
        let g := (s.dev.modPort p fun y => { y with records := 1, genSel := 1 }).emit (.linkRec p (s.dev.linkRecord p 1))
        exec (.linkUpRecord p r) s = .next { s with dev := g }) ∧
      ((byte r 2 = 0 ∨ 1 < byte r 3) → ∃ t, exec (.linkUpRecord p r) s = .next t ∧ (t.dev.port p).st = .down)) ∧
    ((s.dev.port p).records ≠ 0 → byte r 4 = 1 →
      (fld r 16 8 = s.dev.ident → sets .loop) ∧
      (fld r 16 8 ≠ s.dev.ident → (dev = 0x3FFF ∨ s.dev.elveel.devnum = 0x3FFF) → sets .mgmtOnly) ∧
      (fld r 16 8 ≠ s.dev.ident → dev ≠ 0x3FFF → s.dev.elveel.devnum ≠ 0x3FFF → dev = s.dev.elveel.devnum → sets .down) ∧
      (fld r 16 8 ≠ s.dev.ident → dev ≠ 0x3FFF → s.dev.elveel.devnum ≠ 0x3FFF → dev ≠ s.dev.elveel.devnum → sets .up)))

/-- Wire flits (R255, R256, R259, R261, R263): a data flit in order brings its packets to the router; VC 7 is dropped and its credit
returned, and a MGMT_ONLY port takes VC 6 alone; one out of order brings none. What the link header returns acts: an ACK frees the replay
buffer up to its SEQ, a NAK sends again what is left, and credits come back. A flit that is uncorrectable, or has a reserved field set, is
discarded, and a data flit answered with a NAK; more of them in 1 ms than the threshold retrain the port. Corrected symbols are counted. -/
def Obligations.WireFlitsArriveInOrder : Prop :=
  ∀ (p : Nat) (f : WireFlit) (s : State), p < 18 → f.payload.length = 256 → f.header < 2 ^ 72 →
    ((s.dev.port p).carries = true ∨ (s.dev.port p).st = .mgmtOnly) → let x := s.dev.port p
    let on (g : Dev) : Host.Outcome State Fault Refusal := .next { s with dev := { g with now := s.dev.now } }
    let d := if f.fec = .corrected then s.dev.bumpPort p 16 f.symbols else s.dev
    (f.fkind = 1 → f.fec ≠ .uncorrectable → f.bad = false → f.ackv = false → f.crcnt = 0 → f.nak = false →
      (f.seq ≠ (x.rxSeq + 1) % 4096 → exec (.wireFlitReceive p f) s = on d) ∧
      (f.seq = (x.rxSeq + 1) % 4096 → let g := (d.modPort p fun y => { y with rxSeq := f.seq }).bumpPort p (2 * f.vc + 1)
        let k := 2 * f.vc + f.cls
        (f.vc = 7 → exec (.wireFlitReceive p f) s = on ((g.bumpPort p 22).modPort p fun y => { y with due := y.due.mod k (· + 1) })) ∧
        (f.vc ≠ 7 → x.st ≠ .up → f.vc ≠ 6 → exec (.wireFlitReceive p f) s = on (g.modPort p fun y =>
          { y with due := y.due.mod k (· + 1) })) ∧
        (f.vc ≠ 7 → (x.st = .up ∨ f.vc = 6) → exec (.wireFlitReceive p f) s = on (g.takePackets p f)) ∧
        (let n := pktLen (sub f.payload 0 32)
         let e := epktOf (sub f.payload 0 32)
         f.vc ≠ 7 → (x.st = .up ∨ f.vc = 6) → x.part.get k = none → n ≤ 256 →
         (∀ i < 8, f.sop i = decide (i = 0) ∧ f.svalid i = decide (32 * i < n)) →
         let cand := if e.ddev = g.elveel.devnum then none else g.pickRoute f.vc e
         ((g.takePackets p f).port p).rx =
           x.rx ++ [{ vc := f.vc, cls := f.cls, bytes := f.payload.take n, credits := 1, cand := cand }]))) ∧
    (f.fkind ≠ 1 → f.fec = .clean → f.bad = false → ∃ t, exec (.wireFlitReceive p f) s = .next t ∧ (∀ q, q ≠ p → t.dev.port q = d.port q)
      ∧ let r := if f.ackv then x.replay.filter fun q => !covered q.seq f.ack else x.replay
        t.dev.port p = { x with
          replay := r, again := if f.nak then r.map (·.seq) else x.again
          full := if f.crcnt ≠ 0 ∧ x.phase = 6 then x.full.mod f.crKey (· + f.crcnt) else x.full
          outst := if f.crcnt ≠ 0 ∧ x.phase ≠ 6 then x.outst.mod f.crKey (· - f.crcnt) else x.outst }) ∧
    ((f.bad = true ∨ f.fec = .uncorrectable) → let near := s.dev.now < x.uncorrAt + msec
      let n := if near then x.uncorr + 1 else 1
      let g := s.dev.modPort p fun y => { y with uncorr := n, uncorrAt := (if near then x.uncorrAt else s.dev.now), nak := (y.nak || f.fkind == 1) }
      (n ≤ s.dev.entry 0x4002 1 → exec (.wireFlitReceive p f) s = on g) ∧
      (s.dev.entry 0x4002 1 < n → exec (.wireFlitReceive p f) s = on ((g.modPort p fun y => { y with uncorr := 0 }).retrainPort p)))

/-- Outgoing requests and replies (R249, R259, R275 to R280, R283): one for the own device is served there; the entry of a peer that is not
cached is read first; a peer that drains or is not there, or the own draining, refuses, but for MGMT and the events of runner messages;
else the packet is sent with its header filled in, takes a free transaction entry, and waits for its reply; with no entry free it waits.
A reply leaves by the route table, or over the port of its MGMT_ONLY peer. After the remote timeout a transaction completes with
REMOTE_TIMEOUT. A fill puts the entry into the cache; one that PEERINV has overtaken is read again (R276). -/
def Obligations.RequestsLeaveByThePeerTable : Prop :=
  ∀ (id : Nat) (o : OutReq) (s : State), let d := s.dev
    let on (g : Dev) : Host.Outcome State Fault Refusal := .next { s with dev := { g with now := d.now } }
    let far := o.pkt.ddev
    (d.elveel.outq.find? (fun q => q.id = id) = some o → d.lit = true → isReply o.pkt.op = false →
      ((d.heldBack o = true ∨ d.engineTested 7 0 = true) → exec (.outgoingRequest id) s = .next s) ∧
      (d.heldBack o = false → d.engineTested 7 0 = false →
        ((far = 0x3FFF ∨ far = d.elveel.devnum) → exec (.outgoingRequest id) s = on (d.serveOwn o)) ∧
        (far ≠ 0x3FFF → far ≠ d.elveel.devnum →
          (d.peerOf far = none → exec (.outgoingRequest id) s = on (d.askPeer far)) ∧
          (∀ p, d.peerOf far = some p → let g := d.touchPeer far
            let free : Prop := d.elveel.drain = .no ∨ o.pkt.op = opMgmt ∨ o.runner.any (fun q => q.kind == 1) = true
            let lone : Prop := o.pkt.op = opRunner ∨ o.pkt.op = opBell
            (p.state = 2 → exec (.outgoingRequest id) s = on (g.refuseOut o stDrained)) ∧
            (p.state ≠ 1 → p.state ≠ 2 → exec (.outgoingRequest id) s = on (g.refuseOut o stUnreachable)) ∧
            (p.state = 1 → ¬ free → exec (.outgoingRequest id) s = on (g.refuseOut o stDrained)) ∧
            (p.state = 1 → free → lone →
              (∀ t, g.route (g.selOf o) (g.filled o p.dinc 0) = .sent t → exec (.outgoingRequest id) s = on (t.dropOut o.id)) ∧
              (g.route (g.selOf o) (g.filled o p.dinc 0) = .unreachable →
                exec (.outgoingRequest id) s = on (g.refuseOut o stUnreachable))) ∧
            (p.state = 1 → free → ¬ lone → d.freeTids = [] → exec (.outgoingRequest id) s = on g) ∧
            (p.state = 1 → free → ¬ lone → d.freeTids ≠ [] →
              let i := d.freeTids.getD (Config.freeValue d.freeCount % d.freeTids.length) 0
              let tid := i + 2 ^ 14 * (d.elveel.reuse.get i % 4)
              let gone := ({ g with freeCount := d.freeCount + 1 } : Dev).route (g.selOf o) (g.filled o p.dinc tid)
              (gone = .unreachable → exec (.outgoingRequest id) s = on (g.refuseOut o stUnreachable)) ∧
              (∀ t, gone = .sent t → exec (.outgoingRequest id) s = on ((t.dropOut o.id).modElv fun e =>
                { e with
                  reuse := e.reuse.set i ((e.reuse.get i + 1) % 4)
                  txns := e.txns ++ [{ tid := tid, at_ := d.now, sinc := e.inc, ddev := far, op := o.pkt.op, src := o.src, req := o.id,
                                       late := o.remoteBound }] }))))))) ∧
    (d.elveel.outq.find? (fun q => q.id = id) = some o → d.lit = true → isReply o.pkt.op = true →
      let e := if o.pkt.op = opGetR then { o.pkt with aux := 0 } else o.pkt
      (∀ p, o.port = some p → exec (.outgoingRequest id) s = on ((d.dropOut o.id).sendOn p 6 0 { e with hops := 1 }.bytes)) ∧
      (o.port = none →
        (∀ t, d.route (d.selOf o) e = .sent t → exec (.outgoingRequest id) s = on (t.dropOut o.id)) ∧
        (d.route (d.selOf o) e = .unreachable → exec (.outgoingRequest id) s = on (d.dropOut o.id)))) ∧
    (∀ t, d.elveel.txns.find? (fun t => t.tid = id) = some t →
      (d.now ≤ t.at_ + d.remTo → exec (.remoteTimeout id) s = .next s) ∧
      (t.at_ + d.remTo < d.now → exec (.remoteTimeout id) s =
        on (((d.modElv fun v => { v with txns := v.txns.filter fun x => x.tid != id }).bumpFab 8).remoteDone t.src t.req stRemoteTimeout []))) ∧
    (id < 16384 → let x := d.peerEntry id
      (d.elveel.fills.find? (fun f => f.1 = id) = some (id, true) → exec (.peerCacheFill id) s =
        on (d.modElv fun e => { e with fills := e.fills.map fun f => if f.1 = id then (id, false) else f })) ∧
      ((d.elveel.fills.find? (fun f => f.1 = id) = some (id, false) ∨ (d.elveel.fills.find? (fun f => f.1 = id) = none ∧ d.lit = true
          ∧ d.peerOf id = none ∧ x.1.pin = true ∧ x.2 = true)) →
        exec (.peerCacheFill id) s = on ((if x.2 then d else d.bumpFab 12).modElv fun e =>
          { e with fills := e.fills.filter fun f => f.1 != id, cache := cachePut e.cache id x.1 })))

/-- Packets from a peer (R249 to R252, R259, R262, R275, R277, R280): a request at the head of its VC and class whose ECRC is its own,
whose fields, incarnation and peer entry pass, and whose sender's entry is cached, has its effect: a memory request is served at the
Concourse, a BELL rings the line, a RUNNER and a STORE to the unit space enter the grid when it has room, a MGMT packet and a LOAD of the
Ledger space go to the Ledger. One that fails a check, and one of an undefined opcode, is refused with its status and counted, one with a
bad ECRC dropped; while the sender's entry is not cached it waits for the read. A MGMT_ONLY port serves MGMT without a peer entry. A reply
completes the transaction entry that its TID names, which frees, and its status and data go to the one that asked; one whose fields are
bad, whose entry is gone, of another opcode or of an earlier incarnation, is stale: dropped and counted; a timed one that is late counts
(R266). -/
def Obligations.PacketsFromPeersHaveTheirEffect : Prop :=
  (∀ (bs : Bytes) (p vc : Nat) (t : Dev) (s : State), let e := epktOf bs
    let on (g : Dev) : Host.Outcome State Fault Refusal := .next { s with dev := { g with now := s.dev.now } }
    let known : Prop := isRequest e.op = true ∨ isReply e.op = true
    let lone : Prop := (s.dev.port p).st = .mgmtOnly ∧ vc = 6
    s.dev.lit = true → s.dev.engineTested 7 0 = false → s.dev.takeRx bs = some (p, vc, t) →
    (∀ c ∈ [(Instr.load bs, opLoad), (.store bs, opStore), (.atomic bs, opAtomic), (.lineadd bs, opLineadd), (.put bs, opPut),
        (.get bs, opGet), (.runner bs, opRunner), (.bell bs, opBell), (.mgmt bs, opMgmt)],
      (e.op ≠ c.2 → known → exec c.1 s = .next s) ∧
      ((e.op = c.2 ∨ ¬ known) → ¬ lone → e.ddev ≠ s.dev.elveel.devnum → exec c.1 s = .next s) ∧
      ((e.op = c.2 ∨ ¬ known) → ¬ lone → e.ddev = s.dev.elveel.devnum →
        (ecrcOk bs = false → exec c.1 s = on t.ecrcDrop) ∧
        (ecrcOk bs = true → ∀ st, s.dev.checkArrival e false = some st → exec c.1 s = on (t.refuseArrival e st none)) ∧
        (ecrcOk bs = true → ¬ known → exec c.1 s = on (t.refuseArrival e stUnmapped none))) ∧
      (e.op = c.2 → ¬ lone → e.ddev = s.dev.elveel.devnum → ecrcOk bs = true → s.dev.checkArrival e false = none →
        (s.dev.peerOf e.sdev = none → exec c.1 s = on (s.dev.askPeer e.sdev)) ∧
        (∀ q, (s.dev.peerOf e.sdev).isSome = true → e.brings = some q → s.dev.gridRoom q = false → exec c.1 s = .next s) ∧
        ((s.dev.peerOf e.sdev).isSome = true → (∀ q, e.brings = some q → s.dev.gridRoom q = true) → let g := t.touchPeer e.sdev
          let space := bits e.addr 63 62
          let words : Prop := e.len ∈ ([4, 8, 12, 16] : List Nat) ∧ e.payload.length = e.len
          let entry : Prop := e.len ∈ ([4, 8, 16, 32, 64] : List Nat) ∧ e.payload = []
          (c.2 = opBell → exec c.1 s = on { g with bells := g.bells ++ [{ line := e.aux % 32, due := g.now + 12 }] }) ∧
          (c.2 = opRunner → exec c.1 s = on (g.enterGrid { rpktOf e.payload with sdev := e.sdev })) ∧
          (c.2 = opMgmt → e.payload.length = e.len → 16 ≤ e.len → e.len ≤ 1024 →
            exec c.1 s = on (g.lapServe (if byte e.payload 3 = 1 then 1 else 2) (.elveel e.sdev e.tid) e.payload e none)) ∧
          (c.2 = opMgmt → (e.payload.length ≠ e.len ∨ e.len < 16 ∨ 1024 < e.len) → exec c.1 s = on (g.sendReply e stUnsupported [])) ∧
          (c.2 = opStore → space = 1 → words → exec c.1 s = on ((g.enterGrid e.runnerOf).sendReply e stOk [])) ∧
          (c.2 = opLoad → space = 2 → entry → exec c.1 s = on (g.peerLoad e)) ∧
          (c.2 = opStore → space = 2 → exec c.1 s = on (g.sendReply e
            (if indexKnown (bits e.addr 23 8) && (entryInfo (bits e.addr 23 8) (bits e.addr 7 0)).isSome then stPeerDenied
             else stUnmapped) [])) ∧
          (c.2 ≤ opGet → (space = 1 ∧ ¬ (c.2 = opStore ∧ words) ∨ space = 2 ∧ c.2 ≠ opStore ∧ ¬ (c.2 = opLoad ∧ entry)
              ∨ space = 0 ∧ e.shapeOk = false) → exec c.1 s = on (g.sendReply e stUnsupported [])) ∧
          (c.2 ≤ opGet → space = 0 → e.shapeOk = true → exec c.1 s = on (g.serve e none))))) ∧
    (lone → e.op = opMgmt → ecrcOk bs = true →
      (∀ st, s.dev.checkArrival e true = some st → exec (.mgmt bs) s = on (t.refuseArrival e st (some p))) ∧
      (s.dev.checkArrival e true = none → e.payload.length = e.len → 16 ≤ e.len → e.len ≤ 1024 → exec (.mgmt bs) s =
        on (t.lapServe (if byte e.payload 3 = 1 then 1 else 2) (.elveel e.sdev e.tid) e.payload e (some p))))) ∧
  (∀ (bs : Bytes) (p vc : Nat) (g : Dev) (s : State), let e := epktOf bs
    let on (g : Dev) : Host.Outcome State Fault Refusal := .next { s with dev := { g with now := s.dev.now } }
    s.dev.lit = true → s.dev.takeRx bs = some (p, vc, g) → e.ddev = s.dev.elveel.devnum →
    ∀ c ∈ [(Instr.loadR bs, opLoadR), (.comp bs, opComp), (.atomR bs, opAtomR), (.getR bs, opGetR), (.mgmtR bs, opMgmtR)],
    (e.op ≠ c.2 → exec c.1 s = .next s) ∧
    (e.op = c.2 → ecrcOk bs = false → exec c.1 s = on ((g.bumpFab 0).unitError 0x08 7 0 [] 0 0)) ∧
    (e.op = c.2 → ecrcOk bs = true → e.fieldsOk = false → exec c.1 s = on (g.bumpFab 7)) ∧
    (e.op = c.2 → ecrcOk bs = true → e.fieldsOk = true → let entry := g.elveel.txns.find? fun x => x.tid = e.tid ∧ replyOp x.op == c.2
      (entry = none → exec c.1 s = on (g.bumpFab 7)) ∧
      (∀ x, entry = some x → e.sinc ≠ g.elveel.inc → exec c.1 s = on (g.bumpFab 7)) ∧
      (∀ x, entry = some x → e.sinc = g.elveel.inc → let h := g.modElv fun v => { v with txns := v.txns.filter fun y => y.tid != e.tid }
        let inRow : Prop := ∃ b i k, x.src = .conc (.xfer b i k) ∧ e.status = 0 ∧ x.op = opLoad
        ((x.late = none ∨ (∃ u, x.late = some u ∧ s.dev.now ≤ u) ∨ inRow) →
          exec c.1 s = on (h.remoteDone x.src x.req e.status e.payload x.late)) ∧
        (∀ u, x.late = some u → u < g.now → ¬ inRow →
          exec c.1 s = on ((h.bumpFab 9).remoteDone x.src x.req e.status e.payload x.late)))))

/-- Transit (R268, R269, R271 to R273): of the transit packets at the heads of a port's VCs, in the order of the VCs (the model's choice,
notes/assumptions/67.md), the first goes to the output that its candidate gives: the one that its first flit chose, while that carries, else
the one that the table and the masks give now; it is sent with HOPS grown by one and no other byte changed. One with no usable candidate or
at the hop limit is lost with a reply, its credits going back. While the router is tested nothing moves (R460). -/
def Obligations.TransitPacketsAreForwarded : Prop :=
  (∀ bs : Bytes, 15 ≤ bs.length → (hopBytes bs).length = bs.length ∧ byte (hopBytes bs) 14 = (byte bs 14 + 1) % 256
    ∧ ∀ i, i ≠ 14 → byte (hopBytes bs) i = byte bs i) ∧
  ∀ (p : Nat) (q : RxPkt) (rest : List RxPkt) (s : State), p < 18 → s.dev.lit = true → let d := s.dev
    let on (g : Dev) : Host.Outcome State Fault Refusal := .next { s with dev := { g with now := d.now } }
    let gone := (d.modPort p fun x => { x with rx := dropFirst (fun r => r == q) x.rx }).modElv fun v => { v with lastTransit := d.now }
    let e := epktOf q.bytes
    let vc := vcOf e.op (q.vc - 4)
    let k := 2 * q.vc + q.cls
    let cand := (q.cand.filter fun c => (gone.port c.1).carries) <|> gone.pickRoute vc e
    let lost := (if q.credits ≠ 0 then gone.modPort p fun x => { x with due := x.due.mod k (· + q.credits) } else gone).transitLost q.bytes
    ((d.transits p = [] ∨ d.engineTested 7 0 = true) → exec (.routerForward p) s = .next s) ∧
    (d.transits p = q :: rest → d.engineTested 7 0 = false →
      (∀ c, e.hops < 31 → cand = some c → exec (.routerForward p) s =
        on (gone.sendOn c.1 vc (if c.2 then 1 else q.cls) (hopBytes q.bytes) (some (p, k, q.credits)))) ∧
      ((31 ≤ e.hops ∨ cand = none) → exec (.routerForward p) s = on lost))

/-- Draining and returning (R281, R283, R285): DRAIN is refused while a context is BOUND or FAULTED, else sends a notice on every port that
is UP; the neighbour marks its port and clears its routes; with every route clear, transit quiet for 100 µs and no transaction open the
device is DRAINED, no port up; UNDRAIN then takes the next incarnation, reads the device number again, and retrains from phase 2 the ports
that the drain took down. -/
def Obligations.DrainingLeavesAndReturns : Prop :=
  ∀ (p : Nat) (c : Cmd) (rest : List Cmd) (s : State), p < 18 → let d := s.dev
    let on (g : Dev) : Host.Outcome State Fault Refusal := .next { s with dev := { g with now := d.now } }
    let g := d.started mgmtRing c rest
    (d.mayStart mgmtRing 0x07 c rest →
      (d.ctxs.any (fun x => x.2.seated) = true → exec .drain s = on ((g.done mgmtRing d.nextId 0x4D []).pump mgmtRing pumpMax)) ∧
      (d.ctxs.any (fun x => x.2.seated) = false → let h := g.modElv fun e =>
          { e with
            drain := .draining, drainCmd := some d.nextId
            ports := e.ports.map fun q => (q.1, { q.2 with routeClear := false }) }
        exec .drain s = on ((each h.upPorts (fun p g => (g.emit (.ctl p 1)).modPort p fun x => { x with rep := [1] }) h).pump mgmtRing
          pumpMax))) ∧
    (d.lit = true → (d.port p).st = .up →
      let g := (d.modPort p fun y => { y with peerDraining := true }).event 0x19 [(32, 1, p), (34, 2, (d.port p).peerDev)]
      exec (.drainNotice p) s = on (if d.elveel.routesVia p then g else g.emit (.ctl p 2))) ∧
    (d.elveel.drain = .draining → (d.port p).st = .up →
      exec (.routeClear p) s = on (d.modPort p fun x => { x with routeClear := true, rep := [] })) ∧
    (d.elveel.drain = .draining → (∀ q < 18, (d.port q).st = .up → (d.port q).routeClear = true) →
      d.elveel.lastTransit + 100 * usec ≤ d.now → d.elveel.txns = [] →
      ∃ t, exec .drainComplete s = .next t ∧ t.dev.elveel.drain = .drained ∧ ∀ q, q < 18 → (t.dev.port q).st = .down) ∧
    (d.mayStart mgmtRing 0x08 c rest →
      (d.elveel.drain ≠ .drained → exec .undrain s = on ((g.done mgmtRing d.nextId 0x4E []).pump mgmtRing pumpMax)) ∧
      (d.elveel.drain = .drained → ∃ t, exec .undrain s = .next t ∧ t.dev.elveel.drain = .no ∧
        t.dev.elveel.inc = (d.elveel.inc + 1) % 256 ∧ t.dev.elveel.devnum = d.entry 0x4000 0 ∧ t.dev.elveel.undrainCmd = some d.nextId ∧
        ∀ q < 18, (d.port q).routeClear = true → (t.dev.port q).st = .retraining ∧ (t.dev.port q).phase = 2))

/-! ## Collectives -/

/-- The tree of reductions (R54, R300): every block of a level has one holder of each chunk, a member of the block; the last level's
block is the whole group, and rank c holds chunk c there. -/
def Obligations.TheTreeEndsAtTheChunksRank : Prop :=
  ∀ n, 1 ≤ n → (∀ k r c, r < n → let b := treeBlock n k r
      b.1 ≤ r ∧ r < b.1 + b.2 ∧ b.1 + b.2 ≤ n ∧ b.1 ≤ treeHolder b c ∧ treeHolder b c < b.1 + b.2) ∧
    (∀ r, r < n → treeBlock n 0 r = (r, 1) ∧ treeBlock n (treeLevels n) r = (0, n)) ∧
    (∀ k r, r < n → treeMerges n k r = true → let h := treeHalves n k r
      treeBlock n (k + 1) r = (h.1.1, h.1.2 + h.2.2) ∧ h.2.1 = h.1.1 + h.1.2) ∧
    ∀ c, c < n → treeHolder (0, n) c = c

/-- Collectives start and end (R91, R287, R292, R297 to R299): COLL_START is refused while the descriptor's collective is active or waits,
or where the descriptor is not accepted; with a slot free it starts and completes, else it waits. A start that waits goes on once there is
room; a latch of TLINE fires, and clears, but for a ring of the same cycle; with TRIG 10 the first offered row starts it; a start by bell
or row that is refused faults the context, as one that finds ABORT in CTRL does. When all has arrived, been computed and been answered,
the engine zeroes the signal block, joins the flags to the context's summary, rings DLINE, posts the record, and frees the slot, and not
before; ABORT in CTRL faults the context with COLL_ABORT, and a wait longer than the collective timeout with COLL_TIMEOUT, naming the step
and the rank. COLL_BUSY of a start by bell is given as COLL_BADDESC, the model's choice (notes/assumptions/66.md). -/
def Obligations.CollectivesStartAndEnd : Prop :=
  (∀ (r c didx : Nat) (e : Cmd) (rest : List Cmd) (s : State), r < 64 → c < 1024 → didx < 4096 → let d := s.dev
    let on (g : Dev) : Host.Outcome State Fault Refusal := .next { s with dev := { g with now := d.now } }
    let room (g : Dev) : Bool := g.collRoom c (collD (g.memAt (g.collOff c didx) 128))
    (d.mayStart r 0x17 e rest → d.ringCtx r = some c → bits (fld e.entry 8 2) 11 0 = didx → let g := d.started r e rest
      let waits := g.collActive c didx || g.coll.waiting.any fun w => w.1 == c && w.2.1 == didx
      let step := fld e.entry 16 7
      let h := g.modCtx c fun x => { x with step := step }
      (waits = true → exec (.collStart r) s = on ((g.done r d.nextId 0x52 []).pump r pumpMax)) ∧
      (waits = false → g.collAccepts c didx = false → exec (.collStart r) s = on ((g.done r d.nextId 0x51 []).pump r pumpMax)) ∧
      (waits = false → g.collAccepts c didx = true → room h = true →
        exec (.collStart r) s = on (((h.collBegin c didx step).done r d.nextId 0 []).pump r pumpMax)) ∧
      (waits = false → g.collAccepts c didx = true → room h = false → exec (.collStart r) s = on (({ h with coll :=
        { h.coll with waiting := h.coll.waiting ++ [(c, didx, step, some (r, d.nextId))] } }).pump r pumpMax))) ∧
    ((d.lit = false ∨ (d.ctx c).state ≠ .bound) → exec (.collectiveTrigger c didx) s = .next s) ∧
    (d.lit = true → (d.ctx c).state = .bound → (∀ step cmd,
        d.coll.waiting.find? (fun w => w.1 = c ∧ w.2.1 = didx) = some (c, didx, step, cmd) →
        let g := { d with coll := { d.coll with waiting := d.coll.waiting.filter fun w => !(w.1 == c && w.2.1 == didx) } }
        (room d = false → exec (.collectiveTrigger c didx) s = .next s) ∧
        (room d = true → d.collAccepts c didx = true → exec (.collectiveTrigger c didx) s = on (match cmd with
          | some (q, id) => (g.collBegin c didx step).done q id 0 []
          | none => g.collBegin c didx step)) ∧
        (room d = true → d.collAccepts c didx = false → exec (.collectiveTrigger c didx) s = on (match cmd with
          | some (q, id) => g.done q id 0x51 []
          | none => g.collFail c 0x0013 didx))) ∧
      (d.coll.waiting.find? (fun w => w.1 = c ∧ w.2.1 = didx) = none →
        let offered := (collD (d.memAt (d.collOff c didx) 128)).trig = 2 ∧ d.collActive c didx = false ∧ d.rowOffered c didx = true
        let g := { d with coll := if d.coll.latches.contains (c, didx) then d.coll.fired (c, didx) else d.coll }
        let lstep := (d.ctx c).lstep
        (d.coll.latches.contains (c, didx) = false → ¬offered → exec (.collectiveTrigger c didx) s = .next s) ∧
        (d.coll.latches.contains (c, didx) = true ∨ offered →
          (d.collActive c didx = true ∨ d.collAccepts c didx = false →
            exec (.collectiveTrigger c didx) s = on (g.collFail c 0x0013 didx)) ∧
          (d.collActive c didx = false → d.collAccepts c didx = true →
            (room g = true → exec (.collectiveTrigger c didx) s = on (g.collBegin c didx lstep)) ∧
            (room g = false → exec (.collectiveTrigger c didx) s =
              on { g with coll := { g.coll with waiting := g.coll.waiting ++ [(c, didx, lstep, none)] } }))))) ∧
    (d.coll.again.contains (c, didx) = false → (d.coll.fired (c, didx)).latches.contains (c, didx) = false) ∧
    (∀ k step, d.collSlot = some k → bit (d.sigVal (collD (d.memAt (d.collOff c didx) 128)) 0) 63 = true →
      d.collBegin c didx step = d.collFail c 0x0011 didx)) ∧
  (∀ (slot : Nat) (s : State), slot < 64 → s.dev.collAt slot = none →
    exec (.collComplete slot) s = .next s ∧ exec (.collAbort slot) s = .next s ∧ exec (.collTimeout slot) s = .next s) ∧
  (∀ (slot : Nat) (x : Coll) (s : State), slot < 64 → s.dev.collAt slot = some x → let d := s.dev
    let cd := collD x.desc
    let on (g : Dev) : Host.Outcome State Fault Refusal := .next { s with dev := { g with now := d.now } }
    (d.collOver x = false → exec (.collComplete slot) s = .next s) ∧
    (d.collOver x = true → let r := (d.ctx x.ctx).ring
      let g := (d.collPut cd.sig (zeros cd.sigLen)).joinSummary x.ctx x.flags
      let g := if cd.doneb then g.ringLine cd.dline else g
      let g := if cd.crec then (g.modRing r fun y => { y with reserved := y.reserved - 1 }).record r 3 0 0 x.didx
        (result [(32, 4, x.flags.toNat)]) else g
      exec (.collComplete slot) s = on ({ g with coll := { g.coll with active := g.coll.active.filter fun p => p.1 != slot } }.bump
        0x6050 x.ctx 13)) ∧
    (bit (d.sigVal cd 0) 63 = true → exec (.collAbort slot) s = on ((d.bump 0x6050 x.ctx 15).faultCtx x.ctx 0x0011 ioUnit x.didx)) ∧
    (bit (d.sigVal cd 0) 63 = false → exec (.collAbort slot) s = .next s) ∧
    (∀ at_ step rank, (d.collWaits x).find? (fun w => w.1 + x.limit < d.now) = some (at_, step, rank) → exec (.collTimeout slot) s =
      on ((d.bump 0x6050 x.ctx 16).faultCtx x.ctx 0x000F ioUnit x.didx 0 (.collWait x.didx step rank))) ∧
    ((∀ w ∈ d.collWaits x, d.now ≤ w.1 + x.limit) → exec (.collTimeout slot) s = .next s) ∧
    (∀ i p at_, x.sends[i]? = some p → p.since = some at_ → (at_, i, p.rank) ∈ d.collWaits x) ∧
    (∀ q ∈ d.elveel.txns, ∀ i, q.src = .collPut x.uid i → (q.at_, i, (x.sends.getD i default).rank) ∈ d.collWaits x))

/-- Pieces and signals (R54, R61, R63, R287, R289, R294, R296, R300 to R302, R304, R305, R308, R310, R454): the first piece whose data
stands, and whose CREDIT and DATA allow, is read in the class of CLASS; then its PUTs leave, and after all their COMPs one ATOMIC ADD goes
to the receiver's signal word, in the order of the pieces. A signal that has advanced is consumed, one piece at a time: of the tree, a merge
with both operands at hand is added with the lower ranks on the left; of the ring, the piece with the own input; a failed residue check
faults. A row of an epilogue is converted exactly into region P; a row out of the range faults, and one of a complete chunk is dropped.
A parity error faults the contexts of the engine's collectives, and the engine is tested. Where nothing may go, nothing does. -/
def Obligations.PiecesAndSignalsGoInOrder : Prop :=
  (∀ (slot word : Nat) (ok : Bool) (s : State), slot < 64 →
    let on (g : Dev) : Host.Outcome State Fault Refusal := .next { s with dev := { g with now := s.dev.now } }
    (s.dev.collAt slot = none → exec (.collPieceSend ⟨slot, false⟩) s = .next s ∧ exec (.collSignalSend slot) s = .next s ∧
      exec (.collPieceArrival slot word ok) s = .next s) ∧
    (s.dev.lit = true → exec (.collPieceSend ⟨slot, true⟩) s =
      on (s.dev.engineParity 9 0 ioUnit (s.dev.coll.active.map fun p => p.2.ctx))) ∧
    (s.dev.lit = false → exec (.collPieceSend ⟨slot, true⟩) s = .next s)) ∧
  (∀ (slot : Nat) (x : Coll) (s : State), slot < 64 → s.dev.collAt slot = some x → let d := s.dev
    let cd := collD x.desc
    let on (g : Dev) : Host.Outcome State Fault Refusal := .next { s with dev := { g with now := d.now } }
    let may (p : Piece) : Bool := p.state == 0 && x.dataReady p && decide (p.credit ≤ d.sigVal cd 1) && decide (p.data ≤ d.sigVal cd 2)
    (x.sends.findIdx? may = none → exec (.collPieceSend ⟨slot, false⟩) s = .next s) ∧
    (∀ i p, x.sends.findIdx? may = some i → x.sends[i]? = some p → exec (.collPieceSend ⟨slot, false⟩) s =
      on ((((d.modColl x.uid fun y => { y with sends := y.sends.modify i fun q => { q with state := 1, since := none } }).bump
        0x6050 x.ctx 17).bump 0x6050 x.ctx 19 p.bytes).collIssue x.uid (.piece i) (cd.pieceReqs p))) ∧
    (∀ i p bs, x.sends[i]? = some p → (∀ c, p.src ≠ .result c) → let runs := joinRuns (cd.pieceLines p bs)
      d.collPuts x cd i bs = each (runs.zip (flowsOf 0 none runs)) (fun q g => g.request (x.putPkt p q.2 q.1) (.collPut x.uid i))
        (d.modColl x.uid fun y => { y with sends := y.sends.modify i fun q =>
          { q with state := if runs.isEmpty then 2 else 1, left := runs.length } })) ∧
    (x.signalNext = none → exec (.collSignalSend slot) s = .next s) ∧
    (∀ i p, x.signalNext = some i → x.sends[i]? = some p → p.state = 2 ∧ exec (.collSignalSend slot) s =
      on ((d.modColl x.uid fun y => { y with sends := y.sends.modify i fun q => { q with state := 3 } }).request
        (addPkt (x.globalOf p.rank (cd.sigAt p.sigWord))) (.collSig x.uid i))) ∧
    (∀ word ok, (d.sigVal cd word ≤ x.used.get word ∨ word < 2) → exec (.collPieceArrival slot word ok) s = .next s) ∧
    (x.used.get 2 < d.sigVal cd 2 → ∀ ok, let used := (x.used.get 2 : Nat)
      let ring := d.collRing x.ctx cd
      let t := x.ringIn
      let c := (cd.rank + 2 * cd.n - t - 2) % cd.n
      let g := (d.modColl x.uid fun y => { y with used := y.used.set 2 (used + 1), lastIn := y.lastIn.set 2 d.now }).bump 0x6050 x.ctx 18
      (ring = false → exec (.collPieceArrival slot 2 ok) s =
        on (if cd.kind = kRingpass then g.ringLine (cd.aline + (used + 1) % 2) else g)) ∧
      (ring = true → t < x.ringGot cd → x.have_.contains (c, 0) = false → exec (.collPieceArrival slot 2 ok) s = .next s) ∧
      (ring = true → t < x.ringGot cd → x.have_.contains (c, 0) = true → exec (.collPieceArrival slot 2 ok) s =
        on ((d.modColl x.uid fun y => { y with ringIn := t + 1 }).collAdd x cd c (cd.workAt (1 + 2 * (t % 2)) c) (cd.workAt 0 c)
          [(c, t + 1)] [2] (decide (t + 3 ≤ cd.n)) ok)) ∧
      (ring = true → x.ringGot cd ≤ t → d.sigVal cd 2 ≤ used - t + x.ringGot cd → exec (.collPieceArrival slot 2 ok) s = .next s) ∧
      (ring = true → x.ringGot cd ≤ t → used - t + x.ringGot cd < d.sigVal cd 2 →
        exec (.collPieceArrival slot 2 ok) s = on g)) ∧
    (∀ word k ok, 3 ≤ word → x.used.get word < d.sigVal cd word → let n := cd.n
      let c := (word - 3) % n
      let p := (word - 3) / n / 2
      let due (k : Nat) : Bool := k % 2 == p && treeMerges n k cd.rank && treeHolder (treeBlock n (k + 1) cd.rank) c == cd.rank
        && !x.have_.contains (c, k + 1) && !x.adding (c, k + 1)
      let l := treeHolder (treeHalves n k cd.rank).1 c
      let h := treeHolder (treeHalves n k cd.rank).2 c
      let side (own i : Nat) : Nat := if own = cd.rank then cd.workAt 0 c else cd.workAt (1 + 2 * p + i) c
      let at_ (own i : Nat) : Prop :=
        if own = cd.rank then x.have_.contains (c, k) = true else x.used.get (cd.pieceWord p i c) < d.sigVal cd (cd.pieceWord p i c)
      (cd.reduces = false ∨ 3 + 4 * n ≤ word → exec (.collPieceArrival slot word ok) s = .next s) ∧
      (cd.reduces = true → word < 3 + 4 * n →
        ((List.range (treeLevels n)).find? due = none → exec (.collPieceArrival slot word ok) s = .next s) ∧
        ((List.range (treeLevels n)).find? due = some k →
          (¬(at_ l 0 ∧ at_ h 1) → exec (.collPieceArrival slot word ok) s = .next s) ∧
          (at_ l 0 → at_ h 1 → exec (.collPieceArrival slot word ok) s = on (d.collAdd x cd c (side l 0) (side h 1)
            (passUp n cd.rank c (treeLevels n) (k + 1))
            ((if l = cd.rank then [] else [cd.pieceWord p 0 c]) ++ if h = cd.rank then [] else [cd.pieceWord p 1 c]) false ok))))) ∧
    (∀ c left right have_ words credit, cd.rop = 0 → d.collAdd x cd c left right have_ words credit false =
      (d.collFail x.ctx 0x0002 x.didx).unitError 0x01 9 0 [x.ctx] 0x0002 0)) ∧
  (∀ (c didx slot : Nat) (x : Coll) (s : State), c < 1024 → didx < 4096 → let d := s.dev
    let cd := collD x.desc
    let on (g : Dev) : Host.Outcome State Fault Refusal := .next { s with dev := { g with now := d.now } }
    let mine (y : CRow) : Bool := y.ctx == c && y.didx == didx && y.job.isNone
    let active := d.coll.active.find? fun y => y.2.ctx == c && y.2.didx == didx
    (d.coll.rows.find? mine = none ∨ active = none → exec (.collRowAccept c didx) s = .next s) ∧
    (∀ r, d.coll.rows.find? mine = some r → active = some (slot, x) → let e := r.row * cd.rpitch + r.col
      let k := e / cd.chunk
      (e % 32 ≠ 0 ∨ cd.count < e + 32 → exec (.collRowAccept c didx) s = on (d.collFail c 0x0012 didx)) ∧
      (e % 32 = 0 → e + 32 ≤ cd.count → cd.chunk / 32 ≤ x.rowsIn.get k →
        exec (.collRowAccept c didx) s = on { d with coll := { d.coll with rows := dropFirst mine d.coll.rows } }) ∧
      (e % 32 = 0 → e + 32 ≤ cd.count → x.rowsIn.get k < cd.chunk / 32 →
        let g := { d with coll := { d.coll with rows := modFirst mine (fun y => { y with job := some x.nextJob }) d.coll.rows } }
        exec (.collRowAccept c didx) s = on ((g.modColl x.uid fun y => { y with rowsIn := y.rowsIn.set k (x.rowsIn.get k + 1) }).collIssue
          x.uid (.row k) (writeReqs (cd.work + e * cd.ab) (cd.rowAcc r.fmt r.data))))))

/-! ## Contexts and Lots -/

/-- Faulting a context (R338, R339): a BOUND context is FAULTED with its code and unit, the fault is counted, its teardown begins, no
command of its ring runs any more but a commit that the pool engine has taken, no COPY of it goes on, and it holds no task slot. A context
that is not BOUND is left as it is. -/
def Obligations.AFaultTearsItsContextDown : Prop :=
  ∀ (c fcode funit off : Nat) (viol : W64) (name : FaultName) (d : Dev),
    ((d.ctx c).state ≠ .bound → d.faultCtx c fcode funit off viol name = d) ∧
    ((d.ctx c).state = .bound → let g := d.faultCtx c fcode funit off viol name
      let r := (d.ctx c).ring
      g.hasFaulted c fcode funit ∧ (g.ctx c).fname = name ∧ g.ctr 0x6050 c 11 = min (d.ctr 0x6050 c 11 + 1) (2 ^ 48 - 1)
      ∧ (g.ring r).running = (d.ring r).running.filter (fun k => d.pool.busy.any fun b => b.1 == r && b.2.1 == k.id)
      ∧ (∀ p ∈ g.copies, p.2.ring = r → p.2.stopped = true) ∧ (∀ k, (g.task k).state ≠ 0 → (g.task k).ctx ≠ c)
      ∧ ∀ e, e ≠ c → g.ctx e = d.ctx e)

/-- Lots (R29, R30, R177, R405): LOT_FORM checks the word, the identifier and the overlap in this order, then the Lot is FORMING, the device
in D-RUN, and its blocks are woken; LOT_RELEASE of a Lot with no context takes it out of service and its banks' contents with it, and 20 us
later it is gone, the device back in D-READY when it was the last. -/
def Obligations.LotsFormAndAreReleased : Prop :=
  ∀ (c : Cmd) (rest : List Cmd) (s : State), let d := s.dev
    let on (g : Dev) : Host.Outcome State Fault Refusal := .next { s with dev := { g with now := d.now } }
    let g := d.started mgmtRing c rest
    let k := bits (byte c.entry 8) 5 0
    let w := fld c.entry 16 8
    let refused (i : Instr) (st : Nat) : Prop := exec i s = on ((g.done mgmtRing d.nextId st []).pump mgmtRing pumpMax)
    (d.mayStart mgmtRing 0x01 c rest →
      (lotWordOk w = false → refused .lotForm 0x49) ∧
      (lotWordOk w = true → (d.lot k).state ≠ 0 → refused .lotForm 0x4B) ∧
      (lotWordOk w = true → (d.lot k).state = 0 → let clash := d.lots.any fun p => p.2.state != 0 && p.2.overlaps (lotOfWord w)
        (clash = true → refused .lotForm 0x4A) ∧
        (clash = false → let h := (g.modLot k fun _ => lotOfWord w).modPower fun p => { p with dstate := .run }
          exec .lotForm s = on (((h.askLot (lotOfWord w) 3 none).tryActive k).pump mgmtRing pumpMax)))) ∧
    (d.mayStart mgmtRing 0x02 c rest → let l := d.lot k
      ((l.seat0.isSome = true ∨ l.seat1.isSome = true) → refused .lotRelease 0x4B) ∧
      (l.seat0 = none → l.seat1 = none → l.state ≠ 2 → refused .lotRelease 0) ∧
      (l.seat0 = none → l.seat1 = none → l.state = 2 → let cut (c : Nat) (h : Dev) : Dev :=
          let h := each ((h.chest c).ports.flatMap fun p => p.2) (fun r h => h.rejectReq r stChestOff) h
          if (h.chest c).banks = [] then h else (h.wipeBanks c 0xFFFF).modChest c fun x => { x with banks := [], ports := [] }
        exec .lotRelease s = on ((each (l.rect.flatMap fourOf) cut (g.modLot k fun x =>
          { x with state := 3, relAt := d.now })).pump mgmtRing pumpMax))) ∧
    (∀ k, k < 64 → ((d.lot k).state ≠ 3 ∨ d.now < (d.lot k).relAt + 20 * usec) → exec (.lotReleaseDone k) s = .next s) ∧
    (∀ k, k < 64 → (d.lot k).state = 3 → (d.lot k).relAt + 20 * usec ≤ d.now →
      let off := each (d.lot k).rect (fun b h => h.powerOff b) d
      let gone := { off with lots := off.lots.set k {} }
      let h := if gone.power.dstate = .run ∧ (gone.lots.all fun p => p.2.state == 0) = true
        then gone.modPower fun p => { p with dstate := .ready } else gone
      exec (.lotReleaseDone k) s = on (match h.runningOp mgmtRing 0x02 with
        | some c => h.done mgmtRing c.id 0 []
        | none => h)) ∧
    (∀ k, k < 64 → (d.lot k).state = 3 → (d.lot k).relAt + 20 * usec ≤ d.now →
      (∀ n ∈ (d.lot k).rect.flatMap fourOf, (d.chest n).ports = []) → ∃ t, exec (.lotReleaseDone k) s = .next t ∧
      t.dev.lot k = {} ∧ (∀ j, j ≠ k → t.dev.lot j = d.lot j) ∧
      (d.power.dstate = .run → ((d.lots.set k {}).all fun p => p.2.state == 0) = true → t.dev.power.dstate = .ready))

/-- Contexts (R313 to R320, R339, R340): CTX_DEFINE takes an accepted image of a context that is not seated; CTX_BIND gives a DEFINED
context the Lot, the seat and the lowest free ring, or the reason why not: the first in an empty Lot owns the front shelf, the second an
empty back shelf; CTX_UNBIND takes them back from one that has nothing in flight, and its shelves with them; FAULT_ACK binds a FAULTED
context again once its teardown is done, and what waited on its ring completes with CTX_FAULTED; the teardown ends when its requests have
resolved. -/
def Obligations.ContextsMoveThroughTheirStates : Prop :=
  ∀ (e : Cmd) (rest : List Cmd) (s : State), let d := s.dev
    let on (g : Dev) : Host.Outcome State Fault Refusal := .next { s with dev := { g with now := d.now } }
    let g := d.started mgmtRing e rest
    let c := bits (fld e.entry 8 2) 9 0
    let x := d.ctx c
    let completes (i : Instr) (g : Dev) (st : Nat) (fs : List (Nat × Nat × Nat)) : Prop :=
      exec i s = on ((g.done mgmtRing d.nextId st fs).pump mgmtRing pumpMax)
    (d.mayStart mgmtRing 0x03 e rest → let a := fld e.entry 16 8
      let b := d.memAt a 256
      (x.seated = true → completes .ctxDefine g 0x42 []) ∧
      (x.seated = false → (jobEnd < a + 256 ∨ ctxImageOk b = false) → completes .ctxDefine g 0x41 []) ∧
      (x.seated = false → a + 256 ≤ jobEnd → ctxImageOk b = true → completes .ctxDefine (g.setCtx c (ctxOfImage x b)) 0 [])) ∧
    (d.mayStart mgmtRing 0x04 e rest → let k := bits (byte e.entry 10) 5 0
      let seat := bits (byte e.entry 11) 0 0
      (d.bindReason c k seat ≠ 0 → completes .ctxBind g 0x43 [(33, 1, d.bindReason c k seat)]) ∧
      (d.bindReason c k seat = 0 → ∀ r, (List.range 64).find? (fun r => !(d.ring r).live) = some r →
        ∃ t, exec .ctxBind s = .next t ∧ t.dev.ctx c = { x with state := .bound, lot := k, seat := seat, ring := r }
          ∧ t.dev.ring r = { live := true, ctx := some c } ∧ (t.dev.lot k).seat seat = some c
          ∧ ((d.lot k).seat (1 - seat) = none → (t.dev.lot k).fseat = seat)
          ∧ ((d.lot k).seat (1 - seat) ≠ none → (d.lot k).promote = false →
            (t.dev.lot k).fseat = (d.lot k).fseat ∧ (t.dev.lot k).bstate = .empty)) ∧
      (d.bindReason c k seat = 0 → (List.range 64).find? (fun r => !(d.ring r).live) = none →
        completes .ctxBind g 0x43 [(33, 1, 4)])) ∧
    (d.mayStart mgmtRing 0x05 e rest →
      (x.seated = false → completes .ctxUnbind g 0x41 []) ∧
      (x.seated = true → g.unbindBusy c = true → completes .ctxUnbind g 0x42 []) ∧
      (x.seated = true → x.ring ≠ mgmtRing → g.unbindBusy c = false → ∃ t, exec .ctxUnbind s = .next t
        ∧ t.dev.ctx c = { x with state := .defined, lot := 0, seat := 0, ring := 0 } ∧ t.dev.ring x.ring = {}
        ∧ (x.seat ≤ 1 → (t.dev.lot x.lot).seat x.seat = none)
        ∧ ((d.lot x.lot).front.kind ≠ 0 → (d.lot x.lot).front.ctx = c → (t.dev.lot x.lot).front = {})
        ∧ ((d.lot x.lot).bstate ≠ .empty → (d.lot x.lot).back.ctx = c → (t.dev.lot x.lot).bstate = .empty))) ∧
    (d.mayStart mgmtRing 0x06 e rest → let torn := d.teardowns.any fun t => t.ctx == c
      (x.state ≠ .faulted → completes .faultAck g 0x41 []) ∧
      (x.state = .faulted → torn = true → completes .faultAck g 0x42 []) ∧
      (x.state = .faulted → torn = false → exec .faultAck s =
        let h := g.modRing x.ring fun y => { y with doomed := y.fetched.length + (y.ctail + 65536 - y.chead) % 65536 }
        on ((((h.setCtx c { x with state := .bound }).done mgmtRing d.nextId 0 []).pump x.ring pumpMax).pump mgmtRing pumpMax))) ∧
    (∀ c, c < 1024 → let finished := d.teardowns.any (fun t => t.ctx == c && t.step4) && d.resolved c
      (finished = false → exec (.teardownDone c) s = .next s) ∧
      (finished = true → ∃ t, exec (.teardownDone c) s = .next t ∧ (t.dev.teardowns.all fun y => y.ctx != c) = true
        ∧ t.dev.ctr 0x6050 c 12 = min (d.ctr 0x6050 c 12 + 1) (2 ^ 48 - 1)))

/-! ## Shelves, runs, tasks and windows -/

/-- Loads (R237, R248, R351 to R355, R359): LOAD_SHELF waits for the loader, which takes the oldest when it is free; the first check that an
image fails ends the load with its status and DETAIL; an accepted one is written to the back shelf, whose blocks and banks wake; then it is
LOADED and its preloads fire, and with none of them left it is READY and the load completes with OK. A poisoned line gives no MAGIC or no
matching CRC, the model's choice (notes/assumptions/67.md). -/
def Obligations.ShelvesLoad : Prop :=
  ∀ (r id c k : Nat) (e : Cmd) (q : RunCmd) (rest : List Cmd) (later : List (Nat × Nat)) (s : State), r < 64 → let d := s.dev
    let on (g : Dev) : Host.Outcome State Fault Refusal := .next { s with dev := { g with now := d.now } }
    (d.mayStart r 0x10 e rest → let g := d.started r e rest
      exec (.loadShelf r) s = on ({ g with loadQ := d.loadQ ++ [(r, d.nextId)] }.pump r pumpMax)) ∧
    (d.loading.isSome = true ∨ d.loadQ = [] → exec .shelfLoadStart s = .next s) ∧
    (d.loading = none → d.loadQ = (r, id) :: later → (d.ring r).cmd id = some q → d.ringCtx r = some c → (d.ctx c).lot = k →
      let off := fld q.entry 8 8
      let len := fld q.entry 16 4
      let h := ihdr (if d.poisonIn off 128 then [] else d.memAt off (min len 128))
      let g := { d with loadQ := later }
      let g := if jobEnd < off + len then g else g.readLines off (min len 128)
      let head := headCheck (d.lot k) off len h
      let ends (g : Dev) (st detail image : Nat) : Prop := exec .shelfLoadStart s = on ((g.modLot k fun l => { l with lstat := st }).done r id
        st [(32, 4, detail), (40, 8, image)])
      let b := (g.loseBack k).readLines off h.total
      let bs := b.memAt off h.total
      let trail := if b.poisonIn off h.total then some 0x0B else trailCheck b h bs
      let body := bodyCheck b (readImg b k c bs) ((d.lot k).bstate == .empty)
      (∀ st, head = some st → ends g st 0 (if st = 1 then 0 else h.imageid)) ∧
      (head = none → d.ownsBack k c = false → ends g 0x09 0 h.imageid) ∧
      (head = none → d.ownsBack k c = true → (d.ring r).loadBusy id = true → ends g 0x0A 0 h.imageid) ∧
      (head = none → d.ownsBack k c = true → (d.ring r).loadBusy id = false →
        (∀ st, trail = some st → ends b st 0 h.imageid) ∧
        (∀ st rel o, trail = none → body = some (st, rel, o) → ends b st (detailWord rel o) h.imageid) ∧
        (trail = none → body = none →
          exec .shelfLoadStart s = on ({ b with loading := some (r, id) }.loadBack (readImg b k c bs))))) ∧
    ((d.loading = none ∨ (d.loading = some (r, id) ∧ d.ringLot r = some k ∧ ((d.lot k).bstate ≠ .loading ∨ d.loadWoken (d.lot k) = false))) →
      exec .shelfLoaded s = .next s) ∧
    (d.loading = some (r, id) → d.ringLot r = some k → (d.lot k).bstate = .loading → d.loadWoken (d.lot k) = true →
      ∃ t, exec .shelfLoaded s = .next t ∧ t.dev.loading = none ∧ t.dev.lot k = { d.lot k with bstate := .loaded }
        ∧ ∀ b ∈ (d.lot k).rect, (d.block b).island ≠ .off → let ds := ((d.lot k).back.blocks.get b).transfers.zipIdx.filterMap fun p =>
            (if (xferD p.1).trig = 3 then some p.2 else none)
          ds ≠ [] → (t.dev.block b).xfer.preWait = ds) ∧
    (k < 64 → let left := (d.lot k).rect.any fun b =>
        !(d.block b).xfer.preWait.isEmpty || (d.block b).xfer.bulkQ.any fun i => i.preload
      let ring := (d.ctx (d.lot k).back.ctx).ring
      ((d.lot k).bstate ≠ .loaded ∨ left = true → exec (.preloadComplete k) s = .next s) ∧
      ((d.lot k).bstate = .loaded → left = false → let g := d.modLot k fun l => { l with bstate := .ready }
        (d.runningOp ring 0x10 = none → exec (.preloadComplete k) s = on g) ∧
        (d.runningOp ring 0x10 = some q → exec (.preloadComplete k) s =
          on (g.done ring q.id 0 [(32, 4, 0), (40, 8, (d.lot k).back.imageId)]))))

/-- Swaps (R329, R334, R340, R357, R358): SWAP_SHELF completes with NOT_LOADED where the back shelf is EMPTY with no load in progress, or is
of the other scope, and with TOO_LONG where no window has room for it; else, when the back shelf is READY and its class lets it, it asks for
the swap, which takes effect in its swap turn: of the whole Lot, or of a Pitch's subtree. A demand swap brings the other seat's shelf to the
front when its work is ready and the front lets it; a FAULTED front never blocks it. Until then they wait. -/
def Obligations.ShelvesSwap : Prop :=
  ∀ (r c k scope : Nat) (e : Cmd) (rest : List Cmd) (s : State), r < 64 → k < 64 → let d := s.dev
    let on (g : Dev) : Host.Outcome State Fault Refusal := .next { s with dev := { g with now := d.now } }
    let l := d.lot k
    let g := d.started r e rest
    (d.ringCtx r = some c → (d.ctx c).lot = k → d.mayStart r 0x11 e rest → bits (byte e.entry 8) 0 0 = scope →
      ∀ i ∈ [(Instr.swapShelf r, 0), (.swapShelfPitchScope r, 1)],
        let empty := l.bstate == .empty && !(d.ring r).running.any fun x => opcodeOf x.entry == 0x10
        let long := (d.ctx c).cyclic && d.tooLong l c e.entry
        let fits := l.bstate == .ready && d.mayOccupy c e.entry
        (i.2 ≠ scope ∨ (empty = false ∧ long = false ∧ fits = false) → exec i.1 s = .next s) ∧
        (i.2 = scope → (empty = true → exec i.1 s = on ((g.done r d.nextId 0x30 []).pump r pumpMax)) ∧
          (empty = false → long = true → exec i.1 s = on ((g.done r d.nextId 0x45 []).pump r pumpMax)) ∧
          (empty = false → long = false → fits = true →
            (l.back.partialPitch.isSome ≠ (scope == 1) → exec i.1 s = on ((g.done r d.nextId 0x30 []).pump r pumpMax)) ∧
            (l.back.partialPitch.isSome = (scope == 1) → exec i.1 s = on ((g.askSwap k
              { pitch := l.back.partialPitch, cmd := some d.nextId, start := d.now, ctx := some c }).pump r pumpMax))))) ∧
    (l.swapReq = none → exec (.shelfSwap k) s = .next s) ∧
    (∀ q, l.swapReq = some q →
      (d.lit = false ∨ d.swapTurn l q.start = false ∨ l.bstate ≠ .ready → exec (.shelfSwap k) s = .next s) ∧
      (d.lit = true → d.swapTurn l q.start = true → l.bstate = .ready →
        let h := match q.pitch with
          | some p => (if d.mayBeat l then d.creditBeat k else d).swapPitch k p
          | none => d.swapLot k
        (q.cmd = none ∨ q.ctx = none → exec (.shelfSwap k) s = on h) ∧
        (∀ id x, q.cmd = some id → q.ctx = some x → exec (.shelfSwap k) s =
          on ((h.done (h.ctx x).ring id 0 [(32, 8, h.time), (40, 4, (h.lot k).swaps)]).endOverrun k x 0x11)))) ∧
    (l.other = none → exec (.demandSwap k) s = .next s) ∧
    (∀ o, l.other = some o →
      let may := d.lit = true ∧ (d.ctx o).cyclic = false ∧ d.occReady o = true ∧ l.bstate = .ready ∧ l.back.ctx = o ∧
        l.swapReq = none ∧ d.swapTurn l d.now = true ∧
        ∀ f, l.owner = some f → (d.ctx f).state = .bound → d.occFlight f = false ∧ (d.occReady f = false ∨ d.quantumUp l = true)
      (may → exec (.demandSwap k) s = on ((d.swapLot k).bump 0x6040 k 3)) ∧ (¬may → exec (.demandSwap k) s = .next s))

/-- Laid runs and beats (R61, R207 to R210, R315, R322, R332 to R334): LAUNCH of a laid run adds its beats to the credit of a laid front
shelf, and sets the step value; the first zeroes the flag words of its Stalls, the model's choice (notes/assumptions/63.md); one that is
longer than every window is refused. A beat that is due takes one credit, and the members go on at its start with the beat number one
higher and the timeouts then in force; with no credit left and every member ready the run is over and completes with the beat number; a
member that has not reported ready within the send-stall timeout is a hang. -/
def Obligations.LaidRunsTakeTheirBeats : Prop :=
  ∀ (r c k : Nat) (e : Cmd) (rest : List Cmd) (s : State), r < 64 → k < 64 → let d := s.dev
    let on (g : Dev) : Host.Outcome State Fault Refusal := .next { s with dev := { g with now := d.now } }
    let l := d.lot k
    let g := d.started r e rest
    (d.ringCtx r = some c → (d.ctx c).lot = k → d.mayStart r 0x12 e rest → isTask e.entry = false →
      let long := (d.ctx c).cyclic && d.tooLong l c e.entry
      let may := d.mayOccupy c e.entry && !d.lotTesting l
      (long = false → may = false → exec (.launchLaidRun r) s = .next s) ∧
      (long = true → exec (.launchLaidRun r) s = on ((g.done r d.nextId 0x45 []).pump r pumpMax)) ∧
      (long = false → may = true → l.front.kind ≠ 1 → exec (.launchLaidRun r) s = on ((g.done r d.nextId 0x44 []).pump r pumpMax)) ∧
      (long = false → may = true → l.front.kind = 1 →
        let h := g.modCtx c fun x => { x with step := fld e.entry 16 7, lstep := fld e.entry 16 7 }
        let runs := ((h.ring r).running.filter fun x => opcodeOf x.entry == 0x12 && !isTask x.entry).length
        let h := if runs ≤ 1 then each ((h.stalls.filter fun p => l.has (p.1 / 4)).map (·.1))
          (fun n h => h.modStall n fun x => { x with flags := 0 }) h else h
        let h := h.bump 0x6050 c 0
        let h := if h.lotAwake l then h else h.askLot l 1 (some l.front.env)
        exec (.launchLaidRun r) s = on ((h.modLot k fun x => { x with
          credit := x.credit + fld e.entry 12 4
          beat := { x.beat with creditAt := d.now } }).pump r pumpMax))) ∧
    (d.lit = false ∨ l.swapReq.isSome = true ∨ d.mayBeat l = false → exec (.beatStart k) s = .next s) ∧
    (d.lit = true → l.swapReq = none → d.mayBeat l = true → ∃ t, exec (.beatStart k) s = .next t ∧ t.dev.lot k = { l with
        credit := l.credit - 1
        beat := { l.beat with
          num := (l.beat.num + 1) % 2 ^ 32, stretch := l.stretchNext, start := d.now
          ssto := (d.ctx l.front.ctx).sstoCycles, lateth := (d.ctx l.front.ctx).latethOf } }
      ∧ ∀ n ∈ l.members, (t.dev.stall n).ready = false ∧ (t.dev.stall n).beatStart = d.now ∧ (t.dev.stall n).pc = (d.stall n).pc) ∧
    (d.laidRun l.front.ctx = none → exec (.laidRunComplete k) s = .next s) ∧
    (∀ q, d.laidRun l.front.ctx = some q →
      (d.runOver l = false ∨ q.aux = 0 → exec (.laidRunComplete k) s = .next s) ∧
      (d.runOver l = true → q.aux ≠ 0 → exec (.laidRunComplete k) s = on ((((d.joinSummary l.front.ctx (d.lotFlags l)).bump
        0x6050 l.front.ctx 2).done (d.ctx l.front.ctx).ring q.id 0 [(32, 4, l.beat.num)]).endOverrun k l.front.ctx 0x12))) ∧
    (l.members.find? (fun n => !(d.stall n).ready) = none → exec (.beatTimeout k) s = .next s) ∧
    (∀ n, l.members.find? (fun n => !(d.stall n).ready) = some n →
      let late := l.front.kind = 1 ∧ l.beat.active = true ∧ max l.beat.start l.swapTime + l.beat.ssto < d.now
      (¬late → exec (.beatTimeout k) s = .next s) ∧ (late → exec (.beatTimeout k) s = on (d.hang n 0x0008 (d.stall n).pc)))

/-- Tile tasks (R61, R90, R323 to R328, R332, R334): LAUNCH of a task with a target that its Lot does not have is refused, and one that is
longer than every window; else it waits for its placement, which takes the lowest free slot and the target and wakes its blocks, in the
cyclic class within a window that has room; with every block at RUN the task starts on its Stalls; a Stall whose engines are idle completes
its END, and the task is complete when every Stall of it has. Contexts place in ascending order within a cycle, the model's choice
(notes/assumptions/24.md). -/
def Obligations.TileTasksRunOnTheirTarget : Prop :=
  ∀ (r c k n : Nat) (e : Cmd) (rest : List Cmd) (s : State), r < 64 → let d := s.dev
    let on (g : Dev) : Host.Outcome State Fault Refusal := .next { s with dev := { g with now := d.now } }
    let x := d.ctx c
    let l := d.lot x.lot
    let g := d.started r e rest
    (d.ringCtx r = some c → d.mayStart r 0x12 e rest → isTask e.entry = true → let long := x.cyclic && d.tooLong l c e.entry
      let may := x.state = .bound ∧ x.seat = l.fseat ∧
        (if x.cyclic then d.inWindow l x.seat 0 && d.lotAwake l else !d.quantumUp l) = true ∧ d.lotTesting l = false
      (long = false → ¬may → exec (.launchTileTask r) s = .next s) ∧
      (long = true ∨ may →
        (d.badTarget l e.entry = true → exec (.launchTileTask r) s = on ((g.done r d.nextId 0x44 []).pump r pumpMax)) ∧
        (d.badTarget l e.entry = false → long = true → exec (.launchTileTask r) s = on ((g.done r d.nextId 0x45 []).pump r pumpMax)) ∧
        (d.badTarget l e.entry = false → long = false → exec (.launchTileTask r) s = on (((g.modCtx c fun y =>
          { y with step := fld e.entry 16 7, lstep := fld e.entry 16 7 }).bump 0x6050 c 0).pump r pumpMax)))) ∧
    (c < 1024 → d.lit = false ∨ d.placeTurn c = false ∨ d.unplaced c = none → exec (.taskPlace c) s = .next s) ∧
    (∀ q, c < 1024 → d.unplaced c = some q →
      let may := l.frontCtx = some c ∧ x.state = .bound ∧ d.lotTesting l = false ∧
        (x.cyclic = true → d.inWindow l x.seat (d.maxOf l c q.entry) = true ∧ d.lotAwake l = true)
      (¬may ∨ d.targetOf l q.entry = none ∨ d.freeSlot = none → exec (.taskPlace c) s = .next s) ∧
      (∀ u m, may → d.lit = true → d.placeTurn c = true → d.targetOf l q.entry = some u → d.freeSlot = some m →
        let t : TaskSlot := { unit := u, ctx := c, kind := byte q.entry 9, state := 1, crec := crecOf q.entry, ttag := fld q.entry 28 4,
                              step := fld q.entry 16 7, cmd := q.id,
                              args := (List.range (byte q.entry 11)).map fun i => BitVec.ofNat 32 (fld q.entry (32 + 4 * i) 4) }
        let h := { d with tasks := d.tasks.set m t, placed := (d.now, c) }
        let h := (h.modCmd x.ring q.id fun y => { y with aux := m + 1 }).countSlots
        exec (.taskPlace c) s = on (each ((l.taskStalls u).map fun n => n / 4)
          (fun b h => (h.rouse b).askIsland l b 1 (some l.front.env)) h))) ∧
    (∀ kd, k < 4096 → let t := d.task k
      let lt := d.lot (d.ctx t.ctx).lot
      lt.front.tasks[t.kind]? = some kd →
      let ready := d.lit = true ∧ t.state = 1 ∧ lt.frontCtx = some t.ctx ∧
        ((lt.taskStalls t.unit).all fun n => (d.block (n / 4)).island == .run) = true
      (¬ready → exec (.taskStart k) s = .next s) ∧
      (ready → exec (.taskStart k) s = on (each (lt.taskStalls t.unit) (fun n g => g.startOn n k t kd)
        (d.modTask k fun y => { y with state := 2 })))) ∧
    (n < 2304 → ((d.stall n).seq ≠ .running ∨ (d.stall n).ended = false ∨ (d.stall n).jobs ≠ [] → exec (.endComplete n) s = .next s) ∧
      ((d.stall n).seq = .running → (d.stall n).ended = true → (d.stall n).jobs = [] →
        let h := d.modStall n fun y => { y with seq := .stopped, ended := false }
        ((d.stall n).task = none → exec (.endComplete n) s = on h) ∧
        (∀ m, (d.stall n).task = some m → let t := d.task m
          let ended := insertUp n t.ended
          let finished := ((d.lot (d.ctx t.ctx).lot).taskStalls t.unit).all fun y => ended.contains y
          (finished = true → exec (.endComplete n) s = on (h.taskDone m)) ∧
          (finished = false → exec (.endComplete n) s = on (h.modTask m fun y => { y with ended := ended })))))

/-- The cyclic class (R330 to R335, R340, R501): CYCLE_LOAD takes an accepted table, at the next frame start where one runs; CYCLE_START
sets its origin, at least 10 us ahead; each frame starts at its time and each window at its own: its blocks are woken ahead by its lead, its
seat's shelf comes to the front in its swap turn, or it passes idle; at its end it closes, or its overrun begins, whose length becomes the
context's debit where the next window of the other seat was to start before. -/
def Obligations.WindowsFollowTheirTable : Prop :=
  ∀ (r k : Nat) (e : Cmd) (rest : List Cmd) (s : State), r < 64 → k < 64 → let d := s.dev
    let on (g : Dev) : Host.Outcome State Fault Refusal := .next { s with dev := { g with now := d.now } }
    let l := d.lot k
    let g := d.started r e rest
    let completes (i : Instr) (g : Dev) (st : Nat) : Prop := exec i s = on ((g.done r d.nextId st []).pump r pumpMax)
    let a := fld e.entry 8 8
    (d.ringLot r = some k → d.mayStart r 0x18 e rest → let fits := a + 16 + 8 * (d.memVal (a + 1) 1 + 1) ≤ jobEnd
      (¬fits ∨ d.cycleOk a = false ∨ d.lotCyclic l = false → completes (.cycleLoad r) g 0x48) ∧
      (fits → d.cycleOk a = true → d.lotCyclic l = true → completes (.cycleLoad r) (g.modLot k fun x =>
        if x.t0.isSome = true ∧ x.cyc.isSome = true then { x with cycNext := some (d.cycleAt a) } else { x with cyc := some (d.cycleAt a) }) 0)) ∧
    (d.ringLot r = some k → d.mayStart r 0x19 e rest →
      (l.cyc = none → completes (.cycleStart r) g 0x48) ∧
      (l.cyc.isSome = true → a < d.time + 10 * usec → completes (.cycleStart r) g 0x4C) ∧
      (l.cyc.isSome = true → d.time + 10 * usec ≤ a → completes (.cycleStart r) (g.modLot k fun x =>
        { x with
          t0 := some a, frameNo := 0, winNext := 0, window := none, winOver := none, winIdle := false, waked := false
          cyc := x.cycNext.or x.cyc, cycNext := none }) 0)) ∧
    (l.nextFrame = none ∨ d.lit = false → exec (.frameStart k) s = .next s) ∧
    (∀ t, l.nextFrame = some t →
      (d.time < t → exec (.frameStart k) s = .next s) ∧
      (d.lit = true → t ≤ d.time → exec (.frameStart k) s = on (d.modLot k fun x =>
        { x with t0 := some t, frameNo := x.frameNo + 1, winNext := 0, cyc := x.cycNext.or x.cyc, cycNext := none }))) ∧
    (l.nextWindow = none ∨ l.waked = true ∨ d.lit = false → exec (.windowWakeLead k) s = .next s) ∧
    (∀ w t, l.nextWindow = some (w, t) →
      (d.time + w.wake * tenUs < t → exec (.windowWakeLead k) s = .next s) ∧
      (l.waked = false → d.lit = true → t ≤ d.time + w.wake * tenUs →
        exec (.windowWakeLead k) s = on ((d.askLot l 0 (l.envOf (l.seat w.seat))).modLot k fun x => { x with waked := true }))) ∧
    (l.t0 = none ∨ (l.cyc.bind fun c => c.windows[l.winNext]?) = none ∨ l.frameNo = 0 ∨ l.window.isSome = true ∨ d.lit = false →
      exec (.windowStart k) s = .next s) ∧
    (∀ t0 w, l.t0 = some t0 → (l.cyc.bind fun c => c.windows[l.winNext]?) = some w → l.frameNo ≠ 0 → l.window = none → d.lit = true →
      let start := t0 + w.start * tenUs
      (d.time < start → exec (.windowStart k) s = .next s) ∧
      (start ≤ d.time → d.idleSeat l w.seat = true → exec (.windowStart k) s = on ((d.modLot k fun x =>
        { x with
          window := some l.winNext, winEnd := start + w.len * tenUs, winSeat := w.seat, winIdle := true
          winNext := l.winNext + 1, waked := false }).bump 0x6040 k 2)) ∧
      (∀ c, start ≤ d.time → d.idleSeat l w.seat = false → l.seat w.seat = some c →
        let front := l.front.kind ≠ 0 ∧ l.front.ctx = c
        let missed := l.winHeld = true ∧ start + w.len * tenUs ≤ d.time
        (front → (d.time = start ∨ d.turnStart = true) → exec (.windowStart k) s = on (d.openWindow k c l.winNext start w)) ∧
        (front → d.time ≠ start → d.turnStart = false → exec (.windowStart k) s = .next s) ∧
        (¬front → missed → exec (.windowStart k) s = on ((d.modLot k fun x =>
          { x with winNext := l.winNext + 1, winHeld := false, waked := false }).bump 0x6040 k 2)) ∧
        (¬front → ¬missed → d.swapTurn l d.now = true →
          exec (.windowStart k) s = on ((d.swapLot k).openWindow k c l.winNext start w)) ∧
        (¬front → ¬missed → d.swapTurn l d.now = false → exec (.windowStart k) s = .next s))) ∧
    (l.window = none ∨ d.time < l.winEnd → exec (.windowEnd k) s = .next s) ∧
    (l.window.isSome = true → l.winEnd ≤ d.time → let runs := (l.seat l.winSeat).any d.spansOf
      (runs = true → exec (.windowEnd k) s = on (d.modLot k fun x => { x with winOver := some l.winEnd })) ∧
      (runs = false → exec (.windowEnd k) s = on ((if l.winHeld then d.bump 0x6040 k 2 else d).modLot k fun x =>
        { x with window := none, winOver := none, winIdle := false, winHeld := false }))) ∧
    (∀ x i n op w t, l.window = some i → l.seat l.winSeat = some x → n ≠ 0 → l.nextWindow = some (w, t) → w.seat ≠ l.winSeat →
      t < l.winEnd + n → ((d.closeWindow k n op).ctx x).debt = (d.ctx x).debt + n ∧ ((d.closeWindow k n op).lot k).window = none)

/-! ## The Porter link, its rings and the page pool -/

/-- The Porter link (R237, R360 to R366): while it is up, a frame in order of its TYPE has its effect: RING_WR fills slots of a command
ring, a valid DOORBELL sets CTAIL and lets the device fetch, one that is not raises DOORBELL_BAD, EVT_ACK within range sets EHEAD and any
other is ignored, MWR writes memory, MRD answers with its bytes; a poisoned line gives MEM_UE. A frame of the TYPE that is not in order, or
of a reserved TYPE, raises FRAME_BAD, and one of another host TYPE is another command's. Link-up sends RING_STATE and resends what is not
acknowledged; after a loss, frames have no effect. -/
def Obligations.PorterFramesHaveTheirEffect : Prop :=
  ∀ (f : Bytes) (s : State), let d := s.dev
    let on (g : Dev) : Host.Outcome State Fault Refusal := .next { s with dev := { g with now := d.now } }
    let p := framePay f
    let r := byte p 0
    let x := d.ring r
    let isBell := p.length == 4 && byte p 1 == 0
    let isWrite := decide (12 ≤ p.length) && decide (p.length ≤ 520) && p.length % 4 == 0 && fld p 0 8 % 4 == 0
    let isRead := p.length == 12 && decide (4 ≤ fld p 8 2) && decide (fld p 8 2 ≤ 512) && fld p 8 2 % 4 == 0 && fld p 0 8 % 4 == 0
    let isSlots := decide (r ≤ 64) && decide (1 ≤ byte p 1) && decide (byte p 1 ≤ 8) && decide (fld p 2 2 < 1024)
      && p.length == 4 + 64 * byte p 1
    (∀ i ∈ [(Instr.ringWr f, 0x01, isSlots), (.doorbell f, 0x02, isBell), (.evtAck f, 0x03, isBell), (.mwr f, 0x04, isWrite),
        (.mrd f, 0x05, isRead)],
      let mine := frameType f = i.2.1 ∨ frameType f = 0 ∨ 6 < frameType f
      (d.lit = false ∨ d.porterUp = false ∨ ¬mine → exec i.1 s = .next s) ∧
      (d.lit = true → d.porterUp = true → mine → frameType f ≠ i.2.1 ∨ frameHdrOk f = false ∨ i.2.2 = false →
        exec i.1 s = on (d.event 0x1D [(32, 1, frameType f)]))) ∧
    (d.lit = true → d.porterUp = true → frameHdrOk f = true →
      (frameType f = 0x01 → isSlots = true →
        ∃ t, exec (.ringWr f) s = .next t ∧ ∀ i, i < byte p 1 →
          t.dev.memAt (cmdRing r + 64 * ((fld p 2 2 + i) % 1024)) 64 = sub (p.drop 4) (64 * i) 64) ∧
      (frameType f = 0x02 → isBell = true → let tail := fld p 2 2
        let ok := r ≤ 64 ∧ x.live = true ∧ (x.ctail + 65536 - x.chead) % 65536 ≤ (tail + 65536 - x.chead) % 65536
          ∧ (tail + 65536 - x.chead) % 65536 ≤ 1024
        (ok → exec (.doorbell f) s = on ((d.modRing r fun x => { x with ctail := tail }).pump r pumpMax)) ∧
        (¬ok → exec (.doorbell f) s = on (d.event 0x1C [(32, 1, r), (34, 2, tail)]))) ∧
      (frameType f = 0x03 → isBell = true → let h := fld p 2 2
        (x.live = true → (h + 65536 - x.ehead) % 65536 ≤ x.unacked →
          exec (.evtAck f) s = on ((d.modRing r fun y => { y with ehead := h }).pump r pumpMax)) ∧
        ((x.live = false ∨ x.unacked < (h + 65536 - x.ehead) % 65536) → exec (.evtAck f) s = .next s)) ∧
      (frameType f = 0x04 → isWrite = true → let off := fld p 0 8
        let n := p.length - 8
        let torn := (linePieces off (p.drop 8)).any fun q => q.2.length != 64 && d.isPoisoned q.1
        (d.hostOk off n = false → exec (.mwr f) s = on (d.event 0x1E [(32, 1, 1), (40, 8, off)])) ∧
        (d.hostOk off n = true → torn = true → exec (.mwr f) s = on (d.event 0x1E [(32, 1, 8), (40, 8, off)])) ∧
        (d.hostOk off n = true → torn = false → ∃ t, exec (.mwr f) s = .next t ∧ t.dev.memAt off n = p.drop 8
          ∧ ∀ a m, (a + m ≤ off ∨ off + n ≤ a) → t.dev.memAt a m = d.memAt a m)) ∧
      (frameType f = 0x05 → isRead = true → let off := fld p 0 8
        let n := fld p 8 2
        let reply (st : Nat) (b : Bytes) : Output := .porter (porterFrame 0x82 (layout 4 [(0, 2, fld p 10 2), (2, 1, st)] ++ b))
        let ue := (linePieces off (zeros n)).any fun q => d.isPoisoned q.1
        (d.hostOk off n = false → exec (.mrd f) s = on (d.emit (reply 1 []))) ∧
        (d.hostOk off n = true → ∃ t, exec (.mrd f) s = .next t ∧ t.dev.mem = d.mem
          ∧ t.dev.out = d.out ++ [if ue then reply 8 [] else reply 0 (d.memAt off n)]))) ∧
    (d.lit = true → exec .porterLinkUp s = on (each (List.range 65) (fun r g => g.resend r) { d with
      porterUp := true
      out := d.out ++ [.porter (porterFrame 0x83 ((List.range 65).flatMap fun r => leBytes 8 (d.ring r).word))] })) ∧
    (d.lit = false → exec .porterLinkUp s = .next s) ∧
    (d.porterUp = true → exec .porterLinkLoss s = .next { s with dev := { d with porterUp := false, porterLossAt := d.now } }) ∧
    (d.porterUp = false → exec .porterLinkLoss s = .next s)

/-- The small commands of every ring (R202, R321, R368 to R370, R374, R454, R460): QUEUE_RESET opens a configured queue of the Lot anew with
the next INC, and refuses any other; EVENT_MASK sets MASK and answers with the old one; NOP, and FENCE when all before it has completed,
complete; COPY and MEM_ATOMIC of an address that is not in order complete with BAD_ADDR, else issue their requests. What may not start does
not; COPY waits while its engine is tested, and a parity error there faults the contexts whose copies go on. -/
def Obligations.RingCommandsComplete : Prop :=
  ∀ (r k : Nat) (c : Cmd) (rest : List Cmd) (s : State), r < 65 → let d := s.dev
    let on (g : Dev) : Host.Outcome State Fault Refusal := .next { s with dev := { g with now := d.now } }
    let g := d.started r c rest
    let e := c.entry
    let completes (i : Instr) (g : Dev) (st : Nat) (fs : List (Nat × Nat × Nat)) : Prop :=
      exec i s = on ((g.done r d.nextId st fs).pump r pumpMax)
    (r < 64 → d.ringLot r = some k → d.mayStart r 0x1A c rest → let n := bits (fld e 8 2) 11 0
      let q := bits (byte e 10) 3 0
      let w := (d.stall n).queues.get q
      ((2304 ≤ n ∨ (d.lot k).has (n / 4) = false ∨ w.size = 0) → completes (.queueReset r) g 0x44 []) ∧
      (n < 2304 → (d.lot k).has (n / 4) = true → w.size ≠ 0 → completes (.queueReset r) (g.modStall n fun st =>
        { st with queues := st.queues.set q { w with isOpen := true, inc := (w.inc + 1) % 16, msgs := [] } }) 0
          [(32, 1, (w.inc + 1) % 16)])) ∧
    (d.mayStart r 0x22 c rest → completes (.eventMask r) (g.modRing r fun y => { y with mask := BitVec.ofNat 64 (fld e 8 8) }) 0
      [(32, 8, (d.ring r).mask.toNat)]) ∧
    (d.mayStart r 0x23 c rest → completes (.nopCommand r) g 0 []) ∧
    (d.mayStart r 0x14 c rest → completes (.fence r) g 0 []) ∧
    (d.mayStart r 0x15 c rest → d.engineTested 15 0 = false → let a := fld e 8 8
      let b := fld e 16 8
      let n := fld e 24 4
      let bad := n == 0 || n % 64 != 0 || !d.copyEnd a n || !d.copyEnd b n || (!d.isLocal a && !d.isLocal b)
      (bad = true → completes (.copy ⟨r, false⟩) g 0x4F []) ∧
      (bad = false → let j : CopyJob := { ring := r, cmd := d.nextId, dst := a, src := b, len := n, vc := 4 + byte e 28 % 2 }
        exec (.copy ⟨r, false⟩) s = on ((({ g with copies := g.copies.set d.nextId j } : Dev).copyNext d.nextId).pump r pumpMax))) ∧
    (d.mayStart r 0x16 c rest → let a := fld e 8 8
      let w := bit (byte e 16) 4
      ((bits a 63 62 ≠ 0 ∨ badAddr a = true) → completes (.memAtomic r) g 0x4F []) ∧
      (bits a 63 62 = 0 → badAddr a = false → exec (.memAtomic r) s = on ((g.access a
        { id := 0, src := .porterAtomic r d.nextId, kind := .atomic, off := 0, len := if w then 8 else 4, port := porterPort,
          cls := ringClass r, aop := bits (byte e 16) 3 0, aw := w, op1 := fld e 24 8, op2 := fld e 32 8 }).pump r pumpMax))) ∧
    (d.engineTested 15 0 = true → exec (.copy ⟨r, false⟩) s = .next s) ∧
    (d.lit = false → exec (.copy ⟨r, true⟩) s = .next s) ∧
    (d.lit = true → exec (.copy ⟨r, true⟩) s =
      on (d.engineParity 15 0 ioUnit (d.copies.filterMap fun p => if p.2.stopped then none else d.ringCtx p.2.ring))) ∧
    (∀ p ∈ [(Instr.copy ⟨r, false⟩, 0x15), (.memAtomic r, 0x16), (.eventMask r, 0x22), (.nopCommand r, 0x23), (.fence r, 0x14)],
      ((d.ring r).fetched = [] ∨ d.lit = false ∨ (d.ring r).slotFree = false
        ∨ ∃ c rest, (d.ring r).fetched = c :: rest ∧ opcodeOf c.entry ≠ p.2) → exec p.1 s = .next s)

/-- The step commit (R244, R334 to R338, R454): a list that is in order waits for the pool engine, any other completes with BAD_LIST, and
one that is longer than every window with TOO_LONG. The engine takes the oldest commit, in the cyclic class where its window has room, and
empties the context's translations; it processes its list, counts, and completes it with the counts of each status, also when the context
has faulted. Each entry of the list then holds its status. Of a parity error the commit that it has taken ends with CTX_FAULTED. -/
def Obligations.CommitsGoThroughThePoolEngine : Prop :=
  ∀ (r id c : Nat) (e : Cmd) (q : RunCmd) (rest : List Cmd) (later : List (Nat × Nat)) (s : State), r < 64 → let d := s.dev
    let on (g : Dev) : Host.Outcome State Fault Refusal := .next { s with dev := { g with now := d.now } }
    let x := d.ctx c
    let l := d.lot x.lot
    (d.ringCtx r = some c → d.mayStart r 0x13 e rest → let g := d.started r e rest
      let long := x.cyclic && d.tooLong l c e.entry
      let ok := d.listOk (fld e.entry 8 8) && (d.poolD c).isSome
      (long = false → d.mayOccupy c e.entry = false → exec (.stepCommit ⟨r, false⟩) s = .next s) ∧
      (long = true → exec (.stepCommit ⟨r, false⟩) s = on ((g.done r d.nextId 0x45 []).pump r pumpMax)) ∧
      (long = false → d.mayOccupy c e.entry = true →
        (ok = false → exec (.stepCommit ⟨r, false⟩) s = on ((g.done r d.nextId 0x47 []).pump r pumpMax)) ∧
        (ok = true → exec (.stepCommit ⟨r, false⟩) s =
          on ((g.modPool fun p => { p with commits := p.commits ++ [(r, d.nextId)] }).pump r pumpMax)))) ∧
    (d.lit = false → exec .stepCommitProcess s = .next s ∧ exec (.stepCommit ⟨r, true⟩) s = .next s) ∧
    (d.lit = true → d.pool.busy = none →
      (d.engineTested 11 0 = true ∨ d.pool.commits = [] → exec .stepCommitProcess s = .next s) ∧
      (d.engineTested 11 0 = false → d.pool.commits = (r, id) :: later → d.ringCtx r = some c → (d.ring r).cmd id = some q →
        let g := d.modPool fun p => { p with commits := later }
        let ok := d.listOk (fld q.entry 8 8) && (d.poolD c).isSome
        (x.cyclic = true → d.inWindow l x.seat (d.maxOf l c q.entry) = false → exec .stepCommitProcess s = .next s) ∧
        ((x.cyclic = true → d.inWindow l x.seat (d.maxOf l c q.entry) = true) →
          (ok = false → exec .stepCommitProcess s = on (g.done r id 0x47 [])) ∧
          (ok = true → exec .stepCommitProcess s =
            on (((g.modPool fun p => { p with busy := some (r, id, c) }).modCmd r id fun y => { y with aux := 1 }).dropTrans c)))) ∧
      exec (.stepCommit ⟨r, true⟩) s = on (d.engineParity 11 0 ioUnit [])) ∧
    (d.lit = true → d.pool.busy = some (r, id, c) → let g := d.modPool fun p => { p with busy := none }
      (∀ p, (d.ring r).cmd id = some q → d.poolD c = some p → let z := g.commitList c p (fld q.entry 8 8)
        let h := ((z.2.bump 0x6050 c 8).bump 0x6050 c 9 (countSt z.1 1)).bump 0x6050 c 10 (countSt z.1 2)
        exec .stepCommitProcess s = on ((h.done r id 0 [(32, 2, countSt z.1 0), (34, 2, countSt z.1 1), (36, 2, countSt z.1 2),
          (38, 2, countSt z.1 3), (40, 2, countSt z.1 4), (44, 4, (h.reserveOf c).length), (48, 4, h.poolFld c 36)]).endOverrun
            (h.ctx c).lot c 0x13)) ∧
      exec (.stepCommit ⟨r, true⟩) s = on ((g.done r id 0x46 []).engineParity 11 0 ioUnit [c])) ∧
    (∀ p o i (y : ComEnt), let z := d.commitList c p o
      z.1[i]? = some y → bits (z.2.memVal (o + 16 + 8 * i) 8) 51 48 = y.st.getD 0 % 16)

/-! ## Attestation -/

/-- Attestation over the Porter link (R395 to R401), with the message layouts that the model takes from SPDM 1.3 (notes/assumptions/47.md):
with the link up, GET_VERSION starts the exchange, and each later request is answered in its place, with an ERROR of its code for another
version, another place or a bad operand, and of UnsupportedRequest for a request that is none of the seven (notes/assumptions/68.md);
digests, portions of the chain, a signature over the exchanges, and measurements come back, each kept for the transcripts that follow. A
report takes a leaf and one of the allowance; without an allowance, or a leaf that may be used, it is refused. The allowance grows by one a
second, up to 64; LMS_TREE_BUILD makes the next tree, or the one of the next leaf where that is not complete. -/
def Obligations.AttestationAnswersInOrder : Prop :=
  ∀ (m : Bytes) (s : State), let d := s.dev
    let b := d.boot
    let frame (r : Bytes) : Output := .porter (porterFrame 0x06 r)
    let tells (b' : Boot) (r : Bytes) : Host.Outcome State Fault Refusal :=
      .next { s with dev := { d with boot := b', out := d.out ++ [frame r] } }
    let requests : List (Instr × Nat × Bool) := [(.getCapabilities m, 0xE1, b.spdmVersion), (.negotiateAlgorithms m, 0xE3, b.spdmCaps),
      (.getDigests m, 0x81, b.spdmAlgs), (.getCertificate m, 0x82, b.spdmAlgs), (.challenge m, 0x83, b.spdmAlgs),
      (.getMeasurements m, 0xE0, b.spdmAlgs)]
    (∀ p ∈ ((.getVersion m, 0x84, true) : Instr × Nat × Bool) :: requests,
      (d.lit = false ∨ d.porterUp = false ∨ (byte m 1 ≠ p.2.1 ∧ byte m 1 ∈ spdmCodes) → exec p.1 s = .next s) ∧
      (d.lit = true → d.porterUp = true → byte m 1 ∉ spdmCodes → exec p.1 s = tells b (spdmError 7))) ∧
    (d.lit = true → d.porterUp = true →
      (byte m 1 = 0x84 → byte m 0 ≠ 0x10 → exec (.getVersion m) s = tells b (spdmError 0x41)) ∧
      (byte m 1 = 0x84 → byte m 0 = 0x10 → let r := bytesOf [0x10, 0x04, 0, 0, 0, 1, 0x00, 0x13]
        exec (.getVersion m) s = tells { b with
          spdmVersion := true, spdmCaps := false, spdmAlgs := false, spdmA := m ++ r, spdmB := [], spdmL := [] } r) ∧
      (∀ p ∈ requests, byte m 1 = p.2.1 →
        (byte m 0 ≠ 0x13 → exec p.1 s = tells b (spdmError 0x41)) ∧
        (byte m 0 = 0x13 → p.2.2 = false → exec p.1 s = tells b (spdmError 0x04))) ∧
      (byte m 0 = 0x13 →
        (byte m 1 = 0xE1 → b.spdmVersion = true → ∃ t ct, exec (.getCapabilities m) s = .next t ∧
          let r := layout 20 [(0, 1, 0x13), (1, 1, 0x61), (5, 1, ct), (8, 4, 0x16), (12, 4, 4096), (16, 4, 4096)]
          t.dev.out = d.out ++ [frame r] ∧ t.dev.boot = { b with spdmCaps := true, spdmA := b.spdmA ++ m ++ r }) ∧
        (byte m 1 = 0xE3 → b.spdmCaps = true →
          ((bit (fld m 8 4) 7 = false ∨ bit (fld m 12 4) 1 = false) → exec (.negotiateAlgorithms m) s = tells b (spdmError 1)) ∧
          (bit (fld m 8 4) 7 = true → bit (fld m 12 4) 1 = true →
            let r := layout 36 [(0, 1, 0x13), (1, 1, 0x63), (4, 2, 36), (6, 1, 1), (8, 4, 4), (12, 4, 0x80), (16, 4, 2)]
            exec (.negotiateAlgorithms m) s = tells { b with spdmAlgs := true, spdmA := b.spdmA ++ m ++ r } r)) ∧
        (b.spdmAlgs = true →
          (byte m 1 = 0x81 → let r := bytesOf [0x13, 0x01, 1, 1] ++ sha384 d.spdmChain
            exec (.getDigests m) s = tells { b with spdmB := b.spdmB ++ m ++ r, spdmL := [] } r) ∧
          (byte m 1 = 0x82 → let c := d.spdmChain
            let off := fld m 4 2
            ((byte m 2 % 16 ≠ 0 ∨ c.length ≤ off) → exec (.getCertificate m) s = tells b (spdmError 1)) ∧
            (byte m 2 % 16 = 0 → off < c.length → let part := (c.drop off).take (min (fld m 6 2) 4088)
              let r := layout 8 [(0, 1, 0x13), (1, 1, 0x02), (4, 2, part.length), (6, 2, c.length - off - part.length)] ++ part
              exec (.getCertificate m) s = tells { b with spdmB := b.spdmB ++ m ++ r, spdmL := [] } r)) ∧
          (byte m 1 = 0x83 →
            (byte m 2 % 16 ≠ 0 → exec (.challenge m) s = tells b (spdmError 1)) ∧
            (byte m 2 % 16 = 0 → ∃ t n k, exec (.challenge m) s = .next t ∧
              let sum := if byte m 3 = 0 then [] else sha384 b.digestBlocks.flatten
              let r := bytesOf [0x13, 0x03, 0, 1] ++ sha384 d.spdmChain ++ leBytes 32 n ++ sum ++ zeros 2 ++ sub m 36 8
              let sig := ecdsaSign b.scalar (sha384 (spdmSigned "responder-challenge_auth signing" (b.spdmA ++ b.spdmB ++ m ++ r))) k
              t.dev.out = d.out ++ [frame (r ++ sig)] ∧ t.dev.boot = { b with spdmB := [], spdmL := [] })) ∧
          (byte m 1 = 0xE0 → let signed := bit (byte m 2) 0
            (signed = true → byte m 36 % 16 ≠ 0 → exec (.getMeasurements m) s = tells b (spdmError 1)) ∧
            ((signed = true → byte m 36 % 16 = 0) →
              (∀ blocks : List Bytes, ((byte m 3 = 0 ∧ blocks = []) ∨ (byte m 3 = 0xFF ∧ blocks = b.digestBlocks)
                  ∨ ∃ v, b.measured (byte m 3) = some v ∧ blocks = [measBlock (byte m 3) (measType (byte m 3)) v]) →
                ∃ t n k, exec (.getMeasurements m) s = .next t ∧
                  let total := if byte m 3 = 0 then b.digestBlocks.length + 1 else 0
                  let r := bytesOf [0x13, 0x60, total, 0, blocks.length] ++ leBytes 3 blocks.flatten.length ++ blocks.flatten
                    ++ leBytes 32 n ++ zeros 2 ++ measCtx m
                  let l := b.spdmL ++ m ++ r
                  let sig := ecdsaSign b.scalar (sha384 (spdmSigned "responder-measurements signing" (b.spdmA ++ l))) k
                  t.dev.out = d.out ++ [frame (if signed then r ++ sig else r)] ∧
                  t.dev.boot = { b with spdmL := if signed then [] else l, spdmB := [] }) ∧
              (byte m 3 ∉ ([0, 0xFF, 0xF0] : List Nat) → b.measured (byte m 3) = none →
                exec (.getMeasurements m) s = tells b (spdmError 1)) ∧
              (byte m 3 = 0xF0 →
                ((b.lmsLost = true ∨ b.k = none ∨ 2 ^ 30 ≤ b.lmsNext) → exec (.getMeasurements m) s = tells b (spdmError 5)) ∧
                (b.lmsLost = false → b.k.isSome = true → b.lmsNext < 2 ^ 30 →
                  ((b.allowance = 0 ∨ d.treeBuffer (b.lmsNext / 32768) = none) →
                    exec (.getMeasurements m) s = tells b (spdmError 3)) ∧
                  (b.allowance ≠ 0 → (d.treeBuffer (b.lmsNext / 32768)).isSome = true →
                    (b.lmsNext < b.lmsLimit → ∃ t, exec (.getMeasurements m) s = .next t ∧ t.dev.boot.lmsNext = b.lmsNext + 1
                      ∧ t.dev.boot.allowance = b.allowance - 1 ∧ t.dev.boot.lmsLimit = b.lmsLimit
                      ∧ t.dev.out.length = d.out.length + 1) ∧
                    (b.lmsLimit ≤ b.lmsNext → exec (.getMeasurements m) s = .next { s with
                      dev := d.flashOp [] [(d.lmsPlace.1, lmsRecord (b.lmsLimit + 1024))] (.lmsLimit (b.lmsLimit + 1024) m) }))))))))) ∧
    (b.fwRun = true → b.allowAt + second ≤ d.now → exec .reportAllowanceRefill s = .next { s with dev := { d with
      boot := { b with allowance := min 64 (b.allowance + 1), allowAt := b.allowAt + second } } }) ∧
    ((b.fwRun = false ∨ d.now < b.allowAt + second) → exec .reportAllowanceRefill s = .next s) ∧
    (b.k = none → ∀ ok, exec (.lmsTreeBuild ok) s = .next s) ∧
    (∀ k ok, b.k = some k → let j := b.lmsNext / 32768
      let i := if (d.treeBuffer j).isNone then j else j + 1
      let due := b.fwRun = true ∧ b.lmsLost = false ∧ b.flashOps = [] ∧ (i = j + 1 → 32768 * (j + 1) - b.lmsNext ≤ 16384) ∧ i < 32768
        ∧ d.treeBuffer i = none
      (¬due → exec (.lmsTreeBuild ok) s = .next s) ∧
      (due → ∃ t, exec (.lmsTreeBuild ok) s = .next t ∧ t.dev.out = d.out ∧ t.dev.boot = if ok
        then { b with lmsTrees := (b.lmsTrees.filter fun x => x == j && x != i) ++ [i] } else b))

/-! ## The Ledger -/

/-- Requests to the Ledger meet their checks in one order (R170, R315, R371, R433, R436, R438, R439, R441 to R443): the index, the subindex,
the class, the access kind, the device state, the type, the length, the value, and an open write of another source; a read that passes
answers with the bytes asked, a write of an entry changes it and answers 0, and one of a command or of data acts. A ring's command and an
LAP frame ask so: a bad frame is dropped and counted, one answered before gets its kept answer, and frames of a long value are staged until
the last, for at most 10 s. A violation record that is read is re-armed. -/
def Obligations.LedgerRequestsAreCheckedInOrder : Prop :=
  (∀ (a : Asked) (i j off len : Nat) (d : Dev),
    let answers (st total : Nat) (v : Bytes) : Prop := d.ledgerRead a i j off len = d.respond a false i j st total v
    (indexKnown i = false → answers 1 0 []) ∧
    (indexKnown i = true → entryInfo i j = none → answers 2 0 []) ∧
    ∀ e, indexKnown i = true → entryInfo i j = some e →
      (d.permits a.req false i j 0 = false → answers 4 e.len []) ∧
      (d.permits a.req false i j 0 = true →
        ((e.access = .wo ∨ e.access = .cmd) → answers 3 e.len []) ∧
        ((e.access = .ro ∨ e.access = .rw) →
          (d.served i j = false → answers 0x0A e.len []) ∧
          (d.served i j = true →
            (d.entryValue i j e = none → answers 0x0A e.len []) ∧
            ∀ v, d.entryValue i j e = some v →
              ((v.length < off + len ∨ pathMax a.req.src < len) → answers 6 v.length []) ∧
              (off + len ≤ v.length → len ≤ pathMax a.req.src →
                (i / 16 ≠ 0x508 → answers 0 v.length (sub v off len)) ∧
                (i / 16 = 0x508 → d.ledgerRead a i j off len = (d.modChest (itemOf 0x5080 i j) fun x =>
                  { x with latched := false }).respond a false i j 0 v.length (sub v off len))))))) ∧
  (∀ (a : Asked) (i j off : Nat) (type : Option Nat) (bs : Bytes) (d : Dev),
    let no (st total : Nat) : Prop := d.ledgerWrite a i j type off bs = d.respond a true i j st total []
    let isCtx := (arrayOf i j).any fun y => y.1 == 0x5000
    (indexKnown i = false → no 1 0) ∧
    (indexKnown i = true → entryInfo i j = none → no 2 0) ∧
    ∀ e, indexKnown i = true → entryInfo i j = some e →
      (d.permits a.req true i j (leVal bs) = false → no 4 e.len) ∧
      (d.permits a.req true i j (leVal bs) = true →
        let part := isCtx = true ∧ ctxFieldOk off bs.length = false
        ((e.access = .ro ∨ part) → no 3 e.len) ∧
        (e.access ≠ .ro → ¬part →
          let there := d.served i j = true ∧ (e.access = .rw → (d.entryValue i j e).isSome = true)
          (¬there → no 0x0A e.len) ∧
          (there →
            (∀ t, type = some t → t ≠ e.type → no 5 e.len) ∧
            ((∀ t, type = some t → t = e.type) →
              let fits := (i = 0x1010 ∧ j = 1) ∨ writeLenOk i j e off bs.length = true
              (¬fits → no 6 e.len) ∧
              (fits → e.access ≠ .rw → d.ledgerWrite a i j type off bs = d.act a i j off bs) ∧
              (fits → e.access = .rw → let c := d.valueCheck i j off bs
                (c ≠ 0 → no c e.len) ∧
                (c = 0 → d.openFor a.req.src i j = true → no 9 e.len) ∧
                (c = 0 → d.openFor a.req.src i j = false →
                  (∀ lo hi, scalarRange i j = some (lo, hi, true) →
                    d.ledgerWrite a i j type off bs = d.persistEntry a i j e.len (leVal bs)) ∧
                  (∀ lo hi, scalarRange i j = some (lo, hi, false) →
                    d.ledgerWrite a i j type off bs = (d.setEntry i j (leVal bs)).respond a true i j 0 e.len []) ∧
                  (scalarRange i j = none →
                    d.ledgerWrite a i j type off bs = (d.applyWrite i j off bs).respond a true i j 0 e.len [])))))))) ∧
  (∀ (r : Nat) (c : Cmd) (rest : List Cmd) (s : State), r < 65 → let d := s.dev
    let on (g : Dev) : Host.Outcome State Fault Refusal := .next { s with dev := { g.pump r pumpMax with now := d.now } }
    let g := d.started r c rest
    let e := c.entry
    let len := fld e 12 2
    let buf := fld e 16 8
    let away (most : Nat) : Prop := (buf ≠ 0 ∨ most < len) ∧ (buf = 0 ∨ 4096 < len ∨ jobEnd < buf + len)
    let a : Asked := { req := { cls := if r = 64 then .mgmt else .host, src := .ring r, seq := d.nextId } }
    (d.mayStart r 0x20 c rest →
      (away 28 → exec (.ledgerRead r) s = on (g.respond a false (fld e 8 2) (byte e 10) 6 0 [])) ∧
      (¬ away 28 → exec (.ledgerRead r) s = on (g.ledgerRead a (fld e 8 2) (byte e 10) 0 len))) ∧
    (d.mayStart r 0x21 c rest →
      (away 32 → exec (.ledgerWrite r) s = on (g.respond a true (fld e 8 2) (byte e 10) 6 0 [])) ∧
      (¬ away 32 → exec (.ledgerWrite r) s = on (g.ledgerWrite a (fld e 8 2) (byte e 10) none 0
        (if buf = 0 then sub e 32 len else g.memAt buf len))))) ∧
  (∀ (src : ReqSrc) (f : Bytes) (s : State), let d := s.dev
    let on (g : Dev) : Host.Outcome State Fault Refusal := .next { s with dev := { g with now := d.now } }
    let h := d.heard src
    let a : Asked := { req := { cls := .mgmt, src := src, seq := fld f 4 2 }, offset := fld f 12 4 }
    let i := fld f 8 2
    let j := byte f 10
    let off := fld f 12 4
    let v := sub f 24 (fld f 16 2)
    let served := d.power.dstate ≠ .off ∧ lapOk src f = true
    (d.power.dstate = .off → exec (.lapRead src f) s = .next s ∧ exec (.lapWrite src f) s = .next s) ∧
    (d.power.dstate ≠ .off → lapOk src f = false →
      exec (.lapRead src f) s = on (d.bump 0x6080 3 0) ∧ exec (.lapWrite src f) s = on (d.bump 0x6080 3 0)) ∧
    (∀ p ∈ [(Instr.lapRead src f, 1), (.lapWrite src f, 2)], served →
      (byte f 3 ≠ p.2 → exec p.1 s = .next s) ∧
      (byte f 3 = p.2 → (∀ x, d.keptFor src (fld f 4 2) = some x → exec p.1 s = on ((h.bump 0x6080 3 2).sendLap a x)) ∧
        (d.keptFor src (fld f 4 2) = none → (∃ b ∈ d.ledger.asked, srcKey b.req.src = srcKey src ∧ b.req.seq = fld f 4 2) →
          exec p.1 s = on h))) ∧
    (served → d.keptFor src (fld f 4 2) = none → (∀ b ∈ d.ledger.asked, srcKey b.req.src = srcKey src → b.req.seq ≠ fld f 4 2) →
      (byte f 3 = 1 → exec (.lapRead src f) s = on (h.ledgerRead a i j off (fld f 16 2))) ∧
      (byte f 3 = 2 → let last := bit (byte f 11) 0
        let total := ((entryInfo i j).map fun e => e.len).getD 0
        let writes (g : Dev) (o : Nat) (bs : Bytes) : Prop := exec (.lapWrite src f) s = on (g.ledgerWrite a i j (some (byte f 7)) o bs)
        let answers (g : Dev) (st n : Nat) : Prop := exec (.lapWrite src f) s = on (g.respond a true i j st n [])
        let others := ∃ g ∈ d.ledger.staging, g.index = i ∧ g.sub = j ∧ srcKey g.src ≠ srcKey src
        ((i = 0x1010 ∧ j = 1) → writes h off v) ∧
        (¬ (i = 0x1010 ∧ j = 1) →
          (others → answers h 9 total) ∧
          (¬others → h.stagingOf src i j = none →
            (last = true → writes h off v) ∧
            (last = false → indexKnown i = false → answers h 1 0) ∧
            (last = false → indexKnown i = true → total = 0 → answers h 2 0) ∧
            (last = false → indexKnown i = true → total ≠ 0 → (off ≠ 0 ∨ total < v.length) → answers h 6 total) ∧
            (last = false → indexKnown i = true → total ≠ 0 → off = 0 → v.length ≤ total → answers (h.stage src i j v) 0 total)) ∧
          (∀ g, ¬others → h.stagingOf src i j = some g →
            (off = 0 → last = true → writes (h.unstage i j) 0 v) ∧
            (off = 0 → last = false → answers (h.stage src i j v) 0 total) ∧
            (off ≠ 0 → (off ≠ g.bytes.length ∨ total < off + v.length) → answers (h.unstage i j) 6 total) ∧
            (off ≠ 0 → off = g.bytes.length → off + v.length ≤ total →
              (last = true → writes (h.unstage i j) 0 (g.bytes ++ v)) ∧
              (last = false → answers (h.stage src i j (g.bytes ++ v)) 0 total)))))) ∧
    (∀ i j, (∃ g ∈ d.ledger.staging, g.index = i ∧ g.sub = j ∧ g.last + 10 * second ≤ d.now) →
      exec (.lapStagingTimeout i j) s = .next { s with dev := { d with ledger := { d.ledger with
        staging := d.ledger.staging.filter fun g => !(g.index == i && g.sub == j) } } }) ∧
    (∀ i j, (∀ g ∈ d.ledger.staging, g.index = i → g.sub = j → d.now < g.last + 10 * second) →
      exec (.lapStagingTimeout i j) s = .next s)) ∧
  ∀ (req : Requester) (c : Nat) (s : State), c < 2304 → let d := s.dev
    let i := 0x5080 + c / 256
    let tells (st : Nat) (v : Bytes) (g : Dev) : Prop :=
      exec (.violationRead req c) s = .next { s with dev := { g.respond { req := req } false i (c % 256) st 8 v with now := d.now } }
    (d.power.dstate = .off → exec (.violationRead req c) s = .next s) ∧
    (d.power.dstate ≠ .off → d.permits req false i (c % 256) 0 = false → tells 4 [] d) ∧
    (d.power.dstate ≠ .off → d.permits req false i (c % 256) 0 = true →
      (d.lit = false → tells 0x0A [] d) ∧
      (d.lit = true → tells 0 (leBytes 8 (d.chest c).violation.toNat) (d.modChest c fun x => { x with latched := false })))

/-- The commands of the Ledger (R202, R257, R276, R391, R392, R406, R436, R447, R452), of a class that may ask, while the device is not off:
PEERINV drops the copy of a peer's entry, RETRAIN retrains a port that is up, QRESET opens a queue anew with the next INC, LOGCLEAR empties
the log and erases its part of the flash, DREQ lowers and raises the rails, and an owner certificate or a minimum-version record that passes
its checks replaces the older copy in the flash. What may not act answers with its status, a class that may not ask gets CLASS, and a device
that is off answers nothing. -/
def Obligations.LedgerCommandsAct : Prop :=
  (∀ (req : Requester) (n p v : Nat) (x : Bytes) (s : State), s.dev.power.dstate = .off → n < 65536 → p < 18 → v < 65536 →
    ∀ i ∈ [Instr.peerinv req n, .retrain req p, .qreset req v, .logclear req, .dreqDAon req, .dreqDReady req, .ownerInstall req x,
      .minverInstall req x, .recoveryBegin req n v, .recoveryData req n x, .recoveryCommit req, .recoveryAbort req], exec i s = .next s) ∧
  ∀ (req : Requester) (s : State), s.dev.power.dstate ≠ .off → let d := s.dev
    let a : Asked := { req := req }
    let on (g : Dev) : Host.Outcome State Fault Refusal := .next { s with dev := { g with now := d.now } }
    let tells (i j st total : Nat) (g : Dev) : Host.Outcome State Fault Refusal := on (g.respond a true i j st total [])
    (∀ n, n < 65536 →
      (d.permits req true 0x4003 0 n = false → exec (.peerinv req n) s = tells 0x4003 0 4 2 d) ∧
      (d.permits req true 0x4003 0 n = true → exec (.peerinv req n) s =
        if d.lit = false then tells 0x4003 0 0x0A 2 d
        else if n < 16384 then tells 0x4003 0 0 2 { d with elveel := { d.elveel with
          cache := d.elveel.cache.filter fun p => p.1 != n
          fills := d.elveel.fills.map fun f => if f.1 = n then (n, true) else f } }
        else tells 0x4003 0 7 2 d)) ∧
    (∀ p, p < 18 →
      (d.permits req true 0x4012 p 1 = false → exec (.retrain req p) s = tells 0x4012 p 4 1 d) ∧
      (d.permits req true 0x4012 p 1 = true → exec (.retrain req p) s =
        if d.lit = false then tells 0x4012 p 0x0A 1 d
        else if (d.port p).st = .up ∨ (d.port p).st = .mgmtOnly ∨ (d.port p).st = .loop then tells 0x4012 p 0 1 (d.retrainPort p)
        else tells 0x4012 p 8 1 d)) ∧
    (∀ v, v < 65536 →
      (d.permits req true 0x50C0 0 v = false → exec (.qreset req v) s = tells 0x50C0 0 4 2 d) ∧
      (d.permits req true 0x50C0 0 v = true → exec (.qreset req v) s =
        if d.lit = false then tells 0x50C0 0 0x0A 2 d
        else if v % 4096 < 2304 then tells 0x50C0 0 0 2 (d.modStall (v % 4096) fun x => let w : RQueue := x.queues.get (v / 4096)
          { x with queues := x.queues.set (v / 4096) { w with isOpen := w.size != 0, inc := (w.inc + 1) % 16, msgs := [] } })
        else tells 0x50C0 0 7 2 d)) ∧
    (d.permits req true 0x7000 1 1 = false → exec (.logclear req) s = tells 0x7000 1 4 1 d) ∧
    (d.permits req true 0x7000 1 1 = true → exec (.logclear req) s = .next { s with dev := { d with
      ledger := { d.ledger with log := [], asked := d.ledger.asked ++ [a] }
      boot := { d.boot with
        flashOps := d.boot.flashOps ++ [{ erase := [(0x06520000, 0x40000)], prog := [], andThen := .answer req 0x7000 1 }] } } }) ∧
    (req.cls = .mgmt →
      (exec (.dreqDAon req) s = if d.power.dstate = .ready ∧ ((∀ p ∈ List.range 18, (d.port p).st ≠ .up) ∨ d.elveel.drain = .drained)
        then on (d.respond a true 0x2000 2 0 1 []).lowerRails else tells 0x2000 2 8 1 d) ∧
      (exec (.dreqDReady req) s = if d.power.dstate = .aon ∧ d.boot.fwRun = true ∧ d.power.bring = .none
        then on ((d.respond a true 0x2000 2 0 1 []).modPower fun p => { p with bring := .rails }) else tells 0x2000 2 8 1 d) ∧
      (∀ x, x.length = 3652 → exec (.ownerInstall req x) s =
        if ownerOk d.ident x = true ∧ ownerSerial d.boot.ownerCert < ownerSerial x
        then let o := d.olderCopy owner0 owner1 3652 (ownerOk d.ident) ownerSerial
          on ((d.await a).flashOp [(o, 0x10000)] [(o, x)] (.answer req 0x1004 1))
        else tells 0x1004 1 7 3652 d) ∧
      (∀ x, x.length ≠ 3652 → exec (.ownerInstall req x) s = tells 0x1004 1 6 3652 d) ∧
      (∀ x, x.length = 3460 → exec (.minverInstall req x) s =
        if minverOk d.ident x = true ∧ minverSeq d.boot.minver < minverSeq x ∧ minverSvn d.boot.minver ≤ minverSvn x
          ∧ minverSvn x ≤ fld d.boot.header 20 4 ∧ minverSvn x ≤ fld (d.flashAt (sourceAt 2) 576) 20 4
        then let o := d.olderCopy minver0 minver1 3460 (minverOk d.ident) minverSeq
          on ((d.await a).flashOp [(o, 0x10000)] [(o, x)] (.answer req 0x1005 1))
        else tells 0x1005 1 7 3460 d) ∧
      (∀ x, x.length ≠ 3460 → exec (.minverInstall req x) s = tells 0x1005 1 6 3460 d)) ∧
    (req.cls ≠ .mgmt → exec (.dreqDAon req) s = tells 0x2000 2 4 1 d ∧ exec (.dreqDReady req) s = tells 0x2000 2 4 1 d
      ∧ (∀ x, exec (.ownerInstall req x) s = tells 0x1004 1 4 3652 d) ∧ (∀ x, exec (.minverInstall req x) s = tells 0x1005 1 4 3460 d))

/-- Recovery, and the flash operations (R380, R389, R446, R447), of an MGMT request while the device is not off: RECOVERY_BEGIN erases a
slot that may be written, each chunk that meets no other is written where its offset tells, RECOVERY_COMMIT checks the slot once the
operations before it have ended, an abort or 60 s without a chunk ends it; a class other than MGMT gets CLASS. The flash operation in front
ends: what it erased and programmed stands, a persistent entry then has its value, and the request that waited is answered, with FLASH when
it failed. A commit whose image passes has the boot record prefer its slot, on trial, and then the device boots from it or updates itself;
one that does not pass ends with RANGE. -/
def Obligations.RecoveryWritesASlot : Prop :=
  (∀ (req : Requester) (slot total off : Nat) (x : Bytes) (s : State), s.dev.power.dstate ≠ .off → req.cls ≠ .mgmt → let d := s.dev
    let no (j total : Nat) (o : Nat) : Host.Outcome State Fault Refusal := .next { s with dev :=
      { d.respond { req := req, offset := o } true 0x1010 j 4 total [] with now := d.now } }
    exec (.recoveryBegin req slot total) s = no 0 8 0 ∧ exec (.recoveryData req off x) s = no 1 33554432 off
      ∧ exec (.recoveryCommit req) s = no 2 1 0 ∧ exec (.recoveryAbort req) s = no 2 1 0) ∧
  (∀ (req : Requester) (s : State), s.dev.power.dstate ≠ .off → req.cls = .mgmt → let d := s.dev
    let a : Asked := { req := req }
    let on (g : Dev) : Host.Outcome State Fault Refusal := .next { s with dev := { g with now := d.now } }
    let tells (j st total : Nat) (g : Dev) : Host.Outcome State Fault Refusal := on (g.respond a true 0x1010 j st total [])
    let able := d.boot.safe = true ∨ d.lit = true
    (∀ slot total, slot < 256 → total < 2 ^ 32 →
      ((1 < slot ∨ total = 0 ∨ 33554432 < total) → exec (.recoveryBegin req slot total) s = tells 0 7 8 d) ∧
      (slot ≤ 1 → 0 < total → total ≤ 33554432 →
        (d.slotOpen slot = false → exec (.recoveryBegin req slot total) s = tells 0 8 8 d) ∧
        (d.slotOpen slot = true → d.boot.recovery.isSome = true → exec (.recoveryBegin req slot total) s = tells 0 9 8 d) ∧
        (d.slotOpen slot = true → d.boot.recovery = none → exec (.recoveryBegin req slot total) s = .next { s with dev := { d with
          boot := { d.boot with
            recovery := some { slot := slot, total := total, chunks := [], last := d.now }
            flashOps := d.boot.flashOps ++ [{ erase := [(sourceAt slot, 0x02000000)], prog := [], andThen := .recoveryErased req }] }
          ledger := { d.ledger with asked := d.ledger.asked ++ [a] } } }))) ∧
    (∀ off x, let n := x.length
      let a : Asked := { req := req, offset := off }
      let tells (st : Nat) : Host.Outcome State Fault Refusal := on (d.respond a true 0x1010 1 st 33554432 [])
      ((n = 0 ∨ 1024 < n ∨ 33554432 < off + n) → exec (.recoveryData req off x) s = tells 6) ∧
      (1 ≤ n → n ≤ 1024 → off + n ≤ 33554432 →
        (d.boot.recovery = none → exec (.recoveryData req off x) s = tells 8) ∧
        (∀ v, d.boot.recovery = some v → let takes := able ∧ v.erased = true ∧ v.checking = false ∧
            ∀ c ∈ v.chunks, c.1 + c.2 ≤ off ∨ off + n ≤ c.1
          (¬ takes → exec (.recoveryData req off x) s = tells 8) ∧
          (takes → exec (.recoveryData req off x) s = .next { s with dev := { d with
            boot := { d.boot with
              recovery := some { v with chunks := v.chunks ++ [(off, n)], last := d.now }
              flashOps := d.boot.flashOps ++ [{ erase := [], prog := [(sourceAt v.slot + off, x)], andThen := .answer req 0x1010 1 }] }
            ledger := { d.ledger with asked := d.ledger.asked ++ [a] } } })))) ∧
    (d.boot.recovery = none → exec (.recoveryCommit req) s = tells 2 8 1 d ∧ exec (.recoveryAbort req) s = tells 2 8 1 d) ∧
    (∀ v, d.boot.recovery = some v →
      (able → v.erased = true → v.checking = false → exec (.recoveryCommit req) s = .next { s with dev := { d with
        boot := { d.boot with
          recovery := some { v with checking := true }
          flashOps := d.boot.flashOps ++ [{ erase := [], prog := [], andThen := .recoveryCheck req }] }
        ledger := { d.ledger with asked := d.ledger.asked ++ [a] } } }) ∧
      ((¬ able ∨ v.erased = false ∨ v.checking = true) → exec (.recoveryCommit req) s = tells 2 8 1 d) ∧
      exec (.recoveryAbort req) s = tells 2 0 1 { d with boot := { d.boot with recovery := none } })) ∧
  (∀ s : State, s.dev.boot.recovery = none → exec .recoveryIdleTimeout s = .next s) ∧
  (∀ (v : Recovery) (s : State), s.dev.boot.recovery = some v →
    (v.erased = true → v.checking = false → v.last + 60 * second ≤ s.dev.now →
      exec .recoveryIdleTimeout s = .next { s with dev := { s.dev with boot := { s.dev.boot with recovery := none } } }) ∧
    ((v.erased = false ∨ v.checking = true ∨ s.dev.now < v.last + 60 * second) → exec .recoveryIdleTimeout s = .next s)) ∧
  (∀ (ok : Bool) (s : State), s.dev.boot.flashOps = [] → exec (.flashOperationComplete ok) s = .next s) ∧
  ∀ (o : FlashOp) (rest : List FlashOp) (s : State), s.dev.boot.flashOps = o :: rest → let d : Dev :=
      { s.dev with boot := { s.dev.boot with flashOps := rest } }
    let on (g : Dev) : Host.Outcome State Fault Refusal := .next { s with dev := { g with now := d.now } }
    let good := d.flashNow o.erase o.prog
    (d.boot.flashUsable = true →
      (o.andThen = .nothing → exec (.flashOperationComplete true) s = on good) ∧
      (∀ req i j, o.andThen = .answer req i j → exec (.flashOperationComplete true) s = on (good.answerWrite req i j 0)) ∧
      (∀ req i j v, o.andThen = .setEntry req i j v →
        exec (.flashOperationComplete true) s = on ((good.setEntry i j v).answerWrite req i j 0)) ∧
      (∀ req v, o.andThen = .recoveryErased req → d.boot.recovery = some v → exec (.flashOperationComplete true) s =
        on (({ good with boot := { d.boot with recovery := some { v with erased := true, last := d.now } } } : Dev).answerWrite
          req 0x1010 0 0)) ∧
      (∀ req v, o.andThen = .recoveryCheck req → d.boot.recovery = some v →
        let st := (good.imageCheck v.slot (minverSvn d.boot.minver)).status
        let g := { good with boot := { d.boot with recovery := none, recStatus := st } }
        (st ≠ 0 → exec (.flashOperationComplete true) s = on (g.answerWrite req 0x1010 2 7)) ∧
        (st = 0 → exec (.flashOperationComplete true) s =
          on (g.bootRecLater { g.bootRec with pref := v.slot, trial := true, tries := 0 } (.prefSet req v.slot)))) ∧
      (∀ req slot, o.andThen = .prefSet req slot → let g := good.answerWrite req 0x1010 2 0
        exec (.flashOperationComplete true) s = on (if g.boot.safe then g.coldBoot else g.liveStart slot)) ∧
      (∀ n m, o.andThen = .lmsLimit n m → exec (.flashOperationComplete true) s = on (good.lmsReserved n m)) ∧
      (o.andThen = .trialCleared → exec (.flashOperationComplete true) s = on good)) ∧
    (∀ ok, (ok = false ∨ d.boot.flashUsable = false) → let torn := d.tornOp o
      ((o.andThen = .nothing ∨ o.andThen = .trialCleared) → exec (.flashOperationComplete ok) s = on torn) ∧
      (∀ req i j v, (o.andThen = .answer req i j ∨ o.andThen = .setEntry req i j v) →
        exec (.flashOperationComplete ok) s = on (torn.answerWrite req i j 0x0B)) ∧
      (∀ req, o.andThen = .recoveryErased req → exec (.flashOperationComplete ok) s =
        on (({ torn with boot := { torn.boot with recovery := none } } : Dev).answerWrite req 0x1010 0 0x0B)) ∧
      (∀ req v, o.andThen = .recoveryCheck req → d.boot.recovery = some v → exec (.flashOperationComplete ok) s =
        on (({ torn with boot := { torn.boot with recovery := none, recStatus := 1 } } : Dev).answerWrite req 0x1010 2 0x0B)) ∧
      (∀ n m, o.andThen = .lmsLimit n m → exec (.flashOperationComplete ok) s = on (torn.spdm (spdmError 5))) ∧
      (∀ req slot, o.andThen = .prefSet req slot → exec (.flashOperationComplete ok) s = on (torn.answerWrite req 0x1010 2 0x0B)))

/-! ## Service -/

/-- Targeted tests (R458 to R465, R473, R474): a test starts once its contexts have passed step 4 of their teardowns, its work has
completed, and fewer than 32 tests run or come before it; its unit is out of service, with the tiles' cores at their first order, and a
tested switch point's bit set in the fault map. Its end rewrites the record of the error and raises UNIT_ERROR: a pass returns the unit,
unless it is the fourth within a day; a failure, or that fourth, is lasting, and the unit is fenced; a lasting outcome needs two Clerks that
may decide, and when they disagree nothing is applied. A row repair ends with ROW_REPAIRED, and without a spare row the pool frames of the
row are withdrawn. -/
def Obligations.TestsDecideTheUnit : Prop :=
  (∀ (id : Nat) (s : State), s.dev.service.tests.find? (fun t => t.id = id) = none → exec (.targetedTestStart id) s = .next s) ∧
  (∀ (id : Nat) (r : TestResult) (s : State),
    (s.dev.service.tests.find? (fun t => t.id = id && t.running) = none ∨ s.dev.lit = false) → exec (.targetedTestEnd id r) s = .next s) ∧
  (∀ (id : Nat) (t : UTest) (s : State), s.dev.service.tests.find? (fun t => t.id = id) = some t → let d := s.dev
    let before := (d.service.tests.filter fun u => decide (u.id < id) && d.testReady u).length
    let begun : Dev := { d with service := { d.service with
      tests := d.service.tests.map fun u => if u.id = id then { u with running := true, started := d.now } else u } }
    ((d.lit = false ∨ d.testReady t = false ∨ 32 ≤ d.testsRunning + before) → exec (.targetedTestStart id) s = .next s) ∧
    (d.lit = true → d.testReady t = true → d.testsRunning + before < 32 →
      (unitBlock t.uclass t.unit = none → t.uclass ≠ 6 → exec (.targetedTestStart id) s = .next { s with dev := begun }) ∧
      (t.uclass = 6 → exec (.targetedTestStart id) s = .next { s with dev :=
        { if (d.port t.unit).st = .down ∨ (d.port t.unit).st = .failed then begun else begun.maskPort t.unit .down with now := d.now } }) ∧
      ∀ b, unitBlock t.uclass t.unit = some b →
        (((d.block b).awake = true ∨ (d.block b).fenced = true ∨ d.retired b = true) →
          let maps := (t.uclass = 2 ∨ t.uclass = 3) ∧ d.grid.faultMap.contains b = false
          let marked := begun.service.tests.map fun u => if u.id = id then { u with mapped := true } else u
          ∃ u, exec (.targetedTestStart id) s = .next u
            ∧ u.dev.service = (if maps then { begun.service with tests := marked } else begun.service)
            ∧ u.dev.grid.faultMap = (if maps then insertUp b d.grid.faultMap else d.grid.faultMap)
            ∧ u.dev.block b = { d.block b with testing := true, island := .run, quiet := none }
            ∧ (∀ c, c ≠ b → u.dev.block c = d.block c)
            ∧ ∀ n ∈ testTiles t.uclass t.unit b, (u.dev.core n).stat = .run ∧ (u.dev.core n).pc = 0) ∧
        ((d.block b).awake = false → (d.block b).fenced = false → d.retired b = false → exec (.targetedTestStart id) s = .next { s with
          dev := { d.askIsland (((d.lotOf b).map d.lot).getD {}) b 2 none with now := d.now } }))) ∧
  (∀ (id : Nat) (t : UTest) (s : State), s.dev.service.tests.find? (fun t => t.id = id && t.running) = some t → s.dev.lit = true →
    let d := s.dev
    let on (g : Dev) : Host.Outcome State Fault Refusal := .next { s with dev := { g with now := d.now } }
    let old := d.service.trans.filter fun (x : Nat × Nat × Nat) => d.now < x.2.2 + day
    let count (l : List (Nat × Nat × Nat)) : Nat := (l.filter fun x => x.1 == t.uclass && x.2.1 == t.unit).length
    let ended (trans : List (Nat × Nat × Nat)) (lasting : Bool) (test halt : Nat) : Dev :=
      let g : Dev := { d with service := { d.service with trans := trans, tests := d.service.tests.filter fun u => u.id != id } }
      let g := match unitBlock t.uclass t.unit with
        | some b => (g.afterTest t b).unmapTested t b
        | none => g
      let out := if lasting then 2 else 1
      let g := (g.logRewrite t.logSeq fun x => { x with
        outcome := out, persist := x.persist || lasting, testId := test, tcount := count trans, halt := halt }).event 0x30
          [(32, 1, t.uclass), (33, 1, out), (34, 2, t.ekind), (36, 4, t.unit), (40, 1, test), (44, 4, t.logSeq)]
      if t.uclass = 8 then g.event 0x37 [(32, 1, t.unit), (33, 1, out)] else g
    let last := (testsOf t.ekind t.uclass).getLastD 0
    let out (g : Dev) : Dev := if (unitBlock t.uclass t.unit).isSome then (g.fenceUnit t).inService t else g.fenceUnit t
    let now := old ++ [(t.uclass, t.unit, d.now)]
    (count now < 4 → exec (.targetedTestEnd id .pass) s = on ((ended now false last 0).inService t)) ∧
    (4 ≤ count now → d.mayDecide = true → exec (.targetedTestEnd id .pass) s = on (out (ended now true last 0))) ∧
    (4 ≤ count now → d.mayDecide = false → exec (.targetedTestEnd id .pass) s = .next s) ∧
    (∀ i h, i ∈ testsOf t.ekind t.uclass → d.mayDecide = true →
      exec (.targetedTestEnd id (.fail i h)) s = on (out (ended old true i h))) ∧
    (∀ i h, (i ∉ testsOf t.ekind t.uclass ∨ d.mayDecide = false) → exec (.targetedTestEnd id (.fail i h)) s = .next s) ∧
    (∀ a b, let two := clerkPool a ≠ clerkPool b ∧ (d.service.clerks.get a).up = true ∧ (d.service.clerks.get b).up = true
      (¬two → exec (.targetedTestEnd id (.disagree a b)) s = .next s) ∧
      (two → exec (.targetedTestEnd id (.disagree a b)) s = on (each [a, b] (fun k g => let cs := g.homedOn k
        let v := g.service
        ({ g with service := { v with
          tests := v.tests ++ [{ id := v.nextId, uclass := 8, unit := k, ekind := 0, logSeq := 0, ctxs := [] }]
          nextId := v.nextId + 1 } } : Dev).clerkDown k cs) d)))) ∧
  (∀ (t : UTest) (d : Dev), let told (g : Dev) : Dev := g.event 0x31 [(32, 1, t.uclass), (36, 4, t.unit)]
    (∀ b, unitBlock t.uclass t.unit = some b → let g := d.fenceBlock b
      let g := if t.uclass = 2 then (({ g with grid := { g.grid with faultMap := insertUp b g.grid.faultMap } } : Dev).event 0x32
        [(32, 2, b)]).fenceShelves b t.ekind true t.ctxs else g
      d.fenceUnit t = (told (g.fenceShelves b t.ekind false t.ctxs)).spareBlock b) ∧
    (unitBlock t.uclass t.unit = none →
      let g := told { d with service := { d.service with fenced := d.service.fenced ++ [(t.uclass, t.unit)] } }
      let row := rowOff (rowKey t.addr)
      let repairs := t.uclass = 4 ∧ (t.ekind = 0x05 ∨ (t.ekind = 0x12 ∧ t.addr ≠ 0)) ∧ (∀ r ∈ g.conc.repairs, r.row ≠ row)
      (¬repairs → d.fenceUnit t = g) ∧
      (repairs → d.fenceUnit t = { g with conc := { g.conc with
        repairs := g.conc.repairs ++ [{ slice := t.unit, row := row, started := g.now }] } }))) ∧
  (∀ (slice : Nat) (left : Bool) (s : State), slice < 128 →
    (s.dev.conc.repairs.find? (fun r => r.slice = slice) = none ∨ s.dev.lit = false) → exec (.rowRepairComplete slice left) s = .next s) ∧
  ∀ (slice : Nat) (r : Repair) (s : State), slice < 128 → s.dev.conc.repairs.find? (fun r => r.slice = slice) = some r →
    s.dev.lit = true → let d := s.dev
    let on (g : Dev) : Host.Outcome State Fault Refusal := .next { s with dev := { g with now := d.now } }
    let tells (v : Nat) (g : Dev) : Dev := (g.event 0x38 [(32, 1, slice), (33, 1, v), (40, 8, r.row)]).eventLog r.row
    let left := modFirst (fun q => q.slice = slice) (fun q => { q with started := d.now }) (d.conc.repairs.filter fun q => q != r)
    exec (.rowRepairComplete slice true) s = on (tells 1 { d with conc := { d.conc with
      repairs := left
      softRows := insertUp r.row d.conc.softRows } }) ∧
    exec (.rowRepairComplete slice false) s = on (tells 2 { d with conc := { d.conc with
      repairs := left
      noSpare := insertUp r.row d.conc.noSpare
      withdrawn := (rowFrames r.row).foldl (fun l f => insertUp f l) d.conc.withdrawn } })

/-- Scrubbing and the Clerks (R466 to R472, R475): a corrected word is counted for its block; an uncorrectable one of a front shelf faults
the context and drops the shelf, of a back shelf loses it, of a route retrains the ports it names, and each is logged and tested; a pass and
a check of the scrubber are due after 10 ms and 100 ms. A Clerk that fails faults the contexts it was home to, which move to the lowest
Clerk in service, and is tested; without a Clerk in the fabric pool the device goes to D-AON. A Clerk tests itself once in 60 s, and a
live update goes Clerk by Clerk. -/
def Obligations.ScrubbersAndClerksAreKept : Prop :=
  (∀ (w : ScrubWord) (s : State), w.there = true → let d := s.dev
    let on (g : Dev) : Host.Outcome State Fault Refusal := .next { s with dev := { g with now := d.now } }
    let c := (scrubUnit w).1
    let u := (scrubUnit w).2
    (∀ e, e ≠ .corrected → e ≠ .uncorrectable → exec (.scrubWordRead w e) s = .next s) ∧
    (d.lit = false → ∀ e, exec (.scrubWordRead w e) s = .next s) ∧
    (d.lit = true →
      exec (.scrubWordRead w .corrected) s = on ((if c = 3
        then ({ d with service := { d.service with scrubCorr := d.service.scrubCorr.mod u (· + 1) } } : Dev) else d).corrected c u) ∧
      (∀ b i k, w = .frontShelf b i → d.lotOf b = some k → (d.lot k).front.kind ≠ 0 → let x := (d.lot k).front.ctx
        exec (.scrubWordRead w .uncorrectable) s = on (((d.faultCtx x 0x0023 (4 * b) 0).dropFront k).unitError 0x09 3 b [x] 0x0023 0)) ∧
      (∀ b i, w = .frontShelf b i → (∀ k, d.lotOf b = some k → (d.lot k).front.kind = 0) →
        exec (.scrubWordRead w .uncorrectable) s = on (d.unitError 0x09 3 b [] 0 0)) ∧
      (∀ b i, w = .backShelf b i → d.lotOf b = none →
        exec (.scrubWordRead w .uncorrectable) s = on (d.unitError 0x09 3 b [] 0 0)) ∧
      (∀ b i k, w = .backShelf b i → d.lotOf b = some k →
        exec (.scrubWordRead w .uncorrectable) s = on ((d.backLost k b 0x09).unitError 0x09 3 b [] 0 0)) ∧
      (∀ n, w = .route n → exec (.scrubWordRead w .uncorrectable) s = on ((each ((routeCands (d.elveel.routes.get n)).filter
        fun q => (d.port q.1).carries) (fun q g => g.retrainPort q.1) d).unitError 0x09 7 0 [] 0 0)) ∧
      ((∀ n, w = .gridMap n ∨ w = .switchMap n ∨ w = .board n →
        exec (.scrubWordRead w .uncorrectable) s = on (d.unitError 0x09 c u [] 0 0))))) ∧
  (∀ s : State, let d := s.dev
    let v := d.service
    (∀ n, d.lit = true → v.scrubAt + 10 * msec ≤ d.now → exec (.scrubPassEnd n) s =
      .next { s with dev := { d with service := { v with scrubAt := d.now, scrubFix := v.scrubFix + n } } }) ∧
    (∀ n, (d.lit = false ∨ d.now < v.scrubAt + 10 * msec) → exec (.scrubPassEnd n) s = .next s) ∧
    (∀ crc, crc < 2 ^ 32 → d.lit = true → v.scrubCheckAt + 100 * msec ≤ d.now → let want := Config.scrubberRomCrc % 2 ^ 32
      (crc = want → exec (.scrubberCheck crc) s = .next { s with dev := { d with service := { v with scrubCheckAt := d.now } } }) ∧
      (crc ≠ want → let g : Dev := { d with service := { v with scrubCheckAt := d.now, scrubAt := d.now } }
        exec (.scrubberCheck crc) s = .next { s with dev := { (g.logAdd { seq := 0, persist := true, ekind := 0x11, uclass := 12 }).2.event
          0x36 [(36, 4, crc), (40, 4, want)] with now := d.now } })) ∧
    (∀ crc, crc < 2 ^ 32 → (d.lit = false ∨ d.now < v.scrubCheckAt + 100 * msec) → exec (.scrubberCheck crc) s = .next s)) ∧
  (∀ (k : Nat) (s : State), k < 36 → let d := s.dev
    let clerk : Clerk := d.service.clerks.get k
    let p := clerkPool k
    let others := ((d.poolUp p).filter fun i => i != k) ++ if p = 2 then [] else (d.poolUp (1 - p)).filter fun i => i != k
    (∀ i ∈ [Instr.clerkWdt k, .clerkUe k],
      ((d.lit = false ∨ clerk.up = false) → exec i s = .next s) ∧
      (d.lit = true → clerk.up = true →
        (∀ h rest, others = h :: rest → ∃ t, exec i s = .next t ∧ (t.dev.service.clerks.get k).up = false
          ∧ (t.dev.service.tests.any fun x => x.uclass == 8 && x.unit == k) = true
          ∧ ∀ c, (d.ctx c).state = .bound → d.service.home.get c = k →
              t.dev.hasFaulted c 0x0022 ioUnit ∧ t.dev.service.home.get c = h) ∧
        (p ≠ 2 → others = [] → ∃ t, exec i s = .next t ∧ (t.dev.service.clerks.get k).up = false
          ∧ (t.dev.service.tests.any fun x => x.uclass == 8 && x.unit == k) = true) ∧
        (p = 2 → others = [] → ∃ t, exec i s = .next t ∧ t.dev.power.dstate = .aon ∧ t.dev.power.mainStart = none
          ∧ t.dev.diesLost))) ∧
    let due := d.lit = true ∧ clerk.up = true ∧ (∃ i ∈ d.poolUp p, i ≠ k) ∧ clerk.testAt + 60 * second ≤ d.now
      ∧ ∀ t ∈ d.service.tests, t.uclass = 8 → clerkPool t.unit = p → t.running = false
    (due → exec (.clerkPeriodicTest k true) s = .next { s with dev := { d with service := { d.service with
      clerks := d.service.clerks.mod k fun c => { c with testAt := d.now } } } }) ∧
    (due → exec (.clerkPeriodicTest k false) s = exec (.clerkUe k) s) ∧
    (¬ due → ∀ ok, exec (.clerkPeriodicTest k ok) s = .next s)) ∧
  ∀ (k : Nat) (s : State), let d := s.dev
    let v := d.service
    let on (g : Dev) : Host.Outcome State Fault Refusal := .next { s with dev := { g with now := d.now } }
    (v.update = none → ∀ a b, exec (.clerkUpdate a b) s = .next s) ∧
    (v.update = some k → (∀ i, nextClerk v.clerks k = some i →
        (∀ ok, exec (.clerkUpdate false ok) s = on (d.liveFail 2 0x0B)) ∧
        exec (.clerkUpdate true false) s = on (d.liveFail 2 0xFF) ∧
        let clerks := v.clerks.mod i fun c => { c with newFw := true, wdtAt := d.now, testAt := d.now }
        let g : Dev := { d with service := { v with update := some (i + 1), clerks := clerks } }
        ((nextClerk clerks (i + 1)).isSome = true → exec (.clerkUpdate true true) s = .next { s with dev := g }) ∧
        (nextClerk clerks (i + 1) = none → exec (.clerkUpdate true true) s = on g.liveEnd)) ∧
      (nextClerk v.clerks k = none → ∀ a b, exec (.clerkUpdate a b) s = on d.liveEnd)) ∧
    ((d.liveEnd.service.update = none ∧ d.liveEnd.boot.liveUpdated = true) ∧ ∀ st, (d.liveFail 2 st).service.update = none)

/-! ## The tile's core under test -/

/-- The orders of a tile's core (R152 to R154, R178, R458), in the opcode's turn on a core that runs: a register takes its value, the core
goes on at the next order or at the target of a branch, and halts with 0xFFFFFFF1 where a PC or a window address is out of range, with
0xFFFFFFF0 at a reserved order, and with 0xFFFFFFF2 after a wait of more than 2^20 cycles. g0 reads 0 and takes nothing. An access of a
Chest waits for the SVC port's turn; one that meets a double error faults the owner of the bank. A message to a unit that takes none, or
that no path leads to, is dropped with its event. No order changes another core. A status word that R458 does not list, a word that an
access cannot read, and a register above g63 that SENDT names, is a free value (notes/assumptions/54.md). -/
def Obligations.TileOrdersRun : Prop :=
  ∀ (u : Nat) (s : State), isTile u = true → let d := s.dev
    let x := d.core u
    let on (g : Dev) : Host.Outcome State Fault Refusal := .next { s with dev := { g with now := d.now } }
    let core (f : Trestle → Trestle) : Host.Outcome State Fault Refusal := .next { s with dev := { d with trestles := d.trestles.mod u f } }
    let stops (code : Nat) (t : Trestle) : Trestle := { t with stat := .halted code, ranAt := some d.now }
    let goesTo (pc : Int) (t : Trestle) : Trestle :=
      if 0 ≤ pc ∧ pc < 1024 then { t with pc := pc.toNat, stat := .run, ranAt := some d.now } else stops 0xFFFFFFF1 t
    let goesOn (t : Trestle) : Trestle := goesTo (t.pc + 1) t
    let sets (i : Nat) (v : W32) (t : Trestle) : Trestle := if i = 0 ∨ 64 ≤ i then t else { t with regs := t.regs.set i v }
    (d.coreRuns u = true → reservedOrder (x.prog.get x.pc) = true → exec (.halt u) s = core (stops 0xFFFFFFF0)) ∧
    (∀ w : W32,
      let a := x.g (tA w)
      let b := x.g (tB w)
      let c := x.g (tC w)
      let writes (v : W32) : Host.Outcome State Fault Refusal := core fun t => goesOn (sets (tA w) v t)
      let branch (p : Prop) [Decidable p] : Host.Outcome State Fault Refusal :=
        core fun t => if p then goesTo (t.pc + (w.extractLsb' 0 14).toInt) t else goesOn t
      (d.tileOrder u 0x00 = some w → exec (.halt u) s = core (stops a.toNat)) ∧
      (d.tileOrder u 0x01 = some w → exec (.add u) s = writes (b + c)) ∧
      (d.tileOrder u 0x02 = some w → exec (.sub u) s = writes (b - c)) ∧
      (d.tileOrder u 0x03 = some w → exec (.andT u) s = writes (b &&& c)) ∧
      (d.tileOrder u 0x04 = some w → exec (.orT u) s = writes (b ||| c)) ∧
      (d.tileOrder u 0x05 = some w → exec (.xorT u) s = writes (b ^^^ c)) ∧
      (d.tileOrder u 0x06 = some w → exec (.shl u) s = writes (b <<< (c.toNat % 32))) ∧
      (d.tileOrder u 0x07 = some w → exec (.shr u) s = writes (b >>> (c.toNat % 32))) ∧
      (d.tileOrder u 0x08 = some w → exec (.sra u) s = writes (b.sshiftRight (c.toNat % 32))) ∧
      (d.tileOrder u 0x09 = some w → exec (.mul u) s = writes (b * c)) ∧
      (d.tileOrder u 0x0A = some w → exec (.sltu u) s = writes (if b.toNat < c.toNat then 1 else 0)) ∧
      (d.tileOrder u 0x10 = some w → exec (.addi u) s = writes (b + BitVec.ofInt 32 (w.extractLsb' 0 14).toInt)) ∧
      (d.tileOrder u 0x11 = some w → exec (.li u) s = writes (BitVec.ofInt 32 (w.extractLsb' 0 20).toInt)) ∧
      (d.tileOrder u 0x12 = some w → exec (.lih u) s = writes (w.extractLsb' 0 16 ++ a.extractLsb' 0 16)) ∧
      (d.tileOrder u 0x2D = some w → exec (.crc u) s = writes (~~~ ((leBytes 4 b.toNat).foldl crcByte (~~~ a)))) ∧
      (d.tileOrder u 0x20 = some w → exec (.beq u) s = branch (a = b)) ∧
      (d.tileOrder u 0x21 = some w → exec (.bne u) s = branch (a ≠ b)) ∧
      (d.tileOrder u 0x22 = some w → exec (.bltu u) s = branch (a.toNat < b.toNat)) ∧
      (d.tileOrder u 0x23 = some w → exec (.jmp u) s = core fun t => goesTo (t.pc + (w.extractLsb' 0 20).toInt) t) ∧
      (d.tileOrder u 0x2C = some w → exec (.waitc u) s = core fun t => if t.pc + 1 < 1024
        then { t with pc := t.pc + 1, stat := .waitUntil (d.now + b.toNat), ranAt := some d.now } else stops 0xFFFFFFF1 t) ∧
      (d.tileOrder u 0x18 = some w →
        (windowAddr u w x = none → exec (.ld u) s = core (stops 0xFFFFFFF1)) ∧
        (∀ p, windowAddr u w x = some p →
          (u < 0x1000 → exec (.ld u) s = writes (BitVec.ofNat 32 (leVal (memRead 0 d.tiles (32768 * u + p) 4)))) ∧
          (0x1000 ≤ u → let c := u - 0x1000
            let used := d.modChest c fun y => { y with svcAt := some (d.now, p / 64 % 16) }
            (d.windowWaits u p = true → exec (.ld u) s = .next s) ∧
            (d.windowWaits u p = false → d.windowOn u p = true → d.svcBad c p = false →
              let v := BitVec.ofNat 32 (d.memVal (chestOff c + p) 4)
              exec (.ld u) s = on { used with trestles := d.trestles.mod u fun t => goesOn (sets (tA w) v t) }) ∧
            (d.windowWaits u p = false → d.windowOn u p = true → d.svcBad c p = true → ∃ t v, exec (.ld u) s = .next t
              ∧ t.dev.core u = goesOn (sets (tA w) v x) ∧ (∀ n, n ≠ u → t.dev.core n = d.core n)
              ∧ ∀ o, d.bankOwner c (p / 64 % 16) = some o → (d.ctx o).state = .bound → t.dev.hasFaulted o 0x0004 u) ∧
            (d.windowOn u p = false → ∃ t v, exec (.ld u) s = .next t ∧ t.dev.mem = d.mem
              ∧ t.dev.trestles = d.trestles.mod u fun t => goesOn (sets (tA w) v t))))) ∧
      (d.tileOrder u 0x19 = some w →
        (windowAddr u w x = none → exec (.st u) s = core (stops 0xFFFFFFF1)) ∧
        (∀ p, windowAddr u w x = some p → let v := leBytes 4 a.toNat
          let c := u - 0x1000
          let ran : Dev := { d with trestles := d.trestles.mod u goesOn }
          (u < 0x1000 → exec (.st u) s = on { ran with tiles := memWrite 0 d.tiles (32768 * u + p) v }) ∧
          (0x1000 ≤ u → d.windowWaits u p = true → exec (.st u) s = .next s) ∧
          (0x1000 ≤ u → d.windowOn u p = false → exec (.st u) s = on ran) ∧
          (0x1000 ≤ u → d.windowWaits u p = false → d.windowOn u p = true →
            exec (.st u) s = on ((ran.memPut (chestOff c + p) v).modChest c fun y =>
              { y with
                svcAt := some (d.now, p / 64 % 16)
                badWords := y.badWords.filter fun q => q != (p / 64, p % 64 / 4) })))) ∧
      (d.tileOrder u 0x29 = some w →
        (x.queue = [] → exec (.recvt u) s = core fun t => match t.stat with
          | .waitMsg _ => t
          | _ => { t with stat := .waitMsg d.now }) ∧
        (∀ m rest, x.queue = m :: rest → ∃ t, exec (.recvt u) s = .next t
          ∧ (t.dev.core u).queue = rest ∧ (∀ n, n ≠ u → t.dev.core n = d.core n)
          ∧ (x.pc + 1 < 1024 → (t.dev.core u).pc = x.pc + 1 ∧ (t.dev.core u).stat = .run)
          ∧ (1024 ≤ x.pc + 1 → (t.dev.core u).stat = .halted 0xFFFFFFF1)
          ∧ ∀ i, i < 64 → (t.dev.core u).g i = if i ≠ 0 ∧ tA w ≤ i ∧ i ≤ tA w + 3 then m.words.getD (i - tA w) 0 else x.g i)) ∧
      (d.tileOrder u 0x2A = some w →
        (exec (.test u none) s = core fun t => match t.stat with
          | .waitTest _ => t
          | _ => { t with stat := .waitTest d.now }) ∧
        (∀ v, exec (.test u (some v)) s = writes (BitVec.ofNat 32 v))) ∧
      (d.tileOrder u 0x2B = some w → let n := bits w.toNat 13 0
        (n = 0 → exec (.csr u) s = writes (BitVec.ofNat 32 u)) ∧
        (n = 1 → exec (.csr u) s = writes (BitVec.ofNat 32 (d.time % 2 ^ 32))) ∧
        (n = 2 → exec (.csr u) s = writes (BitVec.ofNat 32 (d.time / 2 ^ 32))) ∧
        (n = 3 → exec (.csr u) s = writes (BitVec.ofNat 32 x.queue.length)) ∧
        (3 < n → ∃ t v, exec (.csr u) s = .next t ∧ t.dev.trestles = d.trestles.mod u fun t => goesOn (sets (tA w) v t))) ∧
      (d.tileOrder u 0x28 = some w → let n := bits w.toNat 1 0
        let to_ := bits b.toNat 12 0
        let pkt (q lane : Nat) (ws : List W32) : RPkt := {
          ddev := 0x3FFF, dunit := to_, tag := bits b.toNat 18 13, nw := n, qinc := q, dinc := d.elveel.inc
          sdev := d.elveel.devnum, sunit := u, words := ws, at_ := d.now + 1, lane := lane }
        let sent (f : Dev → Prop) : Prop := ∃ t, exec (.sendt u) s = .next t ∧ t.dev.trestles = d.trestles.mod u goesOn ∧ f t.dev
        ((d.unitHome to_ = none ∨ ∃ h, d.unitHome to_ = some h ∧ d.chooseLane (tileBlock u) h = none) → sent fun _ => True) ∧
        ∀ h lane, d.unitHome to_ = some h → d.chooseLane (tileBlock u) h = some lane →
          (4 ≤ (d.inbuf (tileBlock u) 4 lane).length → exec (.sendt u) s = .next s) ∧
          ((d.inbuf (tileBlock u) 4 lane).length < 4 → sent fun g => ∃ q ws, ws.length = n + 1
            ∧ (∀ i, i ≤ n → tA w + i < 64 → ws.getD i 0 = x.g (tA w + i))
            ∧ g.inbuf (tileBlock u) 4 lane = d.inbuf (tileBlock u) 4 lane ++ [pkt q lane ws]))) ∧
    ((∀ since, x.stat ≠ .waitMsg since ∧ x.stat ≠ .waitTest since) → exec (.trestleWaitTimeout u) s = .next s) ∧
    ((d.lit = false ∨ (d.block (tileBlock u)).testing = false) → exec (.trestleWaitTimeout u) s = .next s) ∧
    (∀ since, (x.stat = .waitMsg since ∨ x.stat = .waitTest since) → d.lit = true → (d.block (tileBlock u)).testing = true →
      (since + 2 ^ 20 < d.now → exec (.trestleWaitTimeout u) s = core fun t => { t with stat := .halted 0xFFFFFFF2 }) ∧
      (d.now ≤ since + 2 ^ 20 → exec (.trestleWaitTimeout u) s = .next s)) ∧
    (∀ p ∈ [(Instr.add u, 0x01), (.sub u, 0x02), (.andT u, 0x03), (.orT u, 0x04), (.xorT u, 0x05), (.shl u, 0x06), (.shr u, 0x07),
        (.sra u, 0x08), (.mul u, 0x09), (.sltu u, 0x0A), (.addi u, 0x10), (.li u, 0x11), (.lih u, 0x12), (.ld u, 0x18), (.st u, 0x19),
        (.beq u, 0x20), (.bne u, 0x21), (.bltu u, 0x22), (.jmp u, 0x23), (.sendt u, 0x28), (.recvt u, 0x29), (.test u none, 0x2A),
        (.csr u, 0x2B), (.waitc u, 0x2C), (.crc u, 0x2D)], d.tileOrder u p.2 = none → exec p.1 s = .next s)
end

