-- ==== Sys2Proof/Laws/State.lean ====
section
/-! SUPPORT. What each elementary update of the device leaves in each field of it: one lemma per field per update, so that no proof
unfolds a record update. -/
namespace Sys2Proof.Machine
variable (s : Dev)

@[simp] theorem Dev.setStall_now (n : Nat) (x : Stall) : (s.setStall n x).now = s.now := rfl
@[simp] theorem Dev.setStall_freeCount (n : Nat) (x : Stall) : (s.setStall n x).freeCount = s.freeCount := rfl
@[simp] theorem Dev.setStall_mem (n : Nat) (x : Stall) : (s.setStall n x).mem = s.mem := rfl
@[simp] theorem Dev.setStall_tiles (n : Nat) (x : Stall) : (s.setStall n x).tiles = s.tiles := rfl
@[simp] theorem Dev.setStall_sidecars (n : Nat) (x : Stall) : (s.setStall n x).sidecars = s.sidecars := rfl
@[simp] theorem Dev.setStall_flash (n : Nat) (x : Stall) : (s.setStall n x).flash = s.flash := rfl
@[simp] theorem Dev.setStall_counters (n : Nat) (x : Stall) : (s.setStall n x).counters = s.counters := rfl
@[simp] theorem Dev.setStall_bumped (n : Nat) (x : Stall) : (s.setStall n x).bumped = s.bumped := rfl
@[simp] theorem Dev.setStall_flagged (n : Nat) (x : Stall) : (s.setStall n x).flagged = s.flagged := rfl
@[simp] theorem Dev.setStall_stalls (n : Nat) (x : Stall) : (s.setStall n x).stalls = s.stalls.set n x := rfl
@[simp] theorem Dev.setStall_chests (n : Nat) (x : Stall) : (s.setStall n x).chests = s.chests := rfl
@[simp] theorem Dev.setStall_blocks (n : Nat) (x : Stall) : (s.setStall n x).blocks = s.blocks := rfl
@[simp] theorem Dev.setStall_lots (n : Nat) (x : Stall) : (s.setStall n x).lots = s.lots := rfl
@[simp] theorem Dev.setStall_ctxs (n : Nat) (x : Stall) : (s.setStall n x).ctxs = s.ctxs := rfl
@[simp] theorem Dev.setStall_tasks (n : Nat) (x : Stall) : (s.setStall n x).tasks = s.tasks := rfl
@[simp] theorem Dev.setStall_grid (n : Nat) (x : Stall) : (s.setStall n x).grid = s.grid := rfl
@[simp] theorem Dev.setStall_flights (n : Nat) (x : Stall) : (s.setStall n x).flights = s.flights := rfl
@[simp] theorem Dev.setStall_credits (n : Nat) (x : Stall) : (s.setStall n x).credits = s.credits := rfl
@[simp] theorem Dev.setStall_bells (n : Nat) (x : Stall) : (s.setStall n x).bells = s.bells := rfl
@[simp] theorem Dev.setStall_rang (n : Nat) (x : Stall) : (s.setStall n x).rang = s.rang := rfl
@[simp] theorem Dev.setStall_nextId (n : Nat) (x : Stall) : (s.setStall n x).nextId = s.nextId := rfl
@[simp] theorem Dev.setStall_teardowns (n : Nat) (x : Stall) : (s.setStall n x).teardowns = s.teardowns := rfl
@[simp] theorem Dev.setStall_rings (n : Nat) (x : Stall) : (s.setStall n x).rings = s.rings := rfl
@[simp] theorem Dev.setStall_placed (n : Nat) (x : Stall) : (s.setStall n x).placed = s.placed := rfl
@[simp] theorem Dev.setStall_porterUp (n : Nat) (x : Stall) : (s.setStall n x).porterUp = s.porterUp := rfl
@[simp] theorem Dev.setStall_porterLossAt (n : Nat) (x : Stall) : (s.setStall n x).porterLossAt = s.porterLossAt := rfl
@[simp] theorem Dev.setStall_loadQ (n : Nat) (x : Stall) : (s.setStall n x).loadQ = s.loadQ := rfl
@[simp] theorem Dev.setStall_loading (n : Nat) (x : Stall) : (s.setStall n x).loading = s.loading := rfl
@[simp] theorem Dev.setStall_copies (n : Nat) (x : Stall) : (s.setStall n x).copies = s.copies := rfl
@[simp] theorem Dev.setStall_conc (n : Nat) (x : Stall) : (s.setStall n x).conc = s.conc := rfl
@[simp] theorem Dev.setStall_pool (n : Nat) (x : Stall) : (s.setStall n x).pool = s.pool := rfl
@[simp] theorem Dev.setStall_elveel (n : Nat) (x : Stall) : (s.setStall n x).elveel = s.elveel := rfl
@[simp] theorem Dev.setStall_coll (n : Nat) (x : Stall) : (s.setStall n x).coll = s.coll := rfl
@[simp] theorem Dev.setStall_boot (n : Nat) (x : Stall) : (s.setStall n x).boot = s.boot := rfl
@[simp] theorem Dev.setStall_power (n : Nat) (x : Stall) : (s.setStall n x).power = s.power := rfl
@[simp] theorem Dev.setStall_warden (n : Nat) (x : Stall) : (s.setStall n x).warden = s.warden := rfl
@[simp] theorem Dev.setStall_ledger (n : Nat) (x : Stall) : (s.setStall n x).ledger = s.ledger := rfl
@[simp] theorem Dev.setStall_service (n : Nat) (x : Stall) : (s.setStall n x).service = s.service := rfl
@[simp] theorem Dev.setStall_trestles (n : Nat) (x : Stall) : (s.setStall n x).trestles = s.trestles := rfl
@[simp] theorem Dev.setStall_early (n : Nat) (x : Stall) : (s.setStall n x).early = s.early := rfl
@[simp] theorem Dev.setStall_out (n : Nat) (x : Stall) : (s.setStall n x).out = s.out := rfl

@[simp] theorem Dev.modStall_now (n : Nat) (f : Stall → Stall) : (s.modStall n f).now = s.now := rfl
@[simp] theorem Dev.modStall_freeCount (n : Nat) (f : Stall → Stall) : (s.modStall n f).freeCount = s.freeCount := rfl
@[simp] theorem Dev.modStall_mem (n : Nat) (f : Stall → Stall) : (s.modStall n f).mem = s.mem := rfl
@[simp] theorem Dev.modStall_tiles (n : Nat) (f : Stall → Stall) : (s.modStall n f).tiles = s.tiles := rfl
@[simp] theorem Dev.modStall_sidecars (n : Nat) (f : Stall → Stall) : (s.modStall n f).sidecars = s.sidecars := rfl
@[simp] theorem Dev.modStall_flash (n : Nat) (f : Stall → Stall) : (s.modStall n f).flash = s.flash := rfl
@[simp] theorem Dev.modStall_counters (n : Nat) (f : Stall → Stall) : (s.modStall n f).counters = s.counters := rfl
@[simp] theorem Dev.modStall_bumped (n : Nat) (f : Stall → Stall) : (s.modStall n f).bumped = s.bumped := rfl
@[simp] theorem Dev.modStall_flagged (n : Nat) (f : Stall → Stall) : (s.modStall n f).flagged = s.flagged := rfl
@[simp] theorem Dev.modStall_stalls (n : Nat) (f : Stall → Stall) : (s.modStall n f).stalls = s.stalls.set n (f (s.stall n)) := rfl
@[simp] theorem Dev.modStall_chests (n : Nat) (f : Stall → Stall) : (s.modStall n f).chests = s.chests := rfl
@[simp] theorem Dev.modStall_blocks (n : Nat) (f : Stall → Stall) : (s.modStall n f).blocks = s.blocks := rfl
@[simp] theorem Dev.modStall_lots (n : Nat) (f : Stall → Stall) : (s.modStall n f).lots = s.lots := rfl
@[simp] theorem Dev.modStall_ctxs (n : Nat) (f : Stall → Stall) : (s.modStall n f).ctxs = s.ctxs := rfl
@[simp] theorem Dev.modStall_tasks (n : Nat) (f : Stall → Stall) : (s.modStall n f).tasks = s.tasks := rfl
@[simp] theorem Dev.modStall_grid (n : Nat) (f : Stall → Stall) : (s.modStall n f).grid = s.grid := rfl
@[simp] theorem Dev.modStall_flights (n : Nat) (f : Stall → Stall) : (s.modStall n f).flights = s.flights := rfl
@[simp] theorem Dev.modStall_credits (n : Nat) (f : Stall → Stall) : (s.modStall n f).credits = s.credits := rfl
@[simp] theorem Dev.modStall_bells (n : Nat) (f : Stall → Stall) : (s.modStall n f).bells = s.bells := rfl
@[simp] theorem Dev.modStall_rang (n : Nat) (f : Stall → Stall) : (s.modStall n f).rang = s.rang := rfl
@[simp] theorem Dev.modStall_nextId (n : Nat) (f : Stall → Stall) : (s.modStall n f).nextId = s.nextId := rfl
@[simp] theorem Dev.modStall_teardowns (n : Nat) (f : Stall → Stall) : (s.modStall n f).teardowns = s.teardowns := rfl
@[simp] theorem Dev.modStall_rings (n : Nat) (f : Stall → Stall) : (s.modStall n f).rings = s.rings := rfl
@[simp] theorem Dev.modStall_placed (n : Nat) (f : Stall → Stall) : (s.modStall n f).placed = s.placed := rfl
@[simp] theorem Dev.modStall_porterUp (n : Nat) (f : Stall → Stall) : (s.modStall n f).porterUp = s.porterUp := rfl
@[simp] theorem Dev.modStall_porterLossAt (n : Nat) (f : Stall → Stall) : (s.modStall n f).porterLossAt = s.porterLossAt := rfl
@[simp] theorem Dev.modStall_loadQ (n : Nat) (f : Stall → Stall) : (s.modStall n f).loadQ = s.loadQ := rfl
@[simp] theorem Dev.modStall_loading (n : Nat) (f : Stall → Stall) : (s.modStall n f).loading = s.loading := rfl
@[simp] theorem Dev.modStall_copies (n : Nat) (f : Stall → Stall) : (s.modStall n f).copies = s.copies := rfl
@[simp] theorem Dev.modStall_conc (n : Nat) (f : Stall → Stall) : (s.modStall n f).conc = s.conc := rfl
@[simp] theorem Dev.modStall_pool (n : Nat) (f : Stall → Stall) : (s.modStall n f).pool = s.pool := rfl
@[simp] theorem Dev.modStall_elveel (n : Nat) (f : Stall → Stall) : (s.modStall n f).elveel = s.elveel := rfl
@[simp] theorem Dev.modStall_coll (n : Nat) (f : Stall → Stall) : (s.modStall n f).coll = s.coll := rfl
@[simp] theorem Dev.modStall_boot (n : Nat) (f : Stall → Stall) : (s.modStall n f).boot = s.boot := rfl
@[simp] theorem Dev.modStall_power (n : Nat) (f : Stall → Stall) : (s.modStall n f).power = s.power := rfl
@[simp] theorem Dev.modStall_warden (n : Nat) (f : Stall → Stall) : (s.modStall n f).warden = s.warden := rfl
@[simp] theorem Dev.modStall_ledger (n : Nat) (f : Stall → Stall) : (s.modStall n f).ledger = s.ledger := rfl
@[simp] theorem Dev.modStall_service (n : Nat) (f : Stall → Stall) : (s.modStall n f).service = s.service := rfl
@[simp] theorem Dev.modStall_trestles (n : Nat) (f : Stall → Stall) : (s.modStall n f).trestles = s.trestles := rfl
@[simp] theorem Dev.modStall_early (n : Nat) (f : Stall → Stall) : (s.modStall n f).early = s.early := rfl
@[simp] theorem Dev.modStall_out (n : Nat) (f : Stall → Stall) : (s.modStall n f).out = s.out := rfl

@[simp] theorem Dev.modChest_now (c : Nat) (f : Chest → Chest) : (s.modChest c f).now = s.now := rfl
@[simp] theorem Dev.modChest_freeCount (c : Nat) (f : Chest → Chest) : (s.modChest c f).freeCount = s.freeCount := rfl
@[simp] theorem Dev.modChest_mem (c : Nat) (f : Chest → Chest) : (s.modChest c f).mem = s.mem := rfl
@[simp] theorem Dev.modChest_tiles (c : Nat) (f : Chest → Chest) : (s.modChest c f).tiles = s.tiles := rfl
@[simp] theorem Dev.modChest_sidecars (c : Nat) (f : Chest → Chest) : (s.modChest c f).sidecars = s.sidecars := rfl
@[simp] theorem Dev.modChest_flash (c : Nat) (f : Chest → Chest) : (s.modChest c f).flash = s.flash := rfl
@[simp] theorem Dev.modChest_counters (c : Nat) (f : Chest → Chest) : (s.modChest c f).counters = s.counters := rfl
@[simp] theorem Dev.modChest_bumped (c : Nat) (f : Chest → Chest) : (s.modChest c f).bumped = s.bumped := rfl
@[simp] theorem Dev.modChest_flagged (c : Nat) (f : Chest → Chest) : (s.modChest c f).flagged = s.flagged := rfl
@[simp] theorem Dev.modChest_stalls (c : Nat) (f : Chest → Chest) : (s.modChest c f).stalls = s.stalls := rfl
@[simp] theorem Dev.modChest_chests (c : Nat) (f : Chest → Chest) : (s.modChest c f).chests = s.chests.mod c f := rfl
@[simp] theorem Dev.modChest_blocks (c : Nat) (f : Chest → Chest) : (s.modChest c f).blocks = s.blocks := rfl
@[simp] theorem Dev.modChest_lots (c : Nat) (f : Chest → Chest) : (s.modChest c f).lots = s.lots := rfl
@[simp] theorem Dev.modChest_ctxs (c : Nat) (f : Chest → Chest) : (s.modChest c f).ctxs = s.ctxs := rfl
@[simp] theorem Dev.modChest_tasks (c : Nat) (f : Chest → Chest) : (s.modChest c f).tasks = s.tasks := rfl
@[simp] theorem Dev.modChest_grid (c : Nat) (f : Chest → Chest) : (s.modChest c f).grid = s.grid := rfl
@[simp] theorem Dev.modChest_flights (c : Nat) (f : Chest → Chest) : (s.modChest c f).flights = s.flights := rfl
@[simp] theorem Dev.modChest_credits (c : Nat) (f : Chest → Chest) : (s.modChest c f).credits = s.credits := rfl
@[simp] theorem Dev.modChest_bells (c : Nat) (f : Chest → Chest) : (s.modChest c f).bells = s.bells := rfl
@[simp] theorem Dev.modChest_rang (c : Nat) (f : Chest → Chest) : (s.modChest c f).rang = s.rang := rfl
@[simp] theorem Dev.modChest_nextId (c : Nat) (f : Chest → Chest) : (s.modChest c f).nextId = s.nextId := rfl
@[simp] theorem Dev.modChest_teardowns (c : Nat) (f : Chest → Chest) : (s.modChest c f).teardowns = s.teardowns := rfl
@[simp] theorem Dev.modChest_rings (c : Nat) (f : Chest → Chest) : (s.modChest c f).rings = s.rings := rfl
@[simp] theorem Dev.modChest_placed (c : Nat) (f : Chest → Chest) : (s.modChest c f).placed = s.placed := rfl
@[simp] theorem Dev.modChest_porterUp (c : Nat) (f : Chest → Chest) : (s.modChest c f).porterUp = s.porterUp := rfl
@[simp] theorem Dev.modChest_porterLossAt (c : Nat) (f : Chest → Chest) : (s.modChest c f).porterLossAt = s.porterLossAt := rfl
@[simp] theorem Dev.modChest_loadQ (c : Nat) (f : Chest → Chest) : (s.modChest c f).loadQ = s.loadQ := rfl
@[simp] theorem Dev.modChest_loading (c : Nat) (f : Chest → Chest) : (s.modChest c f).loading = s.loading := rfl
@[simp] theorem Dev.modChest_copies (c : Nat) (f : Chest → Chest) : (s.modChest c f).copies = s.copies := rfl
@[simp] theorem Dev.modChest_conc (c : Nat) (f : Chest → Chest) : (s.modChest c f).conc = s.conc := rfl
@[simp] theorem Dev.modChest_pool (c : Nat) (f : Chest → Chest) : (s.modChest c f).pool = s.pool := rfl
@[simp] theorem Dev.modChest_elveel (c : Nat) (f : Chest → Chest) : (s.modChest c f).elveel = s.elveel := rfl
@[simp] theorem Dev.modChest_coll (c : Nat) (f : Chest → Chest) : (s.modChest c f).coll = s.coll := rfl
@[simp] theorem Dev.modChest_boot (c : Nat) (f : Chest → Chest) : (s.modChest c f).boot = s.boot := rfl
@[simp] theorem Dev.modChest_power (c : Nat) (f : Chest → Chest) : (s.modChest c f).power = s.power := rfl
@[simp] theorem Dev.modChest_warden (c : Nat) (f : Chest → Chest) : (s.modChest c f).warden = s.warden := rfl
@[simp] theorem Dev.modChest_ledger (c : Nat) (f : Chest → Chest) : (s.modChest c f).ledger = s.ledger := rfl
@[simp] theorem Dev.modChest_service (c : Nat) (f : Chest → Chest) : (s.modChest c f).service = s.service := rfl
@[simp] theorem Dev.modChest_trestles (c : Nat) (f : Chest → Chest) : (s.modChest c f).trestles = s.trestles := rfl
@[simp] theorem Dev.modChest_early (c : Nat) (f : Chest → Chest) : (s.modChest c f).early = s.early := rfl
@[simp] theorem Dev.modChest_out (c : Nat) (f : Chest → Chest) : (s.modChest c f).out = s.out := rfl

@[simp] theorem Dev.modBlock_now (b : Nat) (f : Block → Block) : (s.modBlock b f).now = s.now := rfl
@[simp] theorem Dev.modBlock_freeCount (b : Nat) (f : Block → Block) : (s.modBlock b f).freeCount = s.freeCount := rfl
@[simp] theorem Dev.modBlock_mem (b : Nat) (f : Block → Block) : (s.modBlock b f).mem = s.mem := rfl
@[simp] theorem Dev.modBlock_tiles (b : Nat) (f : Block → Block) : (s.modBlock b f).tiles = s.tiles := rfl
@[simp] theorem Dev.modBlock_sidecars (b : Nat) (f : Block → Block) : (s.modBlock b f).sidecars = s.sidecars := rfl
@[simp] theorem Dev.modBlock_flash (b : Nat) (f : Block → Block) : (s.modBlock b f).flash = s.flash := rfl
@[simp] theorem Dev.modBlock_counters (b : Nat) (f : Block → Block) : (s.modBlock b f).counters = s.counters := rfl
@[simp] theorem Dev.modBlock_bumped (b : Nat) (f : Block → Block) : (s.modBlock b f).bumped = s.bumped := rfl
@[simp] theorem Dev.modBlock_flagged (b : Nat) (f : Block → Block) : (s.modBlock b f).flagged = s.flagged := rfl
@[simp] theorem Dev.modBlock_stalls (b : Nat) (f : Block → Block) : (s.modBlock b f).stalls = s.stalls := rfl
@[simp] theorem Dev.modBlock_chests (b : Nat) (f : Block → Block) : (s.modBlock b f).chests = s.chests := rfl
@[simp] theorem Dev.modBlock_blocks (b : Nat) (f : Block → Block) : (s.modBlock b f).blocks = s.blocks.mod b f := rfl
@[simp] theorem Dev.modBlock_lots (b : Nat) (f : Block → Block) : (s.modBlock b f).lots = s.lots := rfl
@[simp] theorem Dev.modBlock_ctxs (b : Nat) (f : Block → Block) : (s.modBlock b f).ctxs = s.ctxs := rfl
@[simp] theorem Dev.modBlock_tasks (b : Nat) (f : Block → Block) : (s.modBlock b f).tasks = s.tasks := rfl
@[simp] theorem Dev.modBlock_grid (b : Nat) (f : Block → Block) : (s.modBlock b f).grid = s.grid := rfl
@[simp] theorem Dev.modBlock_flights (b : Nat) (f : Block → Block) : (s.modBlock b f).flights = s.flights := rfl
@[simp] theorem Dev.modBlock_credits (b : Nat) (f : Block → Block) : (s.modBlock b f).credits = s.credits := rfl
@[simp] theorem Dev.modBlock_bells (b : Nat) (f : Block → Block) : (s.modBlock b f).bells = s.bells := rfl
@[simp] theorem Dev.modBlock_rang (b : Nat) (f : Block → Block) : (s.modBlock b f).rang = s.rang := rfl
@[simp] theorem Dev.modBlock_nextId (b : Nat) (f : Block → Block) : (s.modBlock b f).nextId = s.nextId := rfl
@[simp] theorem Dev.modBlock_teardowns (b : Nat) (f : Block → Block) : (s.modBlock b f).teardowns = s.teardowns := rfl
@[simp] theorem Dev.modBlock_rings (b : Nat) (f : Block → Block) : (s.modBlock b f).rings = s.rings := rfl
@[simp] theorem Dev.modBlock_placed (b : Nat) (f : Block → Block) : (s.modBlock b f).placed = s.placed := rfl
@[simp] theorem Dev.modBlock_porterUp (b : Nat) (f : Block → Block) : (s.modBlock b f).porterUp = s.porterUp := rfl
@[simp] theorem Dev.modBlock_porterLossAt (b : Nat) (f : Block → Block) : (s.modBlock b f).porterLossAt = s.porterLossAt := rfl
@[simp] theorem Dev.modBlock_loadQ (b : Nat) (f : Block → Block) : (s.modBlock b f).loadQ = s.loadQ := rfl
@[simp] theorem Dev.modBlock_loading (b : Nat) (f : Block → Block) : (s.modBlock b f).loading = s.loading := rfl
@[simp] theorem Dev.modBlock_copies (b : Nat) (f : Block → Block) : (s.modBlock b f).copies = s.copies := rfl
@[simp] theorem Dev.modBlock_conc (b : Nat) (f : Block → Block) : (s.modBlock b f).conc = s.conc := rfl
@[simp] theorem Dev.modBlock_pool (b : Nat) (f : Block → Block) : (s.modBlock b f).pool = s.pool := rfl
@[simp] theorem Dev.modBlock_elveel (b : Nat) (f : Block → Block) : (s.modBlock b f).elveel = s.elveel := rfl
@[simp] theorem Dev.modBlock_coll (b : Nat) (f : Block → Block) : (s.modBlock b f).coll = s.coll := rfl
@[simp] theorem Dev.modBlock_boot (b : Nat) (f : Block → Block) : (s.modBlock b f).boot = s.boot := rfl
@[simp] theorem Dev.modBlock_power (b : Nat) (f : Block → Block) : (s.modBlock b f).power = s.power := rfl
@[simp] theorem Dev.modBlock_warden (b : Nat) (f : Block → Block) : (s.modBlock b f).warden = s.warden := rfl
@[simp] theorem Dev.modBlock_ledger (b : Nat) (f : Block → Block) : (s.modBlock b f).ledger = s.ledger := rfl
@[simp] theorem Dev.modBlock_service (b : Nat) (f : Block → Block) : (s.modBlock b f).service = s.service := rfl
@[simp] theorem Dev.modBlock_trestles (b : Nat) (f : Block → Block) : (s.modBlock b f).trestles = s.trestles := rfl
@[simp] theorem Dev.modBlock_early (b : Nat) (f : Block → Block) : (s.modBlock b f).early = s.early := rfl
@[simp] theorem Dev.modBlock_out (b : Nat) (f : Block → Block) : (s.modBlock b f).out = s.out := rfl

@[simp] theorem Dev.modSw_now (b : Nat) (f : SwPoint → SwPoint) : (s.modSw b f).now = s.now := rfl
@[simp] theorem Dev.modSw_freeCount (b : Nat) (f : SwPoint → SwPoint) : (s.modSw b f).freeCount = s.freeCount := rfl
@[simp] theorem Dev.modSw_mem (b : Nat) (f : SwPoint → SwPoint) : (s.modSw b f).mem = s.mem := rfl
@[simp] theorem Dev.modSw_tiles (b : Nat) (f : SwPoint → SwPoint) : (s.modSw b f).tiles = s.tiles := rfl
@[simp] theorem Dev.modSw_sidecars (b : Nat) (f : SwPoint → SwPoint) : (s.modSw b f).sidecars = s.sidecars := rfl
@[simp] theorem Dev.modSw_flash (b : Nat) (f : SwPoint → SwPoint) : (s.modSw b f).flash = s.flash := rfl
@[simp] theorem Dev.modSw_counters (b : Nat) (f : SwPoint → SwPoint) : (s.modSw b f).counters = s.counters := rfl
@[simp] theorem Dev.modSw_bumped (b : Nat) (f : SwPoint → SwPoint) : (s.modSw b f).bumped = s.bumped := rfl
@[simp] theorem Dev.modSw_flagged (b : Nat) (f : SwPoint → SwPoint) : (s.modSw b f).flagged = s.flagged := rfl
@[simp] theorem Dev.modSw_stalls (b : Nat) (f : SwPoint → SwPoint) : (s.modSw b f).stalls = s.stalls := rfl
@[simp] theorem Dev.modSw_chests (b : Nat) (f : SwPoint → SwPoint) : (s.modSw b f).chests = s.chests := rfl
@[simp] theorem Dev.modSw_blocks (b : Nat) (f : SwPoint → SwPoint) : (s.modSw b f).blocks = s.blocks.mod b fun x => { x with sw := f x.sw } := rfl
@[simp] theorem Dev.modSw_lots (b : Nat) (f : SwPoint → SwPoint) : (s.modSw b f).lots = s.lots := rfl
@[simp] theorem Dev.modSw_ctxs (b : Nat) (f : SwPoint → SwPoint) : (s.modSw b f).ctxs = s.ctxs := rfl
@[simp] theorem Dev.modSw_tasks (b : Nat) (f : SwPoint → SwPoint) : (s.modSw b f).tasks = s.tasks := rfl
@[simp] theorem Dev.modSw_grid (b : Nat) (f : SwPoint → SwPoint) : (s.modSw b f).grid = s.grid := rfl
@[simp] theorem Dev.modSw_flights (b : Nat) (f : SwPoint → SwPoint) : (s.modSw b f).flights = s.flights := rfl
@[simp] theorem Dev.modSw_credits (b : Nat) (f : SwPoint → SwPoint) : (s.modSw b f).credits = s.credits := rfl
@[simp] theorem Dev.modSw_bells (b : Nat) (f : SwPoint → SwPoint) : (s.modSw b f).bells = s.bells := rfl
@[simp] theorem Dev.modSw_rang (b : Nat) (f : SwPoint → SwPoint) : (s.modSw b f).rang = s.rang := rfl
@[simp] theorem Dev.modSw_nextId (b : Nat) (f : SwPoint → SwPoint) : (s.modSw b f).nextId = s.nextId := rfl
@[simp] theorem Dev.modSw_teardowns (b : Nat) (f : SwPoint → SwPoint) : (s.modSw b f).teardowns = s.teardowns := rfl
@[simp] theorem Dev.modSw_rings (b : Nat) (f : SwPoint → SwPoint) : (s.modSw b f).rings = s.rings := rfl
@[simp] theorem Dev.modSw_placed (b : Nat) (f : SwPoint → SwPoint) : (s.modSw b f).placed = s.placed := rfl
@[simp] theorem Dev.modSw_porterUp (b : Nat) (f : SwPoint → SwPoint) : (s.modSw b f).porterUp = s.porterUp := rfl
@[simp] theorem Dev.modSw_porterLossAt (b : Nat) (f : SwPoint → SwPoint) : (s.modSw b f).porterLossAt = s.porterLossAt := rfl
@[simp] theorem Dev.modSw_loadQ (b : Nat) (f : SwPoint → SwPoint) : (s.modSw b f).loadQ = s.loadQ := rfl
@[simp] theorem Dev.modSw_loading (b : Nat) (f : SwPoint → SwPoint) : (s.modSw b f).loading = s.loading := rfl
@[simp] theorem Dev.modSw_copies (b : Nat) (f : SwPoint → SwPoint) : (s.modSw b f).copies = s.copies := rfl
@[simp] theorem Dev.modSw_conc (b : Nat) (f : SwPoint → SwPoint) : (s.modSw b f).conc = s.conc := rfl
@[simp] theorem Dev.modSw_pool (b : Nat) (f : SwPoint → SwPoint) : (s.modSw b f).pool = s.pool := rfl
@[simp] theorem Dev.modSw_elveel (b : Nat) (f : SwPoint → SwPoint) : (s.modSw b f).elveel = s.elveel := rfl
@[simp] theorem Dev.modSw_coll (b : Nat) (f : SwPoint → SwPoint) : (s.modSw b f).coll = s.coll := rfl
@[simp] theorem Dev.modSw_boot (b : Nat) (f : SwPoint → SwPoint) : (s.modSw b f).boot = s.boot := rfl
@[simp] theorem Dev.modSw_power (b : Nat) (f : SwPoint → SwPoint) : (s.modSw b f).power = s.power := rfl
@[simp] theorem Dev.modSw_warden (b : Nat) (f : SwPoint → SwPoint) : (s.modSw b f).warden = s.warden := rfl
@[simp] theorem Dev.modSw_ledger (b : Nat) (f : SwPoint → SwPoint) : (s.modSw b f).ledger = s.ledger := rfl
@[simp] theorem Dev.modSw_service (b : Nat) (f : SwPoint → SwPoint) : (s.modSw b f).service = s.service := rfl
@[simp] theorem Dev.modSw_trestles (b : Nat) (f : SwPoint → SwPoint) : (s.modSw b f).trestles = s.trestles := rfl
@[simp] theorem Dev.modSw_early (b : Nat) (f : SwPoint → SwPoint) : (s.modSw b f).early = s.early := rfl
@[simp] theorem Dev.modSw_out (b : Nat) (f : SwPoint → SwPoint) : (s.modSw b f).out = s.out := rfl

@[simp] theorem Dev.modLot_now (l : Nat) (f : Lot → Lot) : (s.modLot l f).now = s.now := rfl
@[simp] theorem Dev.modLot_freeCount (l : Nat) (f : Lot → Lot) : (s.modLot l f).freeCount = s.freeCount := rfl
@[simp] theorem Dev.modLot_mem (l : Nat) (f : Lot → Lot) : (s.modLot l f).mem = s.mem := rfl
@[simp] theorem Dev.modLot_tiles (l : Nat) (f : Lot → Lot) : (s.modLot l f).tiles = s.tiles := rfl
@[simp] theorem Dev.modLot_sidecars (l : Nat) (f : Lot → Lot) : (s.modLot l f).sidecars = s.sidecars := rfl
@[simp] theorem Dev.modLot_flash (l : Nat) (f : Lot → Lot) : (s.modLot l f).flash = s.flash := rfl
@[simp] theorem Dev.modLot_counters (l : Nat) (f : Lot → Lot) : (s.modLot l f).counters = s.counters := rfl
@[simp] theorem Dev.modLot_bumped (l : Nat) (f : Lot → Lot) : (s.modLot l f).bumped = s.bumped := rfl
@[simp] theorem Dev.modLot_flagged (l : Nat) (f : Lot → Lot) : (s.modLot l f).flagged = s.flagged := rfl
@[simp] theorem Dev.modLot_stalls (l : Nat) (f : Lot → Lot) : (s.modLot l f).stalls = s.stalls := rfl
@[simp] theorem Dev.modLot_chests (l : Nat) (f : Lot → Lot) : (s.modLot l f).chests = s.chests := rfl
@[simp] theorem Dev.modLot_blocks (l : Nat) (f : Lot → Lot) : (s.modLot l f).blocks = s.blocks := rfl
@[simp] theorem Dev.modLot_lots (l : Nat) (f : Lot → Lot) : (s.modLot l f).lots = s.lots.mod l f := rfl
@[simp] theorem Dev.modLot_ctxs (l : Nat) (f : Lot → Lot) : (s.modLot l f).ctxs = s.ctxs := rfl
@[simp] theorem Dev.modLot_tasks (l : Nat) (f : Lot → Lot) : (s.modLot l f).tasks = s.tasks := rfl
@[simp] theorem Dev.modLot_grid (l : Nat) (f : Lot → Lot) : (s.modLot l f).grid = s.grid := rfl
@[simp] theorem Dev.modLot_flights (l : Nat) (f : Lot → Lot) : (s.modLot l f).flights = s.flights := rfl
@[simp] theorem Dev.modLot_credits (l : Nat) (f : Lot → Lot) : (s.modLot l f).credits = s.credits := rfl
@[simp] theorem Dev.modLot_bells (l : Nat) (f : Lot → Lot) : (s.modLot l f).bells = s.bells := rfl
@[simp] theorem Dev.modLot_rang (l : Nat) (f : Lot → Lot) : (s.modLot l f).rang = s.rang := rfl
@[simp] theorem Dev.modLot_nextId (l : Nat) (f : Lot → Lot) : (s.modLot l f).nextId = s.nextId := rfl
@[simp] theorem Dev.modLot_teardowns (l : Nat) (f : Lot → Lot) : (s.modLot l f).teardowns = s.teardowns := rfl
@[simp] theorem Dev.modLot_rings (l : Nat) (f : Lot → Lot) : (s.modLot l f).rings = s.rings := rfl
@[simp] theorem Dev.modLot_placed (l : Nat) (f : Lot → Lot) : (s.modLot l f).placed = s.placed := rfl
@[simp] theorem Dev.modLot_porterUp (l : Nat) (f : Lot → Lot) : (s.modLot l f).porterUp = s.porterUp := rfl
@[simp] theorem Dev.modLot_porterLossAt (l : Nat) (f : Lot → Lot) : (s.modLot l f).porterLossAt = s.porterLossAt := rfl
@[simp] theorem Dev.modLot_loadQ (l : Nat) (f : Lot → Lot) : (s.modLot l f).loadQ = s.loadQ := rfl
@[simp] theorem Dev.modLot_loading (l : Nat) (f : Lot → Lot) : (s.modLot l f).loading = s.loading := rfl
@[simp] theorem Dev.modLot_copies (l : Nat) (f : Lot → Lot) : (s.modLot l f).copies = s.copies := rfl
@[simp] theorem Dev.modLot_conc (l : Nat) (f : Lot → Lot) : (s.modLot l f).conc = s.conc := rfl
@[simp] theorem Dev.modLot_pool (l : Nat) (f : Lot → Lot) : (s.modLot l f).pool = s.pool := rfl
@[simp] theorem Dev.modLot_elveel (l : Nat) (f : Lot → Lot) : (s.modLot l f).elveel = s.elveel := rfl
@[simp] theorem Dev.modLot_coll (l : Nat) (f : Lot → Lot) : (s.modLot l f).coll = s.coll := rfl
@[simp] theorem Dev.modLot_boot (l : Nat) (f : Lot → Lot) : (s.modLot l f).boot = s.boot := rfl
@[simp] theorem Dev.modLot_power (l : Nat) (f : Lot → Lot) : (s.modLot l f).power = s.power := rfl
@[simp] theorem Dev.modLot_warden (l : Nat) (f : Lot → Lot) : (s.modLot l f).warden = s.warden := rfl
@[simp] theorem Dev.modLot_ledger (l : Nat) (f : Lot → Lot) : (s.modLot l f).ledger = s.ledger := rfl
@[simp] theorem Dev.modLot_service (l : Nat) (f : Lot → Lot) : (s.modLot l f).service = s.service := rfl
@[simp] theorem Dev.modLot_trestles (l : Nat) (f : Lot → Lot) : (s.modLot l f).trestles = s.trestles := rfl
@[simp] theorem Dev.modLot_early (l : Nat) (f : Lot → Lot) : (s.modLot l f).early = s.early := rfl
@[simp] theorem Dev.modLot_out (l : Nat) (f : Lot → Lot) : (s.modLot l f).out = s.out := rfl

@[simp] theorem Dev.modRing_now (r : Nat) (f : PRing → PRing) : (s.modRing r f).now = s.now := rfl
@[simp] theorem Dev.modRing_freeCount (r : Nat) (f : PRing → PRing) : (s.modRing r f).freeCount = s.freeCount := rfl
@[simp] theorem Dev.modRing_mem (r : Nat) (f : PRing → PRing) : (s.modRing r f).mem = s.mem := rfl
@[simp] theorem Dev.modRing_tiles (r : Nat) (f : PRing → PRing) : (s.modRing r f).tiles = s.tiles := rfl
@[simp] theorem Dev.modRing_sidecars (r : Nat) (f : PRing → PRing) : (s.modRing r f).sidecars = s.sidecars := rfl
@[simp] theorem Dev.modRing_flash (r : Nat) (f : PRing → PRing) : (s.modRing r f).flash = s.flash := rfl
@[simp] theorem Dev.modRing_counters (r : Nat) (f : PRing → PRing) : (s.modRing r f).counters = s.counters := rfl
@[simp] theorem Dev.modRing_bumped (r : Nat) (f : PRing → PRing) : (s.modRing r f).bumped = s.bumped := rfl
@[simp] theorem Dev.modRing_flagged (r : Nat) (f : PRing → PRing) : (s.modRing r f).flagged = s.flagged := rfl
@[simp] theorem Dev.modRing_stalls (r : Nat) (f : PRing → PRing) : (s.modRing r f).stalls = s.stalls := rfl
@[simp] theorem Dev.modRing_chests (r : Nat) (f : PRing → PRing) : (s.modRing r f).chests = s.chests := rfl
@[simp] theorem Dev.modRing_blocks (r : Nat) (f : PRing → PRing) : (s.modRing r f).blocks = s.blocks := rfl
@[simp] theorem Dev.modRing_lots (r : Nat) (f : PRing → PRing) : (s.modRing r f).lots = s.lots := rfl
@[simp] theorem Dev.modRing_ctxs (r : Nat) (f : PRing → PRing) : (s.modRing r f).ctxs = s.ctxs := rfl
@[simp] theorem Dev.modRing_tasks (r : Nat) (f : PRing → PRing) : (s.modRing r f).tasks = s.tasks := rfl
@[simp] theorem Dev.modRing_grid (r : Nat) (f : PRing → PRing) : (s.modRing r f).grid = s.grid := rfl
@[simp] theorem Dev.modRing_flights (r : Nat) (f : PRing → PRing) : (s.modRing r f).flights = s.flights := rfl
@[simp] theorem Dev.modRing_credits (r : Nat) (f : PRing → PRing) : (s.modRing r f).credits = s.credits := rfl
@[simp] theorem Dev.modRing_bells (r : Nat) (f : PRing → PRing) : (s.modRing r f).bells = s.bells := rfl
@[simp] theorem Dev.modRing_rang (r : Nat) (f : PRing → PRing) : (s.modRing r f).rang = s.rang := rfl
@[simp] theorem Dev.modRing_nextId (r : Nat) (f : PRing → PRing) : (s.modRing r f).nextId = s.nextId := rfl
@[simp] theorem Dev.modRing_teardowns (r : Nat) (f : PRing → PRing) : (s.modRing r f).teardowns = s.teardowns := rfl
@[simp] theorem Dev.modRing_rings (r : Nat) (f : PRing → PRing) : (s.modRing r f).rings = s.rings.mod r f := rfl
@[simp] theorem Dev.modRing_placed (r : Nat) (f : PRing → PRing) : (s.modRing r f).placed = s.placed := rfl
@[simp] theorem Dev.modRing_porterUp (r : Nat) (f : PRing → PRing) : (s.modRing r f).porterUp = s.porterUp := rfl
@[simp] theorem Dev.modRing_porterLossAt (r : Nat) (f : PRing → PRing) : (s.modRing r f).porterLossAt = s.porterLossAt := rfl
@[simp] theorem Dev.modRing_loadQ (r : Nat) (f : PRing → PRing) : (s.modRing r f).loadQ = s.loadQ := rfl
@[simp] theorem Dev.modRing_loading (r : Nat) (f : PRing → PRing) : (s.modRing r f).loading = s.loading := rfl
@[simp] theorem Dev.modRing_copies (r : Nat) (f : PRing → PRing) : (s.modRing r f).copies = s.copies := rfl
@[simp] theorem Dev.modRing_conc (r : Nat) (f : PRing → PRing) : (s.modRing r f).conc = s.conc := rfl
@[simp] theorem Dev.modRing_pool (r : Nat) (f : PRing → PRing) : (s.modRing r f).pool = s.pool := rfl
@[simp] theorem Dev.modRing_elveel (r : Nat) (f : PRing → PRing) : (s.modRing r f).elveel = s.elveel := rfl
@[simp] theorem Dev.modRing_coll (r : Nat) (f : PRing → PRing) : (s.modRing r f).coll = s.coll := rfl
@[simp] theorem Dev.modRing_boot (r : Nat) (f : PRing → PRing) : (s.modRing r f).boot = s.boot := rfl
@[simp] theorem Dev.modRing_power (r : Nat) (f : PRing → PRing) : (s.modRing r f).power = s.power := rfl
@[simp] theorem Dev.modRing_warden (r : Nat) (f : PRing → PRing) : (s.modRing r f).warden = s.warden := rfl
@[simp] theorem Dev.modRing_ledger (r : Nat) (f : PRing → PRing) : (s.modRing r f).ledger = s.ledger := rfl
@[simp] theorem Dev.modRing_service (r : Nat) (f : PRing → PRing) : (s.modRing r f).service = s.service := rfl
@[simp] theorem Dev.modRing_trestles (r : Nat) (f : PRing → PRing) : (s.modRing r f).trestles = s.trestles := rfl
@[simp] theorem Dev.modRing_early (r : Nat) (f : PRing → PRing) : (s.modRing r f).early = s.early := rfl
@[simp] theorem Dev.modRing_out (r : Nat) (f : PRing → PRing) : (s.modRing r f).out = s.out := rfl

@[simp] theorem Dev.modTask_now (k : Nat) (f : TaskSlot → TaskSlot) : (s.modTask k f).now = s.now := rfl
@[simp] theorem Dev.modTask_freeCount (k : Nat) (f : TaskSlot → TaskSlot) : (s.modTask k f).freeCount = s.freeCount := rfl
@[simp] theorem Dev.modTask_mem (k : Nat) (f : TaskSlot → TaskSlot) : (s.modTask k f).mem = s.mem := rfl
@[simp] theorem Dev.modTask_tiles (k : Nat) (f : TaskSlot → TaskSlot) : (s.modTask k f).tiles = s.tiles := rfl
@[simp] theorem Dev.modTask_sidecars (k : Nat) (f : TaskSlot → TaskSlot) : (s.modTask k f).sidecars = s.sidecars := rfl
@[simp] theorem Dev.modTask_flash (k : Nat) (f : TaskSlot → TaskSlot) : (s.modTask k f).flash = s.flash := rfl
@[simp] theorem Dev.modTask_counters (k : Nat) (f : TaskSlot → TaskSlot) : (s.modTask k f).counters = s.counters := rfl
@[simp] theorem Dev.modTask_bumped (k : Nat) (f : TaskSlot → TaskSlot) : (s.modTask k f).bumped = s.bumped := rfl
@[simp] theorem Dev.modTask_flagged (k : Nat) (f : TaskSlot → TaskSlot) : (s.modTask k f).flagged = s.flagged := rfl
@[simp] theorem Dev.modTask_stalls (k : Nat) (f : TaskSlot → TaskSlot) : (s.modTask k f).stalls = s.stalls := rfl
@[simp] theorem Dev.modTask_chests (k : Nat) (f : TaskSlot → TaskSlot) : (s.modTask k f).chests = s.chests := rfl
@[simp] theorem Dev.modTask_blocks (k : Nat) (f : TaskSlot → TaskSlot) : (s.modTask k f).blocks = s.blocks := rfl
@[simp] theorem Dev.modTask_lots (k : Nat) (f : TaskSlot → TaskSlot) : (s.modTask k f).lots = s.lots := rfl
@[simp] theorem Dev.modTask_ctxs (k : Nat) (f : TaskSlot → TaskSlot) : (s.modTask k f).ctxs = s.ctxs := rfl
@[simp] theorem Dev.modTask_tasks (k : Nat) (f : TaskSlot → TaskSlot) : (s.modTask k f).tasks = s.tasks.mod k f := rfl
@[simp] theorem Dev.modTask_grid (k : Nat) (f : TaskSlot → TaskSlot) : (s.modTask k f).grid = s.grid := rfl
@[simp] theorem Dev.modTask_flights (k : Nat) (f : TaskSlot → TaskSlot) : (s.modTask k f).flights = s.flights := rfl
@[simp] theorem Dev.modTask_credits (k : Nat) (f : TaskSlot → TaskSlot) : (s.modTask k f).credits = s.credits := rfl
@[simp] theorem Dev.modTask_bells (k : Nat) (f : TaskSlot → TaskSlot) : (s.modTask k f).bells = s.bells := rfl
@[simp] theorem Dev.modTask_rang (k : Nat) (f : TaskSlot → TaskSlot) : (s.modTask k f).rang = s.rang := rfl
@[simp] theorem Dev.modTask_nextId (k : Nat) (f : TaskSlot → TaskSlot) : (s.modTask k f).nextId = s.nextId := rfl
@[simp] theorem Dev.modTask_teardowns (k : Nat) (f : TaskSlot → TaskSlot) : (s.modTask k f).teardowns = s.teardowns := rfl
@[simp] theorem Dev.modTask_rings (k : Nat) (f : TaskSlot → TaskSlot) : (s.modTask k f).rings = s.rings := rfl
@[simp] theorem Dev.modTask_placed (k : Nat) (f : TaskSlot → TaskSlot) : (s.modTask k f).placed = s.placed := rfl
@[simp] theorem Dev.modTask_porterUp (k : Nat) (f : TaskSlot → TaskSlot) : (s.modTask k f).porterUp = s.porterUp := rfl
@[simp] theorem Dev.modTask_porterLossAt (k : Nat) (f : TaskSlot → TaskSlot) : (s.modTask k f).porterLossAt = s.porterLossAt := rfl
@[simp] theorem Dev.modTask_loadQ (k : Nat) (f : TaskSlot → TaskSlot) : (s.modTask k f).loadQ = s.loadQ := rfl
@[simp] theorem Dev.modTask_loading (k : Nat) (f : TaskSlot → TaskSlot) : (s.modTask k f).loading = s.loading := rfl
@[simp] theorem Dev.modTask_copies (k : Nat) (f : TaskSlot → TaskSlot) : (s.modTask k f).copies = s.copies := rfl
@[simp] theorem Dev.modTask_conc (k : Nat) (f : TaskSlot → TaskSlot) : (s.modTask k f).conc = s.conc := rfl
@[simp] theorem Dev.modTask_pool (k : Nat) (f : TaskSlot → TaskSlot) : (s.modTask k f).pool = s.pool := rfl
@[simp] theorem Dev.modTask_elveel (k : Nat) (f : TaskSlot → TaskSlot) : (s.modTask k f).elveel = s.elveel := rfl
@[simp] theorem Dev.modTask_coll (k : Nat) (f : TaskSlot → TaskSlot) : (s.modTask k f).coll = s.coll := rfl
@[simp] theorem Dev.modTask_boot (k : Nat) (f : TaskSlot → TaskSlot) : (s.modTask k f).boot = s.boot := rfl
@[simp] theorem Dev.modTask_power (k : Nat) (f : TaskSlot → TaskSlot) : (s.modTask k f).power = s.power := rfl
@[simp] theorem Dev.modTask_warden (k : Nat) (f : TaskSlot → TaskSlot) : (s.modTask k f).warden = s.warden := rfl
@[simp] theorem Dev.modTask_ledger (k : Nat) (f : TaskSlot → TaskSlot) : (s.modTask k f).ledger = s.ledger := rfl
@[simp] theorem Dev.modTask_service (k : Nat) (f : TaskSlot → TaskSlot) : (s.modTask k f).service = s.service := rfl
@[simp] theorem Dev.modTask_trestles (k : Nat) (f : TaskSlot → TaskSlot) : (s.modTask k f).trestles = s.trestles := rfl
@[simp] theorem Dev.modTask_early (k : Nat) (f : TaskSlot → TaskSlot) : (s.modTask k f).early = s.early := rfl
@[simp] theorem Dev.modTask_out (k : Nat) (f : TaskSlot → TaskSlot) : (s.modTask k f).out = s.out := rfl

@[simp] theorem Dev.modPort_now (p : Nat) (f : EPort → EPort) : (s.modPort p f).now = s.now := rfl
@[simp] theorem Dev.modPort_freeCount (p : Nat) (f : EPort → EPort) : (s.modPort p f).freeCount = s.freeCount := rfl
@[simp] theorem Dev.modPort_mem (p : Nat) (f : EPort → EPort) : (s.modPort p f).mem = s.mem := rfl
@[simp] theorem Dev.modPort_tiles (p : Nat) (f : EPort → EPort) : (s.modPort p f).tiles = s.tiles := rfl
@[simp] theorem Dev.modPort_sidecars (p : Nat) (f : EPort → EPort) : (s.modPort p f).sidecars = s.sidecars := rfl
@[simp] theorem Dev.modPort_flash (p : Nat) (f : EPort → EPort) : (s.modPort p f).flash = s.flash := rfl
@[simp] theorem Dev.modPort_counters (p : Nat) (f : EPort → EPort) : (s.modPort p f).counters = s.counters := rfl
@[simp] theorem Dev.modPort_bumped (p : Nat) (f : EPort → EPort) : (s.modPort p f).bumped = s.bumped := rfl
@[simp] theorem Dev.modPort_flagged (p : Nat) (f : EPort → EPort) : (s.modPort p f).flagged = s.flagged := rfl
@[simp] theorem Dev.modPort_stalls (p : Nat) (f : EPort → EPort) : (s.modPort p f).stalls = s.stalls := rfl
@[simp] theorem Dev.modPort_chests (p : Nat) (f : EPort → EPort) : (s.modPort p f).chests = s.chests := rfl
@[simp] theorem Dev.modPort_blocks (p : Nat) (f : EPort → EPort) : (s.modPort p f).blocks = s.blocks := rfl
@[simp] theorem Dev.modPort_lots (p : Nat) (f : EPort → EPort) : (s.modPort p f).lots = s.lots := rfl
@[simp] theorem Dev.modPort_ctxs (p : Nat) (f : EPort → EPort) : (s.modPort p f).ctxs = s.ctxs := rfl
@[simp] theorem Dev.modPort_tasks (p : Nat) (f : EPort → EPort) : (s.modPort p f).tasks = s.tasks := rfl
@[simp] theorem Dev.modPort_grid (p : Nat) (f : EPort → EPort) : (s.modPort p f).grid = s.grid := rfl
@[simp] theorem Dev.modPort_flights (p : Nat) (f : EPort → EPort) : (s.modPort p f).flights = s.flights := rfl
@[simp] theorem Dev.modPort_credits (p : Nat) (f : EPort → EPort) : (s.modPort p f).credits = s.credits := rfl
@[simp] theorem Dev.modPort_bells (p : Nat) (f : EPort → EPort) : (s.modPort p f).bells = s.bells := rfl
@[simp] theorem Dev.modPort_rang (p : Nat) (f : EPort → EPort) : (s.modPort p f).rang = s.rang := rfl
@[simp] theorem Dev.modPort_nextId (p : Nat) (f : EPort → EPort) : (s.modPort p f).nextId = s.nextId := rfl
@[simp] theorem Dev.modPort_teardowns (p : Nat) (f : EPort → EPort) : (s.modPort p f).teardowns = s.teardowns := rfl
@[simp] theorem Dev.modPort_rings (p : Nat) (f : EPort → EPort) : (s.modPort p f).rings = s.rings := rfl
@[simp] theorem Dev.modPort_placed (p : Nat) (f : EPort → EPort) : (s.modPort p f).placed = s.placed := rfl
@[simp] theorem Dev.modPort_porterUp (p : Nat) (f : EPort → EPort) : (s.modPort p f).porterUp = s.porterUp := rfl
@[simp] theorem Dev.modPort_porterLossAt (p : Nat) (f : EPort → EPort) : (s.modPort p f).porterLossAt = s.porterLossAt := rfl
@[simp] theorem Dev.modPort_loadQ (p : Nat) (f : EPort → EPort) : (s.modPort p f).loadQ = s.loadQ := rfl
@[simp] theorem Dev.modPort_loading (p : Nat) (f : EPort → EPort) : (s.modPort p f).loading = s.loading := rfl
@[simp] theorem Dev.modPort_copies (p : Nat) (f : EPort → EPort) : (s.modPort p f).copies = s.copies := rfl
@[simp] theorem Dev.modPort_conc (p : Nat) (f : EPort → EPort) : (s.modPort p f).conc = s.conc := rfl
@[simp] theorem Dev.modPort_pool (p : Nat) (f : EPort → EPort) : (s.modPort p f).pool = s.pool := rfl
@[simp] theorem Dev.modPort_elveel (p : Nat) (f : EPort → EPort) : (s.modPort p f).elveel = { s.elveel with ports := s.elveel.ports.mod p f } := rfl
@[simp] theorem Dev.modPort_coll (p : Nat) (f : EPort → EPort) : (s.modPort p f).coll = s.coll := rfl
@[simp] theorem Dev.modPort_boot (p : Nat) (f : EPort → EPort) : (s.modPort p f).boot = s.boot := rfl
@[simp] theorem Dev.modPort_power (p : Nat) (f : EPort → EPort) : (s.modPort p f).power = s.power := rfl
@[simp] theorem Dev.modPort_warden (p : Nat) (f : EPort → EPort) : (s.modPort p f).warden = s.warden := rfl
@[simp] theorem Dev.modPort_ledger (p : Nat) (f : EPort → EPort) : (s.modPort p f).ledger = s.ledger := rfl
@[simp] theorem Dev.modPort_service (p : Nat) (f : EPort → EPort) : (s.modPort p f).service = s.service := rfl
@[simp] theorem Dev.modPort_trestles (p : Nat) (f : EPort → EPort) : (s.modPort p f).trestles = s.trestles := rfl
@[simp] theorem Dev.modPort_early (p : Nat) (f : EPort → EPort) : (s.modPort p f).early = s.early := rfl
@[simp] theorem Dev.modPort_out (p : Nat) (f : EPort → EPort) : (s.modPort p f).out = s.out := rfl

@[simp] theorem Dev.modElv_now (f : Elveel → Elveel) : (s.modElv f).now = s.now := rfl
@[simp] theorem Dev.modElv_freeCount (f : Elveel → Elveel) : (s.modElv f).freeCount = s.freeCount := rfl
@[simp] theorem Dev.modElv_mem (f : Elveel → Elveel) : (s.modElv f).mem = s.mem := rfl
@[simp] theorem Dev.modElv_tiles (f : Elveel → Elveel) : (s.modElv f).tiles = s.tiles := rfl
@[simp] theorem Dev.modElv_sidecars (f : Elveel → Elveel) : (s.modElv f).sidecars = s.sidecars := rfl
@[simp] theorem Dev.modElv_flash (f : Elveel → Elveel) : (s.modElv f).flash = s.flash := rfl
@[simp] theorem Dev.modElv_counters (f : Elveel → Elveel) : (s.modElv f).counters = s.counters := rfl
@[simp] theorem Dev.modElv_bumped (f : Elveel → Elveel) : (s.modElv f).bumped = s.bumped := rfl
@[simp] theorem Dev.modElv_flagged (f : Elveel → Elveel) : (s.modElv f).flagged = s.flagged := rfl
@[simp] theorem Dev.modElv_stalls (f : Elveel → Elveel) : (s.modElv f).stalls = s.stalls := rfl
@[simp] theorem Dev.modElv_chests (f : Elveel → Elveel) : (s.modElv f).chests = s.chests := rfl
@[simp] theorem Dev.modElv_blocks (f : Elveel → Elveel) : (s.modElv f).blocks = s.blocks := rfl
@[simp] theorem Dev.modElv_lots (f : Elveel → Elveel) : (s.modElv f).lots = s.lots := rfl
@[simp] theorem Dev.modElv_ctxs (f : Elveel → Elveel) : (s.modElv f).ctxs = s.ctxs := rfl
@[simp] theorem Dev.modElv_tasks (f : Elveel → Elveel) : (s.modElv f).tasks = s.tasks := rfl
@[simp] theorem Dev.modElv_grid (f : Elveel → Elveel) : (s.modElv f).grid = s.grid := rfl
@[simp] theorem Dev.modElv_flights (f : Elveel → Elveel) : (s.modElv f).flights = s.flights := rfl
@[simp] theorem Dev.modElv_credits (f : Elveel → Elveel) : (s.modElv f).credits = s.credits := rfl
@[simp] theorem Dev.modElv_bells (f : Elveel → Elveel) : (s.modElv f).bells = s.bells := rfl
@[simp] theorem Dev.modElv_rang (f : Elveel → Elveel) : (s.modElv f).rang = s.rang := rfl
@[simp] theorem Dev.modElv_nextId (f : Elveel → Elveel) : (s.modElv f).nextId = s.nextId := rfl
@[simp] theorem Dev.modElv_teardowns (f : Elveel → Elveel) : (s.modElv f).teardowns = s.teardowns := rfl
@[simp] theorem Dev.modElv_rings (f : Elveel → Elveel) : (s.modElv f).rings = s.rings := rfl
@[simp] theorem Dev.modElv_placed (f : Elveel → Elveel) : (s.modElv f).placed = s.placed := rfl
@[simp] theorem Dev.modElv_porterUp (f : Elveel → Elveel) : (s.modElv f).porterUp = s.porterUp := rfl
@[simp] theorem Dev.modElv_porterLossAt (f : Elveel → Elveel) : (s.modElv f).porterLossAt = s.porterLossAt := rfl
@[simp] theorem Dev.modElv_loadQ (f : Elveel → Elveel) : (s.modElv f).loadQ = s.loadQ := rfl
@[simp] theorem Dev.modElv_loading (f : Elveel → Elveel) : (s.modElv f).loading = s.loading := rfl
@[simp] theorem Dev.modElv_copies (f : Elveel → Elveel) : (s.modElv f).copies = s.copies := rfl
@[simp] theorem Dev.modElv_conc (f : Elveel → Elveel) : (s.modElv f).conc = s.conc := rfl
@[simp] theorem Dev.modElv_pool (f : Elveel → Elveel) : (s.modElv f).pool = s.pool := rfl
@[simp] theorem Dev.modElv_elveel (f : Elveel → Elveel) : (s.modElv f).elveel = f s.elveel := rfl
@[simp] theorem Dev.modElv_coll (f : Elveel → Elveel) : (s.modElv f).coll = s.coll := rfl
@[simp] theorem Dev.modElv_boot (f : Elveel → Elveel) : (s.modElv f).boot = s.boot := rfl
@[simp] theorem Dev.modElv_power (f : Elveel → Elveel) : (s.modElv f).power = s.power := rfl
@[simp] theorem Dev.modElv_warden (f : Elveel → Elveel) : (s.modElv f).warden = s.warden := rfl
@[simp] theorem Dev.modElv_ledger (f : Elveel → Elveel) : (s.modElv f).ledger = s.ledger := rfl
@[simp] theorem Dev.modElv_service (f : Elveel → Elveel) : (s.modElv f).service = s.service := rfl
@[simp] theorem Dev.modElv_trestles (f : Elveel → Elveel) : (s.modElv f).trestles = s.trestles := rfl
@[simp] theorem Dev.modElv_early (f : Elveel → Elveel) : (s.modElv f).early = s.early := rfl
@[simp] theorem Dev.modElv_out (f : Elveel → Elveel) : (s.modElv f).out = s.out := rfl

@[simp] theorem Dev.modConc_now (f : Conc → Conc) : (s.modConc f).now = s.now := rfl
@[simp] theorem Dev.modConc_freeCount (f : Conc → Conc) : (s.modConc f).freeCount = s.freeCount := rfl
@[simp] theorem Dev.modConc_mem (f : Conc → Conc) : (s.modConc f).mem = s.mem := rfl
@[simp] theorem Dev.modConc_tiles (f : Conc → Conc) : (s.modConc f).tiles = s.tiles := rfl
@[simp] theorem Dev.modConc_sidecars (f : Conc → Conc) : (s.modConc f).sidecars = s.sidecars := rfl
@[simp] theorem Dev.modConc_flash (f : Conc → Conc) : (s.modConc f).flash = s.flash := rfl
@[simp] theorem Dev.modConc_counters (f : Conc → Conc) : (s.modConc f).counters = s.counters := rfl
@[simp] theorem Dev.modConc_bumped (f : Conc → Conc) : (s.modConc f).bumped = s.bumped := rfl
@[simp] theorem Dev.modConc_flagged (f : Conc → Conc) : (s.modConc f).flagged = s.flagged := rfl
@[simp] theorem Dev.modConc_stalls (f : Conc → Conc) : (s.modConc f).stalls = s.stalls := rfl
@[simp] theorem Dev.modConc_chests (f : Conc → Conc) : (s.modConc f).chests = s.chests := rfl
@[simp] theorem Dev.modConc_blocks (f : Conc → Conc) : (s.modConc f).blocks = s.blocks := rfl
@[simp] theorem Dev.modConc_lots (f : Conc → Conc) : (s.modConc f).lots = s.lots := rfl
@[simp] theorem Dev.modConc_ctxs (f : Conc → Conc) : (s.modConc f).ctxs = s.ctxs := rfl
@[simp] theorem Dev.modConc_tasks (f : Conc → Conc) : (s.modConc f).tasks = s.tasks := rfl
@[simp] theorem Dev.modConc_grid (f : Conc → Conc) : (s.modConc f).grid = s.grid := rfl
@[simp] theorem Dev.modConc_flights (f : Conc → Conc) : (s.modConc f).flights = s.flights := rfl
@[simp] theorem Dev.modConc_credits (f : Conc → Conc) : (s.modConc f).credits = s.credits := rfl
@[simp] theorem Dev.modConc_bells (f : Conc → Conc) : (s.modConc f).bells = s.bells := rfl
@[simp] theorem Dev.modConc_rang (f : Conc → Conc) : (s.modConc f).rang = s.rang := rfl
@[simp] theorem Dev.modConc_nextId (f : Conc → Conc) : (s.modConc f).nextId = s.nextId := rfl
@[simp] theorem Dev.modConc_teardowns (f : Conc → Conc) : (s.modConc f).teardowns = s.teardowns := rfl
@[simp] theorem Dev.modConc_rings (f : Conc → Conc) : (s.modConc f).rings = s.rings := rfl
@[simp] theorem Dev.modConc_placed (f : Conc → Conc) : (s.modConc f).placed = s.placed := rfl
@[simp] theorem Dev.modConc_porterUp (f : Conc → Conc) : (s.modConc f).porterUp = s.porterUp := rfl
@[simp] theorem Dev.modConc_porterLossAt (f : Conc → Conc) : (s.modConc f).porterLossAt = s.porterLossAt := rfl
@[simp] theorem Dev.modConc_loadQ (f : Conc → Conc) : (s.modConc f).loadQ = s.loadQ := rfl
@[simp] theorem Dev.modConc_loading (f : Conc → Conc) : (s.modConc f).loading = s.loading := rfl
@[simp] theorem Dev.modConc_copies (f : Conc → Conc) : (s.modConc f).copies = s.copies := rfl
@[simp] theorem Dev.modConc_conc (f : Conc → Conc) : (s.modConc f).conc = f s.conc := rfl
@[simp] theorem Dev.modConc_pool (f : Conc → Conc) : (s.modConc f).pool = s.pool := rfl
@[simp] theorem Dev.modConc_elveel (f : Conc → Conc) : (s.modConc f).elveel = s.elveel := rfl
@[simp] theorem Dev.modConc_coll (f : Conc → Conc) : (s.modConc f).coll = s.coll := rfl
@[simp] theorem Dev.modConc_boot (f : Conc → Conc) : (s.modConc f).boot = s.boot := rfl
@[simp] theorem Dev.modConc_power (f : Conc → Conc) : (s.modConc f).power = s.power := rfl
@[simp] theorem Dev.modConc_warden (f : Conc → Conc) : (s.modConc f).warden = s.warden := rfl
@[simp] theorem Dev.modConc_ledger (f : Conc → Conc) : (s.modConc f).ledger = s.ledger := rfl
@[simp] theorem Dev.modConc_service (f : Conc → Conc) : (s.modConc f).service = s.service := rfl
@[simp] theorem Dev.modConc_trestles (f : Conc → Conc) : (s.modConc f).trestles = s.trestles := rfl
@[simp] theorem Dev.modConc_early (f : Conc → Conc) : (s.modConc f).early = s.early := rfl
@[simp] theorem Dev.modConc_out (f : Conc → Conc) : (s.modConc f).out = s.out := rfl

@[simp] theorem Dev.modWarden_now (f : Warden → Warden) : (s.modWarden f).now = s.now := rfl
@[simp] theorem Dev.modWarden_freeCount (f : Warden → Warden) : (s.modWarden f).freeCount = s.freeCount := rfl
@[simp] theorem Dev.modWarden_mem (f : Warden → Warden) : (s.modWarden f).mem = s.mem := rfl
@[simp] theorem Dev.modWarden_tiles (f : Warden → Warden) : (s.modWarden f).tiles = s.tiles := rfl
@[simp] theorem Dev.modWarden_sidecars (f : Warden → Warden) : (s.modWarden f).sidecars = s.sidecars := rfl
@[simp] theorem Dev.modWarden_flash (f : Warden → Warden) : (s.modWarden f).flash = s.flash := rfl
@[simp] theorem Dev.modWarden_counters (f : Warden → Warden) : (s.modWarden f).counters = s.counters := rfl
@[simp] theorem Dev.modWarden_bumped (f : Warden → Warden) : (s.modWarden f).bumped = s.bumped := rfl
@[simp] theorem Dev.modWarden_flagged (f : Warden → Warden) : (s.modWarden f).flagged = s.flagged := rfl
@[simp] theorem Dev.modWarden_stalls (f : Warden → Warden) : (s.modWarden f).stalls = s.stalls := rfl
@[simp] theorem Dev.modWarden_chests (f : Warden → Warden) : (s.modWarden f).chests = s.chests := rfl
@[simp] theorem Dev.modWarden_blocks (f : Warden → Warden) : (s.modWarden f).blocks = s.blocks := rfl
@[simp] theorem Dev.modWarden_lots (f : Warden → Warden) : (s.modWarden f).lots = s.lots := rfl
@[simp] theorem Dev.modWarden_ctxs (f : Warden → Warden) : (s.modWarden f).ctxs = s.ctxs := rfl
@[simp] theorem Dev.modWarden_tasks (f : Warden → Warden) : (s.modWarden f).tasks = s.tasks := rfl
@[simp] theorem Dev.modWarden_grid (f : Warden → Warden) : (s.modWarden f).grid = s.grid := rfl
@[simp] theorem Dev.modWarden_flights (f : Warden → Warden) : (s.modWarden f).flights = s.flights := rfl
@[simp] theorem Dev.modWarden_credits (f : Warden → Warden) : (s.modWarden f).credits = s.credits := rfl
@[simp] theorem Dev.modWarden_bells (f : Warden → Warden) : (s.modWarden f).bells = s.bells := rfl
@[simp] theorem Dev.modWarden_rang (f : Warden → Warden) : (s.modWarden f).rang = s.rang := rfl
@[simp] theorem Dev.modWarden_nextId (f : Warden → Warden) : (s.modWarden f).nextId = s.nextId := rfl
@[simp] theorem Dev.modWarden_teardowns (f : Warden → Warden) : (s.modWarden f).teardowns = s.teardowns := rfl
@[simp] theorem Dev.modWarden_rings (f : Warden → Warden) : (s.modWarden f).rings = s.rings := rfl
@[simp] theorem Dev.modWarden_placed (f : Warden → Warden) : (s.modWarden f).placed = s.placed := rfl
@[simp] theorem Dev.modWarden_porterUp (f : Warden → Warden) : (s.modWarden f).porterUp = s.porterUp := rfl
@[simp] theorem Dev.modWarden_porterLossAt (f : Warden → Warden) : (s.modWarden f).porterLossAt = s.porterLossAt := rfl
@[simp] theorem Dev.modWarden_loadQ (f : Warden → Warden) : (s.modWarden f).loadQ = s.loadQ := rfl
@[simp] theorem Dev.modWarden_loading (f : Warden → Warden) : (s.modWarden f).loading = s.loading := rfl
@[simp] theorem Dev.modWarden_copies (f : Warden → Warden) : (s.modWarden f).copies = s.copies := rfl
@[simp] theorem Dev.modWarden_conc (f : Warden → Warden) : (s.modWarden f).conc = s.conc := rfl
@[simp] theorem Dev.modWarden_pool (f : Warden → Warden) : (s.modWarden f).pool = s.pool := rfl
@[simp] theorem Dev.modWarden_elveel (f : Warden → Warden) : (s.modWarden f).elveel = s.elveel := rfl
@[simp] theorem Dev.modWarden_coll (f : Warden → Warden) : (s.modWarden f).coll = s.coll := rfl
@[simp] theorem Dev.modWarden_boot (f : Warden → Warden) : (s.modWarden f).boot = s.boot := rfl
@[simp] theorem Dev.modWarden_power (f : Warden → Warden) : (s.modWarden f).power = s.power := rfl
@[simp] theorem Dev.modWarden_warden (f : Warden → Warden) : (s.modWarden f).warden = f s.warden := rfl
@[simp] theorem Dev.modWarden_ledger (f : Warden → Warden) : (s.modWarden f).ledger = s.ledger := rfl
@[simp] theorem Dev.modWarden_service (f : Warden → Warden) : (s.modWarden f).service = s.service := rfl
@[simp] theorem Dev.modWarden_trestles (f : Warden → Warden) : (s.modWarden f).trestles = s.trestles := rfl
@[simp] theorem Dev.modWarden_early (f : Warden → Warden) : (s.modWarden f).early = s.early := rfl
@[simp] theorem Dev.modWarden_out (f : Warden → Warden) : (s.modWarden f).out = s.out := rfl

@[simp] theorem Dev.modPower_now (f : Power → Power) : (s.modPower f).now = s.now := rfl
@[simp] theorem Dev.modPower_freeCount (f : Power → Power) : (s.modPower f).freeCount = s.freeCount := rfl
@[simp] theorem Dev.modPower_mem (f : Power → Power) : (s.modPower f).mem = s.mem := rfl
@[simp] theorem Dev.modPower_tiles (f : Power → Power) : (s.modPower f).tiles = s.tiles := rfl
@[simp] theorem Dev.modPower_sidecars (f : Power → Power) : (s.modPower f).sidecars = s.sidecars := rfl
@[simp] theorem Dev.modPower_flash (f : Power → Power) : (s.modPower f).flash = s.flash := rfl
@[simp] theorem Dev.modPower_counters (f : Power → Power) : (s.modPower f).counters = s.counters := rfl
@[simp] theorem Dev.modPower_bumped (f : Power → Power) : (s.modPower f).bumped = s.bumped := rfl
@[simp] theorem Dev.modPower_flagged (f : Power → Power) : (s.modPower f).flagged = s.flagged := rfl
@[simp] theorem Dev.modPower_stalls (f : Power → Power) : (s.modPower f).stalls = s.stalls := rfl
@[simp] theorem Dev.modPower_chests (f : Power → Power) : (s.modPower f).chests = s.chests := rfl
@[simp] theorem Dev.modPower_blocks (f : Power → Power) : (s.modPower f).blocks = s.blocks := rfl
@[simp] theorem Dev.modPower_lots (f : Power → Power) : (s.modPower f).lots = s.lots := rfl
@[simp] theorem Dev.modPower_ctxs (f : Power → Power) : (s.modPower f).ctxs = s.ctxs := rfl
@[simp] theorem Dev.modPower_tasks (f : Power → Power) : (s.modPower f).tasks = s.tasks := rfl
@[simp] theorem Dev.modPower_grid (f : Power → Power) : (s.modPower f).grid = s.grid := rfl
@[simp] theorem Dev.modPower_flights (f : Power → Power) : (s.modPower f).flights = s.flights := rfl
@[simp] theorem Dev.modPower_credits (f : Power → Power) : (s.modPower f).credits = s.credits := rfl
@[simp] theorem Dev.modPower_bells (f : Power → Power) : (s.modPower f).bells = s.bells := rfl
@[simp] theorem Dev.modPower_rang (f : Power → Power) : (s.modPower f).rang = s.rang := rfl
@[simp] theorem Dev.modPower_nextId (f : Power → Power) : (s.modPower f).nextId = s.nextId := rfl
@[simp] theorem Dev.modPower_teardowns (f : Power → Power) : (s.modPower f).teardowns = s.teardowns := rfl
@[simp] theorem Dev.modPower_rings (f : Power → Power) : (s.modPower f).rings = s.rings := rfl
@[simp] theorem Dev.modPower_placed (f : Power → Power) : (s.modPower f).placed = s.placed := rfl
@[simp] theorem Dev.modPower_porterUp (f : Power → Power) : (s.modPower f).porterUp = s.porterUp := rfl
@[simp] theorem Dev.modPower_porterLossAt (f : Power → Power) : (s.modPower f).porterLossAt = s.porterLossAt := rfl
@[simp] theorem Dev.modPower_loadQ (f : Power → Power) : (s.modPower f).loadQ = s.loadQ := rfl
@[simp] theorem Dev.modPower_loading (f : Power → Power) : (s.modPower f).loading = s.loading := rfl
@[simp] theorem Dev.modPower_copies (f : Power → Power) : (s.modPower f).copies = s.copies := rfl
@[simp] theorem Dev.modPower_conc (f : Power → Power) : (s.modPower f).conc = s.conc := rfl
@[simp] theorem Dev.modPower_pool (f : Power → Power) : (s.modPower f).pool = s.pool := rfl
@[simp] theorem Dev.modPower_elveel (f : Power → Power) : (s.modPower f).elveel = s.elveel := rfl
@[simp] theorem Dev.modPower_coll (f : Power → Power) : (s.modPower f).coll = s.coll := rfl
@[simp] theorem Dev.modPower_boot (f : Power → Power) : (s.modPower f).boot = s.boot := rfl
@[simp] theorem Dev.modPower_power (f : Power → Power) : (s.modPower f).power = f s.power := rfl
@[simp] theorem Dev.modPower_warden (f : Power → Power) : (s.modPower f).warden = s.warden := rfl
@[simp] theorem Dev.modPower_ledger (f : Power → Power) : (s.modPower f).ledger = s.ledger := rfl
@[simp] theorem Dev.modPower_service (f : Power → Power) : (s.modPower f).service = s.service := rfl
@[simp] theorem Dev.modPower_trestles (f : Power → Power) : (s.modPower f).trestles = s.trestles := rfl
@[simp] theorem Dev.modPower_early (f : Power → Power) : (s.modPower f).early = s.early := rfl
@[simp] theorem Dev.modPower_out (f : Power → Power) : (s.modPower f).out = s.out := rfl

@[simp] theorem Dev.modBoot_now (f : Boot → Boot) : (s.modBoot f).now = s.now := rfl
@[simp] theorem Dev.modBoot_freeCount (f : Boot → Boot) : (s.modBoot f).freeCount = s.freeCount := rfl
@[simp] theorem Dev.modBoot_mem (f : Boot → Boot) : (s.modBoot f).mem = s.mem := rfl
@[simp] theorem Dev.modBoot_tiles (f : Boot → Boot) : (s.modBoot f).tiles = s.tiles := rfl
@[simp] theorem Dev.modBoot_sidecars (f : Boot → Boot) : (s.modBoot f).sidecars = s.sidecars := rfl
@[simp] theorem Dev.modBoot_flash (f : Boot → Boot) : (s.modBoot f).flash = s.flash := rfl
@[simp] theorem Dev.modBoot_counters (f : Boot → Boot) : (s.modBoot f).counters = s.counters := rfl
@[simp] theorem Dev.modBoot_bumped (f : Boot → Boot) : (s.modBoot f).bumped = s.bumped := rfl
@[simp] theorem Dev.modBoot_flagged (f : Boot → Boot) : (s.modBoot f).flagged = s.flagged := rfl
@[simp] theorem Dev.modBoot_stalls (f : Boot → Boot) : (s.modBoot f).stalls = s.stalls := rfl
@[simp] theorem Dev.modBoot_chests (f : Boot → Boot) : (s.modBoot f).chests = s.chests := rfl
@[simp] theorem Dev.modBoot_blocks (f : Boot → Boot) : (s.modBoot f).blocks = s.blocks := rfl
@[simp] theorem Dev.modBoot_lots (f : Boot → Boot) : (s.modBoot f).lots = s.lots := rfl
@[simp] theorem Dev.modBoot_ctxs (f : Boot → Boot) : (s.modBoot f).ctxs = s.ctxs := rfl
@[simp] theorem Dev.modBoot_tasks (f : Boot → Boot) : (s.modBoot f).tasks = s.tasks := rfl
@[simp] theorem Dev.modBoot_grid (f : Boot → Boot) : (s.modBoot f).grid = s.grid := rfl
@[simp] theorem Dev.modBoot_flights (f : Boot → Boot) : (s.modBoot f).flights = s.flights := rfl
@[simp] theorem Dev.modBoot_credits (f : Boot → Boot) : (s.modBoot f).credits = s.credits := rfl
@[simp] theorem Dev.modBoot_bells (f : Boot → Boot) : (s.modBoot f).bells = s.bells := rfl
@[simp] theorem Dev.modBoot_rang (f : Boot → Boot) : (s.modBoot f).rang = s.rang := rfl
@[simp] theorem Dev.modBoot_nextId (f : Boot → Boot) : (s.modBoot f).nextId = s.nextId := rfl
@[simp] theorem Dev.modBoot_teardowns (f : Boot → Boot) : (s.modBoot f).teardowns = s.teardowns := rfl
@[simp] theorem Dev.modBoot_rings (f : Boot → Boot) : (s.modBoot f).rings = s.rings := rfl
@[simp] theorem Dev.modBoot_placed (f : Boot → Boot) : (s.modBoot f).placed = s.placed := rfl
@[simp] theorem Dev.modBoot_porterUp (f : Boot → Boot) : (s.modBoot f).porterUp = s.porterUp := rfl
@[simp] theorem Dev.modBoot_porterLossAt (f : Boot → Boot) : (s.modBoot f).porterLossAt = s.porterLossAt := rfl
@[simp] theorem Dev.modBoot_loadQ (f : Boot → Boot) : (s.modBoot f).loadQ = s.loadQ := rfl
@[simp] theorem Dev.modBoot_loading (f : Boot → Boot) : (s.modBoot f).loading = s.loading := rfl
@[simp] theorem Dev.modBoot_copies (f : Boot → Boot) : (s.modBoot f).copies = s.copies := rfl
@[simp] theorem Dev.modBoot_conc (f : Boot → Boot) : (s.modBoot f).conc = s.conc := rfl
@[simp] theorem Dev.modBoot_pool (f : Boot → Boot) : (s.modBoot f).pool = s.pool := rfl
@[simp] theorem Dev.modBoot_elveel (f : Boot → Boot) : (s.modBoot f).elveel = s.elveel := rfl
@[simp] theorem Dev.modBoot_coll (f : Boot → Boot) : (s.modBoot f).coll = s.coll := rfl
@[simp] theorem Dev.modBoot_boot (f : Boot → Boot) : (s.modBoot f).boot = f s.boot := rfl
@[simp] theorem Dev.modBoot_power (f : Boot → Boot) : (s.modBoot f).power = s.power := rfl
@[simp] theorem Dev.modBoot_warden (f : Boot → Boot) : (s.modBoot f).warden = s.warden := rfl
@[simp] theorem Dev.modBoot_ledger (f : Boot → Boot) : (s.modBoot f).ledger = s.ledger := rfl
@[simp] theorem Dev.modBoot_service (f : Boot → Boot) : (s.modBoot f).service = s.service := rfl
@[simp] theorem Dev.modBoot_trestles (f : Boot → Boot) : (s.modBoot f).trestles = s.trestles := rfl
@[simp] theorem Dev.modBoot_early (f : Boot → Boot) : (s.modBoot f).early = s.early := rfl
@[simp] theorem Dev.modBoot_out (f : Boot → Boot) : (s.modBoot f).out = s.out := rfl

@[simp] theorem Dev.modLedger_now (f : Ledger → Ledger) : (s.modLedger f).now = s.now := rfl
@[simp] theorem Dev.modLedger_freeCount (f : Ledger → Ledger) : (s.modLedger f).freeCount = s.freeCount := rfl
@[simp] theorem Dev.modLedger_mem (f : Ledger → Ledger) : (s.modLedger f).mem = s.mem := rfl
@[simp] theorem Dev.modLedger_tiles (f : Ledger → Ledger) : (s.modLedger f).tiles = s.tiles := rfl
@[simp] theorem Dev.modLedger_sidecars (f : Ledger → Ledger) : (s.modLedger f).sidecars = s.sidecars := rfl
@[simp] theorem Dev.modLedger_flash (f : Ledger → Ledger) : (s.modLedger f).flash = s.flash := rfl
@[simp] theorem Dev.modLedger_counters (f : Ledger → Ledger) : (s.modLedger f).counters = s.counters := rfl
@[simp] theorem Dev.modLedger_bumped (f : Ledger → Ledger) : (s.modLedger f).bumped = s.bumped := rfl
@[simp] theorem Dev.modLedger_flagged (f : Ledger → Ledger) : (s.modLedger f).flagged = s.flagged := rfl
@[simp] theorem Dev.modLedger_stalls (f : Ledger → Ledger) : (s.modLedger f).stalls = s.stalls := rfl
@[simp] theorem Dev.modLedger_chests (f : Ledger → Ledger) : (s.modLedger f).chests = s.chests := rfl
@[simp] theorem Dev.modLedger_blocks (f : Ledger → Ledger) : (s.modLedger f).blocks = s.blocks := rfl
@[simp] theorem Dev.modLedger_lots (f : Ledger → Ledger) : (s.modLedger f).lots = s.lots := rfl
@[simp] theorem Dev.modLedger_ctxs (f : Ledger → Ledger) : (s.modLedger f).ctxs = s.ctxs := rfl
@[simp] theorem Dev.modLedger_tasks (f : Ledger → Ledger) : (s.modLedger f).tasks = s.tasks := rfl
@[simp] theorem Dev.modLedger_grid (f : Ledger → Ledger) : (s.modLedger f).grid = s.grid := rfl
@[simp] theorem Dev.modLedger_flights (f : Ledger → Ledger) : (s.modLedger f).flights = s.flights := rfl
@[simp] theorem Dev.modLedger_credits (f : Ledger → Ledger) : (s.modLedger f).credits = s.credits := rfl
@[simp] theorem Dev.modLedger_bells (f : Ledger → Ledger) : (s.modLedger f).bells = s.bells := rfl
@[simp] theorem Dev.modLedger_rang (f : Ledger → Ledger) : (s.modLedger f).rang = s.rang := rfl
@[simp] theorem Dev.modLedger_nextId (f : Ledger → Ledger) : (s.modLedger f).nextId = s.nextId := rfl
@[simp] theorem Dev.modLedger_teardowns (f : Ledger → Ledger) : (s.modLedger f).teardowns = s.teardowns := rfl
@[simp] theorem Dev.modLedger_rings (f : Ledger → Ledger) : (s.modLedger f).rings = s.rings := rfl
@[simp] theorem Dev.modLedger_placed (f : Ledger → Ledger) : (s.modLedger f).placed = s.placed := rfl
@[simp] theorem Dev.modLedger_porterUp (f : Ledger → Ledger) : (s.modLedger f).porterUp = s.porterUp := rfl
@[simp] theorem Dev.modLedger_porterLossAt (f : Ledger → Ledger) : (s.modLedger f).porterLossAt = s.porterLossAt := rfl
@[simp] theorem Dev.modLedger_loadQ (f : Ledger → Ledger) : (s.modLedger f).loadQ = s.loadQ := rfl
@[simp] theorem Dev.modLedger_loading (f : Ledger → Ledger) : (s.modLedger f).loading = s.loading := rfl
@[simp] theorem Dev.modLedger_copies (f : Ledger → Ledger) : (s.modLedger f).copies = s.copies := rfl
@[simp] theorem Dev.modLedger_conc (f : Ledger → Ledger) : (s.modLedger f).conc = s.conc := rfl
@[simp] theorem Dev.modLedger_pool (f : Ledger → Ledger) : (s.modLedger f).pool = s.pool := rfl
@[simp] theorem Dev.modLedger_elveel (f : Ledger → Ledger) : (s.modLedger f).elveel = s.elveel := rfl
@[simp] theorem Dev.modLedger_coll (f : Ledger → Ledger) : (s.modLedger f).coll = s.coll := rfl
@[simp] theorem Dev.modLedger_boot (f : Ledger → Ledger) : (s.modLedger f).boot = s.boot := rfl
@[simp] theorem Dev.modLedger_power (f : Ledger → Ledger) : (s.modLedger f).power = s.power := rfl
@[simp] theorem Dev.modLedger_warden (f : Ledger → Ledger) : (s.modLedger f).warden = s.warden := rfl
@[simp] theorem Dev.modLedger_ledger (f : Ledger → Ledger) : (s.modLedger f).ledger = f s.ledger := rfl
@[simp] theorem Dev.modLedger_service (f : Ledger → Ledger) : (s.modLedger f).service = s.service := rfl
@[simp] theorem Dev.modLedger_trestles (f : Ledger → Ledger) : (s.modLedger f).trestles = s.trestles := rfl
@[simp] theorem Dev.modLedger_early (f : Ledger → Ledger) : (s.modLedger f).early = s.early := rfl
@[simp] theorem Dev.modLedger_out (f : Ledger → Ledger) : (s.modLedger f).out = s.out := rfl

@[simp] theorem Dev.modSvc_now (f : Service → Service) : (s.modSvc f).now = s.now := rfl
@[simp] theorem Dev.modSvc_freeCount (f : Service → Service) : (s.modSvc f).freeCount = s.freeCount := rfl
@[simp] theorem Dev.modSvc_mem (f : Service → Service) : (s.modSvc f).mem = s.mem := rfl
@[simp] theorem Dev.modSvc_tiles (f : Service → Service) : (s.modSvc f).tiles = s.tiles := rfl
@[simp] theorem Dev.modSvc_sidecars (f : Service → Service) : (s.modSvc f).sidecars = s.sidecars := rfl
@[simp] theorem Dev.modSvc_flash (f : Service → Service) : (s.modSvc f).flash = s.flash := rfl
@[simp] theorem Dev.modSvc_counters (f : Service → Service) : (s.modSvc f).counters = s.counters := rfl
@[simp] theorem Dev.modSvc_bumped (f : Service → Service) : (s.modSvc f).bumped = s.bumped := rfl
@[simp] theorem Dev.modSvc_flagged (f : Service → Service) : (s.modSvc f).flagged = s.flagged := rfl
@[simp] theorem Dev.modSvc_stalls (f : Service → Service) : (s.modSvc f).stalls = s.stalls := rfl
@[simp] theorem Dev.modSvc_chests (f : Service → Service) : (s.modSvc f).chests = s.chests := rfl
@[simp] theorem Dev.modSvc_blocks (f : Service → Service) : (s.modSvc f).blocks = s.blocks := rfl
@[simp] theorem Dev.modSvc_lots (f : Service → Service) : (s.modSvc f).lots = s.lots := rfl
@[simp] theorem Dev.modSvc_ctxs (f : Service → Service) : (s.modSvc f).ctxs = s.ctxs := rfl
@[simp] theorem Dev.modSvc_tasks (f : Service → Service) : (s.modSvc f).tasks = s.tasks := rfl
@[simp] theorem Dev.modSvc_grid (f : Service → Service) : (s.modSvc f).grid = s.grid := rfl
@[simp] theorem Dev.modSvc_flights (f : Service → Service) : (s.modSvc f).flights = s.flights := rfl
@[simp] theorem Dev.modSvc_credits (f : Service → Service) : (s.modSvc f).credits = s.credits := rfl
@[simp] theorem Dev.modSvc_bells (f : Service → Service) : (s.modSvc f).bells = s.bells := rfl
@[simp] theorem Dev.modSvc_rang (f : Service → Service) : (s.modSvc f).rang = s.rang := rfl
@[simp] theorem Dev.modSvc_nextId (f : Service → Service) : (s.modSvc f).nextId = s.nextId := rfl
@[simp] theorem Dev.modSvc_teardowns (f : Service → Service) : (s.modSvc f).teardowns = s.teardowns := rfl
@[simp] theorem Dev.modSvc_rings (f : Service → Service) : (s.modSvc f).rings = s.rings := rfl
@[simp] theorem Dev.modSvc_placed (f : Service → Service) : (s.modSvc f).placed = s.placed := rfl
@[simp] theorem Dev.modSvc_porterUp (f : Service → Service) : (s.modSvc f).porterUp = s.porterUp := rfl
@[simp] theorem Dev.modSvc_porterLossAt (f : Service → Service) : (s.modSvc f).porterLossAt = s.porterLossAt := rfl
@[simp] theorem Dev.modSvc_loadQ (f : Service → Service) : (s.modSvc f).loadQ = s.loadQ := rfl
@[simp] theorem Dev.modSvc_loading (f : Service → Service) : (s.modSvc f).loading = s.loading := rfl
@[simp] theorem Dev.modSvc_copies (f : Service → Service) : (s.modSvc f).copies = s.copies := rfl
@[simp] theorem Dev.modSvc_conc (f : Service → Service) : (s.modSvc f).conc = s.conc := rfl
@[simp] theorem Dev.modSvc_pool (f : Service → Service) : (s.modSvc f).pool = s.pool := rfl
@[simp] theorem Dev.modSvc_elveel (f : Service → Service) : (s.modSvc f).elveel = s.elveel := rfl
@[simp] theorem Dev.modSvc_coll (f : Service → Service) : (s.modSvc f).coll = s.coll := rfl
@[simp] theorem Dev.modSvc_boot (f : Service → Service) : (s.modSvc f).boot = s.boot := rfl
@[simp] theorem Dev.modSvc_power (f : Service → Service) : (s.modSvc f).power = s.power := rfl
@[simp] theorem Dev.modSvc_warden (f : Service → Service) : (s.modSvc f).warden = s.warden := rfl
@[simp] theorem Dev.modSvc_ledger (f : Service → Service) : (s.modSvc f).ledger = s.ledger := rfl
@[simp] theorem Dev.modSvc_service (f : Service → Service) : (s.modSvc f).service = f s.service := rfl
@[simp] theorem Dev.modSvc_trestles (f : Service → Service) : (s.modSvc f).trestles = s.trestles := rfl
@[simp] theorem Dev.modSvc_early (f : Service → Service) : (s.modSvc f).early = s.early := rfl
@[simp] theorem Dev.modSvc_out (f : Service → Service) : (s.modSvc f).out = s.out := rfl

@[simp] theorem Dev.modGrid_now (f : Grid → Grid) : (s.modGrid f).now = s.now := rfl
@[simp] theorem Dev.modGrid_freeCount (f : Grid → Grid) : (s.modGrid f).freeCount = s.freeCount := rfl
@[simp] theorem Dev.modGrid_mem (f : Grid → Grid) : (s.modGrid f).mem = s.mem := rfl
@[simp] theorem Dev.modGrid_tiles (f : Grid → Grid) : (s.modGrid f).tiles = s.tiles := rfl
@[simp] theorem Dev.modGrid_sidecars (f : Grid → Grid) : (s.modGrid f).sidecars = s.sidecars := rfl
@[simp] theorem Dev.modGrid_flash (f : Grid → Grid) : (s.modGrid f).flash = s.flash := rfl
@[simp] theorem Dev.modGrid_counters (f : Grid → Grid) : (s.modGrid f).counters = s.counters := rfl
@[simp] theorem Dev.modGrid_bumped (f : Grid → Grid) : (s.modGrid f).bumped = s.bumped := rfl
@[simp] theorem Dev.modGrid_flagged (f : Grid → Grid) : (s.modGrid f).flagged = s.flagged := rfl
@[simp] theorem Dev.modGrid_stalls (f : Grid → Grid) : (s.modGrid f).stalls = s.stalls := rfl
@[simp] theorem Dev.modGrid_chests (f : Grid → Grid) : (s.modGrid f).chests = s.chests := rfl
@[simp] theorem Dev.modGrid_blocks (f : Grid → Grid) : (s.modGrid f).blocks = s.blocks := rfl
@[simp] theorem Dev.modGrid_lots (f : Grid → Grid) : (s.modGrid f).lots = s.lots := rfl
@[simp] theorem Dev.modGrid_ctxs (f : Grid → Grid) : (s.modGrid f).ctxs = s.ctxs := rfl
@[simp] theorem Dev.modGrid_tasks (f : Grid → Grid) : (s.modGrid f).tasks = s.tasks := rfl
@[simp] theorem Dev.modGrid_grid (f : Grid → Grid) : (s.modGrid f).grid = f s.grid := rfl
@[simp] theorem Dev.modGrid_flights (f : Grid → Grid) : (s.modGrid f).flights = s.flights := rfl
@[simp] theorem Dev.modGrid_credits (f : Grid → Grid) : (s.modGrid f).credits = s.credits := rfl
@[simp] theorem Dev.modGrid_bells (f : Grid → Grid) : (s.modGrid f).bells = s.bells := rfl
@[simp] theorem Dev.modGrid_rang (f : Grid → Grid) : (s.modGrid f).rang = s.rang := rfl
@[simp] theorem Dev.modGrid_nextId (f : Grid → Grid) : (s.modGrid f).nextId = s.nextId := rfl
@[simp] theorem Dev.modGrid_teardowns (f : Grid → Grid) : (s.modGrid f).teardowns = s.teardowns := rfl
@[simp] theorem Dev.modGrid_rings (f : Grid → Grid) : (s.modGrid f).rings = s.rings := rfl
@[simp] theorem Dev.modGrid_placed (f : Grid → Grid) : (s.modGrid f).placed = s.placed := rfl
@[simp] theorem Dev.modGrid_porterUp (f : Grid → Grid) : (s.modGrid f).porterUp = s.porterUp := rfl
@[simp] theorem Dev.modGrid_porterLossAt (f : Grid → Grid) : (s.modGrid f).porterLossAt = s.porterLossAt := rfl
@[simp] theorem Dev.modGrid_loadQ (f : Grid → Grid) : (s.modGrid f).loadQ = s.loadQ := rfl
@[simp] theorem Dev.modGrid_loading (f : Grid → Grid) : (s.modGrid f).loading = s.loading := rfl
@[simp] theorem Dev.modGrid_copies (f : Grid → Grid) : (s.modGrid f).copies = s.copies := rfl
@[simp] theorem Dev.modGrid_conc (f : Grid → Grid) : (s.modGrid f).conc = s.conc := rfl
@[simp] theorem Dev.modGrid_pool (f : Grid → Grid) : (s.modGrid f).pool = s.pool := rfl
@[simp] theorem Dev.modGrid_elveel (f : Grid → Grid) : (s.modGrid f).elveel = s.elveel := rfl
@[simp] theorem Dev.modGrid_coll (f : Grid → Grid) : (s.modGrid f).coll = s.coll := rfl
@[simp] theorem Dev.modGrid_boot (f : Grid → Grid) : (s.modGrid f).boot = s.boot := rfl
@[simp] theorem Dev.modGrid_power (f : Grid → Grid) : (s.modGrid f).power = s.power := rfl
@[simp] theorem Dev.modGrid_warden (f : Grid → Grid) : (s.modGrid f).warden = s.warden := rfl
@[simp] theorem Dev.modGrid_ledger (f : Grid → Grid) : (s.modGrid f).ledger = s.ledger := rfl
@[simp] theorem Dev.modGrid_service (f : Grid → Grid) : (s.modGrid f).service = s.service := rfl
@[simp] theorem Dev.modGrid_trestles (f : Grid → Grid) : (s.modGrid f).trestles = s.trestles := rfl
@[simp] theorem Dev.modGrid_early (f : Grid → Grid) : (s.modGrid f).early = s.early := rfl
@[simp] theorem Dev.modGrid_out (f : Grid → Grid) : (s.modGrid f).out = s.out := rfl

@[simp] theorem Dev.modPool_now (f : Pool → Pool) : (s.modPool f).now = s.now := rfl
@[simp] theorem Dev.modPool_freeCount (f : Pool → Pool) : (s.modPool f).freeCount = s.freeCount := rfl
@[simp] theorem Dev.modPool_mem (f : Pool → Pool) : (s.modPool f).mem = s.mem := rfl
@[simp] theorem Dev.modPool_tiles (f : Pool → Pool) : (s.modPool f).tiles = s.tiles := rfl
@[simp] theorem Dev.modPool_sidecars (f : Pool → Pool) : (s.modPool f).sidecars = s.sidecars := rfl
@[simp] theorem Dev.modPool_flash (f : Pool → Pool) : (s.modPool f).flash = s.flash := rfl
@[simp] theorem Dev.modPool_counters (f : Pool → Pool) : (s.modPool f).counters = s.counters := rfl
@[simp] theorem Dev.modPool_bumped (f : Pool → Pool) : (s.modPool f).bumped = s.bumped := rfl
@[simp] theorem Dev.modPool_flagged (f : Pool → Pool) : (s.modPool f).flagged = s.flagged := rfl
@[simp] theorem Dev.modPool_stalls (f : Pool → Pool) : (s.modPool f).stalls = s.stalls := rfl
@[simp] theorem Dev.modPool_chests (f : Pool → Pool) : (s.modPool f).chests = s.chests := rfl
@[simp] theorem Dev.modPool_blocks (f : Pool → Pool) : (s.modPool f).blocks = s.blocks := rfl
@[simp] theorem Dev.modPool_lots (f : Pool → Pool) : (s.modPool f).lots = s.lots := rfl
@[simp] theorem Dev.modPool_ctxs (f : Pool → Pool) : (s.modPool f).ctxs = s.ctxs := rfl
@[simp] theorem Dev.modPool_tasks (f : Pool → Pool) : (s.modPool f).tasks = s.tasks := rfl
@[simp] theorem Dev.modPool_grid (f : Pool → Pool) : (s.modPool f).grid = s.grid := rfl
@[simp] theorem Dev.modPool_flights (f : Pool → Pool) : (s.modPool f).flights = s.flights := rfl
@[simp] theorem Dev.modPool_credits (f : Pool → Pool) : (s.modPool f).credits = s.credits := rfl
@[simp] theorem Dev.modPool_bells (f : Pool → Pool) : (s.modPool f).bells = s.bells := rfl
@[simp] theorem Dev.modPool_rang (f : Pool → Pool) : (s.modPool f).rang = s.rang := rfl
@[simp] theorem Dev.modPool_nextId (f : Pool → Pool) : (s.modPool f).nextId = s.nextId := rfl
@[simp] theorem Dev.modPool_teardowns (f : Pool → Pool) : (s.modPool f).teardowns = s.teardowns := rfl
@[simp] theorem Dev.modPool_rings (f : Pool → Pool) : (s.modPool f).rings = s.rings := rfl
@[simp] theorem Dev.modPool_placed (f : Pool → Pool) : (s.modPool f).placed = s.placed := rfl
@[simp] theorem Dev.modPool_porterUp (f : Pool → Pool) : (s.modPool f).porterUp = s.porterUp := rfl
@[simp] theorem Dev.modPool_porterLossAt (f : Pool → Pool) : (s.modPool f).porterLossAt = s.porterLossAt := rfl
@[simp] theorem Dev.modPool_loadQ (f : Pool → Pool) : (s.modPool f).loadQ = s.loadQ := rfl
@[simp] theorem Dev.modPool_loading (f : Pool → Pool) : (s.modPool f).loading = s.loading := rfl
@[simp] theorem Dev.modPool_copies (f : Pool → Pool) : (s.modPool f).copies = s.copies := rfl
@[simp] theorem Dev.modPool_conc (f : Pool → Pool) : (s.modPool f).conc = s.conc := rfl
@[simp] theorem Dev.modPool_pool (f : Pool → Pool) : (s.modPool f).pool = f s.pool := rfl
@[simp] theorem Dev.modPool_elveel (f : Pool → Pool) : (s.modPool f).elveel = s.elveel := rfl
@[simp] theorem Dev.modPool_coll (f : Pool → Pool) : (s.modPool f).coll = s.coll := rfl
@[simp] theorem Dev.modPool_boot (f : Pool → Pool) : (s.modPool f).boot = s.boot := rfl
@[simp] theorem Dev.modPool_power (f : Pool → Pool) : (s.modPool f).power = s.power := rfl
@[simp] theorem Dev.modPool_warden (f : Pool → Pool) : (s.modPool f).warden = s.warden := rfl
@[simp] theorem Dev.modPool_ledger (f : Pool → Pool) : (s.modPool f).ledger = s.ledger := rfl
@[simp] theorem Dev.modPool_service (f : Pool → Pool) : (s.modPool f).service = s.service := rfl
@[simp] theorem Dev.modPool_trestles (f : Pool → Pool) : (s.modPool f).trestles = s.trestles := rfl
@[simp] theorem Dev.modPool_early (f : Pool → Pool) : (s.modPool f).early = s.early := rfl
@[simp] theorem Dev.modPool_out (f : Pool → Pool) : (s.modPool f).out = s.out := rfl

@[simp] theorem Dev.modXfer_now (b : Nat) (f : Xfer → Xfer) : (s.modXfer b f).now = s.now := rfl
@[simp] theorem Dev.modXfer_freeCount (b : Nat) (f : Xfer → Xfer) : (s.modXfer b f).freeCount = s.freeCount := rfl
@[simp] theorem Dev.modXfer_mem (b : Nat) (f : Xfer → Xfer) : (s.modXfer b f).mem = s.mem := rfl
@[simp] theorem Dev.modXfer_tiles (b : Nat) (f : Xfer → Xfer) : (s.modXfer b f).tiles = s.tiles := rfl
@[simp] theorem Dev.modXfer_sidecars (b : Nat) (f : Xfer → Xfer) : (s.modXfer b f).sidecars = s.sidecars := rfl
@[simp] theorem Dev.modXfer_flash (b : Nat) (f : Xfer → Xfer) : (s.modXfer b f).flash = s.flash := rfl
@[simp] theorem Dev.modXfer_counters (b : Nat) (f : Xfer → Xfer) : (s.modXfer b f).counters = s.counters := rfl
@[simp] theorem Dev.modXfer_bumped (b : Nat) (f : Xfer → Xfer) : (s.modXfer b f).bumped = s.bumped := rfl
@[simp] theorem Dev.modXfer_flagged (b : Nat) (f : Xfer → Xfer) : (s.modXfer b f).flagged = s.flagged := rfl
@[simp] theorem Dev.modXfer_stalls (b : Nat) (f : Xfer → Xfer) : (s.modXfer b f).stalls = s.stalls := rfl
@[simp] theorem Dev.modXfer_chests (b : Nat) (f : Xfer → Xfer) : (s.modXfer b f).chests = s.chests := rfl
@[simp] theorem Dev.modXfer_blocks (b : Nat) (f : Xfer → Xfer) : (s.modXfer b f).blocks = s.blocks.mod b fun x => { x with xfer := f x.xfer } := rfl
@[simp] theorem Dev.modXfer_lots (b : Nat) (f : Xfer → Xfer) : (s.modXfer b f).lots = s.lots := rfl
@[simp] theorem Dev.modXfer_ctxs (b : Nat) (f : Xfer → Xfer) : (s.modXfer b f).ctxs = s.ctxs := rfl
@[simp] theorem Dev.modXfer_tasks (b : Nat) (f : Xfer → Xfer) : (s.modXfer b f).tasks = s.tasks := rfl
@[simp] theorem Dev.modXfer_grid (b : Nat) (f : Xfer → Xfer) : (s.modXfer b f).grid = s.grid := rfl
@[simp] theorem Dev.modXfer_flights (b : Nat) (f : Xfer → Xfer) : (s.modXfer b f).flights = s.flights := rfl
@[simp] theorem Dev.modXfer_credits (b : Nat) (f : Xfer → Xfer) : (s.modXfer b f).credits = s.credits := rfl
@[simp] theorem Dev.modXfer_bells (b : Nat) (f : Xfer → Xfer) : (s.modXfer b f).bells = s.bells := rfl
@[simp] theorem Dev.modXfer_rang (b : Nat) (f : Xfer → Xfer) : (s.modXfer b f).rang = s.rang := rfl
@[simp] theorem Dev.modXfer_nextId (b : Nat) (f : Xfer → Xfer) : (s.modXfer b f).nextId = s.nextId := rfl
@[simp] theorem Dev.modXfer_teardowns (b : Nat) (f : Xfer → Xfer) : (s.modXfer b f).teardowns = s.teardowns := rfl
@[simp] theorem Dev.modXfer_rings (b : Nat) (f : Xfer → Xfer) : (s.modXfer b f).rings = s.rings := rfl
@[simp] theorem Dev.modXfer_placed (b : Nat) (f : Xfer → Xfer) : (s.modXfer b f).placed = s.placed := rfl
@[simp] theorem Dev.modXfer_porterUp (b : Nat) (f : Xfer → Xfer) : (s.modXfer b f).porterUp = s.porterUp := rfl
@[simp] theorem Dev.modXfer_porterLossAt (b : Nat) (f : Xfer → Xfer) : (s.modXfer b f).porterLossAt = s.porterLossAt := rfl
@[simp] theorem Dev.modXfer_loadQ (b : Nat) (f : Xfer → Xfer) : (s.modXfer b f).loadQ = s.loadQ := rfl
@[simp] theorem Dev.modXfer_loading (b : Nat) (f : Xfer → Xfer) : (s.modXfer b f).loading = s.loading := rfl
@[simp] theorem Dev.modXfer_copies (b : Nat) (f : Xfer → Xfer) : (s.modXfer b f).copies = s.copies := rfl
@[simp] theorem Dev.modXfer_conc (b : Nat) (f : Xfer → Xfer) : (s.modXfer b f).conc = s.conc := rfl
@[simp] theorem Dev.modXfer_pool (b : Nat) (f : Xfer → Xfer) : (s.modXfer b f).pool = s.pool := rfl
@[simp] theorem Dev.modXfer_elveel (b : Nat) (f : Xfer → Xfer) : (s.modXfer b f).elveel = s.elveel := rfl
@[simp] theorem Dev.modXfer_coll (b : Nat) (f : Xfer → Xfer) : (s.modXfer b f).coll = s.coll := rfl
@[simp] theorem Dev.modXfer_boot (b : Nat) (f : Xfer → Xfer) : (s.modXfer b f).boot = s.boot := rfl
@[simp] theorem Dev.modXfer_power (b : Nat) (f : Xfer → Xfer) : (s.modXfer b f).power = s.power := rfl
@[simp] theorem Dev.modXfer_warden (b : Nat) (f : Xfer → Xfer) : (s.modXfer b f).warden = s.warden := rfl
@[simp] theorem Dev.modXfer_ledger (b : Nat) (f : Xfer → Xfer) : (s.modXfer b f).ledger = s.ledger := rfl
@[simp] theorem Dev.modXfer_service (b : Nat) (f : Xfer → Xfer) : (s.modXfer b f).service = s.service := rfl
@[simp] theorem Dev.modXfer_trestles (b : Nat) (f : Xfer → Xfer) : (s.modXfer b f).trestles = s.trestles := rfl
@[simp] theorem Dev.modXfer_early (b : Nat) (f : Xfer → Xfer) : (s.modXfer b f).early = s.early := rfl
@[simp] theorem Dev.modXfer_out (b : Nat) (f : Xfer → Xfer) : (s.modXfer b f).out = s.out := rfl

@[simp] theorem Dev.emit_now (o : Output) : (s.emit o).now = s.now := rfl
@[simp] theorem Dev.emit_freeCount (o : Output) : (s.emit o).freeCount = s.freeCount := rfl
@[simp] theorem Dev.emit_mem (o : Output) : (s.emit o).mem = s.mem := rfl
@[simp] theorem Dev.emit_tiles (o : Output) : (s.emit o).tiles = s.tiles := rfl
@[simp] theorem Dev.emit_sidecars (o : Output) : (s.emit o).sidecars = s.sidecars := rfl
@[simp] theorem Dev.emit_flash (o : Output) : (s.emit o).flash = s.flash := rfl
@[simp] theorem Dev.emit_counters (o : Output) : (s.emit o).counters = s.counters := rfl
@[simp] theorem Dev.emit_bumped (o : Output) : (s.emit o).bumped = s.bumped := rfl
@[simp] theorem Dev.emit_flagged (o : Output) : (s.emit o).flagged = s.flagged := rfl
@[simp] theorem Dev.emit_stalls (o : Output) : (s.emit o).stalls = s.stalls := rfl
@[simp] theorem Dev.emit_chests (o : Output) : (s.emit o).chests = s.chests := rfl
@[simp] theorem Dev.emit_blocks (o : Output) : (s.emit o).blocks = s.blocks := rfl
@[simp] theorem Dev.emit_lots (o : Output) : (s.emit o).lots = s.lots := rfl
@[simp] theorem Dev.emit_ctxs (o : Output) : (s.emit o).ctxs = s.ctxs := rfl
@[simp] theorem Dev.emit_tasks (o : Output) : (s.emit o).tasks = s.tasks := rfl
@[simp] theorem Dev.emit_grid (o : Output) : (s.emit o).grid = s.grid := rfl
@[simp] theorem Dev.emit_flights (o : Output) : (s.emit o).flights = s.flights := rfl
@[simp] theorem Dev.emit_credits (o : Output) : (s.emit o).credits = s.credits := rfl
@[simp] theorem Dev.emit_bells (o : Output) : (s.emit o).bells = s.bells := rfl
@[simp] theorem Dev.emit_rang (o : Output) : (s.emit o).rang = s.rang := rfl
@[simp] theorem Dev.emit_nextId (o : Output) : (s.emit o).nextId = s.nextId := rfl
@[simp] theorem Dev.emit_teardowns (o : Output) : (s.emit o).teardowns = s.teardowns := rfl
@[simp] theorem Dev.emit_rings (o : Output) : (s.emit o).rings = s.rings := rfl
@[simp] theorem Dev.emit_placed (o : Output) : (s.emit o).placed = s.placed := rfl
@[simp] theorem Dev.emit_porterUp (o : Output) : (s.emit o).porterUp = s.porterUp := rfl
@[simp] theorem Dev.emit_porterLossAt (o : Output) : (s.emit o).porterLossAt = s.porterLossAt := rfl
@[simp] theorem Dev.emit_loadQ (o : Output) : (s.emit o).loadQ = s.loadQ := rfl
@[simp] theorem Dev.emit_loading (o : Output) : (s.emit o).loading = s.loading := rfl
@[simp] theorem Dev.emit_copies (o : Output) : (s.emit o).copies = s.copies := rfl
@[simp] theorem Dev.emit_conc (o : Output) : (s.emit o).conc = s.conc := rfl
@[simp] theorem Dev.emit_pool (o : Output) : (s.emit o).pool = s.pool := rfl
@[simp] theorem Dev.emit_elveel (o : Output) : (s.emit o).elveel = s.elveel := rfl
@[simp] theorem Dev.emit_coll (o : Output) : (s.emit o).coll = s.coll := rfl
@[simp] theorem Dev.emit_boot (o : Output) : (s.emit o).boot = s.boot := rfl
@[simp] theorem Dev.emit_power (o : Output) : (s.emit o).power = s.power := rfl
@[simp] theorem Dev.emit_warden (o : Output) : (s.emit o).warden = s.warden := rfl
@[simp] theorem Dev.emit_ledger (o : Output) : (s.emit o).ledger = s.ledger := rfl
@[simp] theorem Dev.emit_service (o : Output) : (s.emit o).service = s.service := rfl
@[simp] theorem Dev.emit_trestles (o : Output) : (s.emit o).trestles = s.trestles := rfl
@[simp] theorem Dev.emit_early (o : Output) : (s.emit o).early = s.early := rfl
@[simp] theorem Dev.emit_out (o : Output) : (s.emit o).out = s.out ++ [o] := rfl

@[simp] theorem Dev.memPut_now (a : Nat) (bs : Bytes) : (s.memPut a bs).now = s.now := rfl
@[simp] theorem Dev.memPut_freeCount (a : Nat) (bs : Bytes) : (s.memPut a bs).freeCount = s.freeCount := rfl
@[simp] theorem Dev.memPut_mem (a : Nat) (bs : Bytes) : (s.memPut a bs).mem = memWrite 0 s.mem a bs := rfl
@[simp] theorem Dev.memPut_tiles (a : Nat) (bs : Bytes) : (s.memPut a bs).tiles = s.tiles := rfl
@[simp] theorem Dev.memPut_sidecars (a : Nat) (bs : Bytes) : (s.memPut a bs).sidecars = s.sidecars := rfl
@[simp] theorem Dev.memPut_flash (a : Nat) (bs : Bytes) : (s.memPut a bs).flash = s.flash := rfl
@[simp] theorem Dev.memPut_counters (a : Nat) (bs : Bytes) : (s.memPut a bs).counters = s.counters := rfl
@[simp] theorem Dev.memPut_bumped (a : Nat) (bs : Bytes) : (s.memPut a bs).bumped = s.bumped := rfl
@[simp] theorem Dev.memPut_flagged (a : Nat) (bs : Bytes) : (s.memPut a bs).flagged = s.flagged := rfl
@[simp] theorem Dev.memPut_stalls (a : Nat) (bs : Bytes) : (s.memPut a bs).stalls = s.stalls := rfl
@[simp] theorem Dev.memPut_chests (a : Nat) (bs : Bytes) : (s.memPut a bs).chests = s.chests := rfl
@[simp] theorem Dev.memPut_blocks (a : Nat) (bs : Bytes) : (s.memPut a bs).blocks = s.blocks := rfl
@[simp] theorem Dev.memPut_lots (a : Nat) (bs : Bytes) : (s.memPut a bs).lots = s.lots := rfl
@[simp] theorem Dev.memPut_ctxs (a : Nat) (bs : Bytes) : (s.memPut a bs).ctxs = s.ctxs := rfl
@[simp] theorem Dev.memPut_tasks (a : Nat) (bs : Bytes) : (s.memPut a bs).tasks = s.tasks := rfl
@[simp] theorem Dev.memPut_grid (a : Nat) (bs : Bytes) : (s.memPut a bs).grid = s.grid := rfl
@[simp] theorem Dev.memPut_flights (a : Nat) (bs : Bytes) : (s.memPut a bs).flights = s.flights := rfl
@[simp] theorem Dev.memPut_credits (a : Nat) (bs : Bytes) : (s.memPut a bs).credits = s.credits := rfl
@[simp] theorem Dev.memPut_bells (a : Nat) (bs : Bytes) : (s.memPut a bs).bells = s.bells := rfl
@[simp] theorem Dev.memPut_rang (a : Nat) (bs : Bytes) : (s.memPut a bs).rang = s.rang := rfl
@[simp] theorem Dev.memPut_nextId (a : Nat) (bs : Bytes) : (s.memPut a bs).nextId = s.nextId := rfl
@[simp] theorem Dev.memPut_teardowns (a : Nat) (bs : Bytes) : (s.memPut a bs).teardowns = s.teardowns := rfl
@[simp] theorem Dev.memPut_rings (a : Nat) (bs : Bytes) : (s.memPut a bs).rings = s.rings := rfl
@[simp] theorem Dev.memPut_placed (a : Nat) (bs : Bytes) : (s.memPut a bs).placed = s.placed := rfl
@[simp] theorem Dev.memPut_porterUp (a : Nat) (bs : Bytes) : (s.memPut a bs).porterUp = s.porterUp := rfl
@[simp] theorem Dev.memPut_porterLossAt (a : Nat) (bs : Bytes) : (s.memPut a bs).porterLossAt = s.porterLossAt := rfl
@[simp] theorem Dev.memPut_loadQ (a : Nat) (bs : Bytes) : (s.memPut a bs).loadQ = s.loadQ := rfl
@[simp] theorem Dev.memPut_loading (a : Nat) (bs : Bytes) : (s.memPut a bs).loading = s.loading := rfl
@[simp] theorem Dev.memPut_copies (a : Nat) (bs : Bytes) : (s.memPut a bs).copies = s.copies := rfl
@[simp] theorem Dev.memPut_conc (a : Nat) (bs : Bytes) : (s.memPut a bs).conc = s.conc := rfl
@[simp] theorem Dev.memPut_pool (a : Nat) (bs : Bytes) : (s.memPut a bs).pool = s.pool := rfl
@[simp] theorem Dev.memPut_elveel (a : Nat) (bs : Bytes) : (s.memPut a bs).elveel = s.elveel := rfl
@[simp] theorem Dev.memPut_coll (a : Nat) (bs : Bytes) : (s.memPut a bs).coll = s.coll := rfl
@[simp] theorem Dev.memPut_boot (a : Nat) (bs : Bytes) : (s.memPut a bs).boot = s.boot := rfl
@[simp] theorem Dev.memPut_power (a : Nat) (bs : Bytes) : (s.memPut a bs).power = s.power := rfl
@[simp] theorem Dev.memPut_warden (a : Nat) (bs : Bytes) : (s.memPut a bs).warden = s.warden := rfl
@[simp] theorem Dev.memPut_ledger (a : Nat) (bs : Bytes) : (s.memPut a bs).ledger = s.ledger := rfl
@[simp] theorem Dev.memPut_service (a : Nat) (bs : Bytes) : (s.memPut a bs).service = s.service := rfl
@[simp] theorem Dev.memPut_trestles (a : Nat) (bs : Bytes) : (s.memPut a bs).trestles = s.trestles := rfl
@[simp] theorem Dev.memPut_early (a : Nat) (bs : Bytes) : (s.memPut a bs).early = s.early := rfl
@[simp] theorem Dev.memPut_out (a : Nat) (bs : Bytes) : (s.memPut a bs).out = s.out := rfl

@[simp] theorem Dev.tilePut_now (n t o : Nat) (bs : Bytes) : (s.tilePut n t o bs).now = s.now := rfl
@[simp] theorem Dev.tilePut_freeCount (n t o : Nat) (bs : Bytes) : (s.tilePut n t o bs).freeCount = s.freeCount := rfl
@[simp] theorem Dev.tilePut_mem (n t o : Nat) (bs : Bytes) : (s.tilePut n t o bs).mem = s.mem := rfl
@[simp] theorem Dev.tilePut_tiles (n t o : Nat) (bs : Bytes) : (s.tilePut n t o bs).tiles = memWrite 0 s.tiles (32768 * n + 4096 * t + o) bs := rfl
@[simp] theorem Dev.tilePut_sidecars (n t o : Nat) (bs : Bytes) : (s.tilePut n t o bs).sidecars = s.sidecars := rfl
@[simp] theorem Dev.tilePut_flash (n t o : Nat) (bs : Bytes) : (s.tilePut n t o bs).flash = s.flash := rfl
@[simp] theorem Dev.tilePut_counters (n t o : Nat) (bs : Bytes) : (s.tilePut n t o bs).counters = s.counters := rfl
@[simp] theorem Dev.tilePut_bumped (n t o : Nat) (bs : Bytes) : (s.tilePut n t o bs).bumped = s.bumped := rfl
@[simp] theorem Dev.tilePut_flagged (n t o : Nat) (bs : Bytes) : (s.tilePut n t o bs).flagged = s.flagged := rfl
@[simp] theorem Dev.tilePut_stalls (n t o : Nat) (bs : Bytes) : (s.tilePut n t o bs).stalls = s.stalls := rfl
@[simp] theorem Dev.tilePut_chests (n t o : Nat) (bs : Bytes) : (s.tilePut n t o bs).chests = s.chests := rfl
@[simp] theorem Dev.tilePut_blocks (n t o : Nat) (bs : Bytes) : (s.tilePut n t o bs).blocks = s.blocks := rfl
@[simp] theorem Dev.tilePut_lots (n t o : Nat) (bs : Bytes) : (s.tilePut n t o bs).lots = s.lots := rfl
@[simp] theorem Dev.tilePut_ctxs (n t o : Nat) (bs : Bytes) : (s.tilePut n t o bs).ctxs = s.ctxs := rfl
@[simp] theorem Dev.tilePut_tasks (n t o : Nat) (bs : Bytes) : (s.tilePut n t o bs).tasks = s.tasks := rfl
@[simp] theorem Dev.tilePut_grid (n t o : Nat) (bs : Bytes) : (s.tilePut n t o bs).grid = s.grid := rfl
@[simp] theorem Dev.tilePut_flights (n t o : Nat) (bs : Bytes) : (s.tilePut n t o bs).flights = s.flights := rfl
@[simp] theorem Dev.tilePut_credits (n t o : Nat) (bs : Bytes) : (s.tilePut n t o bs).credits = s.credits := rfl
@[simp] theorem Dev.tilePut_bells (n t o : Nat) (bs : Bytes) : (s.tilePut n t o bs).bells = s.bells := rfl
@[simp] theorem Dev.tilePut_rang (n t o : Nat) (bs : Bytes) : (s.tilePut n t o bs).rang = s.rang := rfl
@[simp] theorem Dev.tilePut_nextId (n t o : Nat) (bs : Bytes) : (s.tilePut n t o bs).nextId = s.nextId := rfl
@[simp] theorem Dev.tilePut_teardowns (n t o : Nat) (bs : Bytes) : (s.tilePut n t o bs).teardowns = s.teardowns := rfl
@[simp] theorem Dev.tilePut_rings (n t o : Nat) (bs : Bytes) : (s.tilePut n t o bs).rings = s.rings := rfl
@[simp] theorem Dev.tilePut_placed (n t o : Nat) (bs : Bytes) : (s.tilePut n t o bs).placed = s.placed := rfl
@[simp] theorem Dev.tilePut_porterUp (n t o : Nat) (bs : Bytes) : (s.tilePut n t o bs).porterUp = s.porterUp := rfl
@[simp] theorem Dev.tilePut_porterLossAt (n t o : Nat) (bs : Bytes) : (s.tilePut n t o bs).porterLossAt = s.porterLossAt := rfl
@[simp] theorem Dev.tilePut_loadQ (n t o : Nat) (bs : Bytes) : (s.tilePut n t o bs).loadQ = s.loadQ := rfl
@[simp] theorem Dev.tilePut_loading (n t o : Nat) (bs : Bytes) : (s.tilePut n t o bs).loading = s.loading := rfl
@[simp] theorem Dev.tilePut_copies (n t o : Nat) (bs : Bytes) : (s.tilePut n t o bs).copies = s.copies := rfl
@[simp] theorem Dev.tilePut_conc (n t o : Nat) (bs : Bytes) : (s.tilePut n t o bs).conc = s.conc := rfl
@[simp] theorem Dev.tilePut_pool (n t o : Nat) (bs : Bytes) : (s.tilePut n t o bs).pool = s.pool := rfl
@[simp] theorem Dev.tilePut_elveel (n t o : Nat) (bs : Bytes) : (s.tilePut n t o bs).elveel = s.elveel := rfl
@[simp] theorem Dev.tilePut_coll (n t o : Nat) (bs : Bytes) : (s.tilePut n t o bs).coll = s.coll := rfl
@[simp] theorem Dev.tilePut_boot (n t o : Nat) (bs : Bytes) : (s.tilePut n t o bs).boot = s.boot := rfl
@[simp] theorem Dev.tilePut_power (n t o : Nat) (bs : Bytes) : (s.tilePut n t o bs).power = s.power := rfl
@[simp] theorem Dev.tilePut_warden (n t o : Nat) (bs : Bytes) : (s.tilePut n t o bs).warden = s.warden := rfl
@[simp] theorem Dev.tilePut_ledger (n t o : Nat) (bs : Bytes) : (s.tilePut n t o bs).ledger = s.ledger := rfl
@[simp] theorem Dev.tilePut_service (n t o : Nat) (bs : Bytes) : (s.tilePut n t o bs).service = s.service := rfl
@[simp] theorem Dev.tilePut_trestles (n t o : Nat) (bs : Bytes) : (s.tilePut n t o bs).trestles = s.trestles := rfl
@[simp] theorem Dev.tilePut_early (n t o : Nat) (bs : Bytes) : (s.tilePut n t o bs).early = s.early := rfl
@[simp] theorem Dev.tilePut_out (n t o : Nat) (bs : Bytes) : (s.tilePut n t o bs).out = s.out := rfl

@[simp] theorem Dev.sidePut_now (n t o : Nat) (bs : Bytes) : (s.sidePut n t o bs).now = s.now := rfl
@[simp] theorem Dev.sidePut_freeCount (n t o : Nat) (bs : Bytes) : (s.sidePut n t o bs).freeCount = s.freeCount := rfl
@[simp] theorem Dev.sidePut_mem (n t o : Nat) (bs : Bytes) : (s.sidePut n t o bs).mem = s.mem := rfl
@[simp] theorem Dev.sidePut_tiles (n t o : Nat) (bs : Bytes) : (s.sidePut n t o bs).tiles = s.tiles := rfl
@[simp] theorem Dev.sidePut_sidecars (n t o : Nat) (bs : Bytes) : (s.sidePut n t o bs).sidecars = memWrite 0 s.sidecars (2048 * n + 256 * t + o) bs := rfl
@[simp] theorem Dev.sidePut_flash (n t o : Nat) (bs : Bytes) : (s.sidePut n t o bs).flash = s.flash := rfl
@[simp] theorem Dev.sidePut_counters (n t o : Nat) (bs : Bytes) : (s.sidePut n t o bs).counters = s.counters := rfl
@[simp] theorem Dev.sidePut_bumped (n t o : Nat) (bs : Bytes) : (s.sidePut n t o bs).bumped = s.bumped := rfl
@[simp] theorem Dev.sidePut_flagged (n t o : Nat) (bs : Bytes) : (s.sidePut n t o bs).flagged = s.flagged := rfl
@[simp] theorem Dev.sidePut_stalls (n t o : Nat) (bs : Bytes) : (s.sidePut n t o bs).stalls = s.stalls := rfl
@[simp] theorem Dev.sidePut_chests (n t o : Nat) (bs : Bytes) : (s.sidePut n t o bs).chests = s.chests := rfl
@[simp] theorem Dev.sidePut_blocks (n t o : Nat) (bs : Bytes) : (s.sidePut n t o bs).blocks = s.blocks := rfl
@[simp] theorem Dev.sidePut_lots (n t o : Nat) (bs : Bytes) : (s.sidePut n t o bs).lots = s.lots := rfl
@[simp] theorem Dev.sidePut_ctxs (n t o : Nat) (bs : Bytes) : (s.sidePut n t o bs).ctxs = s.ctxs := rfl
@[simp] theorem Dev.sidePut_tasks (n t o : Nat) (bs : Bytes) : (s.sidePut n t o bs).tasks = s.tasks := rfl
@[simp] theorem Dev.sidePut_grid (n t o : Nat) (bs : Bytes) : (s.sidePut n t o bs).grid = s.grid := rfl
@[simp] theorem Dev.sidePut_flights (n t o : Nat) (bs : Bytes) : (s.sidePut n t o bs).flights = s.flights := rfl
@[simp] theorem Dev.sidePut_credits (n t o : Nat) (bs : Bytes) : (s.sidePut n t o bs).credits = s.credits := rfl
@[simp] theorem Dev.sidePut_bells (n t o : Nat) (bs : Bytes) : (s.sidePut n t o bs).bells = s.bells := rfl
@[simp] theorem Dev.sidePut_rang (n t o : Nat) (bs : Bytes) : (s.sidePut n t o bs).rang = s.rang := rfl
@[simp] theorem Dev.sidePut_nextId (n t o : Nat) (bs : Bytes) : (s.sidePut n t o bs).nextId = s.nextId := rfl
@[simp] theorem Dev.sidePut_teardowns (n t o : Nat) (bs : Bytes) : (s.sidePut n t o bs).teardowns = s.teardowns := rfl
@[simp] theorem Dev.sidePut_rings (n t o : Nat) (bs : Bytes) : (s.sidePut n t o bs).rings = s.rings := rfl
@[simp] theorem Dev.sidePut_placed (n t o : Nat) (bs : Bytes) : (s.sidePut n t o bs).placed = s.placed := rfl
@[simp] theorem Dev.sidePut_porterUp (n t o : Nat) (bs : Bytes) : (s.sidePut n t o bs).porterUp = s.porterUp := rfl
@[simp] theorem Dev.sidePut_porterLossAt (n t o : Nat) (bs : Bytes) : (s.sidePut n t o bs).porterLossAt = s.porterLossAt := rfl
@[simp] theorem Dev.sidePut_loadQ (n t o : Nat) (bs : Bytes) : (s.sidePut n t o bs).loadQ = s.loadQ := rfl
@[simp] theorem Dev.sidePut_loading (n t o : Nat) (bs : Bytes) : (s.sidePut n t o bs).loading = s.loading := rfl
@[simp] theorem Dev.sidePut_copies (n t o : Nat) (bs : Bytes) : (s.sidePut n t o bs).copies = s.copies := rfl
@[simp] theorem Dev.sidePut_conc (n t o : Nat) (bs : Bytes) : (s.sidePut n t o bs).conc = s.conc := rfl
@[simp] theorem Dev.sidePut_pool (n t o : Nat) (bs : Bytes) : (s.sidePut n t o bs).pool = s.pool := rfl
@[simp] theorem Dev.sidePut_elveel (n t o : Nat) (bs : Bytes) : (s.sidePut n t o bs).elveel = s.elveel := rfl
@[simp] theorem Dev.sidePut_coll (n t o : Nat) (bs : Bytes) : (s.sidePut n t o bs).coll = s.coll := rfl
@[simp] theorem Dev.sidePut_boot (n t o : Nat) (bs : Bytes) : (s.sidePut n t o bs).boot = s.boot := rfl
@[simp] theorem Dev.sidePut_power (n t o : Nat) (bs : Bytes) : (s.sidePut n t o bs).power = s.power := rfl
@[simp] theorem Dev.sidePut_warden (n t o : Nat) (bs : Bytes) : (s.sidePut n t o bs).warden = s.warden := rfl
@[simp] theorem Dev.sidePut_ledger (n t o : Nat) (bs : Bytes) : (s.sidePut n t o bs).ledger = s.ledger := rfl
@[simp] theorem Dev.sidePut_service (n t o : Nat) (bs : Bytes) : (s.sidePut n t o bs).service = s.service := rfl
@[simp] theorem Dev.sidePut_trestles (n t o : Nat) (bs : Bytes) : (s.sidePut n t o bs).trestles = s.trestles := rfl
@[simp] theorem Dev.sidePut_early (n t o : Nat) (bs : Bytes) : (s.sidePut n t o bs).early = s.early := rfl
@[simp] theorem Dev.sidePut_out (n t o : Nat) (bs : Bytes) : (s.sidePut n t o bs).out = s.out := rfl

@[simp] theorem Dev.bump_now (r n w v : Nat) : (s.bump r n w v).now = s.now := rfl
@[simp] theorem Dev.bump_freeCount (r n w v : Nat) : (s.bump r n w v).freeCount = s.freeCount := rfl
@[simp] theorem Dev.bump_mem (r n w v : Nat) : (s.bump r n w v).mem = s.mem := rfl
@[simp] theorem Dev.bump_tiles (r n w v : Nat) : (s.bump r n w v).tiles = s.tiles := rfl
@[simp] theorem Dev.bump_sidecars (r n w v : Nat) : (s.bump r n w v).sidecars = s.sidecars := rfl
@[simp] theorem Dev.bump_flash (r n w v : Nat) : (s.bump r n w v).flash = s.flash := rfl
@[simp] theorem Dev.bump_counters (r n w v : Nat) : (s.bump r n w v).counters = s.counters.mod (ctrKey r n w) fun x => min (x + v) (2 ^ 48 - 1) := rfl
@[simp] theorem Dev.bump_bumped (r n w v : Nat) : (s.bump r n w v).bumped = s.bumped.mod (ctrKey r n w) fun x => min (x + v) (2 ^ 48 - 1) := rfl
@[simp] theorem Dev.bump_flagged (r n w v : Nat) : (s.bump r n w v).flagged = s.flagged := rfl
@[simp] theorem Dev.bump_stalls (r n w v : Nat) : (s.bump r n w v).stalls = s.stalls := rfl
@[simp] theorem Dev.bump_chests (r n w v : Nat) : (s.bump r n w v).chests = s.chests := rfl
@[simp] theorem Dev.bump_blocks (r n w v : Nat) : (s.bump r n w v).blocks = s.blocks := rfl
@[simp] theorem Dev.bump_lots (r n w v : Nat) : (s.bump r n w v).lots = s.lots := rfl
@[simp] theorem Dev.bump_ctxs (r n w v : Nat) : (s.bump r n w v).ctxs = s.ctxs := rfl
@[simp] theorem Dev.bump_tasks (r n w v : Nat) : (s.bump r n w v).tasks = s.tasks := rfl
@[simp] theorem Dev.bump_grid (r n w v : Nat) : (s.bump r n w v).grid = s.grid := rfl
@[simp] theorem Dev.bump_flights (r n w v : Nat) : (s.bump r n w v).flights = s.flights := rfl
@[simp] theorem Dev.bump_credits (r n w v : Nat) : (s.bump r n w v).credits = s.credits := rfl
@[simp] theorem Dev.bump_bells (r n w v : Nat) : (s.bump r n w v).bells = s.bells := rfl
@[simp] theorem Dev.bump_rang (r n w v : Nat) : (s.bump r n w v).rang = s.rang := rfl
@[simp] theorem Dev.bump_nextId (r n w v : Nat) : (s.bump r n w v).nextId = s.nextId := rfl
@[simp] theorem Dev.bump_teardowns (r n w v : Nat) : (s.bump r n w v).teardowns = s.teardowns := rfl
@[simp] theorem Dev.bump_rings (r n w v : Nat) : (s.bump r n w v).rings = s.rings := rfl
@[simp] theorem Dev.bump_placed (r n w v : Nat) : (s.bump r n w v).placed = s.placed := rfl
@[simp] theorem Dev.bump_porterUp (r n w v : Nat) : (s.bump r n w v).porterUp = s.porterUp := rfl
@[simp] theorem Dev.bump_porterLossAt (r n w v : Nat) : (s.bump r n w v).porterLossAt = s.porterLossAt := rfl
@[simp] theorem Dev.bump_loadQ (r n w v : Nat) : (s.bump r n w v).loadQ = s.loadQ := rfl
@[simp] theorem Dev.bump_loading (r n w v : Nat) : (s.bump r n w v).loading = s.loading := rfl
@[simp] theorem Dev.bump_copies (r n w v : Nat) : (s.bump r n w v).copies = s.copies := rfl
@[simp] theorem Dev.bump_conc (r n w v : Nat) : (s.bump r n w v).conc = s.conc := rfl
@[simp] theorem Dev.bump_pool (r n w v : Nat) : (s.bump r n w v).pool = s.pool := rfl
@[simp] theorem Dev.bump_elveel (r n w v : Nat) : (s.bump r n w v).elveel = s.elveel := rfl
@[simp] theorem Dev.bump_coll (r n w v : Nat) : (s.bump r n w v).coll = s.coll := rfl
@[simp] theorem Dev.bump_boot (r n w v : Nat) : (s.bump r n w v).boot = s.boot := rfl
@[simp] theorem Dev.bump_power (r n w v : Nat) : (s.bump r n w v).power = s.power := rfl
@[simp] theorem Dev.bump_warden (r n w v : Nat) : (s.bump r n w v).warden = s.warden := rfl
@[simp] theorem Dev.bump_ledger (r n w v : Nat) : (s.bump r n w v).ledger = s.ledger := rfl
@[simp] theorem Dev.bump_service (r n w v : Nat) : (s.bump r n w v).service = s.service := rfl
@[simp] theorem Dev.bump_trestles (r n w v : Nat) : (s.bump r n w v).trestles = s.trestles := rfl
@[simp] theorem Dev.bump_early (r n w v : Nat) : (s.bump r n w v).early = s.early := rfl
@[simp] theorem Dev.bump_out (r n w v : Nat) : (s.bump r n w v).out = s.out := rfl

@[simp] theorem Dev.setCtr_now (r n w v : Nat) : (s.setCtr r n w v).now = s.now := rfl
@[simp] theorem Dev.setCtr_freeCount (r n w v : Nat) : (s.setCtr r n w v).freeCount = s.freeCount := rfl
@[simp] theorem Dev.setCtr_mem (r n w v : Nat) : (s.setCtr r n w v).mem = s.mem := rfl
@[simp] theorem Dev.setCtr_tiles (r n w v : Nat) : (s.setCtr r n w v).tiles = s.tiles := rfl
@[simp] theorem Dev.setCtr_sidecars (r n w v : Nat) : (s.setCtr r n w v).sidecars = s.sidecars := rfl
@[simp] theorem Dev.setCtr_flash (r n w v : Nat) : (s.setCtr r n w v).flash = s.flash := rfl
@[simp] theorem Dev.setCtr_counters (r n w v : Nat) : (s.setCtr r n w v).counters = s.counters.set (ctrKey r n w) v := rfl
@[simp] theorem Dev.setCtr_bumped (r n w v : Nat) : (s.setCtr r n w v).bumped = s.bumped.set (ctrKey r n w) v := rfl
@[simp] theorem Dev.setCtr_flagged (r n w v : Nat) : (s.setCtr r n w v).flagged = s.flagged := rfl
@[simp] theorem Dev.setCtr_stalls (r n w v : Nat) : (s.setCtr r n w v).stalls = s.stalls := rfl
@[simp] theorem Dev.setCtr_chests (r n w v : Nat) : (s.setCtr r n w v).chests = s.chests := rfl
@[simp] theorem Dev.setCtr_blocks (r n w v : Nat) : (s.setCtr r n w v).blocks = s.blocks := rfl
@[simp] theorem Dev.setCtr_lots (r n w v : Nat) : (s.setCtr r n w v).lots = s.lots := rfl
@[simp] theorem Dev.setCtr_ctxs (r n w v : Nat) : (s.setCtr r n w v).ctxs = s.ctxs := rfl
@[simp] theorem Dev.setCtr_tasks (r n w v : Nat) : (s.setCtr r n w v).tasks = s.tasks := rfl
@[simp] theorem Dev.setCtr_grid (r n w v : Nat) : (s.setCtr r n w v).grid = s.grid := rfl
@[simp] theorem Dev.setCtr_flights (r n w v : Nat) : (s.setCtr r n w v).flights = s.flights := rfl
@[simp] theorem Dev.setCtr_credits (r n w v : Nat) : (s.setCtr r n w v).credits = s.credits := rfl
@[simp] theorem Dev.setCtr_bells (r n w v : Nat) : (s.setCtr r n w v).bells = s.bells := rfl
@[simp] theorem Dev.setCtr_rang (r n w v : Nat) : (s.setCtr r n w v).rang = s.rang := rfl
@[simp] theorem Dev.setCtr_nextId (r n w v : Nat) : (s.setCtr r n w v).nextId = s.nextId := rfl
@[simp] theorem Dev.setCtr_teardowns (r n w v : Nat) : (s.setCtr r n w v).teardowns = s.teardowns := rfl
@[simp] theorem Dev.setCtr_rings (r n w v : Nat) : (s.setCtr r n w v).rings = s.rings := rfl
@[simp] theorem Dev.setCtr_placed (r n w v : Nat) : (s.setCtr r n w v).placed = s.placed := rfl
@[simp] theorem Dev.setCtr_porterUp (r n w v : Nat) : (s.setCtr r n w v).porterUp = s.porterUp := rfl
@[simp] theorem Dev.setCtr_porterLossAt (r n w v : Nat) : (s.setCtr r n w v).porterLossAt = s.porterLossAt := rfl
@[simp] theorem Dev.setCtr_loadQ (r n w v : Nat) : (s.setCtr r n w v).loadQ = s.loadQ := rfl
@[simp] theorem Dev.setCtr_loading (r n w v : Nat) : (s.setCtr r n w v).loading = s.loading := rfl
@[simp] theorem Dev.setCtr_copies (r n w v : Nat) : (s.setCtr r n w v).copies = s.copies := rfl
@[simp] theorem Dev.setCtr_conc (r n w v : Nat) : (s.setCtr r n w v).conc = s.conc := rfl
@[simp] theorem Dev.setCtr_pool (r n w v : Nat) : (s.setCtr r n w v).pool = s.pool := rfl
@[simp] theorem Dev.setCtr_elveel (r n w v : Nat) : (s.setCtr r n w v).elveel = s.elveel := rfl
@[simp] theorem Dev.setCtr_coll (r n w v : Nat) : (s.setCtr r n w v).coll = s.coll := rfl
@[simp] theorem Dev.setCtr_boot (r n w v : Nat) : (s.setCtr r n w v).boot = s.boot := rfl
@[simp] theorem Dev.setCtr_power (r n w v : Nat) : (s.setCtr r n w v).power = s.power := rfl
@[simp] theorem Dev.setCtr_warden (r n w v : Nat) : (s.setCtr r n w v).warden = s.warden := rfl
@[simp] theorem Dev.setCtr_ledger (r n w v : Nat) : (s.setCtr r n w v).ledger = s.ledger := rfl
@[simp] theorem Dev.setCtr_service (r n w v : Nat) : (s.setCtr r n w v).service = s.service := rfl
@[simp] theorem Dev.setCtr_trestles (r n w v : Nat) : (s.setCtr r n w v).trestles = s.trestles := rfl
@[simp] theorem Dev.setCtr_early (r n w v : Nat) : (s.setCtr r n w v).early = s.early := rfl
@[simp] theorem Dev.setCtr_out (r n w v : Nat) : (s.setCtr r n w v).out = s.out := rfl

@[simp] theorem Dev.fresh_now : s.fresh.2.now = s.now := rfl
@[simp] theorem Dev.fresh_freeCount : s.fresh.2.freeCount = s.freeCount := rfl
@[simp] theorem Dev.fresh_mem : s.fresh.2.mem = s.mem := rfl
@[simp] theorem Dev.fresh_tiles : s.fresh.2.tiles = s.tiles := rfl
@[simp] theorem Dev.fresh_sidecars : s.fresh.2.sidecars = s.sidecars := rfl
@[simp] theorem Dev.fresh_flash : s.fresh.2.flash = s.flash := rfl
@[simp] theorem Dev.fresh_counters : s.fresh.2.counters = s.counters := rfl
@[simp] theorem Dev.fresh_bumped : s.fresh.2.bumped = s.bumped := rfl
@[simp] theorem Dev.fresh_flagged : s.fresh.2.flagged = s.flagged := rfl
@[simp] theorem Dev.fresh_stalls : s.fresh.2.stalls = s.stalls := rfl
@[simp] theorem Dev.fresh_chests : s.fresh.2.chests = s.chests := rfl
@[simp] theorem Dev.fresh_blocks : s.fresh.2.blocks = s.blocks := rfl
@[simp] theorem Dev.fresh_lots : s.fresh.2.lots = s.lots := rfl
@[simp] theorem Dev.fresh_ctxs : s.fresh.2.ctxs = s.ctxs := rfl
@[simp] theorem Dev.fresh_tasks : s.fresh.2.tasks = s.tasks := rfl
@[simp] theorem Dev.fresh_grid : s.fresh.2.grid = s.grid := rfl
@[simp] theorem Dev.fresh_flights : s.fresh.2.flights = s.flights := rfl
@[simp] theorem Dev.fresh_credits : s.fresh.2.credits = s.credits := rfl
@[simp] theorem Dev.fresh_bells : s.fresh.2.bells = s.bells := rfl
@[simp] theorem Dev.fresh_rang : s.fresh.2.rang = s.rang := rfl
@[simp] theorem Dev.fresh_nextId : s.fresh.2.nextId = s.nextId + 1 := rfl
@[simp] theorem Dev.fresh_teardowns : s.fresh.2.teardowns = s.teardowns := rfl
@[simp] theorem Dev.fresh_rings : s.fresh.2.rings = s.rings := rfl
@[simp] theorem Dev.fresh_placed : s.fresh.2.placed = s.placed := rfl
@[simp] theorem Dev.fresh_porterUp : s.fresh.2.porterUp = s.porterUp := rfl
@[simp] theorem Dev.fresh_porterLossAt : s.fresh.2.porterLossAt = s.porterLossAt := rfl
@[simp] theorem Dev.fresh_loadQ : s.fresh.2.loadQ = s.loadQ := rfl
@[simp] theorem Dev.fresh_loading : s.fresh.2.loading = s.loading := rfl
@[simp] theorem Dev.fresh_copies : s.fresh.2.copies = s.copies := rfl
@[simp] theorem Dev.fresh_conc : s.fresh.2.conc = s.conc := rfl
@[simp] theorem Dev.fresh_pool : s.fresh.2.pool = s.pool := rfl
@[simp] theorem Dev.fresh_elveel : s.fresh.2.elveel = s.elveel := rfl
@[simp] theorem Dev.fresh_coll : s.fresh.2.coll = s.coll := rfl
@[simp] theorem Dev.fresh_boot : s.fresh.2.boot = s.boot := rfl
@[simp] theorem Dev.fresh_power : s.fresh.2.power = s.power := rfl
@[simp] theorem Dev.fresh_warden : s.fresh.2.warden = s.warden := rfl
@[simp] theorem Dev.fresh_ledger : s.fresh.2.ledger = s.ledger := rfl
@[simp] theorem Dev.fresh_service : s.fresh.2.service = s.service := rfl
@[simp] theorem Dev.fresh_trestles : s.fresh.2.trestles = s.trestles := rfl
@[simp] theorem Dev.fresh_early : s.fresh.2.early = s.early := rfl
@[simp] theorem Dev.fresh_out : s.fresh.2.out = s.out := rfl

@[simp] theorem Dev.draw_now : s.draw.2.now = s.now := rfl
@[simp] theorem Dev.draw_freeCount : s.draw.2.freeCount = s.freeCount + 1 := rfl
@[simp] theorem Dev.draw_mem : s.draw.2.mem = s.mem := rfl
@[simp] theorem Dev.draw_tiles : s.draw.2.tiles = s.tiles := rfl
@[simp] theorem Dev.draw_sidecars : s.draw.2.sidecars = s.sidecars := rfl
@[simp] theorem Dev.draw_flash : s.draw.2.flash = s.flash := rfl
@[simp] theorem Dev.draw_counters : s.draw.2.counters = s.counters := rfl
@[simp] theorem Dev.draw_bumped : s.draw.2.bumped = s.bumped := rfl
@[simp] theorem Dev.draw_flagged : s.draw.2.flagged = s.flagged := rfl
@[simp] theorem Dev.draw_stalls : s.draw.2.stalls = s.stalls := rfl
@[simp] theorem Dev.draw_chests : s.draw.2.chests = s.chests := rfl
@[simp] theorem Dev.draw_blocks : s.draw.2.blocks = s.blocks := rfl
@[simp] theorem Dev.draw_lots : s.draw.2.lots = s.lots := rfl
@[simp] theorem Dev.draw_ctxs : s.draw.2.ctxs = s.ctxs := rfl
@[simp] theorem Dev.draw_tasks : s.draw.2.tasks = s.tasks := rfl
@[simp] theorem Dev.draw_grid : s.draw.2.grid = s.grid := rfl
@[simp] theorem Dev.draw_flights : s.draw.2.flights = s.flights := rfl
@[simp] theorem Dev.draw_credits : s.draw.2.credits = s.credits := rfl
@[simp] theorem Dev.draw_bells : s.draw.2.bells = s.bells := rfl
@[simp] theorem Dev.draw_rang : s.draw.2.rang = s.rang := rfl
@[simp] theorem Dev.draw_nextId : s.draw.2.nextId = s.nextId := rfl
@[simp] theorem Dev.draw_teardowns : s.draw.2.teardowns = s.teardowns := rfl
@[simp] theorem Dev.draw_rings : s.draw.2.rings = s.rings := rfl
@[simp] theorem Dev.draw_placed : s.draw.2.placed = s.placed := rfl
@[simp] theorem Dev.draw_porterUp : s.draw.2.porterUp = s.porterUp := rfl
@[simp] theorem Dev.draw_porterLossAt : s.draw.2.porterLossAt = s.porterLossAt := rfl
@[simp] theorem Dev.draw_loadQ : s.draw.2.loadQ = s.loadQ := rfl
@[simp] theorem Dev.draw_loading : s.draw.2.loading = s.loading := rfl
@[simp] theorem Dev.draw_copies : s.draw.2.copies = s.copies := rfl
@[simp] theorem Dev.draw_conc : s.draw.2.conc = s.conc := rfl
@[simp] theorem Dev.draw_pool : s.draw.2.pool = s.pool := rfl
@[simp] theorem Dev.draw_elveel : s.draw.2.elveel = s.elveel := rfl
@[simp] theorem Dev.draw_coll : s.draw.2.coll = s.coll := rfl
@[simp] theorem Dev.draw_boot : s.draw.2.boot = s.boot := rfl
@[simp] theorem Dev.draw_power : s.draw.2.power = s.power := rfl
@[simp] theorem Dev.draw_warden : s.draw.2.warden = s.warden := rfl
@[simp] theorem Dev.draw_ledger : s.draw.2.ledger = s.ledger := rfl
@[simp] theorem Dev.draw_service : s.draw.2.service = s.service := rfl
@[simp] theorem Dev.draw_trestles : s.draw.2.trestles = s.trestles := rfl
@[simp] theorem Dev.draw_early : s.draw.2.early = s.early := rfl
@[simp] theorem Dev.draw_out : s.draw.2.out = s.out := rfl

@[simp] theorem Dev.setCtx_now (c : Nat) (x : Ctx) : (s.setCtx c x).now = s.now := by simp [Dev.setCtx]
@[simp] theorem Dev.setCtx_freeCount (c : Nat) (x : Ctx) : (s.setCtx c x).freeCount = s.freeCount := by simp [Dev.setCtx]
@[simp] theorem Dev.setCtx_tiles (c : Nat) (x : Ctx) : (s.setCtx c x).tiles = s.tiles := by simp [Dev.setCtx]
@[simp] theorem Dev.setCtx_sidecars (c : Nat) (x : Ctx) : (s.setCtx c x).sidecars = s.sidecars := by simp [Dev.setCtx]
@[simp] theorem Dev.setCtx_flash (c : Nat) (x : Ctx) : (s.setCtx c x).flash = s.flash := by simp [Dev.setCtx]
@[simp] theorem Dev.setCtx_counters (c : Nat) (x : Ctx) : (s.setCtx c x).counters = s.counters := by simp [Dev.setCtx]
@[simp] theorem Dev.setCtx_bumped (c : Nat) (x : Ctx) : (s.setCtx c x).bumped = s.bumped := by simp [Dev.setCtx]
@[simp] theorem Dev.setCtx_flagged (c : Nat) (x : Ctx) : (s.setCtx c x).flagged = s.flagged := by simp [Dev.setCtx]
@[simp] theorem Dev.setCtx_stalls (c : Nat) (x : Ctx) : (s.setCtx c x).stalls = s.stalls := by simp [Dev.setCtx]
@[simp] theorem Dev.setCtx_chests (c : Nat) (x : Ctx) : (s.setCtx c x).chests = s.chests := by simp [Dev.setCtx]
@[simp] theorem Dev.setCtx_blocks (c : Nat) (x : Ctx) : (s.setCtx c x).blocks = s.blocks := by simp [Dev.setCtx]
@[simp] theorem Dev.setCtx_lots (c : Nat) (x : Ctx) : (s.setCtx c x).lots = s.lots := by simp [Dev.setCtx]
@[simp] theorem Dev.setCtx_ctxs (c : Nat) (x : Ctx) : (s.setCtx c x).ctxs = s.ctxs.set c x := by simp [Dev.setCtx]
@[simp] theorem Dev.setCtx_tasks (c : Nat) (x : Ctx) : (s.setCtx c x).tasks = s.tasks := by simp [Dev.setCtx]
@[simp] theorem Dev.setCtx_grid (c : Nat) (x : Ctx) : (s.setCtx c x).grid = s.grid := by simp [Dev.setCtx]
@[simp] theorem Dev.setCtx_flights (c : Nat) (x : Ctx) : (s.setCtx c x).flights = s.flights := by simp [Dev.setCtx]
@[simp] theorem Dev.setCtx_credits (c : Nat) (x : Ctx) : (s.setCtx c x).credits = s.credits := by simp [Dev.setCtx]
@[simp] theorem Dev.setCtx_bells (c : Nat) (x : Ctx) : (s.setCtx c x).bells = s.bells := by simp [Dev.setCtx]
@[simp] theorem Dev.setCtx_rang (c : Nat) (x : Ctx) : (s.setCtx c x).rang = s.rang := by simp [Dev.setCtx]
@[simp] theorem Dev.setCtx_nextId (c : Nat) (x : Ctx) : (s.setCtx c x).nextId = s.nextId := by simp [Dev.setCtx]
@[simp] theorem Dev.setCtx_teardowns (c : Nat) (x : Ctx) : (s.setCtx c x).teardowns = s.teardowns := by simp [Dev.setCtx]
@[simp] theorem Dev.setCtx_rings (c : Nat) (x : Ctx) : (s.setCtx c x).rings = s.rings := by simp [Dev.setCtx]
@[simp] theorem Dev.setCtx_placed (c : Nat) (x : Ctx) : (s.setCtx c x).placed = s.placed := by simp [Dev.setCtx]
@[simp] theorem Dev.setCtx_porterUp (c : Nat) (x : Ctx) : (s.setCtx c x).porterUp = s.porterUp := by simp [Dev.setCtx]
@[simp] theorem Dev.setCtx_porterLossAt (c : Nat) (x : Ctx) : (s.setCtx c x).porterLossAt = s.porterLossAt := by simp [Dev.setCtx]
@[simp] theorem Dev.setCtx_loadQ (c : Nat) (x : Ctx) : (s.setCtx c x).loadQ = s.loadQ := by simp [Dev.setCtx]
@[simp] theorem Dev.setCtx_loading (c : Nat) (x : Ctx) : (s.setCtx c x).loading = s.loading := by simp [Dev.setCtx]
@[simp] theorem Dev.setCtx_copies (c : Nat) (x : Ctx) : (s.setCtx c x).copies = s.copies := by simp [Dev.setCtx]
@[simp] theorem Dev.setCtx_conc (c : Nat) (x : Ctx) : (s.setCtx c x).conc = s.conc := by simp [Dev.setCtx]
@[simp] theorem Dev.setCtx_pool (c : Nat) (x : Ctx) : (s.setCtx c x).pool = s.pool := by simp [Dev.setCtx]
@[simp] theorem Dev.setCtx_elveel (c : Nat) (x : Ctx) : (s.setCtx c x).elveel = s.elveel := by simp [Dev.setCtx]
@[simp] theorem Dev.setCtx_coll (c : Nat) (x : Ctx) : (s.setCtx c x).coll = s.coll := by simp [Dev.setCtx]
@[simp] theorem Dev.setCtx_boot (c : Nat) (x : Ctx) : (s.setCtx c x).boot = s.boot := by simp [Dev.setCtx]
@[simp] theorem Dev.setCtx_power (c : Nat) (x : Ctx) : (s.setCtx c x).power = s.power := by simp [Dev.setCtx]
@[simp] theorem Dev.setCtx_warden (c : Nat) (x : Ctx) : (s.setCtx c x).warden = s.warden := by simp [Dev.setCtx]
@[simp] theorem Dev.setCtx_ledger (c : Nat) (x : Ctx) : (s.setCtx c x).ledger = s.ledger := by simp [Dev.setCtx]
@[simp] theorem Dev.setCtx_service (c : Nat) (x : Ctx) : (s.setCtx c x).service = s.service := by simp [Dev.setCtx]
@[simp] theorem Dev.setCtx_trestles (c : Nat) (x : Ctx) : (s.setCtx c x).trestles = s.trestles := by simp [Dev.setCtx]
@[simp] theorem Dev.setCtx_early (c : Nat) (x : Ctx) : (s.setCtx c x).early = s.early := by simp [Dev.setCtx]
@[simp] theorem Dev.setCtx_out (c : Nat) (x : Ctx) : (s.setCtx c x).out = s.out := by simp [Dev.setCtx]

end Sys2Proof.Machine
end

