-- ==== Sys2Proof/Laws/Arrays.lean ====
section
/-! SUPPORT. The laws of sparse arrays and byte memories: a read after a write gives the value written, a write leaves every other
index alone, and every write keeps the canonical form. -/
namespace Sys2Proof.Machine
variable {α : Type}

/-! ## Read after write -/

theorem look_past_same (d : α) (t : List (Nat × α)) (i : Nat) : look d (past t i) i = d := by
  induction t with
  | nil => rfl
  | cons h r ih =>
    obtain ⟨k, w⟩ := h
    by_cases hk : k ≤ i
    · simpa [past, hk] using ih
    · have h1 : i ≠ k := by omega
      have h2 : i < k := by omega
      simp [past, hk, look, h1, h2]

theorem look_past_other (d : α) (t : List (Nat × α)) (i j : Nat) (h : i < j) : look d (past t i) j = look d t j := by
  induction t with
  | nil => rfl
  | cons x r ih =>
    obtain ⟨k, w⟩ := x
    by_cases hk : k ≤ i
    · have h1 : j ≠ k := by omega
      have h2 : ¬ j < k := by omega
      simpa [past, hk, look, h1, h2] using ih
    · simp [past, hk]

theorem look_past_low (d : α) (t : List (Nat × α)) (i j : Nat) (h : j < i) : look d (past t i) j = d := by
  induction t with
  | nil => rfl
  | cons x r ih =>
    obtain ⟨k, w⟩ := x
    by_cases hk : k ≤ i
    · simpa [past, hk] using ih
    · have h1 : j ≠ k := by omega
      have h2 : j < k := by omega
      simp [past, hk, look, h1, h2]

/-- A read after a write to the same index gives the value written. -/
@[simp] theorem look_put_same [DecidableEq α] (d : α) (t : List (Nat × α)) (i : Nat) (v : α) : look d (put d t i v) i = v := by
  induction t with
  | nil => by_cases hv : v = d <;> simp [put, look, hv]
  | cons h r ih =>
    obtain ⟨k, w⟩ := h
    by_cases h1 : i < k
    · have h2 : i ≠ k := by omega
      by_cases hv : v = d <;> simp [put, look, h1, h2, hv]
    · by_cases h2 : i = k
      · by_cases hv : v = d
        · subst hv; simp [put, h2, look_past_same]
        · simp [put, h2, hv, look]
      · simpa [put, look, h1, h2] using ih

/-- A write leaves every other index alone. -/
theorem look_put_other [DecidableEq α] (d : α) (t : List (Nat × α)) (i j : Nat) (v : α) (h : j ≠ i) :
    look d (put d t i v) j = look d t j := by
  induction t with
  | nil => by_cases hv : v = d <;> simp [put, look, hv, h]
  | cons x r ih =>
    obtain ⟨k, w⟩ := x
    by_cases h1 : i < k
    · by_cases hv : v = d
      · simp [put, h1, hv]
      · by_cases h3 : j < i
        · have h4 : j ≠ k := by omega
          have h5 : j < k := by omega
          simp [put, look, h1, hv, h, h3, h4, h5]
        · simp [put, look, h1, hv, h, h3]
    · by_cases h2 : i = k
      · subst h2
        by_cases hv : v = d
        · by_cases h3 : j < i
          · simp [put, hv, look, h, h3, look_past_low]
          · simp [put, hv, look, h, h3, look_past_other d r i j (by omega)]
        · simp [put, hv, look, h]
      · simp [put, h1, h2, look, ih]

@[simp] theorem Tab.get_set_same [Inhabited α] [DecidableEq α] (t : Tab α) (i : Nat) (v : α) : (t.set i v).get i = v :=
  look_put_same default t i v
theorem Tab.get_set_other [Inhabited α] [DecidableEq α] (t : Tab α) (i j : Nat) (v : α) (h : j ≠ i) :
    (t.set i v).get j = t.get j := look_put_other default t i j v h
@[simp] theorem Tab.get_mod_same [Inhabited α] [DecidableEq α] (t : Tab α) (i : Nat) (f : α → α) : (t.mod i f).get i = f (t.get i) :=
  Tab.get_set_same t i _
theorem Tab.get_mod_other [Inhabited α] [DecidableEq α] (t : Tab α) (i j : Nat) (f : α → α) (h : j ≠ i) :
    (t.mod i f).get j = t.get j := Tab.get_set_other t i j _ h

/-! ## Bytes of a memory -/

theorem look_memWrite_other (d : Byte) (m : Memory) (a : Nat) (bs : Bytes) (j : Nat) (h : j < a ∨ a + bs.length ≤ j) :
    look d (memWrite d m a bs) j = look d m j := by
  induction bs generalizing m a with
  | nil => rfl
  | cons b r ih =>
    simp only [List.length_cons] at h
    rw [memWrite, ih _ _ (by omega), look_put_other _ _ _ _ _ (by omega)]

theorem look_memWrite_in (d : Byte) (m : Memory) (a : Nat) (bs : Bytes) (i : Nat) (h : i < bs.length) :
    look d (memWrite d m a bs) (a + i) = bs[i] := by
  induction bs generalizing m a i with
  | nil => simp at h
  | cons b r ih =>
    cases i with
    | zero => rw [memWrite, look_memWrite_other _ _ _ _ _ (by omega)]; simp
    | succ i =>
      have := ih (put d m a b) (a + 1) i (by simpa using h)
      rw [memWrite, show a + (i + 1) = a + 1 + i by omega, this]; simp

@[simp] theorem memRead_length (d : Byte) (m : Memory) (a n : Nat) : (memRead d m a n).length = n := by
  induction n generalizing a with
  | zero => rfl
  | succ n ih => simp [memRead, ih]

theorem memRead_getElem (d : Byte) (m : Memory) (a n i : Nat) (h : i < (memRead d m a n).length) :
    (memRead d m a n)[i] = look d m (a + i) := by
  induction n generalizing a i with
  | zero => simp at h
  | succ n ih =>
    cases i with
    | zero => simp [memRead]
    | succ i =>
      have h' : i < (memRead d m (a + 1) n).length := by simpa [memRead] using h
      simp only [memRead, List.getElem_cons_succ]
      rw [ih (a + 1) i h', show a + 1 + i = a + (i + 1) by omega]

/-- Bytes read back where they were written are the bytes written. -/
theorem memRead_memWrite (d : Byte) (m : Memory) (a : Nat) (bs : Bytes) : memRead d (memWrite d m a bs) a bs.length = bs := by
  apply List.ext_getElem (by simp)
  intro i h1 h2
  rw [memRead_getElem, look_memWrite_in d m a bs i h2]

/-- Bytes outside the written range read as before. -/
theorem memRead_memWrite_other (d : Byte) (m : Memory) (a : Nat) (bs : Bytes) (b n : Nat) (h : b + n ≤ a ∨ a + bs.length ≤ b) :
    memRead d (memWrite d m a bs) b n = memRead d m b n := by
  apply List.ext_getElem (by simp)
  intro i h1 h2
  rw [memRead_getElem, memRead_getElem, look_memWrite_other]
  simp at h1; omega

/-! ## The canonical form is kept -/

theorem canonFrom_mono [DecidableEq α] (d : α) (t : List (Nat × α)) (a b : Nat) (h : b ≤ a) (ht : canonFrom d a t = true) :
    canonFrom d b t = true := by
  cases t with
  | nil => rfl
  | cons x r =>
    obtain ⟨k, v⟩ := x
    simp only [canonFrom, Bool.and_eq_true, decide_eq_true_eq] at ht ⊢
    exact ⟨⟨by omega, ht.1.2⟩, ht.2⟩

theorem past_of_canon [DecidableEq α] (d : α) (t : List (Nat × α)) (i : Nat) (h : canonFrom d (i + 1) t = true) : past t i = t := by
  cases t with
  | nil => rfl
  | cons x r =>
    obtain ⟨k, v⟩ := x
    simp only [canonFrom, Bool.and_eq_true, decide_eq_true_eq] at h
    have : ¬ k ≤ i := by omega
    simp [past, this]

theorem canonFrom_put [DecidableEq α] (d : α) (t : List (Nat × α)) (lo i : Nat) (v : α) (hi : lo ≤ i)
    (h : canonFrom d lo t = true) : canonFrom d lo (put d t i v) = true := by
  induction t generalizing lo with
  | nil => by_cases hv : v = d <;> simp [put, canonFrom, hv, hi]
  | cons x r ih =>
    obtain ⟨k, w⟩ := x
    simp only [canonFrom, Bool.and_eq_true, decide_eq_true_eq, Bool.not_eq_true', decide_eq_false_iff_not] at h
    by_cases h1 : i < k
    · by_cases hv : v = d
      · simp [put, h1, hv, canonFrom, h.1.1, h.1.2, h.2]
      · simp only [put, h1, hv, if_true, if_false, canonFrom, Bool.and_eq_true, decide_eq_true_eq, Bool.not_eq_true',
          decide_eq_false_iff_not]
        exact ⟨⟨hi, by simp [hv]⟩, ⟨by omega, h.1.2⟩, h.2⟩
    · by_cases h2 : i = k
      · subst h2
        by_cases hv : v = d
        · simp only [put, lt_irrefl, if_false, if_true, hv]
          rw [past_of_canon d r i h.2]
          exact canonFrom_mono d r (i + 1) lo (by omega) h.2
        · simp [put, hv, canonFrom, h.1.1, h.2]
      · simp only [put, h1, h2, if_false, canonFrom, Bool.and_eq_true, decide_eq_true_eq, Bool.not_eq_true', decide_eq_false_iff_not]
        exact ⟨h.1, ih (k + 1) (by omega) h.2⟩

/-- A write keeps the canonical form. -/
theorem canon_put [DecidableEq α] (d : α) (t : List (Nat × α)) (i : Nat) (v : α) (h : canon d t = true) : canon d (put d t i v) = true :=
  canonFrom_put d t 0 i v (by omega) h

theorem canonFrom_filter [DecidableEq α] (d : α) (p : Nat × α → Bool) (t : List (Nat × α)) (lo : Nat) (h : canonFrom d lo t = true) :
    canonFrom d lo (t.filter p) = true := by
  induction t generalizing lo with
  | nil => rfl
  | cons x r ih =>
    obtain ⟨k, w⟩ := x
    simp only [canonFrom, Bool.and_eq_true, decide_eq_true_eq] at h
    by_cases hp : p (k, w) = true
    · rw [List.filter_cons_of_pos hp]
      simp only [canonFrom, Bool.and_eq_true, decide_eq_true_eq]
      exact ⟨h.1, ih (k + 1) h.2⟩
    · rw [List.filter_cons_of_neg hp]
      exact ih lo (canonFrom_mono d r (k + 1) lo (by omega) h.2)

/-- Writing bytes keeps a memory in canonical form. -/
theorem Memory.wf_memWrite (d : Byte) (m : Memory) (a : Nat) (bs : Bytes) (h : m.wf d = true) : (memWrite d m a bs).wf d = true := by
  induction bs generalizing m a with
  | nil => exact h
  | cons b r ih => exact ih _ _ (canon_put d m a b h)

/-- Writing listed bytes keeps a memory in canonical form. -/
theorem Memory.wf_memPuts (d : Byte) (m : Memory) (l : List (Nat × Byte)) (h : m.wf d = true) : (memPuts d m l).wf d = true := by
  induction l generalizing m with
  | nil => exact h
  | cons b r ih => obtain ⟨a, v⟩ := b; exact ih _ (canon_put d m a v h)

/-- Clearing a range keeps a memory in canonical form. -/
theorem Memory.wf_memDrop (d : Byte) (m : Memory) (a n : Nat) (h : m.wf d = true) : (memDrop m a n).wf d = true :=
  canonFrom_filter d _ m 0 h

/-! ## The units -/

@[simp] theorem Dev.stall_setStall (s : Dev) (n : Nat) (x : Stall) : (s.setStall n x).stall n = x := by simp [Dev.stall]
@[simp] theorem Dev.stall_modStall (s : Dev) (n : Nat) (f : Stall → Stall) : (s.modStall n f).stall n = f (s.stall n) := by
  simp [Dev.modStall]
theorem Dev.stall_modStall_other (s : Dev) (n m : Nat) (f : Stall → Stall) (h : m ≠ n) : (s.modStall n f).stall m = s.stall m := by
  simp [Dev.stall, Tab.get_set_other _ _ _ _ h]
@[simp] theorem Dev.chest_modChest (s : Dev) (n : Nat) (f : Chest → Chest) : (s.modChest n f).chest n = f (s.chest n) := by
  simp [Dev.chest]
theorem Dev.chest_modChest_other (s : Dev) (n m : Nat) (f : Chest → Chest) (h : m ≠ n) : (s.modChest n f).chest m = s.chest m := by
  simp [Dev.chest, Tab.get_mod_other _ _ _ _ h]
@[simp] theorem Dev.block_modBlock (s : Dev) (n : Nat) (f : Block → Block) : (s.modBlock n f).block n = f (s.block n) := by
  simp [Dev.block]
theorem Dev.block_modBlock_other (s : Dev) (n m : Nat) (f : Block → Block) (h : m ≠ n) : (s.modBlock n f).block m = s.block m := by
  simp [Dev.block, Tab.get_mod_other _ _ _ _ h]
@[simp] theorem Dev.lot_modLot (s : Dev) (n : Nat) (f : Lot → Lot) : (s.modLot n f).lot n = f (s.lot n) := by
  simp [Dev.lot]
theorem Dev.lot_modLot_other (s : Dev) (n m : Nat) (f : Lot → Lot) (h : m ≠ n) : (s.modLot n f).lot m = s.lot m := by
  simp [Dev.lot, Tab.get_mod_other _ _ _ _ h]
@[simp] theorem Dev.ring_modRing (s : Dev) (n : Nat) (f : PRing → PRing) : (s.modRing n f).ring n = f (s.ring n) := by
  simp [Dev.ring]
theorem Dev.ring_modRing_other (s : Dev) (n m : Nat) (f : PRing → PRing) (h : m ≠ n) : (s.modRing n f).ring m = s.ring m := by
  simp [Dev.ring, Tab.get_mod_other _ _ _ _ h]
@[simp] theorem Dev.task_modTask (s : Dev) (n : Nat) (f : TaskSlot → TaskSlot) : (s.modTask n f).task n = f (s.task n) := by
  simp [Dev.task]
theorem Dev.task_modTask_other (s : Dev) (n m : Nat) (f : TaskSlot → TaskSlot) (h : m ≠ n) : (s.modTask n f).task m = s.task m := by
  simp [Dev.task, Tab.get_mod_other _ _ _ _ h]
@[simp] theorem Dev.port_modPort (s : Dev) (n : Nat) (f : EPort → EPort) : (s.modPort n f).port n = f (s.port n) := by
  simp [Dev.port]
theorem Dev.port_modPort_other (s : Dev) (n m : Nat) (f : EPort → EPort) (h : m ≠ n) : (s.modPort n f).port m = s.port m := by
  simp [Dev.port, Tab.get_mod_other _ _ _ _ h]
@[simp] theorem Dev.ctx_setCtx (s : Dev) (c : Nat) (x : Ctx) : (s.setCtx c x).ctx c = x := by simp [Dev.ctx]
theorem Dev.ctx_setCtx_other (s : Dev) (c e : Nat) (x : Ctx) (h : e ≠ c) : (s.setCtx c x).ctx e = s.ctx e := by
  simp [Dev.ctx, Tab.get_set_other _ _ _ _ h]
@[simp] theorem Dev.ctr_bump (s : Dev) (r n w v : Nat) : (s.bump r n w v).ctr r n w = min (s.ctr r n w + v) (2 ^ 48 - 1) := by
  simp [Dev.ctr]
/-- A counter never leaves its 48 bits (R451). -/
theorem Dev.ctr_bump_lt (s : Dev) (r n w v : Nat) : (s.bump r n w v).ctr r n w < 2 ^ 48 := by
  rw [Dev.ctr_bump]; omega

/-! ## The memories of the device -/

theorem Dev.memAt_memPut (s : Dev) (a : Nat) (bs : Bytes) : (s.memPut a bs).memAt a bs.length = bs := by
  simp [Dev.memAt, memRead_memWrite]
theorem Dev.memAt_memPut_other (s : Dev) (a : Nat) (bs : Bytes) (b n : Nat) (h : b + n ≤ a ∨ a + bs.length ≤ b) :
    (s.memPut a bs).memAt b n = s.memAt b n := by
  simp [Dev.memAt, memRead_memWrite_other _ _ _ _ _ _ h]
theorem Dev.tileAt_tilePut (s : Dev) (n t o : Nat) (bs : Bytes) : (s.tilePut n t o bs).tileAt n t o bs.length = bs := by
  simp [Dev.tileAt, memRead_memWrite]

end Sys2Proof.Machine
end

