-- ==== Sys2Proof/Laws/Exec.lean ====
section
/-! SUPPORT. What a command can do, said once: every command but the five of the boundary-scan port and the loss of standby power changes
the device alone, through one function of the device, and keeps the cycle. -/
namespace Sys2Proof.Machine
open Sys2Proof

/-- The commands that touch the boundary-scan port. -/
def Instr.scans : Instr → Bool
  | .extest _ | .sample _ | .preload _ | .bypass _ | .trstLAssert | .aonPwrokFall => true
  | _ => false

/-- Every other command acts on the device alone: it runs one function of the device when it is well formed. -/
theorem exec_actOn (c : Instr) (h : Instr.scans c = false) : ∃ f : Dev → Dev, ∀ s, exec c s = s.actOn c.wf f := by
  cases c <;> first
    | (simp [Instr.scans] at h; done)
    | exact ⟨_, fun s => rfl⟩

/-- What an answer of such a command is. -/
theorem exec_next (c : Instr) (h : Instr.scans c = false) (s t : State) (he : exec c s = .next t) :
    c.wf = true ∧ ∃ f : Dev → Dev, (∀ u : State, exec c u = .next { u with dev := { f u.dev with now := u.dev.now } })
      ∧ t = { s with dev := { f s.dev with now := s.dev.now } } := by
  obtain ⟨f, hf⟩ := exec_actOn c h
  cases hw : c.wf with
  | false => rw [hf, hw] at he; simp [State.actOn] at he
  | true =>
    refine ⟨rfl, f, fun u => by rw [hf, hw]; rfl, ?_⟩
    rw [hf, hw] at he
    simpa [State.actOn, State.act, eq_comm] using he

/-- A flash operation cut short keeps the cycle. -/
@[simp] theorem Dev.flashCut_now (s : Dev) : s.flashCut.now = s.now := by
  unfold Dev.flashCut
  split <;> simp [Dev.tornOp, Dev.flashNow]

end Sys2Proof.Machine
end

