-- ==== Sys2Proof/Tests/Slice0.lean ====
section
/-! SUPPORT. The model's own tests: the checks of WellFormed, worked examples of the manual, and for each statement of
Certificates/Slice0/Obligations a state and operands that meet its hypotheses. Expected values come from the manual's rules, by hand. -/
namespace Sys2Proof.Tests
open Sys2Proof Sys2Proof.Machine
set_option Elab.async false

/-! ## States -/

/-- A state of the device. -/
def st (d : Dev) : State := { State.reset with dev := d }
/-- Ten seconds of the main clock. -/
abbrev ten : Nat := 28000000000
/-- A device in D-RUN, ten seconds after its main clock started. -/
def litD : Dev := { (default : Dev) with
  now := ten
  power := { (default : Power) with dstate := .run, aonPwrok := true, bring := .done, mainStart := some 0, stage := 10
                                    pwrEn := List.replicate 12 true, pwrPg := List.replicate 12 true }
  boot := { (default : Boot) with fwRun := true, flashUsable := true } }
/-- The first block's Lot, with a front shelf of a kind whose first Stall has some orders, of context 0 on ring 0. -/
def lotD (kind : Nat) (orders : List W64) : Dev := { litD with
  lots := [(0, { (default : Lot) with x0 := 0, y0 := 0, width := 1, height := 1, state := 2, seat0 := some 0, pbase := 0x900, pcount := 1
                                      front := { (default : LotShelf) with
                                        kind := kind, ctx := 0, blocks := [(0, { (default : Shelf) with orders := Tab.ofList 0 orders })] } })]
  ctxs := [(0, { (default : Ctx) with state := .bound })]
  rings := [(0, { (default : PRing) with live := true, ctx := some 0 }), (64, { (default : PRing) with live := true })]
  blocks := [(0, { (default : Block) with island := .run })] }
/-- The same with the first Stall running its orders. -/
def runD (kind : Nat) (orders : List W64) : Dev := { lotD kind orders with
  stalls := [(0, { (default : Stall) with seq := .running, len := 100 })] }
/-- An order with an opcode. -/
def order (op rest : Nat) : W64 := BitVec.ofNat 64 (2 ^ 56 * op + rest)
/-- A ring with one entry of an opcode and operands fetched. -/
def withEntry (r op : Nat) (fs : List (Nat × Nat × Nat)) (d : Dev) : Dev :=
  d.modRing r fun x => { x with fetched := [{ entry := layout 64 ([(0, 1, op), (2, 1, 1)] ++ fs) }] }
/-- Its entry. -/
def entryOf (op : Nat) (fs : List (Nat × Nat × Nat)) : Cmd := { entry := layout 64 ([(0, 1, op), (2, 1, 1)] ++ fs) }

/-- A configuration shelf with one object of a kind at line 0: the lines of some bytes. -/
def shelfOf (kind : Nat) (b : Bytes) : Shelf := { (default : Shelf) with
  kinds := [(0, kind)]
  lines := Tab.ofList 0 ((List.range (b.length / 32)).map fun i => BitVec.ofNat 256 (leVal (sub b (32 * i) 32))) }
/-- The first block's front shelf replaced. -/
def withShelf (x : Shelf) (d : Dev) : Dev := { d with
  lots := d.lots.map fun p => (p.1, { p.2 with front := { p.2.front with blocks := [(0, x)] } }) }

/-- A data flit. -/
def okFlit : WireFlit := { payload := zeros 256, header := 1, fec := .clean, symbols := 0 }

/-! ## WellFormed -/

/-- Commands that name a unit that is not there. -/
def illFormed0 : List Instr := [
  .pwrPgRise 12, .pwrPgFall 12, .powerGoodTimeout 12, .thermalTrip .block 624 0, .thermalTrip .hotspot 20 0, .thermalTrip .hbm 8 0,
  .thermalTrip .optical 4 0, .blockReachesRun 576, .blockIdleEntry 576, .memberClockStart 64, .blockRetentionEntry 576,
  .sensorSample .optical [0, 0, 0], .avsPoll 6 0 0 default, .voltageTrim 4 true default, .laserSample [0, 0, 0],
  .lotReleaseDone 64, .loadShelf 64, .preloadComplete 64, .swapShelf 64, .swapShelfPitchScope 64, .shelfSwap 64, .demandSwap 64,
  .launchLaidRun 64, .launchTileTask 64]
/-- Commands that name a unit that is not there. -/
def illFormed1 : List Instr := [
  .taskPlace 1024, .taskStart 4096, .beatStart 64, .laidRunComplete 64, .beatTimeout 64, .stepCommit ⟨64, false⟩, .fence 65, .copy ⟨65, false⟩,
  .memAtomic 65, .collStart 64, .cycleLoad 64, .cycleStart 64, .queueReset 64, .ledgerRead 65, .ledgerWrite 65, .eventMask 65,
  .nopCommand 65, .frameStart 64, .windowWakeLead 64, .windowStart 64, .windowEnd 64, .teardownDone 1024,
  .violationRead ⟨.mgmt, .firmware, 0⟩ 2304, .peerinv ⟨.mgmt, .firmware, 0⟩ 65536]
/-- Commands that name a unit that is not there. -/
def illFormed2 : List Instr := [
  .retrain ⟨.mgmt, .firmware, 0⟩ 18, .qreset ⟨.mgmt, .firmware, 0⟩ 65536, .mma 2304, .mmaDrainComplete 2304 true,
  .epilogueComplete 2304 true, .epiLate 2304, .epiSendTimeout 2304, .vec 2304, .vecProg 2304, .vectorLaunchComplete 2304 true,
  .epi 2304, .epiProg 2304, .movLd 2304, .movSt 2304, .moveComplete 2304, .movZero 2304, .movTt 2304, .send 2304, .sendAccept 2304,
  .sendTimeout 2304, .recv 2304, .recvTimeout 2304, .waitBeat 2304, .waitIdle 2304]
/-- Commands that name a unit that is not there. -/
def illFormed3 : List Instr := [
  .loop 2304, .endOrder 2304, .endComplete 2304, .nop 2304, .bellRing 2304, .bellWait 2304, .bellTimeout 2304, .bellRemote 2304,
  .chestGrant 2304 default, .heldWaitTimeout 2304, .slotStarved 2304 0, .slotStarved 0 16, .streamFlitSend 576 0,
  .streamFlitSend 0 32, .steeringFire 576 0, .steeringFire 0 8, .runnerHop 576 0 0 .clean, .runnerHop 0 9 0 .clean,
  .runnerHop 0 0 2 .clean, .runnerEjection 2304, .transferTrigger 576 0, .transferTrigger 0 32, .transferLineIssue ⟨576, false⟩ true,
  .transferInstanceComplete 576 0]
/-- Commands that name a unit that is not there. -/
def illFormed4 : List Instr := [
  .hbmPatrolScrub 128 0 .clean, .portLightDetect 18, .portTrainingPhase 18 0, .portTrainingTimeout 18, .portRetry 18,
  .linkUpRecord 18 [], .wireFlitReceive 18 okFlit, .wireFlitReceive 17 { okFlit with payload := zeros 255 },
  .wireFlitReceive 17 { okFlit with payload := zeros 257 }, .wireFlitReceive 17 { okFlit with header := 2 ^ 72 }, .portLossOfLock 18, .routerForward 18, .peerCacheFill 16384, .drainNotice 18,
  .routeClear 18, .linkDown 18, .collectiveTrigger 1024 0, .collectiveTrigger 0 4096, .collRowAccept 1024 0, .collRowAccept 0 4096,
  .collPieceSend ⟨64, false⟩, .collSignalSend 64, .collPieceArrival 64 0 true]
/-- Commands that name a unit that is not there. -/
def illFormed5 : List Instr := [
  .collComplete 64, .collAbort 64, .collTimeout 64, .rowRepairComplete 128 true, .scrubWordRead (.frontShelf 576 0) .clean,
  .scrubWordRead (.backShelf 576 0) .clean, .scrubWordRead (.switchMap 576) .clean, .scrubWordRead (.gridMap 48) .clean,
  .scrubWordRead (.route 16384) .clean, .scrubWordRead (.board 64) .clean, .scrubberCheck (2 ^ 32), .clerkWdt 36,
  .clerkPeriodicTest 36 true, .halt 0x900, .halt 0x1900, .halt 0xFFF, .add 0x900, .sub 0x900, .andT 0x900, .orT 0x900, .xorT 0x900,
  .shl 0x900, .shr 0x900, .sra 0x900]
/-- Commands that name a unit that is not there. -/
def illFormed6 : List Instr := [
  .mul 0x900, .sltu 0x900, .addi 0x900, .li 0x900, .lih 0x900, .ld 0x900, .st 0x900, .beq 0x900, .bne 0x900, .bltu 0x900,
  .jmp 0x900, .sendt 0x900, .recvt 0x900, .test 0x900 none, .csr 0x900, .waitc 0x900, .crc 0x900, .trestleWaitTimeout 0x900,
  .bypass 2, .bypass 256, .clerkUe 36]
/-- Commands that name the last unit of their kind. -/
def boundary0 : List Instr := [
  .pwrPgRise 11, .pwrPgFall 11, .powerGoodTimeout 11, .thermalTrip .block 623 0, .thermalTrip .hotspot 19 0, .thermalTrip .hbm 7 0,
  .thermalTrip .optical 3 0, .blockReachesRun 575, .blockIdleEntry 575, .memberClockStart 63, .blockRetentionEntry 575,
  .sensorSample .optical [0, 0, 0, 0], .avsPoll 5 0 0 default, .voltageTrim 3 true default, .laserSample [0, 0, 0, 0],
  .lotReleaseDone 63, .loadShelf 63, .preloadComplete 63, .swapShelf 63, .swapShelfPitchScope 63, .shelfSwap 63, .demandSwap 63,
  .launchLaidRun 63, .launchTileTask 63]
/-- Commands that name the last unit of their kind. -/
def boundary1 : List Instr := [
  .taskPlace 1023, .taskStart 4095, .beatStart 63, .laidRunComplete 63, .beatTimeout 63, .stepCommit ⟨63, false⟩, .fence 64, .copy ⟨64, false⟩,
  .memAtomic 64, .collStart 63, .cycleLoad 63, .cycleStart 63, .queueReset 63, .ledgerRead 64, .ledgerWrite 64, .eventMask 64,
  .nopCommand 64, .frameStart 63, .windowWakeLead 63, .windowStart 63, .windowEnd 63, .teardownDone 1023,
  .violationRead ⟨.mgmt, .firmware, 0⟩ 2303, .peerinv ⟨.mgmt, .firmware, 0⟩ 65535]
/-- Commands that name the last unit of their kind. -/
def boundary2 : List Instr := [
  .retrain ⟨.mgmt, .firmware, 0⟩ 17, .qreset ⟨.mgmt, .firmware, 0⟩ 65535, .mma 2303, .mmaDrainComplete 2303 true,
  .epilogueComplete 2303 true, .epiLate 2303, .epiSendTimeout 2303, .vec 2303, .vecProg 2303, .vectorLaunchComplete 2303 true,
  .epi 2303, .epiProg 2303, .movLd 2303, .movSt 2303, .moveComplete 2303, .movZero 2303, .movTt 2303, .send 2303, .sendAccept 2303,
  .sendTimeout 2303, .recv 2303, .recvTimeout 2303, .waitBeat 2303, .waitIdle 2303]
/-- Commands that name the last unit of their kind. -/
def boundary3 : List Instr := [
  .loop 2303, .endOrder 2303, .endComplete 2303, .nop 2303, .bellRing 2303, .bellWait 2303, .bellTimeout 2303, .bellRemote 2303,
  .chestGrant 2303 default, .heldWaitTimeout 2303, .slotStarved 2303 15, .streamFlitSend 575 31, .steeringFire 575 7,
  .runnerHop 575 8 1 .clean, .runnerEjection 2303, .transferTrigger 575 31, .transferLineIssue ⟨575, false⟩ true,
  .transferInstanceComplete 575 0, .hbmPatrolScrub 127 0 .clean, .portLightDetect 17, .portTrainingPhase 17 0,
  .portTrainingTimeout 17, .portRetry 17, .linkUpRecord 17 []]
/-- Commands that name the last unit of their kind. -/
def boundary4 : List Instr := [
  .wireFlitReceive 17 okFlit, .wireFlitReceive 17 { okFlit with header := 2 ^ 72 - 1 }, .portLossOfLock 17, .routerForward 17, .peerCacheFill 16383, .drainNotice 17, .routeClear 17,
  .linkDown 17, .collectiveTrigger 1023 4095, .collRowAccept 1023 4095, .collPieceSend ⟨63, false⟩, .collSignalSend 63,
  .collPieceArrival 63 0 true, .collComplete 63, .collAbort 63, .collTimeout 63, .rowRepairComplete 127 true,
  .scrubWordRead (.frontShelf 575 0) .clean, .scrubWordRead (.backShelf 575 0) .clean, .scrubWordRead (.switchMap 575) .clean,
  .scrubWordRead (.gridMap 47) .clean, .scrubWordRead (.route 16383) .clean, .scrubWordRead (.board 63) .clean,
  .scrubberCheck 4294967295, .clerkWdt 35]
/-- Commands that name the last unit of their kind. -/
def boundary5 : List Instr := [
  .clerkPeriodicTest 35 true, .halt 0x8FF, .halt 0x18FF, .add 0x8FF, .sub 0x8FF, .andT 0x8FF, .orT 0x8FF, .xorT 0x8FF, .shl 0x8FF,
  .shr 0x8FF, .sra 0x8FF, .mul 0x8FF, .sltu 0x8FF, .addi 0x8FF, .li 0x8FF, .lih 0x8FF, .ld 0x8FF, .st 0x8FF, .beq 0x8FF,
  .bne 0x8FF, .bltu 0x8FF, .jmp 0x8FF, .sendt 0x8FF, .recvt 0x8FF]
/-- Commands that name the last unit of their kind. -/
def boundary6 : List Instr := [
  .test 0x8FF none, .csr 0x8FF, .waitc 0x8FF, .crc 0x8FF, .trestleWaitTimeout 0x8FF, .bypass 3, .bypass 255, .clerkUe 35]

/-- Each check of WellFormed refuses a term that fails it. -/
theorem test_wf_refuses_illFormed0 : (illFormed0.all fun c => !c.wf) = true := by decide
theorem test_wf_refuses_illFormed1 : (illFormed1.all fun c => !c.wf) = true := by decide
theorem test_wf_refuses_illFormed2 : (illFormed2.all fun c => !c.wf) = true := by decide
theorem test_wf_refuses_illFormed3 : (illFormed3.all fun c => !c.wf) = true := by decide
set_option maxRecDepth 4000 in
theorem test_wf_refuses_illFormed4 : (illFormed4.all fun c => !c.wf) = true := by decide
theorem test_wf_refuses_illFormed5 : (illFormed5.all fun c => !c.wf) = true := by decide
theorem test_wf_refuses_illFormed6 : (illFormed6.all fun c => !c.wf) = true := by decide
/-- And takes the last unit of each kind. -/
theorem test_wf_takes_boundary0 : (boundary0.all Instr.wf) = true := by decide
theorem test_wf_takes_boundary1 : (boundary1.all Instr.wf) = true := by decide
theorem test_wf_takes_boundary2 : (boundary2.all Instr.wf) = true := by decide
theorem test_wf_takes_boundary3 : (boundary3.all Instr.wf) = true := by decide
set_option maxRecDepth 4000 in
theorem test_wf_takes_boundary4 : (boundary4.all Instr.wf) = true := by decide
theorem test_wf_takes_boundary5 : (boundary5.all Instr.wf) = true := by decide
theorem test_wf_takes_boundary6 : (boundary6.all Instr.wf) = true := by decide
/-- An ill-formed command answers with the fault of its name, and changes nothing. -/
theorem test_ill_formed_faults : exec (.nop 2304) State.reset = .fault .noSuchUnit := by rfl
/-! ## Hypotheses of the statements: a state and operands that meet them -/

/-- Standby power, RESET_L and the ROM. -/
theorem test_meets_StandbyPowerAndResetLines :
    let off : Dev := default
    let held : Dev := { litD with
      power := { litD.power with dstate := .aon, resetL := false }
      boot := { litD.boot with pufOffAt := some 0, romPending := true } }
    let wait : Dev := { held with power := { held.power with resetL := true } }
    (off.power.aonPwrok = false ∧ off.power.dstate = .off ∧ ({ (default : AonEnv) with vaonValid := true } : AonEnv).vaonValid = true) ∧
    (litD.power.aonPwrok = true ∧ litD.power.resetL = true ∧ litD.boot.flashOps = []) ∧
    (held.power.aonPwrok = true ∧ held.power.resetL = false) ∧
    (wait.boot.pufOffAt = some 0 ∧ 0 + msec ≤ wait.now ∧ wait.boot.romPending = true ∧ wait.power.dstate = .aon
      ∧ wait.power.resetL = true ∧ wait.power.lowering = false ∧ wait.boot.flashUsable = true ∧ wait.boot.pufTries < 2) := by decide +kernel

/-- Rails that rise from the first stage and to the tenth, and fall. -/
theorem test_meets_RailsRiseAndFallByStages :
    let good (n : Nat) : List Bool := (List.range 12).map fun i => (List.range (n + 1)).any fun k => (stageRails k).contains i
    let up (n : Nat) : Power := { litD.power with dstate := .aon, bring := .rails, stage := n, pwrPg := good n }
    let may (p : Power) : Prop := p.bring = .rails ∧ p.dstate = .aon ∧ p.resetL = true ∧ p.lowering = false ∧ p.stage < 10
      ∧ (stageRails p.stage).all p.pg = true ∧ (stageRails (p.stage + 1)).any p.pg = false ∧ (p.stage = 0 ∨ p.stageAt + 200 * usec ≤ ten)
    may (up 0) ∧ may (up 9) ∧ may (up 3) ∧ (up 3).stage ∈ [3, 4, 5, 6, 7, 8] ∧
    ({ (up 9) with lowering := true, enAt := 0 } : Power).enAt + msec ≤ ten ∧ ((up 0).en 11 = true ∧ (up 0).pg 11 = false) ∧
    (({ (up 9) with pwrEn := [] } : Power).en 0 = false ∧ (up 9).pg ((stageRails 1).headD 0) = true) ∧
    (∀ i < 12, litD.power.en i = true ∨ litD.power.pg i = false) := by
  decide +kernel

/-- Sensors at the trip point, a rail that is good and one that is late. -/
theorem test_meets_TripsAndRailFaultsDropEveryRail :
    let late : Dev := { litD with power := { litD.power with pwrPg := List.replicate 12 false } }
    let bad (n : Nat) : Prop :=
      let p : Power := { litD.power with
        dstate := .aon, bring := .rails, stage := n
        pwrPg := (List.range 12).map fun i => (List.range (n + 1)).any fun k => (stageRails k).contains i }
      p.resetL = true ∧ p.lowering = false ∧ p.stage ∈ [0, 1, 2, 9] ∧ (stageRails p.stage).all p.pg = true ∧
      (stageRails (p.stage + 1)).any p.pg = false ∧ (p.stage = 0 ∨ p.stageAt + 200 * usec ≤ ten)
    bad 0 ∧ bad 9 ∧
    (623 < groupSize .block ∧ 1760 ≤ 1760 ∧ litD.power.dstate ≠ .off ∧ litD.power.pwrEn.any id = true) ∧
    (litD.power.en 11 = true ∧ litD.power.pg 11 = true) ∧
    (late.power.en 11 = true ∧ late.power.pg 11 = false ∧ late.power.enAt + msec < late.now) ∧ litD.lit = true := by decide +kernel

/-- Bring-up with every rail good, and before and after the map. -/
theorem test_meets_BringUpReachesReady :
    let at_ (b : Bring) : Dev := { litD with power := { litD.power with dstate := .aon, bring := b } }
    ((at_ .rails).power.dstate = .aon ∧ (at_ .rails).power.stage = 10 ∧ (at_ .rails).power.lowering = false
      ∧ ∀ i < 12, (at_ .rails).power.pg i = true ∧ (at_ .rails).power.en i = true) ∧
    ((at_ .train).power.dstate = .aon ∧ (at_ .train).power.bring = .train) ∧
    ((at_ .map).power.bring = .map ∧ (at_ .map).grid.failed = [] ∧ (at_ .map).grid.swFailed = []) := by decide +kernel
set_option maxRecDepth 20000 in
/-- A sparing record of the flash that is valid. -/
theorem test_meets_sparing_record :
    let d : Dev := { litD with flash := memWrite 0xFF [] sparing0 (({} : Grid).record) }
    d.twoRead sparing0 sparing1 128 sparingOk = some (({} : Grid).record) := by decide +kernel

/-- Block islands: one that wakes, one that is quiet, the members of a beat, one that rests. -/
theorem test_meets_BlockIslandsMoveThroughTheirStates :
    let b0 (x : Block) (d : Dev) : Dev := { d with blocks := [(0, x)] }
    let wake := b0 { (default : Block) with island := .off, islandAt := some ten } litD
    let rest := b0 { (default : Block) with island := .idle } (lotD 1 [])
    let quiet := b0 { (default : Block) with island := .run, quiet := some (ten - 64) } litD
    ((wake.block 0).islandAt = some ten ∧ ten ≤ wake.now ∧ (wake.block 0).banksAt.getD 0 ≤ wake.now ∧ wake.asked 0 true = false
      ∧ wake.turnStart = true) ∧
    ((quiet.block 0).island = .run ∧ (quiet.block 0).quiet = some (ten - 64) ∧ ten - 64 + 64 ≤ quiet.now ∧ quiet.isQuiet 0 = true) ∧
    (let l : Lot := { (lotD 1 []).lot 0 with beat := { (default : BeatCtl) with active := true, start := ten - 8, len := 9 } }
     l.front.kind = 1 ∧ l.beat.active = true ∧ l.nextBeat ≤ ten + 64) ∧
    (rest.lotOf 0 = some 0 ∧ (rest.block 0).island = .idle ∧ (rest.lot 0).bstate = .empty ∧ rest.isRested (rest.lot 0) = true) := by
  decide +kernel

/-- A request that the bucket pays for. -/
theorem test_meets_TheGovernorAdmitsWhatTheBucketPays :
    let r : WakeReq := { b := 0, isBank := false, cls := 3, cost := 800, spare := none }
    let d : Dev := { litD with warden := { litD.warden with gov0 := { (default : Gov) with queue := [r], hint := true, hintAt := 0 } } }
    d.lit = true ∧ d.warden.govAt ≠ d.now / aonTick + 1 ∧ (d.gov 0).hint = true ∧ (d.gov 0).queue = [r]
      ∧ d.warden.gov1.queue = [] ∧ r.cls < 4 ∧ r.isBank = false ∧ r.spare = none ∧ (d.gov 0).hintAt + d.entry 0x2002 1 * usec ≤ d.now
      ∧ r.cost ≤ 10 * d.slew 0 := by decide +kernel

/-- Sensors, rails, trims, STRETCH and laser inputs that are due. -/
theorem test_meets_SensorsAndSuppliesAreFollowed :
    let d : Dev := { litD with warden := { litD.warden with rails := [(0, { (default : Rail) with setMv := 750, baseMv := 750 })] } }
    let r : Rail := d.warden.rails.get 0
    ([0, 0, 0, 0].length = groupSize .optical ∧ d.diesOn = true ∧ d.warden.sampled.get (groupCode .optical) = 0) ∧
    (d.lit = true ∧ dueSince r.curAt (100 * usec) d.now = true ∧ dueSince r.trimAt msec d.now = true) ∧
    (r.setMv + 5 ≤ r.baseMv + 25 ∧ r.baseMv ≤ r.setMv + 5 + 25 ∧ (railRange 0).2.1 ≤ r.setMv + 5 ∧ r.setMv + 5 ≤ (railRange 0).2.2) ∧
    d.warden.stretchAt + 100 * usec ≤ d.now ∧ d.warden.laserAt + msec ≤ d.now ∧ [1999, 2050, 2049, 0].length = 4 := by decide +kernel

/-- The plant: silent, at fault, and good again; a status message whose check is right, another device's forecast, and neither; a forecast
that stands and one that has moved. -/
theorem test_meets_ThePlantCapsAndFreesThePower :
    let m := withCrc (layout 20 [(0, 2, 0x4C50), (2, 1, 1), (3, 1, 2), (6, 2, 12)])
    let f := withCrc (layout 36 [(0, 2, 0x4C50), (2, 1, 1), (3, 1, 1), (6, 2, 28)])
    let d : Dev := { litD with warden := { litD.warden with plant := some ⟨0, 0, 0, 0, 1⟩, foreAt := 1 } }
    let good : Dev := { litD with warden := { litD.warden with plant := some ⟨0, 0, 0, 0, 0⟩, plantLost := true, okSince := some 0, plantAt := ten } }
    let moved : Fore := { d.warden.fore with p1s := d.warden.fore.p1s + 101 }
    (d.awake = true ∧ d.warden.foreAt + 10 * msec ≤ d.now ∧ d.warden.foreAt ≠ 0 ∧ d.warden.sentFore = none) ∧
    ((moved.p1s : Nat) - d.warden.fore.p1s = 101 ∧ 0 + 10 * msec ≤ d.now ∧ (litD.warden.foreAt = 0 ∧ litD.awake = true)) ∧
    (plantOkMsg m = true ∧ foreOkMsg m = false ∧ plantOkMsg [] = false ∧ foreOkMsg [] = false ∧ foreOkMsg f = true) ∧
    (d.warden.plantLost = false ∧ d.warden.plantAt + second ≤ d.now) ∧
    (d.warden.plant = some ⟨0, 0, 0, 0, 1⟩ ∧ d.warden.plantLim = false) ∧
    (good.awake = true ∧ good.warden.plantLost = true ∧ good.plantGood.isSome = true ∧ good.warden.okSince = some 0 ∧ 0 + 2 * second ≤ good.now) ∧
    (d.power.dstate ≠ .off ∧ d.warden.beaconAt + 4 * msec ≤ d.now) := by decide +kernel

/-- Orders that are done at issue, each on an idle Stall. -/
theorem test_meets_OrdersDoneAtIssue :
    let idle (op rest : Nat) : Prop := (runD 1 [order op rest]).issuesIdle 0 op
    (∀ op ∈ [0x82, 0x71, 0x80, 0x81, 0x30, 0x31, 0x90, 0x91, 0x92, 0x70], idle op 0) ∧
    (((runD 1 [order 0x30 0]).stall 0).pendEpi = none ∧ rmodeBad (epiOrder ((runD 1 [order 0x30 0]).orderAt 0)).rmode = false) ∧
    (({ (default : Stall) with latch := 1 } : Stall).latch.getLsbD (bellLine (order 0x91 0).toNat) = true) ∧
    ((runD 1 []).lotOf 0 = some 0 ∧ ((runD 1 []).lot 0).front.kind = 1 ∧ ((runD 1 []).lot 0).nextBeat - 8 < (runD 1 []).now) := by
  unfold Dev.issuesIdle; decide +kernel

/-- Orders that find room in their queue, an MMA with EPI among them. -/
theorem test_meets_OrdersEnterTheirQueue :
    (∀ op ∈ [0x10, 0x20, 0x21, 0x40, 0x41, 0x42, 0x43, 0x50], (runD 1 [order op 0]).mayIssue 0 op = true) ∧
    (∀ e ∈ [Eng.matrix, .vector, .move, .runner], 1 ≤ ((runD 1 []).stall 0).room e) ∧
    ((mmaOp (order 0x10 0).toNat).epi = false ∧ (mmaOp (order 0x10 0).toNat).afmt ≠ 0xF ∧ (mmaOp (order 0x10 0).toNat).bfmt ≠ 0xF) ∧
    (movOrder (order 0x40 0).toNat).fmt ≠ 0xF ∧ rmodeBad (vecOrder (order 0x20 0).toNat).rmode = false ∧
    (let d := (runD 1 [order 0x10 (2 ^ 50)]).modStall 0 fun x => { x with pendEpi := some default }
     d.mayIssue 0 0x10 = true ∧ (mmaOp (d.orderAt 0)).epi = true ∧ (d.stall 0).pendEpi = some default ∧
       d.mmaEntries 0 (d.orderAt 0) ≤ (d.stall 0).room .vector) ∧
    (let x : Stall := { (default : Stall) with queues := [(0, { (default : RQueue) with size := 1, isOpen := true, msgs := [default] })] }
     x.recvReady ten (recvOrder (order 0x60 0).toNat).queue = true) := by decide +kernel

/-- A full queue, another order, and the orders that fault. -/
theorem test_meets_OrdersThatMayNotIssue :
    let full : Stall := { (default : Stall) with jobs := [default, default] }
    let d := runD 1 [order 0x30 0]
    let pend : Dev := d.modStall 0 fun x => { x with pendEpi := some default }
    (runD 1 [order 0x82 0]).mayIssue 0 0x10 = false ∧ full.room .matrix = 0 ∧
    (0 < 2304 ∧ (d.ctx 0).state = .bound ∧ d.lotOf (0 / 4) = some (d.ctx 0).lot ∧ (d.lot (d.ctx 0).lot).frontCtx = some 0) ∧
    (pend.mayIssue 0 0x30 = true ∧ (pend.stall 0).pendEpi.isSome = true) ∧
    (∀ op ∈ [0x20, 0x21, 0x30, 0x31], ∀ m ∈ [5, 6], (runD 1 [order op (m * 2 ^ 48)]).mayIssue 0 op = true ∧
      rmodeBad (vecOrder ((runD 1 [order op (m * 2 ^ 48)]).orderAt 0)).rmode = true ∧
      rmodeBad (epiOrder ((runD 1 [order op (m * 2 ^ 48)]).orderAt 0)).rmode = true) ∧
    (∀ op ∈ [0x40, 0x41], (movOrder ((runD 1 [order op (15 * 2 ^ 39)]).orderAt 0)).fmt = 0xF ∧
      (runD 1 [order op (15 * 2 ^ 39)]).mayIssue 0 op = true) ∧
    (∃ k ∈ List.range 44, let v := (order 0x10 (0xF * 2 ^ k)).toNat
     (mmaOp v).afmt = 0xF ∧ (runD 1 [order 0x10 (0xF * 2 ^ k)]).mayIssue 0 0x10 = true
        ∧ (runD 1 [order 0x10 (0xF * 2 ^ k)]).mmaEntries 0 v = 0) := by decide +kernel

/-- Jobs that are due, one for each completion: an MMA without and with an epilogue, launches and epilogues with and without something that
the residue check covers. -/
theorem test_meets_CompletionsWriteTheirTiles :
    let on (l : List Job) : Dev := (runD 1 []).modStall 0 fun x => { x with jobs := l }
    let mma : Job := { (default : Job) with op := .mma, phase := .running }
    let mmaE : Job := { mma with epi := some default }
    let vec (opc : Nat) : Job := { (default : Job) with eng := .vector, op := .vec, phase := .writing, desc := layout 96 [(64, 4, opc)] }
    let epi (k : Nat) : Job := { (default : Job) with
      op := .mma, phase := .epiWriting, epi := some { (default : PendEpi) with stages := [0, BitVec.ofNat 64 k] } }
    let mov : Job := { (default : Job) with eng := .move, op := .movSt, phase := .writing }
    let snd : Job := { (default : Job) with eng := .runner, op := .send, phase := .handing }
    (∀ j ∈ [mma, mmaE], ((on [j]).stall 0).jobs.find? (fun i => i.op == .mma && i.phase == .running && decide (i.due ≤ (on [j]).now)
        && !(i.scales && i.need != 0) && !((on [j]).stall 0).holds) = some j) ∧ mma.epi = none ∧ mmaE.epi = some default ∧
    (∀ c ∈ [0, 0x10], ((on [vec c]).stall 0).jobs.find? (fun i => (i.op == .vec || i.op == .vecProg || i.op == .prologue)
        && i.launchDone (on [vec c]).now) = some (vec c) ∧ (on [vec c]).launchChecked 0 (vec c) = decide (c = 0x10)) ∧
    (∀ k ∈ [kCvt, kScale], ((on [epi k]).stall 0).jobs.find? (fun i => (i.op == .mma || i.op == .epiPasses) && i.epiDone
        && decide (i.due ≤ ten) && decide (i.occEnd ≤ ten)) = some (epi k) ∧ (epi k).epi.any PendEpi.checked = decide (k = kScale)
        ∧ (on [epi k]).job 0 (epi k).link = some (epi k)) ∧
    [mov].find? (fun i => i.eng == .move && i.phase == .writing && decide (i.due ≤ ten)) = some mov ∧
    [snd].find? (fun i => i.sending && decide (((on [snd]).stall 0).inj.length < 4)) = some snd := by decide +kernel

/-- A Stall that works for its context, and waits that are too long. The residue clauses meet their hypotheses in the test before. -/
theorem test_meets_ErrorsAndLongWaitsFaultTheContext :
    let held (op : Nat) : Dev := (runD 1 [order op 0]).modStall 0 fun x => { x with holdSince := some 0 }
    let job (l : List Job) : Dev := (runD 1 []).modStall 0 fun x => { x with jobs := l }
    let snd := job [{ (default : Job) with eng := .runner, op := .send, phase := .handing }]
    let rcv := job [{ (default : Job) with eng := .runner, op := .recv, phase := .reading }]
    let rows := job [{ (default : Job) with op := .mma, phase := .epiWriting, sends := [(0, 0, 0, [])] }]
    let late : Dev := { (job [{ (default : Job) with op := .mma, phase := .done, start := 1, ticket := 1 },
      { (default : Job) with eng := .vector, op := .epiPasses, phase := .running, link := 1, epi := some { (default : PendEpi) with isProg := true } }]) with
        ctxs := [(0, { (default : Ctx) with state := .bound, cyclic := true })] }
    (∀ d ∈ [snd, rcv, rows, late, held 0x60], 0 < 2304 ∧ (d.ctx 0).state = .bound ∧ d.lotOf (0 / 4) = some (d.ctx 0).lot
      ∧ (d.lot (d.ctx 0).lot).frontCtx = some 0) ∧
    (held 0x60).heldTooLong 0 0x60 = true ∧ (held 0x91).heldTooLong 0 0x91 = true ∧
    (rcv.stall 0).jobs.any (fun i => i.op == .recv && i.phase == .reading && decide (i.since + i.limit < rcv.now)) = true ∧
    (snd.stall 0).jobs.any (fun i => i.sending && decide (i.since + i.limit < snd.now)) = true ∧
    (late.stall 0).jobs.any (late.epiIsLate 0) = true ∧
    (rows.stall 0).jobs.any (fun i => i.phase == .epiWriting && !i.sends.isEmpty && decide (i.since + i.limit < rows.now)) = true
    := by decide +kernel
/-- A stamped write whose stamps agree, and one that meets a held row of another stamp. -/
theorem test_meets_StampedWritesCheckTheHeldBit :
    let u : AccUnit := { (default : AccUnit) with stamped := true, code := 15 }
    let r : RowReq := { row := 12287, unit := 1, isWrite := true, sink := .svc 0, waitHeld := true }
    let d (x : RowStat) : Dev := { lotD 1 [] with chests := [(0, { (default : Chest) with
      units := [(1, u)], stat := [(12287, x)], banks := [(15, .on)] })] }
    (1 ≤ 15 ∧ 15 ≤ 15 ∧ 14 ≤ 14) ∧ r.isWrite = true ∧ u.stamped = true ∧ (d {}).meetsUe 0 r true = false ∧
    (((d {}).chest 0).stat.get 12287).held = false ∧
    (let x : RowStat := ((d ⟨14, true⟩).chest 0).stat.get 12287
     x.held = true ∧ x.stamp ≠ u.eff.getD (effStamp u.code ((d {}).beatB 0)) ∧ r.waitHeld = true) ∧
    (d {}).isLenient 0 12287 = false ∧
    (let l : Dev := { (d {}) with
       lots := (lotD 1 []).lots.map fun p => (p.1, { p.2 with front := { p.2.front with
         blocks := [(0, { (default : Shelf) with cfg := [(0, 2 ^ 19)] })] } })
       ctxs := [(0, { (default : Ctx) with lenient := true })] }
     l.isLenient 0 12287 = true ∧ l.meetsUe 0 r true = false) := by decide +kernel

/-- A read whose stamp agrees, one whose stamp does not, an unstamped write with and without DSTAMP. -/
theorem test_meets_ReadsCompareTheStamp :
    let u : AccUnit := { (default : AccUnit) with stamped := true, code := 3 }
    let r : RowReq := { row := 0, unit := 1, sink := .svc 0, also := some 3 }
    let w : RowReq := { row := 0, unit := 2, isWrite := true, sink := .svc 0 }
    let d (s : Nat) : Dev := { lotD 1 [] with chests := [(0, { (default : Chest) with units := [(1, u), (3, u)], stat := [(0, ⟨s, false⟩)] })] }
    r.isWrite = false ∧ u.stamped = true ∧ (d 3).meetsUe 0 r true = false ∧ effStamp 3 ((d 3).beatB 0) = 3 ∧
    (((d 3).chest 0).stat.get 0).stamp = 3 ∧ (r.also.bind fun a => (d 3).unitStamp 0 a) = some 3 ∧
    (((d 2).chest 0).stat.get 0).stamp ≠ 3 ∧ (d 2).isLenient 0 0 = false ∧
    (((d 3).chest 0).units.get 2).stamped = false ∧ w.isWrite = true ∧
    bits (((d 3).shelf 0).cfg.get 0).toNat 23 20 = 0 ∧ bits (BitVec.ofNat 64 (7 * 2 ^ 20)).toNat 23 20 ≠ 0 := by decide +kernel

/-- A Chest with one request at a port that owns its cell, and at one that does not. -/
theorem test_meets_ChestGrantServesTheCellsOwner :
    let r : RowReq := { row := 16, unit := 1, sink := .svc 0, since := ten }
    let d (own : Nat) : Dev := { lotD 1 [] with
      lots := (lotD 1 []).lots.map fun p => (p.1, { p.2 with front := { p.2.front with
        blocks := [(0, { (default : Shelf) with cfg := [(0, 16)], owners := [(0, (List.range 16).map fun i => (i, own))] })] } })
      chests := [(0, { (default : Chest) with banks := [(0, .on)], ports := [(1, [r])] })] }
    let a := ({ (d 2) with chests := [(0, { (default : Chest) with ports := [(pCrd, [r])] })] } : Dev)
    let g (own : Nat) : Dev := ((d own).modChest 0 fun x => { x with granted := some ten }).releaseHeld 0
    (d 1).askRows 0 = d 1 ∧ (d 1).lit = true ∧ ((d 1).block (0 / 4)).island = .run ∧ ((d 1).block (0 / 4)).clockAt ≤ (d 1).now ∧
    ((d 1).chest 0).granted ≠ some (d 1).now ∧ ((d 1).chest 0).svcAt = none ∧ (g 1).chestIsOff 0 r.row = false ∧
    (a.chestIsOff 0 r.row = true ∧ (a.chest 0).ports.get pCrd = [r]) ∧ ({ r with since := ten + 1 } : RowReq).since = (g 1).now + 1 ∧
    ((g 1).chest 0).ports.get 1 = [r] ∧ r.since ≤ (g 1).now ∧
    (g 1).ownsCell 0 1 (r.row % 16) ((g 1).time % 16) = true ∧ (g 2).ownsCell 0 1 (r.row % 16) ((g 2).time % 16) = false ∧
    (g 1).bankOn 0 (r.row % 16) = true := by decide +kernel
/-- No other port of it holds a request. -/
theorem test_meets_one_port (r : RowReq) (q : Nat) (h : q ≠ 1) : look ([] : List RowReq) [(1, [r])] q = [] := by
  simp only [look]; rw [if_neg h]; split <;> rfl

/-- A wait-held write that waits too long, and a request that no cell serves. -/
theorem test_meets_ChestWaitsEndInAFault :
    let r : RowReq := { row := 0, unit := 1, isWrite := true, sink := .svc 0, waitHeld := true }
    let d : Dev := { lotD 1 [] with
      lots := (lotD 1 []).lots.map fun p => (p.1, { p.2 with front := { p.2.front with
        blocks := [(0, { (default : Shelf) with cfg := [(0, 16)] })] } })
      chests := [(0, { (default : Chest) with
        heldSince := some 0, ports := [(1, [r]), (pCwr, [r])], units := [(1, { (default : AccUnit) with ctx := some 0 })] })] }
    (d.chest 0).heldSince = some 0 ∧ (d.chest 0).ports.get pCwr = [r] ∧ (d.chest 0).heldLimit < d.now - 0 ∧ d.isLenient 0 r.row = false ∧
    { d with ctxs := [(0, { (default : Ctx) with lenient := true })] }.isLenient 0 r.row = true ∧ r.sink = .svc 0 ∧
    (d.chest 0).ports.get 1 = [r] ∧ ((d.chest 0).units.get r.unit).ctx = some 0 ∧
    (∀ pos, pos < 16 → d.ownsCell 0 1 (r.row % 16) pos = false) ∧ d.lotOf (0 / 4) = some 0 ∧
    max r.since (d.lot 0).swapTime + r.limit < d.now ∧ d.bankOwner 0 (r.row % 16) = some 0 := by decide +kernel

/-- A steering unit with a token and data, and one with a token alone. -/
theorem test_meets_SteeringUnitsFireByTheirToken :
    let d (data : List Row) : Dev := { withShelf (shelfOf 6 (layout 352 [(320, 4, 1)])) (lotD 1 []) with blocks := [(0, { (default : Block) with
      island := .run, sw := { (default : SwPoint) with steers := [(0, { (default : Steer) with token := [1], data0 := data, cred1 := 1 })] } })] }
    (let f : Firing := ⟨true, false, none, some 0⟩
     firing (steerWord ((d [5]).frame 0) 0).1 1 = some f ∧ (d [5]).outFree 0 0 1 = true ∧ ((d [5]).steer 0 0).data0.isEmpty = false) ∧
    ((d []).steer 0 0).token = [1] ∧ firing 1 3 = some ⟨true, false, none, none⟩ ∧ ((d []).steer 0 0).data0 = [] ∧
    ((d [5]).steer 0 0).data0 = [5] ∧ (d [5]).lit = true ∧ ((d [5]).steer 0 0).firedAt ≠ (d [5]).now + 1 := by decide +kernel

/-- A packet in a mesh input buffer, one at the injection buffer, one at the ejection head. -/
theorem test_meets_RunnerPacketsHopAndEject :
    let p (unit : Nat) : RPkt := { ddev := 0x3FFF, dunit := unit, nw := 0, words := [7], tag := 0 }
    let far : RPkt := { (p 4) with ddev := 5 }
    let d (unit : Nat) : Dev := { lotD 1 [] with
      now := ten + 7
      stalls := [(0, { (default : Stall) with inj := [p unit], ej := [p 0], tagMap := [(0, 16)]
                                              queues := [(0, { (default : RQueue) with size := 2, isOpen := true })] })]
      blocks := [(0, { (default : Block) with island := .run, sw := { (default : SwPoint) with inbuf := [(8, [p unit])] } })] }
    (d 4).inbuf 0 4 0 = [p 4] ∧ (d 4).lit = true ∧ (p 4).at_ ≤ (d 4).now ∧
    ((d 4).hopOf 0 (p 4)).1 = .link 1 ∧ ((d 0).hopOf 0 (p 0)).1 = .eject 0 ∧ ((d 0x1FFF).hopOf 0 (p 0x1FFF)).1 = .drop 3 ∧
    neighbour 0 1 = some 1 ∧ neighbour 0 2 = none ∧
    (rotation (((d 4).block 0).sw.lastIn.get 1)).find? ((d 4).wants 0 1) = some (4, 0) ∧
    ((d 4).stall (4 * 0 + (5 - 5))).inj = [p 4] ∧ (p 4).at_ < (d 4).now ∧ (d 4).headsFor 0 (p 4) = some 1 ∧
    ({ (p 4) with rsvSet := true } : RPkt).malformed = true ∧ ((d 4).hopOf 0 far).1 = .link 2 ∧
    (let g : Dev := { (d 0x1000) with blocks := (d 0x1000).blocks.map fun x => (x.1, { x.2 with testing := true }) }
     (g.hopOf 0 (p 0x1000)).1 = .tile 0x1000 ∧ (rotation ((g.block 0).sw.lastIn.get 8)).find? (g.wants 0 8) = some (4, 0) ∧
       (g.block (0 / 4)).testing = true ∧ (g.trestles.get 0).queue.length < 8) ∧
    (rotation (((d 0).block 0).sw.lastIn.get 4)).find? ((d 0).wants 0 4) = some (4, 0) ∧
    (let g : Dev := { (d 4) with stalls := (d 4).stalls.map fun x => (x.1, { x.2 with inj := [far] }),
                                 blocks := [(0, { (default : Block) with island := .run, sw := { (default : SwPoint) with inbuf := [(8, [far])] } })] }
     (rotation ((g.block 0).sw.lastIn.get 2)).find? (g.wants 0 2) = some (4, 0)) ∧
    (let g : Dev := { (d 4) with grid := { (d 4).grid with faultMap := [1] } }
     g.headsFor 0 (p 4) = some 1 ∧ g.clearPath (routePath 0 1 true) = false ∧ g.clearPath (routePath 0 1 false) = false) ∧
    ((d 4).inbuf 0 4 1).length < 4 ∧ ({ (p 0) with kind := 1 } : RPkt).kind = 1 ∧ ((d 0).stall 0).queueOf { (p 0) with tag := 1 } = none ∧
    ((((d 0).stall 0).queues.get 1).size = 0 ∧ (((d 0).stall 0).queues.get 0).size = 2 ∧ (((d 0).stall 0).queues.get 0).isOpen = true ∧
      ({ (((d 0).stall 0).queues.get 0) with isOpen := false } : RQueue).isOpen = false ∧ ({ (p 0) with qinc := 1 } : RPkt).qinc ≠ 0 ∧
      2 ≤ ({ (((d 0).stall 0).queues.get 0) with msgs := [default, default] } : RQueue).taken ten) ∧
    (d 4).chooseLane 0 1 = some 0 ∧ (d 0x1FFF).headsFor 0 (p 0x1FFF) = none ∧
    ((d 0).stall 0).ej = [p 0] ∧ (p 0).kind ≠ 1 ∧ ((d 0).block 0).testing = false ∧ ((d 0).stall 0).queueOf (p 0) = some 0 ∧
    (p 0).qinc = (((d 0).stall 0).queues.get 0).inc ∧ (((d 0).stall 0).queues.get 0).taken (d 0).now < 2 := by decide +kernel

/-- Requests that have arrived, at HBM and at a Chest window; a word atomic that is in order and one that is not. -/
theorem test_meets_SlicesPerformRequests :
    let r (k : CKind) : CReq := { id := 1, src := .porterAtomic 0 0, kind := k, off := 2 ^ 20, len := 64, data := zeros 64, cls := .host, stage := 2 }
    let d (k : CKind) : Dev := { lotD 1 [] with conc := { litD.conc with reqs := [r k] } }
    (∀ k ∈ [CKind.read, .write, .atomic, .lineAdd], (d k).arrives 1 k = some (r k) ∧ (d k).target (r k) = .hbm
      ∧ (d k).conc.poison.contains ((r k).off / 64 * 64) = false ∧ (d k).conc.reads.get (sliceOf (r k).off) = []) ∧ atomOk 0 true (2 ^ 20) = true := by decide +kernel

/-- Requests that memory turns away. -/
theorem test_meets_RequestsThatMemoryTurnsAway :
    let r (off : Nat) (k : CKind) : CReq := { id := 1, src := .porterAtomic 0 0, kind := k, off := off, len := 4, cls := .host, stage := 2 }
    let d (x : CReq) : Dev := { lotD 1 [] with conc := { litD.conc with reqs := [x], poison := [2 ^ 20] } }
    let on (x : CReq) : Dev := { (d x) with
      lots := (lotD 1 []).lots.map fun p => (p.1, { p.2 with front := { p.2.front with
        blocks := [(0, { (default : Shelf) with cfg := [(0, 16)] })] } })
      chests := [(0, { (default : Chest) with banks := [(0, .on)] })] }
    (∀ k ∈ [CKind.read, .write, .atomic, .lineAdd], let x := r (2 ^ 55) k
     (d x).target x = .unmapped ∧ (d x).arrives 1 k = some x) ∧
    (let x := r (2 ^ 20) .read
     (d x).conc.reads.get (hbmSlice x.off) = [] ∧
     (let q : SliceRead := { line := x.off / 64, at_ := 0, timed := false, bad := true }
      [q].find? (fun q => q.line == x.off / 64 && (q.timed || !x.timed)) = some q ∧ x.came ≤ q.at_ + 90)) ∧
    (∀ k ∈ [CKind.read, .write, .atomic, .lineAdd], let x := r (chestOff 0) k
     (d x).target x = .chest 0 0 ∧ (d x).arrives 1 k = some x ∧ ((d x).rouse 0).chestIsOff 0 (0 / 64) = true
       ∧ ((on x).rouse 0).chestIsOff 0 (0 / 64) = false) ∧
    (let x := r (2 ^ 20 + 1) .atomic
     (d x).target x = .hbm ∧ (d x).arrives 1 .atomic = some x ∧ atomOk x.aop x.aw x.off = false) ∧
    (let x := r (2 ^ 20) .read
     (d x).target x = .hbm ∧ x.off < lpBase ∧ (d x).conc.poison.contains (x.off / 64 * 64) = true ∧ (d x).arrives 1 .read = some x)
    := by decide +kernel

/-! ### Streams, transfers and the fabric -/

/-- A circuit from endpoint 0 of a block to its endpoint 1 in slot 0, with a flit to send; a flit and a credit on their way. -/
theorem test_meets_StreamsMoveByCredit :
    let f : SFlit := { data := 5 }
    let d (mode : Nat) : Dev := { withShelf (shelfOf 6 (layout 352 [(64, 8, mode), (72, 8, 1 + 5 * 2 ^ 8),
        (80, 8, 1 + 2 ^ 8)])) (lotD 1 []) with
      flights := [{ id := 1, srcB := 0, srcE := 0, branch := 0, dstB := 0, dstE := 1, delay := 8, due := ten, epoch := false, data := 5 },
        { id := 2, srcB := 0, srcE := 0, branch := 0, dstB := 0, dstE := 1, delay := 8, due := ten + 4, epoch := false, data := 5
          hops := [(0, 33, 4)] }]
      credits := [⟨1, 0, 0, 0, ten, false, 0, 1, 8, []⟩, ⟨2, 0, 32, 0, ten, false, 0, 1, 8, []⟩]
      blocks := [(0, { (default : Block) with
        island := .run, changed := [1]
        sw := { (default : SwPoint) with eps := [(0, { (default : Endpoint) with staging := [f], queue := [f], cred0 := 1 })] } })] }
    (∀ m ∈ [2, 3], (d m).branches 0 0 ((d m).time % 8) = [(0, 1, 8)] ∧ sendsIn ((d m).frame 0) 0 ((d m).time % 8) = true ∧
      (d m).sentNow 0 0 = false ∧ ((d m).ep 0 0).credited 1 = true ∧ ({} : Endpoint).credited 1 = false ∧ f.at_ < (d m).now ∧
      (epWord ((d m).frame 0) 0).mode = m ∧ ((d m).ep 0 0).staging = [f] ∧ ((d m).ep 0 0).queue.find? (fun g => !g.sent) = some f) ∧
    (d 2).flights.find? (fun g => g.id = 1) = (d 2).flights.head? ∧ (d 2).refuses 0 1 false = false ∧ (d 2).refuses 0 1 true = true ∧
    ((d 2).flights.find? (fun g => g.id = 2) = (d 2).flights.getLast? ∧ (d 2).now < ten + 4 ∧
      [((0, 33, 4) : Nat × Nat × Nat)].find? (fun h => h.2.2 != 0 && (ten + 4) - 8 + h.2.2 == (d 2).now) = some (0, 33, 4)) ∧
    (let g : Dev := ({ (d 2) with flights := (d 2).flights.drop 1 } : Dev).rouse 0
     1 ≤ (epWord (g.frame 0) 2).ilink ∧ (epWord (g.frame 0) 2).ilink ≤ 4 ∧ g.refuses 0 1 false = false ∧ g.refuses 0 1 true = true
       ∧ g.frontOf 0 = some 0) ∧
    (d 2).refuses 0 0 false = false ∧ (d 2).refuses 0 60 false = false ∧
    (d 2).credits.find? (fun g => g.id = 2) = (d 2).credits.getLast? ∧
    (d 2).credits.find? (fun g => g.id = 1) = (d 2).credits.head? ∧ (d 2).frontOf 0 = some 0 ∧ (d 2).lit = true := by decide +kernel

/-- A descriptor at each of its triggers, and a preload with its turn. -/
theorem test_meets_TransfersStartAtTheirTrigger :
    let desc (trig : Nat) : Bytes := layout 64 [(0, 8, 2 ^ 9 * trig)]
    let d (trig : Nat) : Dev := withShelf (shelfOf 8 (desc trig)) { lotD 1 [] with
      lots := (lotD 1 []).lots.map fun p => (p.1, { p.2 with
        beat := { (default : BeatCtl) with active := true, start := ten }
        back := { (default : LotShelf) with kind := 1, blocks := [(0, shelfOf 8 (desc 3))] } })
      stalls := [(0, { (default : Stall) with task := some 0, beatStart := ten })]
      blocks := [(0, { (default : Block) with island := .run, xfer := { (default : Xfer) with latch := 1, preWait := [0] } })] }
    (∀ t ∈ [0, 1, 2], (xferD (desc t)).trig = t ∧ ((d t).shelf 0).transfers[0]? = some (desc t) ∧ (d t).lotOf 0 = some 0 ∧
      (d t).frontOf 0 = some 0 ∧ ((d t).block 0).xfer.justFired 0 (d t).now = false ∧ ((d t).block 0).awake = true) ∧
    ((d 0).lot 0).beat.active = true ∧ (d 0).now = ((d 0).lot 0).beat.start + 8 * (xferD (desc 0)).targ ∧
    ((d 1).block 0).xfer.latch.getLsbD 0 = true ∧ ((d 2).stall 0).task.isSome = true ∧ ((d 2).stall 0).beatStart = (d 2).now ∧
    ((d 0).block 0).xfer.preWait = [0] ∧ ((d 0).backShelf 0).transfers[0]? = some (desc 3) ∧ ((d 0).block 0).xfer.bulkQ.length < 8 := by
  decide +kernel

/-- An instance with a line to issue, for memory, for the Chest and pooled; its reply; an instance with every reply. -/
theorem test_meets_TransfersWalkTheirLines :
    let desc (w : Nat) : Bytes := layout 64 [(0, 8, w)]
    let inst (w : Nat) (n : Nat) : XInst := { id := 1, didx := 0, desc := desc w, eff := 0, ctx := 0, replies := n }
    let q (p : Nat) : CReq := { id := p, src := .xfer 0 1 0, kind := .read, off := 0, port := p / 8, timed := p % 8 == 0 }
    let turn (a b : Nat) (v : List Nat) : Option Nat := (pickNext (a, b) (v.map q)).map (·.id)
    let d (w n st : Nat) : Dev := { lotD 1 [] with
      conc := { litD.conc with reqs := [{ id := 7, src := .xfer 0 1 0, kind := .read, off := 0, status := some st },
                                        { id := 8, src := .trans 0 1 0, kind := .read, off := 0, port := 2, status := some 0 },
                                        { id := 9, src := .xfer 0 1 0, kind := .read, off := 0, status := some 0 }] }
      blocks := [(0, { (default : Block) with island := .run, xfer := { (default : Xfer) with bulkQ := [inst w n] } })] }
    let issues (w : Nat) : Prop := ((d w 0 0).block 0).xfer.bulkQ.find? (fun j => !j.stopped && decide (j.next < (xferD j.desc).lines))
      = some (inst w 0) ∧ ((d w 0 0).block 0).xfer.bulkQ.any (fun j => j.lastIssue == (d w 0 0).now + 1) = false
    (turn 0 0 [16, 8, 9] = some 8 ∧ turn 7 0 [16, 9] = some 9 ∧ turn 7 1 [8, 16] = some 8) ∧
    ((d 0 0 0).engineTested 10 0 = false ∧ (d 0 0 0).lit = true ∧ ((d 0 0 0).block 0).island = .run) ∧
    (issues 0 ∧ (xferD (desc 0)).pooled = false ∧ (xferD (desc 0)).dir = 0) ∧ (issues 16 ∧ (xferD (desc 16)).dir = 1) ∧
    (let p (e : Nat) : Dev := { d (2 ^ 34) 0 0 with
       mem := memWrite 0 (memWrite 0 [] 4096 (layout 24 [(0, 8, 1 + 2 ^ 16 + 2 ^ 40), (8, 8, 8192), (16, 8, 8256)])) 8192 (leBytes 8 e)
       ctxs := [(0, { (default : Ctx) with state := .bound, pooldesc := 4096 })]
       blocks := [(0, { (default : Block) with
         island := .run, xfer := { (default : Xfer) with
           bulkQ := [inst (2 ^ 34) 0], tcache := if e = 0 then [] else [(0, some (BitVec.ofNat 64 e))] } })] }
     issues (2 ^ 34) ∧ (xferD (desc (2 ^ 34))).pooled = true ∧ (p 0).pool.busy = none ∧
       ((p 0).poolD 0).isSome = true ∧ ((xferD (desc (2 ^ 34))).pooledRef 0).isSome = true ∧
     (p 0).pooledLine 0 0 (xferD (desc (2 ^ 34))) 0 = .moving ∧ (p 2).pooledLine 0 0 (xferD (desc (2 ^ 34))) 0 = .invalid ∧
     (match (p 1).pooledLine 0 0 (xferD (desc (2 ^ 34))) 0 with
      | .at_ _ => true
      | _ => false) = true) ∧
    (∀ r ∈ ((d 0 0 0).creq 7).toList ++ ((d 0 0 0).creq 8).toList, (d 0 0 0).replyGoes r = true) ∧
    (∀ r ∈ ((d 0 0 0).creq 9).toList, (d 0 0 0).replyGoes r = false) ∧
    (∀ st ∈ [0, 1], ((d 0 0 st).creq 7).isSome = true ∧ ((d 0 0 st).xinst 0 1) = some (inst 0 0)) ∧
    ((d 0 1 0).xinst 0 1 = some (inst 0 1) ∧ (inst 0 1).replies = (xferD (desc 0)).lines) := by decide +kernel

/-- The next line of a slice, and another. -/
theorem test_meets_ThePatrolReadsEveryLineInTurn :
    let d : Dev := { litD with conc := { litD.conc with patrolAt := [(127, 3)] } }
    d.lit = true ∧ d.conc.patrolAt.get 127 = 3 ∧ d.conc.patrolAt.get 127 ≠ 4 ∧ 3 < sliceLines ∧ 0 < sliceLines := by decide +kernel

/-- A port in each phase and state, and link-up records for each outcome. -/
theorem test_meets_PortsTrainAndMask :
    let d (x : EPort) : Dev := { litD with elveel := { litD.elveel with devnum := 5, ports := [(17, x)] } }
    let r (gen sel dev id : Nat) : Bytes := withCrc (layout 60 [(0, 2, 0x454C), (2, 1, gen), (3, 1, 1), (4, 1, sel), (6, 2, dev), (16, 8, id)])
    let at_ (n : Nat) : EPort := { (default : EPort) with st := .training, phase := n, phaseAt := ten, records := if n = 4 then 1 else 0 }
    (∀ n ∈ [1, 2, 3, 4, 5, 6], (d (at_ n)).missed 17 = false ∧ (d { (at_ n) with phaseAt := 0 }).missed 17 = true) ∧
    (d default).mayTrain 17 = true ∧ ((d default).port 17).st = .down ∧ (d { (default : EPort) with st := .failed }).mayTrain 17 = true ∧
    (linkRecOk (r 1 0 7 9) = true ∧ linkRecOk (r 2 1 7 9) = true ∧ linkRecOk (r 0 1 7 9) = true ∧ linkRecOk (r 1 1 0x3FFF 9) = true
      ∧ linkRecOk (r 1 1 5 9) = true ∧ linkRecOk (r 1 1 7 0) = true) ∧
    ((d default).lit = true ∧ (d { (default : EPort) with st := .up }).lit = true ∧ 0 + second ≤ ten ∧
      ten < ({ (default : EPort) with failedAt := ten } : EPort).failedAt + second) ∧
    ((d { (at_ 4) with records := 0 }).port 17).records = 0 ∧ byte (r 2 0 7 9) 4 = 0 ∧ byte (r 0 0 7 9) 2 = 0 ∧ linkRecOk (r 0 0 7 9) = true ∧
    (fld (r 1 1 7 0) 16 8 = (d default).ident ∧ fld (r 1 1 7 9) 16 8 ≠ (d default).ident ∧ (d default).elveel.devnum ≠ 0x3FFF ∧
      fld (r 1 1 0x3FFF 9) 6 2 = 0x3FFF ∧ fld (r 1 1 5 9) 6 2 = (d default).elveel.devnum) := by decide +kernel

/-- Data flits at a port that is up and at one that is MGMT_ONLY: in order and not, of VC 0, 6 and 7, with a packet of 32 bytes; a control
flit that returns an ACK and credits; a flit with a reserved field set, below and above the threshold. -/
theorem test_meets_WireFlitsArriveInOrder :
    let d (n : Nat) (s : PState) : Dev := { litD with elveel := { litD.elveel with
      ports := [(0, { (default : EPort) with st := s, uncorr := n, uncorrAt := ten })] } }
    let f (h : Nat) : WireFlit := { okFlit with header := h }
    let one : WireFlit := { okFlit with payload := layout 256 [(0, 1, opBell)], header := 1 + 2 ^ 6 + 2 ^ 14 }
    ((d 0 .up).port 0).carries = true ∧ ((d 0 .mgmtOnly).port 0).st = .mgmtOnly ∧
    (∀ v ∈ [0, 6, 7], let g := f (1 + 4 * v)
     g.payload.length = 256 ∧ g.header < 2 ^ 72 ∧ g.fkind = 1 ∧ g.fec ≠ .uncorrectable ∧ g.bad = false ∧ g.ackv = false ∧ g.crcnt = 0 ∧
     g.nak = false ∧ g.vc = v ∧ g.seq = (((d 0 .up).port 0).rxSeq + 1) % 4096) ∧
    (f (1 + 2 ^ 22)).seq ≠ (((d 0 .up).port 0).rxSeq + 1) % 4096 ∧
    (one.payload.length = 256 ∧ one.vc = 0 ∧ pktLen (sub one.payload 0 32) = 32 ∧ (((d 0 .up).port 0).part.get 0) = none ∧
      ∀ i < 8, one.sop i = decide (i = 0) ∧ one.svalid i = decide (32 * i < 32)) ∧
    ((f (2 ^ 46 + 2 ^ 52)).fkind ≠ 1 ∧ (f (2 ^ 46 + 2 ^ 52)).bad = false ∧ (f (2 ^ 46 + 2 ^ 52)).ackv = true) ∧
    (f 3).bad = true ∧ (f (1 + 2 ^ 60)).bad = true ∧ 1 ≤ (d 0 .up).entry 0x4002 1 ∧ ten < ten + msec ∧
    (d ((d 0 .up).entry 0x4002 1) .up).entry 0x4002 1 < (d 0 .up).entry 0x4002 1 + 1 := by decide +kernel


/-- A peer that is UP and may do everything. -/
def upPeer : Peer := ⟨1, false, 0, true, true, true, true, true, true, 0, 0⟩
/-- A device with number 5, a route to device 7 over port 0, and an entry of its peer cache. -/
def meshD (p : Peer) : Dev := { litD with elveel := { litD.elveel with
  devnum := 5, routes := [(7, 0x20)], cache := [(7, p)]
  ports := [(0, { (default : EPort) with st := .up, full := (List.range 16).map fun i => (i, 9) })] } }
/-- The device with a packet at its port 0. -/
def rxD (p : Peer) (vc : Nat) (bs : Bytes) : Dev := (meshD p).modPort 0 fun x => { x with rx := [{ vc := vc, cls := 0, bytes := bs }] }
/-- Whether a routing sends. -/
def sends : Routed → Bool
  | .sent _ => true
  | _ => false

/-- Requests for the own device, for a peer in each state, and with the router's answers; entries that wait for a fill or for a reply. -/
theorem test_meets_RequestsLeaveByThePeerTable :
    let o (far op : Nat) : OutReq := { id := 0, src := .none, at_ := 0
                                       pkt := { (default : EPkt) with op := op, ddev := far, len := if op = 1 then 4 else 0 } }
    let d (st : Nat) (q : OutReq) : Dev := let m := meshD { upPeer with state := st }
      { m with elveel := { m.elveel with
        outq := [q], fills := [(3, true), (4, false)], txns := [{ tid := 1, at_ := 0, sinc := 0, ddev := 7, op := 1, src := .none }] } }
    (∀ far ∈ [5, 7, 8, 0x3FFF], let q := o far 1
      (d 1 q).elveel.outq.find? (fun x => x.id = 0) = some q ∧ (d 1 q).heldBack q = false ∧ isReply q.pkt.op = false ∧ (d 1 q).lit = true) ∧
    (let q := o 7 1
     (d 1 q).heldBack { q with id := 1 } = true ∧ (d 1 q).engineTested 7 0 = false ∧ (d 1 q).peerOf 8 = none ∧ (d 1 q).elveel.drain = .no ∧
     ∀ st ∈ [0, 1, 2, 3], (d st q).peerOf 7 = some { upPeer with state := st }) ∧
    (∀ op ∈ [opRunner, opBell], let q := o 7 op
      sends (((d 1 q).touchPeer 7).route ((d 1 q).selOf q) (((d 1 q).touchPeer 7).filled q 0 0)) = true) ∧
    (∀ tid ∈ [0, 1, 2 ^ 14], let q := o 7 opLoad
      sends (((d 1 q).touchPeer 7).route ((d 1 q).selOf q) (((d 1 q).touchPeer 7).filled q 0 tid)) = true) ∧
    (let q := o 8 opLoad
     sends ((d 1 q).route ((d 1 q).selOf q) ((d 1 q).filled q 0 0)) = false ∧ { (d 1 q) with elveel := { (d 1 q).elveel with drain := .draining } }.elveel.drain ≠ .no) ∧
    (∀ op ∈ [opLoadR, opGetR], let q := o 7 op
     isReply q.pkt.op = true ∧ q.port = none ∧ sends ((d 1 q).route ((d 1 q).selOf q) { q.pkt with aux := 0 }) = true ∧
       sends ((d 1 (o 8 op)).route ((d 1 (o 8 op)).selOf (o 8 op)) { (o 8 op).pkt with aux := 0 }) = false) ∧
    (let q := o 7 1
     (d 1 q).elveel.txns.find? (fun t => t.tid = 1) = (d 1 q).elveel.txns.head? ∧ 0 + (d 1 q).remTo < (d 1 q).now ∧
     (d 1 q).elveel.fills.find? (fun f => f.1 = 5) = none ∧ (d 1 q).peerOf 5 = none ∧
     (d 1 q).elveel.fills.find? (fun f => f.1 = 3) = some (3, true) ∧ (d 1 q).elveel.fills.find? (fun f => f.1 = 4) = some (4, false)) := by
  decide +kernel
/-- A transaction entry is free on a device that has none in use. -/
theorem test_meets_free_entries (d : Dev) (h : d.elveel.txns = []) : d.freeTids ≠ [] := by
  have m : 0 ∈ d.freeTids := by simp [Dev.freeTids, below, h]
  intro e; rw [e] at m; exact absurd m (by simp)

set_option maxRecDepth 40000 in
/-- A packet of each request that passes, is refused, waits for its sender's entry, or has another ECRC; replies. -/
theorem test_meets_PacketsFromPeersHaveTheirEffect :
    let e (op len addr : Nat) (pl : Bytes) : EPkt := { (default : EPkt) with
      op := op, ddev := 5, sdev := 7, len := len, addr := addr, payload := pl }
    let all : List EPkt := [e opLoad 4 0 [], e opStore 4 0 (zeros 4), e opAtomic 16 0 (zeros 16), e opLineadd 64 0 (zeros 64),
      e opPut 64 0 (zeros 64), e opGet 64 0 [], e opRunner 64 0 (zeros 64), e opBell 0 0 [], e opMgmt 24 0 (layout 24 [(3, 1, 1)])]
    (∀ x ∈ all ++ [e opStore 4 (2 ^ 62) (zeros 4), e opLoad 4 (2 ^ 63) []], let bs := x.bytes
      epktOf bs = x ∧ ecrcOk bs = true ∧ ((rxD upPeer 0 bs).takeRx bs).isSome = true ∧ (rxD upPeer 0 bs).checkArrival x false = none ∧
      ((rxD upPeer 0 bs).peerOf 7).isSome = true ∧ (rxD upPeer 0 bs).elveel.devnum = 5) ∧
    (∀ x ∈ all.take 6, x.shapeOk = true) ∧ (e opLoad 5 0 []).shapeOk = false ∧
    (∀ x ∈ [e opStore 4 (2 ^ 62) (zeros 4), e opRunner 64 0 (zeros 64)], ∃ q, x.brings = some q ∧ (rxD upPeer 0 x.bytes).gridRoom q = true ∧
      ((rxD upPeer 0 x.bytes).modInbuf 0 2 0 fun _ => [q, q, q, q]).gridRoom q = false) ∧
    (let x := e 0x3F 0 0 []
     epktOf x.bytes = x ∧ ecrcOk x.bytes = true ∧ isRequest x.op = false ∧ isReply x.op = false ∧ (rxD upPeer 0 x.bytes).engineTested 7 0 = false) ∧
    (let x := e opMgmt 24 0 (layout 24 [(3, 1, 1)])
     let d := (rxD upPeer 6 x.bytes).modPort 0 fun y => { y with st := .mgmtOnly }
     (d.port 0).st = .mgmtOnly ∧ d.checkArrival x true = none ∧ d.checkArrival { x with addr := 2 ^ 63 + 2 ^ 62 } true = some stUnmapped ∧
       x.payload.length = x.len) ∧
    (let x := e opMgmt 8 0 (layout 8 [(3, 1, 1)])
     x.len < 16 ∧ (rxD upPeer 0 x.bytes).checkArrival x false = none) ∧
    ((indexKnown 0x2001 && (entryInfo 0x2001 1).isSome) = true ∧ (e opLoad 4 (2 ^ 63) []).payload = []) ∧
    (let x := e opLoad 4 0 []
     (rxD { upPeer with memr := false } 0 x.bytes).checkArrival x false = some stPeerDenied ∧
     (rxD upPeer 0 x.bytes).checkArrival { x with sdev := 8 } false = none ∧ (rxD upPeer 0 x.bytes).peerOf 8 = none ∧
     ecrcOk (splice x.bytes 16 [1]) = false ∧ ((rxD upPeer 0 x.bytes).port 0).st ≠ .mgmtOnly) ∧
    (∀ op ∈ [opLoadR, opComp, opAtomR, opGetR, opMgmtR], let x := { e op 0 0 [] with tid := 3 }
      epktOf x.bytes = x ∧ ecrcOk x.bytes = true ∧ x.fieldsOk = true ∧ ((rxD upPeer 1 x.bytes).takeRx x.bytes).isSome = true ∧
      { x with hops := 64 }.fieldsOk = false ∧
      (let t : Txn := { tid := 3, at_ := 0, sinc := 0, ddev := 7, op := opLoad, src := .none, late := some 0 }
       [t].find? (fun y => y.tid = x.tid ∧ replyOp y.op == opLoadR) = some t ∧ 0 < (rxD upPeer 1 x.bytes).now)) ∧
    (∀ p ∈ [(opLoad, opLoadR), (opStore, opComp), (opAtomic, opAtomR), (opGet, opGetR), (opMgmt, opMgmtR)], replyOp p.1 = p.2) := by
  decide +kernel

/-- A packet in transit whose output carries, one without a usable candidate, one at the hop limit. -/
theorem test_meets_TransitPacketsAreForwarded :
    let x (dev hops : Nat) : EPkt := { (default : EPkt) with op := opBell, ddev := dev, sdev := 9, hops := hops }
    let d (dev hops : Nat) : Dev := rxD upPeer 0 (x dev hops).bytes
    let q (dev hops : Nat) : RxPkt := { vc := 0, cls := 0, bytes := (x dev hops).bytes }
    (∀ h ∈ [0, 30, 31], (d 7 h).transits 0 = [q 7 h] ∧ (epktOf (q 7 h).bytes).hops = h) ∧
    ((d 7 0).pickRoute 0 (x 7 0)).isSome = true ∧ (d 8 0).transits 0 = [q 8 0] ∧ (d 8 0).pickRoute 0 (x 8 0) = none ∧
    (d 7 0).lit = true ∧ (d 7 0).engineTested 7 0 = false ∧ litD.transits 0 = [] := by decide +kernel

/-- DRAIN with a seated context and without, the states of draining, and UNDRAIN in and out of DRAINED. -/
theorem test_meets_DrainingLeavesAndReturns :
    let d (op : Nat) (s : CState) (w : Drain) : Dev := withEntry 64 op [] { lotD 1 [] with
      ctxs := [(0, { (default : Ctx) with state := s })]
      elveel := { litD.elveel with drain := w, ports := [(17, { (default : EPort) with st := .up, routeClear := true })] } }
    (d 7 .bound .no).ctxs.any (fun x => x.2.seated) = true ∧ (d 7 .defined .no).ctxs.any (fun x => x.2.seated) = false ∧
    ((d 7 .defined .no).port 17).st = .up ∧ (d 7 .defined .draining).elveel.drain = .draining ∧ (d 7 .defined .draining).drainReady = true ∧
    (∀ q < 18, ((d 7 .defined .draining).port q).st = .up → ((d 7 .defined .draining).port q).routeClear = true) ∧
    (d 7 .defined .draining).elveel.lastTransit + 100 * usec ≤ ten ∧ (d 7 .defined .draining).elveel.txns = [] ∧
    ((d 8 .defined .drained).port 17).routeClear = true ∧
    (∀ op ∈ [7, 8], (d op .defined .no).mayStart mgmtRing op (entryOf op []) []) ∧
    (d 8 .defined .drained).elveel.drain = .drained ∧ (d 8 .defined .no).elveel.drain ≠ .drained ∧ (d 7 .bound .no).lit = true := by
  unfold Dev.mayStart; decide +kernel

/-! ### Collectives, contexts and Lots -/

/-- A descriptor of an ALLGATHER of one member, whose CTRL word stands at 16,384. -/
def gather1 : Bytes := layout 128 [(0, 8, 0x31), (16, 8, 8192), (24, 8, 12288), (32, 8, 64), (48, 8, 16384), (64, 8, 20480)]
/-- A state with that descriptor at index 0 of context 0's table and its group of the own device. -/
def collMemD (ctrl : Bytes) (d : Dev) : Dev := { d with
  mem := memWrite 0 (memWrite 0 (memWrite 0 [] 4096 gather1) 8192 [0xFF, 0x3F]) 16384 ctrl
  ctxs := [(0, { (default : Ctx) with state := .bound, colltab := 4096 })] }

/-- A collective of one member that is over. -/
def coll1 : Coll := { uid := 1, ctx := 0, didx := 0, desc := gather1, step := 0, started := 0, done_ := true, limit := 5 }
/-- A device with COLL_START of descriptor k fetched, latches of descriptors 0 and 9, and some collectives. -/
def collStartD (ctrl : Bytes) (act : Tab Coll) (k : Nat) : Dev := withEntry 0 0x17 [(8, 2, k)]
  { collMemD ctrl (lotD 1 []) with coll := { (default : CollEng) with active := act, latches := [(0, 0), (0, 9)] } }
/-- The same with a start of descriptor k waiting. -/
def collWaitD (k : Nat) : Dev := { collStartD [] [] 0 with coll := { (default : CollEng) with waiting := [(0, k, 5, none)] } }
/-- A device with a descriptor of TRIG 10 and a row of it offered. -/
def collRowD : Dev := { (runD 1 []) with
  mem := memWrite 0 [] 4096 (splice gather1 3 [BitVec.ofNat 8 8])
  ctxs := [(0, { (default : Ctx) with state := .bound, colltab := 4096 })]
  stalls := [(0, { (default : Stall) with
    seq := .running, len := 100, jobs := [{ (default : Job) with op := .mma, phase := .epiWriting, sends := [(0, 0, 0, [])] }] })] }

set_option synthInstance.maxSize 1000 in
/-- COLL_START of an accepted descriptor, of one that is not and of one that is active, with a slot and without; a latch; a collective that
is over, aborted, or late. -/
theorem test_meets_CollectivesStartAndEnd :
    let free := collStartD [] [] 0
    let full : Dev := { free with service := { litD.service with tests := [{
      id := 1, uclass := 9, unit := 0, running := true, ekind := 0, logSeq := 0, ctxs := [] }] } }
    let act := collStartD [] [(3, coll1)] 0
    let abort := collStartD (leBytes 8 (2 ^ 63)) [(3, coll1)] 0
    let late : Coll := { coll1 with sends := [{ (default : Piece) with since := some 0 }] }
    (∀ p ∈ [(free, 0), (full, 0), (act, 0), (collStartD [] [] 9, 9)],
      p.1.mayStart 0 0x17 (entryOf 0x17 [(8, 2, p.2)]) [] ∧ p.1.ringCtx 0 = some 0) ∧
    (free.collAccepts 0 0 = true ∧ free.collActive 0 0 = false ∧ free.coll.waiting = [] ∧ (collStartD [] [] 9).collAccepts 0 9 = false ∧
      act.collActive 0 0 = true ∧ free.collRoom 0 (collD gather1) = true ∧ full.collRoom 0 (collD gather1) = false) ∧
    ((free.ctx 0).state = .bound ∧ free.lit = true ∧ (∀ k ∈ [0, 9], free.coll.latches.contains (0, k) = true) ∧ free.collSlot = some 0 ∧
      free.coll.again.contains (0, 0) = false ∧ bit ((collStartD (leBytes 8 (2 ^ 63)) [] 0).sigVal (collD gather1) 0) 63 = true) ∧
    (act.collAt 3 = some coll1 ∧ act.collAt 4 = none ∧ act.collOver coll1 = true ∧ act.collOver { coll1 with done_ := false } = false ∧
      bit (act.sigVal (collD gather1) 0) 63 = false ∧ bit (abort.sigVal (collD gather1) 0) 63 = true ∧
      (act.collWaits late).find? (fun w => w.1 + late.limit < act.now) = some (0, 0, 0) ∧ act.collWaits coll1 = []) := by
  unfold Dev.mayStart; decide +kernel
set_option synthInstance.maxSize 1000 in
/-- A start that waits, of a descriptor that is accepted and of one that is not; a row that is offered. -/
theorem test_meets_waiting_starts :
    (∀ k ∈ [0, 9], (collWaitD k).coll.waiting.find? (fun w => w.1 = 0 ∧ w.2.1 = k) = some (0, k, 5, none)
      ∧ (collWaitD k).collAccepts 0 k = decide (k = 0)
      ∧ (collWaitD k).collRoom 0 (collD ((collWaitD k).memAt ((collWaitD k).collOff 0 k) 128)) = true) ∧
    ((collD (collRowD.memAt (collRowD.collOff 0 0) 128)).trig = 2 ∧ collRowD.collActive 0 0 = false ∧ collRowD.rowOffered 0 0 = true) := by
  decide +kernel
/-- A wait for the reply of a PUT. -/
theorem test_meets_put_wait :
    let t : Txn := { tid := 0, at_ := 0, sinc := 0, ddev := 7, op := opPut, src := .collPut 1 0 }
    ∀ q ∈ [t], q.src = .collPut 1 0 := by decide

/-- An ALLREDUCE of two members, of rank 0, STRICT or not, of 128 FP32 elements. -/
def reduce2 (strict : Nat) : Bytes := layout 128 [(0, 8, 0x11 + 2 ^ 22 * strict), (8, 8, 1), (16, 8, 8192), (32, 8, 128), (40, 8, 32768),
  (48, 8, 16384), (64, 8, 20480)]

/-- A piece that may go, one whose COMPs are in, a signal that has advanced, in the tree and in the ring; rows in order and not. -/
theorem test_meets_PiecesAndSignalsGoInOrder :
    let p (st : Nat) : Piece := { (default : Piece) with src := .mem 0, dst := .mem 0, bytes := 64, rank := 1, state := st }
    let desc : Bytes := splice gather1 32 (leBytes 8 64)
    let x (st : Nat) : Coll := { uid := 1, ctx := 0, didx := 0, desc := desc, step := 0, started := 0, sends := [p st], group := [0x3FFF, 7] }
    let row (at_ : Nat) : CRow := { ctx := 0, didx := 0, row := 0, col := at_, fmt := 0, data := zeros 128 }
    let d (st at_ data : Nat) : Dev := { collMemD (zeros 16 ++ leBytes 8 data) (lotD 1 []) with
      coll := { (default : CollEng) with active := [(3, x st)], rows := [row at_] } }
    let may (d : Dev) (x : Coll) (p : Piece) : Bool := p.state == 0 && x.dataReady p && decide (p.credit ≤ d.sigVal (collD desc) 1)
      && decide (p.data ≤ d.sigVal (collD desc) 2)
    let y (strict : Nat) (hv : Bool) (left : Nat) : Coll := { (x 0) with
      desc := reduce2 strict, sends := [], have_ := if hv then [(0, 0)] else [], left_ := left }
    let g (strict : Nat) (hv : Bool) (left data w : Nat) : Dev := {
      collMemD (zeros 16 ++ leBytes 8 data ++ zeros 16 ++ leBytes 8 w) (lotD 1 []) with
      coll := { (default : CollEng) with active := [(3, y strict hv left)] } }
    ((d 0 0 0).collAt 4 = none ∧ (d 0 0 0).lit = true ∧ ({ (d 0 0 0) with power := default } : Dev).lit = false) ∧
    ((d 0 0 0).collAt 3 = some (x 0) ∧ (x 0).sends.findIdx? (may (d 0 0 0) (x 0)) = some 0 ∧ (x 2).sends.findIdx? (may (d 2 0 0) (x 2)) = none
      ∧ (p 0).src = .mem 0) ∧
    ((x 2).signalNext = some 0 ∧ (x 0).signalNext = none) ∧
    ((d 0 0 0).sigVal (collD desc) 2 ≤ (x 0).used.get 2 ∧ (x 0).used.get 2 < (d 0 0 1).sigVal (collD desc) 2 ∧
      (d 0 0 1).collRing 0 (collD desc) = false) ∧
    -- The ring: a step whose own input stands, one whose input does not, and a signal that no step is left for.
    (∀ hv, (g 0 hv 1 1 0).collRing 0 (collD (reduce2 0)) = true ∧ 0 < (y 0 hv 1).ringGot (collD (reduce2 0)) ∧
      (y 0 hv 1).have_.contains ((0 + 2 * 2 - 0 - 2) % 2, 0) = hv ∧ (y 0 hv 1).used.get 2 < (g 0 hv 1 1 0).sigVal (collD (reduce2 0)) 2) ∧
    (let z : Coll := { (y 0 true 1) with ringIn := 1 }
     z.ringGot (collD (reduce2 0)) ≤ 1 ∧ 0 < (g 0 true 1 1 0).sigVal (collD (reduce2 0)) 2 ∧ 1 ≤ 0 - 1 + z.ringGot (collD (reduce2 0)) ∧
       0 - 1 + z.ringGot (collD (reduce2 0)) < (g 0 true 1 2 0).sigVal (collD (reduce2 0)) 2) ∧
    -- The tree: a merge whose own operand stands, and one whose does not.
    (∀ hv, (g 1 hv 0 0 1).collRing 0 (collD (reduce2 1)) = false ∧ (collD (reduce2 1)).reduces = true ∧ 5 < 3 + 4 * (collD (reduce2 1)).n ∧
      (y 1 hv 0).used.get 5 < (g 1 hv 0 0 1).sigVal (collD (reduce2 1)) 5 ∧
      (List.range (treeLevels 2)).find? (fun k => k % 2 == 0 && treeMerges 2 k 0 && treeHolder (treeBlock 2 (k + 1) 0) 0 == 0
        && !(y 1 hv 0).have_.contains (0, k + 1) && !(y 1 hv 0).adding (0, k + 1)) = some 0 ∧
      treeHolder (treeHalves 2 0 0).1 0 = 0 ∧ treeHolder (treeHalves 2 0 0).2 0 = 1 ∧ (collD (reduce2 1)).pieceWord 0 1 0 = 5 ∧
      (y 1 hv 0).have_.contains (0, 0) = hv ∧ (collD (reduce2 1)).rop = 0) ∧
    (∀ a ∈ [0, 1, 64], (d 0 a 0).coll.rows.find? (fun y => y.ctx == 0 && y.didx == 0 && y.job.isNone) = some (row a) ∧
      (d 0 a 0).coll.active.find? (fun y => y.2.ctx == 0 && y.2.didx == 0) = some (3, x 0)) ∧
    (0 % 32 = 0 ∧ 0 + 32 ≤ (collD desc).count ∧ (x 0).rowsIn.get 0 < (collD desc).chunk / 32 ∧ 1 % 32 ≠ 0 ∧ (collD desc).count < 64 + 32 ∧
      (collD desc).chunk / 32 ≤ ({ (x 0) with rowsIn := [(0, 2)] } : Coll).rowsIn.get 0) := by
  decide +kernel

/-- LOT_FORM of a word that is in order and not, of a Lot that is used, and of one that overlaps; LOT_RELEASE in each state. -/
theorem test_meets_LotsFormAndAreReleased :
    let word (x : Nat) : Nat := x + 2 ^ 12 + 2 ^ 20
    let form (k w : Nat) : Dev × Cmd := (withEntry 64 0x01 [(8, 1, k), (16, 8, w)] (lotD 1 []), entryOf 0x01 [(8, 1, k), (16, 8, w)])
    let rel (st : Nat) (seat : Option Nat) : Dev := withEntry 64 0x02 [] { lotD 1 [] with
      lots := [(0, { (default : Lot) with x0 := 0, y0 := 0, width := 1, height := 1, state := st, seat0 := seat, relAt := 0 })]
      power := { litD.power with dstate := .run } }
    (∀ p ∈ [(0, word 1), (1, word 0), (1, word 1), (63, word 47), (1, 0)], (form p.1 p.2).1.mayStart 64 0x01 (form p.1 p.2).2 []) ∧
    (lotWordOk 0 = false ∧ lotWordOk (word 47) = true ∧ ((form 0 (word 1)).1.lot 0).state ≠ 0 ∧ ((form 1 (word 0)).1.lot 1).state = 0 ∧
      (form 1 (word 0)).1.lots.any (fun p => p.2.state != 0 && p.2.overlaps (lotOfWord (word 0))) = true ∧
      (form 1 (word 1)).1.lots.any (fun p => p.2.state != 0 && p.2.overlaps (lotOfWord (word 1))) = false) ∧
    (∀ p ∈ [(2, some 0), (2, none), (1, none)], (rel p.1 p.2).mayStart 64 0x02 (entryOf 0x02 []) [] ∧ ((rel p.1 p.2).lot 0).state = p.1) ∧
    (((rel 3 none).lot 0).state = 3 ∧ ((rel 3 none).lot 0).relAt + 20 * usec ≤ (rel 3 none).now ∧ (rel 3 none).power.dstate = .run ∧
      ten < (rel 3 none).now + 1 ∧ ((rel 2 none).lot 0).state ≠ 3 ∧
      (∀ n ∈ ((rel 3 none).lot 0).rect.flatMap fourOf, ((rel 3 none).chest n).ports = []) ∧
      (((rel 3 none).lots.set 0 {}).all fun p => p.2.state == 0) = true) := by
  unfold Dev.mayStart; decide +kernel

/-- A context in each state, its commands, and a teardown that is finished. -/
theorem test_meets_ContextsMoveThroughTheirStates :
    let d (op : Nat) (st : CState) (seat : Option Nat) (tear : Bool) : Dev := withEntry 64 op [] { lotD 1 [] with
      ctxs := [(0, { (default : Ctx) with state := st })]
      lots := (lotD 1 []).lots.map fun p => (p.1, { p.2 with seat0 := seat })
      teardowns := if tear then [⟨0, 0, true⟩] else []
      mem := memWrite 0 [] 0 [1] }
    (∀ op ∈ [3, 4, 5, 6], ∀ st ∈ [CState.free, .defined, .bound, .faulted], (d op st none false).mayStart 64 op (entryOf op []) []) ∧
    (((d 3 .bound none false).ctx 0).seated = true ∧ ((d 3 .free none false).ctx 0).seated = false ∧
      ctxImageOk ((d 3 .free none false).memAt 0 256) = true ∧ ctxImageOk (zeros 256) = false ∧ 0 + 256 ≤ jobEnd) ∧
    ((d 4 .defined none false).bindReason 0 0 0 = 0 ∧ (d 4 .defined (some 5) false).bindReason 0 0 0 = 2 ∧
      (List.range 64).find? (fun r => !((d 4 .defined none false).ring r).live) = some 1) ∧
    (let g : Dev := { (d 4 .defined (some 5) false) with ctxs := [(0, { (default : Ctx) with state := .defined }), (5, { (default : Ctx) with state := .bound })] }
     g.bindReason 0 0 1 = 0 ∧ (g.lot 0).seat (1 - 1) = some 5 ∧ (g.lot 0).promote = false) ∧
    (let g : Dev := { (d 4 .defined none false) with rings := (List.range 65).map fun r => (r, { (default : PRing) with live := true }) }
     g.bindReason 0 0 0 = 0 ∧ (List.range 64).find? (fun r => !(g.ring r).live) = none) ∧
    (let g : Dev := { (d 5 .bound (some 0) false) with lots := (d 5 .bound (some 0) false).lots.map fun p => (p.1, { p.2 with
       bstate := .ready, back := { (default : LotShelf) with kind := 1, ctx := 0 } }) }
     (g.lot 0).front.kind ≠ 0 ∧ (g.lot 0).front.ctx = 0 ∧ (g.lot 0).bstate ≠ .empty ∧ (g.lot 0).back.ctx = 0) ∧
    (((d 5 .bound none true).unbindBusy 0 = true) ∧ (d 5 .bound none false).unbindBusy 0 = false ∧ ((d 5 .bound none false).ctx 0).ring ≠ mgmtRing) ∧
    (∀ t ∈ [true, false], ((d 6 .faulted none t).teardowns.any fun y => y.ctx == 0) = t) ∧
    ((d 6 .faulted none true).teardowns.any (fun t => t.ctx == 0 && t.step4) && (d 6 .faulted none true).resolved 0) = true ∧
    -- A context that is BOUND, and one that is not, for the statement on faults.
    ((d 3 .bound none false).ctx 0).state = .bound ∧ ((d 3 .free none false).ctx 0).state ≠ .bound := by
  unfold Dev.mayStart; decide +kernel

/-! ### Shelves, runs, tasks and windows -/

/-- The Lot changed. -/
def withLot (f : Lot → Lot) (d : Dev) : Dev := { d with lots := d.lots.map fun p => (p.1, f p.2) }
/-- A running command of ring 0. -/
def runs (op aux : Nat) (fs : List (Nat × Nat × Nat)) (d : Dev) : Dev :=
  d.modRing 0 fun x => { x with running := [{ id := 7, entry := (entryOf op fs).entry, since := 0, aux := aux }] }
/-- A laid image of no frames for a Lot of one block: the header, an envelope record whose first byte is given, and the trailer. -/
def imageOf (env : Nat) : Bytes :=
  let head : Bytes := layout 192 [(0, 4, 0x464C4853), (4, 1, 1), (5, 1, 1), (8, 1, 1), (9, 1, 1), (12, 4, 208), (16, 1, 1), (17, 1, 1), (18, 2, 9),
    (40, 4, 128), (44, 4, 128), (48, 4, 128), (52, 4, 128), (56, 4, 128), (60, 4, 192), (128, 1, env)]
  let body := splice head 64 (sha384 [])
  body ++ layout 16 [(0, 4, 0x524C5254), (4, 4, (crc32c body).toNat)]
/-- One whose envelope record is accepted. -/
def image0 : Bytes := imageOf 1

/-- A Lot of one block with the image at 65,536 and a command that loads it, of a length; a back shelf that another context has. -/
def loadD (len : Nat) (busy : Bool) : Dev :=
  let back (l : Lot) : Lot := { l with
    front := {}, back := if busy then { (default : LotShelf) with kind := 1, ctx := 5 } else {}, bstate := if busy then .ready else .empty }
  { runs 0x10 0 [(8, 8, 65536), (16, 4, len)] (withLot back (lotD 1 [])) with loadQ := [(0, 7)], mem := memWrite 0 [] 65536 image0 }

/-- LOAD_SHELF; a load that starts and is refused at each of the first checks; a back shelf that is loaded, and one whose preloads are
done. -/
theorem test_meets_ShelvesLoad :
    let h := ihdr image0
    let twice := (loadD 208 false).modRing 0 fun x => { x with running := x.running ++ [{ id := 3, entry := (entryOf 0x11 []).entry, since := 0 }] }
    let back (st : BState) (ld : Option (Nat × Nat)) : Dev := { withLot (fun l => { l with
        bstate := st
        back := { (default : LotShelf) with kind := 1, ctx := 0, blocks := [(0, shelfOf 8 (layout 64 [(0, 8, 2 ^ 9 * 3)]))] } })
      (loadD 208 false) with loading := ld }
    (withEntry 0 0x10 [] (lotD 1 [])).mayStart 0 0x10 (entryOf 0x10 []) [] ∧
    ((∀ len ∈ [208, 0], ((loadD len false).ring 0).cmd 7 = ((loadD len false).ring 0).running.head?) ∧ (loadD 208 false).ringCtx 0 = some 0 ∧
      ((loadD 208 false).ctx 0).lot = 0 ∧ (loadD 208 false).loading = none) ∧
    (headCheck ((loadD 208 false).lot 0) 65536 208 h = none ∧ headCheck ((loadD 208 false).lot 0) 65536 0 h = some 1) ∧
    ((loadD 208 false).ownsBack 0 0 = true ∧ (loadD 208 true).ownsBack 0 0 = false ∧ ((loadD 208 false).ring 0).loadBusy 7 = false ∧
      (twice.ring 0).loadBusy 7 = true) ∧
    ((back .loading (some (0, 7))).loading = some (0, 7) ∧ (back .loading none).ringLot 0 = some 0 ∧
      (back .loading none).loadWoken ((back .loading none).lot 0) = true ∧ 0 ∈ ((back .loading none).lot 0).rect ∧
      ((back .loading none).block 0).island ≠ .off) ∧
    ((back .loading none).loading = none ∧ (back .ready (some (0, 7))).loading = some (0, 7) ∧ ((back .ready (some (0, 7))).lot 0).bstate ≠ .loading) ∧
    (((back .loaded none).lot 0).bstate = .loaded ∧ ((withEntry 0 0x10 [] (lotD 1 [])).runningOp 0 0x10) = none ∧ (∀ b ∈ ((back .loaded none).lot 0).rect, ((back .loaded none).block b).xfer.preWait = []) ∧
      ((back .loaded none).runningOp 0 0x10).isSome = true) := by
  unfold Dev.mayStart; decide +kernel
set_option maxRecDepth 40000 in
/-- An image that passes every check, one whose trailer does not, and one whose envelope record does not. -/
theorem test_meets_image :
    let b := (loadD 208 false).loseBack 0
    (loadD 208 false).memAt 65536 208 = image0 ∧ trailCheck b (ihdr image0) image0 = none ∧ bodyCheck b (readImg b 0 0 image0) true = none ∧
    (trailCheck b (ihdr image0) (splice image0 196 (leBytes 4 0))).isSome = true ∧ trailCheck b (ihdr (imageOf 0)) (imageOf 0) = none ∧
    (bodyCheck b (readImg b 0 0 (imageOf 0)) true).isSome = true := by
  decide +kernel

/-- SWAP_SHELF of each scope, with the back shelf EMPTY, READY, and of the other scope; a swap in its turn and before it; a demand swap. -/
theorem test_meets_ShelvesSwap :
    let d (scope : Nat) (st : BState) (pitch : Option Nat) : Dev := withEntry 0 0x11 [(8, 1, scope)] (withLot (fun l => { l with
      bstate := st, back := { (default : LotShelf) with kind := 1, ctx := 0, partialPitch := pitch } }) (lotD 1 []))
    let q (start : Nat) (cmd ctx pitch : Option Nat) : Dev := withLot (fun l => { l with swapReq := some ⟨pitch, cmd, start, ctx⟩ })
      (d 0 .ready none)
    let dem : Dev := withEntry 1 0x12 [(12, 4, 1)] { withLot (fun l => { l with
        seat1 := some 1, bstate := .ready, back := { (default : LotShelf) with kind := 1, ctx := 1 } }) (lotD 1 []) with
      ctxs := [(0, { (default : Ctx) with state := .bound }), (1, { (default : Ctx) with state := .bound, seat := 1, ring := 1 })]
      rings := [(0, { (default : PRing) with live := true, ctx := some 0 }), (1, { (default : PRing) with live := true, ctx := some 1 })] }
    (∀ sc ∈ [0, 1], ∀ st ∈ [BState.empty, .ready], ∀ p ∈ [none, some 0x900], let g := d sc st p
      g.mayStart 0 0x11 (entryOf 0x11 [(8, 1, sc)]) [] ∧ g.ringCtx 0 = some 0 ∧ (g.ctx 0).lot = 0 ∧ (g.lot 0).bstate = st ∧
      (g.ring 0).running = [] ∧ ((g.ctx 0).cyclic && g.tooLong (g.lot 0) 0 (entryOf 0x11 [(8, 1, sc)]).entry) = false ∧
      g.mayOccupy 0 (entryOf 0x11 [(8, 1, sc)]).entry = true) ∧
    (let g := d 0 .loading none
     (g.lot 0).bstate ≠ .empty ∧ ((g.lot 0).bstate == .ready && g.mayOccupy 0 (entryOf 0x11 [(8, 1, 0)]).entry) = false) ∧
    (let g : Dev := { withLot (fun l => { l with
         cyc := some ⟨100, 1, [⟨0, 0, 0, 1⟩]⟩, back := { l.back with beat := 10000 }, bstate := .ready, beat := { l.beat with len := 10000 } })
         (d 0 .ready none) with ctxs := [(0, { (default : Ctx) with state := .bound, cyclic := true })] }
     ((g.ctx 0).cyclic && g.tooLong (g.lot 0) 0 (entryOf 0x11 [(8, 1, 0)]).entry) = true) ∧
    ((q ten none none none).swapTurn ((q ten none none none).lot 0) ten = true ∧
      (q (ten + 1) none none none).swapTurn ((q (ten + 1) none none none).lot 0) (ten + 1) = false ∧
      ((q ten (some 7) (some 0) (some 0x900)).lot 0).swapReq = some ⟨some 0x900, some 7, ten, some 0⟩) ∧
    ((dem.lot 0).other = some 1 ∧ (dem.ctx 1).cyclic = false ∧ dem.occReady 1 = true ∧ (dem.lot 0).back.ctx = 1 ∧ (dem.lot 0).swapReq = none ∧
      dem.swapTurn (dem.lot 0) dem.now = true ∧ (dem.lot 0).owner = some 0 ∧ (dem.ctx 0).state = .bound ∧ dem.occFlight 0 = false ∧
      dem.occReady 0 = false) := by
  unfold Dev.mayStart; decide +kernel

/-- LAUNCH of a laid run on a laid front and on another, a beat that is due and one that is not, a run that is over and one that is not,
and a member that is late. -/
theorem test_meets_LaidRunsTakeTheirBeats :
    let x : Shelf := { (default : Shelf) with orders := [(0, order 0x70 0)], regions := [(0, BitVec.ofNat 64 (2 ^ 33))] }
    let d (kind credit : Nat) (ready : Bool) : Dev := { withShelf x (withLot (fun l => { l with
        credit := credit, beat := { (default : BeatCtl) with active := true, len := 9 } }) (lotD kind [])) with
      stalls := [(0, { (default : Stall) with ready := ready, readyAt := 5 })] }
    let e : List (Nat × Nat × Nat) := [(12, 4, 3)]
    (∀ kind ∈ [1, 2], let g := withEntry 0 0x12 e (d kind 0 true)
      g.mayStart 0 0x12 (entryOf 0x12 e) [] ∧ g.ringCtx 0 = some 0 ∧ (g.ctx 0).lot = 0 ∧ isTask (entryOf 0x12 e).entry = false ∧
      ((g.ctx 0).cyclic && g.tooLong (g.lot 0) 0 (entryOf 0x12 e).entry) = false ∧ g.mayOccupy 0 (entryOf 0x12 e).entry = true ∧
      g.lotTesting (g.lot 0) = false ∧ (g.lot 0).front.kind = kind) ∧
    ((d 1 2 true).mayBeat ((d 1 2 true).lot 0) = true ∧ (d 1 0 true).mayBeat ((d 1 0 true).lot 0) = false ∧ ((d 1 2 true).lot 0).swapReq = none) ∧
    ((runs 0x12 1 e (d 1 0 true)).runOver ((d 1 0 true).lot 0) = true ∧ (runs 0x12 1 e (d 1 2 true)).runOver ((d 1 2 true).lot 0) = false ∧
      (((runs 0x12 1 e (d 1 0 true)).ring 0).running.find? (fun y => opcodeOf y.entry = 0x12 && !isTask y.entry)).isSome = true) ∧
    (((d 1 2 false).lot 0).members.find? (fun n => !((d 1 2 false).stall n).ready) = some 0 ∧
      max ((d 1 2 false).lot 0).beat.start ((d 1 2 false).lot 0).swapTime + ((d 1 2 false).lot 0).beat.ssto < (d 1 2 false).now ∧
      ((d 1 2 true).lot 0).members.find? (fun n => !((d 1 2 true).stall n).ready) = none) ∧
    ((d 1 2 true).laidRun 0 = none ∧ ((runs 0x12 1 e (d 1 0 true)).laidRun 0).any (fun q => q.aux != 0) = true ∧
      ((runs 0x12 0 e (d 1 0 true)).laidRun 0).any (fun q => q.aux == 0) = true) ∧
    (let g : Dev := withEntry 0 0x12 e { withLot (fun l => { l with cyc := some ⟨100, 1, [⟨0, 0, 0, 1⟩]⟩ }) (d 1 0 true) with
       ctxs := [(0, { (default : Ctx) with state := .bound, cyclic := true })] }
     ((g.ctx 0).cyclic && g.tooLong (g.lot 0) 0 (entryOf 0x12 [(12, 4, 2 ^ 20)]).entry) = true ∧
       (g.mayOccupy 0 (entryOf 0x12 e).entry && !g.lotTesting (g.lot 0)) = false) := by
  unfold Dev.mayStart; decide +kernel

set_option maxRecDepth 40000 in
/-- LAUNCH of a tile task with a target and without, its placement, its start, and its END. -/
theorem test_meets_TileTasksRunOnTheirTarget :
    let e (unit : Nat) : List (Nat × Nat × Nat) := [(8, 1, 1), (10, 1, 1), (24, 2, unit)]
    let k : TaskKind := ⟨0, [], [], [], 0⟩
    let base : Dev := withLot (fun l => { l with front := { l.front with tasks := [k] } }) (lotD 2 [])
    let t (st : Nat) : TaskSlot := { (default : TaskSlot) with state := st, kind := 0 }
    let d (st : Nat) (stop : List Job) (isl : Island) (task : Option Nat) : Dev := { base with
      tasks := [(0, t st)], blocks := [(0, { (default : Block) with island := isl })]
      stalls := [(0, { (default : Stall) with seq := .running, ended := true, jobs := stop, task := task })] }
    let busy : Dev := runs 0x12 0 (e 0) (d 2 [] .run (some 0))
    let idle : Dev := runs 0x12 0 (e 0) base
    (∀ u ∈ [0, 2303], let g := withEntry 0 0x12 (e u) base
      g.mayStart 0 0x12 (entryOf 0x12 (e u)) [] ∧ isTask (entryOf 0x12 (e u)).entry = true ∧ (g.ctx 0).state = .bound ∧
      ((g.ctx 0).cyclic && g.tooLong (g.lot 0) 0 (entryOf 0x12 (e u)).entry) = false ∧ (g.ctx 0).seat = (g.lot 0).fseat ∧
      (if (g.ctx 0).cyclic then g.inWindow (g.lot 0) (g.ctx 0).seat 0 else !g.quantumUp (g.lot 0)) = true ∧ g.lotTesting (g.lot 0) = false ∧
      g.badTarget (g.lot 0) (entryOf 0x12 (e u)).entry = decide (u = 2303)) ∧
    (idle.placeTurn 0 = true ∧ idle.lit = true ∧ (idle.ctx 0).cyclic = false ∧ base.unplaced 0 = none) ∧
    (let g : Dev := { withLot (fun l => { l with cyc := some ⟨100, 1, [⟨0, 0, 0, 1⟩]⟩, front := { l.front with tasks := [{ k with region := BitVec.ofNat 64 (2 ^ 48 * 9999) }] } })
       (withEntry 0 0x12 (e 0) base) with ctxs := [(0, { (default : Ctx) with state := .bound, cyclic := true })] }
     ((g.ctx 0).cyclic && g.tooLong (g.lot 0) 0 (entryOf 0x12 (e 0)).entry) = true ∧ g.badTarget (g.lot 0) (entryOf 0x12 (e 0)).entry = false) ∧
    ((idle.unplaced 0).isSome = true ∧ (idle.lot 0).frontCtx = some 0 ∧ idle.lotTesting (idle.lot 0) = false ∧
      idle.targetOf (idle.lot 0) (entryOf 0x12 (e 0)).entry = some 0 ∧ idle.freeSlot = some 0 ∧
      busy.targetOf (busy.lot 0) (entryOf 0x12 (e 0)).entry = none ∧ (busy.unplaced 0).isSome = true) ∧
    (∀ isl ∈ [Island.run, .idle], let g := d 1 [] isl none
      (g.lot 0).front.tasks[(t 1).kind]? = some k ∧ (g.task 0).state = 1 ∧
      (((g.lot 0).taskStalls 0).all fun n => (g.block (n / 4)).island == .run) = decide (isl = .run)) ∧
    (∀ g ∈ [d 2 [] .run none, d 2 [] .run (some 0)], (g.stall 0).seq = .running ∧ (g.stall 0).ended = true ∧ (g.stall 0).jobs = []) ∧
    ((d 2 [default] .run none).stall 0).jobs ≠ [] ∧
    (((d 2 [] .run (some 0)).lot 0).taskStalls 0).all (fun y => (insertUp 0 []).contains y) = true := by
  unfold Dev.mayStart; decide +kernel

/-- A cyclic Lot with a table, an origin, a frame number, a window and its end. -/
def cyclicD (c : Option Cycle) (t0 : Option Nat) (n : Nat) (w : Option Nat) (fin : Nat) : Dev := { withLot (fun l => { l with
    cyc := c, t0 := t0, frameNo := n, window := w, winEnd := fin }) (lotD 1 []) with
  ctxs := [(0, { (default : Ctx) with state := .bound, cyclic := true })]
  mem := memWrite 0 (memWrite 0 [] 4096 [1, 0, 100]) 4112 (leBytes 8 (2 ^ 17 * 50)) }

/-- CYCLE_LOAD and CYCLE_START with a table and without, early and late; a frame and a window that are due and not. -/
theorem test_meets_WindowsFollowTheirTable :
    let y : Cycle := ⟨100, 0, [⟨0, 50, 0, 1⟩]⟩
    let d := cyclicD
    let plain := d none none 0 none 0
    (∀ a ∈ [4096, 0], (withEntry 0 0x18 [(8, 8, a)] plain).mayStart 0 0x18 (entryOf 0x18 [(8, 8, a)]) []) ∧
    (plain.ringLot 0 = some 0 ∧ plain.cycleOk 4096 = true ∧ plain.cycleOk 0 = false ∧ 4096 + 16 + 8 * (plain.memVal (4096 + 1) 1 + 1) ≤ jobEnd ∧ plain.lotCyclic (plain.lot 0) = true) ∧
    (∀ a ∈ [0, ten + 10 * usec], (withEntry 0 0x19 [(8, 8, a)] (d (some y) none 0 none 0)).mayStart 0 0x19 (entryOf 0x19 [(8, 8, a)]) []) ∧
    (0 < plain.time + 10 * usec ∧ plain.time + 10 * usec ≤ ten + 10 * usec) ∧
    (((d (some y) (some ten) 0 none 0).lot 0).nextFrame = some ten ∧ ((d (some y) (some (ten + 9)) 0 none 0).lot 0).nextFrame = some (ten + 9)) ∧
    (((d (some y) (some ten) 1 none 0).lot 0).nextWindow = some (⟨0, 50, 0, 1⟩, ten) ∧ ((d (some y) (some ten) 1 none 0).lot 0).waked = false) ∧
    (((d (some y) (some ten) 1 none 0).lot 0).cyc.bind (fun c => c.windows[0]?) = some ⟨0, 50, 0, 1⟩ ∧
      (d (some y) (some ten) 1 none 0).idleSeat ((d (some y) (some ten) 1 none 0).lot 0) 0 = false ∧
      (d (some y) (some ten) 1 none 0).idleSeat ((d (some y) (some ten) 1 none 0).lot 0) 1 = true ∧
      ((d (some y) (some ten) 1 none 0).lot 0).front.kind ≠ 0 ∧ (d (some y) (some ten) 1 none 0).time = ten) ∧
    (((d (some y) (some ten) 0 none 0).lot 0).t0.isSome = true ∧ jobEnd < jobEnd - 16 + 16 + 8 * (0 + 1)) ∧
    (∀ p ∈ [(d (some y) (some ten) 1 (some 0) ten, false), (runs 0x12 1 [(12, 4, 1)] (d (some y) (some ten) 1 (some 0) ten), true)],
      (p.1.lot 0).window = some 0 ∧ (p.1.lot 0).winEnd ≤ p.1.time ∧ p.1.spansOf 0 = p.2) := by
  unfold Dev.mayStart; decide +kernel
/-- Windows of the other seat, whose shelf may come to the front now and may not; a window that starts late; one that closes into the next. -/
theorem test_meets_windows_of_two_seats :
    let d := cyclicD
    let y : Cycle := ⟨100, 0, [⟨0, 50, 0, 1⟩]⟩
    (let o : Dev := withLot (fun l => { l with seat1 := some 1, back := { (default : LotShelf) with kind := 1, ctx := 1 }, bstate := .ready })
       { (d (some ⟨100, 0, [⟨0, 50, 1, 1⟩]⟩) (some ten) 1 none 0) with
         ctxs := [(0, { (default : Ctx) with state := .bound, cyclic := true }), (1, { (default : Ctx) with state := .bound, cyclic := true })] }
     let busy : Dev := withLot (fun l => { l with front := { l.front with kind := 1 }, beat := { l.beat with active := true, len := 9, start := ten } }) o
     o.idleSeat (o.lot 0) 1 = false ∧ (o.lot 0).seat 1 = some 1 ∧ ¬((o.lot 0).front.kind ≠ 0 ∧ (o.lot 0).front.ctx = 1) ∧
       (o.lot 0).winHeld = false ∧ o.swapTurn (o.lot 0) o.now = true ∧ busy.swapTurn (busy.lot 0) busy.now = false) ∧
    (let late : Dev := { (d (some y) (some (ten - 9)) 1 none 0) with now := ten + 1 }
     late.time ≠ ten - 9 ∧ late.turnStart = false ∧ late.idleSeat (late.lot 0) 0 = false ∧
       ({ (late.lot 0) with winHeld := true } : Lot).winHeld = true ∧ ten + 0 * tenUs ≤ late.time) ∧
    (let z : Lot := { ((d (some ⟨100, 0, [⟨0, 50, 1, 1⟩]⟩) (some ten) 1 (some 0) ten).lot 0) with winSeat := 0 }
     z.window = some 0 ∧ z.seat z.winSeat = some 0 ∧ z.nextWindow = some (⟨0, 50, 1, 1⟩, ten) ∧ ten < z.winEnd + 1) := by
  decide +kernel

/-! ### The Porter link, attestation, the Ledger and service -/

/-- Frames of each TYPE in order and not. -/
theorem test_meets_PorterFramesHaveTheirEffect :
    let f (type : Nat) (p : Bytes) : Bytes := porterFrame type p
    let d : Dev := { lotD 1 [] with porterUp := true }
    (∀ p ∈ [(1, 68), (1, 0), (2, 4), (3, 4), (4, 12), (4, 520), (5, 12)], frameHdrOk (f p.1 (zeros p.2)) = true ∧ frameType (f p.1 (zeros p.2)) = p.1) ∧
    (framePay (f 1 (layout 68 [(1, 1, 1)])) = layout 68 [(1, 1, 1)] ∧ byte (framePay (f 1 [65])) 0 = 65) ∧
    ((d.ring 0).live = true ∧ (d.ring 1).live = false ∧ ((0 + 65536 - (d.ring 0).ehead) % 65536 ≤ (d.ring 0).unacked) ∧
      (d.ring 0).unacked < (1 + 65536 - (d.ring 0).ehead) % 65536 ∧ 1024 < (1025 + 65536 - (d.ring 0).chead) % 65536) ∧
    (d.hostOk 0 4 = true ∧ d.hostOk (2 ^ 55) 4 = false ∧ d.conc.poison = [] ∧ d.lit = true ∧ d.porterUp = true) ∧
    (let p := layout 12 [(8, 2, 512)]
     p.length = 12 ∧ 4 ≤ fld p 8 2 ∧ fld p 8 2 ≤ 512 ∧ fld p 8 2 % 4 = 0) ∧
    (frameType (f 0 []) = 0 ∧ 6 < frameType (f 7 []) ∧ frameType (f 6 []) = 6 ∧ litD.porterUp = false ∧ frameHdrOk [] = false) ∧
    (let bad : Dev := { d with conc := { d.conc with poison := [64] } }
     let torn (off n : Nat) : Bool := (linePieces off (zeros n)).any fun q => q.2.length != 64 && bad.isPoisoned q.1
     let ue (off n : Nat) : Bool := (linePieces off (zeros n)).any fun q => bad.isPoisoned q.1
     torn 64 4 = true ∧ torn 64 64 = false ∧ torn 0 512 = false ∧ ue 60 8 = true ∧ ue 64 64 = true ∧ ue 0 64 = false ∧ ue 128 4 = false ∧
       bad.hostOk 64 512 = true) := by decide +kernel

/-- Each small command at the front of its ring, with addresses that are in order and not. -/
theorem test_meets_RingCommandsComplete :
    let at_ (r op : Nat) (fs : List (Nat × Nat × Nat)) : Prop := (withEntry r op fs (lotD 1 [])).mayStart r op (entryOf op fs) []
    let d : Dev := { lotD 1 [] with stalls := [(0, { (default : Stall) with queues := [(0, { (default : RQueue) with size := 1 })] })] }
    (∀ r ∈ [0, 64], ∀ op ∈ [0x22, 0x23, 0x14, 0x15, 0x16], at_ r op []) ∧ at_ 0 0x15 [(8, 8, 0x3FFF * 2 ^ 44), (16, 8, 64), (24, 4, 64)] ∧
    at_ 0 0x16 [(8, 8, 2 ^ 62)] ∧ (∀ n ∈ [0, 2304], at_ 0 0x1A [(8, 2, n)]) ∧
    (d.ringLot 0 = some 0 ∧ (d.lot 0).has (0 / 4) = true ∧ ((d.stall 0).queues.get 0).size ≠ 0) ∧
    (d.copyEnd (0x3FFF * 2 ^ 44) 64 = true ∧ d.copyEnd 64 64 = true ∧ d.isLocal (0x3FFF * 2 ^ 44) = true) ∧ (bits 0 63 62 = 0 ∧ badAddr 0 = false ∧ bits (2 ^ 62) 63 62 ≠ 0) ∧
    (litD.ring 0).fetched = [] ∧
    (let tested : Dev := { d with service := { d.service with tests := [{ id := 1, uclass := 15, unit := 0, ekind := 1, logSeq := 0, ctxs := [], running := true }] } }
     d.engineTested 15 0 = false ∧ tested.engineTested 15 0 = true ∧ tested.lit = true) ∧
    (((withEntry 0 0x23 [] d).ring 0).fetched = [entryOf 0x23 []] ∧ opcodeOf (entryOf 0x23 []).entry ≠ 0x14 ∧ (d.ring 0).slotFree = true) := by
  unfold Dev.mayStart; decide +kernel

/-- STEP_COMMIT of a list that is in order and of one that is not, and the commit that the engine takes, in a window and out of one. -/
theorem test_meets_CommitsGoThroughThePoolEngine :
    let d (cyclic : Bool) (pool : Nat) (fin : Nat) : Dev := { withLot (fun l => { l with
        cyc := some ⟨100, 0, [⟨0, 50, 0, 1⟩]⟩, window := some 0, winEnd := fin }) (lotD 1 []) with
      pool := { litD.pool with commits := [(0, 7)] }
      ctxs := [(0, { (default : Ctx) with state := .bound, cyclic := cyclic, pooldesc := pool })]
      mem := memWrite 0 (memWrite 0 [] 4096 (layout 24 [(0, 8, 1 + 2 ^ 16 + 2 ^ 40), (8, 8, 8192), (16, 8, 8256)])) 0 [1] }
    let e (a : Nat) : List (Nat × Nat × Nat) := [(8, 8, a)]
    (∀ a ∈ [0, 512], (withEntry 0 0x13 (e a) (d false 4096 0)).mayStart 0 0x13 (entryOf 0x13 (e a)) [] ∧
      (d false 4096 0).mayOccupy 0 (entryOf 0x13 (e a)).entry = true) ∧
    ((d false 4096 0).ringCtx 0 = some 0 ∧ (d false 4096 0).listOk 0 = true ∧ (d false 4096 0).listOk 512 = false ∧
      ((d false 4096 0).poolD 0).isSome = true ∧ (d false 0 0).poolD 0 = none) ∧
    (let g (fin : Nat) : Dev := runs 0x13 0 (e 0) (d true 4096 fin)
     let x : Bytes := (entryOf 0x13 (e 0)).entry
     (g 0).pool.commits = [(0, 7)] ∧ ((g 0).ring 0).cmd 7 = ((g 0).ring 0).running.head? ∧ (g 0).lit = true ∧ ((g 0).ctx 0).cyclic = true ∧
     (g 0).inWindow ((g 0).lot 0) 0 ((g 0).maxOf ((g 0).lot 0) 0 x) = false ∧
     (g (2 * ten)).inWindow ((g (2 * ten)).lot 0) 0 ((g (2 * ten)).maxOf ((g (2 * ten)).lot 0) 0 x) = true ∧
     (g 0).tooLong ((g 0).lot 0) 0 x = false ∧ (g 0).mayOccupy 0 x = false ∧
     (let short : Dev := withLot (fun l => { l with cyc := some ⟨100, 0, [⟨0, 1, 0, 1⟩]⟩ }) (g 0)
      short.tooLong (short.lot 0) 0 x = true)) ∧
    (let busy : Dev := let g := runs 0x13 0 (e 0) (d true 4096 0)
       { g with pool := { g.pool with busy := some (0, 7, 0) } }
     busy.lit = true ∧ busy.pool.busy = some (0, 7, 0) ∧ (busy.ring 0).cmd 7 = (busy.ring 0).running.head? ∧ (busy.poolD 0).isSome = true) ∧
    (let d0 : Dev := d false 4096 0
     let tested : Dev := { d0 with service := { d0.service with tests := [{ id := 1, uclass := 11, unit := 0, ekind := 1, logSeq := 0, ctxs := [], running := true }] } }
     tested.engineTested 11 0 = true ∧ d0.engineTested 11 0 = false ∧ d0.pool.busy = none) := by
  unfold Dev.mayStart; decide +kernel

set_option maxRecDepth 40000 in
/-- Attestation in each of its places: a tree that is complete in its buffer with leaves left and without, and the next tree due. -/
theorem test_meets_AttestationAnswersInOrder :
    let head : Memory := memWrite 0xFF [] (lmsHeadAt 0) (zeros 4)
    let d (next limit allow : Nat) : Dev := { litD with
      porterUp := true
      flash := memWrite 0xFF head (lmsHeadAt 0 + lmsHeadLen) (leBytes 4 (crc32c (memRead 0xFF head (lmsHeadAt 0) lmsHeadLen)).toNat)
      boot := { litD.boot with
        k := some (zeros 32), lmsLost := false, lmsTrees := [0], lmsNext := next, lmsLimit := limit, allowance := allow
        spdmVersion := true, spdmCaps := true, spdmAlgs := true } }
    (∀ p ∈ [(0, 1024), (1024, 1024)], ((d p.1 p.2 64).treeBuffer ((d p.1 p.2 64).boot.lmsNext / 32768)).isSome = true) ∧
    ((d 0 1024 64).boot.allowance ≠ 0 ∧ (d 0 1024 0).boot.allowance = 0 ∧ (d 0 1024 64).boot.k.isSome = true ∧ litD.boot.lmsLost = true) ∧
    ((d 0 1024 64).boot.allowAt + second ≤ (d 0 1024 64).now ∧ (d 0 1024 64).boot.fwRun = true) ∧
    (let b := (d 16384 17408 64).boot
     32768 * (b.lmsNext / 32768 + 1) - b.lmsNext ≤ 16384 ∧ b.lmsNext / 32768 + 1 < 32768 ∧ b.lmsTrees.contains (b.lmsNext / 32768 + 1) = false) ∧
    ((d 0 1024 64).boot.measured 0x20 = none ∧ bit 0x80 7 = true ∧ bit 2 1 = true) ∧
    (0x85 ∉ spdmCodes ∧ (∀ c ∈ [0x84, 0xE1, 0xE3, 0x81, 0x82, 0x83, 0xE0], c ∈ spdmCodes) ∧ (d 0 1024 64).lit = true ∧
      (d 0 1024 64).boot.spdmCaps = true ∧ litD.boot.spdmVersion = false ∧ litD.boot.spdmAlgs = false) ∧
    ((d 32768 33792 64).boot.lmsNext < 2 ^ 30 ∧ (d 32768 33792 64).treeBuffer (32768 / 32768) = none ∧ litD.boot.k = none ∧
      (d 0 1024 64).treeBuffer 1 = none ∧ (d 0 1024 64).boot.flashOps = []) := by decide +kernel
/-- The certificate chain is not empty, so an offset of 0 lies within it; the owner's measurement stands. -/
theorem test_meets_chain (d : Dev) : d.boot.measured 0x10 = some (sha384 d.boot.ownerCert) := by simp [Boot.measured]

/-- Entries of each access kind; sources of each class; a value in range and one that is not; another source's open write. LAP frames that
are in order, kept, and staged; both ring commands. -/
theorem test_meets_LedgerRequestsAreCheckedInOrder :
    let ask (c : LClass) : Asked := { req := ⟨c, .ring 0, 0⟩ }
    let off : Dev := { litD with power := { litD.power with dstate := .aon } }
    let held : Dev := { litD with ledger := { litD.ledger with staging := [⟨.udp 1 1, 0x2001, 1, [1], 0⟩] } }
    let rd : Bytes := lapFrame 1 5 0 0 0x2001 1 0 0 []
    let lap (op last at_ : Nat) (v : Bytes) : Bytes := withCrc (layout 24 [(0, 2, 0x504C), (2, 1, 1), (3, 1, op), (8, 2, 0x2001), (10, 1, 1),
      (11, 1, last), (12, 4, at_), (16, 2, v.length)] ++ v)
    let kept : Dev := { litD with ledger := { litD.ledger with kept := [(.udp 1 1, [⟨0, ten, rd⟩])] } }
    (indexKnown 0x0FFF = false ∧ indexKnown 0x2001 = true ∧ entryInfo 0x2001 99 = none ∧ (entryInfo 0x2001 1).isSome = true) ∧
    ((entryInfo 0x2001 1).map (·.access) = some .rw ∧ (entryInfo 0x7000 1).map (·.access) ∈ [some Access.cmd, some .ro, some .wo]
      ∧ (entryInfo 0x4003 0).map (·.access) ∈ [some Access.cmd, some .wo] ∧ (entryInfo 0x3001 2).isSome = true) ∧
    (litD.permits (ask .mgmt).req true 0x2001 1 0 = true ∧ litD.permits (ask .host).req true 0x2001 1 0 = false) ∧
    (off.served 0x4002 0 = false ∧ litD.served 0x2001 1 = true) ∧
    (∀ e, entryInfo 0x2001 1 = some e → (litD.entryValue 0x2001 1 e).isSome = true) ∧
    (litD.valueCheck 0x2001 1 0 (leBytes 2 300) = 0 ∧ litD.valueCheck 0x2001 1 0 (leBytes 2 299) ≠ 0) ∧
    (held.openFor (.ring 0) 0x2001 1 = true ∧ litD.openFor (.ring 0) 0x2001 1 = false ∧ (scalarRange 0x2001 1).isSome = true) ∧
    (∀ r ∈ [0, 64], ∀ op ∈ [0x20, 0x21], (withEntry r op [] (lotD 1 [])).mayStart r op (entryOf op []) []) ∧
    (lapOk (.udp 1 1) (lap 1 0 0 []) = true ∧ lapOk (.udp 1 1) (lap 2 0 0 [1]) = true ∧ lapOk (.udp 1 1) (lap 2 1 1 [1]) = true ∧
      lapOk (.udp 1 1) [] = false ∧ (kept.keptFor (.udp 1 1) 0).isSome = true ∧ litD.keptFor (.udp 1 1) 0 = none ∧ litD.ledger.asked = []) ∧
    (0 + 10 * second ≤ held.now ∧ held.ledger.staging ≠ []) ∧
    (held.stagingOf (.udp 1 1) 0x2001 1 = held.ledger.staging.head? ∧ held.stagingOf (.udp 2 1) 0x2001 1 = none ∧
      srcKey (.udp 1 1) ≠ srcKey (.udp 2 1) ∧ litD.stagingOf (.udp 1 1) 0x2001 1 = none ∧
      ((entryInfo 0x2001 1).map (·.len)) = some 2) ∧
    (28 < fld (entryOf 0x20 [(12, 2, 29)]).entry 12 2 ∧ fld (entryOf 0x20 [(12, 2, 29)]).entry 16 8 = 0 ∧
      fld (entryOf 0x20 [(12, 2, 28)]).entry 12 2 ≤ 28) ∧
    (∀ src ∈ [ReqSrc.udp 1 1, .udp 2 1], (∀ b ∈ litD.ledger.asked, srcKey b.req.src = srcKey src → b.req.seq ≠ 0) ∧
      litD.keptFor src 0 = none) ∧
    (litD.permits (ask .host).req false 0x5080 0 0 = false ∧ litD.permits (ask .mgmt).req false 0x5080 0 0 = true ∧ litD.power.dstate ≠ .off) := by
  unfold Dev.mayStart; decide +kernel

/-- The device lit and not, at the bounds of each operand. -/
theorem test_meets_LedgerCommandsAct :
    let off : Dev := { litD with power := { litD.power with dstate := .aon } }
    litD.power.dstate ≠ .off ∧ litD.lit = true ∧ off.power.dstate ≠ .off ∧ off.lit = false ∧ (zeros 3652).length = 3652 ∧
    (LClass.mgmt = .mgmt ∧ LClass.host ≠ .mgmt) := by decide +kernel

set_option maxRecDepth 40000 in
/-- A slot that may be written, one that may not, a recovery in each state, and the flash operation in front. -/
theorem test_meets_RecoveryWritesASlot :
    let d (v : Option Recovery) (o : List FlashOp) : Dev := { litD with boot := { litD.boot with recovery := v, flashOps := o } }
    let v (e c : Bool) : Recovery := ⟨0, 64, [(0, 64)], 0, e, c⟩
    ((d none []).slotOpen (1 - (d none []).bootRec.pref) = true ∧ (d none []).slotOpen (d none []).bootRec.pref = false) ∧
    ((d (some (v true false)) []).boot.recovery.isSome = true ∧ (d none []).lit = true ∧ (v true false).erased = true ∧
      (v true false).checking = false ∧ (v true true).checking = true ∧ (v true false).last + 60 * second ≤ litD.now + 60 * second) ∧
    ((∀ c ∈ (v true false).chunks, c.1 + c.2 ≤ 64 ∨ 64 + 1 ≤ c.1) ∧ ¬ ∀ c ∈ (v true false).chunks, c.1 + c.2 ≤ 63 ∨ 63 + 1 ≤ c.1) ∧
    (∀ t ∈ [FlashThen.nothing, .answer ⟨.mgmt, .firmware, 0⟩ 0x1010 1, .setEntry ⟨.mgmt, .firmware, 0⟩ 0x2001 1 300,
        .recoveryErased ⟨.mgmt, .firmware, 0⟩], (d (some (v true false)) [⟨[], [], t⟩]).boot.flashOps = [⟨[], [], t⟩]) ∧
    (d none []).boot.flashUsable = true := by decide +kernel

/-- A test that may start and one that may not, of a block and of another unit; one that ends; a row repair. -/
theorem test_meets_TestsDecideTheUnit :
    let t (c u : Nat) (run : Bool) : UTest := { id := 1, uclass := c, unit := u, ekind := 1, logSeq := 0, ctxs := [], running := run }
    let d (x : UTest) (isl : Island) : Dev := { litD with
      service := { litD.service with tests := [x] }, blocks := [(575, { (default : Block) with island := isl })]
      conc := { litD.conc with repairs := [⟨127, 0, 0⟩] } }
    (∀ p ∈ [(0, 2303), (1, 0x1000 + 2303), (2, 575), (3, 575)], unitBlock p.1 p.2 = some 575 ∧ (d (t p.1 p.2 false) .run).testReady (t p.1 p.2 false) = true) ∧
    (∀ c ∈ [5, 6, 7, 8], unitBlock c 0 = none ∧ (d (t c 0 false) .run).testReady (t c 0 false) = true) ∧
    ((d (t 2 575 true) .run).testReady (t 2 575 true) = false ∧ (d (t 2 575 false) .run).testsRunning + 0 < 32) ∧
    (((d (t 2 575 false) .run).block 575).awake = true ∧ ((d (t 2 575 false) .off).block 575).awake = false ∧
      ((d (t 2 575 false) .off).block 575).fenced = false ∧ (d (t 2 575 false) .off).retired 575 = false) ∧
    ((d (t 2 575 true) .run).service.tests.find? (fun t => t.id = 1 && t.running) = some (t 2 575 true) ∧ 0x05 ∈ testsOf 1 2 ∧ 0x04 ∉ testsOf 1 2) ∧
    (d (t 2 575 true) .run).conc.repairs.find? (fun r => r.slice = 127) = some ⟨127, 0, 0⟩ ∧
    (let often (at_ : Nat) : Dev := let g := d (t 6 17 true) .run
       { g with service := { g.service with trans := List.replicate 3 (6, 17, at_) } }
     let recent (g : Dev) : Nat := ((g.service.trans.filter fun x => g.now < x.2.2 + day).filter fun x => x.1 == 6 && x.2.1 == 17).length
     4 ≤ recent (often ten) + 1 ∧ recent litD + 1 < 4 ∧ litD.service.tests.find? (fun t => t.id = 1) = none ∧
       recent { often 0 with now := ten + day } + 1 < 4) ∧
    ((d (t 2 575 true) .run).mayDecide = true ∧
      ({ litD with service := { litD.service with clerks := (List.range 36).map fun k => (k, ⟨false, false, 0, 0⟩) } } : Dev).mayDecide = false) ∧
    (clerkPool 0 ≠ clerkPool 32 ∧ clerkPool 0 = clerkPool 1) ∧
    ((litD.port 17).st = .down ∧ unitBlock 6 17 = none ∧ unitBlock 4 127 = none ∧ unitBlock 2 575 = some 575 ∧ litD.lit = true) ∧
    (let many : Dev := { litD with service := { litD.service with tests := List.replicate 32 (t 7 0 true) } }
     32 ≤ many.testsRunning) := by decide +kernel

/-- Words of each kind, a scrubber and Clerks that are due, the last Clerk of the fabric pool, and a live update at its last Clerk. -/
theorem test_meets_ScrubbersAndClerksAreKept :
    let d : Dev := lotD 1 []
    let last : Dev := { litD with service := { litD.service with clerks := [(33, ⟨false, false, 0, 0⟩), (34, ⟨false, false, 0, 0⟩), (35, ⟨false, false, 0, 0⟩)] } }
    let late : Dev := { litD with now := 60 * second }
    (∀ w ∈ [ScrubWord.frontShelf 0 0, .backShelf 0 0, .switchMap 0, .gridMap 0, .route 0, .board 0], w.there = true) ∧
    (d.lotOf 0 = some 0 ∧ (d.lot 0).front.kind ≠ 0 ∧ d.lit = true) ∧
    (d.service.scrubAt + 10 * msec ≤ d.now ∧ d.service.scrubCheckAt + 100 * msec ≤ d.now) ∧
    ((d.service.clerks.get 0).up = true ∧ (d.poolUp 0).filter (fun i => i != 0) ≠ [] ∧ (last.poolUp 2).filter (fun i => i != 32) = [] ∧
      (last.service.clerks.get 32).up = true ∧ clerkPool 32 = 2 ∧ (last.service.clerks.get 33).up = false) ∧
    (late.lit = true ∧ (late.service.clerks.get 0).testAt + 60 * second ≤ late.now ∧ 1 ∈ late.poolUp 0 ∧ late.service.tests = []) ∧
    (nextClerk litD.service.clerks 0 = some 0 ∧ nextClerk litD.service.clerks 36 = none ∧
      (nextClerk litD.service.clerks 1).isSome = true ∧ nextClerk litD.service.clerks (35 + 1) = none) := by decide +kernel

/-- A core at each order of R458, halted by a reserved one, with a window address in range and out of it, a message, and room to send. -/
theorem test_meets_TileOrdersRun :
    let w (op rest : Nat) : W32 := BitVec.ofNat 32 (2 ^ 26 * op + rest)
    let d (u op rest : Nat) (s : TStat) : Dev := { litD with
      trestles := [(u, { (default : Trestle) with prog := [(0, w op rest)], stat := s, queue := [default] })]
      blocks := [(575, { (default : Block) with island := .run, testing := true })]
      chests := [(2303, { (default : Chest) with banks := [(0, .on)] })] }
    (∀ u ∈ [2303, 0x1000 + 2303], isTile u = true ∧ ∀ op ∈ [0x00, 0x01, 0x02, 0x03, 0x04, 0x05, 0x06, 0x07, 0x08, 0x09, 0x0A, 0x10, 0x11, 0x12,
      0x2D, 0x20, 0x21, 0x22, 0x23, 0x2C, 0x18, 0x19, 0x28, 0x29, 0x2A, 0x2B], (d u op 1 .run).tileOrder u op = some (w op 1)) ∧
    ((d 2303 0x3F 0 .run).coreRuns 2303 = true ∧ reservedOrder (((d 2303 0x3F 0 .run).core 2303).prog.get 0) = true) ∧
    (windowAddr 2303 (w 0x18 0) default = some 0 ∧ windowAddr 2303 (w 0x18 1) default = none ∧
      (d 0x18FF 0x18 0 .run).windowOn 0x18FF 0 = true ∧ (d 0x18FF 0x18 0 .run).windowOn 0x18FF 64 = false) ∧
    ((d 2303 0x29 0 .run).core 2303).queue = [default] ∧
    (bits 0 13 0 = 0 ∧ tA (w 0x28 0) + bits (w 0x28 0).toNat 1 0 < 64 ∧ (d 2303 0x28 0 .run).unitHome 2303 = some 575 ∧
      ((d 2303 0x28 0 .run).chooseLane (tileBlock 2303) 575).isSome = true ∧ ((d 2303 0x28 0 .run).inbuf 575 4 0).length < 4) ∧
    (∀ s ∈ [TStat.waitMsg 0, .waitTest 0], ((d 2303 0x29 0 s).core 2303).stat = s ∧ ((d 2303 0x29 0 s).block (tileBlock 2303)).testing = true ∧
      0 + 2 ^ 20 < (d 2303 0x29 0 s).now) ∧
    litD.tileOrder 2303 1 = none ∧
    (let c (owner : Nat) : Dev := { d 0x18FF 0x18 0 .run with
       lots := [(0, { (default : Lot) with
         x0 := 47, y0 := 11, width := 1, height := 1, state := 2
         front := { (default : LotShelf) with kind := 1, blocks := [(575, { (default : Shelf) with
           cfg := [(3, 16)], owners := [(3, (List.range 16).map fun i => (i, owner))] })] } })] }
     (c 2).windowWaits 0x18FF 0 = true ∧ (c 0).windowWaits 0x18FF 0 = false ∧
       (c 0).svcBad 2303 0 = false ∧ ((c 0).modChest 2303 fun y => { y with badWords := [(0, 0)] }).svcBad 2303 0 = true) ∧
    (litD.unitHome 0x1FFF = none ∧ (d 2303 0x29 0 .run).coreRuns 2303 = true ∧ reservedOrder (w 0x28 0) = false ∧
      ((d 2303 0x29 0 .run).core 2303).stat = .run ∧ litD.lit = true ∧ (litD.block (tileBlock 2303)).testing = false)
    := by decide +kernel

/-! ## Worked examples of the manual -/

/-- R13: block 100 stands at physical row 5 of column 4 with row 2 excluded, at row 4 with row 12 excluded; block 300 at X 36, Y 0. -/
theorem test_blocks : (({} : Grid).setExcl 4 2).posOf 100 = ⟨0, 4, 5⟩ ∧ (({} : Grid).setExcl 4 12).posOf 100 = ⟨0, 4, 4⟩ ∧
    blkX 100 = 4 ∧ blkY 100 = 4 ∧ blkX 300 = 36 ∧ blkY 300 = 0 ∧ blkAt 36 0 = 300 := by decide +kernel
/-- The example under R22: the shift that heals row 7 of column 4 moves blocks 172, 196, 220, 244 and 268. -/
theorem test_shift : (Shift.span { die := 0, col := 4, failed := 7, old := 12 }).Perm [172, 196, 220, 244, 268] := by decide +kernel
/-- The example under chapter 6: code 2 in a beat of 3 (mod 15) has the effective stamp 5, and 6 in the next. -/
theorem test_stamps : effStamp 2 3 = 5 ∧ effStamp 2 4 = 6 ∧ effStamp 2 2 = 4 := by decide +kernel
/-- The example under R44: 1.25 as FP4 E2M1 by stochastic rounding. -/
theorem test_fp4 : (convNarrow e2m1 false 4 0x80000000 (fp32.decode 0x3FA00000)).1 = 0x3 ∧
    (convNarrow e2m1 false 4 0x7FFFFFFF (fp32.decode 0x3FA00000)).1 = 0x2 := by decide +kernel
/-- One MXFP8 block (chapter 2): scale bytes 0x73 and three products onto 1.0, in FP32 and in wide mode. -/
theorem test_mxfp8 :
    let as := [0x3C, 0x3C, 0x40] ++ List.replicate 29 0
    let bs := [0x38, 0x38, 0xB8] ++ List.replicate 29 0x55
    let e (_ : Nat) : Option Int := scaleExp 0x73
    (dotGo .float false 0x8 0x8 e e 1 0 as bs (0x3F800000, 0)).1 = 0x3F800000 ∧
    (dotGo .float true 0x8 0x8 e e 1 0 as bs (0x3FF0000000000000, 0)).1 = 0x3FF0000010000000 := by decide +kernel
/-- The example under R300: the holders of chunk 3 in a group of six, and those of chunks 0 and 4 at the last level. -/
theorem test_tree : (List.range 6).map (fun r => treeHolder (treeBlock 6 1 r) 3) = [1, 1, 3, 3, 5, 5] ∧
    treeHolder (treeBlock 6 2 0) 3 = 3 ∧ treeHolder (treeBlock 6 2 4) 3 = 5 ∧ treeMerges 6 1 4 = false ∧
    treeHolder (treeBlock 6 2 0) 0 = 0 ∧ treeHolder (treeBlock 6 2 4) 0 = 4 ∧ treeHolder (treeBlock 6 2 0) 4 = 0 := by decide +kernel
/-- The example under R451: the record of Stall 1,202 is 0x6004.B2. -/
theorem test_record : itemOf 0x6000 0x6004 0xB2 = 1202 := by decide +kernel

/-! ## The queue -/

/-- No word spells a command: the table gives its rows no bits. -/
theorem test_no_words : decodeTableWord 0 0 = none ∧ (State.reset.withFetchWord 16 0xFFFF).pending = [] := by decide +kernel
/-- A command in front is taken, and what waited behind it stays; JTAG takes its instruction with standby power and not without. -/
theorem test_step :
    let s : State := { st litD with pending := [.bypass 9, .trstLAssert] }
    (match step s with
      | .next t => t.pending == [.trstLAssert] && t.jtag.ir == 9
      | _ => false) = true ∧
    (match step { State.reset with pending := [.bypass 9] } with
      | .next t => t.pending == [] && t.jtag.ir == 255
      | _ => false) = true := by decide +kernel

end Sys2Proof.Tests
end

/-! ## The grid: where a block stands (R13, R14)

The numbering of R14 is read off by division, the map of R13 by the two row functions, which are inverse to each other away from the
excluded row; the map of a whole grid then follows column by column. -/
namespace Sys2Proof.Machine

/-! ### The numbering of R14 -/

section Numbering
variable {r c : Nat} (d : Nat)

theorem block_div_288 (hr : r < 12) (hc : c < 24) : (288 * d + 24 * r + c) / 288 = d := by omega

theorem block_mod_24 (r : Nat) (hc : c < 24) : (288 * d + 24 * r + c) % 24 = c := by omega

theorem blkY_block (hr : r < 12) (hc : c < 24) : blkY (288 * d + 24 * r + c) = r := by
  unfold blkY; omega

theorem blkX_block (hr : r < 12) (hc : c < 24) : blkX (288 * d + 24 * r + c) = 24 * d + c := by
  rw [blkX, block_div_288 d hr hc, block_mod_24 d r hc]

end Numbering

theorem blkX_blkAt (x : Nat) {y : Nat} (hy : y < 12) : blkX (blkAt x y) = x := by
  have hcol : x % 24 < 24 := Nat.mod_lt _ (by decide)
  rw [blkAt, blkX_block _ hy hcol, Nat.div_add_mod]

theorem blkY_blkAt (x : Nat) {y : Nat} (hy : y < 12) : blkY (blkAt x y) = y :=
  blkY_block _ hy (Nat.mod_lt _ (by decide))

theorem blkAt_lt {x y : Nat} (hx : x < 48) (hy : y < 12) : blkAt x y < 576 := by
  unfold blkAt; omega

theorem blkAt_blkX_blkY (b : Nat) : blkAt (blkX b) (blkY b) = b := by
  unfold blkAt blkX blkY; omega

/-! ### The rows of a column (R13) -/

theorem logRow_self (x : Nat) : logRow x x = none := by
  simp [logRow]

theorem logRow_physRow (x r : Nat) : logRow x (physRow x r) = some r := by
  by_cases hr : r < x
  · simp [physRow, logRow, hr]
  · have hge : ¬ r + 1 < x := by omega
    have hgt : x < r + 1 := by omega
    simp [physRow, logRow, hr, hge, hgt]

/-- Every position of a column but the excluded one is that of a logical row. -/
theorem exists_physRow_eq {x p : Nat} (hx : x < 13) (hp : p < 13) (hne : p ≠ x) : ∃ r, r < 12 ∧ physRow x r = p := by
  rcases Nat.lt_or_gt_of_ne hne with hlt | hgt
  · exact ⟨p, by omega, if_pos hlt⟩
  · have hbelow : ¬ p - 1 < x := by omega
    exact ⟨p - 1, by omega, by rw [physRow, if_neg hbelow]; omega⟩

/-! ### The map of a grid (R13) -/

section Map
variable (g : Grid)

theorem Grid.exclRow_lt (j : Nat) : g.exclRow j < 13 := Nat.mod_lt _ (by decide)

theorem Grid.blockAt_excluded (d c : Nat) : g.blockAt { die := d, col := c, row := g.exclRow (24 * d + c) } = none := by
  rw [Grid.blockAt, logRow_self, Option.map_none]

theorem Grid.blockAt_physRow (d r c : Nat) :
    g.blockAt { die := d, col := c, row := physRow (g.exclRow (24 * d + c)) r } = some (288 * d + 24 * r + c) := by
  rw [Grid.blockAt, logRow_physRow, Option.map_some]

theorem Grid.posOf_block (d : Nat) {r c : Nat} (hr : r < 12) (hc : c < 24) :
    g.posOf (288 * d + 24 * r + c) = { die := d, col := c, row := physRow (g.exclRow (24 * d + c)) r } := by
  have hrow : (288 * d + 24 * r + c) % 288 / 24 = r := blkY_block d hr hc
  rw [Grid.posOf, block_div_288 d hr hc, block_mod_24 d r hc, hrow]

end Map

/-- Settles O21: the numbering and the coordinates invert each other, and so do the two row functions of a column. -/
theorem blocksStandOnTheGrid : Obligations.BlocksStandOnTheGrid := by
  refine ⟨fun d r c hd hr hc => ?numbering, fun x y hx hy => ⟨blkAt_lt hx hy, blkX_blkAt x hy, blkY_blkAt x hy⟩,
    fun b _ => blkAt_blkX_blkY b,
    fun g d c _ hc => ⟨g.exclRow_lt _, g.blockAt_excluded d c, fun r hr => g.posOf_block d hr hc, fun p hp hne => ?column⟩⟩
  case numbering =>
    simp only [block_div_288 d hr hc, blkX_block d hr hc, blkY_block d hr hc, true_and]
    omega
  case column =>
    obtain ⟨r, hr, rfl⟩ := exists_physRow_eq (g.exclRow_lt _) hp hne
    exact ⟨r, hr, g.blockAt_physRow d r c, g.posOf_block d hr hc⟩

end Sys2Proof.Machine

/-! ## Stamped writes at a Chest (R164, R165, R168 to R171)

The grant of a stamped write fixes stamps first, which touches the Chest's units alone; it then compares the row's status with the stamp,
and either stores the row, or starts a held wait, or notes a violation. Each of these has its rules below, and the grant is an equation
over them. -/
namespace Sys2Proof.Machine

/-! ### Effective stamps (R164) -/

theorem effStamp_eq {k : Nat} (hk : 1 ≤ k) (beat : Nat) : effStamp k beat = (k - 1 + beat) % 15 + 1 := by
  unfold effStamp; omega

theorem one_le_effStamp (k beat : Nat) : 1 ≤ effStamp k beat := by
  unfold effStamp; omega

theorem effStamp_le (k beat : Nat) : effStamp k beat ≤ 15 := by
  unfold effStamp; omega

/-- A consumer d beats later meets its producer's stamp under the code d places back. -/
theorem effStamp_later {k d : Nat} (hk : 1 ≤ k) (hd : d ≤ 14) (beat : Nat) :
    effStamp ((k - 1 + 15 - d) % 15 + 1) (beat + d) = effStamp k beat := by
  unfold effStamp; omega

/-! ### The data of rows -/

theorem leBytes_length (n v : Nat) : (leBytes n v).length = n := by
  induction n generalizing v with
  | zero => rfl
  | succ n ih => simp [leBytes, ih]

theorem leVal_leBytes (n v : Nat) : leVal (leBytes n v) = v % 256 ^ n := by
  induction n generalizing v with
  | zero => simp [leBytes, leVal, Nat.mod_one]
  | succ n ih => rw [leBytes, leVal, ih, Nat.pow_succ', Nat.mod_mul, BitVec.toNat_ofNat]

theorem rowBytes_length (v : Row) : (rowBytes v).length = 64 := leBytes_length 64 _

theorem rowOf_rowBytes (v : Row) : rowOf (rowBytes v) = v := by
  have hbits : 8 * 64 = 512 := rfl
  have hpow : 256 ^ 64 = 2 ^ 512 := by rw [← hbits, Nat.pow_mul]
  rw [rowOf, rowBytes, leVal_leBytes, hpow, Nat.mod_eq_of_lt v.isLt, BitVec.ofNat_toNat, BitVec.setWidth_eq]

section Rows
variable (s : Dev) (c q : Nat) (v : Row)

theorem Dev.rowData_rowPut : (s.rowPut c q v).rowData c q = v := by
  have hread := s.memAt_memPut (chestOff c + 64 * q) (rowBytes v)
  rw [rowBytes_length] at hread
  rw [Dev.rowData, Dev.rowPut, hread, rowOf_rowBytes]

theorem Dev.rowData_rowPut_other {q' : Nat} (h : q' ≠ q) : (s.rowPut c q v).rowData c q' = s.rowData c q' := by
  have happart : chestOff c + 64 * q' + 64 ≤ chestOff c + 64 * q ∨ chestOff c + 64 * q + (rowBytes v).length ≤ chestOff c + 64 * q' := by
    rw [rowBytes_length]; omega
  rw [Dev.rowData, Dev.rowPut, Dev.memAt_memPut_other _ _ _ _ _ happart, Dev.rowData]

end Rows

theorem Dev.rowData_of_mem_eq {g d : Dev} (h : g.mem = d.mem) (c q : Nat) : g.rowData c q = d.rowData c q := by
  rw [Dev.rowData, Dev.memAt, h, Dev.rowData, Dev.memAt]

/-! ### Fixing stamps (R164) -/

/-- `g` differs from `d` at most in the units of Chest `c` and in other Chests. -/
def Dev.SameButUnits (c : Nat) (d g : Dev) : Prop :=
  (∃ chests, g = { d with chests := chests }) ∧ ∃ units, g.chest c = { d.chest c with units := units }

namespace Dev.SameButUnits
variable {c : Nat} {d g h : Dev}

theorem refl (c : Nat) (d : Dev) : d.SameButUnits c d := ⟨⟨_, rfl⟩, ⟨_, rfl⟩⟩

theorem trans (hdg : d.SameButUnits c g) (hgh : g.SameButUnits c h) : d.SameButUnits c h := by
  obtain ⟨⟨_, rfl⟩, u, hu⟩ := hdg
  obtain ⟨⟨_, rfl⟩, w, hw⟩ := hgh
  exact ⟨⟨_, rfl⟩, w, by rw [hw, hu]⟩

section Fields
variable (hs : d.SameButUnits c g)
include hs

theorem mem : g.mem = d.mem := by obtain ⟨⟨_, rfl⟩, _⟩ := hs; rfl
theorem now : g.now = d.now := by obtain ⟨⟨_, rfl⟩, _⟩ := hs; rfl
theorem time : g.time = d.time := by obtain ⟨⟨_, rfl⟩, _⟩ := hs; rfl
theorem ctr (r n w : Nat) : g.ctr r n w = d.ctr r n w := by obtain ⟨⟨_, rfl⟩, _⟩ := hs; rfl
theorem beatB (b : Nat) : g.beatB b = d.beatB b := by obtain ⟨⟨_, rfl⟩, _⟩ := hs; rfl
theorem isLenient (row : Nat) : g.isLenient c row = d.isLenient c row := by obtain ⟨⟨_, rfl⟩, _⟩ := hs; rfl

theorem stat : (g.chest c).stat = (d.chest c).stat := by obtain ⟨_, _, hu⟩ := hs; rw [hu]
theorem ports : (g.chest c).ports = (d.chest c).ports := by obtain ⟨_, _, hu⟩ := hs; rw [hu]
theorem violation : (g.chest c).violation = (d.chest c).violation := by obtain ⟨_, _, hu⟩ := hs; rw [hu]
theorem latched : (g.chest c).latched = (d.chest c).latched := by obtain ⟨_, _, hu⟩ := hs; rw [hu]
theorem heldSince : (g.chest c).heldSince = (d.chest c).heldSince := by obtain ⟨_, _, hu⟩ := hs; rw [hu]
theorem meetsUe (r : RowReq) (st : Bool) : g.meetsUe c r st = d.meetsUe c r st := by
  obtain ⟨_, _, hu⟩ := hs; rw [Dev.meetsUe, hu, Dev.meetsUe]

end Fields
end Dev.SameButUnits

theorem Dev.sameButUnits_fixStamp (s : Dev) (c unit : Nat) (e : Option Nat) : s.SameButUnits c (s.fixStamp c unit e) := by
  cases e with
  | none => exact .refl c s
  | some e => exact ⟨⟨_, rfl⟩, _, Dev.chest_modChest s c _⟩

/-- The device once a grant has fixed the effective stamps of the units that a request serves. -/
def Dev.fixStamps (s : Dev) (c : Nat) (r : RowReq) : Dev :=
  let t := s.fixStamp c r.unit (s.reqStamp c r)
  match r.also with
  | some a => t.fixStamp c a (s.unitStamp c a)
  | none => t

theorem Dev.sameButUnits_fixStamps (s : Dev) (c : Nat) (r : RowReq) : s.SameButUnits c (s.fixStamps c r) := by
  have hunit := s.sameButUnits_fixStamp c r.unit (s.reqStamp c r)
  unfold Dev.fixStamps
  cases r.also with
  | none => exact hunit
  | some a => exact hunit.trans (Dev.sameButUnits_fixStamp _ c a _)

/-- Stamped requests have the effective stamp of their unit. -/
theorem Dev.reqStamp_of_stamped (s : Dev) (c : Nat) (r : RowReq) (h : ((s.chest c).units.get r.unit).stamped = true) :
    s.reqStamp c r = some (((s.chest c).units.get r.unit).eff.getD
      (effStamp ((s.chest c).units.get r.unit).code (s.beatB (c / 4)))) := by
  simp [Dev.reqStamp, Dev.unitStamp, h]

/-! ### Storing a row (R156, R165) -/

/-- What a stamped write leaves before its completion is delivered. -/
def Dev.storeRow (s : Dev) (c : Nat) (r : RowReq) (e : Nat) (hold : Bool) : Dev :=
  let t := s.modChest c fun x => { x with units := (r.unit :: r.also.toList).foldl (fun t u =>
    t.mod u fun y => y.granted r.row s.now false) x.units }
  (t.rowPut c r.row (mergeRow (s.rowData c r.row) r.data r.mask)).modChest c fun x =>
    { x with badWords := x.badWords.filter fun p => !(p.1 == r.row && (wordsOf r.mask).2.contains p.2),
             stat := x.stat.mod r.row fun q => { stamp := e, held := q.held || hold } }

section Store
variable (s : Dev) (c : Nat) (r : RowReq) (e : Nat) (hold : Bool)

theorem Dev.perform_write (h : r.isWrite = true) : s.perform c r (some e) hold = (s.storeRow c r e hold).deliver r 0 := by
  simp only [Dev.perform, h, if_true, Bool.not_true]
  rfl

theorem Dev.rowData_storeRow :
    (s.storeRow c r e hold).rowData c r.row = mergeRow (s.rowData c r.row) r.data r.mask := by
  rw [Dev.storeRow, Dev.rowData_of_mem_eq (Dev.modChest_mem _ c _), Dev.rowData_rowPut]

theorem Dev.rowData_storeRow_other {q : Nat} (h : q ≠ r.row) : (s.storeRow c r e hold).rowData c q = s.rowData c q := by
  rw [Dev.storeRow, Dev.rowData_of_mem_eq (Dev.modChest_mem _ c _), Dev.rowData_rowPut_other _ _ _ _ h,
    Dev.rowData_of_mem_eq (Dev.modChest_mem _ c _)]

theorem Dev.chest_rowPut (q : Nat) (v : Row) (k : Nat) : (s.rowPut c q v).chest k = s.chest k := by
  rw [Dev.chest, Dev.rowPut, Dev.memPut_chests, Dev.chest]

theorem Dev.stat_storeRow : ((s.storeRow c r e hold).chest c).stat =
    (s.chest c).stat.mod r.row fun q => { stamp := e, held := q.held || hold } := by
  simp [Dev.storeRow, Dev.chest_rowPut]

theorem Dev.ctr_storeRow (rcd n w : Nat) : (s.storeRow c r e hold).ctr rcd n w = s.ctr rcd n w := by
  simp only [Dev.ctr, Dev.storeRow, Dev.rowPut, Dev.modChest_counters, Dev.memPut_counters]

end Store

/-! ### Violations (R169 to R171) -/

/-- Latch a violation record where none waits to be read (R170). -/
def Dev.latchViolation (s : Dev) (c : Nat) (v : W64) : Dev :=
  s.iff (!(s.chest c).latched) fun s => s.modChest c fun y => { y with violation := v, latched := true }

theorem Dev.chest_latchViolation (s : Dev) (c : Nat) (v : W64) : (s.latchViolation c v).chest c =
    { s.chest c with violation := if (s.chest c).latched then (s.chest c).violation else v, latched := true } := by
  unfold Dev.latchViolation Dev.iff
  cases hl : (s.chest c).latched with
  | true =>
    simp only [Bool.not_true, Bool.false_eq_true, if_false, if_true]
    rw [← hl]
  | false => simp only [Bool.not_false, Bool.false_eq_true, if_true, if_false, Dev.chest_modChest]

/-- Latching a record changes the Chests alone. -/
theorem Dev.latchViolation_frame (s : Dev) (c : Nat) (v : W64) : ∃ chests, s.latchViolation c v = { s with chests := chests } := by
  unfold Dev.latchViolation Dev.iff
  split
  · exact ⟨_, rfl⟩
  · exact ⟨_, rfl⟩

section Violation
variable (s : Dev) (c row port kind sexp : Nat)

theorem Dev.noteViolation_fst : (s.noteViolation c row port kind sexp).1 =
    violRec c row port kind sexp ((s.chest c).stat.get row) (s.time % 16) (s.beatB (c / 4)) := rfl

/-- The record is latched, then the violation is counted by its kind (R170). -/
theorem Dev.noteViolation_snd : (s.noteViolation c row port kind sexp).2 =
    let t := s.latchViolation c (s.noteViolation c row port kind sexp).1
    if kind = 0 then t.bump 0x6020 c 0 else if kind = 1 then t.bump 0x6020 c 1 else t := rfl

/-- Noting a held overwrite changes the Chests and the counters alone. -/
theorem Dev.noteViolation_overwrite_frame : ∃ chests counters bumped,
    (s.noteViolation c row port 1 sexp).2 = { s with chests := chests, counters := counters, bumped := bumped } := by
  obtain ⟨_, h⟩ := s.latchViolation_frame c (s.noteViolation c row port 1 sexp).1
  exact ⟨_, _, _, by rw [Dev.noteViolation_snd, h]; rfl⟩

theorem Dev.mem_noteViolation_overwrite : (s.noteViolation c row port 1 sexp).2.mem = s.mem := by
  obtain ⟨_, _, _, h⟩ := s.noteViolation_overwrite_frame c row port sexp
  rw [h]

theorem Dev.isLenient_noteViolation_overwrite (q : Nat) :
    (s.noteViolation c row port 1 sexp).2.isLenient c q = s.isLenient c q := by
  obtain ⟨_, _, _, h⟩ := s.noteViolation_overwrite_frame c row port sexp
  rw [h]
  rfl

theorem Dev.chest_noteViolation_overwrite : (s.noteViolation c row port 1 sexp).2.chest c = { s.chest c with
    violation := if (s.chest c).latched then (s.chest c).violation else (s.noteViolation c row port 1 sexp).1
    latched := true } := by
  rw [Dev.noteViolation_snd, ← Dev.chest_latchViolation]
  simp only [one_ne_zero, if_false, if_true, Dev.chest, Dev.bump_chests]

theorem Dev.ctr_noteViolation_overwrite :
    (s.noteViolation c row port 1 sexp).2.ctr 0x6020 c 1 = min (s.ctr 0x6020 c 1 + 1) (2 ^ 48 - 1) := by
  obtain ⟨_, h⟩ := s.latchViolation_frame c (s.noteViolation c row port 1 sexp).1
  rw [Dev.noteViolation_snd, h]
  exact Dev.ctr_bump _ 0x6020 c 1 1

end Violation

/-! ### The grant of a stamped write -/

/-- A wait-held write that meets a held row of another stamp stays (R168). -/
def Dev.waitHeld (s : Dev) (c : Nat) (r : RowReq) : Dev :=
  s.iff (s.chest c).heldSince.isNone fun s => s.modChest c fun x =>
    { x with heldSince := some s.now, heldLimit := s.heldLimitOf c r.row }

/-- Any other write to such a row is a violation, which a lenient context survives (R169, R171). -/
def Dev.overwriteHeld (s : Dev) (c port : Nat) (r : RowReq) (e pc : Nat) (hold : Bool) : Grant :=
  let (v, s) := s.noteViolation c r.row port 1 e
  if s.isLenient c r.row then .done (s.perform c r (some e) hold)
  else .done ((s.violationFault c r pc v).rejectReq r stHeldOverwrite)

section Held
variable (s : Dev) (c : Nat) (r : RowReq)

theorem Dev.mem_waitHeld : (s.waitHeld c r).mem = s.mem := by
  unfold Dev.waitHeld Dev.iff
  split
  · exact Dev.modChest_mem s c _
  · rfl

/-- A wait that has begun keeps its beginning and its limit. -/
theorem Dev.chest_waitHeld : (s.waitHeld c r).chest c = { s.chest c with
    heldSince := some ((s.chest c).heldSince.getD s.now)
    heldLimit := if (s.chest c).heldSince.isNone then s.heldLimitOf c r.row else (s.chest c).heldLimit } := by
  unfold Dev.waitHeld Dev.iff
  cases hsince : (s.chest c).heldSince with
  | none => simp
  | some t =>
    simp only [Option.isNone_some, Bool.false_eq_true, if_false, Option.getD_some]
    rw [← hsince]

variable (port e pc : Nat) (hold : Bool)

theorem Dev.overwriteHeld_of_strict (h : s.isLenient c r.row = false) : s.overwriteHeld c port r e pc hold =
    .done (((s.noteViolation c r.row port 1 e).2.violationFault c r pc (s.noteViolation c r.row port 1 e).1).rejectReq r
      stHeldOverwrite) := by
  simp [Dev.overwriteHeld, Dev.isLenient_noteViolation_overwrite, h]

theorem Dev.overwriteHeld_of_lenient (h : s.isLenient c r.row = true) : s.overwriteHeld c port r e pc hold =
    .done ((s.noteViolation c r.row port 1 e).2.perform c r (some e) hold) := by
  simp [Dev.overwriteHeld, Dev.isLenient_noteViolation_overwrite, h]

end Held

/-- One stamped write that meets no double-bit error, over the device whose stamps are fixed. -/
theorem Dev.grantOne_stampedWrite (d : Dev) (c port : Nat) (r : RowReq) {e : Nat} (hw : r.isWrite = true)
    (hs : ((d.chest c).units.get r.unit).stamped = true) (he : d.reqStamp c r = some e) (hue : d.meetsUe c r true = false) :
    d.grantOne c port r =
      if (((d.chest c).stat.get r.row).held && ((d.chest c).stat.get r.row).stamp != e) = true then
        if (r.waitHeld && port == pCwr) = true then .waits ((d.fixStamps c r).waitHeld c r)
        else (d.fixStamps c r).overwriteHeld c port r e ((d.chest c).units.get r.unit).pc ((d.chest c).units.get r.unit).hold
      else .done ((d.fixStamps c r).perform c r (some e) ((d.chest c).units.get r.unit).hold) := by
  have hfix := d.sameButUnits_fixStamps c r
  have hue' : (d.fixStamps c r).meetsUe c r true = false := by rw [hfix.meetsUe, hue]
  have hstat := hfix.stat
  cases ha : r.also with
  | none =>
    have hg : d.fixStamp c r.unit (some e) = d.fixStamps c r := by simp only [Dev.fixStamps, ha, he]
    simp [Dev.grantOne, Dev.iff, hs, hw, he, ha, hg, hue', hstat, Dev.waitHeld, Dev.overwriteHeld]
  | some a =>
    have hg : (d.fixStamp c r.unit (some e)).fixStamp c a (d.unitStamp c a) = d.fixStamps c r := by simp only [Dev.fixStamps, ha, he]
    simp [Dev.grantOne, Dev.iff, hs, hw, he, ha, hg, hue', hstat, Dev.waitHeld, Dev.overwriteHeld]

/-! ### The obligation -/

/-- From `d` to `g` the write `r` has stored its data, its stamp and its hold in its row of Chest `c`, and touched no other row. -/
def Dev.StoresRow (c : Nat) (r : RowReq) (e : Nat) (hold : Bool) (d g : Dev) : Prop :=
  g.rowData c r.row = mergeRow (d.rowData c r.row) r.data r.mask
    ∧ (g.chest c).stat.get r.row = { stamp := e, held := ((d.chest c).stat.get r.row).held || hold }
    ∧ ∀ q, q ≠ r.row → (g.chest c).stat.get q = (d.chest c).stat.get q ∧ g.rowData c q = d.rowData c q

/-- Storing the row after steps that left the memory and the statuses as they were. -/
theorem Dev.storesRow_storeRow {d s : Dev} {c : Nat} (hmem : s.mem = d.mem) (hstat : (s.chest c).stat = (d.chest c).stat)
    (r : RowReq) (e : Nat) (hold : Bool) : d.StoresRow c r e hold (s.storeRow c r e hold) := by
  refine ⟨?data, ?status, fun q hq => ⟨?otherStatus, ?otherData⟩⟩
  case data => rw [Dev.rowData_storeRow, Dev.rowData_of_mem_eq hmem]
  case status => rw [Dev.stat_storeRow, Tab.get_mod_same, hstat]
  case otherStatus => rw [Dev.stat_storeRow, Tab.get_mod_other _ _ _ _ hq, hstat]
  case otherData => rw [Dev.rowData_storeRow_other _ _ _ _ _ hq, Dev.rowData_of_mem_eq hmem]

section Grant
variable {c port e : Nat} {r : RowReq} {d : Dev} (hw : r.isWrite = true)
  (hs : ((d.chest c).units.get r.unit).stamped = true) (he : d.reqStamp c r = some e) (hue : d.meetsUe c r true = false)
include hw hs he hue

/-- A write to a row that is free, or held with the write's own stamp, is performed (R165). -/
theorem Dev.grantOne_write_agrees
    (hfree : ((d.chest c).stat.get r.row).held = false ∨ ((d.chest c).stat.get r.row).stamp = e) :
    ∃ g : Dev, d.grantOne c port r = .done (g.deliver r 0) ∧ d.StoresRow c r e ((d.chest c).units.get r.unit).hold g := by
  have hfix := d.sameButUnits_fixStamps c r
  have hno : ¬ (((d.chest c).stat.get r.row).held && ((d.chest c).stat.get r.row).stamp != e) = true := by
    rcases hfree with h | h <;> simp [h]
  exact ⟨_, by rw [d.grantOne_stampedWrite c port r hw hs he hue, if_neg hno, Dev.perform_write _ _ _ _ _ hw],
    Dev.storesRow_storeRow hfix.mem hfix.stat r e _⟩

section Conflict
variable (hheld : ((d.chest c).stat.get r.row).held = true) (hne : ((d.chest c).stat.get r.row).stamp ≠ e)
include hheld hne

/-- A wait-held CWR write waits from its first presentation on, and leaves the row as it was (R168). -/
theorem Dev.grantOne_write_waits (hwait : r.waitHeld = true) (hport : port = pCwr) :
    ∃ g : Dev, d.grantOne c port r = .waits g ∧ (g.mem = d.mem ∧ (g.chest c).stat = (d.chest c).stat)
      ∧ (g.chest c).ports = (d.chest c).ports ∧ (g.chest c).heldSince = some ((d.chest c).heldSince.getD d.now) := by
  have hfix := d.sameButUnits_fixStamps c r
  refine ⟨(d.fixStamps c r).waitHeld c r, ?grant, ⟨?mem, ?stat⟩, ?ports, ?since⟩
  case grant =>
    rw [d.grantOne_stampedWrite c port r hw hs he hue, if_pos (by simp [hheld, hne]), if_pos (by simp [hwait, hport])]
  case mem => rw [Dev.mem_waitHeld, hfix.mem]
  case stat => rw [Dev.chest_waitHeld, hfix.stat]
  case ports => rw [Dev.chest_waitHeld, hfix.ports]
  case since => rw [Dev.chest_waitHeld, hfix.heldSince, hfix.now]

section Violates
variable (hnowait : r.waitHeld = false ∨ port ≠ pCwr)
include hnowait

theorem Dev.grantOne_write_overwrites : d.grantOne c port r = (d.fixStamps c r).overwriteHeld c port r e
    ((d.chest c).units.get r.unit).pc ((d.chest c).units.get r.unit).hold := by
  have hgo : ¬ (r.waitHeld && port == pCwr) = true := by
    rcases hnowait with h | h <;> simp [h]
  rw [d.grantOne_stampedWrite c port r hw hs he hue, if_pos (by simp [hheld, hne]), if_neg hgo]

/-- Any other write is a HELD_OVERWRITE violation: recorded, counted and refused, with the row as it was (R165, R169, R170);
the fault carries its own record also where an earlier one stays latched (notes/assumptions/64.md). -/
theorem Dev.grantOne_write_violates (hstrict : d.isLenient c r.row = false) :
    let v := violRec c r.row port 1 e ((d.chest c).stat.get r.row) (d.time % 16) (d.beatB (c / 4))
    ∃ g : Dev, d.grantOne c port r =
        .done ((g.violationFault c r ((d.chest c).units.get r.unit).pc v).rejectReq r stHeldOverwrite)
      ∧ (g.mem = d.mem ∧ (g.chest c).stat = (d.chest c).stat) ∧ g.ctr 0x6020 c 1 = min (d.ctr 0x6020 c 1 + 1) (2 ^ 48 - 1)
      ∧ (g.chest c).violation = (if (d.chest c).latched then (d.chest c).violation else v) ∧ (g.chest c).latched = true := by
  intro v
  have hfix := d.sameButUnits_fixStamps c r
  have hv : ((d.fixStamps c r).noteViolation c r.row port 1 e).1 = v := by
    rw [Dev.noteViolation_fst, hfix.stat, hfix.time, hfix.beatB]
  refine ⟨((d.fixStamps c r).noteViolation c r.row port 1 e).2, ?grant, ⟨?mem, ?stat⟩, ?count, ?record, ?latched⟩
  case grant =>
    rw [Dev.grantOne_write_overwrites hw hs he hue hheld hne hnowait,
      Dev.overwriteHeld_of_strict _ _ _ _ _ _ _ (by rw [hfix.isLenient, hstrict]), hv]
  case mem => rw [Dev.mem_noteViolation_overwrite, hfix.mem]
  case stat => rw [Dev.chest_noteViolation_overwrite, hfix.stat]
  case count => rw [Dev.ctr_noteViolation_overwrite, hfix.ctr]
  case record => rw [Dev.chest_noteViolation_overwrite, hv, hfix.latched, hfix.violation]
  case latched => rw [Dev.chest_noteViolation_overwrite]

/-- A lenient context's violating write is counted and proceeds (R171). -/
theorem Dev.grantOne_write_lenient (hlenient : d.isLenient c r.row = true) :
    ∃ g : Dev, d.grantOne c port r = .done (g.deliver r 0)
      ∧ d.StoresRow c r e ((d.chest c).units.get r.unit).hold g ∧ g.ctr 0x6020 c 1 = min (d.ctr 0x6020 c 1 + 1) (2 ^ 48 - 1) := by
  have hfix := d.sameButUnits_fixStamps c r
  refine ⟨((d.fixStamps c r).noteViolation c r.row port 1 e).2.storeRow c r e ((d.chest c).units.get r.unit).hold,
    ?grant, Dev.storesRow_storeRow ?mem ?stat r e _, ?count⟩
  case grant =>
    rw [Dev.grantOne_write_overwrites hw hs he hue hheld hne hnowait,
      Dev.overwriteHeld_of_lenient _ _ _ _ _ _ _ (by rw [hfix.isLenient, hlenient]), Dev.perform_write _ _ _ _ _ hw]
  case mem => rw [Dev.mem_noteViolation_overwrite, hfix.mem]
  case stat => rw [Dev.chest_noteViolation_overwrite, hfix.stat]
  case count => rw [Dev.ctr_storeRow, Dev.ctr_noteViolation_overwrite, hfix.ctr]

end Violates
end Conflict
end Grant

/-- Settles O22: the stamps by arithmetic, the grants by the equation of a stamped write, one case for each of its branches. -/
theorem stampedWritesCheckTheHeldBit : Obligations.StampedWritesCheckTheHeldBit := by
  refine ⟨fun k beat d hk _ hd => ⟨effStamp_eq hk beat, one_le_effStamp k beat, effStamp_le k beat, effStamp_later hk hd beat⟩, ?_⟩
  intro c p r d u stamp x stores stays hw hs hue
  have he : d.reqStamp c r = some stamp := d.reqStamp_of_stamped c r hs
  exact ⟨fun hfree => Dev.grantOne_write_agrees hw hs he hue hfree, fun hheld hne =>
    ⟨fun hwait hport => Dev.grantOne_write_waits hw hs he hue hheld hne hwait hport, fun hnowait =>
      ⟨fun hstrict => Dev.grantOne_write_violates hw hs he hue hheld hne hnowait hstrict,
        fun hlenient => Dev.grantOne_write_lenient hw hs he hue hheld hne hnowait hlenient⟩⟩⟩

end Sys2Proof.Machine

/-! ## The machine: what every command keeps

Every command but the five of the boundary-scan port and the loss of standby power acts on the device through one function of it
(`exec_actOn`); the five act on the port alone through `State.scan`; and the loss of standby power has a rule of its own. -/
namespace Sys2Proof.Machine
open Sys2Proof

/-! ### What the port's commands and the loss of standby power do -/

section Scan
variable (s : State)

theorem exec_extest (pins : List Bool) : exec (.extest pins) s =
    s.scan fun j => if s.dev.power.testMode then j.toExtest pins else j.toBypass irExtest := rfl

theorem exec_sample (pins : List Bool) : exec (.sample pins) s = s.scan fun j => j.toSample s.dev.power.viod pins := rfl

theorem exec_preload (cells : List Bool) : exec (.preload cells) s =
    s.scan fun j => if s.dev.power.testMode then j.toPreload cells else j.toBypass irPreload := rfl

theorem exec_bypass (code : Nat) : exec (.bypass code) s =
    if irPreload < code ∧ code < 256 then s.scan fun j => j.toBypass code else .fault .noSuchUnit := rfl

theorem exec_trstLAssert : exec .trstLAssert s = s.scan fun j => j.toBypass irBypass := rfl

theorem exec_bypass_of_listed {code : Nat} (hlow : 3 ≤ code) (hhigh : code ≤ 255) :
    exec (.bypass code) s = s.scan fun j => j.toBypass code := by
  rw [exec_bypass, if_pos ⟨hlow, Nat.lt_succ_of_le hhigh⟩]

theorem State.scan_eq (f : Jtag → Jtag) :
    s.scan f = .next { s with jtag := if s.dev.power.aonPwrok then f s.jtag else s.jtag } := by
  unfold State.scan
  cases s.dev.power.aonPwrok <;> rfl

theorem State.scan_of_off (f : Jtag → Jtag) (h : s.dev.power.aonPwrok = false) : s.scan f = .next s := by
  rw [State.scan, if_neg (by simp [h])]

end Scan

/-- A command of the boundary-scan port: it maps the port, as the device lets it. -/
def IsScan (c : Instr) : Prop :=
  ∃ f : Dev → Jtag → Jtag, ∀ s, exec c s = if c.wf then s.scan (f s.dev) else .fault .noSuchUnit

theorem wf_bypass (code : Nat) : Instr.wf (.bypass code) = decide (irPreload < code ∧ code < 256) := by
  rw [Bool.decide_and]; rfl

theorem isScan_bypass (code : Nat) : IsScan (.bypass code) :=
  ⟨fun _ j => j.toBypass code, fun s => by simp only [exec_bypass, wf_bypass, decide_eq_true_eq]⟩

theorem isScan_of_scan {c : Instr} (f : Dev → Jtag → Jtag) (hwf : c.wf = true) (h : ∀ s, exec c s = s.scan (f s.dev)) : IsScan c :=
  ⟨f, fun s => by rw [if_pos hwf, h]⟩

theorem isScan_extest (pins : List Bool) : IsScan (.extest pins) :=
  isScan_of_scan (fun d j => if d.power.testMode then j.toExtest pins else j.toBypass irExtest) rfl fun s => exec_extest s pins

theorem isScan_sample (pins : List Bool) : IsScan (.sample pins) :=
  isScan_of_scan (fun d j => j.toSample d.power.viod pins) rfl fun s => exec_sample s pins

theorem isScan_preload (cells : List Bool) : IsScan (.preload cells) :=
  isScan_of_scan (fun d j => if d.power.testMode then j.toPreload cells else j.toBypass irPreload) rfl fun s => exec_preload s cells

theorem isScan_trstLAssert : IsScan .trstLAssert := isScan_of_scan (fun _ j => j.toBypass irBypass) rfl exec_trstLAssert

/-- The commands are of three kinds: those of the port, the loss of standby power, and those that act on the device alone. -/
theorem command_kinds (c : Instr) : IsScan c ∨ c = .aonPwrokFall ∨ Instr.scans c = false := by
  cases hc : Instr.scans c with
  | false => exact .inr (.inr rfl)
  | true =>
    unfold Instr.scans at hc
    split at hc
    case h_1 pins => exact .inl (isScan_extest pins)
    case h_2 pins => exact .inl (isScan_sample pins)
    case h_3 cells => exact .inl (isScan_preload cells)
    case h_4 code => exact .inl (isScan_bypass code)
    case h_5 => exact .inl isScan_trstLAssert
    case h_6 => exact .inr (.inl rfl)
    case h_7 => cases hc

theorem aonPwrokFall_now (d : Dev) : (aonPwrokFall d).now = d.now := by
  unfold aonPwrokFall
  split
  · rfl
  · exact d.flashCut_now

/-- What one command does: where it is well formed it maps the port and the device, which keeps its cycle, and faults otherwise. -/
theorem exec_cases (c : Instr) : ∃ (j : Dev → Jtag → Jtag) (f : Dev → Dev), (∀ d, (f d).now = d.now) ∧
    ∀ s, exec c s = if c.wf then .next { s with jtag := j s.dev s.jtag, dev := f s.dev } else .fault .noSuchUnit := by
  rcases command_kinds c with ⟨g, hg⟩ | rfl | hc
  · refine ⟨fun d j => if d.power.aonPwrok then g d j else j, id, fun _ => rfl, fun s => ?_⟩
    rw [hg, State.scan_eq]
    rfl
  · exact ⟨fun d j => if d.power.aonPwrok then {} else j, aonPwrokFall, aonPwrokFall_now, fun _ => rfl⟩
  · obtain ⟨f, hf⟩ := exec_actOn c hc
    exact ⟨fun _ j => j, fun d => { f d with now := d.now }, fun _ => rfl, fun s => hf s⟩

theorem exec_of_next {c : Instr} {s t : State} (h : exec c s = .next t) :
    t.pending = s.pending ∧ t.dev.now = s.dev.now ∧ ∀ q, exec c { s with pending := q } = .next { t with pending := q } := by
  obtain ⟨j, f, hnow, hexec⟩ := exec_cases c
  cases hwf : c.wf with
  | false => rw [hexec, hwf] at h; cases h
  | true =>
    rw [hexec, hwf] at h
    cases h
    exact ⟨rfl, hnow _, fun q => by rw [hexec, hwf]; rfl⟩

theorem tick_now (d : Dev) : (tick d).now = d.now + 1 := by
  unfold tick
  split <;> rfl

theorem step_of_pending_nil {s : State} (h : s.pending = []) : step s = .next { s with dev := tick s.dev } := by
  rw [step, h]

theorem step_of_pending_cons (c : Instr) (rest : List Instr) (s : State) :
    step { s with pending := c :: rest } = exec c { s with pending := rest } := rfl

/-! ### The port stays legal (R495) -/

theorem Jtag.wf_default : Jtag.wf {} = true := by decide

theorem Jtag.wf_toBypass (j : Jtag) {code : Nat} (h : code < 256) : (j.toBypass code).wf = true := by
  simp [Jtag.wf, Jtag.toBypass, h]

theorem Jtag.wf_toExtest (j : Jtag) (pins : List Bool) : (j.toExtest pins).wf = true := by
  simp [Jtag.wf, Jtag.toExtest]

theorem Jtag.wf_toSample (j : Jtag) (viod : Bool) (pins : List Bool) : (j.toSample viod pins).wf = true := by
  simp [Jtag.wf, Jtag.toSample]

theorem Jtag.wf_toPreload (j : Jtag) (cells : List Bool) : (j.toPreload cells).wf = true := by
  simp [Jtag.wf, Jtag.toPreload, irPreload]

theorem wf_of_scan {s t : State} {f : Jtag → Jtag} (hf : (f s.jtag).wf = true) (hs : s.jtag.wf = true)
    (h : s.scan f = .next t) : t.jtag.wf = true := by
  rw [State.scan_eq] at h
  cases h
  show (if s.dev.power.aonPwrok then f s.jtag else s.jtag).wf = true
  split
  · exact hf
  · exact hs

/-- A command that does not act on the port leaves it as it was. -/
theorem jtag_of_exec {c : Instr} {s t : State} (hc : Instr.scans c = false) (h : exec c s = .next t) : t.jtag = s.jtag := by
  obtain ⟨_, _, _, rfl⟩ := exec_next c hc s t h
  rfl

/-- Every command keeps the port legal. -/
theorem exec_keeps_jtag_wf {c : Instr} {s t : State} (hs : s.jtag.wf = true) (h : exec c s = .next t) : t.jtag.wf = true := by
  cases hc : Instr.scans c with
  | false => rw [jtag_of_exec hc h]; exact hs
  | true =>
    unfold Instr.scans at hc
    split at hc
    case h_1 pins =>
      refine wf_of_scan ?_ hs (exec_extest s pins ▸ h)
      split
      · exact s.jtag.wf_toExtest pins
      · exact s.jtag.wf_toBypass (by decide)
    case h_2 pins => exact wf_of_scan (s.jtag.wf_toSample _ pins) hs (exec_sample s pins ▸ h)
    case h_3 cells =>
      refine wf_of_scan ?_ hs (exec_preload s cells ▸ h)
      split
      · exact s.jtag.wf_toPreload cells
      · exact s.jtag.wf_toBypass (by decide)
    case h_4 code =>
      rw [exec_bypass] at h
      split at h
      case isTrue hcode => exact wf_of_scan (s.jtag.wf_toBypass hcode.2) hs h
      case isFalse => cases h
    case h_5 => exact wf_of_scan (s.jtag.wf_toBypass (by decide)) hs (exec_trstLAssert s ▸ h)
    case h_6 =>
      cases h
      show (if s.dev.power.aonPwrok then ({} : Jtag) else s.jtag).wf = true
      split
      · exact Jtag.wf_default
      · exact hs
    case h_7 => cases hc

/-! ### The obligations -/

/-- Settles O3: a cycle moves the clock on and keeps the port; a command keeps the clock, and the port's legality code by code. -/
theorem everyStepKeepsSoundness : Obligations.EveryStepKeepsSoundness := by
  intro s t n hs h
  simp only [State.soundSince, Bool.and_eq_true, decide_eq_true_eq] at hs ⊢
  obtain ⟨hjtag, hnow⟩ := hs
  cases hp : s.pending with
  | nil =>
    rw [step_of_pending_nil hp] at h
    cases h
    exact ⟨hjtag, by rw [tick_now]; omega⟩
  | cons c rest =>
    have hexec : exec c { s with pending := rest } = .next t := by rw [← h, step, hp]
    obtain ⟨_, hclock, _⟩ := exec_of_next hexec
    exact ⟨exec_keeps_jtag_wf (s := { s with pending := rest }) hjtag hexec, hclock.symm ▸ hnow⟩

/-- Settles O4: both answers are branches of the one equation of a command. -/
theorem exactlyWellFormedCommandsAnswer : Obligations.ExactlyWellFormedCommandsAnswer := by
  intro c s
  obtain ⟨j, f, _, hexec⟩ := exec_cases c
  exact ⟨fun hwf => ⟨_, (hexec s).trans (if_pos hwf)⟩, fun hwf => (hexec s).trans (if_neg (by simp [hwf]))⟩

/-- Settles O5: the equation of a command names neither the queue nor another cycle, and a tick is one cycle. -/
theorem commandsLeaveTheQueueAndTheClock : Obligations.CommandsLeaveTheQueueAndTheClock :=
  ⟨fun _ _ _ h => exec_of_next h, fun s hp => ⟨tick s.dev, step_of_pending_nil hp, tick_now s.dev⟩⟩

theorem dev_of_scan {c : Instr} (hc : IsScan c) {s t : State} (h : exec c s = .next t) : t.dev = s.dev := by
  obtain ⟨f, hf⟩ := hc
  rw [hf, State.scan_eq] at h
  split at h
  · cases h; rfl
  · cases h

/-- Settles O6: the port's five commands act by `State.scan`, and no other command but the loss of standby power reaches the port. -/
theorem boundaryScanIsApart : Obligations.BoundaryScanIsApart := by
  intro c s t h
  split
  case h_1 pins => exact dev_of_scan (isScan_extest pins) h
  case h_2 pins => exact dev_of_scan (isScan_sample pins) h
  case h_3 cells => exact dev_of_scan (isScan_preload cells) h
  case h_4 code => exact dev_of_scan (isScan_bypass code) h
  case h_5 => exact dev_of_scan isScan_trstLAssert h
  case h_6 => cases h; rfl
  case h_7 hextest hsample hpreload hbypass htrst hfall =>
    refine jtag_of_exec ?_ h
    unfold Instr.scans
    split
    · exact absurd rfl (hextest _)
    · exact absurd rfl (hsample _)
    · exact absurd rfl (hpreload _)
    · exact absurd rfl (hbypass _)
    · exact absurd rfl htrst
    · exact absurd rfl hfall
    · rfl

/-- Settles O1. -/
theorem stepRunsTheCommandInFront : Obligations.StepRunsTheCommandInFront := step_of_pending_cons

theorem memRead_nil_zero (a n : Nat) : memRead 0 [] a n = zeros n := by
  induction n generalizing a with
  | zero => rfl
  | succ n ih => rw [memRead, ih]; rfl

theorem no_rail_enabled (i : Nat) : State.reset.dev.power.en i = false := by
  have hlist : State.reset.dev.power.pwrEn = List.replicate 12 false := rfl
  rw [Power.en, hlist, List.getD_eq_getElem?_getD, List.getElem?_replicate]
  split <;> rfl

/-- Settles O2: an empty memory is canonical and reads as zeros. -/
theorem resetIsSound : Obligations.ResetIsSound :=
  ⟨rfl, by decide, by decide, rfl, no_rail_enabled, fun a n => memRead_nil_zero a n⟩

/-- Settles O15: each command by its own arm, with the domain powered and without. -/
theorem boundaryScanInstructions : Obligations.BoundaryScanInstructions := by
  intro s
  constructor
  case left =>
    intro hp
    have hscan : ∀ f, s.scan f = .next { s with jtag := f s.jtag } := fun f => by rw [State.scan_eq, if_pos hp]
    exact ⟨fun pins => (exec_extest s pins).trans (hscan _), fun pins => (exec_sample s pins).trans (hscan _),
      fun cells => (exec_preload s cells).trans (hscan _),
      fun code hlow hhigh => (exec_bypass_of_listed s hlow hhigh).trans (hscan _), (exec_trstLAssert s).trans (hscan _)⟩
  case right =>
    intro hp
    have hscan : ∀ f, s.scan f = .next s := fun f => s.scan_of_off f hp
    exact ⟨fun pins => (exec_extest s pins).trans (hscan _), fun pins => (exec_sample s pins).trans (hscan _),
      fun cells => (exec_preload s cells).trans (hscan _),
      fun code hlow hhigh => (exec_bypass_of_listed s hlow hhigh).trans (hscan _), (exec_trstLAssert s).trans (hscan _)⟩

end Sys2Proof.Machine

/-! ## Standby power, resets and rails (R404 to R406, R417, R418, R487 to R492) -/
namespace Sys2Proof.Machine
open Sys2Proof

/-! ### What a command that acts on the device answers -/

/-- A command that acts on the device by `f` answers with what `f` makes of the device, in the same cycle. -/
theorem exec_of_act {c : Instr} {s : State} {f : Dev → Dev} {g : Dev} (h : exec c s = s.act f) (hg : f s.dev = g) :
    exec c s = .next { s with dev := { g with now := s.dev.now } } := by rw [h, State.act, hg]

/-- The same for a command that faults where it names a unit that is not there. -/
theorem exec_of_actOn {c : Instr} {s : State} {known : Bool} {f : Dev → Dev} {g : Dev} (h : exec c s = s.actOn known f)
    (hknown : known = true) (hg : f s.dev = g) : exec c s = .next { s with dev := { g with now := s.dev.now } } := by
  rw [h, State.actOn, if_pos hknown, State.act, hg]

/-! ### A flash operation cut short (R489) -/

theorem Dev.flashCut_of_idle {d : Dev} (h : d.boot.flashOps = []) : d.flashCut = d := by
  rw [Dev.flashCut, h]

/-- A cut touches the flash, its queue of operations and the count of free values, and nothing else. -/
theorem Dev.flashCut_frame (d : Dev) : ∃ free flash ops,
    d.flashCut = { d with freeCount := free, flash := flash, boot := { d.boot with flashOps := ops } } := by
  unfold Dev.flashCut
  split
  · exact ⟨_, _, _, rfl⟩
  · exact ⟨_, _, _, rfl⟩

theorem Dev.flashCut_power (d : Dev) : d.flashCut.power = d.power := by
  obtain ⟨_, _, _, h⟩ := d.flashCut_frame
  rw [h]

theorem Dev.flashCut_ledger (d : Dev) : d.flashCut.ledger = d.ledger := by
  obtain ⟨_, _, _, h⟩ := d.flashCut_frame
  rw [h]

/-! ### Standby power (R405, R489) and RESET_L (R490) -/

/-- The device once the straps are latched at a rise of AON_PWROK. -/
def Dev.latchStraps (d : Dev) (e : AonEnv) : Dev := { d with
  power := { d.power with dstate := .aon, aonPwrok := true, trayslot := e.traySlot % 4, testMode := e.testMode }
  boot := { d.boot with flashUsable := e.flashUsable, flashOctal := e.flashUsable && e.flashOctal, flashFail := e.flashFail } }

theorem aonPwrokRise_of_off {e : AonEnv} {d : Dev} (hpwr : d.power.aonPwrok = false) (hoff : d.power.dstate = .off)
    (hvalid : e.vaonValid = true) : aonPwrokRise e d =
      if d.power.resetL then (d.latchStraps e).romStart e.pufReading
      else { d.latchStraps e with boot := { (d.latchStraps e).boot with romPending := true } } := by
  rw [aonPwrokRise, if_neg (by simp [hpwr, hoff, hvalid])]
  rfl

theorem aonPwrokFall_of_on {d : Dev} (hpwr : d.power.aonPwrok = true) : aonPwrokFall d =
    { (default : Dev) with
      now := d.flashCut.now, freeCount := d.flashCut.freeCount, nextId := d.flashCut.nextId, flash := d.flashCut.flash
      out := d.flashCut.out, power := { (default : Power) with resetL := d.power.resetL }
      ledger := { logSeq := d.ledger.logSeq }, conc := d.flashCut.conc.kept } := by
  rw [aonPwrokFall, if_neg (by simp [hpwr]), ← d.flashCut_power, ← d.flashCut_ledger]

/-- The device with RESET_L held low. -/
def Dev.holdReset (d : Dev) : Dev := d.modPower fun p => { p with resetL := false }

theorem resetLFall_of_high {d : Dev} (hpwr : d.power.aonPwrok = true) (hreset : d.power.resetL = true) : resetLFall d =
    (d.holdReset.flashCut.coldBoot.modPower fun p =>
      { p with lowering := p.stage != 0, enAt := d.holdReset.flashCut.now }).modBoot fun b => { b with pufOffAt := none } := by
  rw [resetLFall, if_neg (by simp [hreset])]
  exact if_neg (by simp [hpwr])

/-- The power state of a cold boot whose rails that are up are lowered from cycle `n` on (R490). -/
theorem Dev.power_coldBoot_lowered {g : Dev} {p : Power} (hp : g.power = p) (n : Nat) :
    (g.coldBoot.modPower fun q => { q with lowering := q.stage != 0, enAt := n }).power =
      { p with dstate := .aon, bring := .none, mainStart := none, wpLow := false, lpReset := true, lowering := p.stage != 0, enAt := n } := by
  subst hp; rfl

theorem resetLRise_of_low {d : Dev} (slot : Nat) (tm : Bool) (hpwr : d.power.aonPwrok = true) (hreset : d.power.resetL = false) :
    resetLRise slot tm d = { d with
      power := { d.power with resetL := true, trayslot := slot % 4, testMode := tm, thermTrip := false }
      boot := { d.boot with romPending := true, pufOffAt := some d.now } } := by
  rw [resetLRise, if_neg (by simp [hreset])]
  exact if_neg (by simp [hpwr])

/-! ### The readout of the PUF array (R393) -/

theorem pufRetry_of_due {d : Dev} {u : Nat} (reading : Nat) (hoff : d.boot.pufOffAt = some u) (hdue : u + msec ≤ d.now)
    (hrom : d.boot.romPending = true) (haon : d.power.dstate = .aon) (hreset : d.power.resetL = true)
    (hdown : d.power.lowering = false) : pufRetry reading d = d.romStart reading := by
  rw [pufRetry, hoff]
  exact if_pos (by simp [hdue, hrom, haon, hreset, hdown])

theorem Dev.twoRead_of_flash_eq {g d : Dev} (h : g.flash = d.flash) (o0 o1 len : Nat) (ok : Bytes → Bool) :
    g.twoRead o0 o1 len ok = d.twoRead o0 o1 len ok := by
  unfold Dev.twoRead Dev.flashAt
  rw [h]

theorem Dev.seedOf_of_flash_eq {g d : Dev} (h : g.flash = d.flash) (reading : Nat) : g.seedOf reading = d.seedOf reading := by
  unfold Dev.seedOf
  rw [Dev.twoRead_of_flash_eq h]

/-- A readout that fails for the first or the second time switches the array off again. -/
theorem Dev.romIdentity_of_noSeed {d : Dev} {reading : Nat} (hseed : d.seedOf reading = none) (htries : d.boot.pufTries < 2) :
    d.romIdentity reading =
      d.modBoot fun b => { b with pufTries := b.pufTries + 1, pufOffAt := some d.now, romPending := true } := by
  have hfew : d.boot.pufTries + 1 < 3 := by omega
  unfold Dev.romIdentity
  split
  · next _ hsome => rw [hseed] at hsome; cases hsome
  · exact if_pos hfew

theorem Dev.romStart_of_noSeed {d : Dev} {reading : Nat} (husable : d.boot.flashUsable = true) (hseed : d.seedOf reading = none)
    (htries : d.boot.pufTries < 2) : d.romStart reading = { d with
      power := { d.power with wpLow := true }
      boot := { d.boot with pufTries := d.boot.pufTries + 1, pufOffAt := some d.now, romPending := true } } :=
  (if_pos husable).trans
    (Dev.romIdentity_of_noSeed ((Dev.seedOf_of_flash_eq (d.modPower_flash _) reading).trans hseed) htries)

/-- Settles O7: each command by its equation; what a cut leaves of power and Ledger is its frame. -/
theorem standbyPowerAndResetLines : Obligations.StandbyPowerAndResetLines := by
  refine ⟨fun e s hpwr hoff hvalid => ?rise, fun s hpwr => ?fall, fun s hpwr hreset => ?resetFall,
    fun slot tm s hpwr hreset => exec_of_act rfl (resetLRise_of_low slot tm hpwr hreset),
    fun reading u s hoff hdue hrom haon hreset hdown => ?retry⟩
  case rise =>
    intro up
    rw [exec_of_act (f := aonPwrokRise e) rfl (aonPwrokRise_of_off hpwr hoff hvalid)]
    cases s.dev.power.resetL <;> rfl
  case fall =>
    refine ⟨_, rfl, if_pos hpwr, rfl, ?_⟩
    show (aonPwrokFall s.dev).power = _ ∧ (aonPwrokFall s.dev).diesLost ∧ (aonPwrokFall s.dev).boot = _
      ∧ (aonPwrokFall s.dev).ledger = _ ∧ (_ → (aonPwrokFall s.dev).flash = _)
    rw [aonPwrokFall_of_on hpwr]
    refine ⟨rfl, ⟨rfl, rfl, rfl, rfl, rfl, rfl, rfl, rfl, rfl, rfl, rfl, rfl, rfl, rfl, rfl, rfl⟩, rfl, rfl, fun hidle => ?_⟩
    rw [Dev.flashCut_of_idle hidle]
  case resetFall =>
    have hnow : s.dev.holdReset.flashCut.now = s.dev.now := Dev.flashCut_now _
    refine ⟨_, exec_of_act rfl (resetLFall_of_high hpwr hreset), ?_,
      ⟨rfl, rfl, rfl, rfl, rfl, rfl, rfl, rfl, rfl, rfl, rfl, rfl, rfl, rfl, rfl, rfl⟩, rfl, rfl, fun hidle => ?_⟩
    · rw [hnow]
      exact Dev.power_coldBoot_lowered (Dev.flashCut_power _) _
    · show s.dev.holdReset.flashCut.flash = _
      rw [Dev.flashCut_of_idle (d := s.dev.holdReset) hidle]
      rfl
  case retry =>
    have hstart := pufRetry_of_due reading hoff hdue hrom haon hreset hdown
    exact ⟨exec_of_act rfl hstart, fun husable hseed htries => exec_of_act rfl (hstart.trans (Dev.romStart_of_noSeed husable hseed htries))⟩

end Sys2Proof.Machine

/-! ## What events, log records and faults leave unchanged

A function of the device keeps a view of it when the view reads the same before and after. The view `Dev.apart` blanks the parts that
the fault of a context may reach; what it leaves standing a fault does not touch. -/
namespace Sys2Proof.Machine
open Sys2Proof

/-! ### Views that steps keep -/

section Keeps
variable {α β : Type} (view : Dev → β)

theorem foldl_keeps {f : Dev → α → Dev} (h : ∀ s x, view (f s x) = view s) (l : List α) (s : Dev) :
    view (l.foldl f s) = view s := by
  induction l generalizing s with
  | nil => rfl
  | cons x l ih => exact (ih (f s x)).trans (h s x)

theorem each_keeps {f : α → Dev → Dev} (h : ∀ x s, view (f x s) = view s) (l : List α) (s : Dev) :
    view (each l f s) = view s := foldl_keeps view (fun s x => h x s) l s

theorem iff_keeps {f : Dev → Dev} (h : ∀ s, view (f s) = view s) (c : Bool) (s : Dev) : view (s.iff c f) = view s := by
  unfold Dev.iff
  split
  · exact h s
  · rfl

/-- A fold keeps what each of its steps keeps over the state it meets. -/
theorem foldl_keeps_of {P : Dev → Prop} {f : Dev → α → Dev} (h : ∀ s x, P s → P (f s x)) (l : List α) {s : Dev} (hs : P s) :
    P (l.foldl f s) := by
  induction l generalizing s with
  | nil => exact hs
  | cons x l ih => exact ih (h s x hs)

end Keeps

/-! ### Events and records (R366, R374) -/

/-- An event changes its ring alone. -/
theorem Dev.ringEvent_frame (s : Dev) (r code : Nat) (res : Bytes) : ∃ rings, s.ringEvent r code res = { s with rings := rings } := by
  unfold Dev.ringEvent
  extract_lets x
  split
  · exact ⟨_, rfl⟩
  · split
    · exact ⟨_, rfl⟩
    · split
      · exact ⟨_, rfl⟩
      · exact ⟨_, rfl⟩

theorem Dev.ctxEvent_frame (s : Dev) (c code : Nat) (fs : List (Nat × Nat × Nat)) :
    ∃ rings, s.ctxEvent c code fs = { s with rings := rings } := by
  unfold Dev.ctxEvent
  extract_lets x
  split
  · exact s.ringEvent_frame _ _ _
  · exact ⟨_, rfl⟩

/-- An event of the management ring changes that ring, or waits for it. -/
theorem Dev.event_frame (s : Dev) (code : Nat) (fs : List (Nat × Nat × Nat)) :
    ∃ rings early, s.event code fs = { s with rings := rings, early := early } := by
  unfold Dev.event
  split
  · obtain ⟨rings, h⟩ := s.ringEvent_frame mgmtRing code (result fs)
    exact ⟨rings, s.early, h⟩
  · exact ⟨_, _, rfl⟩

theorem Dev.post_frame (s : Dev) (r : Nat) (e : Bytes) (st : Nat) (fs : List (Nat × Nat × Nat)) :
    ∃ rings, s.post r e st fs = { s with rings := rings } := by
  unfold Dev.post Dev.iff
  split
  · exact ⟨_, rfl⟩
  · exact ⟨_, rfl⟩

theorem Dev.finish_frame (s : Dev) (r id st : Nat) (fs : List (Nat × Nat × Nat)) :
    ∃ rings, s.finish r id st fs = { s with rings := rings } := by
  unfold Dev.finish
  split
  · exact ⟨_, rfl⟩
  · obtain ⟨rings, h⟩ := Dev.post_frame (s.modRing r _) r _ st fs
    exact ⟨rings, h⟩

theorem Dev.refuseFetched_frame (s : Dev) (r st n : Nat) : ∃ rings, s.refuseFetched r st n = { s with rings := rings } := by
  induction n generalizing s with
  | zero => exact ⟨_, rfl⟩
  | succ n ih =>
    unfold Dev.refuseFetched
    split
    · exact ⟨_, rfl⟩
    · split
      · next c rest _ _ =>
        obtain ⟨rings, hpost⟩ := Dev.post_frame (s.modRing r fun x => { x with fetched := rest }) r c.entry st []
        obtain ⟨rings', hrest⟩ := ih ((s.modRing r fun x => { x with fetched := rest }).post r c.entry st [])
        exact ⟨rings', by rw [hrest, hpost]; rfl⟩
      · exact ⟨_, rfl⟩

/-! ### The log (R452) -/

theorem Dev.persistLog_frame (s : Dev) (x : LogRec) : ∃ ops, s.persistLog x = { s with boot := { s.boot with flashOps := ops } } := by
  unfold Dev.persistLog Dev.iff
  split
  · exact ⟨s.boot.flashOps ++ [{ erase := [], prog := [(logRingSlot x.seq, x.bytes)], andThen := .nothing }], rfl⟩
  · exact ⟨s.boot.flashOps, rfl⟩

/-- A new log record changes the Ledger, and queues its flash operation where it persists. -/
theorem Dev.logAdd_frame (s : Dev) (x : LogRec) : ∃ ledger ops,
    (s.logAdd x).2 = { s with ledger := ledger, boot := { s.boot with flashOps := ops } } := by
  unfold Dev.logAdd
  extract_lets y s1
  obtain ⟨ledger, hledger⟩ : ∃ l, s1 = { s with ledger := l } := ⟨_, rfl⟩
  clear_value s1 y
  subst hledger
  obtain ⟨ops, h⟩ := Dev.persistLog_frame _ y
  exact ⟨ledger, ops, h⟩

/-! ### The fault of a context (R92, R339) -/

/-- The device with everything blanked that the fault of a context may reach, but for the context table. -/
@[irreducible] def Dev.apart (s : Dev) : Dev := { s with
  freeCount := 0, mem := [], tiles := [], sidecars := [], counters := [], bumped := [], stalls := [], chests := [], blocks := [], lots := []
  tasks := [], teardowns := [], rings := [], loadQ := [], loading := none, copies := [], pool := {}, coll := {}
  elveel := { s.elveel with outq := [], nextOut := 0 }, warden := { s.warden with gov0 := {}, gov1 := {} } }

section Apart
variable (s : Dev)

/-- Of what a fault reaches, any change leaves the view as it was. -/
theorem Dev.apart_update (freeCount : Nat) (mem tiles sidecars : Memory) (counters bumped : Tab Nat) (stalls : Tab Stall)
    (chests : Tab Chest) (blocks : Tab Block) (lots : Tab Lot) (tasks : Tab TaskSlot) (teardowns : List Teardown) (rings : Tab PRing)
    (loadQ : List (Nat × Nat)) (loading : Option (Nat × Nat)) (copies : Tab CopyJob) (pool : Pool) (coll : CollEng)
    (outq : List OutReq) (nextOut : Nat) (gov0 gov1 : Gov) : Dev.apart { s with
      freeCount := freeCount, mem := mem, tiles := tiles, sidecars := sidecars, counters := counters, bumped := bumped, stalls := stalls
      chests := chests, blocks := blocks, lots := lots, tasks := tasks, teardowns := teardowns, rings := rings, loadQ := loadQ
      loading := loading, copies := copies, pool := pool, coll := coll, elveel := { s.elveel with outq := outq, nextOut := nextOut }
      warden := { s.warden with gov0 := gov0, gov1 := gov1 } } = s.apart := by
  unfold Dev.apart; rfl

theorem Dev.apart_ringEvent (r code : Nat) (res : Bytes) : (s.ringEvent r code res).apart = s.apart := by
  obtain ⟨_, h⟩ := s.ringEvent_frame r code res
  rw [h]; exact s.apart_update ..

theorem Dev.apart_ctxEvent (c code : Nat) (fs : List (Nat × Nat × Nat)) : (s.ctxEvent c code fs).apart = s.apart := by
  obtain ⟨_, h⟩ := s.ctxEvent_frame c code fs
  rw [h]; exact s.apart_update ..

theorem Dev.apart_post (r : Nat) (e : Bytes) (st : Nat) (fs : List (Nat × Nat × Nat)) : (s.post r e st fs).apart = s.apart := by
  obtain ⟨_, h⟩ := s.post_frame r e st fs
  rw [h]; exact s.apart_update ..

theorem Dev.apart_refuseFetched (r st n : Nat) : (s.refuseFetched r st n).apart = s.apart := by
  obtain ⟨_, h⟩ := s.refuseFetched_frame r st n
  rw [h]; exact s.apart_update ..

theorem Dev.apart_ringFault (r : Nat) : (s.ringFault r).apart = s.apart := by
  unfold Dev.ringFault
  extract_lets x taken kept s1 s2 s3 s4 s5 s6
  have h1 : s1.apart = s.apart := s.apart_update ..
  clear_value s1
  have h2 : s2.apart = s1.apart := foldl_keeps Dev.apart (fun s (k : RunCmd) => Dev.apart_post s r k.entry 0x26 []) _ s1
  clear_value s2
  have h3 : s3.apart = s2.apart := foldl_keeps Dev.apart (fun s (k : RunCmd) => Dev.apart_post s r k.entry 0x46 []) _ s2
  clear_value s3
  have h4 : s4.apart = s3.apart := s3.apart_refuseFetched r 0x46 32
  clear_value s4
  exact (s4.apart_update ..).trans (h4.trans (h3.trans (h2.trans h1)))

theorem Dev.apart_abandon (n : Nat) : (s.abandon n).apart = s.apart := by
  unfold Dev.abandon
  extract_lets st s1
  refine Eq.trans (b := s1.apart) (s1.apart_update ..) (foldl_keeps Dev.apart (fun t j => ?_) st.jobs s)
  split
  · extract_lets w
    split
    · rfl
    · exact t.apart_update ..
  · exact foldl_keeps Dev.apart (fun u _ => by exact u.apart_update ..) _ t

theorem Dev.apart_stopStall (n : Nat) : (s.stopStall n).apart = s.apart := by
  unfold Dev.stopStall
  split
  · rfl
  · exact ((s.abandon n).apart_update ..).trans (s.apart_abandon n)

theorem Dev.apart_dropRequests (c : Nat) : (s.dropRequests c).apart = s.apart :=
  iff_keeps Dev.apart (fun t => by exact t.apart_update ..) _ s

theorem Dev.apart_collFault (c : Nat) : (s.collFault c).apart = s.apart := by
  unfold Dev.collFault
  extract_lets mine s1 s2
  refine Eq.trans (b := s1.apart) (s1.apart_update ..) (foldl_keeps Dev.apart (fun t p => ?_) mine s)
  exact foldl_keeps Dev.apart (fun u _ => by exact u.apart_update ..) _ t

theorem Dev.apart_clearStamps (c mask : Nat) : (s.clearStamps c mask).apart = s.apart :=
  iff_keeps Dev.apart (fun t => by exact t.apart_update ..) _ s

theorem Dev.apart_wipeBanks (c mask : Nat) : (s.wipeBanks c mask).apart = s.apart := s.apart_update ..

theorem Dev.apart_dropBanks (b : Nat) : (s.dropBanks b).apart = s.apart := by
  unfold Dev.dropBanks
  extract_lets f k
  exact each_keeps Dev.apart (fun _ t => iff_keeps Dev.apart (fun u => by exact u.apart_update ..) _ t) _ s

theorem Dev.apart_loseBack (k : Nat) : (s.loseBack k).apart = s.apart := by
  unfold Dev.loseBack
  extract_lets s1 rect keep drop s2
  refine (each_keeps Dev.apart (fun b t => ?_) rect s2).trans (s.apart_update ..)
  exact (Dev.apart_dropBanks _ b).trans (t.apart_update ..)

end Apart

/-- A fault of a context that is not BOUND has no effect. -/
theorem Dev.faultCtx_of_unbound {s : Dev} {c : Nat} (h : (s.ctx c).state ≠ .bound) (fcode funit off : Nat) (viol : W64)
    (name : FaultName) : s.faultCtx c fcode funit off viol name = s := if_pos h

/-- What a BOUND context's entry holds once the context has faulted. -/
def Ctx.faulted (x : Ctx) (fcode funit : Nat) (name : FaultName) : Ctx :=
  { x with state := .faulted, fcode := fcode, funit := funit, fname := name }

/-- The fault of a BOUND context: its entry is written, its teardown is noted, and beyond what `Dev.apart` blanks nothing changes. -/
theorem Dev.faultCtx_of_bound {s : Dev} {c : Nat} (h : (s.ctx c).state = .bound) (fcode funit off : Nat) (viol : W64) (name : FaultName) :
    ∃ g : Dev, s.faultCtx c fcode funit off viol name = { g with teardowns := g.teardowns ++ [{ ctx := c, started := g.now, step4 := true }] }
      ∧ g.apart = (s.setCtx c ((s.ctx c).faulted fcode funit name)).apart := by
  unfold Dev.faultCtx
  extract_lets x s1 s2 s3 wasLoading s4 lot rect frontIs s5 backIs s6 s7 s8 s9 s10 s11 s12
  rw [if_neg (not_not_intro h)]
  refine ⟨s12, rfl, ?_⟩
  have h1 : s1.apart = (s.setCtx c ((s.ctx c).faulted fcode funit name)).apart := rfl
  clear_value s1
  have h2 : s2.apart = s1.apart := s1.apart_update ..
  clear_value s2
  have h3 : s3.apart = s2.apart := s2.apart_ctxEvent c 0x01 _
  clear_value s3
  have h4 : s4.apart = s3.apart := s3.apart_ringFault x.ring
  clear_value s4
  have h5 : s5.apart = s4.apart := iff_keeps Dev.apart (fun t => by
    exact (Dev.apart_update (each _ _ t) ..).trans
      (each_keeps Dev.apart (fun n u => (Dev.apart_dropRequests _ n).trans (u.apart_stopStall n)) _ t)) _ s4
  clear_value s5
  have h6 : s6.apart = s5.apart := each_keeps Dev.apart (fun _ u => by exact u.apart_update ..) _ s5
  clear_value s6
  have h7 : s7.apart = s6.apart := s6.apart_collFault c
  clear_value s7
  have h8 : s8.apart = s7.apart := s7.apart_update ..
  clear_value s8
  have h9 : s9.apart = s8.apart :=
    iff_keeps Dev.apart (fun t => each_keeps Dev.apart (fun _ u => by exact u.apart_update ..) _ t) _ s8
  clear_value s9
  have h10 : s10.apart = s9.apart := each_keeps Dev.apart (fun sh t => each_keeps Dev.apart (fun b t =>
    each_keeps Dev.apart (fun k t => t.apart_clearStamps _ _) _ t) _ t) _ s9
  clear_value s10
  have h11 : s11.apart = s10.apart := s10.apart_update ..
  clear_value s11
  have h12 : s12.apart = s11.apart := iff_keeps Dev.apart (fun t => t.apart_loseBack _) _ s11
  rw [h12, h11, h10, h9, h8, h7, h6, h5, h4, h3, h2, h1]

theorem Dev.ctxs_of_apart {s t : Dev} (h : s.apart = t.apart) : s.ctxs = t.ctxs := by
  unfold Dev.apart at h
  injection h

/-- The device with the context table blanked as well. -/
def Dev.aside (s : Dev) : Dev := { s.apart with ctxs := [] }

theorem Dev.aside_of_apart {s t : Dev} (h : s.apart = t.apart) : s.aside = t.aside := by
  rw [Dev.aside, h, Dev.aside]

/-- A change of the context table and its image. -/
theorem Dev.aside_setCtx (s : Dev) (c : Nat) (x : Ctx) : (s.setCtx c x).aside = s.aside := by
  unfold Dev.setCtx Dev.memPut
  generalize memWrite 0 _ _ _ = m
  unfold Dev.aside Dev.apart; rfl

theorem Dev.aside_faultCtx (s : Dev) (c fcode funit off : Nat) (viol : W64) (name : FaultName) :
    (s.faultCtx c fcode funit off viol name).aside = s.aside := by
  by_cases h : (s.ctx c).state = .bound
  · obtain ⟨g, hg, hapart⟩ := Dev.faultCtx_of_bound h fcode funit off viol name
    rw [hg, Dev.aside_of_apart (g.apart_update ..), Dev.aside_of_apart hapart, Dev.aside_setCtx]
  · rw [Dev.faultCtx_of_unbound h]

/-- A BOUND context that is faulted has faulted, with its code and its unit (R339). -/
theorem Dev.hasFaulted_faultCtx {s : Dev} {c : Nat} (h : (s.ctx c).state = .bound) (fcode funit off : Nat) (viol : W64)
    (name : FaultName) : (s.faultCtx c fcode funit off viol name).hasFaulted c fcode funit := by
  obtain ⟨g, hg, hapart⟩ := Dev.faultCtx_of_bound h fcode funit off viol name
  have hctx : (s.faultCtx c fcode funit off viol name).ctx c = (s.ctx c).faulted fcode funit name := by
    rw [hg]
    show g.ctxs.get c = _
    rw [Dev.ctxs_of_apart hapart]
    exact Dev.ctx_setCtx s c _
  refine ⟨by rw [hctx]; rfl, by rw [hctx]; rfl, by rw [hctx]; rfl, ?_⟩
  rw [hg]
  simp

end Sys2Proof.Machine

/-! ## Rails, trips and bring-up (R19, R404, R406, R418, R487, R492) -/
namespace Sys2Proof.Machine
open Sys2Proof

/-! ### Stages of rails (R487) -/

theorem stageRails_lt {k i : Nat} (h : i ∈ stageRails k) : i < 12 := by
  unfold stageRails at h
  rcases Nat.lt_or_ge k 11 with hk | hk
  · interval_cases k <;> simp at h <;> omega
  · rw [List.getD_eq_default _ _ hk] at h
    cases h

/-- The stages with an AVSBus rail. -/
theorem avsRail_of_stage {k : Nat} (h : k ∈ [0, 1, 2, 9]) : ∃ i < 6, (stageRails (k + 1)).find? (fun i => decide (i < 6)) = some i := by
  simp only [List.mem_cons, List.not_mem_nil, or_false] at h
  rcases h with rfl | rfl | rfl | rfl
  · exact ⟨4, by decide, rfl⟩
  · exact ⟨2, by decide, rfl⟩
  · exact ⟨0, by decide, rfl⟩
  · exact ⟨5, by decide, rfl⟩

/-- Set an AVSBus rail to its record's setpoint, as its stage is raised (R418). -/
def Dev.setRail (i : Nat) (d : Dev) : Dev :=
  ((d.modWarden fun w => { w with rails := w.rails.mod i fun r =>
    { r with setMv := d.setpoint i, baseMv := d.setpoint i, warn := false } }).emit (.avs i (d.setpoint i))).emit (.avsRate i)

theorem Dev.setpoint_congr {g d : Dev} (hflash : g.flash = d.flash) (hk : g.boot.k = d.boot.k) (j : Nat) :
    g.setpoint j = d.setpoint j := by
  unfold Dev.setpoint Dev.ident
  rw [Dev.twoRead_of_flash_eq hflash, hk]

theorem Dev.setpoint_setRail (i j : Nat) (d : Dev) : (d.setRail i).setpoint j = d.setpoint j :=
  Dev.setpoint_congr (by simp [Dev.setRail]) (by simp [Dev.setRail]) j

theorem Dev.rails_setRail (i : Nat) (d : Dev) : (d.setRail i).warden.rails = d.warden.rails.mod i fun r =>
    { r with setMv := d.setpoint i, baseMv := d.setpoint i, warn := false } := rfl

theorem Dev.setMv_setRail (i j : Nat) (d : Dev) :
    ((d.setRail i).warden.rails.get j).setMv = if j = i then d.setpoint j else (d.warden.rails.get j).setMv := by
  rw [Dev.rails_setRail]
  split
  · next h => rw [h, Tab.get_mod_same]
  · next h => rw [Tab.get_mod_other _ _ _ _ h]

theorem Dev.setpoint_setRails (l : List Nat) (j : Nat) (d : Dev) : (each l Dev.setRail d).setpoint j = d.setpoint j :=
  each_keeps (fun d => d.setpoint j) (fun i d => d.setpoint_setRail i j) l d

theorem Dev.power_setRails (l : List Nat) (d : Dev) : (each l Dev.setRail d).power = d.power :=
  each_keeps Dev.power (fun _ _ => by rfl) l d

theorem Dev.setMv_setRails (l : List Nat) {j : Nat} (h : j ∈ l) (d : Dev) :
    ((each l Dev.setRail d).warden.rails.get j).setMv = d.setpoint j := by
  induction l generalizing d with
  | nil => cases h
  | cons i l ih =>
    by_cases hj : j ∈ l
    · exact (ih hj (d.setRail i)).trans (d.setpoint_setRail i j)
    · have hji : j = i := by simpa [hj] using h
      have hkeep : ((each l Dev.setRail (d.setRail i)).warden.rails.get j).setMv = ((d.setRail i).warden.rails.get j).setMv := by
        clear ih h
        generalize d.setRail i = e
        induction l generalizing e with
        | nil => rfl
        | cons k l ih =>
          have hjk : j ≠ k := fun h => hj (h ▸ List.mem_cons_self)
          refine (ih (fun h => hj (List.mem_cons_of_mem _ h)) (e.setRail k)).trans ?_
          rw [Dev.setMv_setRail, if_neg hjk]
      exact hkeep.trans (by rw [Dev.setMv_setRail, if_pos hji])

/-! ### What an AVSBus status brings (R417, R418) -/

theorem Dev.power_event (s : Dev) (code : Nat) (fs : List (Nat × Nat × Nat)) : (s.event code fs).power = s.power := by
  obtain ⟨_, _, h⟩ := s.event_frame code fs
  rw [h]

theorem Dev.warden_event (s : Dev) (code : Nat) (fs : List (Nat × Nat × Nat)) : (s.event code fs).warden = s.warden := by
  obtain ⟨_, _, h⟩ := s.event_frame code fs
  rw [h]

/-- A status that is no fault keeps the power state, and of the rails changes at most a warning. -/
theorem Dev.avsStatus_of_sound {st : AvsStatus} (h : st ∈ [AvsStatus.ok, .warnCurrent, .warnTemp]) (s : Dev) (i : Nat) :
    (s.avsStatus i st).power = s.power ∧
      ∃ b, (s.avsStatus i st).warden.rails = s.warden.rails.mod i fun r => { r with warn := b } := by
  have hwarn : (s.railWarn i).power = s.power ∧ ∃ b, (s.railWarn i).warden.rails = s.warden.rails.mod i fun r => { r with warn := b } := by
    unfold Dev.railWarn
    exact ⟨Dev.power_event _ _ _, true, congrArg Warden.rails (Dev.warden_event _ _ _)⟩
  simp only [List.mem_cons, List.not_mem_nil, or_false] at h
  rcases h with rfl | rfl | rfl
  · exact ⟨rfl, false, rfl⟩
  · exact hwarn
  · exact hwarn

theorem setMv_mod_warn (t : Tab Rail) (i j : Nat) (b : Bool) : ((t.mod i fun r => { r with warn := b }).get j).setMv = (t.get j).setMv := by
  by_cases h : j = i
  · rw [h, Tab.get_mod_same]
  · rw [Tab.get_mod_other _ _ _ _ h]

/-! ### Rail faults and trips (R404, R418) -/

theorem Dev.railsDropped_dropRails (d : Dev) (f : Power → Power) (hstate : (f d.dropRails.power).dstate = .aon)
    (hen : (f d.dropRails.power).pwrEn = List.replicate 12 false) (hmain : (f d.dropRails.power).mainStart = none)
    (halert : (f d.dropRails.power).alert = true) : (d.dropRails.modPower f).railsDropped := by
  refine ⟨hstate, fun i => ?_, hmain, halert, ⟨rfl, rfl, rfl, rfl, rfl, rfl, rfl, rfl, rfl, rfl, rfl, rfl, rfl, rfl, rfl, rfl⟩⟩
  rw [Power.en, Dev.modPower_power, hen, List.getD_eq_getElem?_getD, List.getElem?_replicate]
  split <;> rfl

theorem Dev.railsDropped_modBoot {d : Dev} (h : d.railsDropped) (f : Boot → Boot) : (d.modBoot f).railsDropped := h

theorem Dev.power_logAdd (s : Dev) (x : LogRec) : (s.logAdd x).2.power = s.power := by
  obtain ⟨_, _, h⟩ := s.logAdd_frame x
  rw [h]

/-- A rail fault: every rail is dropped, the fault waits for the next D-READY, and a bring-up under way has failed at step 1. -/
theorem Dev.railFault_spec (s : Dev) (bus rail status : Nat) : (s.railFault bus rail status).railsDropped
    ∧ (s.railFault bus rail status).power.pendRail = some (bus, rail, status)
    ∧ (s.power.bring = .rails → (s.railFault bus rail status).boot.failStep = 1) := by
  unfold Dev.railFault
  extract_lets s1 raising s2
  have hdrop : s2.railsDropped := s1.railsDropped_dropRails _ rfl rfl rfl rfl
  have hpend : s2.power.pendRail = some (bus, rail, status) := rfl
  clear_value s2
  unfold Dev.iff
  split
  · exact ⟨Dev.railsDropped_modBoot hdrop _, hpend, fun _ => rfl⟩
  · next hno =>
    refine ⟨hdrop, hpend, fun hbring => absurd ?_ hno⟩
    show (s1.power.bring == .rails) = true
    rw [show s1.power = s.power from s.power_logAdd _, hbring]
    rfl

/-- A power-good fault is a rail fault of some bus, rail and status. -/
theorem Dev.pgFault_spec (s : Dev) (i : Nat) : (s.pgFault i).railsDropped ∧ (s.pgFault i).power.pendRail.isSome = true
    ∧ (s.power.bring = .rails → (s.pgFault i).boot.failStep = 1) := by
  unfold Dev.pgFault
  obtain ⟨hdrop, hpend, hstep⟩ := Dev.railFault_spec s.draw.2.draw.2
    (if i < 6 then avsBus i else (s.draw.2.draw.1 % 256, s.draw.2.draw.1 / 256 % 256)).1
    (if i < 6 then avsBus i else (s.draw.2.draw.1 % 256, s.draw.2.draw.1 / 256 % 256)).2 (s.draw.1 % 256)
  exact ⟨hdrop, (congrArg Option.isSome hpend).trans rfl, hstep⟩

/-! ### Raising a stage (R417, R487) -/

/-- Whether the next stage of rails may be raised. -/
def Dev.mayRaise (d : Dev) : Prop := d.power.bring = .rails ∧ d.power.dstate = .aon ∧ d.power.resetL = true ∧ d.power.lowering = false
  ∧ d.power.stage < 10 ∧ (stageRails d.power.stage).all d.power.pg = true ∧ (stageRails (d.power.stage + 1)).any d.power.pg = false
  ∧ (d.power.stage = 0 ∨ d.power.stageAt + 200 * usec ≤ d.now)

/-- The device with the next stage raised, before the answer of its AVSBus slave. -/
def Dev.raised (d : Dev) : Dev :=
  (each ((stageRails (d.power.stage + 1)).filter fun i => decide (i < 6)) Dev.setRail d).modPower fun p => { p with
    pwrEn := (stageRails (d.power.stage + 1)).foldl (fun l i => modNth i (fun _ => true) l) p.pwrEn
    stage := d.power.stage + 1, enAt := (each ((stageRails (d.power.stage + 1)).filter fun i => decide (i < 6)) Dev.setRail d).now }

theorem powerStageRaise_of_mayRaise {d : Dev} (h : d.mayRaise) (ok : Bool) (st : AvsStatus) : powerStageRaise ok st d =
    match (stageRails (d.power.stage + 1)).find? fun i => i < 6 && !ok with
    | some i => d.pgFault i
    | none => match (stageRails (d.power.stage + 1)).find? fun i => decide (i < 6) with
      | some i => d.raised.avsStatus i st
      | none => d.raised := by
  obtain ⟨hbring, haon, hreset, hdown, hstage, hall, hany, hwait⟩ := h
  unfold powerStageRaise
  refine (if_neg ?_).trans ?_
  · simp only [hbring, haon, hreset, hdown, hall, hany, Bool.not_true, Bool.false_eq_true, ne_eq, not_true_eq_false, false_or]
    omega
  · rfl

theorem Dev.now_setRails (l : List Nat) (d : Dev) : (each l Dev.setRail d).now = d.now := each_keeps Dev.now (fun _ _ => by rfl) l d

theorem Dev.power_raised (d : Dev) : d.raised.power = { d.power with
    pwrEn := (stageRails (d.power.stage + 1)).foldl (fun l i => modNth i (fun _ => true) l) d.power.pwrEn
    stage := d.power.stage + 1, enAt := d.now } := by
  unfold Dev.raised
  rw [Dev.modPower_power, Dev.power_setRails, Dev.now_setRails]

theorem Dev.setMv_raised {d : Dev} {i : Nat} (h : i ∈ stageRails (d.power.stage + 1)) (hi : i < 6) :
    (d.raised.warden.rails.get i).setMv = d.setpoint i :=
  Dev.setMv_setRails _ (List.mem_filter.mpr ⟨h, decide_eq_true hi⟩) d

theorem find?_unversioned_none (l : List Nat) : (l.find? fun i => decide (i < 6) && !true) = none :=
  List.find?_eq_none.mpr fun i _ => by simp

/-- A stage that is raised with nothing amiss: its rails are enabled, and its AVSBus rails set to their setpoints (R418). -/
theorem powerStageRaise_of_sound {d : Dev} (h : d.mayRaise) {st : AvsStatus}
    (hst : d.power.stage ∈ [3, 4, 5, 6, 7, 8] ∨ st ∈ [AvsStatus.ok, .warnCurrent, .warnTemp]) :
    (powerStageRaise true st d).power = d.raised.power
      ∧ ∀ i ∈ stageRails (d.power.stage + 1), i < 6 → ((powerStageRaise true st d).warden.rails.get i).setMv = d.setpoint i := by
  rw [powerStageRaise_of_mayRaise h]
  simp only [find?_unversioned_none]
  split
  · next k hfind =>
    have hsound : st ∈ [AvsStatus.ok, .warnCurrent, .warnTemp] := by
      refine hst.resolve_left fun hstage => ?_
      have hk : k < 6 ∧ k ∈ stageRails (d.power.stage + 1) :=
        ⟨by simpa using List.find?_some hfind, List.mem_of_find?_eq_some hfind⟩
      simp only [List.mem_cons, List.not_mem_nil, or_false] at hstage
      rcases hstage with h | h | h | h | h | h <;> rw [h] at hk <;> simp [stageRails] at hk <;> omega
    obtain ⟨hpower, b, hrails⟩ := Dev.avsStatus_of_sound hsound d.raised k
    refine ⟨hpower, fun i hi h6 => ?_⟩
    rw [hrails, setMv_mod_warn]
    exact Dev.setMv_raised hi h6
  · exact ⟨rfl, fun i hi h6 => Dev.setMv_raised hi h6⟩

/-! ### Power-goods and lowering (R487) -/

theorem pwrPgRise_of_enabled {d : Dev} {i : Nat} (hen : d.power.en i = true) (hpg : d.power.pg i = false) : pwrPgRise i d =
    { d with power := { d.power with pwrPg := modNth i (fun _ => true) d.power.pwrPg, stageAt := d.now } } :=
  if_pos (by simp [hen, hpg])

theorem pwrPgFall_eq {d : Dev} {i : Nat} (hpg : d.power.pg i = true) : pwrPgFall i d =
    (d.modPower fun p => { p with pwrPg := modNth i (fun _ => false) p.pwrPg }).iff (d.power.en i) fun s => s.pgFault i :=
  if_neg (by simp [hpg])

theorem Dev.iff_true (s : Dev) (f : Dev → Dev) : s.iff true f = f s := rfl
theorem Dev.iff_false (s : Dev) (f : Dev → Dev) : s.iff false f = s := rfl

theorem pwrPgFall_of_disabled {d : Dev} {i : Nat} (hen : d.power.en i = false) (hpg : d.power.pg i = true) : pwrPgFall i d =
    { d with power := { d.power with pwrPg := modNth i (fun _ => false) d.power.pwrPg } } := by
  rw [pwrPgFall_eq hpg, hen, Dev.iff_false]; rfl

theorem powerStageLower_of_due {d : Dev} (hlow : d.power.lowering = true)
    (hdue : (∀ i < 12, d.power.en i = true ∨ d.power.pg i = false) ∨ d.power.enAt + msec ≤ d.now) : powerStageLower d = { d with
      power := { d.power with pwrEn := (stageRails d.power.stage).foldl (fun l i => modNth i (fun _ => false) l) d.power.pwrEn
                              stage := d.power.stage - 1, lowering := decide (1 < d.power.stage), enAt := d.now }
      boot := if d.power.stage ≤ 1 ∧ d.boot.pufOffAt.isSome = true then { d.boot with pufOffAt := some d.now } else d.boot } := by
  unfold powerStageLower
  refine (if_neg ?notDue).trans ?lowered
  case notDue =>
    have hgo : ((List.range 12).all (fun i => d.power.en i || !d.power.pg i) || decide (d.power.enAt + msec ≤ d.now)) = true := by
      rw [Bool.or_eq_true, decide_eq_true_eq]
      refine hdue.imp_left fun hgone => List.all_eq_true.mpr fun i hi => ?_
      rcases hgone i (List.mem_range.mp hi) with h | h <;> simp [h]
    simp only [hlow, hgo, Bool.not_true, Bool.false_eq_true, or_self, not_false_eq_true]
  case lowered =>
    by_cases hlast : d.power.stage ≤ 1 ∧ d.boot.pufOffAt.isSome = true
    · rw [if_pos hlast]
      exact if_pos (by simpa using hlast)
    · rw [if_neg hlast]
      exact if_neg (by simpa using hlast)

/-- Settles O8: each command by its equation, the raise by the stages that have an AVSBus rail. -/
theorem railsRiseAndFallByStages : Obligations.RailsRiseAndFallByStages := by
  refine ⟨fun st s => ?raise,
    fun i s hi hen hpg => exec_of_actOn (f := pwrPgRise i) rfl (decide_eq_true hi) (pwrPgRise_of_enabled hen hpg),
    fun i s hi hen hpg => ?fall, fun s => ?lower⟩
  case raise =>
    intro p hbring haon hreset hdown hstage hall hany hwait hst
    obtain ⟨hpower, hrails⟩ := powerStageRaise_of_sound ⟨hbring, haon, hreset, hdown, hstage, hall, hany, hwait⟩ hst
    exact ⟨_, exec_of_act (f := powerStageRaise true st) rfl rfl, hpower.trans s.dev.power_raised, hrails⟩
  case fall =>
    exact exec_of_actOn (f := pwrPgFall i) rfl (decide_eq_true hi) (pwrPgFall_of_disabled hen hpg)
  case lower =>
    intro p hlow hdue
    exact ⟨_, exec_of_act (f := powerStageLower) rfl (powerStageLower_of_due hlow hdue), rfl, rfl⟩

/-! ### What takes the device to D-AON at once -/

/-- A sensor at 110 °C or more of a device with rails up trips it (R404, R491). -/
theorem thermalTrip_of_hot {d : Dev} {r : Nat} (g : SensorGroup) (i : Nat) (hhot : 1760 ≤ r) (hon : d.power.dstate ≠ .off)
    (hup : d.power.pwrEn.any id = true) : (thermalTrip g i r d).railsDropped ∧ (thermalTrip g i r d).power.thermTrip = true
      ∧ (thermalTrip g i r d).power.rwsTrip = some (groupCode g, i, r)
      ∧ (thermalTrip g i r d).power.pendTrip = some (groupCode g, i, r) := by
  have hno : ¬ (r < 1760 ∨ d.power.dstate = .off ∨ (!d.power.pwrEn.any id) = true) := by
    simp only [hup, Bool.not_true, Bool.false_eq_true, or_false]
    rintro (h | h)
    · omega
    · exact hon h
  unfold thermalTrip
  rw [if_neg hno]
  extract_lets t s1 s2
  exact ⟨s1.railsDropped_dropRails _ rfl rfl rfl rfl, rfl, rfl, rfl⟩

theorem powerGoodTimeout_of_late {d : Dev} {i : Nat} (hen : d.power.en i = true) (hpg : d.power.pg i = false)
    (hlate : d.power.enAt + msec < d.now) : powerGoodTimeout i d = d.pgFault i :=
  if_pos (by simp [hen, hpg, hlate])

/-- A stage whose AVSBus slave is not of version 1.3, or reports a fault, is a rail fault at step 1 of bring-up (R417, R487). -/
theorem powerStageRaise_of_faulty {d : Dev} (h : d.mayRaise) (hstage : d.power.stage ∈ [0, 1, 2, 9]) {ok : Bool} {st : AvsStatus}
    (hbad : ok = false ∨ st = .readBackFailed ∨ ∃ code, st = .fault code) : (powerStageRaise ok st d).railsDropped
      ∧ (powerStageRaise ok st d).power.pendRail.isSome = true ∧ (powerStageRaise ok st d).boot.failStep = 1 := by
  obtain ⟨k, hk, hfind⟩ := avsRail_of_stage hstage
  have hbring : d.raised.power.bring = .rails := by rw [Dev.power_raised]; exact h.1
  rw [powerStageRaise_of_mayRaise h]
  cases ok with
  | false =>
    simp only [Bool.not_false, Bool.and_true, hfind]
    obtain ⟨hdrop, hpend, hstep⟩ := d.pgFault_spec k
    exact ⟨hdrop, hpend, hstep h.1⟩
  | true =>
    simp only [find?_unversioned_none, hfind]
    rcases hbad with hok | rfl | ⟨code, rfl⟩
    · cases hok
    · obtain ⟨hdrop, hpend, hstep⟩ := d.raised.pgFault_spec k
      exact ⟨hdrop, hpend, hstep hbring⟩
    · have hfault : d.raised.avsStatus k (.fault code) = d.raised.railFault (avsBus k).1 (avsBus k).2 (code % 256) := rfl
      obtain ⟨hdrop, hpend, hstep⟩ := d.raised.railFault_spec (avsBus k).1 (avsBus k).2 (code % 256)
      rw [hfault]
      exact ⟨hdrop, (congrArg Option.isSome hpend).trans rfl, hstep hbring⟩

/-- Settles O9: every one of them drops the rails, by way of the trip or of a rail fault. -/
theorem tripsAndRailFaultsDropEveryRail : Obligations.TripsAndRailFaultsDropEveryRail := by
  refine ⟨fun g i r s hi hhot hon hup => ?trip, fun i s hi hen hpg => ?fall, fun i s hi hen hpg hlate => ?late,
    fun ok st s => ?raise, fun s hlit => ?lock⟩
  case trip =>
    exact ⟨_, exec_of_actOn (f := thermalTrip g i r) rfl (decide_eq_true hi) rfl, thermalTrip_of_hot g i hhot hon hup⟩
  case fall =>
    obtain ⟨hdrop, hpend, _⟩ := (s.dev.modPower fun p => { p with pwrPg := modNth i (fun _ => false) p.pwrPg }).pgFault_spec i
    refine ⟨_, exec_of_actOn (f := pwrPgFall i) rfl (decide_eq_true hi) ?_, hdrop, hpend⟩
    rw [pwrPgFall_eq hpg, hen, Dev.iff_true]
  case late =>
    obtain ⟨hdrop, hpend, _⟩ := s.dev.pgFault_spec i
    exact ⟨_, exec_of_actOn (f := powerGoodTimeout i) rfl (decide_eq_true hi) (powerGoodTimeout_of_late hen hpg hlate),
      hdrop, hpend⟩
  case raise =>
    intro p hbad hbring haon hreset hdown hstage hall hany hwait
    have hlast : p.stage < 10 := by
      simp only [List.mem_cons, List.not_mem_nil, or_false] at hstage
      omega
    obtain ⟨hdrop, hpend, hstep⟩ := powerStageRaise_of_faulty ⟨hbring, haon, hreset, hdown, hlast, hall, hany, hwait⟩ hstage hbad
    exact ⟨_, exec_of_act (f := powerStageRaise ok st) rfl rfl, hdrop, hpend, hstep⟩
  case lock =>
    obtain ⟨hdrop, hpend, _⟩ := s.dev.draw.2.railFault_spec 0xFF 0xFF (s.dev.draw.1 % 256)
    exact ⟨_, _, exec_of_act (f := mainPllLossOfLock) rfl (if_pos hlit), hdrop, hpend⟩

end Sys2Proof.Machine

/-! ## Bring-up and the sparing map (R19, R406, R495) -/
namespace Sys2Proof.Machine
open Sys2Proof

/-! ### Steps 2 to 4 -/

theorem bringUp_of_rails {d : Dev} (e : BringEnv) (haon : d.power.dstate = .aon) (hbring : d.power.bring = .rails)
    (hstage : d.power.stage = 10) (hdown : d.power.lowering = false) (hgood : ∀ i < 12, d.power.pg i = true ∧ d.power.en i = true) :
    bringUp e d =
      if !e.pllLock then d.bringFail 2
      else if d.power.testMode then { d with power := { d.power with mainStart := some d.now, bring := .none } }
      else if !e.diesOk then (d.modPower fun p => { p with mainStart := some d.now }).bringFail 3
      else { d with power := { d.power with mainStart := some d.now, bring := .map }
                    boot := { d.boot with failStep := 0 }
                    grid := { d.grid with failed := e.failing.filter posOk, swFailed := e.switchFailing.filter posOk } } := by
  have hall : ((List.range 12).all fun i => d.power.pg i && d.power.en i) = true :=
    List.all_eq_true.mpr fun i hi => by simp [hgood i (List.mem_range.mp hi)]
  unfold bringUp
  refine (if_neg (not_not_intro haon)).trans ?_
  simp only [hbring]
  exact if_neg (by simp [hstage, hdown, hall])

theorem Dev.bringFail_spec (d : Dev) (k : Nat) : (d.bringFail k).power.bring = .none ∧ (d.bringFail k).power.mainStart = none
    ∧ (d.bringFail k).power.lowering = (d.power.stage != 0) ∧ (d.bringFail k).boot.failStep = k ∧ (d.bringFail k).diesLost :=
  ⟨rfl, rfl, rfl, rfl, rfl, rfl, rfl, rfl, rfl, rfl, rfl, rfl, rfl, rfl, rfl, rfl, rfl, rfl, rfl, rfl⟩

/-- What steps 2 to 4 leave, by the lock of the PLL, the test mode and the start of the dies. -/
theorem bringUp_rails_cases {d : Dev} (e : BringEnv) (haon : d.power.dstate = .aon) (hbring : d.power.bring = .rails)
    (hstage : d.power.stage = 10) (hdown : d.power.lowering = false) (hgood : ∀ i < 12, d.power.pg i = true ∧ d.power.en i = true) :
    (e.pllLock = true → d.power.testMode = true →
      bringUp e d = { d with power := { d.power with mainStart := some d.now, bring := .none } })
    ∧ (e.pllLock = true → d.power.testMode = false → e.diesOk = true → bringUp e d =
      { d with power := { d.power with mainStart := some d.now, bring := .map }
               boot := { d.boot with failStep := 0 }
               grid := { d.grid with failed := e.failing.filter posOk, swFailed := e.switchFailing.filter posOk } })
    ∧ (e.pllLock = true → d.power.testMode = false → e.diesOk = false → (bringUp e d).power.bring = .none
      ∧ (bringUp e d).power.mainStart = none ∧ (bringUp e d).boot.failStep = 3 ∧ (bringUp e d).diesLost)
    ∧ (e.pllLock = false → (bringUp e d).power.bring = .none ∧ (bringUp e d).power.lowering = true
      ∧ (bringUp e d).boot.failStep = 2 ∧ (bringUp e d).diesLost) := by
  rw [bringUp_of_rails e haon hbring hstage hdown hgood]
  refine ⟨fun hlock htest => ?_, fun hlock htest hdies => ?_, fun hlock htest hdies => ?_, fun hlock => ?_⟩
  · rw [if_neg (by simp [hlock]), if_pos htest]
  · rw [if_neg (by simp [hlock]), if_neg (by simp [htest]), if_neg (by simp [hdies])]
  · rw [if_neg (by simp [hlock]), if_neg (by simp [htest]), if_pos (by simp [hdies])]
    obtain ⟨hnone, hmain, _, hstep, hlost⟩ := (d.modPower fun p => { p with mainStart := some d.now }).bringFail_spec 3
    exact ⟨hnone, hmain, hstep, hlost⟩
  · rw [if_pos (by simp [hlock])]
    obtain ⟨hnone, _, hlower, hstep, hlost⟩ := d.bringFail_spec 2
    exact ⟨hnone, by rw [hlower, hstage]; rfl, hstep, hlost⟩

/-! ### Steps 5 and 6 -/

theorem Dev.conc_event (s : Dev) (code : Nat) (fs : List (Nat × Nat × Nat)) : (s.event code fs).conc = s.conc := by
  obtain ⟨_, _, h⟩ := s.event_frame code fs
  rw [h]

theorem Dev.conc_ringEvent (s : Dev) (r code : Nat) (res : Bytes) : (s.ringEvent r code res).conc = s.conc := by
  obtain ⟨_, h⟩ := s.ringEvent_frame r code res
  rw [h]

theorem Dev.power_ringEvent (s : Dev) (r code : Nat) (res : Bytes) : (s.ringEvent r code res).power = s.power := by
  obtain ⟨_, h⟩ := s.ringEvent_frame r code res
  rw [h]

theorem Dev.lpGiB_trainMemory (d : Dev) (e : BringEnv) : (d.trainMemory e).conc.lpGiB = if e.lpOk then e.lpGiB else 0 := by
  unfold Dev.trainMemory
  extract_lets hbm lp s1 s2 s3
  exact (congrArg Conc.lpGiB (iff_keeps Dev.conc (fun s => s.conc_event _ _) _ s3)).trans rfl

/-- A view of the device that neither events nor the rings of events change. -/
theorem Dev.raiseEarly_keeps {β : Type} (view : Dev → β) (hring : ∀ (s : Dev) rings, view { s with rings := rings } = view s)
    (hearly : ∀ (s : Dev) early, view { s with early := early } = view s) (d : Dev) :
    ∃ g : Dev, view g = view d ∧ d.raiseEarly = g.modPower fun p => { p with pendTrip := none, pendRail := none, alert := false } := by
  have hev : ∀ (s : Dev) code fs, view (s.event code fs) = view s := fun s code fs => by
    obtain ⟨rings, early, h⟩ := s.event_frame code fs
    rw [h]; exact (hearly { s with rings := rings } early).trans (hring s rings)
  have hre : ∀ (s : Dev) r code res, view (s.ringEvent r code res) = view s := fun s r code res => by
    obtain ⟨rings, h⟩ := s.ringEvent_frame r code res
    rw [h]; exact hring s rings
  unfold Dev.raiseEarly
  extract_lets s1 s2 s3 s4
  have h2 : view s2 = view d := (each_keeps view (fun (e : Nat × Bytes) s => hre s mgmtRing e.1 e.2) _ _).trans ((hearly s1 []).trans (hring d _))
  clear_value s2
  have h3 : view s3 = view s2 := by
    simp only [s3]
    split
    · exact hev _ _ _
    · rfl
  clear_value s3
  have h4 : view s4 = view s3 := by
    simp only [s4]
    split
    · exact hev _ _ _
    · rfl
  exact ⟨s4, h4.trans (h3.trans h2), rfl⟩

theorem Dev.power_flashOp (s : Dev) (er : List (Nat × Nat)) (pr : List (Nat × Bytes)) (t : FlashThen) :
    (s.flashOp er pr t).power = s.power := by rw [Dev.flashOp, Dev.modBoot_power]

theorem Dev.conc_flashOp (s : Dev) (er : List (Nat × Nat)) (pr : List (Nat × Bytes)) (t : FlashThen) :
    (s.flashOp er pr t).conc = s.conc := by rw [Dev.flashOp, Dev.modBoot_conc]

theorem Dev.power_bootRecLater (s : Dev) (r : BootRec) (t : FlashThen) : (s.bootRecLater r t).power = s.power := by
  rw [Dev.bootRecLater, Dev.power_flashOp]

theorem Dev.conc_bootRecLater (s : Dev) (r : BootRec) (t : FlashThen) : (s.bootRecLater r t).conc = s.conc := by
  rw [Dev.bootRecLater, Dev.conc_flashOp]

theorem Dev.raiseEarly_spec (d : Dev) : d.raiseEarly.power = { d.power with pendTrip := none, pendRail := none, alert := false }
    ∧ d.raiseEarly.conc = d.conc := by
  obtain ⟨g, hg, hraise⟩ := Dev.raiseEarly_keeps (fun s => (s.power, s.conc)) (fun _ _ => rfl) (fun _ _ => rfl) d
  obtain ⟨hpower, hconc⟩ := Prod.mk.inj hg
  rw [hraise, Dev.modPower_power, Dev.modPower_conc, hpower, hconc]
  exact ⟨rfl, rfl⟩

theorem Dev.enterReady_spec (d : Dev) : d.enterReady.power.dstate = .ready ∧ d.enterReady.power.bring = .done
    ∧ d.enterReady.power.alert = false ∧ d.enterReady.conc = d.conc := by
  unfold Dev.enterReady
  extract_lets s1 s2 s3 s4
  obtain ⟨hpower, hconc⟩ := s1.raiseEarly_spec
  have hp : s4.power = { s1.power with pendTrip := none, pendRail := none, alert := false } := by
    simp only [s4, s3, s2, Dev.modSvc_power, Dev.modWarden_power, Dev.modElv_power, hpower]
  have hc : s4.conc = d.conc := by
    simp only [s4, s3, s2, Dev.modSvc_conc, Dev.modWarden_conc, Dev.modElv_conc, hconc]
    rfl
  clear_value s4
  rw [iff_keeps Dev.power (fun s => s.power_bootRecLater _ _) _ s4, iff_keeps Dev.conc (fun s => s.conc_bootRecLater _ _) _ s4, hp, hc]
  exact ⟨rfl, rfl, rfl, rfl⟩

theorem bringUp_of_train {d : Dev} (e : BringEnv) (haon : d.power.dstate = .aon) (hbring : d.power.bring = .train) :
    bringUp e d = (d.trainMemory e).enterReady := by
  unfold bringUp
  refine (if_neg (not_not_intro haon)).trans ?_
  simp only [hbring]

/-! ### The sparing map leaves the power state (R19) -/

theorem Dev.power_of_aside {s t : Dev} (h : s.aside = t.aside) : s.power = t.power := by
  unfold Dev.aside Dev.apart at h
  injection h

theorem Dev.power_faultCtx (s : Dev) (c fcode funit off : Nat) (viol : W64) (name : FaultName) :
    (s.faultCtx c fcode funit off viol name).power = s.power := Dev.power_of_aside (s.aside_faultCtx ..)

theorem Dev.power_lineReply (s : Dev) (b id k st : Nat) (fl : BitVec 32) : (s.lineReply b id k st fl).power = s.power := by
  unfold Dev.lineReply
  split
  · rfl
  · extract_lets s1 d addr
    split
    · rfl
    · exact s1.power_faultCtx ..

theorem Dev.power_rejectReq (s : Dev) (r : RowReq) (st : Nat) : (s.rejectReq r st).power = s.power := by
  unfold Dev.rejectReq
  split
  · rfl
  · exact s.power_lineReply ..
  · rfl

theorem Dev.power_powerOff (s : Dev) (b : Nat) : (s.powerOff b).power = s.power := by
  unfold Dev.powerOff
  extract_lets s1 s2 s3
  have h1 : s1.power = s.power :=
    each_keeps Dev.power (fun c s => each_keeps Dev.power (fun r s => s.power_rejectReq r _) _ s) _ s
  clear_value s1
  exact (each_keeps Dev.power (fun _ _ => by rfl) _ s1).trans h1

theorem Dev.power_retireBlock (s : Dev) (b : Nat) : (s.retireBlock b).power = s.power := by
  rw [Dev.retireBlock, Dev.power_event, Dev.power_powerOff, Dev.modGrid_power]

theorem power_mapRow (die col : Nat) (acc : Bool × Dev) (p : Nat) : (mapRow die col acc p).2.power = acc.2.power := by
  obtain ⟨shifted, s⟩ := acc
  unfold mapRow
  dsimp only
  split
  · rfl
  · split
    · exact (Dev.power_event _ _ _).trans (s.modGrid_power _)
    · split
      · next b _ => exact s.power_retireBlock b
      · rfl

theorem power_mapColumn (s : Dev) (j : Nat) : (mapColumn s j).power = s.power := by
  unfold mapColumn
  extract_lets die col failing
  have h : ∀ (l : List Nat) (acc : Bool × Dev), (l.foldl (mapRow die col) acc).2.power = acc.2.power := by
    intro l
    induction l with
    | nil => exact fun _ => rfl
    | cons p l ih => exact fun acc => (ih _).trans (power_mapRow die col acc p)
  exact h failing (false, s)

theorem Dev.power_startupFail (s : Dev) (p : PhysPos) : (s.startupFail p).power = s.power := by
  unfold Dev.startupFail
  cases s.grid.blockAt p with
  | some b => exact s.power_logAdd _
  | none => exact (s.draw.2.power_logAdd _).trans s.draw_power

theorem Dev.power_fenceBlock (s : Dev) (b : Nat) : (s.fenceBlock b).power = s.power := by
  unfold Dev.fenceBlock
  extract_lets s1 qs s2 s3
  have h1 : s1.power = s.power := each_keeps Dev.power (fun n s => s.modStall_power n _) _ s
  clear_value s1
  have h2 : s2.power = s1.power := s1.power_powerOff b
  clear_value s2
  exact (foldl_keeps Dev.power (fun s (p : Nat × Tab RQueue) => s.modStall_power p.1 _) _ s2).trans (h2.trans h1)

theorem Dev.power_startFaults (s : Dev) : s.startFaults.power = s.power := by
  unfold Dev.startFaults
  refine each_keeps Dev.power (fun p s => ?_) _ s
  split
  · rfl
  · next b _ => exact (Dev.power_event _ _ _).trans ((Dev.modGrid_power _ _).trans (s.power_fenceBlock b))

theorem Dev.power_writeSparing (s : Dev) : s.writeSparing.power = s.power := by
  unfold Dev.writeSparing Dev.twoCopy
  split
  exact (Dev.power_flashOp _ _ _ _).trans (s.power_flashOp _ _ _)

theorem sparingMapBuild_power {d : Dev} (h : d.power.bring = .map) : (sparingMapBuild d).power = { d.power with bring := .train } := by
  unfold sparingMapBuild
  rw [if_neg (not_not_intro h)]
  extract_lets old s1 s2 s3 s4 bad s5 s6
  clear_value old
  have h1 : s1.power = d.power := by
    simp only [s1]
    split
    · exact d.modGrid_power _
    · exact (Dev.power_event _ _ _).trans (d.modGrid_power _)
  clear_value s1
  have h2 : s2.power = s1.power := rfl
  clear_value s2
  have h3 : s3.power = s2.power := each_keeps Dev.power (fun p s => s.power_startupFail p) _ s2
  clear_value s3
  have h4 : s4.power = s3.power := foldl_keeps Dev.power power_mapColumn _ s3
  clear_value s4
  have h5 : s5.power = s4.power := s4.modGrid_power _
  clear_value s5
  have h6 : s6.power = s5.power := iff_keeps Dev.power Dev.power_writeSparing _ s5
  clear_value s6
  rw [Dev.modPower_power, s6.power_startFaults, h6, h5, h4, h3, h2, h1]

/-! ### A start-up test in which nothing fails (R19) -/

theorem Grid.failed_ofRecord (g : Grid) (r : Bytes) : (g.ofRecord r).failed = g.failed ∧ (g.ofRecord r).swFailed = g.swFailed := by
  unfold Grid.ofRecord
  generalize List.range 48 = l
  have h : ∀ g : Grid, (l.foldl (fun g j => g.setExcl j (bits (fld r 8 24) (4 * j + 3) (4 * j))) g).failed = g.failed
      ∧ (l.foldl (fun g j => g.setExcl j (bits (fld r 8 24) (4 * j + 3) (4 * j))) g).swFailed = g.swFailed := by
    induction l with
    | nil => exact fun _ => ⟨rfl, rfl⟩
    | cons j l ih => exact fun g => ih _
  exact h _

theorem mapColumn_of_sound {s : Dev} (h : s.grid.failed = []) (j : Nat) : mapColumn s j = s := by
  have hnone : below 13 (fun p => s.grid.failed.contains { die := j / 24, col := j % 24, row := p }) = [] := by
    refine List.filter_eq_nil_iff.mpr fun p _ => ?_
    rw [h]
    exact Bool.false_ne_true
  unfold mapColumn
  extract_lets die col failing
  show (List.foldl (mapRow die col) (false, s) failing).2 = s
  rw [show failing = [] from hnone]
  rfl

theorem mapColumns_of_sound {s : Dev} (h : s.grid.failed = []) (l : List Nat) : l.foldl mapColumn s = s := by
  induction l with
  | nil => rfl
  | cons j l ih => rw [List.foldl_cons, mapColumn_of_sound h, ih]

theorem Dev.grid_writeSparing (s : Dev) : s.writeSparing.grid = s.grid := by
  unfold Dev.writeSparing Dev.twoCopy
  split
  rw [Dev.flashOp, Dev.modBoot_grid, Dev.flashOp, Dev.modBoot_grid]

theorem sparingMapBuild_grid {d : Dev} {r : Bytes} (h : d.power.bring = .map) (hfailed : d.grid.failed = []) (hsw : d.grid.swFailed = [])
    (hread : d.twoRead sparing0 sparing1 128 sparingOk = some r) :
    (sparingMapBuild d).grid = { d.grid.ofRecord r with shifts := [], faultMap := [], spareBad := [] } := by
  obtain ⟨hkeep, hkeepSw⟩ := d.grid.failed_ofRecord r
  unfold sparingMapBuild
  rw [if_neg (not_not_intro h)]
  extract_lets old s1 s2 s3 s4 bad s5 s6
  have hold : old = some r := hread
  clear_value old
  subst hold
  have h1 : s1.grid = { d.grid.ofRecord r with shifts := [], faultMap := [], spareBad := [] } := by
    simp only [s1, Dev.modGrid_grid]
  have hf1 : s1.grid.failed = [] := by rw [h1, ← hfailed, ← hkeep]
  have hw1 : s1.grid.swFailed = [] := by rw [h1, ← hsw, ← hkeepSw]
  clear_value s1
  have h2 : s2.grid = s1.grid := rfl
  clear_value s2
  have h3 : s3 = s2 := by simp only [s3, h2, hf1]; rfl
  have h4 : s4 = s2 := by simp only [s4, h3]; exact mapColumns_of_sound (by rw [h2, hf1]) _
  have hbad : bad = [] := by simp only [bad, h4, h2, hf1]; exact List.filter_eq_nil_iff.mpr fun _ _ => Bool.false_ne_true
  have h5 : s5.grid = { s1.grid with spareBad := [] } := by
    simp only [s5, hbad, h4, Dev.modGrid_grid, h2]
  clear_value s5
  have h6 : s6.grid = s5.grid := iff_keeps Dev.grid Dev.grid_writeSparing _ s5
  clear_value s6
  have hfaults : s6.startFaults = s6 := by
    unfold Dev.startFaults
    rw [h6, h5, hw1]
    rfl
  rw [hfaults, Dev.modPower_grid, h6, h5, h1]

/-- Settles O10: bring-up by the equation of each of its steps, the map by the steps that keep the power state, and by a start-up test
that found nothing. -/
theorem bringUpReachesReady : Obligations.BringUpReachesReady := by
  refine ⟨⟨fun e s => ?rails, fun e s haon hbring => ?train⟩, fun s hbring => ?map, fun r s hbring hfailed hsw hread => ?record⟩
  case rails =>
    intro p haon hbring hstage hdown hgood
    obtain ⟨htested, hmap, hdead, hunlocked⟩ := bringUp_rails_cases e haon hbring hstage hdown hgood
    refine ⟨_, exec_of_act (f := bringUp e) rfl rfl, fun hlock htest hdies => ?_, fun hlock htest => ?_, hdead, hunlocked⟩
    · rw [hmap hlock htest hdies]
    · rw [htested hlock htest]
  case train =>
    obtain ⟨hready, hdone, halert, hconc⟩ := (s.dev.trainMemory e).enterReady_spec
    refine ⟨_, exec_of_act (f := bringUp e) rfl (bringUp_of_train e haon hbring), ?_⟩
    dsimp only
    exact ⟨hready, hdone, halert, by rw [hconc, s.dev.lpGiB_trainMemory e]⟩
  case map => exact ⟨_, exec_of_act (f := sparingMapBuild) rfl rfl, sparingMapBuild_power hbring⟩
  case record => exact ⟨_, exec_of_act (f := sparingMapBuild) rfl rfl, sparingMapBuild_grid hbring hfailed hsw hread⟩

end Sys2Proof.Machine

/-! ## What a fault takes from its context (R92, R339) -/
namespace Sys2Proof.Machine
open Sys2Proof

/-! ### The books: rings, copies, task slots, teardowns and the count of faults -/

/-- What says where a context's work stands: the rings, the copies, the task slots, the context's count of faults and the teardowns. -/
def Dev.books (c : Nat) (s : Dev) : Tab PRing × Tab CopyJob × Tab TaskSlot × Nat × List Teardown :=
  (s.rings, s.copies, s.tasks, s.ctr 0x6050 c 11, s.teardowns)

section Books
variable (c : Nat) (s : Dev)

theorem Dev.books_abandon (n : Nat) : (s.abandon n).books c = s.books c := by
  unfold Dev.abandon
  extract_lets st s1
  refine Eq.trans (b := s1.books c) rfl (foldl_keeps (Dev.books c) (fun t j => ?_) st.jobs s)
  split
  · extract_lets w
    split
    · rfl
    · rfl
  · exact foldl_keeps (Dev.books c) (fun _ _ => by rfl) _ t

theorem Dev.books_stopStall (n : Nat) : (s.stopStall n).books c = s.books c := by
  unfold Dev.stopStall
  split
  · rfl
  · exact s.books_abandon c n

theorem Dev.books_dropRequests (n : Nat) : (s.dropRequests n).books c = s.books c :=
  iff_keeps (Dev.books c) (fun _ => by rfl) _ s

theorem Dev.books_clearStamps (n mask : Nat) : (s.clearStamps n mask).books c = s.books c :=
  iff_keeps (Dev.books c) (fun _ => by rfl) _ s

theorem Dev.books_dropBanks (b : Nat) : (s.dropBanks b).books c = s.books c := by
  unfold Dev.dropBanks
  extract_lets f k
  exact each_keeps (Dev.books c) (fun _ t => iff_keeps (Dev.books c) (fun _ => by rfl) _ t) _ s

theorem Dev.books_loseBack (k : Nat) : (s.loseBack k).books c = s.books c := by
  unfold Dev.loseBack
  extract_lets s1 rect keep drop s2
  have h2 : s2.books c = s.books c := rfl
  clear_value s2 rect
  refine (each_keeps (Dev.books c) (fun b t => ?_) rect s2).trans h2
  exact (Dev.books_dropBanks c _ b).trans rfl

theorem ctrKey_ne_of_word {rcd n w rcd' n' w' : Nat} (h : w < 4096) (h' : w' < 4096) (hne : w' ≠ w) :
    ctrKey rcd' n' w' ≠ ctrKey rcd n w := by
  have hmod : ∀ r m v : Nat, v < 4096 → ctrKey r m v % 4096 = v := by
    intro r m v hv
    show (r * 268435456 + m * 4096 + v) % 4096 = v
    omega
  intro heq
  exact hne (by rw [← hmod rcd' n' w' h', heq, hmod rcd n w h])

/-- A count of another word of a record stands. -/
theorem Dev.ctr_bump_of_word {rcd n w rcd' n' w' : Nat} (h : w < 4096) (h' : w' < 4096) (hne : w' ≠ w) (by_ : Nat) :
    (s.bump rcd n w by_).ctr rcd' n' w' = s.ctr rcd' n' w' := by
  unfold Dev.ctr
  rw [Dev.bump_counters, Tab.get_mod_other _ _ _ _ (ctrKey_ne_of_word h h' hne)]

theorem Dev.ctr_setCtr_of_word {rcd n w rcd' n' w' : Nat} (h : w < 4096) (h' : w' < 4096) (hne : w' ≠ w) (v : Nat) :
    (s.setCtr rcd n w v).ctr rcd' n' w' = s.ctr rcd' n' w' := by
  unfold Dev.ctr
  rw [Dev.setCtr_counters, Tab.get_set_other _ _ _ _ (ctrKey_ne_of_word h h' hne)]

theorem Dev.books_collFault (e : Nat) : (s.collFault e).books c = s.books c := by
  unfold Dev.collFault
  extract_lets mine s1 s2
  have h1 : s1.books c = s.books c :=
    foldl_keeps (Dev.books c) (fun t p => foldl_keeps (Dev.books c) (fun _ _ => by rfl) _ t) mine s
  clear_value s1
  have h2 : s2.books c = s1.books c := by
    have hctr : s2.ctr 0x6050 c 11 = s1.ctr 0x6050 c 11 := s1.ctr_bump_of_word (by decide) (by decide) (by decide) _
    show (s1.rings, s1.copies, s1.tasks, s2.ctr 0x6050 c 11, s1.teardowns) = s1.books c
    rw [hctr, Dev.books]
  clear_value s2
  exact Eq.trans rfl (h2.trans h1)

/-- Counting the slots in use changes no other count. -/
theorem Dev.books_countSlots : s.countSlots.books c = s.books c := by
  unfold Dev.countSlots
  extract_lets n
  have hctr : ((s.setCtr 0x6080 2 0 n).setCtr 0x6080 2 1 (max n (s.ctr 0x6080 2 1))).ctr 0x6050 c 11 = s.ctr 0x6050 c 11 :=
    (Dev.ctr_setCtr_of_word _ (by decide) (by decide) (by decide) _).trans
      (Dev.ctr_setCtr_of_word _ (by decide) (by decide) (by decide) _)
  show (s.rings, s.copies, s.tasks, _, s.teardowns) = s.books c
  rw [hctr, Dev.books]

end Books

/-! ### The ring of a faulted context (R339, R476) -/

/-- A change of one ring that leaves what runs on it leaves what runs on every ring. -/
theorem Dev.running_modRing (s : Dev) (q r : Nat) {f : PRing → PRing} (h : ∀ x, (f x).running = x.running) :
    ((s.modRing q f).ring r).running = (s.ring r).running := by
  by_cases hr : r = q
  · rw [hr, Dev.ring_modRing, h]
  · rw [Dev.ring_modRing_other _ _ _ _ hr]

theorem Dev.running_ringEvent (s : Dev) (q r code : Nat) (res : Bytes) :
    ((s.ringEvent q code res).ring r).running = (s.ring r).running := by
  unfold Dev.ringEvent
  extract_lets x
  split
  · rfl
  · split
    · rfl
    · split
      · exact s.running_modRing q r fun _ => rfl
      · exact s.running_modRing q r fun _ => rfl

theorem Dev.running_ctxEvent (s : Dev) (r c code : Nat) (fs : List (Nat × Nat × Nat)) :
    ((s.ctxEvent c code fs).ring r).running = (s.ring r).running := by
  unfold Dev.ctxEvent
  extract_lets x
  split
  · exact s.running_ringEvent x.ring r code (result fs)
  · rfl

theorem Dev.running_post (s : Dev) (r q : Nat) (e : Bytes) (st : Nat) (fs : List (Nat × Nat × Nat)) :
    ((s.post q e st fs).ring r).running = (s.ring r).running :=
  iff_keeps (fun s => (s.ring r).running) (fun s => Dev.running_modRing s q r (f := fun x => { x with pend := x.pend ++ _ })
    fun _ => rfl) _ s

theorem Dev.running_refuseFetched (s : Dev) (r q st n : Nat) :
    ((s.refuseFetched q st n).ring r).running = (s.ring r).running := by
  induction n generalizing s with
  | zero => rfl
  | succ n ih =>
    unfold Dev.refuseFetched
    split
    · rfl
    · split
      · exact (ih _).trans ((Dev.running_post _ r q _ st []).trans (s.running_modRing q r fun _ => rfl))
      · rfl

/-- The rings alone change under a list of completions. -/
theorem Dev.posts_frame (s : Dev) (r st : Nat) (l : List RunCmd) :
    ∃ rings, l.foldl (fun s (k : RunCmd) => s.post r k.entry st []) s = { s with rings := rings } := by
  induction l generalizing s with
  | nil => exact ⟨_, rfl⟩
  | cons k l ih =>
    obtain ⟨_, hpost⟩ := s.post_frame r k.entry st []
    obtain ⟨_, hrest⟩ := ih (s.post r k.entry st [])
    exact ⟨_, by rw [List.foldl_cons, hrest, hpost]⟩

/-- What a faulted context's ring still runs: the commits that the pool engine has taken (R338). -/
def Dev.keptOf (s : Dev) (r : Nat) : List RunCmd :=
  (s.ring r).running.filter fun k => s.pool.busy.any fun b => b.1 == r && b.2.1 == k.id

theorem Dev.running_ringFault (s : Dev) (r : Nat) : ((s.ringFault r).ring r).running = s.keptOf r := by
  unfold Dev.ringFault
  extract_lets x taken kept s1 s2 s3 s4 s5 s6
  have h1 : (s1.ring r).running = s.keptOf r := by rw [show s1 = s.modRing r _ from rfl, Dev.ring_modRing]; rfl
  clear_value s1
  have h2 : (s2.ring r).running = (s1.ring r).running :=
    foldl_keeps (fun s => (s.ring r).running) (fun s (k : RunCmd) => Dev.running_post s r r k.entry 0x26 []) _ s1
  clear_value s2
  have h3 : (s3.ring r).running = (s2.ring r).running :=
    foldl_keeps (fun s => (s.ring r).running) (fun s (k : RunCmd) => Dev.running_post s r r k.entry 0x46 []) _ s2
  clear_value s3
  have h4 : (s4.ring r).running = (s3.ring r).running := s3.running_refuseFetched r r 0x46 32
  clear_value s4
  exact Eq.trans rfl (h4.trans (h3.trans (h2.trans h1)))

/-- No copy of the ring goes on, and the counters and teardowns stand. -/
theorem Dev.copies_ringFault (s : Dev) (r : Nat) :
    (∀ p ∈ (s.ringFault r).copies, p.2.ring = r → p.2.stopped = true) ∧ (s.ringFault r).counters = s.counters
      ∧ (s.ringFault r).teardowns = s.teardowns := by
  unfold Dev.ringFault
  extract_lets x taken kept s1 s2 s3 s4 s5 s6
  have h1 : s1.counters = s.counters := rfl
  have h1' : s1.teardowns = s.teardowns := rfl
  clear_value s1
  obtain ⟨_, h2⟩ := s1.posts_frame r 0x26 (x.running.filter fun k => opcodeOf k.entry = 0x10)
  obtain ⟨_, h3⟩ := s2.posts_frame r 0x46 (x.running.filter fun k => opcodeOf k.entry = 0x13 && !taken k.id)
  obtain ⟨_, h4⟩ := s3.refuseFetched_frame r 0x46 32
  have hctr : s4.counters = s.counters := by
    rw [show s4 = _ from h4, show s3 = _ from h3, show s2 = _ from h2]; exact h1
  have htear : s4.teardowns = s.teardowns := by
    rw [show s4 = _ from h4, show s3 = _ from h3, show s2 = _ from h2]; exact h1'
  clear_value s4
  refine ⟨fun p hp hr => ?_, hctr, htear⟩
  obtain ⟨q, -, rfl⟩ := List.mem_map.mp (show p ∈ s4.copies.map _ from hp)
  by_cases hq : q.2.ring = r
  · rw [if_pos hq]
  · rw [if_neg hq] at hr
    exact absurd hr hq

/-! ### The books after the fault -/

theorem Tab.get_mem_or_default {α : Type} [Inhabited α] (t : Tab α) (k : Nat) : t.get k = default ∨ ∃ p ∈ t, p.2 = t.get k := by
  unfold Tab.get
  induction t with
  | nil => exact .inl rfl
  | cons p t ih =>
    simp only [look]
    split
    · exact .inr ⟨p, List.mem_cons_self, rfl⟩
    · split
      · exact .inl rfl
      · exact ih.imp_right fun ⟨q, hq, heq⟩ => ⟨q, List.mem_cons_of_mem _ hq, heq⟩

/-- The books of a device in which a BOUND context has faulted (R339). -/
theorem Dev.books_faultCtx {s : Dev} {c : Nat} (h : (s.ctx c).state = .bound) (fcode funit off : Nat) (viol : W64) (name : FaultName) :
    ∀ g, s.faultCtx c fcode funit off viol name = g → let r := (s.ctx c).ring
    (g.ring r).running = s.keptOf r ∧ (∀ p ∈ g.copies, p.2.ring = r → p.2.stopped = true)
      ∧ (∀ p ∈ g.tasks, p.2.state ≠ 0 → p.2.ctx ≠ c) ∧ g.ctr 0x6050 c 11 = min (s.ctr 0x6050 c 11 + 1) (2 ^ 48 - 1)
      ∧ g.teardowns = s.teardowns ++ [{ ctx := c, started := g.now, step4 := true }] := by
  intro g hfault r
  unfold Dev.faultCtx at hfault
  extract_lets x s1 s2 s3 wasLoading s4 lot rect frontIs s5 backIs s6 s7 s8 s9 s10 s11 s12 at hfault
  rw [if_neg (not_not_intro h)] at hfault
  have hg : g.books c = (s12.rings, s12.copies, s12.tasks, s12.ctr 0x6050 c 11,
      s12.teardowns ++ [{ ctx := c, started := g.now, step4 := true }]) := by rw [← hfault]; rfl
  clear hfault
  have h1tear : s1.teardowns = s.teardowns := s.setCtx_teardowns c _
  have h1pool : s1.pool = s.pool := s.setCtx_pool c _
  have h1run : (s1.ring r).running = (s.ring r).running := congrArg (fun t : Tab PRing => (t.get r).running) (s.setCtx_rings c _)
  have h1ctr : s1.ctr 0x6050 c 11 = s.ctr 0x6050 c 11 :=
    congrArg (fun t : Tab Nat => t.get (ctrKey 0x6050 c 11)) (s.setCtx_counters c _)
  clear_value s1
  have h2tear : s2.teardowns = s1.teardowns := s1.bump_teardowns ..
  have h2pool : s2.pool = s1.pool := s1.bump_pool ..
  have h2run : (s2.ring r).running = (s1.ring r).running := congrArg (fun t : Tab PRing => (t.get r).running) (s1.bump_rings ..)
  have h2ctr : s2.ctr 0x6050 c 11 = min (s1.ctr 0x6050 c 11 + 1) (2 ^ 48 - 1) := s1.ctr_bump 0x6050 c 11 1
  clear_value s2
  have hrun : (s3.ring r).running = (s.ring r).running := (Dev.running_ctxEvent s2 r c 0x01 _).trans (h2run.trans h1run)
  obtain ⟨rings, h3⟩ : ∃ rings, s3 = { s2 with rings := rings } := s2.ctxEvent_frame c 0x01 _
  clear_value s3
  have hpool : s3.pool = s.pool := by rw [h3]; exact h2pool.trans h1pool
  have hctr : s3.ctr 0x6050 c 11 = min (s.ctr 0x6050 c 11 + 1) (2 ^ 48 - 1) := by
    rw [h3]; exact h2ctr.trans (by rw [h1ctr])
  have htear : s3.teardowns = s.teardowns := by rw [h3]; exact h2tear.trans h1tear
  clear h3
  have h4run : (s4.ring r).running = s.keptOf r := by
    refine (s3.running_ringFault r).trans ?_
    rw [Dev.keptOf, Dev.keptOf, hrun, hpool]
  obtain ⟨h4copies, h4counters, h4tear⟩ := s3.copies_ringFault r
  have h4copies : ∀ p ∈ s4.copies, p.2.ring = r → p.2.stopped = true := h4copies
  have h4ctr : s4.ctr 0x6050 c 11 = s3.ctr 0x6050 c 11 := congrArg (fun t : Tab Nat => t.get (ctrKey 0x6050 c 11)) h4counters
  have h4tear : s4.teardowns = s3.teardowns := h4tear
  clear_value s4
  have h5 : s5.books c = s4.books c := iff_keeps (Dev.books c) (fun t => by
    exact Eq.trans rfl (each_keeps (Dev.books c) (fun n u => (Dev.books_dropRequests c _ n).trans (u.books_stopStall c n)) _ t)) _ s4
  clear_value s5
  have h6 : s6.books c = s5.books c := each_keeps (Dev.books c) (fun _ u => by rfl) _ s5
  clear_value s6
  have h7 : s7.books c = s6.books c := s6.books_collFault c c
  clear_value s7
  obtain ⟨t7, ht7⟩ : ∃ t7 : Dev, { s7 with tasks := s7.tasks.filter fun t => t.2.ctx != c || t.2.state == 0 } = t7 := ⟨_, rfl⟩
  have h8 : s8.books c = t7.books c := by rw [← ht7]; exact Dev.books_countSlots c _
  have h7' : t7.books c = (s7.rings, s7.copies, s7.tasks.filter fun t => t.2.ctx != c || t.2.state == 0, s7.ctr 0x6050 c 11, s7.teardowns) := by
    rw [← ht7]; rfl
  clear_value s8
  have h9 : s9.books c = s8.books c :=
    iff_keeps (Dev.books c) (fun t => each_keeps (Dev.books c) (fun _ u => by rfl) _ t) _ s8
  clear_value s9
  have h10 : s10.books c = s9.books c := each_keeps (Dev.books c) (fun sh t => each_keeps (Dev.books c) (fun b t =>
    each_keeps (Dev.books c) (fun k t => t.books_clearStamps c _ _) _ t) _ t) _ s9
  clear_value s10
  have h11 : s11.books c = s10.books c := rfl
  clear_value s11
  have h12 : s12.books c = s11.books c := iff_keeps (Dev.books c) (fun t => t.books_loseBack c _) _ s11
  have hlate : s12.books c =
      (s7.rings, s7.copies, s7.tasks.filter fun t => t.2.ctx != c || t.2.state == 0, s7.ctr 0x6050 c 11, s7.teardowns) := by
    rw [h12, h11, h10, h9, h8, h7']
  have hearly : s7.books c = s4.books c := by rw [h7, h6, h5]
  simp only [Dev.books, Prod.mk.injEq] at hg hlate hearly
  obtain ⟨grings, gcopies, gtasks, gctr, gtear⟩ := hg
  obtain ⟨rings', copies', tasks', ctr', tear'⟩ := hlate
  obtain ⟨rings, copies, -, ctr, tear⟩ := hearly
  refine ⟨?_, ?_, ?_, ?_, ?_⟩
  · show (g.rings.get r).running = _
    rw [grings, rings', rings]; exact h4run
  · rw [gcopies, copies', copies]; exact h4copies
  · rw [gtasks, tasks']
    intro p hp hstate hctx
    simp [hctx, hstate] at hp
  · rw [gctr, ctr', ctr, h4ctr, hctr]
  · rw [gtear, tear', tear, h4tear, htear]

/-- Settles O43: the context's entry by `Dev.hasFaulted_faultCtx`, its books by `Dev.books_faultCtx`. -/
theorem aFaultTearsItsContextDown : Obligations.AFaultTearsItsContextDown := by
  intro c fcode funit off viol name d
  refine ⟨fun h => Dev.faultCtx_of_unbound h fcode funit off viol name, fun h => ?_⟩
  intro g r
  obtain ⟨hrun, hcopies, htasks, hctr, -⟩ := Dev.books_faultCtx h fcode funit off viol name g rfl
  have hctxs : g.ctxs = (d.setCtx c ((d.ctx c).faulted fcode funit name)).ctxs := by
    obtain ⟨e, he, hapart⟩ := Dev.faultCtx_of_bound h fcode funit off viol name
    have hge : g.ctxs = e.ctxs := by rw [show g = _ from he]
    exact hge.trans (Dev.ctxs_of_apart hapart)
  refine ⟨Dev.hasFaulted_faultCtx h fcode funit off viol name, ?_, hctr, hrun, hcopies, fun k hk => ?_, fun e he => ?_⟩
  · show (g.ctxs.get c).fname = name
    rw [hctxs]
    exact congrArg Ctx.fname (d.ctx_setCtx c ((d.ctx c).faulted fcode funit name))
  · rcases Tab.get_mem_or_default g.tasks k with hdef | ⟨p, hp, hpk⟩
    · exact absurd (congrArg TaskSlot.state hdef) hk
    · have hpk : p.2 = g.task k := hpk
      rw [← hpk] at hk ⊢
      exact htasks p hp hk
  · show g.ctxs.get e = d.ctx e
    rw [hctxs]
    exact d.ctx_setCtx_other c e _ he

end Sys2Proof.Machine

/-! ## A fault stands while the engines of a Stall go on (R92, R339) -/
namespace Sys2Proof.Machine
open Sys2Proof

/-! ### Where the faults of contexts are kept -/

/-- Where the faults of contexts are kept: the context table and the teardowns. -/
def Dev.dossier (s : Dev) : Tab Ctx × List Teardown := (s.ctxs, s.teardowns)

theorem Dev.hasFaulted_of_dossier {s t : Dev} (h : t.dossier = s.dossier) {c fcode funit : Nat} (hs : s.hasFaulted c fcode funit) :
    t.hasFaulted c fcode funit := by
  obtain ⟨hctxs, htear⟩ := Prod.mk.inj h
  have hctx : t.ctx c = s.ctx c := congrArg (fun x : Tab Ctx => x.get c) hctxs
  unfold Dev.hasFaulted at hs ⊢
  rwa [hctx, htear]

theorem Dev.ctxs_faultCtx {s : Dev} {c : Nat} (h : (s.ctx c).state = .bound) (fcode funit off : Nat) (viol : W64) (name : FaultName) :
    (s.faultCtx c fcode funit off viol name).ctxs = (s.setCtx c ((s.ctx c).faulted fcode funit name)).ctxs := by
  obtain ⟨g, hg, hapart⟩ := Dev.faultCtx_of_bound h fcode funit off viol name
  have hge : (s.faultCtx c fcode funit off viol name).ctxs = g.ctxs := by rw [hg]
  exact hge.trans (Dev.ctxs_of_apart hapart)

section Faulted
variable {c fcode funit : Nat}

/-- What has faulted, another fault leaves as it is. -/
theorem Dev.hasFaulted_faultCtx_again {s : Dev} (hs : s.hasFaulted c fcode funit) (e fcode' funit' off : Nat) (viol : W64)
    (name : FaultName) : (s.faultCtx e fcode' funit' off viol name).hasFaulted c fcode funit := by
  by_cases h : (s.ctx e).state = .bound
  · obtain ⟨hstate, hcode, hunit, htear⟩ := hs
    have hce : c ≠ e := by
      rintro rfl
      rw [h] at hstate
      cases hstate
    have hctx : (s.faultCtx e fcode' funit' off viol name).ctx c = s.ctx c := by
      show (Dev.ctxs _).get c = _
      rw [Dev.ctxs_faultCtx h]
      exact s.ctx_setCtx_other e c _ hce
    obtain ⟨-, -, -, -, htears⟩ := Dev.books_faultCtx h fcode' funit' off viol name _ rfl
    refine ⟨by rw [hctx]; exact hstate, by rw [hctx]; exact hcode, by rw [hctx]; exact hunit, ?_⟩
    rw [htears, List.any_append, htear, Bool.true_or]
  · rwa [Dev.faultCtx_of_unbound h]

theorem Dev.hasFaulted_faultStall {s : Dev} (hs : s.hasFaulted c fcode funit) (n code off : Nat) (name : FaultName) :
    (s.faultStall n code off name).hasFaulted c fcode funit := by
  unfold Dev.faultStall
  extract_lets s1
  have h1 : s1.hasFaulted c fcode funit := hs
  clear_value s1
  split
  · exact Dev.hasFaulted_faultCtx_again h1 _ _ _ _ _ _
  · exact h1

end Faulted

/-! ### The engines and the dossier -/

section Engines
variable (s : Dev) (n : Nat)

variable {s n} in
theorem Dev.dossier_of_jobUnit {j : Job} {a : Bool} {b : Nat} {h r : Bool} {l u : Nat} {t : Dev} (heq : s.jobUnit n j a b h r l = (u, t)) :
    t.dossier = s.dossier := by
  cases heq
  rfl

theorem Dev.dossier_growUnit (u m : Nat) : (s.growUnit n u m).dossier = s.dossier :=
  iff_keeps Dev.dossier (fun _ => by rfl) _ s

theorem Dev.dossier_closeUnit (u : Nat) (o : Bool) : (s.closeUnit n u o).dossier = s.dossier :=
  iff_keeps Dev.dossier (fun _ => by rfl) _ s

theorem Dev.dossier_takeRows (g k : Nat) : (s.takeRows n g k).2.dossier = s.dossier := by
  unfold Dev.takeRows
  extract_lets x d rows t
  split
  · rfl
  · rfl

theorem Dev.dossier_formMma (j : Job) (cs : List Nat) : (s.formMma n j cs).dossier = s.dossier := rfl

theorem Dev.dossier_jobRead (j : Job) (port unit row k since : Nat) : (s.jobRead n j port unit row k since).dossier = s.dossier := rfl

theorem Dev.dossier_modJob (k : Nat) (f : Job → Job) : (s.modJob n k f).dossier = s.dossier := rfl

theorem Dev.dossier_startMma (j : Job) : (s.startMma n j).dossier = s.dossier := by
  unfold Dev.startMma
  extract_lets o e cs s1 s2 srow
  have h2 : s2.dossier = s.dossier := rfl
  clear_value s2
  split
  · split
    next u s3 heq =>
    exact (foldl_keeps Dev.dossier (fun t r => t.dossier_jobRead ..) _ _).trans
      ((s3.dossier_modJob ..).trans ((Dev.dossier_of_jobUnit heq).trans h2))
  · exact (s2.dossier_formMma ..).trans h2

theorem Dev.dossier_startVec (j : Job) : (s.startVec n j).dossier = s.dossier := rfl

theorem Dev.dossier_startPro (j : Job) : (s.startPro n j).dossier = s.dossier := by
  unfold Dev.startPro
  split
  · rfl
  · next e _ =>
    extract_lets ws o ks v sides s1 s2
    have h2 : s2.dossier = s.dossier := rfl
    clear_value s2
    refine (foldl_keeps Dev.dossier (fun t p => ?_) sides s2).trans h2
    split
    next u t1 heq =>
    exact (foldl_keeps Dev.dossier (fun t r => t.dossier_jobRead ..) _ _).trans (Dev.dossier_of_jobUnit heq)

theorem Dev.dossier_startEpi (j : Job) (due : Nat) : (s.startEpi n j due).dossier = s.dossier := by
  unfold Dev.startEpi
  split
  · rfl
  · next e _ =>
    extract_lets port env es st rs s1 s2
    have h1 : s1.dossier = s.dossier := rfl
    clear_value s1
    have h2 : s2.dossier = s1.dossier := by
      refine foldl_keeps Dev.dossier (fun t p => ?_) rs s1
      split
      next u t1 heq => exact (t1.dossier_modJob ..).trans (Dev.dossier_of_jobUnit heq)
    clear_value s2
    split
    next u s3 heq =>
    exact (foldl_keeps Dev.dossier (fun t r => t.dossier_jobRead ..) _ _).trans ((Dev.dossier_of_jobUnit heq).trans (h2.trans h1))

theorem Dev.dossier_startFill (j : Job) : (s.startFill n j).dossier = s.dossier := by
  unfold Dev.startFill
  extract_lets
  split
  · rfl
  · rfl

theorem Dev.dossier_takeMsg (j : Job) : (s.takeMsg n j).dossier = s.dossier := by
  unfold Dev.takeMsg
  extract_lets o q
  split
  · rfl
  · split
    · rfl
    · rfl

theorem Dev.dossier_jobWrites (j : Job) (u since : Nat) (l : List BWrite) : (s.jobWrites n j u since l).dossier = s.dossier := by
  unfold Dev.jobWrites
  extract_lets rows s1 s2
  have h1 : s1.dossier = s.dossier := s.dossier_growUnit n u _
  clear_value s1
  exact (foldl_keeps Dev.dossier (fun _ _ => by rfl) rows s2).trans h1

theorem Dev.dossier_drawCut (l : Launch) (v : Nat) : (s.drawCut l v).2.dossier = s.dossier := by
  unfold Dev.drawCut
  split
  · rfl
  · rfl

variable {s} in
theorem Dev.dossier_of_drawCut {l : Launch} {v : Nat} {cut : Option Nat} {t : Dev} (heq : s.drawCut l v = (cut, t)) :
    t.dossier = s.dossier := by
  rw [← s.dossier_drawCut l v, heq]

theorem Dev.dossier_endVec (j : Job) (l : Launch) : (s.endVec n j l).dossier = s.dossier := by
  unfold Dev.endVec
  extract_lets s1 s2 rd o g s3
  have h2 : s2.dossier = s.dossier := (Dev.dossier_closeUnit _ n _ _).trans ((s1.dossier_closeUnit n _ _).trans rfl)
  clear_value s2
  have h3 : s3.dossier = s2.dossier := by
    unfold s3
    split
    · split
      next cut t heq =>
      have ht : t.dossier = s2.dossier := by
        split at heq
        · cases heq; rfl
        · exact Dev.dossier_of_drawCut heq
      extract_lets o' t1
      have h1 : t1.dossier = t.dossier := t.dossier_modJob ..
      clear_value t1
      split
      · exact (t1.dossier_jobWrites ..).trans (h1.trans ht)
      · exact h1.trans ht
    · rfl
  exact (s3.dossier_closeUnit n _ _).trans (h3.trans h2)

theorem Dev.dossier_putVec (j : Job) (l : Launch) (v late : Nat) (gr : List Nat) (bw : List BWrite) (g : Nat) :
    (s.putVec n j l v late gr bw g).dossier = s.dossier := by
  unfold Dev.putVec
  extract_lets eff
  split
  next cut t heq =>
  extract_lets j' t1 t2
  have h : t.dossier = s.dossier := by
    split at heq
    · cases heq; rfl
    · exact Dev.dossier_of_drawCut heq
  have h1 : t1.dossier = t.dossier := t.dossier_modJob ..
  clear_value t1
  have h2 : t2.dossier = t1.dossier := by
    unfold t2
    split
    · exact t1.dossier_jobWrites ..
    · rfl
  clear_value t2
  split
  · exact h2.trans (h1.trans h)
  · exact (Dev.dossier_endVec _ n j' l).trans (Eq.trans rfl (h2.trans (h1.trans h)))

theorem Dev.dossier_enterVec (j : Job) (l : Launch) : (s.enterVec n j l).dossier = s.dossier := by
  unfold Dev.enterVec
  extract_lets rows u1 u2 s1 s2
  have h1 : s1.dossier = s.dossier := (Dev.dossier_growUnit _ n _ _).trans (s.dossier_growUnit n _ _)
  clear_value s1
  exact (foldl_keeps Dev.dossier (fun _ _ => by rfl) rows s2).trans ((s1.dossier_modJob ..).trans h1)

theorem Dev.dossier_askGather (j : Job) (gr : List Nat) : (s.askGather n j gr).dossier = s.dossier := by
  unfold Dev.askGather
  extract_lets u s1 s2
  have h1 : s1.dossier = s.dossier := s.dossier_growUnit n _ _
  clear_value s1
  exact (foldl_keeps Dev.dossier (fun t r => t.dossier_jobRead ..) gr s2).trans ((s1.dossier_modJob ..).trans h1)

theorem Dev.dossier_progVec (t fuel : Nat) : (s.progVec n t fuel).dossier = s.dossier := by
  induction fuel generalizing s with
  | zero => rfl
  | succ fuel ih =>
    unfold Dev.progVec
    split
    · rfl
    · next j _ =>
      extract_lets l v rows
      split
      · split
        · rfl
        · exact (ih _).trans (s.dossier_enterVec n j l)
      · split
        · split
          · rfl
          · split
            · split
              exact (ih _).trans (s.dossier_putVec n j l v _ _ _ _)
            · exact (Dev.dossier_askGather _ n j _).trans (s.dossier_modJob ..)
        · split
          · split
            · rfl
            · split
              exact (ih _).trans (s.dossier_putVec n j l v _ _ _ _)
          · rfl

theorem Dev.dossier_progMma (j : Job) : (s.progMma n j).dossier = s.dossier := by
  unfold Dev.progMma
  split
  · exact s.dossier_formMma n j j.acc
  · rfl

theorem Dev.dossier_progPro (j : Job) : (s.progPro n j).dossier = s.dossier := by
  unfold Dev.progPro
  split
  · rfl
  · extract_lets o env late s1
    split
    exact (s1.dossier_modJob ..).trans rfl

theorem Dev.dossier_progMov (j : Job) : (s.progMov n j).dossier = s.dossier := by
  unfold Dev.progMov
  extract_lets o bs
  split
  next a b _ =>
  extract_lets sc full
  exact s.dossier_modJob ..

theorem Dev.dossier_commitTiles (j : Job) : (s.commitTiles n j).dossier = s.dossier := rfl

theorem Dev.dossier_dropJob (t : Nat) : (s.dropJob n t).dossier = s.dossier := rfl

theorem Dev.dossier_jobWrite (j : Job) (port unit row : Nat) (data mask : Row) (since : Nat) :
    (s.jobWrite n j port unit row data mask since).dossier = s.dossier := rfl

theorem Dev.dossier_progEpi (j : Job) : (s.progEpi n j).dossier = s.dossier := by
  unfold Dev.progEpi
  split
  · rfl
  · next e _ =>
    extract_lets -underBinder m o
    split
    next x ga _ =>
    extract_lets -underBinder late resid env port ws es slots st0 acc0 a
    split
    · split
      exact s.dossier_modJob ..
    · split
      next bw side g _ =>
      extract_lets -underBinder s1 s2
      have h2 : s2.dossier = s.dossier := (s1.dossier_modJob ..).trans rfl
      clear_value s2
      split
      next u s3 heq =>
      have h3 : s3.dossier = s2.dossier := Dev.dossier_of_jobUnit heq
      extract_lets -underBinder s4 s5 s6
      have h4 : s4.dossier = s3.dossier := s3.dossier_modJob ..
      clear_value s4
      have h5 : s5.dossier = s4.dossier := foldl_keeps Dev.dossier (fun t q => t.dossier_jobWrite ..) _ s4
      clear_value s5
      have h6 : s6.dossier = s5.dossier := by
        refine foldl_keeps Dev.dossier (fun t i => ?_) _ s5
        extract_lets mine rows h
        split
        next u t1 heq => exact (t1.dossier_modJob ..).trans (Dev.dossier_of_jobUnit heq)
      clear_value s6
      refine (foldl_keeps Dev.dossier (fun t i => ?_) _ s6).trans (h6.trans (h5.trans (h4.trans (h3.trans h2))))
      extract_lets ents h
      split
      next u t1 heq =>
      extract_lets t2
      exact (foldl_keeps Dev.dossier (fun t q => t.dossier_jobWrite ..) ents t2).trans
        ((t1.dossier_modJob ..).trans (Dev.dossier_of_jobUnit heq))

variable {s} in
theorem Dev.dossier_of_offerRow {j : Job} {x : Nat × Nat × Nat × Bytes} {rest : List (Nat × Nat × Nat × Bytes)} {b : Bool} {t : Dev}
    (heq : s.offerRow n j x rest = (b, t)) : t.dossier = s.dossier := by
  unfold Dev.offerRow at heq
  split at heq
  · split at heq
    next path didx r data =>
    split at heq
    · unfold Dev.offerColl at heq
      extract_lets h at heq
      split at heq
      · cases heq; rfl
      · cases heq; rfl
    · cases heq
      unfold Dev.offerPut
      extract_lets rcd addr bell key id bad s1 ids s2
      have h1 : s1.dossier = s.dossier := by
        unfold s1
        split
        · rfl
        · rfl
      clear_value s1
      split
      · exact Eq.trans rfl h1
      · exact (iff_keeps Dev.dossier (fun _ => by rfl) _ s2).trans (Eq.trans rfl h1)
  · cases heq; rfl

theorem Dev.dossier_handRows (t fuel : Nat) : (s.handRows n t fuel).dossier = s.dossier := by
  induction fuel generalizing s with
  | zero => rfl
  | succ fuel ih =>
    unfold Dev.handRows
    split
    · rfl
    · split
      · rfl
      · split
        next u heq => exact Dev.dossier_of_offerRow n heq
        next u heq => exact (ih _).trans ((u.dossier_modJob ..).trans (Dev.dossier_of_offerRow n heq))

end Engines

/-! ### The engines leave what has faulted -/

section Kick
variable {c fcode funit : Nat} (n : Nat)

theorem Dev.hasFaulted_startMov {s : Dev} (hs : s.hasFaulted c fcode funit) (j : Job) : (s.startMov n j).hasFaulted c fcode funit := by
  unfold Dev.startMov
  extract_lets -underBinder o
  split
  next s1 heq =>
    have h1 : s1.dossier = s.dossier := by rw [← s.dossier_takeRows n o.agen o.chestRows, heq]
    exact Dev.hasFaulted_faultStall (Dev.hasFaulted_of_dossier h1 hs) n _ _ _
  next rows s1 heq =>
    have h1 : s1.dossier = s.dossier := by rw [← s.dossier_takeRows n o.agen o.chestRows, heq]
    extract_lets -underBinder isLd
    split
    next u s2 heq2 =>
    extract_lets -underBinder s3 bs
    have h3 : s3.dossier = s.dossier := (s2.dossier_modJob ..).trans ((Dev.dossier_of_jobUnit heq2).trans h1)
    clear_value s3
    refine Dev.hasFaulted_of_dossier (Eq.trans ?_ h3) hs
    split
    · exact foldl_keeps Dev.dossier (fun t q => t.dossier_jobRead ..) _ s3
    · exact foldl_keeps Dev.dossier (fun t q => t.dossier_jobWrite ..) _ s3

theorem Dev.hasFaulted_startJob {s : Dev} (hs : s.hasFaulted c fcode funit) (j : Job) : (s.startJob n j).hasFaulted c fcode funit := by
  unfold Dev.startJob
  split
  · exact Dev.hasFaulted_of_dossier (s.dossier_startMma n j) hs
  · exact Dev.hasFaulted_of_dossier (s.dossier_startVec n j) hs
  · exact Dev.hasFaulted_of_dossier (s.dossier_startVec n j) hs
  · exact Dev.hasFaulted_of_dossier (s.dossier_startPro n j) hs
  · split
    · exact Dev.hasFaulted_of_dossier (s.dossier_dropJob n _) hs
    · extract_lets es ks isLast p t tail m cyc s1 s2
      exact Dev.hasFaulted_of_dossier ((s2.dossier_startEpi n j _).trans rfl) hs
  · exact Dev.hasFaulted_startMov n hs j
  · exact Dev.hasFaulted_startMov n hs j
  · exact Dev.hasFaulted_of_dossier (s.dossier_startFill n j) hs
  · exact Dev.hasFaulted_of_dossier (s.dossier_startFill n j) hs
  · exact Dev.hasFaulted_of_dossier (s.dossier_modJob ..) hs
  · exact Dev.hasFaulted_of_dossier ((Dev.dossier_takeMsg _ n _).trans (s.dossier_modJob ..)) hs

theorem Dev.hasFaulted_starts {s : Dev} (hs : s.hasFaulted c fcode funit) (fuel : Nat) : (s.starts n fuel).hasFaulted c fcode funit := by
  induction fuel generalizing s with
  | zero => exact hs
  | succ fuel ih =>
    unfold Dev.starts
    split
    · exact hs
    · exact ih (Dev.hasFaulted_startJob n hs _)

theorem Dev.dossier_progress (s : Dev) (t : Nat) : (s.progress n t).dossier = s.dossier := by
  unfold Dev.progress
  split
  · rfl
  · next j _ =>
    have hEpi : ((s.progEpi n j).handRows n t 64).dossier = s.dossier := (Dev.dossier_handRows _ n t 64).trans (s.dossier_progEpi n j)
    split
    · exact s.dossier_progVec n t _
    · exact s.dossier_progVec n t _
    · exact s.dossier_progMma n j
    · split
      · exact s.dossier_progPro n j
      · rfl
    · split
      · exact hEpi
      · rfl
    · split
      · exact hEpi
      · rfl
    · exact s.dossier_handRows n t 64
    · exact s.dossier_handRows n t 64
    · split
      · exact s.dossier_progMov n j
      · rfl
    · split
      · exact s.dossier_progMov n j
      · rfl
    · exact s.dossier_takeMsg n j
    · split
      · exact (Dev.dossier_dropJob _ n t).trans (s.dossier_commitTiles n j)
      · rfl
    · rfl

/-- What the engines of a Stall start and end leaves what has faulted. -/
theorem Dev.hasFaulted_kick {s : Dev} (hs : s.hasFaulted c fcode funit) : (s.kick n).hasFaulted c fcode funit := by
  unfold Dev.kick
  extract_lets s1 s2
  split
  · exact hs
  · have h1 : s1.hasFaulted c fcode funit := Dev.hasFaulted_starts n hs 8
    clear_value s1
    have h2 : s2.dossier = s1.dossier := foldl_keeps Dev.dossier (fun t (j : Job) => Dev.dossier_progress n t j.ticket) _ s1
    clear_value s2
    exact Dev.hasFaulted_starts n (Dev.hasFaulted_of_dossier h2 h1) 8

end Kick

/-! ### Errors and long waits (R60, R454) -/

/-- A fault of a Stall that works for a context is that context's fault. -/
theorem Dev.hasFaulted_faultStall_of_worksFor {s : Dev} {n c : Nat} (h : s.worksFor n c) (code off : Nat) (name : FaultName) :
    (s.faultStall n code off name).hasFaulted c code n := by
  obtain ⟨-, hbound, hlot, hfront⟩ := h
  have hctx : ∀ f, (s.modStall n f).stallCtx n = some c := fun f => by
    show (s.lotOf (n / 4)).bind (fun l => (s.lot l).frontCtx) = some c
    rw [hlot]
    exact hfront
  unfold Dev.faultStall
  extract_lets s1
  rw [show s1.stallCtx n = some c from hctx _]
  exact Dev.hasFaulted_faultCtx (s := s1) hbound code n off 0 name

theorem Dev.dossier_logAdd (s : Dev) (x : LogRec) : (s.logAdd x).2.dossier = s.dossier := by
  obtain ⟨_, _, h⟩ := s.logAdd_frame x
  rw [h]
  rfl

theorem Dev.dossier_unitError (s : Dev) (ekind uclass unit : Nat) (ctxs : List Nat) (fcode addr : Nat) (detail : W64) :
    (s.unitError ekind uclass unit ctxs fcode addr detail).dossier = s.dossier := by
  unfold Dev.unitError
  split
  · exact s.dossier_logAdd _
  · split
    next x t heq =>
    have ht : t.dossier = s.dossier := by
      rw [show t = _ from (congrArg Prod.snd heq).symm]
      exact s.dossier_logAdd _
    exact Eq.trans rfl ht

variable {s : Dev} {n c : Nat}

theorem Dev.hasFaulted_residue (h : s.worksFor n c) (off : Nat) : (s.residue n off).hasFaulted c 0x0002 n :=
  Dev.hasFaulted_of_dossier (Dev.dossier_unitError ..) (Dev.hasFaulted_faultStall_of_worksFor h 0x0002 off .nothing)

theorem Dev.hasFaulted_hang (h : s.worksFor n c) (code off : Nat) (name : FaultName) : (s.hang n code off name).hasFaulted c code n :=
  Dev.hasFaulted_of_dossier (Dev.dossier_unitError ..) (Dev.hasFaulted_faultStall_of_worksFor h code off name)

/-- A completion whose first job faults the context. -/
theorem Dev.hasFaulted_complete {p : Job → Bool} {f : Job → Dev → Dev} {j : Job} {code : Nat} (hj : (s.stall n).jobs.find? p = some j)
    (hf : (f j s).hasFaulted c code n) : (s.complete n p f).hasFaulted c code n := by
  unfold Dev.complete
  rw [hj]
  exact Dev.hasFaulted_kick n hf

/-- The same, where any job that satisfies the condition faults the context. -/
theorem Dev.hasFaulted_complete_of_any {p : Job → Bool} {f : Job → Dev → Dev} {code : Nat} (hany : (s.stall n).jobs.any p = true)
    (hf : ∀ j, (f j s).hasFaulted c code n) : (s.complete n p f).hasFaulted c code n := by
  obtain ⟨j, hj⟩ := Option.isSome_iff_exists.mp ((List.find?_isSome (p := p)).mpr (List.any_eq_true.mp hany))
  exact Dev.hasFaulted_complete hj (hf j)

/-- A command on a Stall after whose effect the context has faulted. -/
theorem exec_hasFaulted {i : Instr} {f : Dev → Dev} {s : State} {n c code : Nat} (hexec : exec i s = s.actOn (decide (n < 2304)) f)
    (h : s.dev.worksFor n c) (hf : (f s.dev).hasFaulted c code n) : ∃ t, exec i s = .next t ∧ t.dev.hasFaulted c code n := by
  obtain ⟨hn, -⟩ := h
  exact ⟨_, exec_of_actOn (f := f) hexec (decide_eq_true hn) rfl, hf⟩

/-- Settles O20: a failed residue check by `Dev.hasFaulted_residue`, a wait by `Dev.hasFaulted_hang`; the engines that go on afterwards
leave the fault (`Dev.hasFaulted_kick`). -/
theorem errorsAndLongWaitsFaultTheContext : Obligations.ErrorsAndLongWaitsFaultTheContext := by
  constructor
  on_goal 1 =>
    intro n c j s h js due faults
    refine ⟨fun hj => ?mma, fun hj hchecked => ?vec, fun hj hchecked => ?epi⟩
  on_goal 4 =>
    intro n c s h js faults
    refine ⟨fun hlong => ?recv, fun hlong => ?bell, fun hlong => ?send, fun hlong => ?late, fun hlong => ?epiSend⟩
  case mma =>
    exact exec_hasFaulted (f := mmaDrainComplete n false) rfl h (Dev.hasFaulted_complete hj (Dev.hasFaulted_residue h j.pc))
  case vec =>
    refine exec_hasFaulted (f := vectorLaunchComplete n false) rfl h (Dev.hasFaulted_complete hj ?_)
    rw [launchJob, if_pos (by simpa using hchecked)]
    exact Dev.hasFaulted_residue h j.pc
  case epi =>
    refine exec_hasFaulted (f := epilogueComplete n false) rfl h (Dev.hasFaulted_complete hj ?_)
    rw [epiJob, if_pos (by simpa using hchecked)]
    exact Dev.hasFaulted_residue h j.pc
  case recv =>
    refine exec_hasFaulted (f := recvTimeout n) rfl h ?_
    unfold recvTimeout
    extract_lets name
    split
    · exact Dev.hasFaulted_hang h 0x0005 _ _
    · next hheld =>
      exact Dev.hasFaulted_complete_of_any (hlong.resolve_left hheld) fun j => Dev.hasFaulted_hang h 0x0005 _ _
  case bell =>
    refine exec_hasFaulted (f := bellTimeout n) rfl h ?_
    unfold bellTimeout Dev.iff
    rw [if_pos hlong]
    exact Dev.hasFaulted_hang h 0x0006 _ _
  case send =>
    exact exec_hasFaulted (f := sendTimeout n) rfl h (Dev.hasFaulted_complete_of_any hlong fun j => Dev.hasFaulted_hang h 0x0007 _ _)
  case late =>
    exact exec_hasFaulted (f := epiLate n) rfl h (Dev.hasFaulted_complete_of_any hlong fun j => Dev.hasFaulted_hang h 0x0009 _ _)
  case epiSend =>
    exact exec_hasFaulted (f := epiSendTimeout n) rfl h
      (Dev.hasFaulted_complete_of_any hlong fun j => Dev.hasFaulted_faultStall_of_worksFor h 0x000A _ _)

end Sys2Proof.Machine

/-! ## The tree of reductions (R54, R300) -/
namespace Sys2Proof.Machine
open Sys2Proof

/-- First rank of the block of level k around rank r. -/
def treeFirst (k r : Nat) : Nat := r / 2 ^ k * 2 ^ k

theorem treeBlock_eq (n k r : Nat) : treeBlock n k r = (treeFirst k r, min (2 ^ k) (n - treeFirst k r)) := rfl

theorem treeFirst_le (k r : Nat) : treeFirst k r ≤ r := Nat.div_mul_le_self r _

theorem lt_treeFirst_add (k r : Nat) : r < treeFirst k r + 2 ^ k := by
  have h := Nat.lt_div_mul_add (a := r) (Nat.two_pow_pos k)
  exact h

theorem treeFirst_of_mul (k m : Nat) : treeFirst k (m * 2 ^ k) = m * 2 ^ k := by
  rw [treeFirst, Nat.mul_div_cancel _ (Nat.two_pow_pos k)]

/-- A holder is a member of its block. -/
theorem treeHolder_mem {lo size : Nat} (c : Nat) (h : 0 < size) : lo ≤ treeHolder (lo, size) c ∧ treeHolder (lo, size) c < lo + size := by
  unfold treeHolder
  have hpos : (0 : Int) < size := by exact_mod_cast h
  have hlt := Int.emod_lt_of_pos ((c : Int) - lo) hpos
  have hnonneg := Int.emod_nonneg ((c : Int) - lo) hpos.ne'
  constructor <;> dsimp only <;> omega

/-- The levels suffice for the group. -/
theorem le_two_pow_treeLevels (n : Nat) : n ≤ 2 ^ treeLevels n := by
  unfold treeLevels
  split
  · omega
  · next h =>
    have hlog : n - 1 < 2 ^ (Nat.log2 (n - 1) + 1) := Nat.lt_log2_self
    omega

/-- Settles O40: each clause from the first rank of a block, `treeFirst`, and its size. -/
theorem theTreeEndsAtTheChunksRank : Obligations.TheTreeEndsAtTheChunksRank := by
  intro n hn
  refine ⟨fun k r c hr => ?block, fun r hr => ⟨?leaf, ?top⟩, fun k r hr hmerge => ?merge, fun c hc => ?own⟩
  case block =>
    have hle := treeFirst_le k r
    have hlt := lt_treeFirst_add k r
    rw [treeBlock_eq]
    obtain ⟨hlow, hhigh⟩ := treeHolder_mem (lo := treeFirst k r) (size := min (2 ^ k) (n - treeFirst k r)) c (by omega)
    exact ⟨hle, by dsimp only; omega, by dsimp only; omega, hlow, hhigh⟩
  case leaf =>
    have hfirst : treeFirst 0 r = r := by simp [treeFirst]
    rw [treeBlock_eq, hfirst, Prod.mk.injEq]
    exact ⟨rfl, by omega⟩
  case top =>
    have hlevels := le_two_pow_treeLevels n
    have hfirst : treeFirst (treeLevels n) r = 0 := by rw [treeFirst, Nat.div_eq_of_lt (by omega), Nat.zero_mul]
    rw [treeBlock_eq, hfirst, Prod.mk.injEq]
    exact ⟨rfl, by omega⟩
  case merge =>
    intro h
    obtain ⟨m, hm⟩ : ∃ m, treeFirst (k + 1) r = 2 * m * 2 ^ k := ⟨r / 2 ^ (k + 1), by rw [treeFirst, pow_succ]; ring⟩
    have hlow : treeFirst k (treeFirst (k + 1) r) = treeFirst (k + 1) r := by rw [hm, treeFirst_of_mul]
    have hhigh : treeFirst k (treeFirst (k + 1) r + 2 ^ k) = treeFirst (k + 1) r + 2 ^ k := by
      rw [hm, show 2 * m * 2 ^ k + 2 ^ k = (2 * m + 1) * 2 ^ k by ring, treeFirst_of_mul]
    have hroom : treeFirst (k + 1) r + 2 ^ k < n := of_decide_eq_true hmerge
    have hfst : h.1 = (treeFirst (k + 1) r, min (2 ^ k) (n - treeFirst (k + 1) r)) := by
      rw [show h.1 = treeBlock n k (treeFirst (k + 1) r) from rfl, treeBlock_eq, hlow]
    have hsnd : h.2 = (treeFirst (k + 1) r + 2 ^ k, min (2 ^ k) (n - (treeFirst (k + 1) r + 2 ^ k))) := by
      rw [show h.2 = treeBlock n k (treeFirst (k + 1) r + 2 ^ k) from rfl, treeBlock_eq, hhigh]
    rw [treeBlock_eq, hfst, hsnd, Prod.mk.injEq, pow_succ]
    exact ⟨⟨rfl, by dsimp only; omega⟩, by dsimp only; omega⟩
  case own =>
    unfold treeHolder
    dsimp only
    rw [Int.emod_eq_of_lt (by omega) (by omega)]
    omega

end Sys2Proof.Machine

/-! ## Block islands and the governor (R407 to R416) -/
namespace Sys2Proof.Machine
open Sys2Proof

/-! ### Fetching and completing change the rings alone (R364, R366) -/

theorem Dev.fetch_frame (s : Dev) (r n : Nat) : ∃ rings, s.fetch r n = { s with rings := rings } := by
  induction n generalizing s with
  | zero => exact ⟨_, rfl⟩
  | succ n ih =>
    unfold Dev.fetch Dev.fetchOne
    extract_lets x e
    split
    · obtain ⟨_, h⟩ := ih (s.modRing r fun y => { y with chead := (y.chead + 1) % 65536, fetched := y.fetched ++ [{ entry := e }] })
      exact ⟨_, h.trans rfl⟩
    · exact ih s

theorem Dev.pump_zero (s : Dev) (r : Nat) : s.pump r 0 = s := rfl

/-- What a pump does with the oldest entry that its ring has fetched (R339, R364, R367). -/
def Dev.pumpNext (s : Dev) (r n : Nat) : List Cmd → Dev
  | [] => s
  | c :: _ =>
    if !(s.ring r).slotFree then s
    else if s.ringFaulted r ∨ (s.ring r).doomed ≠ 0 then
      ((s.refuseFetched r 0x46 1).modRing r fun x => { x with doomed := x.doomed - 1 }).pump r n
    else if cmdOk r c.entry then s
    else (s.refuseFetched r 0x40 1).pump r n

/-- The fetch stands as a variable while the recursion of `Dev.pump` is unfolded: its 17 rounds are not to be evaluated. -/
theorem Dev.pump_succ (s : Dev) (r n : Nat) :
    s.pump r (n + 1) = (s.fetch r fetchMax).pumpNext r n ((s.fetch r fetchMax).ring r).fetched := by
  delta Dev.pumpNext Dev.pump Dev.pump._f
  generalize Dev.fetch = f
  rfl

theorem Dev.pump_frame (s : Dev) (r n : Nat) : ∃ rings, s.pump r n = { s with rings := rings } := by
  induction n generalizing s with
  | zero => exact ⟨s.rings, s.pump_zero r⟩
  | succ n ih =>
    have hgo : ∀ t : Dev, (∃ rings, t = { s with rings := rings }) → ∃ rings, t.pump r n = { s with rings := rings } := by
      rintro t ⟨rings, rfl⟩
      exact ih { s with rings := rings }
    rw [Dev.pump_succ]
    obtain ⟨rings, hfetch⟩ := s.fetch_frame r fetchMax
    rw [hfetch]
    unfold Dev.pumpNext
    split
    · exact ⟨rings, rfl⟩
    · split
      · exact ⟨rings, rfl⟩
      · split
        · obtain ⟨rings', h⟩ := Dev.refuseFetched_frame { s with rings := rings } r 0x46 1
          rw [h]
          exact hgo _ ⟨_, rfl⟩
        · split
          · exact ⟨rings, rfl⟩
          · obtain ⟨rings', h⟩ := Dev.refuseFetched_frame { s with rings := rings } r 0x40 1
            rw [h]
            exact hgo _ ⟨rings', rfl⟩

theorem Dev.done_frame (s : Dev) (r id st : Nat) (fs : List (Nat × Nat × Nat)) : ∃ rings, s.done r id st fs = { s with rings := rings } := by
  obtain ⟨_, hfinish⟩ := s.finish_frame r id st fs
  obtain ⟨_, hpump⟩ := (s.finish r id st fs).pump_frame r pumpMax
  exact ⟨_, by rw [Dev.done, hpump, hfinish]⟩

/-! ### Islands (R30, R407 to R409) -/

theorem Dev.blocks_tryActive (s : Dev) (k : Nat) : (s.tryActive k).blocks = s.blocks := by
  unfold Dev.tryActive
  extract_lets -underBinder l s1
  have h1 : s1.blocks = s.blocks := rfl
  clear_value s1
  split
  · split
    · next c _ =>
      obtain ⟨_, h⟩ := s1.done_frame mgmtRing c.id 0 []
      rw [h]
      exact h1
    · exact h1
  · rfl

theorem Dev.blocks_loseTiles (s : Dev) (n : Nat) : (s.loseTiles n).blocks = s.blocks := rfl
theorem Dev.blocks_loseFlags (s : Dev) (n : Nat) : (s.loseFlags n).blocks = s.blocks := rfl

/-- An island whose power-up is over runs; no other block changes. -/
theorem blockReachesRun_blocks {b u : Nat} {s : Dev} (hat : (s.block b).islandAt = some u) (hup : u ≤ s.now)
    (hbanks : (s.block b).banksAt.getD 0 ≤ s.now) (hasked : s.asked b true = false) (hturn : s.turnStart = true) :
    (blockReachesRun b s).blocks =
      s.blocks.mod b fun y => { y with island := .run, islandAt := none, banksAt := none, quiet := none } := by
  unfold blockReachesRun
  extract_lets x s1 s2
  have h1 : s1.blocks = s.blocks := each_keeps Dev.blocks (fun n t => (Dev.blocks_loseFlags _ n).trans (t.blocks_loseTiles n)) _ s
  clear_value s1
  have h2 : s2.blocks = s.blocks.mod b fun y => { y with island := .run, islandAt := none, banksAt := none, quiet := none } := by
    rw [← h1]; rfl
  clear_value s2
  split
  · next h => rw [show x.islandAt = some u from hat] at h; cases h
  · next t h =>
    obtain rfl : u = t := Option.some.inj (hat.symm.trans h)
    have hready : ¬(s.now < u ∨ s.now < x.banksAt.getD 0 ∨ s.asked b true = true ∨ (!s.turnStart) = true) := by
      rintro (h | h | h | h)
      · omega
      · exact absurd hbanks (Nat.not_le.mpr h)
      · rw [hasked] at h; cases h
      · rw [hturn] at h; cases h
    rw [if_neg hready]
    split
    · exact (s2.blocks_tryActive _).trans h2
    · exact h2

theorem blockIdleEntry_of_quiet {b u : Nat} {s : Dev} (hrun : (s.block b).island = .run) (hquiet : (s.block b).quiet = some u)
    (hspan : u + 64 ≤ s.now) (hstill : s.isQuiet b = true) :
    blockIdleEntry b s = s.modBlock b fun y => { y with island := .idle, quiet := none } := by
  unfold blockIdleEntry
  extract_lets x
  rw [show x.quiet = some u from hquiet]
  exact if_pos ⟨hrun, hspan, hstill⟩

theorem blockRetentionEntry_of_rest {b k : Nat} {s : Dev} (hlot : s.lotOf b = some k) (hidle : (s.block b).island = .idle)
    (hback : (s.lot k).bstate = .empty) (hrest : s.inGapOf (s.lot k) = true ∨ s.isRested (s.lot k) = true) :
    blockRetentionEntry b s = s.modBlock b fun x => { x with island := .ret } := by
  unfold blockRetentionEntry
  rw [hlot]
  exact if_pos ⟨hidle, hback, hrest⟩

/-- What a block becomes whose clock is started. -/
def Block.roused (x : Block) (at_ : Nat) : Block := { x with island := .run, quiet := none, clockAt := at_ }

theorem Dev.block_rouse (s : Dev) (b c : Nat) : (s.rouse b).block c = if (s.block c).island = .idle ∧ b = c
    then (s.block c).roused (s.now + (8 - s.time % 8) % 8) else s.block c := by
  by_cases hb : b = c
  · subst hb
    by_cases hidle : (s.block b).island = .idle
    · rw [if_pos ⟨hidle, rfl⟩, Dev.rouse, beq_iff_eq.mpr hidle, Dev.iff_true, Dev.block_modBlock, Block.roused]
    · rw [if_neg (c := _ ∧ _) fun h => hidle h.1, Dev.rouse, beq_eq_false_iff_ne.mpr hidle, Dev.iff_false]
  · rw [if_neg (c := _ ∧ _) fun h => hb h.2]
    exact iff_keeps (fun s => s.block c) (fun t => Dev.block_modBlock_other t _ _ _ (Ne.symm hb)) _ s

theorem Dev.now_rouse (s : Dev) (b : Nat) : (s.rouse b).now = s.now := iff_keeps Dev.now (fun _ => by rfl) _ s
theorem Dev.time_rouse (s : Dev) (b : Nat) : (s.rouse b).time = s.time := iff_keeps Dev.time (fun _ => by rfl) _ s

/-- The blocks of a list of Stalls: each that is idle has its clock started. -/
theorem Dev.block_rouseAll (l : List Nat) (s : Dev) (c : Nat) : (each l (fun n s => s.rouse (n / 4)) s).block c =
    if (s.block c).island = .idle ∧ ∃ n ∈ l, n / 4 = c then (s.block c).roused (s.now + (8 - s.time % 8) % 8) else s.block c := by
  induction l generalizing s with
  | nil => simp [each]
  | cons n l ih =>
    have hstep : each (n :: l) (fun n s => s.rouse (n / 4)) s = each l (fun n s => s.rouse (n / 4)) (s.rouse (n / 4)) := rfl
    rw [hstep, ih, Dev.block_rouse, Dev.now_rouse, Dev.time_rouse]
    by_cases hn : n / 4 = c
    · by_cases hidle : (s.block c).island = .idle
      · simp [hn, hidle, Block.roused]
      · simp [hidle]
    · simp [hn]

/-- Settles O11. -/
theorem blockIslandsMoveThroughTheirStates : Obligations.BlockIslandsMoveThroughTheirStates := by
  refine ⟨fun b u s hb hat hup hbanks hasked hturn => ?run, fun b u s hb hrun hquiet hspan hstill => ?idle,
    fun k s hk hkind hactive hnear => ?members, fun b k s hb hlot hidle hback hrest => ?retention⟩
  case run =>
    have hblocks := blockReachesRun_blocks hat hup hbanks hasked hturn
    refine ⟨_, exec_of_actOn (f := blockReachesRun b) rfl (decide_eq_true hb) rfl, ?_, fun c hc => ?_⟩
    · show (blockReachesRun b s.dev).blocks.get b = _
      rw [hblocks, Tab.get_mod_same]
      rfl
    · show (blockReachesRun b s.dev).blocks.get c = _
      rw [hblocks, Tab.get_mod_other _ _ _ _ hc]
      rfl
  case idle =>
    exact exec_of_actOn (f := blockIdleEntry b) rfl (decide_eq_true hb) (blockIdleEntry_of_quiet hrun hquiet hspan hstill)
  case members =>
    have hstart : memberClockStart k s.dev = each (s.dev.lot k).members (fun n s => s.rouse (n / 4)) s.dev :=
      if_pos ⟨hkind, hactive, hnear⟩
    exact ⟨_, exec_of_actOn (f := memberClockStart k) rfl (decide_eq_true hk) hstart, fun b => Dev.block_rouseAll _ _ b⟩
  case retention =>
    exact exec_of_actOn (f := blockRetentionEntry b) rfl (decide_eq_true hb) (blockRetentionEntry_of_rest hlot hidle hback hrest)

/-! ### The governor (R412, R414) -/

theorem Dev.warden_admitWake (s : Dev) (r : WakeReq) : (s.admitWake r).warden = s.warden := by
  unfold Dev.admitWake
  extract_lets up s1
  split
  · rfl
  · split
    · have h1 : s1.warden = s.warden := each_keeps Dev.warden (fun _ _ => by rfl) _ s
      clear_value s1
      exact h1
    · rfl

/-- What a tick of a die's governor admits, and the bucket and queue that it leaves (R414). -/
def Dev.admissions (s : Dev) (die : Nat) : List WakeReq × Nat × List WakeReq :=
  let a := 10 * s.slew die
  let g := s.gov die
  let hintAt := if !g.queue.isEmpty && !g.hint then s.now else g.hintAt
  if !g.queue.isEmpty && decide (hintAt + s.entry 0x2002 1 * usec ≤ s.now) then admitAll g.queue.length (min a (g.bucket + a)) g.queue
  else ([], g.bucket, g.queue)

/-- A tick of a die's governor: its queue and bucket are those of `Dev.admissions`, an empty queue empties the bucket, and what is
admitted starts; the rest of the Warden stands. -/
theorem Dev.govTick_eq (s : Dev) (die : Nat) : ∃ g : Gov, s.govTick die = each (s.admissions die).1 (fun r s => s.admitWake r) (s.modGov die fun _ => g)
    ∧ g.queue = (s.admissions die).2.2 ∧ (g.queue ≠ [] → g.bucket = (s.admissions die).2.1) ∧ (g.queue = [] → g.bucket = 0) := by
  generalize htick : s.govTick die = t
  unfold Dev.govTick at htick
  extract_lets -underBinder a g g1 lead lets at htick
  have hadm : (if lets then admitAll g1.queue.length (min a (g1.bucket + a)) g1.queue else ([], g1.bucket, g1.queue)) = s.admissions die := by
    unfold lets Dev.admissions
    have hg1 : g1.queue = g.queue ∧ g1.bucket = g.bucket ∧ g1.hintAt = if !g.queue.isEmpty && !g.hint then s.now else g.hintAt := by
      unfold g1
      split <;> exact ⟨rfl, rfl, rfl⟩
    obtain ⟨hq, hb, hh⟩ := hg1
    rw [hq, hb, hh]
  split at htick
  next adm bucket queue heq =>
  rw [hadm] at heq
  rw [heq]
  extract_lets g2 g3 at htick
  refine ⟨g3, htick.symm, ?_⟩
  have hq : g3.queue = queue := by
    unfold g3
    split <;> rfl
  refine ⟨hq, fun h => ?_, fun h => ?_⟩
  · unfold g3
    rw [if_neg fun he => h (by rw [hq]; exact List.isEmpty_iff.mp he)]
  · unfold g3
    rw [if_pos (show g2.queue.isEmpty = true from List.isEmpty_iff.mpr (hq.symm.trans h))]

theorem Dev.gov_modGov (s : Dev) (die : Nat) (f : Gov → Gov) : (s.modGov die f).gov die = f (s.gov die) := by
  unfold Dev.gov
  by_cases h : die = 0
  · rw [if_pos h, if_pos h, show (s.modGov die f).warden = _ from if_pos h]
  · rw [if_neg h, if_neg h, show (s.modGov die f).warden = _ from if_neg h]

theorem Dev.gov_modGov_other (s : Dev) {die d : Nat} (hdie : die < 2) (hd : d < 2) (hne : d ≠ die) (f : Gov → Gov) :
    (s.modGov die f).gov d = s.gov d := by
  unfold Dev.gov
  by_cases h : die = 0
  · rw [if_neg (by omega), if_neg (by omega), show (s.modGov die f).warden = _ from if_pos h]
  · rw [if_pos (by omega), if_pos (by omega), show (s.modGov die f).warden = _ from if_neg h]

/-- What a governor's tick works by: the Warden, the Ledger and the clock. -/
def Dev.watch (s : Dev) : Warden × Ledger × Nat := (s.warden, s.ledger, s.now)

theorem Dev.watch_admitWake (s : Dev) (r : WakeReq) : (s.admitWake r).watch = s.watch := by
  unfold Dev.admitWake
  extract_lets up s1
  split
  · rfl
  · split
    · have h1 : s1.watch = s.watch := each_keeps Dev.watch (fun _ _ => by rfl) _ s
      clear_value s1
      exact h1
    · rfl

theorem Dev.admissions_congr {s t : Dev} {die : Nat} (hgov : t.gov die = s.gov die) (hledger : t.ledger = s.ledger)
    (hnow : t.now = s.now) : t.admissions die = s.admissions die := by
  unfold Dev.admissions Dev.slew Dev.entry Dev.entryRaw
  rw [hgov, hledger, hnow]

/-- A tick of a die's governor leaves the other die's, the Ledger and the clock. -/
theorem Dev.govTick_spec (s : Dev) {die : Nat} (hdie : die < 2) :
    (((s.govTick die).gov die).queue = (s.admissions die).2.2
      ∧ (((s.govTick die).gov die).queue ≠ [] → ((s.govTick die).gov die).bucket = (s.admissions die).2.1)
      ∧ (((s.govTick die).gov die).queue = [] → ((s.govTick die).gov die).bucket = 0))
    ∧ (∀ d < 2, d ≠ die → (s.govTick die).gov d = s.gov d) ∧ (s.govTick die).ledger = s.ledger ∧ (s.govTick die).now = s.now := by
  obtain ⟨g, htick, hq, hne, hnil⟩ := s.govTick_eq die
  have hwatch : (s.govTick die).watch = (s.modGov die fun _ => g).watch := by
    rw [htick]
    exact each_keeps Dev.watch (fun r t => t.watch_admitWake r) _ _
  simp only [Dev.watch, Prod.mk.injEq] at hwatch
  obtain ⟨hwarden, hledger, hnow⟩ := hwatch
  have hgov : ∀ d, (s.govTick die).gov d = (s.modGov die fun _ => g).gov d := fun d => by rw [Dev.gov, hwarden, ← Dev.gov]
  refine ⟨?_, fun d hd hne => ?_, hledger, hnow⟩
  · rw [hgov, Dev.gov_modGov]
    exact ⟨hq, hne, hnil⟩
  · rw [hgov, s.gov_modGov_other hdie hd hne]

/-- Both governors' ticks: each leaves the queue and the bucket of its admissions. -/
theorem Dev.govTicks_spec (s : Dev) {die : Nat} (hdie : die < 2) : let t := (s.govTick 0).govTick 1
    (t.gov die).queue = (s.admissions die).2.2 ∧ ((t.gov die).queue ≠ [] → (t.gov die).bucket = (s.admissions die).2.1)
      ∧ ((t.gov die).queue = [] → (t.gov die).bucket = 0) := by
  intro t
  obtain ⟨hspec0, hother0, hledger, hnow⟩ := s.govTick_spec (die := 0) (by decide)
  obtain ⟨hspec1, hother1, -, -⟩ := (s.govTick 0).govTick_spec (die := 1) (by decide)
  obtain rfl | rfl : die = 0 ∨ die = 1 := by omega
  · rw [show t.gov 0 = (s.govTick 0).gov 0 from hother1 0 (by decide) (by decide)]
    exact hspec0
  · rwa [Dev.admissions_congr (hother0 1 (by decide) (by decide)) hledger hnow] at hspec1

/-- The admissions of a queue whose hint has led long enough. -/
theorem Dev.admissions_of_led {s : Dev} {die : Nat} (hhint : (s.gov die).hint = true) (hq : (s.gov die).queue ≠ [])
    (hlead : (s.gov die).hintAt + s.entry 0x2002 1 * usec ≤ s.now) : s.admissions die =
      admitAll (s.gov die).queue.length (min (10 * s.slew die) ((s.gov die).bucket + 10 * s.slew die)) (s.gov die).queue := by
  have hbusy : (s.gov die).queue.isEmpty = false := by
    cases h : (s.gov die).queue with
    | nil => exact absurd h hq
    | cons r l => rfl
  have hhintAt : (if !(s.gov die).queue.isEmpty && !(s.gov die).hint then s.now else (s.gov die).hintAt) = (s.gov die).hintAt := by
    rw [hbusy, hhint]
    rfl
  unfold Dev.admissions
  dsimp only
  rw [hhintAt, hbusy, if_pos (by simpa using hlead)]

theorem Dev.admissions_of_empty {s : Dev} {die : Nat} (hq : (s.gov die).queue = []) : (s.admissions die).1 = [] := by
  unfold Dev.admissions
  dsimp only
  rw [hq]
  rfl

theorem nextWake_singleton {r : WakeReq} (h : r.cls < 4) : nextWake [r] = some r := by
  unfold nextWake
  obtain h | h | h | h : r.cls = 0 ∨ r.cls = 1 ∨ r.cls = 2 ∨ r.cls = 3 := by omega
  all_goals simp [List.range_succ, h]

/-- A request alone in its queue, for which the bucket pays, is admitted. -/
theorem admitAll_singleton {r : WakeReq} {b : Nat} (hcls : r.cls < 4) (hcost : r.cost ≤ b) : admitAll 1 b [r] = ([r], b - r.cost, []) := by
  simp [admitAll, nextWake_singleton hcls, Nat.not_lt.mpr hcost, dropFirst]

theorem governorTick_of_due {s : Dev} (hlit : s.lit = true) (hdue : s.warden.govAt ≠ s.now / aonTick + 1) :
    governorTick s = ((s.govTick 0).govTick 1).modWarden fun w => { w with govAt := s.now / aonTick + 1 } := by
  refine if_neg ?_
  rintro (h | h)
  · rw [hlit] at h; cases h
  · exact hdue h

/-- Settles O12. -/
theorem theGovernorAdmitsWhatTheBucketPays : Obligations.TheGovernorAdmitsWhatTheBucketPays := by
  refine ⟨fun s hlit hdue => ?buckets, fun r s hlit hdue hq0 hq1 hcls hbank hspare hhint hlead hcost => ?island⟩
  case buckets =>
    refine ⟨_, exec_of_act (f := governorTick) rfl (governorTick_of_due hlit hdue), rfl, ?_⟩
    intro die hdie g a hhint hq hlead
    have hadm := Dev.admissions_of_led hhint hq hlead
    have hspec := s.dev.govTicks_spec hdie
    rw [hadm] at hspec
    exact hspec
  case island =>
    have hadm : s.dev.admissions 0 = ([r], 10 * s.dev.slew 0 - r.cost, []) := by
      have hq : (s.dev.gov 0).queue = [r] := hq0
      rw [Dev.admissions_of_led (s := s.dev) (die := 0) hhint (by rw [hq]; exact List.cons_ne_nil r []) hlead, hq, Nat.min_eq_left (Nat.le_add_left ..)]
      exact admitAll_singleton hcls hcost
    have hqueue : (((s.dev.govTick 0).govTick 1).gov 0).queue = [] := by
      obtain ⟨hqueue, -, -⟩ := s.dev.govTicks_spec (die := 0) (by decide)
      rw [hqueue, hadm]
    have hblocks : ((s.dev.govTick 0).govTick 1).blocks =
        s.dev.blocks.mod r.b fun x => { x with islandAt := some (s.dev.now + powerUp x.island) } := by
      obtain ⟨-, hother, -, -⟩ := s.dev.govTick_spec (die := 0) (by decide)
      have hq : ((s.dev.govTick 0).gov 1).queue = [] := by rw [hother 1 (by decide) (by decide)]; exact hq1
      obtain ⟨g1, htick1, -⟩ := (s.dev.govTick 0).govTick_eq 1
      obtain ⟨g0, htick0, -⟩ := s.dev.govTick_eq 0
      rw [htick1, Dev.admissions_of_empty hq]
      show (s.dev.govTick 0).blocks = _
      rw [htick0, hadm]
      show ((s.dev.modGov 0 fun _ => g0).admitWake r).blocks = _
      rw [Dev.admitWake, hspare, hbank]
      rfl
    refine ⟨_, exec_of_act (f := governorTick) rfl (governorTick_of_due hlit hdue), ?_, hqueue⟩
    refine (congrArg (fun t : Tab Block => (t.get r.b).islandAt) hblocks).trans ?_
    rw [Tab.get_mod_same]
    rfl

end Sys2Proof.Machine

/-! ## Sensors and supplies in service (R253, R417 to R421, R479) -/
namespace Sys2Proof.Machine
open Sys2Proof

/-! ### One entry of a list of changes -/

/-- Of a list of changes of which one alone touches a view, the view sees that one. -/
theorem each_at {α β : Type} (view : Dev → β) {f : α → Dev → Dev} {a : α} {l : List α} (hnodup : l.Nodup) (ha : a ∈ l)
    (hkeep : ∀ x ∈ l, x ≠ a → ∀ s, view (f x s) = view s) (s : Dev) :
    ∃ t, view t = view s ∧ view (each l f s) = view (f a t) := by
  induction l generalizing s with
  | nil => cases ha
  | cons x l ih =>
    obtain ⟨hx, hl⟩ := List.nodup_cons.mp hnodup
    by_cases hxa : x = a
    · subst hxa
      refine ⟨s, rfl, ?_⟩
      have hrest : ∀ m : List α, (∀ y ∈ m, y ∈ l) → ∀ u, view (each m f u) = view u := by
        intro m
        induction m with
        | nil => exact fun _ _ => rfl
        | cons y m ihm =>
          intro hm u
          have hy := hm y List.mem_cons_self
          exact (ihm (fun z hz => hm z (List.mem_cons_of_mem _ hz)) (f y u)).trans
            (hkeep y (List.mem_cons_of_mem _ hy) (fun h => hx (h ▸ hy)) u)
      exact hrest l (fun _ h => h) (f x s)
    · obtain ⟨t, ht, heach⟩ := ih hl ((List.mem_cons.mp ha).resolve_left (Ne.symm hxa))
        (fun y hy => hkeep y (List.mem_cons_of_mem _ hy)) (f x s)
      exact ⟨t, ht.trans (hkeep x List.mem_cons_self hxa s), heach⟩

/-! ### Sensors (R419) -/

/-- The readings of a group, put from number k on. -/
def putReadings (c k : Nat) (l : List Nat) (t : Tab Nat) : Tab Nat :=
  (l.zipIdx k).foldl (fun (t : Tab Nat) (p : Nat × Nat) => t.set (sensorKey c p.2) p.1) t

theorem putReadings_cons (c k r : Nat) (l : List Nat) (t : Tab Nat) :
    putReadings c k (r :: l) t = putReadings c (k + 1) l (t.set (sensorKey c k) r) := rfl

/-- A key that is none of the readings' keeps its value. -/
theorem get_putReadings_other {c key : Nat} (l : List Nat) {k : Nat} (t : Tab Nat) (h : ∀ j, k ≤ j → j < k + l.length → key ≠ sensorKey c j) :
    (putReadings c k l t).get key = t.get key := by
  induction l generalizing k t with
  | nil => rfl
  | cons r l ih =>
    rw [List.length_cons] at h
    rw [putReadings_cons, ih _ fun j hj hj' => h j (by omega) (by omega), Tab.get_set_other _ _ _ _ (h k le_rfl (by omega))]

theorem get_putReadings (c : Nat) (l : List Nat) (k : Nat) (t : Tab Nat) (i : Nat) (h : i < l.length) :
    (putReadings c k l t).get (sensorKey c (k + i)) = l[i] := by
  induction l generalizing k t i with
  | nil => cases h
  | cons r l ih =>
    rw [putReadings_cons]
    cases i with
    | zero =>
      rw [get_putReadings_other]
      · exact Tab.get_set_same _ _ _
      · intro j hj hj'
        unfold sensorKey
        omega
    | succ i =>
      have := ih (k + 1) (t.set (sensorKey c k) r) i (by simpa using h)
      rw [show k + (i + 1) = k + 1 + i by omega, this]
      rfl

theorem groupSize_lt (g : SensorGroup) : groupSize g < 1024 := by cases g <;> decide

theorem sensorSample_of_due {g : SensorGroup} {l : List Nat} {s : Dev} (hon : s.diesOn = true)
    (hdue : s.warden.sampled.get (groupCode g) = 0 ∨ s.warden.sampled.get (groupCode g) + groupPeriod g ≤ s.now) :
    sensorSample g l s = s.modWarden fun w =>
      { w with sensors := putReadings (groupCode g) 0 l w.sensors, sampled := w.sampled.set (groupCode g) s.now } := by
  refine if_neg ?_
  rintro (h | ⟨h, h'⟩)
  · rw [hon] at h; cases h
  · omega

/-! ### What throttling works by (R420, R421) -/

/-- What the throttling of a Lot works by: the Warden, the Ledger, the grid and the clock. -/
def Dev.gauge (s : Dev) : Warden × Ledger × Grid × Nat := (s.warden, s.ledger, s.grid, s.now)

theorem Dev.gauge_event (s : Dev) (code : Nat) (fs : List (Nat × Nat × Nat)) : (s.event code fs).gauge = s.gauge := by
  obtain ⟨_, _, h⟩ := s.event_frame code fs
  rw [h]
  rfl

theorem Dev.lots_event (s : Dev) (code : Nat) (fs : List (Nat × Nat × Nat)) : (s.event code fs).lots = s.lots := by
  obtain ⟨_, _, h⟩ := s.event_frame code fs
  rw [h]

/-- Setting a Lot's STRETCH changes that Lot and raises events. -/
theorem Dev.putStretch_frame (s : Dev) (k new cause hottest : Nat) : (s.putStretch k new cause hottest).gauge = s.gauge
    ∧ (s.putStretch k new cause hottest).lots = s.lots.mod k fun x => x.setStretch new := by
  unfold Dev.putStretch
  extract_lets old s1 s2
  have h1 : s1.gauge = s.gauge ∧ s1.lots = s.lots.mod k fun x => x.setStretch new := ⟨rfl, rfl⟩
  clear_value s1
  have h2 : s2.gauge = s1.gauge ∧ s2.lots = s1.lots :=
    ⟨iff_keeps Dev.gauge (fun t => t.gauge_event _ _) _ s1, iff_keeps Dev.lots (fun t => t.lots_event _ _) _ s1⟩
  clear_value s2
  obtain ⟨h1g, h1l⟩ := h1
  obtain ⟨h2g, h2l⟩ := h2
  exact ⟨(iff_keeps Dev.gauge (fun t => t.gauge_event _ _) _ s2).trans (h2g.trans h1g),
    (iff_keeps Dev.lots (fun t => t.lots_event _ _) _ s2).trans (h2l.trans h1l)⟩

/-! ### Rails in service (R417, R418) -/

theorem Dev.gauge_limitLot (s : Dev) (k : Nat) : (s.limitLot k).gauge = s.gauge := by
  unfold Dev.limitLot
  extract_lets l
  exact iff_keeps Dev.gauge (fun t => (t.putStretch_frame k _ 2 _).1) _ s

/-- What a poll keeps of a rail (R417). -/
def Rail.polled (r : Rail) (ma temp now : Nat) : Rail :=
  { (if dueSince r.tempAt (10 * msec) now then { r with temp := temp, tempAt := some now } else r) with curMa := ma, curAt := some now }

/-- The Warden after a poll of a rail, before the status. -/
def Dev.polledWarden (s : Dev) (i ma temp : Nat) : Warden :=
  { s.warden with
    rails := s.warden.rails.set i ((s.warden.rails.get i).polled ma temp s.now)
    powers := (s.warden.powers.filter fun x => decide (s.now < x.1 + msec)) ++
      [(s.now, (s.modWarden fun w => { w with rails := w.rails.set i ((s.warden.rails.get i).polled ma temp s.now) }).packageMw)] }

/-- A poll keeps what was read, adds a power sample, and then goes by the status. -/
theorem avsPoll_of_due {s : Dev} (i ma temp : Nat) (st : AvsStatus) (hlit : s.lit = true)
    (hdue : dueSince (s.warden.rails.get i).curAt (100 * usec) s.now = true) :
    ∃ t : Dev, avsPoll i ma temp st s = t.avsStatus i st ∧ t.warden = s.polledWarden i ma temp ∧ t.now = s.now := by
  unfold avsPoll
  extract_lets r r' s1 p s2
  have hgo : ¬((!s.lit) = true ∨ (!dueSince r.curAt (100 * usec) s.now) = true) := by
    rw [hlit, show dueSince r.curAt (100 * usec) s.now = true from hdue]
    decide
  rw [if_neg hgo]
  refine ⟨_, rfl, ?_⟩
  have h2 : s2.warden = s.polledWarden i ma temp ∧ s2.now = s.now := ⟨rfl, rfl⟩
  clear_value s2
  have hkeep : (s2.iff s2.overLimit fun s => each (List.range 64) (fun k s => s.limitLot k) s).gauge = s2.gauge :=
    iff_keeps Dev.gauge (fun t => each_keeps Dev.gauge (fun k u => u.gauge_limitLot k) _ t) _ s2
  simp only [Dev.gauge, Prod.mk.injEq] at hkeep
  obtain ⟨hwarden, -, -, hnow⟩ := hkeep
  exact ⟨hwarden.trans h2.1, hnow.trans h2.2⟩

/-- The package power reads the setpoints and currents of the rails alone, and the clock. -/
theorem Dev.packageMw_congr {s t : Dev} (hrails : ∀ j < 6, (t.warden.rails.get j).setMv = (s.warden.rails.get j).setMv
    ∧ (t.warden.rails.get j).curMa = (s.warden.rails.get j).curMa) (hnow : t.now = s.now) : t.packageMw = s.packageMw := by
  unfold Dev.packageMw Dev.memoryMw
  rw [hnow]
  congr 2
  refine List.map_congr_left fun j hj => ?_
  obtain ⟨hmv, hma⟩ := hrails j (List.mem_range.mp hj)
  unfold Dev.railMw
  dsimp only
  rw [hmv, hma]

theorem voltageTrim_of_due {s : Dev} {i v : Nat} {up : Bool} (st : AvsStatus) (hlit : s.lit = true)
    (hdue : dueSince (s.warden.rails.get i).trimAt msec s.now = true)
    (hv : v = if up then (s.warden.rails.get i).setMv + 5 else (s.warden.rails.get i).setMv - 5)
    (hlow : (s.warden.rails.get i).baseMv ≤ v + 25) (hhigh : v ≤ (s.warden.rails.get i).baseMv + 25)
    (hmin : (railRange i).2.1 ≤ v) (hmax : v ≤ (railRange i).2.2) : voltageTrim i up st s =
      Dev.avsStatus ((s.modWarden fun w => { w with
        rails := w.rails.set i { s.warden.rails.get i with setMv := v, trimAt := some s.now } }).emit (.avs i v)) i st := by
  subst hv
  unfold voltageTrim
  extract_lets r v
  split
  next lo hi heq =>
  rw [heq] at hmin hmax
  refine if_neg ?_
  rintro (h | h | h | h | h | h)
  · rw [hlit] at h; cases h
  · rw [show dueSince r.trimAt msec s.now = true from hdue] at h; cases h
  · exact absurd h (Nat.not_lt.mpr hlow)
  · exact absurd h (Nat.not_lt.mpr hhigh)
  · exact absurd h (Nat.not_lt.mpr hmin)
  · exact absurd h (Nat.not_lt.mpr hmax)

/-! ### STRETCH (R420, R421) -/

/-- The STRETCH or issue gap that R420 gives a Lot. -/
def Dev.stretchNew (s : Dev) (l : Lot) : Nat :=
  if s.overLimit then l.stretchMax
  else if (16 * s.entry 0x2003 1 ≤ s.lotHot l ∨ 16 * s.entry 0x2003 2 ≤ s.lotHbm l) ∨ 1000 * s.pcapEff < s.meanMw msec then
    min l.stretchMax (l.stretchNext + l.stretchStep)
  else if (s.lotHot l + 32 < 16 * s.entry 0x2003 1 ∧ s.lotHbm l + 32 < 16 * s.entry 0x2003 2) ∧ s.meanMw msec + 50000 ≤ 1000 * s.pcapEff then
    l.stretchNext - l.stretchStep
  else l.stretchNext

theorem Dev.stretchNew_congr {s t : Dev} (hsensors : t.warden.sensors = s.warden.sensors) (hrails : t.warden.rails = s.warden.rails)
    (hcap : t.warden.capPlant = s.warden.capPlant) (hpowers : t.warden.powers = s.warden.powers) (hledger : t.ledger = s.ledger)
    (hgrid : t.grid = s.grid) (hnow : t.now = s.now) (l : Lot) : t.stretchNew l = s.stretchNew l := by
  unfold Dev.stretchNew Dev.overLimit Dev.lotHot Dev.lotHbm Dev.meanMw Dev.pcapEff Dev.railWarned Dev.reading Dev.entry Dev.entryRaw
  rw [hsensors, hrails, hcap, hpowers, hledger, hgrid, hnow]

theorem Dev.stretchNew_of_over {s : Dev} (l : Lot) (h : 2000000 < s.meanMw (100 * usec)) : s.stretchNew l = l.stretchMax := by
  have hover : s.overLimit = true := decide_eq_true h
  rw [Dev.stretchNew, if_pos hover]

theorem Dev.stretchNew_of_hot {s : Dev} {l : Lot} (h : ¬2000000 < s.meanMw (100 * usec))
    (hhot : 16 * s.entry 0x2003 1 ≤ s.lotHot l ∨ 16 * s.entry 0x2003 2 ≤ s.lotHbm l ∨ 1000 * s.pcapEff < s.meanMw msec) :
    s.stretchNew l = min l.stretchMax (l.stretchNext + l.stretchStep) := by
  have hover : ¬s.overLimit = true := fun ho => h (of_decide_eq_true ho)
  rw [Dev.stretchNew, if_neg hover, if_pos (or_assoc.mpr hhot)]

theorem Lot.stretchNext_setStretch (l : Lot) (v : Nat) : (l.setStretch v).stretchNext = v := by
  unfold Lot.setStretch
  split <;> rfl

/-- Of a state, t has the gauge and the Lots but Lot k, whose STRETCH is v. -/
def Dev.stretchedTo (s : Dev) (k v : Nat) (t : Dev) : Prop :=
  t.gauge = s.gauge ∧ (∀ j, j ≠ k → t.lot j = s.lot j) ∧ (t.lot k).stretchNext = v

section Stretched
variable {s t : Dev} {k v : Nat}

theorem Dev.stretchedTo_modLot (h : s.stretchedTo k v t) {f : Lot → Lot} (hf : ∀ x, (f x).stretchNext = x.stretchNext) :
    s.stretchedTo k v (t.modLot k f) := by
  obtain ⟨hgauge, hother, hk⟩ := h
  refine ⟨hgauge, fun j hj => (t.lot_modLot_other k j f hj).trans (hother j hj), ?_⟩
  rw [Dev.lot_modLot, hf]
  exact hk

theorem Dev.stretchedTo_event (h : s.stretchedTo k v t) (code : Nat) (fs : List (Nat × Nat × Nat)) : s.stretchedTo k v (t.event code fs) := by
  obtain ⟨hgauge, hother, hk⟩ := h
  have hlot : ∀ j, (t.event code fs).lot j = t.lot j := fun j => congrArg (fun l : Tab Lot => l.get j) (t.lots_event code fs)
  exact ⟨(t.gauge_event code fs).trans hgauge, fun j hj => (hlot j).trans (hother j hj), by rw [hlot]; exact hk⟩

end Stretched

theorem Dev.stretchedTo_putStretch (s : Dev) (k v cause hottest : Nat) : s.stretchedTo k v (s.putStretch k v cause hottest) := by
  obtain ⟨hgauge, hlots⟩ := s.putStretch_frame k v cause hottest
  refine ⟨hgauge, fun j hj => ?_, ?_⟩
  · show (Dev.lots _).get j = _
    rw [hlots]
    exact Tab.get_mod_other _ _ _ _ hj
  · show ((Dev.lots _).get k).stretchNext = _
    rw [hlots, Tab.get_mod_same]
    exact Lot.stretchNext_setStretch _ v

theorem Dev.stretchLot_of_none {s : Dev} {k : Nat} (h : (s.lot k).stretches = false) : s.stretchLot k = s :=
  if_pos (by rw [h]; rfl)

/-- The rule of R420 touches its Lot alone, and sets the STRETCH of a Lot that has one. -/
theorem Dev.stretchLot_spec {s : Dev} {k : Nat} (h : (s.lot k).stretches = true) :
    s.stretchedTo k (s.stretchNew (s.lot k)) (s.stretchLot k) := by
  unfold Dev.stretchLot
  extract_lets l hotR hbmR tthr hthr cap p hot over_ cool old new s1 t s2
  have hnew : new = s.stretchNew (s.lot k) := rfl
  rw [if_neg (by rw [show l.stretches = true from h]; decide), ← hnew]
  have h1 : s.stretchedTo k new s1 := s.stretchedTo_putStretch k new _ _
  clear_value s1 new
  have h2 : s.stretchedTo k new s2 := Dev.stretchedTo_modLot h1 fun _ => rfl
  clear_value s2
  split
  · exact Dev.stretchedTo_modLot h1 fun _ => rfl
  · split
    · refine Dev.stretchedTo_event (Dev.stretchedTo_modLot h2 ?_) 0x22 _
      exact fun _ => rfl
    · exact h2

theorem stretchUpdate_of_due {s : Dev} (hlit : s.lit = true) (hdue : s.warden.stretchAt + 100 * usec ≤ s.now) :
    stretchUpdate s = each (List.range 64) (fun k s => s.stretchLot k) (s.modWarden fun w => { w with stretchAt := s.now }) := by
  refine if_neg ?_
  rintro (h | h)
  · rw [hlit] at h; cases h
  · exact absurd hdue (Nat.not_le.mpr h)

theorem Dev.gauge_stretchLot (s : Dev) (k : Nat) : (s.stretchLot k).gauge = s.gauge := by
  cases h : (s.lot k).stretches with
  | false => rw [Dev.stretchLot_of_none h]
  | true => exact (Dev.stretchLot_spec h).1

theorem Dev.lot_stretchLot_other (s : Dev) {k j : Nat} (hj : j ≠ k) : (s.stretchLot k).lot j = s.lot j := by
  cases h : (s.lot k).stretches with
  | false => rw [Dev.stretchLot_of_none h]
  | true => exact (Dev.stretchLot_spec h).2.1 j hj

/-- The rule over all Lots: a Lot without STRETCH stands, of one with it STRETCH is what the rule gives. -/
theorem Dev.stretchLots_spec (s : Dev) {k : Nat} (hk : k < 64) : let t := each (List.range 64) (fun k s => s.stretchLot k) s
    ((s.lot k).stretches = false → t.lot k = s.lot k) ∧
    ((s.lot k).stretches = true → (t.lot k).stretchNext = s.stretchNew (s.lot k)) := by
  intro t
  obtain ⟨u, hu, ht⟩ := each_at (fun s => (s.gauge, s.lot k)) (f := fun k s => s.stretchLot k) (a := k) (l := List.range 64) List.nodup_range
    (List.mem_range.mpr hk) (fun j _ hj s => Prod.ext (s.gauge_stretchLot j) (s.lot_stretchLot_other (Ne.symm hj))) s
  obtain ⟨hgauge, hlot⟩ := Prod.mk.inj hu
  simp only [Dev.gauge, Prod.mk.injEq] at hgauge
  obtain ⟨hwarden, hledger, hgrid, hnow⟩ := hgauge
  have hlot' : t.lot k = (u.stretchLot k).lot k := (Prod.mk.inj ht).2
  rw [hlot', ← hlot]
  refine ⟨fun h => by rw [Dev.stretchLot_of_none h], fun h => ?_⟩
  rw [(Dev.stretchLot_spec h).2.2]
  exact Dev.stretchNew_congr (by rw [hwarden]) (by rw [hwarden]) (by rw [hwarden]) (by rw [hwarden]) hledger hgrid hnow _

theorem Lot.stretches_eq_true (l : Lot) : l.stretches = true ↔ l.state = 2 ∧ l.front.kind ≠ 0 := by
  simp [Lot.stretches]

/-- The update of R420: its cycle is kept, a Lot without STRETCH stands, and one with it takes what the rule gives. -/
theorem stretchUpdate_spec {s : Dev} (hlit : s.lit = true) (hdue : s.warden.stretchAt + 100 * usec ≤ s.now) :
    (stretchUpdate s).warden.stretchAt = s.now ∧ ∀ k < 64,
      ((s.lot k).stretches = false → (stretchUpdate s).lot k = s.lot k)
      ∧ ((s.lot k).stretches = true → ((stretchUpdate s).lot k).stretchNext = s.stretchNew (s.lot k)) := by
  rw [stretchUpdate_of_due hlit hdue]
  generalize hs1 : (s.modWarden fun w => { w with stretchAt := s.now }) = s1
  have hnew : ∀ l, s1.stretchNew l = s.stretchNew l := by
    intro l
    subst hs1
    exact Dev.stretchNew_congr rfl rfl rfl rfl rfl rfl rfl l
  have hlot : ∀ k, s1.lot k = s.lot k := fun k => by subst hs1; rfl
  refine ⟨?_, fun k hk => ?_⟩
  · have hgauge := each_keeps Dev.gauge (fun k t => Dev.gauge_stretchLot t k) (List.range 64) s1
    simp only [Dev.gauge, Prod.mk.injEq] at hgauge
    rw [hgauge.1, ← hs1]
    rfl
  · obtain ⟨hnone, hsome⟩ := s1.stretchLots_spec hk
    rw [hlot k] at hnone hsome
    rw [hnew] at hsome
    exact ⟨hnone, hsome⟩

/-! ### Laser inputs (R253, R479) -/

theorem mem_insertUp {n m : Nat} {l : List Nat} : m ∈ insertUp n l ↔ m = n ∨ m ∈ l := by
  induction l with
  | nil => simp [insertUp]
  | cons x l ih =>
    unfold insertUp
    split
    · simp
    · split
      · next h => subst h; simp
      · simp only [List.mem_cons, ih]
        tauto

/-- What a laser input bears on: whether it is low, and its ports' light. -/
def Dev.light (i : Nat) (s : Dev) : Bool × List Bool := (s.warden.laserLow.contains i, (laserPorts i).map fun p => (s.port p).dark)

theorem laserPorts_disjoint {i j p : Nat} (hi : i < 4) (hj : j < 4) (hij : i ≠ j) (hp : p ∈ laserPorts i) : p ∉ laserPorts j := by
  have h : ∀ a b : Fin 4, a ≠ b → ∀ p ∈ laserPorts a, p ∉ laserPorts b := by decide
  exact h ⟨i, hi⟩ ⟨j, hj⟩ (fun h => hij (Fin.mk.inj h)) p hp

/-- A port of a laser input that has gone low. -/
def Dev.darken (p : Nat) (s : Dev) : Dev := (s.maskPort p .down).modPort p fun x => { x with dark := true }
/-- A port of a laser input that has light again. -/
def Dev.lighten (p : Nat) (s : Dev) : Dev := s.modPort p fun x => { x with dark := false }

theorem Dev.dark_darken (s : Dev) (p q : Nat) : ((s.darken q).port p).dark = if p = q then true else (s.port p).dark := by
  unfold Dev.darken Dev.maskPort Dev.bumpPort
  by_cases h : p = q
  · rw [if_pos h, h, Dev.port_modPort]
  · rw [if_neg h, Dev.port_modPort_other _ _ _ _ h]
    show (Dev.port (Dev.modPort _ _ _) p).dark = _
    rw [Dev.port_modPort_other _ _ _ _ h]

theorem Dev.dark_lighten (s : Dev) (p q : Nat) : ((s.lighten q).port p).dark = if p = q then false else (s.port p).dark := by
  unfold Dev.lighten
  by_cases h : p = q
  · rw [if_pos h, h, Dev.port_modPort]
  · rw [if_neg h, Dev.port_modPort_other _ _ _ _ h]

/-- A list of changes of light: a port named is as the change makes it, another stands. -/
theorem dark_each {f : Nat → Dev → Dev} {b : Bool} (hf : ∀ q s p, ((f q s).port p).dark = if p = q then b else (s.port p).dark)
    (l : List Nat) (s : Dev) (p : Nat) : ((each l f s).port p).dark = if p ∈ l then b else (s.port p).dark := by
  induction l generalizing s with
  | nil => rw [if_neg List.not_mem_nil]; rfl
  | cons q l ih =>
    have hstep : each (q :: l) f s = each l f (f q s) := rfl
    rw [hstep, ih, hf]
    by_cases hp : p ∈ l
    · rw [if_pos hp, if_pos (List.mem_cons_of_mem _ hp)]
    · rw [if_neg hp]
      by_cases hpq : p = q
      · rw [if_pos hpq, if_pos (hpq ▸ List.mem_cons_self)]
      · rw [if_neg hpq, if_neg (by simp [hpq, hp])]

theorem Dev.port_event (s : Dev) (code : Nat) (fs : List (Nat × Nat × Nat)) (p : Nat) : (s.event code fs).port p = s.port p := by
  obtain ⟨_, _, h⟩ := s.event_frame code fs
  rw [h]
  rfl

/-- The sample of an input that goes low. -/
theorem Dev.laser_of_low {s : Dev} {i power : Nat} (hpower : power < 2000) (hlow : s.warden.laserLow.contains i = false) :
    (s.laser i power).warden = { s.warden with laserLow := insertUp i s.warden.laserLow }
      ∧ ∀ p, ((s.laser i power).port p).dark = if p ∈ laserPorts i then true else (s.port p).dark := by
  unfold Dev.laser
  extract_lets low s1 s2
  rw [if_pos ⟨hpower, by rw [show low = false from hlow]; rfl⟩]
  have hdark := dark_each (f := Dev.darken) (b := true) (fun q s p => s.dark_darken p q) (laserPorts i) s1
  have hwarden : (each (laserPorts i) Dev.darken s1).warden = s1.warden := each_keeps Dev.warden (fun _ _ => by rfl) _ s1
  exact ⟨(Dev.warden_event (each (laserPorts i) Dev.darken s1) 0x14 [(32, 1, i)]).trans hwarden,
    fun p => (congrArg EPort.dark (Dev.port_event (each (laserPorts i) Dev.darken s1) 0x14 [(32, 1, i)] p)).trans (hdark p)⟩

/-- The sample of an input that is back. -/
theorem Dev.laser_of_back {s : Dev} {i power : Nat} (hpower : 2050 ≤ power) (hlow : s.warden.laserLow.contains i = true) :
    (s.laser i power).warden = { s.warden with laserLow := s.warden.laserLow.filter (· != i) }
      ∧ ∀ p, ((s.laser i power).port p).dark = if p ∈ laserPorts i then false else (s.port p).dark := by
  unfold Dev.laser
  extract_lets low s1 s2
  rw [if_neg (fun h => by omega), if_pos ⟨hpower, hlow⟩]
  have hdark := dark_each (f := Dev.lighten) (b := false) (fun q s p => s.dark_lighten p q) (laserPorts i) s2
  have hwarden : (each (laserPorts i) Dev.lighten s2).warden = s2.warden := each_keeps Dev.warden (fun _ _ => by rfl) _ s2
  exact ⟨hwarden, hdark⟩

/-- A sample that changes nothing. -/
theorem Dev.laser_of_same {s : Dev} {i power : Nat} (hlow : power < 2000 → s.warden.laserLow.contains i = true)
    (hback : 2050 ≤ power → s.warden.laserLow.contains i = false) : s.laser i power = s := by
  unfold Dev.laser
  extract_lets low s1 s2
  rw [if_neg fun h => ?_, if_neg fun h => ?_]
  · obtain ⟨hp, h⟩ := h
    rw [show low = false from hback hp] at h
    cases h
  · obtain ⟨hp, h⟩ := h
    rw [show low = true from hlow hp] at h
    cases h

/-- Which of the three a sample is. -/
theorem Dev.laser_cases (s : Dev) (i power : Nat) :
    (power < 2000 ∧ s.warden.laserLow.contains i = false) ∨ (2050 ≤ power ∧ s.warden.laserLow.contains i = true)
      ∨ ((power < 2000 → s.warden.laserLow.contains i = true) ∧ (2050 ≤ power → s.warden.laserLow.contains i = false)) := by
  cases s.warden.laserLow.contains i
  · rcases Nat.lt_or_ge power 2000 with h | h
    · exact .inl ⟨h, rfl⟩
    · exact .inr (.inr ⟨fun h' => by omega, fun _ => rfl⟩)
  · rcases Nat.lt_or_ge power 2050 with h | h
    · exact .inr (.inr ⟨fun _ => rfl, fun h' => by omega⟩)
    · exact .inr (.inl ⟨h, rfl⟩)

/-- The sample of another input bears on neither. -/
theorem Dev.light_laser_other {i j : Nat} (hi : i < 4) (hj : j < 4) (hij : i ≠ j) (power : Nat) (s : Dev) :
    (s.laser j power).light i = s.light i := by
  have hdark : ∀ t : Dev, ∀ b, (∀ p, (t.port p).dark = if p ∈ laserPorts j then b else (s.port p).dark) →
      ((laserPorts i).map fun p => (t.port p).dark) = (laserPorts i).map fun p => (s.port p).dark := by
    intro t b h
    refine List.map_congr_left fun p hp => ?_
    rw [h, if_neg (laserPorts_disjoint hi hj hij hp)]
  unfold Dev.light
  rcases s.laser_cases j power with ⟨hp, hlow⟩ | ⟨hp, hlow⟩ | ⟨hlow, hback⟩
  · obtain ⟨hwarden, hports⟩ := Dev.laser_of_low hp hlow
    rw [hdark _ _ hports, hwarden]
    simp [mem_insertUp, hij]
  · obtain ⟨hwarden, hports⟩ := Dev.laser_of_back hp hlow
    rw [hdark _ _ hports, hwarden]
    simp [hij]
  · rw [Dev.laser_of_same hlow hback]

theorem Dev.laserAt_laser (s : Dev) (i power : Nat) : (s.laser i power).warden.laserAt = s.warden.laserAt := by
  rcases s.laser_cases i power with ⟨hp, hlow⟩ | ⟨hp, hlow⟩ | ⟨hlow, hback⟩
  · rw [(Dev.laser_of_low hp hlow).1]
  · rw [(Dev.laser_of_back hp hlow).1]
  · rw [Dev.laser_of_same hlow hback]

/-- A sample's own input: low below 20 dBm and dark with it, back from 20.5 dBm on and lit with it. -/
theorem Dev.laser_spec (s : Dev) (i power : Nat) : let t := s.laser i power
    (power < 2000 → i ∈ t.warden.laserLow) ∧ (2050 ≤ power → i ∉ t.warden.laserLow)
      ∧ (power < 2000 → i ∉ s.warden.laserLow → ∀ p ∈ laserPorts i, (t.port p).dark = true)
      ∧ (2050 ≤ power → i ∈ s.warden.laserLow → ∀ p ∈ laserPorts i, (t.port p).dark = false) := by
  intro t
  rcases s.laser_cases i power with ⟨hp, hlow⟩ | ⟨hp, hlow⟩ | ⟨hlow, hback⟩
  · obtain ⟨hwarden, hports⟩ := Dev.laser_of_low hp hlow
    have hno : i ∉ s.warden.laserLow := by simpa using hlow
    refine ⟨fun _ => ?_, fun h => by omega, fun _ _ p hp => (hports p).trans (if_pos hp), fun _ h => absurd h hno⟩
    rw [show t.warden = _ from hwarden]
    exact mem_insertUp.mpr (.inl rfl)
  · obtain ⟨hwarden, hports⟩ := Dev.laser_of_back hp hlow
    have hyes : i ∈ s.warden.laserLow := by simpa using hlow
    refine ⟨fun h => by omega, fun _ => ?_, fun _ h => absurd hyes h, fun _ _ p hp => (hports p).trans (if_pos hp)⟩
    rw [show t.warden = _ from hwarden]
    simp
  · rw [show t = s from Dev.laser_of_same hlow hback]
    refine ⟨fun h => by simpa using hlow h, fun h => by simpa using hback h, fun h hno => absurd (by simpa using hlow h) hno,
      fun h hyes => absurd hyes (by simpa using hback h)⟩

theorem Dev.light_eq {i : Nat} {s t : Dev} (h : t.light i = s.light i) :
    (i ∈ t.warden.laserLow ↔ i ∈ s.warden.laserLow) ∧ ∀ p ∈ laserPorts i, (t.port p).dark = (s.port p).dark := by
  obtain ⟨hlow, hdark⟩ := Prod.mk.inj h
  refine ⟨?_, List.map_inj_left.mp hdark⟩
  rw [← List.contains_iff_mem, ← List.contains_iff_mem, hlow]

theorem laserSample_of_due {ps : List Nat} {s : Dev} (hlit : s.lit = true) (hdue : s.warden.laserAt + msec ≤ s.now) :
    laserSample ps s = each ps.zipIdx (fun p s => s.laser p.2 p.1) (s.modWarden fun w => { w with laserAt := s.now }) := by
  refine if_neg ?_
  rintro (h | h)
  · rw [hlit] at h; cases h
  · exact absurd hdue (Nat.not_le.mpr h)

/-- Settles O13. -/
theorem sensorsAndSuppliesAreFollowed : Obligations.SensorsAndSuppliesAreFollowed := by
  refine ⟨fun g l s hlen hon hdue => ?sensors, fun i ma temp s hi hlit hdue => ⟨?poll, fun code => ?pollFault⟩, ?trim,
    fun s hlit hdue => ?stretch, fun ps s hlen hlit hdue => ?laser⟩
  case sensors =>
    have hlt := groupSize_lt g
    refine ⟨_, exec_of_actOn (f := sensorSample g l) rfl (beq_iff_eq.mpr hlen) (sensorSample_of_due hon hdue), ?_, fun i h => ?_,
      fun c i hc hi => ?_⟩
    · exact Tab.get_set_same _ _ _
    · have hget := get_putReadings (groupCode g) l 0 s.dev.warden.sensors i h
      rw [Nat.zero_add] at hget
      exact hget
    · refine get_putReadings_other l _ fun j _ hj => ?_
      unfold sensorKey
      omega
  case poll =>
    obtain ⟨t, hpoll, hwarden, hnow⟩ := avsPoll_of_due (s := s.dev) i ma temp .ok hlit hdue
    have hrails : ∀ j, (t.avsStatus i .ok).warden.rails.get j = if j = i
        then { (s.dev.warden.rails.get i).polled ma temp s.dev.now with warn := false } else s.dev.warden.rails.get j := by
      intro j
      show (t.warden.rails.mod i fun r => { r with warn := false }).get j = _
      rw [hwarden]
      by_cases hj : j = i
      · rw [if_pos hj, hj, Tab.get_mod_same, Dev.polledWarden, Tab.get_set_same]
      · rw [if_neg hj, Tab.get_mod_other _ _ _ _ hj, Dev.polledWarden, Tab.get_set_other _ _ _ _ hj]
    have hi' := hrails i
    rw [if_pos rfl] at hi'
    refine ⟨_, exec_of_actOn (f := avsPoll i ma temp .ok) rfl (decide_eq_true hi) hpoll, ?_, ?_, ?_, ?_, fun j hj => ?_, ?_⟩
    · exact (congrArg Rail.curMa hi').trans rfl
    · exact (congrArg Rail.curAt hi').trans rfl
    · exact (congrArg Rail.warn hi').trans rfl
    · refine (congrArg Rail.temp hi').trans ?_
      unfold Rail.polled
      dsimp only
      split <;> rfl
    · exact (hrails j).trans (if_neg hj)
    · refine (congrArg (fun w : Warden => w.powers.getLast?) hwarden).trans ?_
      refine List.getLast?_concat.trans (congrArg (fun p => some (s.dev.now, p)) (Dev.packageMw_congr (fun j _ => ?_) rfl))
      have hset : ((s.dev.warden.rails.set i ((s.dev.warden.rails.get i).polled ma temp s.dev.now)).get j) = if j = i
          then (s.dev.warden.rails.get i).polled ma temp s.dev.now else s.dev.warden.rails.get j := by
        by_cases hj : j = i
        · rw [if_pos hj, hj, Tab.get_set_same]
        · rw [if_neg hj, Tab.get_set_other _ _ _ _ hj]
      refine ⟨(congrArg Rail.setMv hset).trans (Eq.trans ?_ (congrArg Rail.setMv (hrails j)).symm),
        (congrArg Rail.curMa hset).trans (Eq.trans ?_ (congrArg Rail.curMa (hrails j)).symm)⟩
      · split <;> rfl
      · split <;> rfl
  case pollFault =>
    obtain ⟨t, hpoll, -, -⟩ := avsPoll_of_due (s := s.dev) i ma temp (.fault code) hlit hdue
    obtain ⟨hdrop, hpend, -⟩ := t.railFault_spec (avsBus i).1 (avsBus i).2 (code % 256)
    exact ⟨_, exec_of_actOn (f := avsPoll i ma temp (.fault code)) rfl (decide_eq_true hi) hpoll, hdrop, hpend⟩
  case trim =>
    intro i up s r v hi hlit hdue hlow hhigh hmin hmax
    refine ⟨_, exec_of_actOn (f := voltageTrim i up .ok) rfl (decide_eq_true hi)
      (voltageTrim_of_due (v := v) .ok hlit hdue rfl hlow hhigh hmin hmax), ?_, rfl⟩
    show ((Tab.set _ i _).mod i fun (r : Rail) => { r with warn := false }).get i = _
    rw [Tab.get_mod_same, Tab.get_set_same]
  case stretch =>
    obtain ⟨hat, hlots⟩ := stretchUpdate_spec hlit hdue
    refine ⟨_, exec_of_act (f := stretchUpdate) rfl rfl, hat, fun k hk => ?_⟩
    intro l
    obtain ⟨hnone, hsome⟩ := hlots k hk
    refine ⟨fun h => hnone (Bool.eq_false_iff.mpr fun hl => ?_), fun hstate hkind hover => ?_, fun hstate hkind hover hhot => ?_⟩
    · obtain ⟨hstate, hkind⟩ := l.stretches_eq_true.mp hl
      exact h.elim (fun h => h hstate) fun h => hkind h
    · exact (hsome (l.stretches_eq_true.mpr ⟨hstate, hkind⟩)).trans (Dev.stretchNew_of_over l hover)
    · exact (hsome (l.stretches_eq_true.mpr ⟨hstate, hkind⟩)).trans (Dev.stretchNew_of_hot (Nat.not_lt.mpr hover) hhot)
  case laser =>
    refine ⟨_, exec_of_actOn (f := laserSample ps) rfl (beq_iff_eq.mpr hlen) (laserSample_of_due hlit hdue), ?_, fun i h => ?_⟩
    · exact each_keeps (fun s => s.warden.laserAt) (fun (p : Nat × Nat) t => t.laserAt_laser p.2 p.1) _ _
    · have hkeep : ∀ x ∈ ps.zipIdx, x ≠ (ps[i], i) → ∀ s : Dev, (s.laser x.2 x.1).light i = s.light i := by
        intro ⟨y, j⟩ hx hne s
        have hj := List.mk_mem_zipIdx_iff_getElem?.mp hx
        have hjlt : j < ps.length := (List.getElem?_eq_some_iff.mp hj).1
        refine Dev.light_laser_other (by omega) (by omega) (fun hij => hne ?_) y s
        subst hij
        rw [List.getElem?_eq_getElem h] at hj
        rw [Option.some.inj hj]
      obtain ⟨u, hu, ht⟩ := each_at (Dev.light i) (f := fun (p : Nat × Nat) s => s.laser p.2 p.1) (a := (ps[i], i)) (l := ps.zipIdx)
        (List.Nodup.of_map Prod.snd (List.nodup_zipIdx_map_snd ps)) (List.mk_mem_zipIdx_iff_getElem?.mpr (List.getElem?_eq_getElem h))
        hkeep (s.dev.modWarden fun w => { w with laserAt := s.dev.now })
      obtain ⟨hlow, hback, hdark, hlit⟩ := u.laser_spec i ps[i]
      obtain ⟨hlow0, hdark0⟩ := Dev.light_eq hu
      obtain ⟨hlow1, hdark1⟩ := Dev.light_eq ht
      refine ⟨fun hp => hlow1.mpr (hlow hp), fun hp hm => hback hp (hlow1.mp hm), fun hp hno p hmem => ?_, fun hp hyes p hmem => ?_⟩
      · exact (hdark1 p hmem).trans (hdark hp (fun hm => hno (hlow0.mp hm)) p hmem)
      · exact (hdark1 p hmem).trans (hlit hp (hlow0.mpr hyes) p hmem)

end Sys2Proof.Machine

/-! ## The plant (R423 to R427) -/
namespace Sys2Proof.Machine
open Sys2Proof

/-! ### The forecast (R424, R426) -/

/-- The forecast itself does not read the thermal model. -/
theorem Dev.fore_modTd (s : Dev) (a b : Rat) : (s.modWarden fun w => { w with td0 := a, td1 := b }).foreNow.1 = s.foreNow.1 := by
  rfl

theorem Warden.flowSpans_td (w : Warden) (now : Nat) : (w.flowSpans now).td0 = w.td0 ∧ (w.flowSpans now).td1 = w.td1 := by
  unfold Warden.flowSpans
  split <;> exact ⟨rfl, rfl⟩

/-- The Warden after a forecast, for the thermal model's next values. -/
def Dev.forecastWarden (s : Dev) (a b : Rat) : Warden :=
  ({ s.warden with fore := s.foreNow.1, foreAt := s.now, td0 := a, td1 := b } : Warden).flowSpans s.now

theorem forecastCompute_spec {s : Dev} (hawake : s.awake = true) (hdue : s.warden.foreAt = 0 ∨ s.warden.foreAt + 10 * msec ≤ s.now) :
    ∃ a b : Rat, (forecastCompute s).warden = s.forecastWarden a b
      ∧ (s.warden.foreAt ≠ 0 ∨ s.warden.plant.isSome = true → a = s.foreNow.2.1 ∧ b = s.foreNow.2.2) := by
  unfold forecastCompute
  extract_lets seed s1
  have hgo : ¬((!s.awake) = true ∨ (s.warden.foreAt ≠ 0 ∧ s.now < s.warden.foreAt + 10 * msec)) := by
    rintro (h | ⟨h, h'⟩)
    · rw [hawake] at h; cases h
    · omega
  rw [if_neg hgo]
  cases hfirst : s.warden.foreAt == 0 && s.warden.plant.isNone with
  | false =>
    have h1 : s1 = s := by unfold s1; rw [hfirst, Dev.iff_false]
    clear_value s1
    subst h1
    exact ⟨_, _, rfl, fun _ => ⟨rfl, rfl⟩⟩
  | true =>
    have h1 : s1 = s.modWarden fun w => { w with td0 := seed, td1 := seed } := by unfold s1; rw [hfirst, Dev.iff_true]
    clear_value s1
    rw [Bool.and_eq_true, beq_iff_eq, Option.isNone_iff_eq_none] at hfirst
    obtain ⟨hat, hplant⟩ := hfirst
    refine ⟨s1.foreNow.2.1, s1.foreNow.2.2, ?_, fun h => absurd h ?_⟩
    · have hfore : s1.foreNow.1 = s.foreNow.1 := by rw [h1]; exact s.fore_modTd seed seed
      show s1.forecastWarden s1.foreNow.2.1 s1.foreNow.2.2 = _
      generalize s1.foreNow.2.1 = a
      generalize s1.foreNow.2.2 = b
      unfold Dev.forecastWarden
      rw [hfore, h1]
      rfl
    · rw [hat, hplant]
      simp

theorem forecast_of_due {s : Dev} (hawake : s.awake = true) (hat : s.warden.foreAt ≠ 0)
    (hdue : s.warden.sentFore = none ∨ s.warden.sentAt + 100 * msec ≤ s.now
      ∨ ∃ g, s.warden.sentFore = some g ∧ s.warden.sentAt + 10 * msec ≤ s.now ∧
          (g.flowreq < 10 * (max s.warden.fore.flowreq g.flowreq - min s.warden.fore.flowreq g.flowreq)
            ∨ 100 < max s.warden.fore.p1s g.p1s - min s.warden.fore.p1s g.p1s)) :
    forecast s = (s.modWarden fun w => { w with sentFore := some w.fore, sentAt := s.now, seqOut := (w.seqOut + 1) % 65536 }).emit
      (.plant s.linkLocal s.warden.plantSrc (withCrc (layout 8 [(0, 2, 0x4C50), (2, 1, 1), (3, 1, 1), (4, 2, s.warden.seqOut), (6, 2, 28)]
        ++ s.foreBody s.warden.fore))) := by
  unfold forecast
  extract_lets w due m
  have hgo : due = true := by
    unfold due
    rcases hdue with hnone | hlong | ⟨g, hg, hshort, hmoved⟩
    · rw [show w.sentFore = none from hnone]
    · split
      · rfl
      · rw [show decide (w.sentAt + 100 * msec ≤ s.now) = true from decide_eq_true hlong, Bool.true_or]
    · rw [show w.sentFore = some g from hg]
      have hfar : w.fore.moved g = true := by
        unfold Fore.moved
        rw [Bool.or_eq_true, decide_eq_true_iff, decide_eq_true_iff]
        exact hmoved
      dsimp only
      rw [hfar, show decide (w.sentAt + 10 * msec ≤ s.now) = true from decide_eq_true hshort, Bool.and_self, Bool.or_true]
  refine if_neg ?_
  rintro (h | h | h)
  · rw [hawake] at h; cases h
  · exact hat h
  · rw [hgo] at h; cases h

/-! ### Messages of the plant (R424, R425, R427) -/

/-- The Warden when the plant is lost. -/
def Warden.lost (w : Warden) (cap : Nat) : Warden :=
  { w with plantLost := true, okSince := none, capPlant := some (min cap (w.capPlant.getD cap)) }

theorem Dev.warden_loseplant (s : Dev) : s.loseplant.warden = s.warden.lost (s.entry 0x2004 2) :=
  Dev.warden_event _ 0x26 []

/-- The plant's report of a PLANT_STATUS. -/
def plantOf (m : Bytes) : Plant := ⟨fld m 8 2, fld m 10 2, fld m 12 2, fld m 14 2, byte m 16⟩

theorem plantStatus_of_forecast {src : Nat} {m : Bytes} {s : Dev} (hawake : s.awake = true) (hfore : foreOkMsg m = true) :
    plantStatus src m s = s := by
  unfold plantStatus
  rw [if_neg (by rw [hawake]; decide), if_pos hfore]

theorem plantStatus_of_bad {src : Nat} {m : Bytes} {s : Dev} (hawake : s.awake = true) (hfore : foreOkMsg m = false)
    (hplant : plantOkMsg m = false) : plantStatus src m s = s.bump 0x6080 3 1 := by
  unfold plantStatus
  rw [if_neg (by rw [hawake]; decide), if_neg (by rw [hfore]; decide), if_pos (by rw [hplant]; rfl)]

theorem plantHdr_other {m : Bytes} {a b n k : Nat} (h : plantHdr m a n = true) (hab : a ≠ b) : plantHdr m b k = false := by
  unfold plantHdr at h ⊢
  simp only [Bool.and_eq_true, beq_iff_eq] at h
  obtain ⟨⟨⟨-, htype⟩, -⟩, -⟩ := h
  rw [htype, beq_false_of_ne hab]
  simp

/-- A PLANT_STATUS is no FORECAST. -/
theorem foreOkMsg_of_plant {m : Bytes} (h : plantOkMsg m = true) : foreOkMsg m = false := by
  unfold plantOkMsg at h
  rw [Bool.and_eq_true, Bool.and_eq_true] at h
  unfold foreOkMsg
  rw [plantHdr_other h.1.1 (by decide), Bool.false_and, Bool.false_and]

/-- The Warden that a PLANT_STATUS has told. -/
def Dev.toldWarden (s : Dev) (src : Nat) (m : Bytes) (a b : Rat) : Warden :=
  ({ s.warden with plant := some (plantOf m), plantAt := s.now, plantSrc := some src, td0 := a, td1 := b } : Warden).flowSpans s.now

theorem since_decide (c : Prop) [Decidable c] (old : Option Nat) (now : Nat) :
    since (decide c) old now = if c then some (old.getD now) else none := by
  unfold since
  by_cases h : c
  · rw [decide_eq_true h, if_pos rfl, if_pos h]
  · rw [decide_eq_false h, if_neg Bool.false_ne_true, if_neg h]

theorem Dev.toldWarden_spec (s : Dev) (src : Nat) (m : Bytes) (a b : Rat) : let t := s.toldWarden src m a b
    t.plantAt = s.now ∧ t.plantSrc = some src ∧ t.plant = some (plantOf m)
      ∧ t.lowSince = (if 10 * fld m 12 2 < 9 * s.warden.fore.flowreq then some (s.warden.lowSince.getD s.now) else none)
      ∧ t.okSince = (if byte m 16 = 0 ∧ s.warden.fore.flowreq ≤ fld m 12 2 then some (s.warden.okSince.getD s.now) else none)
      ∧ t.plantLost = s.warden.plantLost ∧ t.capPlant = s.warden.capPlant := by
  refine ⟨rfl, rfl, rfl, since_decide _ _ _, ?_, rfl, rfl⟩
  have hboth : (byte m 16 == 0 && decide (s.warden.fore.flowreq ≤ fld m 12 2)) =
      decide (byte m 16 = 0 ∧ s.warden.fore.flowreq ≤ fld m 12 2) := by
    rw [Bool.decide_and]
    rfl
  refine Eq.trans ?_ (since_decide _ s.warden.okSince s.now)
  rw [← hboth]
  rfl

/-- A PLANT_STATUS that is valid is taken, the spans are followed, and a FAULT loses the plant. -/
theorem plantStatus_of_valid {src : Nat} {m : Bytes} {s : Dev} (hawake : s.awake = true) (hplant : plantOkMsg m = true) :
    ∃ a b : Rat, (plantStatus src m s).warden =
      if byte m 16 = 2 ∧ s.warden.plantLost = false then (s.toldWarden src m a b).lost (s.entry 0x2004 2) else s.toldWarden src m a b := by
  unfold plantStatus
  extract_lets p first tm s1 s2
  rw [if_neg (by rw [hawake]; decide), if_neg (by rw [foreOkMsg_of_plant hplant]; decide), if_neg (by rw [hplant]; decide)]
  refine ⟨if first then tm else s.warden.td0, if first then tm else s.warden.td1, ?_⟩
  have hlost : s2.warden.plantLost = s.warden.plantLost := rfl
  have hentry : s2.entry 0x2004 2 = s.entry 0x2004 2 := rfl
  have h2 : s2.warden = s.toldWarden src m (if first then tm else s.warden.td0) (if first then tm else s.warden.td1) := rfl
  clear_value s2
  by_cases h : byte m 16 = 2 ∧ s.warden.plantLost = false
  · obtain ⟨hfault, hkept⟩ := h
    have hc : (p.state == 2 && !s2.warden.plantLost) = true := by
      rw [hlost, hkept, show (p.state == 2) = true from beq_iff_eq.mpr hfault]
      rfl
    rw [hc, Dev.iff_true, Dev.warden_loseplant, if_pos ⟨hfault, hkept⟩, h2, hentry]
  · have hc : (p.state == 2 && !s2.warden.plantLost) = false := by
      rw [hlost]
      by_contra hne
      rw [Bool.not_eq_false, Bool.and_eq_true, beq_iff_eq, Bool.not_eq_true'] at hne
      exact h hne
    rw [hc, Dev.iff_false, if_neg h, h2]

theorem plantLost_of_silence {s : Dev} (hawake : s.awake = true) (hkept : s.warden.plantLost = false)
    (hlong : s.warden.plantAt + second ≤ s.now) : plantLost s = s.loseplant := by
  unfold plantLost
  rw [hawake, hkept, decide_eq_true hlong]
  rfl

/-! ### The cap of a limited plant (R427) -/

/-- Below the cap the steady junctions of both dies stay 2 °C below TTHR, above it they do not. -/
theorem Dev.le_plantCap_iff {s : Dev} (hflow : 0 < s.flow) {n : Nat} (hn : 0 < n) :
    n ≤ s.plantCap ↔ ∀ d < 2, s.steady n s.flow d ≤ (s.entry 0x2003 1 : Rat) - 2 := by
  have hsteady : ∀ d, s.steady n s.flow d ≤ (s.entry 0x2003 1 : Rat) - 2 ↔
      (n : Rat) ≤ ((s.entry 0x2003 1 : Rat) - 2 - s.tin - f32Rat (s.entry 0x2006 (d + 1)) * s.dieW d) * s.flow / 7.17 := by
    intro d
    have hrise : s.steady n s.flow d = s.tin + 7.17 * n / s.flow + f32Rat (s.entry 0x2006 (d + 1)) * s.dieW d := by
      unfold Dev.steady
      dsimp only
      rw [if_neg hflow.ne']
    rw [hrise, le_div_iff₀ (by norm_num), mul_comm (n : Rat), ← div_le_iff₀ hflow]
    constructor <;> intro h <;> linarith
  have hcap : n ≤ s.plantCap ↔ (n : Rat) ≤ min ((s.entry 0x2003 1 : Rat) - 2 - s.tin - f32Rat (s.entry 0x2006 (0 + 1)) * s.dieW 0)
      ((s.entry 0x2003 1 : Rat) - 2 - s.tin - f32Rat (s.entry 0x2006 (1 + 1)) * s.dieW 1) * s.flow / 7.17 := by
    unfold Dev.plantCap
    dsimp only
    rw [show ∀ z : Int, n ≤ z.toNat ↔ (n : Int) ≤ z from fun z => by omega, Rat.le_floor_iff]
    norm_cast
  rw [hcap, le_div_iff₀ (by norm_num), ← div_le_iff₀ hflow, le_min_iff, div_le_iff₀ hflow, div_le_iff₀ hflow, ← le_div_iff₀ (by norm_num),
    ← le_div_iff₀ (by norm_num)]
  refine ⟨fun ⟨h0, h1⟩ d hd => ?_, fun h => ⟨(hsteady 0).mp (h 0 (by decide)), (hsteady 1).mp (h 1 (by decide))⟩⟩
  obtain rfl | rfl : d = 0 ∨ d = 1 := by omega
  · exact (hsteady 0).mpr h0
  · exact (hsteady 1).mpr h1

theorem plantLimited_of_low {s : Dev} {p : Plant} (hawake : s.awake = true) (hp : s.warden.plant = some p)
    (hfree : s.warden.plantLim = false) (hlow : p.state = 1 ∨ ∃ u, s.warden.lowSince = some u ∧ u + 2 * second ≤ s.now) :
    (plantLimited s).warden =
      { s.warden with plantLim := true, capPlant := some (min s.plantCap (s.warden.capPlant.getD s.plantCap)) } := by
  unfold plantLimited
  rw [hp]
  extract_lets low c
  have hgo : (s.awake && !s.warden.plantLim && (p.state == 1 || low)) = true := by
    rw [hawake, hfree]
    rcases hlow with hstate | ⟨u, hu, hlong⟩
    · rw [hstate]; rfl
    · have h : low = true := by
        unfold low
        rw [hu]
        exact decide_eq_true hlong
      rw [h, Bool.or_true]
      rfl
  dsimp only
  rw [if_pos hgo]
  exact Dev.warden_event _ 0x27 _

theorem plantOk_of_good {s : Dev} {u : Nat} (hawake : s.awake = true) (hcapped : s.warden.plantLost = true ∨ s.warden.plantLim = true)
    (hgood : s.plantGood.isSome = true) (hsince : s.warden.okSince = some u) (hlong : u + 2 * second ≤ s.now) :
    (plantOk s).warden = { s.warden with plantLost := false, plantLim := false, capPlant := none } := by
  unfold plantOk
  rw [hsince]
  have hgo : (s.awake && (s.warden.plantLost || s.warden.plantLim) && s.plantGood.isSome && decide (u + 2 * second ≤ s.now)) = true := by
    rw [hawake, hgood, decide_eq_true hlong, Bool.or_eq_true _ _ |>.mpr hcapped]
    rfl
  dsimp only
  rw [if_pos hgo]
  exact Dev.warden_event _ 0x28 []

/-- Settles O14. -/
theorem thePlantCapsAndFreesThePower : Obligations.ThePlantCapsAndFreesThePower := by
  refine ⟨?compute, ?send, ?status, ?lost, fun p s hawake hp hfree hlow => ?limited, fun u s hawake hcapped hgood hsince hlong => ?ok,
    fun s hon => ⟨fun hlate => ?timeout, ?beacon⟩⟩
  case compute =>
    intro s w hawake hdue
    obtain ⟨a, b, hwarden, htd⟩ := forecastCompute_spec hawake hdue
    obtain ⟨ha, hb⟩ := Warden.flowSpans_td { s.dev.warden with fore := s.dev.foreNow.1, foreAt := s.dev.now, td0 := a, td1 := b } s.dev.now
    have ha : (s.dev.forecastWarden a b).td0 = a := ha
    have hb : (s.dev.forecastWarden a b).td1 = b := hb
    refine ⟨_, exec_of_act (f := forecastCompute) rfl rfl, ?_, fun h => ?_⟩
    · show (forecastCompute s.dev).warden = s.dev.forecastWarden (forecastCompute s.dev).warden.td0 (forecastCompute s.dev).warden.td1
      rw [hwarden, ha, hb]
    · obtain ⟨ha', hb'⟩ := htd h
      show (forecastCompute s.dev).warden.td0 = _ ∧ (forecastCompute s.dev).warden.td1 = _
      rw [hwarden, ha, hb]
      exact ⟨ha', hb'⟩
  case send =>
    intro s w hawake hat hdue
    exact exec_of_act (f := forecast) rfl (forecast_of_due hawake hat hdue)
  case status =>
    intro src m s w hawake
    refine ⟨fun hfore => ?_, fun hfore hplant => ?_, fun hplant => ?_⟩
    · exact exec_of_act (f := plantStatus src m) rfl (plantStatus_of_forecast hawake hfore)
    · exact exec_of_act (f := plantStatus src m) rfl (plantStatus_of_bad hawake hfore hplant)
    · obtain ⟨a, b, hwarden⟩ := plantStatus_of_valid (src := src) hawake hplant
      refine ⟨_, exec_of_act (f := plantStatus src m) rfl rfl, ?_⟩
      obtain ⟨hat, hsrc, hplant', hlow, hok, hlost, hcap⟩ := s.dev.toldWarden_spec src m a b
      dsimp only
      rw [hwarden]
      by_cases hfault : byte m 16 = 2 ∧ s.dev.warden.plantLost = false
      · rw [if_pos hfault]
        obtain ⟨hstate, hkept⟩ := hfault
        refine ⟨hat, hsrc, hplant', hlow, ?_, ?_, ?_⟩
        · exact (if_neg fun h => by omega).symm
        · rw [hstate]
          exact (Bool.or_true _).symm
        · refine Eq.trans ?_ (if_pos ⟨hstate, hkept⟩).symm
          exact congrArg (fun c : Option Nat => some (min (s.dev.entry 0x2004 2) (c.getD (s.dev.entry 0x2004 2)))) hcap
      · rw [if_neg hfault]
        refine ⟨hat, hsrc, hplant', hlow, hok, hlost.trans ?_, hcap.trans (if_neg hfault).symm⟩
        show w.plantLost = _
        cases hkept : w.plantLost with
        | true => rfl
        | false => exact (beq_false_of_ne fun h => hfault ⟨h, hkept⟩).symm
  case lost =>
    intro s c hawake hkept hlong
    exact ⟨_, exec_of_act (f := plantLost) rfl (plantLost_of_silence hawake hkept hlong), s.dev.warden_loseplant⟩
  case limited =>
    exact ⟨_, s.dev.plantCap, exec_of_act (f := plantLimited) rfl rfl, plantLimited_of_low hawake hp hfree hlow,
      fun hflow n hn => Dev.le_plantCap_iff hflow hn⟩
  case ok =>
    exact ⟨_, exec_of_act (f := plantOk) rfl rfl, plantOk_of_good hawake hcapped hgood hsince hlong⟩
  case timeout =>
    refine exec_of_act (f := plcaBeaconTimeout) rfl (if_pos ?_)
    rw [decide_eq_true hlate, Bool.and_true]
    exact bne_iff_ne.mpr hon
  case beacon =>
    exact exec_of_act (f := plcaBeaconReturn) rfl (if_pos (bne_iff_ne.mpr hon))

end Sys2Proof.Machine

/-! ## Orders: issue and completion (R64 to R91, R120 to R142) -/
namespace Sys2Proof.Machine
open Sys2Proof

/-! ### Issue (R65) -/

section Issue
variable {s : Dev} {n op : Nat} {room : Stall → Nat → Bool} {f : Nat → Nat → Dev → Dev}

/-- An order that may issue: the sequencer goes on, the order has its effect, and the engines start what they can. -/
theorem Dev.issue_of_room (hmay : s.mayIssue n op = true) (hroom : room (s.stall n) (s.orderAt n) = true) :
    s.issue n op room f = (f (s.stall n).pc (s.orderAt n) (s.stepped n)).kick n := by
  unfold Dev.issue
  extract_lets st w
  rw [if_pos (by rw [hmay, show room st w = true from hroom]; rfl)]
  rfl

theorem Dev.issue_of_held (h : s.mayIssue n op = false) : s.issue n op room f = s := by
  unfold Dev.issue
  extract_lets st w
  rw [if_neg (by rw [h]; exact Bool.false_ne_true)]

theorem Dev.issue_of_full (h : room (s.stall n) (s.orderAt n) = false) : s.issue n op room f = s := by
  unfold Dev.issue
  extract_lets st w
  rw [if_neg (by rw [show room st w = false from h, Bool.and_false]; exact Bool.false_ne_true)]

/-- With no order under way the engines start nothing. -/
theorem Dev.kick_of_idle (h : (s.stall n).jobs = []) : s.kick n = s := by
  unfold Dev.kick
  extract_lets s1 s2
  rw [if_pos (by rw [h]; rfl)]

/-- An order on an idle Stall whose effect starts no job. -/
theorem Dev.issue_of_idle (hmay : s.mayIssue n op = true) (hroom : room (s.stall n) (s.orderAt n) = true)
    (hidle : ((f (s.stall n).pc (s.orderAt n) (s.stepped n)).stall n).jobs = []) :
    s.issue n op room f = f (s.stall n).pc (s.orderAt n) (s.stepped n) := by
  rw [Dev.issue_of_room hmay hroom, Dev.kick_of_idle hidle]

theorem Dev.stall_stepped (s : Dev) (n : Nat) : (s.stepped n).stall n = (s.stall n).advance s.now := Dev.stall_modStall s n _

theorem Stall.jobs_advance (x : Stall) (now : Nat) : (x.advance now).jobs = x.jobs := rfl

theorem Dev.jobs_stepped (s : Dev) (n : Nat) : ((s.stepped n).stall n).jobs = (s.stall n).jobs := by
  rw [Dev.stall_stepped, Stall.jobs_advance]

end Issue

/-! ### Orders done at issue (R89 to R91) -/

/-- A change of an idle Stall that keeps it idle. -/
theorem Dev.jobs_modStall_of_idle {s : Dev} {n : Nat} (h : (s.stall n).jobs = []) {f : Stall → Stall}
    (hf : ∀ x, (f x).jobs = x.jobs) : ((s.modStall n f).stall n).jobs = [] := by
  rw [Dev.stall_modStall, hf, h]

/-- A late beat changes counters and rings alone. -/
theorem Dev.lateBeat_frame (s : Dev) (n : Nat) : ∃ counters bumped rings,
    s.lateBeat n = { s with counters := counters, bumped := bumped, rings := rings } := by
  unfold Dev.lateBeat
  split
  · exact ⟨_, _, _, rfl⟩
  · extract_lets l c s1
    split
    · exact ⟨_, _, _, rfl⟩
    · unfold Dev.iff
      split
      · obtain ⟨rings, h⟩ := s1.ctxEvent_frame c 0x03 [(32, 2, n), (36, 4, s1.ctr 0x6000 n 2), (40, 8, s1.ctr 0x6040 _ 0)]
        exact ⟨s1.counters, s1.bumped, rings, h.trans rfl⟩
      · exact ⟨s1.counters, s1.bumped, s1.rings, rfl⟩

theorem Dev.lateBeat_of_early {s : Dev} {n k : Nat} (hlot : s.lotOf (n / 4) = some k) (h : s.now ≤ (s.lot k).nextBeat - 8) :
    s.lateBeat n = s := by
  unfold Dev.lateBeat
  rw [hlot]
  exact if_pos (.inr h)

theorem Dev.ctr_lateBeat_of_late {s : Dev} {n k : Nat} (hlot : s.lotOf (n / 4) = some k) (hkind : (s.lot k).front.kind = 1)
    (h : (s.lot k).nextBeat - 8 < s.now) : (s.lateBeat n).ctr 0x6000 n 2 = min (s.ctr 0x6000 n 2 + 1) (2 ^ 48 - 1) := by
  unfold Dev.lateBeat
  rw [hlot]
  dsimp only
  rw [if_neg fun h' => h'.elim (fun h' => h' hkind) fun h' => by omega]
  refine (iff_keeps (fun s : Dev => s.ctr 0x6000 n 2) (fun t => ?_) _ (s.bump 0x6000 n 2)).trans (s.ctr_bump 0x6000 n 2 1)
  obtain ⟨_, h⟩ := t.ctxEvent_frame (s.lot k).front.ctx 0x03 [(32, 2, n), (36, 4, t.ctr 0x6000 n 2), (40, 8, t.ctr 0x6040 k 0)]
  rw [h]
  rfl

theorem epiIssue_of_free {isProg : Bool} {n pc w : Nat} {s : Dev} (hpend : (s.stall n).pendEpi = none)
    (hmode : rmodeBad (epiOrder w).rmode = false) : epiIssue isProg n pc w s =
      s.modStall n fun x => { x with pendEpi := some (epiCopy (s.shelf (n / 4)) isProg pc w) } :=
  if_neg (by rw [hpend, hmode]; exact Bool.false_ne_true)

/-- A Stall has gone on and reports ready in this cycle (R89). -/
def Dev.readyAt (s : Dev) (n : Nat) : Dev := (s.stepped n).modStall n fun x => { x with ready := true, readyAt := s.now }

theorem Dev.stall_readyAt (s : Dev) (n m : Nat) : (s.readyAt n).stall m =
    if m = n then { (s.stall n).advance s.now with ready := true, readyAt := s.now } else s.stall m := by
  unfold Dev.readyAt
  by_cases h : m = n
  · rw [if_pos h, h, Dev.stall_modStall, Dev.stall_stepped]
  · rw [if_neg h, Dev.stall_modStall_other _ _ _ _ h, Dev.stepped, Dev.stall_modStall_other _ _ _ _ h]

theorem waitBeat_of_idle {s : Dev} {n : Nat} (hmay : s.mayIssue n 0x70 = true) (hidle : (s.stall n).jobs = []) :
    waitBeat n s = (s.readyAt n).lateBeat n := by
  refine Dev.issue_of_idle hmay (List.isEmpty_iff.mpr hidle) ?_
  obtain ⟨_, _, _, h⟩ := (s.readyAt n).lateBeat_frame n
  show (((s.readyAt n).lateBeat n).stall n).jobs = []
  rw [h]
  show ((s.readyAt n).stall n).jobs = []
  rw [Dev.stall_readyAt, if_pos rfl]
  exact hidle

/-- The effect of a command on Stall n, where it is known. -/
theorem exec_of_stall {i : Instr} {s : State} {n : Nat} {f : Dev → Dev} {g : Dev} (hexec : exec i s = s.actOn (decide (n < 2304)) f)
    (hn : n < 2304) (hf : f s.dev = g) : exec i s = .next { s with dev := { g with now := s.dev.now } } :=
  exec_of_actOn hexec (decide_eq_true hn) hf

/-- Settles O16: each order's effect on an idle Stall, by `Dev.issue_of_idle`. -/
theorem ordersDoneAtIssue : Obligations.OrdersDoneAtIssue := by
  refine ⟨?orders, fun n s h => ?waitBeat⟩
  case orders =>
    intro n s d pc w
    refine ⟨fun h => ?nop, fun h => ?waitIdle, fun h => ?loop, fun h => ?endOrder, fun h hpend hmode => ?epi, fun h hpend hmode => ?epiProg,
      fun h => ?ring, fun h hset => ?wait, fun h => ?remote⟩
    case nop =>
      obtain ⟨hn, hmay, hidle⟩ := h
      exact exec_of_stall (f := nop n) rfl hn (Dev.issue_of_idle hmay rfl ((Dev.jobs_stepped _ n).trans hidle))
    case waitIdle =>
      obtain ⟨hn, hmay, hidle⟩ := h
      exact exec_of_stall (f := waitIdle n) rfl hn
        (Dev.issue_of_idle hmay (List.isEmpty_iff.mpr hidle) ((Dev.jobs_stepped _ n).trans hidle))
    case loop =>
      obtain ⟨hn, hmay, hidle⟩ := h
      exact exec_of_stall (f := loop n) rfl hn
        (Dev.issue_of_idle hmay rfl (Dev.jobs_modStall_of_idle ((Dev.jobs_stepped _ n).trans hidle) fun _ => rfl))
    case endOrder =>
      obtain ⟨hn, hmay, hidle⟩ := h
      exact exec_of_stall (f := endOrder n) rfl hn
        (Dev.issue_of_idle hmay rfl (Dev.jobs_modStall_of_idle ((Dev.jobs_stepped _ n).trans hidle) fun _ => rfl))
    case epi =>
      obtain ⟨hn, hmay, hidle⟩ := h
      have hf := epiIssue_of_free (isProg := false) (pc := pc) (s := d) ((congrArg Stall.pendEpi (Dev.stall_stepped _ n)).trans hpend) hmode
      exact exec_of_stall (f := epi n) rfl hn ((Dev.issue_of_idle hmay rfl
        (by rw [hf]; exact Dev.jobs_modStall_of_idle ((Dev.jobs_stepped _ n).trans hidle) fun _ => rfl)).trans hf)
    case epiProg =>
      obtain ⟨hn, hmay, hidle⟩ := h
      have hf := epiIssue_of_free (isProg := true) (pc := pc) (s := d) ((congrArg Stall.pendEpi (Dev.stall_stepped _ n)).trans hpend) hmode
      exact exec_of_stall (f := epiProg n) rfl hn ((Dev.issue_of_idle hmay rfl
        (by rw [hf]; exact Dev.jobs_modStall_of_idle ((Dev.jobs_stepped _ n).trans hidle) fun _ => rfl)).trans hf)
    case ring =>
      obtain ⟨hn, hmay, hidle⟩ := h
      exact exec_of_stall (f := bellRing n) rfl hn (Dev.issue_of_idle hmay rfl ((Dev.jobs_stepped _ n).trans hidle))
    case wait =>
      obtain ⟨hn, hmay, hidle⟩ := h
      exact exec_of_stall (f := bellWait n) rfl hn
        (Dev.issue_of_idle hmay hset (Dev.jobs_modStall_of_idle ((Dev.jobs_stepped _ n).trans hidle) fun _ => rfl))
    case remote =>
      intro pkt
      obtain ⟨hn, hmay, hidle⟩ := h
      have hidle' : (d.stall n).jobs = [] := (Dev.jobs_stepped _ n).trans hidle
      by_cases hown : bellDev w = s.dev.elveel.devnum
      · have hf : (if bellDev w = d.elveel.devnum then d.ringLine (bellLine w) else d.request pkt .none) = d.ringLine (bellLine w) :=
          if_pos hown
        rw [if_pos hown]
        exact exec_of_stall (f := bellRemote n) rfl hn ((Dev.issue_of_idle hmay rfl (by
          refine (congrArg (fun d : Dev => (d.stall n).jobs) hf).trans ?_
          exact hidle')).trans hf)
      · have hf : (if bellDev w = d.elveel.devnum then d.ringLine (bellLine w) else d.request pkt .none) = d.request pkt .none :=
          if_neg hown
        rw [if_neg hown]
        exact exec_of_stall (f := bellRemote n) rfl hn ((Dev.issue_of_idle hmay rfl (by
          refine (congrArg (fun d : Dev => (d.stall n).jobs) hf).trans ?_
          exact hidle')).trans hf)
  case waitBeat =>
    obtain ⟨hn, hmay, hidle⟩ := h
    have hwait := waitBeat_of_idle hmay hidle
    have hstall := fun m => s.dev.stall_readyAt n m
    generalize hd : s.dev.readyAt n = d at hwait hstall
    obtain ⟨counters, bumped, rings, hframe⟩ := d.lateBeat_frame n
    have hlots : d.lots = s.dev.lots ∧ d.now = s.dev.now ∧ d.ctr 0x6000 n 2 = s.dev.ctr 0x6000 n 2 := by rw [← hd]; exact ⟨rfl, rfl, rfl⟩
    obtain ⟨hlots, hnow, hctr⟩ := hlots
    refine ⟨_, exec_of_stall (f := waitBeat n) rfl hn hwait, ?_, fun m hm => ?_, fun k hlot hkind => ⟨fun hlate => ?_, fun hearly => ?_⟩⟩
    · show (d.lateBeat n).stall n = _
      rw [hframe]
      exact (hstall n).trans (if_pos rfl)
    · show (d.lateBeat n).stall m = _
      rw [hframe]
      exact (hstall m).trans (if_neg hm)
    · have hlot' : d.lotOf (n / 4) = some k := by rw [← hlot, Dev.lotOf, hlots, ← Dev.lotOf]
      have hk : d.lot k = s.dev.lot k := by rw [Dev.lot, hlots, ← Dev.lot]
      show (d.lateBeat n).ctr 0x6000 n 2 = _
      rw [Dev.ctr_lateBeat_of_late hlot' (by rw [hk]; exact hkind) (by rw [hk, hnow]; exact hlate), hctr]
    · have hlot' : d.lotOf (n / 4) = some k := by rw [← hlot, Dev.lotOf, hlots, ← Dev.lotOf]
      have hk : d.lot k = s.dev.lot k := by rw [Dev.lot, hlots, ← Dev.lot]
      dsimp only
      rw [Dev.lateBeat_of_early hlot' (by rw [hk, hnow]; exact hearly), ← hd]
      rfl

/-! ### Orders for an engine (R65, R75 to R88) -/

/-- An order for an engine with room in its queue, whose effect is one job. -/
theorem exec_of_queued {i : Instr} {s : State} {n op : Nat} {room : Stall → Nat → Bool} {f : Nat → Nat → Dev → Dev} {j : Job}
    (hexec : exec i s = s.actOn (decide (n < 2304)) fun d => d.issue n op room f) (hn : n < 2304) (hmay : s.dev.mayIssue n op = true)
    (hroom : room (s.dev.stall n) (s.dev.orderAt n) = true)
    (hf : f (s.dev.stall n).pc (s.dev.orderAt n) (s.dev.stepped n) = (s.dev.stepped n).newJob n j) :
    exec i s = .next { s with dev := { ((s.dev.stepped n).newJob n j).kick n with now := s.dev.now } } :=
  exec_of_stall hexec hn ((Dev.issue_of_room hmay hroom).trans (congrArg (fun d : Dev => d.kick n) hf))

theorem vecIssue_of_sound {isProg : Bool} {n pc w : Nat} {s : Dev} (h : rmodeBad (vecOrder w).rmode = false) : vecIssue isProg n pc w s =
    s.newJob n { eng := .vector, op := if isProg then .vecProg else .vec, word := BitVec.ofNat 64 w, pc := pc
                 desc := (s.shelf (n / 4)).cfgLines (vecOrder w).desc 3
                 prog := if isProg then (s.shelf (n / 4)).cfgLines (vdesc ((s.shelf (n / 4)).cfgLines (vecOrder w).desc 3)).prog 7 else []
                 rd := (vecTiles (vecOrder w) (vdesc ((s.shelf (n / 4)).cfgLines (vecOrder w).desc 3))).1
                 wr := (vecTiles (vecOrder w) (vdesc ((s.shelf (n / 4)).cfgLines (vecOrder w).desc 3))).2 } := by
  unfold vecIssue
  exact if_neg (by rw [h]; exact Bool.false_ne_true)

theorem movIssue_of_sound {op : JobOp} {n pc w : Nat} {s : Dev} (h : (movOrder w).fmt ≠ 0xF) : movIssue op n pc w s =
    s.newJob n { eng := .move, op := op, word := BitVec.ofNat 64 w, pc := pc
                 rd := if op = .movSt then (movOrder w).tiles else [], wr := if op = .movLd then (movOrder w).tiles else [] } :=
  if_neg h

theorem mmaIssue_of_plain {n pc w : Nat} {s : Dev} (hepi : (mmaOp w).epi = false) (ha : (mmaOp w).afmt ≠ 0xF) (hb : (mmaOp w).bfmt ≠ 0xF) :
    mmaIssue n pc w s = s.newJob n { eng := .matrix, op := .mma, word := BitVec.ofNat 64 w, pc := pc, rdAbc := (mmaOp w).abc
                                     wr := (mmaOp w).dTiles } := by
  unfold mmaIssue
  exact (if_neg fun h => h.elim ha hb).trans (if_pos (by rw [hepi]; rfl))

/-- The jobs of an MMA with an epilogue (R124, R133), before the engines go on. -/
def Dev.mmaJobs (d : Dev) (n pc w : Nat) (e : PendEpi) (uses : Nat × Nat) (ticket : Nat) (cyclic : Bool) : Dev :=
  let base : Job := { word := BitVec.ofNat 64 w, pc := pc, epi := some e, useU := uses.1, useB := uses.2
                      link := ticket + if e.hasPro then 1 else 0 }
  let d := d.modStall n fun x => { x with
    pendEpi := none, uses := x.uses.set e.line (if e.nuse ≤ uses.1 then (0, uses.2 + 1) else (uses.1 + 1, uses.2)) }
  let d := if e.hasPro then d.newJob n { base with
    eng := .vector, op := .prologue, rd := [(mmaOp w).at_, e.aux1, e.aux2], wr := [(mmaOp w).at_] } else d
  let d := d.newJob n { base with eng := .matrix, op := .mma, rd := [e.aux1, e.aux2], rdAbc := (mmaOp w).abc
                                  wr := (mmaOp w).dTiles ++ if e.isProg then [] else xtTiles e.words }
  if e.isProg || !cyclic then d.newJob n { base with eng := .vector, op := .epiPasses } else d

theorem mmaIssue_of_epi {n pc w : Nat} {s : Dev} {e : PendEpi} (hepi : (mmaOp w).epi = true) (ha : (mmaOp w).afmt ≠ 0xF)
    (hb : (mmaOp w).bfmt ≠ 0xF) (hpend : (s.stall n).pendEpi = some e) {uses : Nat × Nat} (huses : (s.stall n).uses.get e.line = uses)
    {ticket : Nat} (hticket : (s.stall n).ticket = ticket) :
    mmaIssue n pc w s = s.mmaJobs n pc w e uses ticket (s.stallCfg n).cyclic := by
  subst huses hticket
  unfold mmaIssue
  extract_lets -underBinder o st word
  rw [if_neg fun h => h.elim ha hb, if_neg (by rw [show o.epi = true from hepi]; decide)]
  rw [show st.pendEpi = some e from hpend]
  dsimp only
  have hlink : st.ticket + b2n e.hasPro = st.ticket + if e.hasPro then 1 else 0 := by cases e.hasPro <;> rfl
  rw [hlink]
  unfold Dev.mmaJobs PendEpi.onVector
  cases e.hasPro
  · rfl
  · rfl

/-- Settles O17. -/
theorem ordersEnterTheirQueue : Obligations.OrdersEnterTheirQueue := by
  intro n s hn d w queued
  refine ⟨fun hmay hroom hepi ha hb => ?mma, fun e hmay hroom hepi ha hb hpend hvec => ?mmaEpi, fun hmay hroom hmode => ?vec,
    fun hmay hroom hmode => ?vecProg, fun hmay hroom hfmt => ?movLd, fun hmay hroom hfmt => ?movSt, fun hmay hroom => ?movZero,
    fun hmay hroom => ?movTt, fun hmay hroom => ?send, fun hmay hroom hready => ?recv⟩
  case mma =>
    refine exec_of_stall (f := mma n) rfl hn ((Dev.issue_of_room hmay ?_).trans
      (congrArg (fun d : Dev => d.kick n) (mmaIssue_of_plain hepi ha hb)))
    have hentries : s.dev.mmaEntries n w = 0 := if_neg (by rw [hepi]; exact Bool.false_ne_true)
    rw [decide_eq_true hroom, hentries]
    exact decide_eq_true (Nat.zero_le ((s.dev.stall n).room .vector))
  case mmaEpi =>
    intro uses base d1 d2 d3 d4
    have hst := Dev.stall_stepped s.dev n
    have hissue : mmaIssue n (s.dev.stall n).pc w d = d4 := mmaIssue_of_epi hepi ha hb ((congrArg Stall.pendEpi hst).trans hpend)
      ((congrArg (fun st : Stall => st.uses.get e.line) hst).trans rfl) ((congrArg Stall.ticket hst).trans rfl)
    refine exec_of_stall (f := mma n) rfl hn ((Dev.issue_of_room hmay ?_).trans (congrArg (fun d : Dev => d.kick n) hissue))
    rw [decide_eq_true hroom]
    exact decide_eq_true hvec
  case vec =>
    exact exec_of_queued (f := vecIssue false n) rfl hn hmay (decide_eq_true hroom) (vecIssue_of_sound hmode)
  case vecProg =>
    exact exec_of_queued (f := vecIssue true n) rfl hn hmay (decide_eq_true hroom) (vecIssue_of_sound hmode)
  case movLd => exact exec_of_queued (f := movIssue .movLd n) rfl hn hmay (decide_eq_true hroom) (movIssue_of_sound hfmt)
  case movSt => exact exec_of_queued (f := movIssue .movSt n) rfl hn hmay (decide_eq_true hroom) (movIssue_of_sound hfmt)
  case movZero => exact exec_of_queued rfl hn hmay (decide_eq_true hroom) rfl
  case movTt => exact exec_of_queued rfl hn hmay (decide_eq_true hroom) rfl
  case send => exact exec_of_queued rfl hn hmay (decide_eq_true hroom) rfl
  case recv =>
    refine exec_of_queued (f := fun pc w d => d.newJob n _) rfl hn hmay ?_ rfl
    exact Bool.and_eq_true_iff.mpr ⟨decide_eq_true hroom, hready⟩

/-! ### Orders that may not issue (R40, R65, R70, R80, R92) -/

/-- A command whose order is not at the PC or is held, or whose queue is full, changes nothing. -/
theorem exec_of_unissued {i : Instr} {s : State} {n op : Nat} {room : Stall → Nat → Bool} {f : Nat → Nat → Dev → Dev} {full : Prop}
    (hexec : exec i s = s.actOn (decide (n < 2304)) fun d => d.issue n op room f) (hn : n < 2304)
    (hfull : full → room (s.dev.stall n) (s.dev.orderAt n) = false) :
    (s.dev.mayIssue n op = false → exec i s = .next s) ∧ (full → exec i s = .next s) :=
  ⟨fun h => (exec_of_stall hexec hn (Dev.issue_of_held h)).trans rfl, fun h => (exec_of_stall hexec hn (Dev.issue_of_full (hfull h))).trans rfl⟩

/-- An order that is illegal at run time. -/
theorem exec_of_illegal {i : Instr} {s : State} {n op : Nat} {room : Stall → Nat → Bool} {f : Nat → Nat → Dev → Dev}
    (hexec : exec i s = s.actOn (decide (n < 2304)) fun d => d.issue n op room f) (hn : n < 2304) (hmay : s.dev.mayIssue n op = true)
    (hroom : room (s.dev.stall n) (s.dev.orderAt n) = true)
    (hf : f (s.dev.stall n).pc (s.dev.orderAt n) (s.dev.stepped n) = (s.dev.stepped n).illegal n (s.dev.stall n).pc) :
    exec i s = .next { s with dev :=
      { ((s.dev.stepped n).faultStall n 0x0001 (s.dev.stall n).pc).kick n with now := s.dev.now } } :=
  exec_of_stall hexec hn ((Dev.issue_of_room hmay hroom).trans (congrArg (fun d : Dev => d.kick n) hf))

theorem mmaIssue_of_bad {n pc w : Nat} {s : Dev}
    (h : (mmaOp w).afmt = 0xF ∨ (mmaOp w).bfmt = 0xF ∨ (mmaOp w).epi = true ∧ (s.stall n).pendEpi = none) :
    mmaIssue n pc w s = s.illegal n pc := by
  unfold mmaIssue
  extract_lets -underBinder o st word
  by_cases hfmt : o.afmt = 0xF ∨ o.bfmt = 0xF
  · exact if_pos hfmt
  · rw [if_neg hfmt]
    obtain ⟨hepi, hpend⟩ := (or_assoc.mpr h).resolve_left hfmt
    rw [if_neg (by rw [show o.epi = true from hepi]; decide), show st.pendEpi = none from hpend]

theorem vecIssue_of_bad {isProg : Bool} {n pc w : Nat} {s : Dev} (h : rmodeBad (vecOrder w).rmode = true) :
    vecIssue isProg n pc w s = s.illegal n pc := by
  unfold vecIssue
  exact if_pos h

theorem epiIssue_of_bad {isProg : Bool} {n pc w : Nat} {s : Dev}
    (h : (s.stall n).pendEpi.isSome = true ∨ rmodeBad (epiOrder w).rmode = true) : epiIssue isProg n pc w s = s.illegal n pc :=
  if_pos (by rw [Bool.or_eq_true]; exact h)

/-- Settles O18. -/
theorem ordersThatMayNotIssue : Obligations.OrdersThatMayNotIssue := by
  refine ⟨fun n s hn => ?unissued, fun n c s h => ?illegal⟩
  case unissued =>
    have hfull : ∀ {e : Eng}, (s.dev.stall n).room e = 0 → decide (1 ≤ (s.dev.stall n).room e) = false := fun h => by rw [h]; rfl
    simp only [List.forall_mem_cons, List.not_mem_nil, false_imp_iff, implies_true, and_true]
    refine ⟨?mma, ?vec, ?vecProg, ?epi, ?epiProg, ?movLd, ?movSt, ?movZero, ?movTt, ?send, ?recv, ?waitBeat, ?waitIdle, ?loop, ?endOrder,
      ?nop, ?ring, ?wait, ?remote⟩
    case mma => exact exec_of_unissued rfl hn fun h => by rw [hfull (by simpa using h)]; rfl
    case vec => exact exec_of_unissued rfl hn fun h => hfull (by simpa using h)
    case vecProg => exact exec_of_unissued rfl hn fun h => hfull (by simpa using h)
    case movLd => exact exec_of_unissued rfl hn fun h => hfull (by simpa using h)
    case movSt => exact exec_of_unissued rfl hn fun h => hfull (by simpa using h)
    case movZero => exact exec_of_unissued rfl hn fun h => hfull (by simpa using h)
    case movTt => exact exec_of_unissued rfl hn fun h => hfull (by simpa using h)
    case send => exact exec_of_unissued rfl hn fun h => hfull (by simpa using h)
    case recv => exact exec_of_unissued rfl hn fun h => by rw [hfull (by simpa using h)]; rfl
    all_goals exact exec_of_unissued rfl hn fun h => absurd h (by simp)
  case illegal =>
    intro w illegal
    have hn := h.1
    have hst := Dev.stall_stepped s.dev n
    have hpend : ((s.dev.stepped n).stall n).pendEpi = (s.dev.stall n).pendEpi := by rw [hst]; rfl
    refine ⟨fun hmay hroom hvec hbad => ?badMma, fun hmay hroom hmode => ?badVec, fun hmay hroom hmode => ?badVecProg,
      fun hmay hbad => ?badEpi, fun hmay hbad => ?badEpiProg, fun hmay hroom hfmt => ?badLd, fun hmay hroom hfmt => ?badSt, ?fault⟩
    case badMma =>
      refine exec_of_stall (f := mma n) rfl hn ((Dev.issue_of_room hmay ?_).trans
        (congrArg (fun d : Dev => d.kick n) (mmaIssue_of_bad (by rwa [hpend]))))
      rw [decide_eq_true hroom]
      exact decide_eq_true hvec
    case badVec => exact exec_of_illegal (f := vecIssue false n) rfl hn hmay (decide_eq_true hroom) (vecIssue_of_bad hmode)
    case badVecProg => exact exec_of_illegal (f := vecIssue true n) rfl hn hmay (decide_eq_true hroom) (vecIssue_of_bad hmode)
    case badEpi => exact exec_of_illegal (f := epiIssue false n) rfl hn hmay rfl (epiIssue_of_bad (by rwa [hpend]))
    case badEpiProg => exact exec_of_illegal (f := epiIssue true n) rfl hn hmay rfl (epiIssue_of_bad (by rwa [hpend]))
    case badLd => exact exec_of_illegal (f := movIssue .movLd n) rfl hn hmay (decide_eq_true hroom) (if_pos hfmt)
    case badSt => exact exec_of_illegal (f := movIssue .movSt n) rfl hn hmay (decide_eq_true hroom) (if_pos hfmt)
    case fault => exact Dev.hasFaulted_faultStall_of_worksFor (s := s.dev.stepped n) h 0x0001 _ _

/-! ### Completions (R77, R81, R120, R132, R198) -/

/-- A completion whose first due job is j. -/
theorem exec_of_complete {i : Instr} {s : State} {n : Nat} {p : Job → Bool} {f : Job → Dev → Dev} {j : Job} {g : Dev}
    (hexec : exec i s = s.actOn (decide (n < 2304)) fun d => d.complete n p f) (hn : n < 2304)
    (hj : (s.dev.stall n).jobs.find? p = some j) (hf : f j s.dev = g) :
    exec i s = .next { s with dev := { g.kick n with now := s.dev.now } } := by
  refine exec_of_stall hexec hn ?_
  rw [Dev.complete, hj, ← hf]

/-- Settles O19. -/
theorem completionsWriteTheirTiles : Obligations.CompletionsWriteTheirTiles := by
  intro n j s hn js due on
  refine ⟨fun hj => ⟨fun hepi => ?plain, fun e hepi => ?staged⟩, fun ok hj hok => ?launch, fun ok hj hok m hm => ?epilogue, fun hj => ?move,
    fun hj => ?send⟩
  case plain =>
    refine exec_of_complete (f := drainJob n true) rfl hn hj ?_
    unfold drainJob
    rw [if_neg (by decide), hepi]
  case staged =>
    refine exec_of_complete (f := drainJob n true) rfl hn hj ?_
    unfold drainJob
    rw [if_neg (by decide), hepi]
    rfl
  case launch =>
    refine exec_of_complete (f := launchJob n ok) rfl hn hj (if_neg ?_)
    rcases hok with h | h
    · rw [h]; exact Bool.false_ne_true
    · rw [h, Bool.and_false]; exact Bool.false_ne_true
  case epilogue =>
    refine exec_of_complete (f := epiJob n ok) rfl hn hj ((if_neg ?_).trans ?_)
    · rcases hok with h | h
      · rw [h]; exact Bool.false_ne_true
      · rw [h, Bool.and_false]; exact Bool.false_ne_true
    · rw [hm]
      rfl
  case move => exact exec_of_complete rfl hn hj rfl
  case send => exact exec_of_complete rfl hn hj rfl

end Sys2Proof.Machine

/-! ## The grants of a Chest and its waits (R104, R154, R158, R160, R162, R164 to R171, R175)

A read that is granted changes the units of its Chest alone before its row is delivered. A cycle of grants goes over the ports in turn; a port
with nothing pending passes the device on, so that with one request pending the cycle is that request's grant. -/
namespace Sys2Proof.Machine
open Sys2Proof

/-! ### Violations of every kind -/

section Violation
variable (s : Dev) (c row port kind sexp : Nat)

/-- Noting a violation changes the Chests and the counters alone. -/
theorem Dev.noteViolation_frame : ∃ chests counters bumped,
    (s.noteViolation c row port kind sexp).2 = { s with chests := chests, counters := counters, bumped := bumped } := by
  obtain ⟨_, h⟩ := s.latchViolation_frame c (s.noteViolation c row port kind sexp).1
  rw [Dev.noteViolation_snd, h]
  dsimp only
  split
  · exact ⟨_, _, _, rfl⟩
  · split
    · exact ⟨_, _, _, rfl⟩
    · exact ⟨_, _, _, rfl⟩

theorem Dev.mem_noteViolation : (s.noteViolation c row port kind sexp).2.mem = s.mem := by
  obtain ⟨_, _, _, h⟩ := s.noteViolation_frame c row port kind sexp
  rw [h]

theorem Dev.isLenient_noteViolation (q : Nat) : (s.noteViolation c row port kind sexp).2.isLenient c q = s.isLenient c q := by
  obtain ⟨_, _, _, h⟩ := s.noteViolation_frame c row port kind sexp
  rw [h]
  rfl

theorem Dev.stat_noteViolation_mismatch : ((s.noteViolation c row port 0 sexp).2.chest c).stat = (s.chest c).stat := by
  rw [Dev.noteViolation_snd]
  simp only [if_true, Dev.chest, Dev.bump_chests]
  exact (congrArg Chest.stat (s.chest_latchViolation c _)).trans rfl

theorem Dev.ctr_noteViolation_mismatch :
    (s.noteViolation c row port 0 sexp).2.ctr 0x6020 c 0 = min (s.ctr 0x6020 c 0 + 1) (2 ^ 48 - 1) := by
  obtain ⟨_, h⟩ := s.latchViolation_frame c (s.noteViolation c row port 0 sexp).1
  rw [Dev.noteViolation_snd, h]
  exact Dev.ctr_bump _ 0x6020 c 0 1

end Violation

/-! ### The grant of a read (R156, R166) -/

/-- A granted read, entered in its units. -/
def Dev.readUnits (s : Dev) (c : Nat) (r : RowReq) : Dev :=
  s.modChest c fun x => { x with units := (r.unit :: r.also.toList).foldl (fun t u =>
    t.mod u fun y => y.granted r.row s.now true) x.units }

theorem Dev.sameButUnits_readUnits (s : Dev) (c : Nat) (r : RowReq) : s.SameButUnits c (s.readUnits c r) :=
  ⟨⟨_, rfl⟩, _, s.chest_modChest c _⟩

theorem Dev.perform_read (s : Dev) (c : Nat) (r : RowReq) (stamp : Option Nat) (hold : Bool) (h : r.isWrite = false) :
    s.perform c r stamp hold = (s.readUnits c r).deliver r (s.rowData c r.row) := by
  simp only [Dev.perform, h, Bool.false_eq_true, if_false, Bool.not_false]
  rfl

/-- Two stamps that differ are a violation, which a lenient context survives (R169, R171). -/
def Dev.readMismatch (s : Dev) (c port : Nat) (r : RowReq) (e pc : Nat) : Grant :=
  let (v, s) := s.noteViolation c r.row port 0 e
  if s.isLenient c r.row then .done (s.perform c r none false)
  else .done ((s.violationFault c r pc v).rejectReq r stStampMismatch)

/-- The device once the stamps of a request are fixed, as the grant writes it. -/
theorem Dev.fixStamps_eq (d : Dev) (c : Nat) (r : RowReq) : d.fixStamps c r = match r.also with
    | some a => (d.fixStamp c r.unit (d.reqStamp c r)).fixStamp c a (r.also.bind fun a => d.unitStamp c a)
    | none => d.fixStamp c r.unit (d.reqStamp c r) := by
  unfold Dev.fixStamps
  cases r.also with
  | none => rfl
  | some a => rfl

theorem Dev.reqStamp_of_unstamped (d : Dev) (c : Nat) (r : RowReq) (h : ((d.chest c).units.get r.unit).stamped = false) :
    d.reqStamp c r = none := by simp [Dev.reqStamp, Dev.unitStamp, h]

section Grant
variable (d : Dev) (c port : Nat) (r : RowReq)

/-- One stamped read that meets no double-bit error, over the device whose stamps are fixed. -/
theorem Dev.grantOne_stampedRead {e : Nat} (hw : r.isWrite = false) (hs : ((d.chest c).units.get r.unit).stamped = true)
    (he : d.reqStamp c r = some e) (hue : d.meetsUe c r true = false) :
    d.grantOne c port r =
      if ((d.chest c).stat.get r.row).stamp = e ∧ (r.also.bind fun a => d.unitStamp c a).getD e = ((d.chest c).stat.get r.row).stamp then
        .done ((d.fixStamps c r).perform c r none false)
      else (d.fixStamps c r).readMismatch c port r (if ((d.chest c).stat.get r.row).stamp = e then
        (r.also.bind fun a => d.unitStamp c a).getD e else e) ((d.chest c).units.get r.unit).pc := by
  have hfix := d.sameButUnits_fixStamps c r
  have hue' : (d.fixStamps c r).meetsUe c r true = false := by rw [hfix.meetsUe, hue]
  have hstat := hfix.stat
  cases ha : r.also with
  | none =>
    have hg : d.fixStamp c r.unit (some e) = d.fixStamps c r := by simp only [Dev.fixStamps, ha, he]
    simp [Dev.grantOne, Dev.iff, hs, hw, he, ha, hg, hue', hstat, Dev.readMismatch]
  | some a =>
    have hg : (d.fixStamp c r.unit (some e)).fixStamp c a (d.unitStamp c a) = d.fixStamps c r := by simp only [Dev.fixStamps, ha, he]
    simp [Dev.grantOne, Dev.iff, hs, hw, he, ha, hg, hue', hstat, Dev.readMismatch]

/-- An unstamped read that meets no double-bit error is not compared (R167). -/
theorem Dev.grantOne_plainRead (hw : r.isWrite = false) (hs : ((d.chest c).units.get r.unit).stamped = false)
    (hue : d.meetsUe c r false = false) : d.grantOne c port r = .done ((d.fixStamps c r).perform c r none false) := by
  have hue' : (d.fixStamps c r).meetsUe c r false = false := by rw [(d.sameButUnits_fixStamps c r).meetsUe, hue]
  have he := d.reqStamp_of_unstamped c r hs
  cases ha : r.also with
  | none =>
    have hg : d = d.fixStamps c r := by simp [Dev.fixStamps, ha, he, Dev.fixStamp, Dev.iff]
    rw [← hg] at hue' ⊢
    simp [Dev.grantOne, Dev.iff, hs, hw, he, ha, hue']
  | some a =>
    have hg : d.fixStamp c a (d.unitStamp c a) = d.fixStamps c r := by simp [Dev.fixStamps, ha, he, Dev.fixStamp, Dev.iff]
    simp [Dev.grantOne, Dev.iff, hs, hw, he, ha, hg, hue']

/-- The stamp that an unstamped CWR write takes (R167). -/
def Dev.dstamp (d : Dev) (c : Nat) : Nat := bits ((d.shelf (c / 4)).cfg.get (c % 4)).toNat 23 20

theorem Dev.grantOne_plainWrite_zero (hw : r.isWrite = true) (hs : ((d.chest c).units.get r.unit).stamped = false)
    (hz : d.dstamp c = 0) : d.grantOne c pCwr r = .done ((d.fixStamps c r).rejectReq r stStampRequired) := by
  have he := d.reqStamp_of_unstamped c r hs
  unfold Dev.dstamp at hz
  cases ha : r.also with
  | none =>
    have hg : d = d.fixStamps c r := by simp [Dev.fixStamps, ha, he, Dev.fixStamp, Dev.iff]
    rw [← hg]
    simp [Dev.grantOne, Dev.iff, hs, hw, ha, hz]
  | some a =>
    have hg : d.fixStamp c a (d.unitStamp c a) = d.fixStamps c r := by simp [Dev.fixStamps, ha, he, Dev.fixStamp, Dev.iff]
    simp [Dev.grantOne, Dev.iff, hs, hw, ha, hg, hz]

theorem Dev.grantOne_plainWrite (hw : r.isWrite = true) (hs : ((d.chest c).units.get r.unit).stamped = false)
    (hz : d.dstamp c ≠ 0) (hue : d.meetsUe c r true = false)
    (hfree : ((d.chest c).stat.get r.row).held = false ∨ ((d.chest c).stat.get r.row).stamp = d.dstamp c) :
    d.grantOne c pCwr r = .done ((d.fixStamps c r).perform c r (some (d.dstamp c)) false) := by
  have hfix := d.sameButUnits_fixStamps c r
  have hue' : (d.fixStamps c r).meetsUe c r true = false := by rw [hfix.meetsUe, hue]
  have hstat := hfix.stat
  have he := d.reqStamp_of_unstamped c r hs
  have hno : ((d.chest c).stat.get r.row).held = true → ((d.chest c).stat.get r.row).stamp = d.dstamp c := by
    intro h
    exact hfree.resolve_left (by rw [h]; decide)
  unfold Dev.dstamp at hz hno ⊢
  cases ha : r.also with
  | none =>
    have hg : d = d.fixStamps c r := by simp [Dev.fixStamps, ha, he, Dev.fixStamp, Dev.iff]
    rw [← hg] at hue' ⊢
    simp [Dev.grantOne, Dev.iff, hs, hw, ha, hue', hz]
    exact fun h h' => absurd (hno h) h'
  | some a =>
    have hg : d.fixStamp c a (d.unitStamp c a) = d.fixStamps c r := by simp [Dev.fixStamps, ha, he, Dev.fixStamp, Dev.iff]
    simp [Dev.grantOne, Dev.iff, hs, hw, ha, hg, hue', hstat, hz]
    exact fun h h' => absurd (hno h) h'

end Grant

/-- A read granted after steps that left the memory and the statuses as they were: its row is delivered, and nothing is stored. -/
theorem Dev.exists_deliver_of_read {d s : Dev} {c : Nat} {r : RowReq} (hmem : s.mem = d.mem) (hstat : (s.chest c).stat = (d.chest c).stat)
    (hw : r.isWrite = false) : s.perform c r none false = (s.readUnits c r).deliver r (d.rowData c r.row)
      ∧ (s.readUnits c r).mem = d.mem ∧ ((s.readUnits c r).chest c).stat = (d.chest c).stat := by
  have hunits := s.sameButUnits_readUnits c r
  exact ⟨by rw [s.perform_read c r _ _ hw, Dev.rowData_of_mem_eq hmem], hunits.mem.trans hmem, hunits.stat.trans hstat⟩

section Mismatch
variable {s : Dev} {c port : Nat} {r : RowReq} (e pc : Nat)

theorem Dev.readMismatch_of_strict (h : s.isLenient c r.row = false) : s.readMismatch c port r e pc =
    .done (((s.noteViolation c r.row port 0 e).2.violationFault c r pc (s.noteViolation c r.row port 0 e).1).rejectReq r
      stStampMismatch) := by
  simp [Dev.readMismatch, Dev.isLenient_noteViolation, h]

theorem Dev.readMismatch_of_lenient (h : s.isLenient c r.row = true) : s.readMismatch c port r e pc =
    .done ((s.noteViolation c r.row port 0 e).2.perform c r none false) := by
  simp [Dev.readMismatch, Dev.isLenient_noteViolation, h]

end Mismatch

/-- Settles O23: the equation of a stamped read, one case for each of its branches, and those of unstamped accesses. -/
theorem readsCompareTheStamp : Obligations.ReadsCompareTheStamp := by
  intro c p r d u stamp second x stays
  have hfix := d.sameButUnits_fixStamps c r
  refine ⟨fun hw hs hue => ?stamped, fun hs => ⟨fun hw hue => ?plainRead, fun hw hp => ?plainWrite⟩⟩
  case stamped =>
    have hgrant := d.grantOne_stampedRead c p r hw hs (d.reqStamp_of_stamped c r hs) hue
    refine ⟨fun hx hsecond => ?agrees, fun hne => ?mismatch⟩
    case agrees =>
      rw [if_pos ⟨hx, hsecond.trans hx.symm⟩] at hgrant
      obtain ⟨hperform, hstays⟩ := Dev.exists_deliver_of_read hfix.mem hfix.stat hw
      exact ⟨_, by rw [hgrant, hperform], hstays⟩
    case mismatch =>
      intro v
      rw [if_neg fun ⟨hx, hsecond⟩ => hne.elim (fun h => h hx) fun h => h (hsecond.trans hx)] at hgrant
      have hv : ((d.fixStamps c r).noteViolation c r.row p 0 (if x.stamp = stamp then second else stamp)).1 = v := by
        rw [Dev.noteViolation_fst, hfix.stat, hfix.time, hfix.beatB]
      have hcount := (d.fixStamps c r).ctr_noteViolation_mismatch c r.row p (if x.stamp = stamp then second else stamp)
      have hmem := ((d.fixStamps c r).mem_noteViolation c r.row p 0 (if x.stamp = stamp then second else stamp)).trans hfix.mem
      have hstat := ((d.fixStamps c r).stat_noteViolation_mismatch c r.row p (if x.stamp = stamp then second else stamp)).trans hfix.stat
      rw [hfix.ctr] at hcount
      refine ⟨fun hstrict => ?strict, fun hlenient => ?lenient⟩
      case strict =>
        rw [Dev.readMismatch_of_strict _ _ (by rw [hfix.isLenient, hstrict])] at hgrant
        exact ⟨_, hgrant.trans (by rw [← hv]), ⟨hmem, hstat⟩, hcount⟩
      case lenient =>
        rw [Dev.readMismatch_of_lenient _ _ (by rw [hfix.isLenient, hlenient])] at hgrant
        obtain ⟨hperform, hstays⟩ := Dev.exists_deliver_of_read hmem hstat hw
        exact ⟨_, hgrant.trans (congrArg Grant.done hperform), hstays, ((Dev.sameButUnits_readUnits _ c r).ctr ..).trans hcount⟩
  case plainRead =>
    obtain ⟨hperform, hstays⟩ := Dev.exists_deliver_of_read hfix.mem hfix.stat hw
    exact ⟨_, by rw [d.grantOne_plainRead c p r hw hs hue, hperform], hstays⟩
  case plainWrite =>
    intro ds
    subst hp
    refine ⟨fun hz => ⟨_, d.grantOne_plainWrite_zero c r hw hs hz, hfix.mem, hfix.stat⟩, fun hz hue hfree => ?_⟩
    obtain ⟨hdata, hrow, _⟩ := Dev.storesRow_storeRow hfix.mem hfix.stat r ds false
    refine ⟨_, (d.grantOne_plainWrite c r hw hs hz hue hfree).trans (congrArg Grant.done (Dev.perform_write _ _ _ _ _ hw)), hdata, ?_⟩
    exact hrow.trans (by rw [Bool.or_false])

/-! ### Waits that end in a fault (R160, R168) -/

/-- A held wait's violation is latched and counts with none (R170). -/
theorem Dev.noteViolation_wait (s : Dev) (c row port sexp : Nat) : (s.noteViolation c row port 2 sexp).2 =
    s.iff (!(s.chest c).latched) fun d => d.modChest c fun y =>
      { y with violation := (s.noteViolation c row port 2 sexp).1, latched := true } := rfl

theorem Dev.isLenient_popReq (s : Dev) (c port : Nat) (r : RowReq) (q : Nat) : (s.popReq c port r).isLenient c q = s.isLenient c q := rfl

/-- Settles O25: each wait's command, unfolded at its limit. -/
theorem chestWaitsEndInAFault : Obligations.ChestWaitsEndInAFault := by
  intro c p x r rest s hc hp u stamp
  refine ⟨fun since hsince hports hlimit => ?held, fun d v howner hsink => ?fault, fun hports hctx howns hlimit => ?starved⟩
  case held =>
    intro v d
    have hlen : d.isLenient c r.row = s.dev.isLenient c r.row := by
      have h := s.dev.isLenient_noteViolation c r.row pCwr 2 stamp r.row
      rwa [Dev.noteViolation_wait, ← Dev.isLenient_popReq _ c pCwr r] at h
    have hrun : heldWaitTimeout c s.dev = if d.isLenient c r.row then d.perform c r (some stamp) u.hold
        else (d.violationFault c r u.pc v).rejectReq r stHeldWait := by
      rw [heldWaitTimeout, hsince, hports]
      exact if_pos hlimit
    refine ⟨fun hstrict => exec_of_actOn (f := heldWaitTimeout c) rfl (decide_eq_true hc) ?_,
      fun hlenient => exec_of_actOn (f := heldWaitTimeout c) rfl (decide_eq_true hc) ?_⟩
    · rw [hrun, hlen, hstrict, if_neg Bool.false_ne_true]
    · rw [hrun, hlen, if_pos hlenient]
  case fault =>
    rw [Dev.violationFault, howner]
    dsimp only
    rw [show d.markPc r.sink x u.pc = d from ?_]
    unfold Dev.markPc
    split
    next n t k hk => exact absurd hk (hsink n t k).1
    next n t k hk => exact absurd hk (hsink n t k).2
    next => rfl
  case starved =>
    have hknown : (decide (c < 2304) && decide (p < 16)) = true := by simp [hc, hp]
    have hnone : ((List.range 16).any fun pos => s.dev.ownsCell c p (r.row % 16) pos) = false := by
      simpa using howns
    refine exec_of_actOn (f := slotStarved c p) rfl hknown ?_
    rw [slotStarved, hports]
    dsimp only
    rw [hctx]
    dsimp only
    refine if_neg ?_
    rw [hnone]
    simp only [Bool.false_or, decide_eq_true_eq, Nat.not_le]
    refine lt_of_eq_of_lt ?_ hlimit
    cases s.dev.lotOf (c / 4) with
    | none => rfl
    | some k => rfl

end Sys2Proof.Machine

/-! ## A cycle of grants with one request pending (R154, R158, R166, R175) -/
namespace Sys2Proof.Machine
open Sys2Proof

/-! ### Held bits are released (R166) -/

theorem Tab.get_foldl_mod {α : Type} [Inhabited α] [DecidableEq α] (f : α → α) (hf : ∀ v, f (f v) = f v) (rows : List Nat) (t : Tab α) (q : Nat) :
    (rows.foldl (fun t k => t.mod k f) t).get q = if rows.contains q then f (t.get q) else t.get q := by
  induction rows generalizing t with
  | nil => rfl
  | cons k rows ih =>
    rw [List.foldl_cons, ih, List.contains_cons]
    by_cases hk : q = k
    · subst hk
      simp [Tab.get_mod_same, hf]
    · simp [Tab.get_mod_other _ _ _ _ hk, hk]

/-- The units of a Chest that are done and whose last read was granted in an earlier cycle. -/
def Dev.pastUnits (s : Dev) (c : Nat) : Tab AccUnit :=
  (s.chest c).units.filter fun e => e.2.left == 0 && decide (e.2.lastRead < s.now)

/-- The rows whose held bits those units release. -/
def releasedRows (past : Tab AccUnit) : List Nat := (past.filter fun e => e.2.release).flatMap fun e => e.2.rowsRead

theorem contains_releasedRows (past : Tab AccUnit) (q : Nat) :
    (releasedRows past).contains q = past.any fun e => e.2.release && e.2.rowsRead.contains q := by
  rw [Bool.eq_iff_iff]
  simp only [releasedRows, List.contains_iff_mem, List.mem_flatMap, List.mem_filter, List.any_eq_true, Bool.and_eq_true]
  exact exists_congr fun e => and_assoc

/-- Releasing changes the units and the statuses of the one Chest. -/
theorem Dev.releaseHeld_eq (s : Dev) (c : Nat) : s.releaseHeld c =
    if (s.pastUnits c).isEmpty then s else s.modChest c fun x =>
      { x with units := x.units.filter fun e => !(e.2.left == 0 && decide (e.2.lastRead < s.now)),
               stat := (releasedRows (s.pastUnits c)).foldl (fun t q => t.mod q fun y => { y with held := false }) x.stat } := by
  unfold Dev.releaseHeld
  extract_lets x past rows
  unfold Dev.iff
  rw [show past = s.pastUnits c from rfl]
  cases List.isEmpty (s.pastUnits c) with
  | true => rfl
  | false => rfl

theorem Dev.stat_releaseHeld (s : Dev) (c q : Nat) : ((s.releaseHeld c).chest c).stat.get q =
    if (s.pastUnits c).any (fun e => e.2.release && e.2.rowsRead.contains q) then { (s.chest c).stat.get q with held := false }
    else (s.chest c).stat.get q := by
  rw [Dev.releaseHeld_eq]
  cases hpast : s.pastUnits c with
  | nil => rfl
  | cons e past =>
    rw [if_neg (show ¬ List.isEmpty (e :: past) = true from Bool.false_ne_true), Dev.chest_modChest, ← contains_releasedRows]
    exact Tab.get_foldl_mod (fun y : RowStat => { y with held := false }) (fun _ => rfl) _ _ q

theorem Dev.now_releaseHeld (s : Dev) (c : Nat) : (s.releaseHeld c).now = s.now := by
  rw [Dev.releaseHeld_eq]; split <;> rfl

theorem Dev.svcAt_releaseHeld (s : Dev) (c : Nat) : ((s.releaseHeld c).chest c).svcAt = (s.chest c).svcAt := by
  rw [Dev.releaseHeld_eq]
  split
  · rfl
  · rw [Dev.chest_modChest]

/-! ### The ports in turn (R154) -/

/-- The order in which the ports of a Chest are served. -/
def portOrder : List Nat := [10, 1, 2, 3, 4, 5, 6, 7, 8, 9]

theorem mem_portOrder {p : Nat} (h : p ∈ ([1, 2, 3, 4, 5, 6, 7, 8, 9, 10] : List Nat)) : p ∈ portOrder := by
  simp only [portOrder, List.mem_cons, List.not_mem_nil, or_false] at h ⊢
  omega

/-- One port's part of a cycle: the banks taken so far and the device go on to the next. -/
def portTurn (c pos : Nat) (acc : List Nat × Dev) (p : Nat) : List Nat × Dev := acc.2.portGrants c p pos (portWidth p) acc.1

theorem portWidth_eq (p : Nat) : ∃ n, portWidth p = n + 1 := by
  unfold portWidth
  split <;> exact ⟨_, rfl⟩

theorem Dev.portGrants_of_empty {s : Dev} {c p : Nat} (pos n : Nat) (taken : List Nat) (h : (s.chest c).ports.get p = []) :
    s.portGrants c p pos n taken = (taken, s) := by
  cases n with
  | zero => rfl
  | succ n => rw [Dev.portGrants, h]

theorem foldl_portTurn_of_empty {c : Nat} (pos : Nat) {acc : List Nat × Dev} {l : List Nat}
    (h : ∀ q ∈ l, (acc.2.chest c).ports.get q = []) : l.foldl (portTurn c pos) acc = acc := by
  induction l with
  | nil => rfl
  | cons q l ih =>
    rw [List.foldl_cons, portTurn, Dev.portGrants_of_empty _ _ _ (h q List.mem_cons_self)]
    exact ih fun q hq => h q (List.mem_cons_of_mem _ hq)

/-- With one port's requests pending, before and after, the cycle is that port's turn. -/
theorem foldl_portTurn {c p : Nat} (pos : Nat) {taken : List Nat} {d : Dev} (hp : p ∈ portOrder)
    (hother : ∀ q, q ≠ p → (d.chest c).ports.get q = []) {after : List Nat × Dev} (hturn : portTurn c pos (taken, d) p = after)
    (hafter : ∀ q, q ≠ p → (after.2.chest c).ports.get q = []) : portOrder.foldl (portTurn c pos) (taken, d) = after := by
  obtain ⟨l, m, hl⟩ := List.append_of_mem hp
  have hnodup : portOrder.Nodup := by decide
  rw [hl, List.nodup_append, List.nodup_cons] at hnodup
  obtain ⟨_, ⟨hm, _⟩, hlm⟩ := hnodup
  rw [hl, List.foldl_append, foldl_portTurn_of_empty pos fun q hq => hother q (hlm q hq p List.mem_cons_self), List.foldl_cons, hturn]
  exact foldl_portTurn_of_empty pos fun q hq => hafter q fun h => hm (h ▸ hq)

/-- The banks that are taken before the ports' turns: that of a tile's access in this cycle. -/
def Dev.takenFirst (s : Dev) (c : Nat) : List Nat := match (s.chest c).svcAt with
  | some (t, bank) => if t = s.now then [bank] else []
  | none => []

theorem Dev.contains_takenFirst (s : Dev) (c bank : Nat) :
    (s.takenFirst c).contains bank = true ↔ (s.chest c).svcAt = some (s.now, bank) := by
  unfold Dev.takenFirst
  split
  next t k h =>
    rw [h]
    by_cases ht : t = s.now
    · simp [ht, eq_comm]
    · simp [ht]
  next h => simp [h]

/-- A Chest whose block's clock runs and that has not granted in this cycle grants. -/
theorem chestGrant_eq {c : Nat} {a : Dev} (hlit : a.lit = true) (hrun : (a.block (c / 4)).island = .run)
    (hclock : (a.block (c / 4)).clockAt ≤ a.now) (hgranted : (a.chest c).granted ≠ some a.now) :
    let d := (a.modChest c fun x => { x with granted := some a.now }).releaseHeld c
    chestGrant c [] a = (portOrder.foldl (portTurn c (d.time % 16)) (d.takenFirst c, d)).2 := by
  intro d
  refine if_neg ?_
  simp [hlit, hrun, hgranted, hclock]

/-! ### The turn of a port with one request -/

section Turn
variable {d : Dev} {c p : Nat} {r : RowReq} {rest : List RowReq} (hport : (d.chest c).ports.get p = r :: rest) {pos : Nat} (taken : List Nat)
include hport

theorem portTurn_early (h : d.now < r.since) : portTurn c pos (taken, d) p = (taken, d) := by
  obtain ⟨n, hn⟩ := portWidth_eq p
  rw [portTurn, hn, Dev.portGrants, hport]
  exact if_pos h

theorem portTurn_off (hsince : r.since ≤ d.now) (hcpu : p = pCrd ∨ p = pCwr) (hoff : d.chestIsOff c r.row = true)
    (hlast : (((d.rejectReq r stChestOff).popReq c p r).chest c).ports.get p = []) :
    portTurn c pos (taken, d) p = (taken, (d.rejectReq r stChestOff).popReq c p r) := by
  obtain ⟨n, hn⟩ := portWidth_eq p
  rw [portTurn, hn, Dev.portGrants, hport]
  refine (if_neg (Nat.not_lt.mpr hsince)).trans ((if_pos ?_).trans (Dev.portGrants_of_empty _ _ _ hlast))
  rw [hoff, Bool.and_true]
  rcases hcpu with h | h <;> subst h <;> decide

section On
variable (hsince : r.since ≤ d.now) (hon : ¬ ((p = pCrd ∨ p = pCwr) ∧ d.chestIsOff c r.row = true))
include hsince hon

theorem portTurn_on : portTurn c pos (taken, d) p =
    if !(d.ownsCell c p (r.row % 16) pos) || taken.contains (r.row % 16) then (taken, d)
    else if !(d.bankOn c (r.row % 16)) && p != pCrd && p != pCwr then (taken, d)
    else match d.grantOne c p r with
      | .waits s => (taken, s)
      | .done s => (s.popReq c p r).portGrants c p pos (portWidth p - 1) (r.row % 16 :: taken) := by
  obtain ⟨n, hn⟩ := portWidth_eq p
  rw [portTurn, hn, Dev.portGrants, hport]
  refine (if_neg (Nat.not_lt.mpr hsince)).trans (if_neg ?_)
  simpa using hon

theorem portTurn_held (h : d.ownsCell c p (r.row % 16) pos = false ∨ taken.contains (r.row % 16) = true ∨ d.bankOn c (r.row % 16) = false) :
    portTurn c pos (taken, d) p = (taken, d) := by
  rw [portTurn_on hport taken hsince hon]
  by_cases hcell : (!(d.ownsCell c p (r.row % 16) pos) || taken.contains (r.row % 16)) = true
  · exact if_pos hcell
  · have hbank : d.bankOn c (r.row % 16) = false := by
      rcases h with h | h | h
      · exact absurd (by rw [h]; rfl) hcell
      · exact absurd (by rw [h, Bool.or_true]) hcell
      · exact h
    have hoff : d.chestIsOff c r.row = true := by simp [Dev.chestIsOff, hbank]
    have hport' : ¬ p = pCrd ∧ ¬ p = pCwr := not_or.mp fun hp => hon ⟨hp, hoff⟩
    exact (if_neg hcell).trans (if_pos (by simp [hbank, hport'.1, hport'.2]))

section Grants
variable (hcell : d.ownsCell c p (r.row % 16) pos = true) (hfree : ¬ taken.contains (r.row % 16) = true)
  (hbank : d.bankOn c (r.row % 16) = true)
include hcell hfree hbank

theorem portTurn_free : portTurn c pos (taken, d) p = match d.grantOne c p r with
      | .waits s => (taken, s)
      | .done s => (s.popReq c p r).portGrants c p pos (portWidth p - 1) (r.row % 16 :: taken) := by
  rw [portTurn_on hport taken hsince hon, hcell, hbank]
  exact (if_neg (by simpa using hfree)).trans (if_neg (by simp))

theorem portTurn_waits {g : Dev} (hg : d.grantOne c p r = .waits g) : portTurn c pos (taken, d) p = (taken, g) := by
  rw [portTurn_free hport taken hsince hon hcell hfree hbank, hg]

theorem portTurn_done {g : Dev} (hg : d.grantOne c p r = .done g) (hlast : ((g.popReq c p r).chest c).ports.get p = []) :
    portTurn c pos (taken, d) p = (r.row % 16 :: taken, g.popReq c p r) := by
  rw [portTurn_free hport taken hsince hon hcell hfree hbank, hg]
  exact Dev.portGrants_of_empty _ _ _ hlast

end Grants
end On
end Turn

theorem Grant.done_or_done_ne_waits {p : Prop} [Decidable p] {s t g : Dev} : (if p then Grant.done s else .done t) ≠ .waits g := by
  split <;> exact Grant.noConfusion

/-- A write that waits leaves the pending requests as they were. -/
theorem Dev.ports_of_waits {d g : Dev} {c p : Nat} {r : RowReq} (h : d.grantOne c p r = .waits g) :
    (g.chest c).ports = (d.chest c).ports := by
  unfold Dev.grantOne at h
  extract_lets -underBinder u dstamp plainCwr stamp hold second s1 s2 row at h
  have h1 : d.SameButUnits c s1 := by
    show d.SameButUnits c (d.iff u.stamped fun s => s.fixStamp c r.unit stamp)
    unfold Dev.iff
    split
    · exact d.sameButUnits_fixStamp c _ _
    · exact .refl c d
  have h2 : d.SameButUnits c s2 := by
    show d.SameButUnits c (match r.also with
      | some a => s1.fixStamp c a second
      | none => s1)
    split
    · exact h1.trans (s1.sameButUnits_fixStamp c _ _)
    · exact h1
  clear_value s1 s2 stamp
  split at h
  · cases h
  split at h
  · cases h
  split at h
  next => cases h
  next e he =>
  split at h
  · split at h
    · cases h
    · exact absurd h Grant.done_or_done_ne_waits
  split at h
  · split at h
    · have hw : s2.waitHeld c r = g := Grant.waits.inj h
      rw [← hw, Dev.chest_waitHeld, h2.ports]
    · exact absurd h Grant.done_or_done_ne_waits
  · cases h

/-- Settles O24: the released bits by induction on the rows, and the cycle by the turn of the one port. -/
theorem chestGrantServesTheCellsOwner : Obligations.ChestGrantServesTheCellsOwner := by
  intro c p r s hc hp a hlit hrun hclock hgranted d bank taken off goesOn ends
  have hd := chestGrant_eq hlit hrun hclock hgranted
  have hnow : d.now = a.now := Dev.now_releaseHeld _ c
  have htaken : (d.takenFirst c).contains bank = true ↔ taken := by
    rw [Dev.contains_takenFirst, hnow, Dev.svcAt_releaseHeld, Dev.chest_modChest]
  have hexec : ∀ {l : List Nat} {g : Dev}, portOrder.foldl (portTurn c (d.time % 16)) (d.takenFirst c, d) = (l, g) → goesOn g :=
    fun h => exec_of_actOn (f := fun s => (chestGrant c [] (s.askRows c)).kick c) rfl (decide_eq_true hc)
      (congrArg (fun g : Dev => g.kick c) (hd.trans (congrArg Prod.snd h)))
  refine ⟨fun q => ?released, fun hnone => ?nothing, fun hport hother => ⟨?early, ?off, ?held, ?free⟩⟩
  case released =>
    have h := (a.modChest c fun x => { x with granted := some a.now }).stat_releaseHeld c q
    rw [Dev.pastUnits, Dev.chest_modChest] at h
    exact h
  case nothing => exact hexec (foldl_portTurn_of_empty _ fun q _ => hnone q)
  case early =>
    intro hearly
    exact hexec (foldl_portTurn _ (mem_portOrder hp) hother (portTurn_early hport _ hearly) hother)
  case off =>
    intro hsince hoff hends
    exact hexec (foldl_portTurn _ (mem_portOrder hp) hother (portTurn_off hport _ hsince hoff.1 hoff.2 (hends p)) fun q _ => hends q)
  case held =>
    intro hsince hon h
    exact hexec (foldl_portTurn _ (mem_portOrder hp) hother (portTurn_held hport _ hsince hon
      (h.imp_right fun h => h.imp_left htaken.mpr)) hother)
  case free =>
    intro hsince hon hcell hfree hbank
    have hfree' : ¬ (d.takenFirst c).contains bank = true := fun h => hfree (htaken.mp h)
    refine ⟨fun g hg => ?done, fun g hg => ?waits⟩
    case done =>
      intro hends
      exact hexec (foldl_portTurn _ (mem_portOrder hp) hother (portTurn_done hport _ hsince hon hcell hfree' hbank hg (hends p))
        fun q _ => hends q)
    case waits =>
      refine hexec (foldl_portTurn _ (mem_portOrder hp) hother (portTurn_waits hport _ hsince hon hcell hfree' hbank hg) ?_)
      rw [Dev.ports_of_waits hg]
      exact hother

end Sys2Proof.Machine

/-! ## Streams and steering units (R181, R186, R187, R194, R213) -/
namespace Sys2Proof.Machine
open Sys2Proof

/-! ### What a unit error leaves unchanged -/

/-- A unit error is noted in the Ledger, its flash and the service processor. -/
theorem Dev.unitError_frame (s : Dev) (ekind uclass unit : Nat) (ctxs : List Nat) (fcode addr : Nat) (detail : W64) :
    ∃ ledger boot service, s.unitError ekind uclass unit ctxs fcode addr detail =
      { s with ledger := ledger, boot := boot, service := service } := by
  unfold Dev.unitError
  split
  next t _ =>
    obtain ⟨_, _, h⟩ := s.logAdd_frame
      { seq := 0, ekind := ekind, uclass := uclass, unit := unit, outcome := 3, fcode := fcode, addr := addr,
        ctx := ctxs.headD 0xFFFF, detail := BitVec.ofNat 64 t.logSeq }
    rw [h]
    exact ⟨_, _, _, rfl⟩
  next =>
    obtain ⟨_, _, h⟩ := s.logAdd_frame
      { seq := 0, ekind := ekind, uclass := uclass, unit := unit, outcome := 4, fcode := fcode, addr := addr,
        ctx := ctxs.headD 0xFFFF, detail := detail }
    dsimp only
    rw [h]
    exact ⟨_, _, _, rfl⟩

theorem Dev.corrected_frame (s : Dev) (uclass unit : Nat) :
    ∃ ledger boot service, s.corrected uclass unit = { s with ledger := ledger, boot := boot, service := service } := by
  unfold Dev.corrected
  extract_lets keep l s1 n
  split
  · obtain ⟨_, _, _, h⟩ := (s1.modSvc fun v => { v with corr1s := l.filter fun e => !(e.1 = uclass && e.2.1 = unit) }).unitError_frame
      0x12 uclass unit [] 0 0 0
    rw [h]
    exact ⟨_, _, _, rfl⟩
  · exact ⟨_, _, _, rfl⟩

theorem Dev.now_flitFixed (s : Dev) (b link : Nat) : (s.flitFixed b link).now = s.now := by
  obtain ⟨_, _, _, h⟩ := (s.bump 0x6030 b (55 + link)).corrected_frame 2 b
  rw [Dev.flitFixed, h]
  exact s.bump_now 0x6030 b (55 + link) 1

/-! ### Sending (R186) -/

/-- The flit that a source sends on one branch of its circuit. -/
def Dev.flitOn (s : Dev) (b e : Nat) (data : Row) (p : PathSink × Nat) : Flight :=
  { id := s.nextId + p.2, srcB := b, srcE := e, branch := p.2, dstB := p.1.1, dstE := p.1.2.1, delay := p.1.2.2,
    due := s.now + p.1.2.2, epoch := (s.block b).epoch, data := data, hops := s.way b e (s.time % 8) (p.1.1, p.1.2.1) }

/-- A flit that leaves takes the next identity and nothing else. -/
def flitSent (b e : Nat) (data : Row) (s : Dev) (p : PathSink × Nat) : Dev :=
  { s with nextId := s.nextId + 1, flights := s.flights ++ [{ s.flitOn b e data p with id := s.nextId }] }

theorem Dev.sendFlit_eq_foldl (s : Dev) (b e : Nat) (data : Row) :
    s.sendFlit b e data = (s.branches b e (s.time % 8)).zipIdx.foldl (flitSent b e data) s := rfl

theorem foldl_flitSent (b e : Nat) (data : Row) (d : Dev) (l : List PathSink) (k : Nat) (sent : List Flight) :
    (l.zipIdx k).foldl (flitSent b e data) { d with nextId := d.nextId + k, flights := sent } =
      { d with nextId := d.nextId + k + l.length, flights := sent ++ (l.zipIdx k).map (d.flitOn b e data) } := by
  induction l generalizing k sent with
  | nil => simp
  | cons x l ih =>
    rw [List.zipIdx_cons, List.foldl_cons]
    have hstep : flitSent b e data { d with nextId := d.nextId + k, flights := sent } (x, k) =
        { d with nextId := d.nextId + (k + 1), flights := sent ++ [d.flitOn b e data (x, k)] } := rfl
    rw [hstep, ih, List.map_cons, List.append_assoc, List.length_cons, Nat.add_assoc d.nextId k, Nat.add_assoc d.nextId (k + 1),
      Nat.add_assoc k 1, Nat.add_comm 1]
    rfl

/-- Sending adds one flit for each branch, of the next identities. -/
theorem Dev.sendFlit_eq (s : Dev) (b e : Nat) (data : Row) : s.sendFlit b e data =
    { s with nextId := s.nextId + (s.branches b e (s.time % 8)).length,
             flights := s.flights ++ (s.branches b e (s.time % 8)).zipIdx.map (s.flitOn b e data) } :=
  (s.sendFlit_eq_foldl b e data).trans (foldl_flitSent b e data s _ 0 s.flights)

theorem Dev.now_sendFlit (s : Dev) (b e : Nat) (data : Row) : (s.sendFlit b e data).now = s.now := by
  rw [Dev.sendFlit_eq]

/-- What a source does in its slot with a flit that may go. -/
def streamSend (b ep : Nat) (s : Dev) : Dev :=
  match (epWord (s.frame b) ep).mode with
    | 2 => match (s.ep b ep).staging with
      | [] => s
      | f :: r =>
        if f.at_ < s.now then
          ((s.sendFlit b ep f.data).modEp b ep fun y =>
            { y.spend (s.branches b ep (s.time % 8)).length with staging := r }).askSout b ep 2
        else s
    | 3 => match (s.ep b ep).queue.find? fun f => !f.sent with
      | none => s
      | some f =>
        if f.at_ < s.now then
          ((s.sendFlit b ep f.data).modEp b ep fun y => { y.spend (s.branches b ep (s.time % 8)).length with
            queue := modFirst (fun g => !g.sent) (fun g => { g with sent := true }) y.queue }).freeDone b ep 256
        else s
    | _ => s

theorem streamFlitSend_of_slot {b ep : Nat} {s : Dev} (hlit : s.lit = true) (hslot : sendsIn (s.frame b) ep (s.time % 8) = true)
    (hbr : (s.branches b ep (s.time % 8)).length ≠ 0) (hfirst : s.sentNow b ep = false) : streamFlitSend b ep s =
      if (s.ep b ep).credited (s.branches b ep (s.time % 8)).length then streamSend b ep s else s := by
  rw [streamFlitSend]
  simp only [hlit, hslot, hbr, hfirst, Bool.not_true, Bool.false_eq_true, false_or]
  cases (s.ep b ep).credited (s.branches b ep (s.time % 8)).length with
  | false => rfl
  | true => rfl

/-! ### Arriving (R181, R186, R213) -/

/-- What is left of a flit's arrival once it is off the way and its block is awake. -/
def flitLands (x : Flight) (ecc : Ecc) (s : Dev) : Dev :=
  let w := epWord (s.frame x.dstB) x.dstE
  let mesh := decide (1 ≤ w.ilink) && decide (w.ilink ≤ 4)
  if mesh && ecc == .uncorrectable then s.flitUe x.dstB
  else
    let s := s.iff (mesh && ecc == .corrected) fun s => s.flitFixed x.dstB w.ilink
    if s.refuses x.dstB x.dstE x.epoch then s.stale x.dstB
    else
      let s := s.modEp x.dstB x.dstE fun y => { y with queue := y.queue ++ [{ data := x.data, epoch := x.epoch, at_ := s.now }] }
      s.iff (!w.sink || w.mode == 3) fun s => s.askSin x.dstB x.dstE x.data

theorem streamFlitArrive_of_due {id : Nat} {s : Dev} {x : Flight} (hx : s.flights.find? (fun g => g.id = id) = some x) (hdue : x.due ≤ s.now)
    (ecc : Ecc) : streamFlitArrive id ecc s =
      flitLands x ecc ({ s with flights := s.flights.filter fun y => y.id != id }.rouse x.dstB) := by
  rw [streamFlitArrive, hx]
  exact if_neg (Nat.not_lt.mpr hdue)

theorem streamFlitArrive_of_early {id : Nat} {s : Dev} {x : Flight} (hx : s.flights.find? (fun g => g.id = id) = some x) (hdue : s.now < x.due)
    (ecc : Ecc) : streamFlitArrive id ecc s = s.flitPasses x ecc := by
  rw [streamFlitArrive, hx]
  exact if_pos hdue

/-- A flit whose code is good, with the device once a corrected error is counted. -/
theorem flitLands_of_good {x : Flight} {ecc : Ecc} (hecc : ecc = .clean ∨ ecc = .corrected) {g t : Dev}
    (ht : g.iff ((decide (1 ≤ (epWord (g.frame x.dstB) x.dstE).ilink) && decide ((epWord (g.frame x.dstB) x.dstE).ilink ≤ 4))
      && ecc == .corrected) (fun s => s.flitFixed x.dstB (epWord (g.frame x.dstB) x.dstE).ilink) = t) :
    flitLands x ecc g = if t.refuses x.dstB x.dstE x.epoch then t.stale x.dstB
      else (t.modEp x.dstB x.dstE fun y => { y with queue := y.queue ++ [{ data := x.data, epoch := x.epoch, at_ := t.now }] }).iff
        (!(epWord (g.frame x.dstB) x.dstE).sink || (epWord (g.frame x.dstB) x.dstE).mode == 3) fun s => s.askSin x.dstB x.dstE x.data := by
  subst ht
  have hue : (ecc == .uncorrectable) = false := by rcases hecc with h | h <;> subst h <;> rfl
  exact if_neg (by rw [hue, Bool.and_false]; decide)

/-- Settles O26: the flits sent by induction on the branches, sends, arrivals and credits by their commands' branches. -/
theorem streamsMoveByCredit : Obligations.StreamsMoveByCredit := by
  intro b ep id f s d on br
  refine ⟨fun data => congrArg Dev.flights (d.sendFlit_eq b ep data), fun hb hep hlit hslot hbr hfirst => ?send,
    fun x hx hdue => ?arrive, fun x h hx hdue hhop => ?pass, fun x hx hdue => ?credit⟩
  case send =>
    have hknown : (decide (b < 576) && decide (ep < 32)) = true := by simp [hb, hep]
    have hrun := streamFlitSend_of_slot hlit hslot hbr hfirst
    refine ⟨fun hcredit => ?broke, fun hcredit hat => ⟨fun rest hmode hstaging => ?out, fun hmode hqueue => ?relay⟩⟩
    case broke => exact (exec_of_actOn (f := streamFlitSend b ep) rfl hknown (hrun.trans (if_neg (by rw [hcredit]; decide)))).trans rfl
    case out =>
      refine exec_of_actOn (f := streamFlitSend b ep) rfl hknown ((hrun.trans (if_pos hcredit)).trans ?_)
      rw [streamSend, hmode, hstaging]
      exact if_pos hat
    case relay =>
      refine exec_of_actOn (f := streamFlitSend b ep) rfl hknown ((hrun.trans (if_pos hcredit)).trans ?_)
      rw [streamSend, hmode]
      dsimp only
      rw [hqueue]
      exact if_pos hat
  case arrive =>
    intro g w mesh
    have hnow : g.now = d.now := Dev.now_rouse _ _
    have hmesh : (decide (1 ≤ w.ilink) && decide (w.ilink ≤ 4)) = true ↔ mesh := by
      rw [Bool.and_eq_true, decide_eq_true_eq, decide_eq_true_eq]
    refine ⟨fun ecc hecc => ?good, fun c hm hc => ?bad⟩
    case good =>
      intro t
      have ht : g.iff ((decide (1 ≤ w.ilink) && decide (w.ilink ≤ 4)) && ecc == .corrected) (fun s => s.flitFixed x.dstB w.ilink) = t := by
        refine if_congr ?_ rfl rfl
        rw [Bool.and_eq_true, hmesh, beq_iff_eq]
      have htnow : t.now = d.now := by
        rw [← ht, ← hnow]
        exact iff_keeps Dev.now (fun s => s.now_flitFixed _ _) _ g
      have hrun := (streamFlitArrive_of_due hx hdue ecc).trans (flitLands_of_good hecc ht)
      refine ⟨fun hrefuses => ?enters, fun hrefuses => ?stale⟩
      case enters =>
        intro y
        refine exec_of_act (f := streamFlitArrive id ecc) rfl (hrun.trans ((if_neg (by rw [hrefuses]; decide)).trans ?_))
        rw [htnow]
        show y.iff (!w.sink || w.mode == 3) _ = _
        unfold Dev.iff
        by_cases hsteer : w.sink = true ∧ w.mode ≠ 3
        · rw [if_pos hsteer, if_neg]
          simp [hsteer.1, hsteer.2]
        · rw [if_neg hsteer, if_pos]
          by_contra hno
          exact hsteer (by simpa using hno)
      case stale => exact exec_of_act (f := streamFlitArrive id ecc) rfl (hrun.trans (if_pos hrefuses))
    case bad =>
      refine exec_of_act (f := streamFlitArrive id .uncorrectable) rfl ((streamFlitArrive_of_due hx hdue .uncorrectable).trans
        ((if_pos ?_).trans ?_))
      · rw [hmesh.mpr hm]; rfl
      · show g.flitUe x.dstB = _
        rw [Dev.flitUe, hc]
        rfl
  case pass =>
    have hrun := fun ecc => streamFlitArrive_of_early hx hdue ecc
    have hclean : d.flitPasses x .clean = d := by rw [Dev.flitPasses, hhop]
    have hbad : d.flitPasses x .uncorrectable = { d with flights := d.flights.filter fun g => !x.sameAt g h }.flitUe h.1 := by
      rw [Dev.flitPasses, hhop]
    exact ⟨(exec_of_act (f := streamFlitArrive id .clean) rfl ((hrun .clean).trans hclean)).trans rfl,
      exec_of_act (f := streamFlitArrive id .uncorrectable) rfl ((hrun .uncorrectable).trans hbad)⟩
  case credit =>
    intro g gone
    have hrun : creditReturn id d = if gone then g.stale x.dstB
        else if x.dstE < 32 then g.modEp x.dstB x.dstE fun y =>
          if x.branch = 0 then { y with cred0 := y.cred0 + 1 } else { y with cred1 := y.cred1 + 1 }
        else g.modSteer x.dstB ((x.dstE - 32) / 2) fun y =>
          if x.dstE % 2 = 0 then { y with cred0 := y.cred0 + 1 } else { y with cred1 := y.cred1 + 1 } := by
      rw [creditReturn, hx]
      exact if_neg (Nat.not_lt.mpr hdue)
    refine ⟨fun hgone => ?stale, fun hgone he => ?endpoint, fun hgone he => ?steer⟩
    case stale => exact exec_of_act (f := creditReturn id) rfl (hrun.trans (if_pos hgone))
    case endpoint => exact exec_of_act (f := creditReturn id) rfl (hrun.trans ((if_neg (by rw [hgone]; decide)).trans (if_pos he)))
    case steer =>
      exact exec_of_act (f := creditReturn id) rfl (hrun.trans ((if_neg (by rw [hgone]; decide)).trans (if_neg (Nat.not_lt.mpr he))))

/-! ### Steering units (R194) -/

theorem Dev.now_sendOut (s : Dev) (b u o : Nat) : (s.sendOut b u o).now = s.now := by
  unfold Dev.sendOut
  split
  · rfl
  · dsimp only
    split
    · rfl
    · exact Dev.now_sendFlit _ _ _ _

/-- What an output register holds after a firing: what the firing sends it, or what it held. -/
def firedOut (x : Steer) (now : Nat) (k : Option Nat) (old : Option (Nat × Row)) : Option (Nat × Row) := match k with
  | some k => some (now, if k = 0 then x.data0.headD 0 else x.data1.headD 0)
  | none => old

/-- The run-time state `y` of a unit that has fired on what it held as `x`. -/
def Steer.fired (x y : Steer) (rest : List Nat) (f : Firing) (now : Nat) : Steer :=
  { y with
    token := rest, data0 := if f.pop0 then y.data0.drop 1 else y.data0, data1 := if f.pop1 then y.data1.drop 1 else y.data1
    out0 := firedOut x now f.to0 y.out0, out1 := firedOut x now f.to1 y.out1
    cred0 := if f.to0.isSome then y.cred0 - 1 else y.cred0, cred1 := if f.to1.isSome then y.cred1 - 1 else y.cred1
    firedAt := now + 1 }

/-- Settles O27: the table by cases on the parity of the token, the firing by the branch that the token and the outputs choose. -/
theorem steeringUnitsFireByTheirToken : Obligations.SteeringUnitsFireByTheirToken := by
  intro b u t ts f s hb hu x
  have hknown : (decide (b < 576) && decide (u < 8)) = true := by simp [hb, hu]
  refine ⟨⟨rfl, rfl, rfl, rfl, fun k => ?table⟩, fun hx => ?idle, fun hx hf => ?fire⟩
  case table =>
    have heven : 2 * k % 2 = 0 := by omega
    have hodd : (2 * k + 1) % 2 = 1 := by omega
    simp [firing, heven, hodd]
  case idle =>
    refine (exec_of_actOn (f := steeringFire b u) (g := s.dev) rfl hknown ?_).trans rfl
    rw [steeringFire, hx]
  case fire =>
    intro ok
    have hok : ((!f.pop0 || !x.data0.isEmpty) && (!f.pop1 || !x.data1.isEmpty) && s.dev.firingFree b u f) = ok := by
      rw [Dev.firingFree]
      exact (Bool.and_assoc _ _ _).symm
    refine ⟨fun hno => ?blocked, fun hyes hlit hfirst => ?fires⟩
    case blocked =>
      refine (exec_of_actOn (f := steeringFire b u) (g := s.dev) rfl hknown ?_).trans rfl
      rw [steeringFire, hx]
      dsimp only
      rw [hf]
      refine if_pos (.inr (.inr ?_))
      rw [hok, hno]; rfl
    case fires =>
      intro d0 d flit
      have hnow : d.now = s.dev.now := by
        have h0 : d0.now = s.dev.now := by
          show (if f.to0.isSome then s.dev.sendOut b u 0 else s.dev).now = _
          split
          · exact Dev.now_sendOut _ _ _ _
          · rfl
        rw [← h0]
        show (if f.to1.isSome then d0.sendOut b u 1 else d0).now = _
        split
        · exact Dev.now_sendOut _ _ _ _
        · rfl
      refine exec_of_actOn (f := steeringFire b u) rfl hknown ?_
      rw [steeringFire, hx]
      dsimp only
      rw [hf]
      refine (if_neg ?_).trans ?_
      · rw [hok, hyes, hlit]
        simpa using hfirst
      · show d.modSteer b u (fun y => x.fired y ts f d.now) = d.modSteer b u _
        rw [hnow]
        refine congrArg _ (funext fun y => ?_)
        have hflit : ∀ (k : Option Nat) old, firedOut x s.dev.now k old = flit k old := by
          intro k old
          cases k with
          | none => rfl
          | some k => exact congrArg (fun v => some (s.dev.now, v)) (apply_ite (fun l : List Row => l.headD 0) (k = 0) x.data0 x.data1).symm
        rw [Steer.fired, hflit, hflit]

end Sys2Proof.Machine

/-! ## Runner packets hop and eject (R86, R88, R196, R198, R199, R201, R203, R458) -/
namespace Sys2Proof.Machine
open Sys2Proof

theorem Dev.now_corrected (s : Dev) (uclass unit : Nat) : (s.corrected uclass unit).now = s.now := by
  obtain ⟨_, _, _, h⟩ := s.corrected_frame uclass unit
  rw [h]

/-! ### One hop (R198) -/

/-- Whether an output serves the head of an input now. -/
def Dev.serves (s : Dev) (b out port lane : Nat) : Prop :=
  (rotation ((s.block b).sw.lastIn.get out)).find? (s.wants b out) = some (port, lane)

/-- A packet that its output serves, off its buffer and noted as the last input served. -/
def Dev.hopServed (s : Dev) (b port lane : Nat) (rest : List RPkt) (out : Nat) : Dev :=
  (s.modInbuf b port lane fun _ => rest).modSw b fun x => { x with lastIn := x.lastIn.set out port }

section Hop
variable {b port lane : Nat} {p : RPkt} {rest : List RPkt} {d : Dev} (hlit : d.lit = true) (hport : port < 5)
  (hbuf : d.inbuf b port lane = p :: rest) (hat : p.at_ ≤ d.now) (ecc : Ecc)
include hlit hport hbuf hat

/-- The head of an input buffer, once it stands there, goes by its next hop. -/
theorem runnerHop_of_head : runnerHop b port lane ecc d =
    (match d.hopOf b p with
    | (h, q) =>
      let popped := d.modInbuf b port lane fun _ => rest
      match h with
      | .malformed => popped.bump 0x6030 b 60
      | .drop e => popped.dropWith b p e
      | h =>
        let out := (h.out).getD 0
        let turnOf := (rotation ((d.block b).sw.lastIn.get out)).find? (d.wants b out)
        if turnOf ≠ some (port, lane) then d
        else
          let s := popped.modSw b fun x => { x with lastIn := x.lastIn.set out port }
          match h with
          | .link o => s.overLink b o q ecc
          | .eject n => s.modStall n fun x => { x with ej := x.ej ++ [{ q with at_ := s.now }] }
          | .tile u => { s with trestles := s.trestles.mod u fun t => { t with queue := t.queue ++ [q.msg s.now] } }
          | _ => s) := by
  unfold runnerHop
  rw [if_neg (by rw [hlit]; decide), if_pos hport]
  unfold hopFrom
  rw [hbuf]
  exact (if_neg (Nat.not_lt.mpr hat)).trans rfl

theorem runnerHop_malformed (hh : (d.hopOf b p).1 = .malformed) :
    runnerHop b port lane ecc d = (d.modInbuf b port lane fun _ => rest).bump 0x6030 b 60 := by
  rw [runnerHop_of_head hlit hport hbuf hat]
  generalize d.hopOf b p = hq at hh
  obtain ⟨h, q⟩ := hq
  cases hh
  rfl

theorem runnerHop_drop {e : Nat} (hh : (d.hopOf b p).1 = .drop e) :
    runnerHop b port lane ecc d = (d.modInbuf b port lane fun _ => rest).dropWith b p e := by
  rw [runnerHop_of_head hlit hport hbuf hat]
  generalize d.hopOf b p = hq at hh
  obtain ⟨h, q⟩ := hq
  cases hh
  rfl

theorem runnerHop_unserved {out : Nat} (hout : (d.hopOf b p).1.out = some out) (hno : ¬ d.serves b out port lane) :
    runnerHop b port lane ecc d = d := by
  rw [runnerHop_of_head hlit hport hbuf hat]
  generalize d.hopOf b p = hq at hout
  obtain ⟨h, q⟩ := hq
  cases h with
  | malformed => cases hout
  | drop e => cases hout
  | link o => cases hout; exact if_pos hno
  | eject n => cases hout; exact if_pos hno
  | tile u => cases hout; exact if_pos hno

theorem runnerHop_link {o : Nat} (hh : (d.hopOf b p).1 = .link o) (hs : d.serves b o port lane) :
    runnerHop b port lane ecc d = (d.hopServed b port lane rest o).overLink b o (d.hopOf b p).2 ecc := by
  rw [runnerHop_of_head hlit hport hbuf hat]
  generalize d.hopOf b p = hq at hh
  obtain ⟨h, q⟩ := hq
  cases hh
  exact if_neg (not_not.mpr hs)

theorem runnerHop_eject {n : Nat} (hh : (d.hopOf b p).1 = .eject n) (hs : d.serves b (4 + n % 4) port lane) :
    runnerHop b port lane ecc d = (d.hopServed b port lane rest (4 + n % 4)).modStall n fun x =>
      { x with ej := x.ej ++ [{ (d.hopOf b p).2 with at_ := d.now }] } := by
  rw [runnerHop_of_head hlit hport hbuf hat]
  generalize d.hopOf b p = hq at hh
  obtain ⟨h, q⟩ := hq
  cases hh
  exact if_neg (not_not.mpr hs)

theorem runnerHop_tile {u : Nat} (hh : (d.hopOf b p).1 = .tile u) (hs : d.serves b (8 + u % 4) port lane) :
    runnerHop b port lane ecc d = { d.hopServed b port lane rest (8 + u % 4) with
      trestles := (d.hopServed b port lane rest (8 + u % 4)).trestles.mod u fun t =>
        { t with queue := t.queue ++ [(d.hopOf b p).2.msg d.now] } } := by
  rw [runnerHop_of_head hlit hport hbuf hat]
  generalize d.hopOf b p = hq at hh
  obtain ⟨h, q⟩ := hq
  cases hh
  exact if_neg (not_not.mpr hs)

end Hop

/-! ### Over a link (R181, R198) -/

section Link
variable (s : Dev) {b o : Nat} (q : RPkt)

/-- A packet that takes the link's slot. -/
def Dev.departs (s : Dev) (b o : Nat) : Dev := s.modSw b fun x => { x with lastOut := x.lastOut.set o (s.turn + 1) }

/-- A packet that has crossed stands in the buffer of the far end. -/
def Dev.crossed (s : Dev) (b o nb : Nat) (q : RPkt) : Dev :=
  s.modInbuf nb (opposite o) q.lane fun l => l ++ [{ q with at_ := s.now + linkTime b o }]

theorem Dev.overLink_clean {nb : Nat} (h : neighbour b o = some nb) : s.overLink b o q .clean = (s.departs b o).crossed b o nb q := by
  rw [Dev.overLink, h]
  rfl

theorem Dev.overLink_corrected {nb : Nat} (h : neighbour b o = some nb) : s.overLink b o q .corrected =
    (((s.departs b o).bump 0x6030 nb (56 + opposite o)).corrected 2 nb).crossed b o nb q := by
  rw [Dev.overLink, h]
  rfl

theorem Dev.overLink_uncorrectable {nb : Nat} (h : neighbour b o = some nb) : s.overLink b o q .uncorrectable =
    (s.departs b o).unitError 0x04 2 nb [] 0 0 := by
  rw [Dev.overLink, h]
  rfl

theorem Dev.overLink_gateway (h : neighbour b o = none) (ecc : Ecc) : s.overLink b o q ecc = (s.departs b o).modElv fun e =>
    { e with nextOut := e.nextOut + 1, outq := e.outq ++
      [{ id := e.nextOut, pkt := { op := 0x07, ddev := q.ddev, len := 64 }, src := .none, at_ := s.now, runner := some q }] } := by
  rw [Dev.overLink, h]
  rfl

end Link

/-! ### Injection (R24, R198, R199) -/

section Inject
variable {b port lane : Nat} {p : RPkt} {rest : List RPkt} {d : Dev} (hlit : d.lit = true) (hport : 5 ≤ port)
  (hinj : (d.stall (4 * b + (port - 5))).inj = p :: rest) (hat : p.at_ < d.now) (ecc : Ecc)
include hlit hport hinj hat

theorem runnerHop_inject : runnerHop b port lane ecc d =
    match d.headsFor b p with
    | none => (d.modStall (4 * b + (port - 5)) fun x => { x with inj := rest }).dropWith b p ecBadUnit
    | some t => match d.chooseLane b t with
      | none => (d.modStall (4 * b + (port - 5)) fun x => { x with inj := rest }).dropWith b p ecUnreachable
      | some lane =>
        if (d.inbuf b 4 lane).length < 4 then (d.modStall (4 * b + (port - 5)) fun x => { x with inj := rest }).modInbuf b 4 lane
          fun l => l ++ [{ p with lane := lane, at_ := d.now + 1 }]
        else d := by
  unfold runnerHop
  rw [if_neg (by rw [hlit]; decide), if_neg (Nat.not_lt.mpr hport)]
  unfold inject
  dsimp only
  rw [hinj]
  exact (if_neg (Nat.not_le.mpr hat)).trans rfl

end Inject

theorem Dev.chooseLane_none {s : Dev} {b t : Nat} (hx : s.clearPath (routePath b t true) = false)
    (hy : s.clearPath (routePath b t false) = false) : s.chooseLane b t = none := by
  rw [Dev.chooseLane, hx, hy]
  rfl

/-! ### Ejection (R86, R88, R201, R203) -/

theorem Dev.modStall_congr {s : Dev} {n : Nat} {f g : Stall → Stall} (h : f (s.stall n) = g (s.stall n)) : s.modStall n f = s.modStall n g :=
  congrArg (fun x => { s with stalls := s.stalls.set n x }) h

theorem Dev.stalls_rouse (s : Dev) (b : Nat) : (s.rouse b).stalls = s.stalls := iff_keeps Dev.stalls (fun _ => by rfl) _ s

section Eject
variable {n : Nat} {p : RPkt} {rest : List RPkt} {d : Dev} (hej : (d.stall n).ej = p :: rest) (hat : p.at_ < d.now)
include hej hat

theorem runnerEjection_of_head : runnerEjection n d =
    if p.kind = 1 then (d.modStall n fun x => { x with ej := rest }).countEvent n p
    else if (d.block (n / 4)).testing then
      if (d.trestles.get n).queue.length < 8 then
        { d.modStall n fun x => { x with ej := rest } with
          trestles := d.trestles.mod n fun t => { t with queue := t.queue ++ [p.msg d.now] } }
      else d
    else match (d.stall n).queueOf p with
      | none => (d.modStall n fun x => { x with ej := rest }).dropWith (n / 4) p ecBadUnit
      | some q =>
        let k := (d.stall n).queues.get q
        if k.size = 0 then (d.modStall n fun x => { x with ej := rest }).dropWith (n / 4) p ecBadUnit
        else if !k.isOpen then (d.modStall n fun x => { x with ej := rest }).dropWith (n / 4) p ecClosed
        else if p.qinc ≠ k.inc then (d.modStall n fun x => { x with ej := rest }).dropWith (n / 4) p ecStale
        else if k.size ≤ k.taken d.now then d
        else
          let s := ((d.modStall n fun x => { x with ej := rest }).rouse (n / 4)).modStall n fun x =>
            { x with queues := x.queues.set q { k with msgs := k.msgs ++ [p.msg d.now] } }
          (s.bump 0x6010 n (3 * q)).kick n := by
  unfold runnerEjection
  dsimp only
  rw [hej]
  exact (if_neg (Nat.not_le.mpr hat)).trans rfl

/-- A message that its queue takes finds the queues as they were. -/
theorem Dev.queues_popped (i : Nat) (k : RQueue) :
    (((d.modStall n fun x => { x with ej := rest }).rouse (n / 4)).modStall n fun x => { x with queues := x.queues.set i k }) =
      ((d.modStall n fun x => { x with ej := rest }).rouse (n / 4)).modStall n fun x =>
        { x with queues := (d.stall n).queues.set i k } := by
  refine Dev.modStall_congr ?_
  rw [Dev.stall, Dev.stalls_rouse]
  have h := congrArg Stall.queues (d.stall_modStall n fun x => { x with ej := rest })
  rw [Dev.stall] at h
  rw [h]

end Eject

/-- Settles O28: each hop, injection and ejection by the branch that its hypotheses choose. -/
theorem runnerPacketsHopAndEject : Obligations.RunnerPacketsHopAndEject := by
  refine ⟨fun b port lane p rest s hb hlane hlit => ?packets, fun n p rest s hn => ?ejects⟩
  case packets =>
    intro d on
    have hrun : ∀ {ecc g}, port < 9 → runnerHop b port lane ecc d = g → exec (.runnerHop b port lane ecc) s = on g := fun hport h =>
      exec_of_actOn (f := runnerHop b port lane _) rfl (by simp [hb, hlane, hport]) h
    refine ⟨fun hport hbuf hat => ?hops, fun h5 h9 ecc => ?injects⟩
    case hops =>
      intro h q popped served
      have h9 : port < 9 := by omega
      refine ⟨fun hh ecc => hrun h9 (runnerHop_malformed hlit hport hbuf hat ecc hh),
        fun e hh ecc => hrun h9 (runnerHop_drop hlit hport hbuf hat ecc hh), fun out ecc hout hno => ?unserved,
        fun o hh hs => ?link, fun n ecc hh hs => hrun h9 (runnerHop_eject hlit hport hbuf hat ecc hh hs),
        fun u ecc hh hs => hrun h9 (runnerHop_tile hlit hport hbuf hat ecc hh hs)⟩
      case unserved => exact (hrun h9 (runnerHop_unserved hlit hport hbuf hat ecc hout hno)).trans rfl
      case link =>
        have hgo := fun ecc => runnerHop_link hlit hport hbuf hat ecc hh hs
        intro g0 g
        refine ⟨fun nb hnb => ⟨hrun h9 ((hgo _).trans (Dev.overLink_clean _ _ hnb)), hrun h9 ((hgo _).trans ?corrected),
          hrun h9 ((hgo _).trans (Dev.overLink_uncorrectable _ _ hnb))⟩,
          fun hnb ecc => hrun h9 ((hgo _).trans (Dev.overLink_gateway _ _ hnb ecc))⟩
        case corrected =>
          have hnow : ((g.bump 0x6030 nb (56 + opposite o)).corrected 2 nb).now = d.now :=
            (Dev.now_corrected _ 2 nb).trans (g.bump_now 0x6030 nb (56 + opposite o) 1)
          rw [Dev.overLink_corrected _ _ hnb]
          show ((g.bump 0x6030 nb (56 + opposite o)).corrected 2 nb).crossed b o nb q = _
          rw [Dev.crossed, hnow]
    case injects =>
      intro n hinj hat popped
      have hgo := runnerHop_inject (lane := lane) hlit h5 hinj hat ecc
      refine ⟨fun hnone => hrun h9 (hgo.trans (by rw [hnone])), fun t ht => ⟨fun hx hy => ?unreachable, fun l hl hroom => ?enters⟩⟩
      case unreachable =>
        refine hrun h9 (hgo.trans ?_)
        rw [ht]
        dsimp only
        rw [Dev.chooseLane_none hx hy]
      case enters =>
        refine hrun h9 (hgo.trans ?_)
        rw [ht]
        dsimp only
        rw [hl]
        exact if_pos hroom
  case ejects =>
    intro d on popped hej hat
    have hgo := runnerEjection_of_head hej hat
    have hrun : ∀ {g}, runnerEjection n d = g → exec (.runnerEjection n) s = on g := fun h =>
      exec_of_actOn (f := runnerEjection n) rfl (decide_eq_true hn) h
    refine ⟨fun hk => hrun (hgo.trans (if_pos hk)), fun hk htest => ?tested, fun hk htest => ?queued⟩
    case tested =>
      have hgo' := hgo.trans ((if_neg hk).trans (if_pos htest))
      split
      next hroom => exact hrun (hgo'.trans (if_pos hroom))
      next hroom => exact (hrun (hgo'.trans (if_neg hroom))).trans rfl
    case queued =>
      have hgo' := hgo.trans ((if_neg hk).trans (if_neg (by rw [htest]; decide)))
      refine ⟨fun hnone => hrun (hgo'.trans (by rw [hnone])), fun i hi => ?_⟩
      intro q
      rw [hi] at hgo'
      refine ⟨fun hsize => ?unset, fun hsize hopen => ?closed, fun hsize hopen hinc => ?stale, fun hsize hopen hinc =>
        ⟨fun hfull => ?full, fun hroom => ?enters⟩⟩
      case unset => exact hrun (hgo'.trans (if_pos hsize))
      case closed => exact hrun (hgo'.trans ((if_neg hsize).trans (if_pos (by rw [hopen]; rfl))))
      case stale => exact hrun (hgo'.trans ((if_neg hsize).trans ((if_neg (by rw [hopen]; decide)).trans (if_pos hinc))))
      case full =>
        exact (hrun (hgo'.trans ((if_neg hsize).trans ((if_neg (by rw [hopen]; decide)).trans
          ((if_neg (not_not.mpr hinc)).trans (if_pos hfull)))))).trans rfl
      case enters =>
        intro q'
        refine hrun (hgo'.trans ((if_neg hsize).trans ((if_neg (by rw [hopen]; decide)).trans
          ((if_neg (not_not.mpr hinc)).trans ((if_neg (Nat.not_le.mpr hroom)).trans ?_)))))
        exact congrArg (fun g : Dev => (g.bump 0x6010 n (3 * i)).kick n) (Dev.queues_popped hej hat i q')

end Sys2Proof.Machine

/-! ## What a slice does with a request (R215, R231 to R237)

A request is answered on the desk of the Concourse: its requests, the memory, and the time. The counters, the pending reads and the links that
a slice keeps stand aside of it, so that each access is a question about the desk. -/
namespace Sys2Proof.Machine
open Sys2Proof

theorem find?_modFirst {α : Type} {p : α → Bool} {f : α → α} {l : List α} {x : α} (h : l.find? p = some x) (hp : p (f x) = true) :
    (modFirst p f l).find? p = some (f x) := by
  induction l with
  | nil => cases h
  | cons y l ih =>
    cases hy : p y with
    | true =>
      rw [List.find?_cons_of_pos hy] at h
      cases h
      rw [modFirst, if_pos hy, List.find?_cons_of_pos hp]
    | false =>
      have hno : ¬ p y = true := by rw [hy]; decide
      rw [List.find?_cons_of_neg hno] at h
      rw [modFirst, if_neg hno, List.find?_cons_of_neg hno, ih h]

/-! ### Requests on the desk -/

/-- What a reply and its effect are read from: the requests, the memory and the time. -/
def Dev.desk (s : Dev) : List CReq × Memory × Nat := (s.conc.reqs, s.mem, s.now)

theorem Dev.creq_of_desk {s t : Dev} (h : t.desk = s.desk) (id : Nat) : t.creq id = s.creq id :=
  congrArg (fun l : List CReq => l.find? fun r : CReq => decide (r.id = id)) (congrArg Prod.fst h)

theorem Dev.mem_of_desk {s t : Dev} (h : t.desk = s.desk) : t.mem = s.mem := congrArg (fun x => x.2.1) h

theorem Dev.now_of_desk {s t : Dev} (h : t.desk = s.desk) : t.now = s.now := congrArg (fun x => x.2.2) h

theorem Dev.memAt_of_desk {s t : Dev} (h : t.desk = s.desk) (a n : Nat) : t.memAt a n = s.memAt a n :=
  congrArg (fun m => memRead 0 m a n) (Dev.mem_of_desk h)

theorem Dev.id_of_creq {s : Dev} {id : Nat} {r : CReq} (h : s.creq id = some r) : r.id = id := by
  simpa using List.find?_some h

theorem Dev.creq_modReq {s : Dev} {id : Nat} {r : CReq} (h : s.creq id = some r) {f : CReq → CReq} (hf : (f r).id = r.id) :
    (s.modReq id f).creq id = some (f r) :=
  find?_modFirst h (decide_eq_true (hf.trans (Dev.id_of_creq h)))

/-- The request that an answer gives its status and result. -/
theorem Dev.creq_answer {s : Dev} {id : Nat} {r : CReq} (h : s.creq id = some r) (st : Nat) (res : Bytes) :
    (s.answer id st res).creq id = some { r with status := some st, result := res, doneAt := s.now } :=
  Dev.creq_modReq h rfl

theorem Dev.mem_answer (s : Dev) (id st : Nat) (res : Bytes) : (s.answer id st res).mem = s.mem := rfl

/-- An answer of steps that left the desk as it was. -/
theorem Dev.creq_answer_of_desk {s t : Dev} (hdesk : t.desk = s.desk) {id : Nat} {r : CReq} (h : s.creq id = some r) (st : Nat) (res : Bytes) :
    (t.answer id st res).creq id = some { r with status := some st, result := res, doneAt := s.now } := by
  rw [← Dev.now_of_desk hdesk]
  exact Dev.creq_answer ((Dev.creq_of_desk hdesk id).trans h) st res

/-- What arrives is the request of its id. -/
theorem Dev.creq_of_arrives {s : Dev} {id : Nat} {k : CKind} {r : CReq} (h : s.arrives id k = some r) : s.creq id = some r := by
  unfold Dev.arrives at h
  cases hc : s.creq id with
  | none => rw [hc] at h; cases h
  | some q =>
    rw [hc] at h
    dsimp only at h
    split at h
    · exact h
    · cases h

/-! ### What stands aside -/

theorem Dev.desk_bump (s : Dev) (r n w by_ : Nat) : (s.bump r n w by_).desk = s.desk := by
  rw [Dev.desk, s.bump_conc, s.bump_mem, s.bump_now, Dev.desk]

theorem Dev.desk_bumpSlice (s : Dev) (sl w : Nat) : (s.bumpSlice sl w).desk = s.desk := s.desk_bump ..

theorem Dev.desk_noMerge (s : Dev) (sl line : Nat) : (s.noMerge sl line).desk = s.desk := rfl

theorem Dev.desk_unitError (s : Dev) (ekind uclass unit : Nat) (ctxs : List Nat) (fcode addr : Nat) (detail : W64) :
    (s.unitError ekind uclass unit ctxs fcode addr detail).desk = s.desk := by
  obtain ⟨_, _, _, h⟩ := s.unitError_frame ekind uclass unit ctxs fcode addr detail
  rw [h]
  rfl

theorem Dev.desk_corrected (s : Dev) (uclass unit : Nat) : (s.corrected uclass unit).desk = s.desk := by
  obtain ⟨_, _, _, h⟩ := s.corrected_frame uclass unit
  rw [h]
  rfl

theorem Dev.desk_collWatch (s : Dev) (r : CReq) : (s.collWatch r).desk = s.desk := by
  unfold Dev.collWatch
  split
  · split <;> rfl
  · rfl

/-- A clean code over a line that is not poisoned: the line is read. -/
theorem Dev.readLine_clean {s : Dev} {off : Nat} (h : s.conc.poison.contains (off / 64 * 64) = false) : s.readLine off .clean = (false, s) := by
  unfold Dev.readLine
  extract_lets sl
  split
  · rw [h]
    rfl
  · rfl

theorem Dev.readLine_poisoned {s : Dev} {off : Nat} (hsl : sliceOf off < 128) (h : s.conc.poison.contains (off / 64 * 64) = true)
    (ecc : Ecc) : s.readLine off ecc = (true, (s.bumpSlice (sliceOf off) 8).bumpSlice (sliceOf off) 9) := by
  unfold Dev.readLine
  exact (if_pos hsl).trans (if_pos h)

/-! ### Slices of HBM offsets (R221) -/

theorem hbmSlice_lt (off : Nat) : hbmSlice off < 128 := by
  have hbits : ∀ (a hi lo : Nat), hi + 1 - lo ≤ 7 → bits a hi lo < 2 ^ 7 := fun a hi lo h =>
    lt_of_lt_of_le (Nat.mod_lt _ (Nat.two_pow_pos _)) (Nat.pow_le_pow_right (by decide) h)
  exact Nat.xor_lt_two_pow (Nat.xor_lt_two_pow (Nat.xor_lt_two_pow (Nat.xor_lt_two_pow (hbits _ 6 0 (by decide)) (hbits _ 13 7 (by decide)))
    (hbits _ 20 14 (by decide))) (hbits _ 27 21 (by decide))) (hbits _ 33 28 (by decide))

theorem sliceOf_hbm {off : Nat} (h : off < lpBase) : sliceOf off = hbmSlice off := if_pos h

/-! ### Reads and writes (R231, R232) -/

/-- From `s` the steps to `t` answer the request of `id` with a status and a result. -/
def Dev.answers (id : Nat) (r : CReq) (st : Nat) (res : Bytes) (flags : BitVec 32) (s t : Dev) : Prop :=
  t.creq id = some { r with status := some st, result := res, flags := flags, doneAt := s.now }

/-- From `s` the steps to `t` store bytes at an offset, and no others. -/
def Dev.storesAt (off : Nat) (bs : Bytes) (s t : Dev) : Prop :=
  t.memAt off bs.length = bs ∧ ∀ a n, (a + n ≤ off ∨ off + bs.length ≤ a) → t.memAt a n = s.memAt a n

section Access
variable {s t : Dev} {id : Nat} {r : CReq}

theorem Dev.answers_answer (hdesk : t.desk = s.desk) (h : s.creq id = some r) (st : Nat) (res : Bytes) :
    s.answers id r st res r.flags (t.answer r.id st res) := by
  rw [Dev.id_of_creq h]
  exact Dev.creq_answer_of_desk hdesk h st res

/-- A store is answered: the desk was as it was, but for the bytes stored. -/
theorem Dev.answers_memPut (hdesk : t.desk = s.desk) (h : s.creq id = some r) (st : Nat) (res bs : Bytes) :
    s.answers id r st res r.flags ((t.memPut r.off bs).answer r.id st res) := by
  rw [Dev.id_of_creq h, Dev.answers, ← Dev.now_of_desk hdesk]
  exact Dev.creq_answer ((Dev.creq_of_desk hdesk id).trans h) st res

theorem Dev.storesAt_memPut (hdesk : t.desk = s.desk) (off : Nat) (bs : Bytes) : s.storesAt off bs (t.memPut off bs) :=
  ⟨t.memAt_memPut off bs, fun a n h => (t.memAt_memPut_other off bs a n h).trans (Dev.memAt_of_desk hdesk a n)⟩

theorem Dev.storesAt_of_mem {off : Nat} {bs : Bytes} {g : Dev} (h : s.storesAt off bs t) (hmem : g.mem = t.mem) : s.storesAt off bs g := by
  unfold Dev.storesAt Dev.memAt at *
  rwa [hmem]

/-- The reads of a slice that are still pending when a read comes (R232). -/
def Dev.pendingReads (s : Dev) (r : CReq) : List SliceRead :=
  (s.conc.reads.get (sliceOf r.off) : List SliceRead).filter fun p => decide (r.came ≤ p.at_ + 90)

theorem mem_of_pending {q : SliceRead} (h : (s.pendingReads r).find? (fun p => p.line == r.off / 64 && (p.timed || !r.timed)) = some q) :
    q ∈ (s.conc.reads.get (sliceOf r.off) : List SliceRead) ∧ q.line = r.off / 64 := by
  have hline := List.find?_some h
  simp only [Bool.and_eq_true, beq_iff_eq] at hline
  exact ⟨List.mem_of_mem_filter (List.mem_of_find?_eq_some h), hline.1⟩

/-- A read's answer by its outcome. -/
def Dev.outcome (s : Dev) (r : CReq) (bad : Bool) : Dev :=
  if bad then s.answer r.id stMemUe else s.answer r.id stOk (s.memAt r.off r.len)

/-- A read shares the outcome of the one that it merges with, or has its own, which is noted for those that come (R232). -/
theorem sliceReadAt_eq (r : CReq) (ecc : Ecc) (s : Dev) : sliceReadAt r ecc s =
    match (s.pendingReads r).find? fun p => p.line == r.off / 64 && (p.timed || !r.timed) with
    | some q => (s.bumpSlice (sliceOf r.off) 4).outcome r q.bad
    | none => (((s.bumpSlice (sliceOf r.off) 0).readLine r.off ecc).2.modConc fun c =>
        { c with reads := c.reads.set (sliceOf r.off) (s.pendingReads r ++
          [{ line := r.off / 64, at_ := r.came, timed := r.timed, bad := ((s.bumpSlice (sliceOf r.off) 0).readLine r.off ecc).1 }]) }).outcome r
        ((s.bumpSlice (sliceOf r.off) 0).readLine r.off ecc).1 := rfl

theorem Dev.outcome_ok (hdesk : t.desk = s.desk) (h : s.creq id = some r) :
    s.answers id r stOk (s.memAt r.off r.len) r.flags (t.outcome r false) ∧ (t.outcome r false).mem = s.mem := by
  rw [Dev.outcome, if_neg Bool.false_ne_true, Dev.memAt_of_desk hdesk]
  exact ⟨Dev.answers_answer hdesk h _ _, (t.mem_answer ..).trans (Dev.mem_of_desk hdesk)⟩

theorem Dev.outcome_bad (hdesk : t.desk = s.desk) (h : s.creq id = some r) :
    s.answers id r stMemUe [] r.flags (t.outcome r true) ∧ (t.outcome r true).mem = s.mem :=
  ⟨Dev.answers_answer hdesk h _ _, (t.mem_answer r.id stMemUe []).trans (Dev.mem_of_desk hdesk)⟩

section Clean
variable (hpoison : s.conc.poison.contains (r.off / 64 * 64) = false) (h : s.creq id = some r)
include hpoison h

theorem sliceReadAt_answers (hreads : ∀ q ∈ (s.conc.reads.get (sliceOf r.off) : List SliceRead), q.line = r.off / 64 → q.bad = false) :
    s.answers id r stOk (s.memAt r.off r.len) r.flags (sliceReadAt r .clean s) ∧ (sliceReadAt r .clean s).mem = s.mem := by
  rw [sliceReadAt_eq]
  cases hq : (s.pendingReads r).find? fun p => p.line == r.off / 64 && (p.timed || !r.timed) with
  | some q =>
    dsimp only
    rw [hreads q (mem_of_pending hq).1 (mem_of_pending hq).2]
    exact Dev.outcome_ok (s.desk_bumpSlice _ 4) h
  | none =>
    have hclean : (s.bumpSlice (sliceOf r.off) 0).conc.poison.contains (r.off / 64 * 64) = false := by
      rw [Dev.bumpSlice, s.bump_conc]
      exact hpoison
    dsimp only
    rw [Dev.readLine_clean hclean]
    exact Dev.outcome_ok (s.desk_bumpSlice (sliceOf r.off) 0) h

theorem sliceWriteAt_stores :
    s.answers id r stOk [] r.flags (sliceWriteAt r .clean s) ∧ s.storesAt r.off r.data (sliceWriteAt r .clean s) := by
  unfold sliceWriteAt
  extract_lets -underBinder sl line t
  have hdesk : t.desk = s.desk := ((s.noMerge sl (r.off / 64)).desk_bumpSlice sl 1).trans (s.desk_noMerge ..)
  have hclean : t.conc.poison.contains (r.off / 64 * 64) = false := by
    show ((s.noMerge sl (r.off / 64)).bumpSlice sl 1).conc.poison.contains (r.off / 64 * 64) = false
    rw [Dev.bumpSlice, Dev.bump_conc]
    exact hpoison
  clear_value t
  split
  next hlen =>
    have hlink : (if sl < 128 then (false, t) else t.lpLink sl r.off .clean) = (false, t) := by split <;> rfl
    rw [hlink]
    have hu : (t.modConc fun c => { c with poison := c.poison.filter fun p => p != line }).desk = s.desk := hdesk
    exact ⟨Dev.answers_memPut hu h _ _ _, Dev.storesAt_of_mem (Dev.storesAt_memPut hu _ _) rfl⟩
  next =>
    rw [Dev.readLine_clean hclean]
    exact ⟨Dev.answers_memPut hdesk h _ _ _, Dev.storesAt_of_mem (Dev.storesAt_memPut hdesk _ _) rfl⟩

end Clean
end Access

/-! ### The obligation -/

theorem target_not_chest {d : Dev} {r : CReq} (h : d.target r = .hbm ∨ d.target r = .lpddr) :
    (∀ c a, d.target r ≠ .chest c a) ∧ d.target r ≠ .unmapped := by
  rcases h with h | h <;> rw [h] <;> exact ⟨fun _ _ => Region.noConfusion, Region.noConfusion⟩

section Slices
variable {id : Nat} {r : CReq} {d : Dev} (htarget : d.target r = .hbm ∨ d.target r = .lpddr)
include htarget

theorem sliceRead_eq (h : d.arrives id .read = some r) (ecc : Ecc) : sliceRead id ecc d = sliceReadAt r ecc d := by
  rw [sliceRead, h]
  rcases htarget with ht | ht <;> dsimp only <;> rw [ht]

theorem sliceWrite_eq (h : d.arrives id .write = some r) (ecc : Ecc) : sliceWrite id ecc d = sliceWriteAt r ecc d := by
  rw [sliceWrite, h]
  rcases htarget with ht | ht <;> dsimp only <;> rw [ht]

/-- An atomic that is supported, over a line that is read cleanly. -/
theorem wordAtomic_eq (h : d.arrives id .atomic = some r) (hok : atomOk r.aop r.aw r.off = true)
    (hpoison : d.conc.poison.contains (r.off / 64 * 64) = false) : ∃ t : Dev, t.desk = d.desk ∧ wordAtomic id .clean d =
      (((t.doAtomic r.aop r.aw r.off r.op1 r.op2).2.2.answer id stOk
        (leBytes (if r.aw then 8 else 4) (t.doAtomic r.aop r.aw r.off r.op1 r.op2).1)).modReq id fun q =>
          { q with flags := BitVec.ofNat 32 (t.doAtomic r.aop r.aw r.off r.op1 r.op2).2.1 }).collWatch r := by
  have hclean : ((d.noMerge (sliceOf r.off) (r.off / 64)).bumpSlice (sliceOf r.off) 2).conc.poison.contains (r.off / 64 * 64) = false := by
    rw [Dev.bumpSlice, Dev.bump_conc]
    exact hpoison
  refine ⟨(d.noMerge (sliceOf r.off) (r.off / 64)).bumpSlice (sliceOf r.off) 2, Dev.desk_bumpSlice _ _ _, ?_⟩
  rw [wordAtomic, h]
  rcases htarget with ht | ht <;> dsimp only <;> rw [ht] <;> dsimp only <;> rw [if_neg (by rw [hok]; decide), Dev.readLine_clean hclean]

theorem lineAdd_eq (h : d.arrives id .lineAdd = some r) (hpoison : d.conc.poison.contains (r.off / 64 * 64) = false) :
    ∃ t : Dev, t.desk = d.desk ∧ lineAdd id .clean d =
      ((t.memPut r.off (addLine r.afmt (t.memAt r.off 64) r.data).1).answer id stOk).modReq id fun q =>
        { q with flags := BitVec.ofNat 32 (addLine r.afmt (t.memAt r.off 64) r.data).2 } := by
  have hclean : ((d.noMerge (sliceOf r.off) (r.off / 64)).bumpSlice (sliceOf r.off) 3).conc.poison.contains (r.off / 64 * 64) = false := by
    rw [Dev.bumpSlice, Dev.bump_conc]
    exact hpoison
  refine ⟨(d.noMerge (sliceOf r.off) (r.off / 64)).bumpSlice (sliceOf r.off) 3, Dev.desk_bumpSlice _ _ _, ?_⟩
  rw [lineAdd, h]
  rcases htarget with ht | ht <;> dsimp only <;> rw [ht] <;> dsimp only <;> rw [Dev.readLine_clean hclean]

end Slices

/-- A store whose flags are then set in its request. -/
theorem Dev.answers_flagged {s t : Dev} {id : Nat} {r : CReq} {st : Nat} {res : Bytes} {fl : BitVec 32} (h : s.answers id r st res fl t)
    (flags : BitVec 32) : s.answers id r st res flags (t.modReq id fun q => { q with flags := flags }) :=
  Dev.creq_modReq h rfl

/-- Settles O29: the reads and writes by their lemmas, the atomics by what they store. -/
theorem slicesPerformRequests : Obligations.SlicesPerformRequests := by
  intro id r s htarget hpoison answers stores
  refine ⟨fun harr hreads => ?read, fun harr => ?write, fun harr hok => ?atomic, fun harr => ?add⟩
  case read =>
    have hrun := sliceReadAt_answers hpoison (Dev.creq_of_arrives harr) hreads
    rw [← sliceRead_eq htarget harr] at hrun
    exact ⟨_, exec_of_act (f := sliceRead id .clean) rfl rfl, hrun⟩
  case write =>
    have hrun := sliceWriteAt_stores hpoison (Dev.creq_of_arrives harr)
    rw [← sliceWrite_eq htarget harr] at hrun
    exact ⟨_, exec_of_act (f := sliceWrite id .clean) rfl rfl, hrun⟩
  case atomic =>
    intro n old v
    obtain ⟨t, hdesk, hrun⟩ := wordAtomic_eq htarget harr hok hpoison
    have hcreq := Dev.creq_of_arrives harr
    have hold : t.memVal r.off n = old := congrArg leVal (Dev.memAt_of_desk hdesk r.off n)
    have hdo : t.doAtomic r.aop r.aw r.off r.op1 r.op2 = (old, v.2, t.memPut r.off (leBytes n v.1)) := by
      show (t.memVal r.off n, (atomicOp r.aop (8 * n) (t.memVal r.off n) (r.op1 % 2 ^ (8 * n)) (r.op2 % 2 ^ (8 * n))).2,
        t.memPut r.off (leBytes n (atomicOp r.aop (8 * n) (t.memVal r.off n) (r.op1 % 2 ^ (8 * n)) (r.op2 % 2 ^ (8 * n))).1)) = _
      rw [hold]
    rw [hdo] at hrun
    have hans := Dev.answers_flagged (Dev.answers_memPut hdesk hcreq stOk (leBytes n old) (leBytes n v.1)) (BitVec.ofNat 32 v.2)
    rw [Dev.id_of_creq hcreq] at hans
    refine ⟨_, exec_of_act (f := wordAtomic id .clean) rfl hrun, ?_, ?_⟩
    · exact (Dev.creq_of_desk (Dev.desk_collWatch _ r) id).trans hans
    · exact Dev.storesAt_of_mem (Dev.storesAt_memPut hdesk r.off (leBytes n v.1)) ((Dev.mem_of_desk (Dev.desk_collWatch _ r)).trans rfl)
  case add =>
    intro v
    obtain ⟨t, hdesk, hrun⟩ := lineAdd_eq htarget harr hpoison
    have hcreq := Dev.creq_of_arrives harr
    rw [Dev.memAt_of_desk hdesk] at hrun
    have hans := Dev.answers_flagged (Dev.answers_memPut hdesk hcreq stOk [] v.1) (BitVec.ofNat 32 v.2)
    rw [Dev.id_of_creq hcreq] at hans
    exact ⟨_, exec_of_act (f := lineAdd id .clean) rfl hrun, hans, Dev.storesAt_of_mem (Dev.storesAt_memPut hdesk r.off v.1) rfl⟩

/-! ### Requests that memory turns away (R151, R175, R215, R233, R235) -/

theorem Dev.nextId_rouse (s : Dev) (b : Nat) : (s.rouse b).nextId = s.nextId := iff_keeps Dev.nextId (fun _ => by rfl) _ s

/-- What reaches a Chest window that is off, and the row request that another becomes. -/
theorem Dev.atChest_eq (s : Dev) (r : CReq) (c a : Nat) : s.atChest r c a =
    if (s.rouse (c / 4)).chestIsOff c (a / 64) then (s.rouse (c / 4)).answer r.id stChestOff
    else
      let t := ((s.rouse (c / 4)).newUnit c { stamped := r.eff.isSome, eff := r.eff, hold := r.hold, release := r.release, left := 1 }).2.modReq
        r.id fun q => { q with arrived := true }
      if r.kind = .write then
        t.pushReq c pCwr { row := a / 64, unit := s.nextId, isWrite := true, data := rowAt (a % 64) r.data, mask := byteMask (a % 64) r.len,
                           sink := .creq r.id, since := s.now, waitHeld := r.waitHeld }
      else t.pushReq c pCrd { row := a / 64, unit := s.nextId, sink := .creq r.id, since := s.now } := by
  have hid : (s.rouse (c / 4)).nextId = s.nextId := s.nextId_rouse _
  have hnow : (s.rouse (c / 4)).now = s.now := s.now_rouse _
  rw [← hid, ← hnow]
  rfl

theorem Dev.kind_of_arrives {s : Dev} {id : Nat} {k : CKind} {r : CReq} (h : s.arrives id k = some r) : r.kind = k := by
  unfold Dev.arrives at h
  split at h
  · cases h
  · split at h
    next hk =>
      cases h
      exact hk.1
    · cases h

/-- A read of a line whose reads fail. -/
theorem sliceReadAt_fails {d : Dev} {id : Nat} {r : CReq} (h : d.creq id = some r) (hoff : r.off < lpBase)
    (hpoison : d.conc.poison.contains (r.off / 64 * 64) = true)
    (hreads : ∀ q ∈ (d.conc.reads.get (sliceOf r.off) : List SliceRead), q.line = r.off / 64 → q.bad = true) (ecc : Ecc) :
    d.answers id r stMemUe [] r.flags (sliceReadAt r ecc d) ∧ (sliceReadAt r ecc d).mem = d.mem := by
  rw [sliceReadAt_eq]
  cases hq : (d.pendingReads r).find? fun p => p.line == r.off / 64 && (p.timed || !r.timed) with
  | some q =>
    dsimp only
    rw [hreads q (mem_of_pending hq).1 (mem_of_pending hq).2]
    exact Dev.outcome_bad (d.desk_bumpSlice _ 4) h
  | none =>
    have hsl : sliceOf r.off < 128 := by
      rw [sliceOf_hbm hoff]
      exact hbmSlice_lt _
    have hp : (d.bumpSlice (sliceOf r.off) 0).conc.poison.contains (r.off / 64 * 64) = true := by
      rw [Dev.bumpSlice, d.bump_conc]
      exact hpoison
    dsimp only
    rw [Dev.readLine_poisoned hsl hp]
    exact Dev.outcome_bad ((Dev.desk_bumpSlice _ _ 9).trans ((Dev.desk_bumpSlice _ _ 8).trans (d.desk_bumpSlice (sliceOf r.off) 0))) h

/-- A read that merges with one that failed shares its outcome (R232). -/
theorem sliceReadAt_shares {d : Dev} {id : Nat} {r : CReq} (h : d.creq id = some r) {q : SliceRead}
    (hq : (d.pendingReads r).find? (fun q => q.line == r.off / 64 && (q.timed || !r.timed)) = some q) (hbad : q.bad = true) (ecc : Ecc) :
    d.answers id r stMemUe [] r.flags (sliceReadAt r ecc d) ∧ (sliceReadAt r ecc d).mem = d.mem := by
  rw [sliceReadAt_eq, hq]
  dsimp only
  rw [hbad]
  exact Dev.outcome_bad (d.desk_bumpSlice _ 4) h

/-- Settles O30: each command by the region and the branch that its hypotheses choose. -/
theorem requestsThatMemoryTurnsAway : Obligations.RequestsThatMemoryTurnsAway := by
  intro id r ecc s d turnsAway
  have hfails : ∀ {g : Dev}, d.answers id r stMemUe [] r.flags g ∧ g.mem = d.mem →
      (g.creq id).bind (·.status) = some stMemUe ∧ g.mem = d.mem := fun h => ⟨by rw [h.1]; rfl, h.2⟩
  refine ⟨fun ht => ⟨fun harr => ?read, fun harr => ?write, fun harr => ?atomic, fun harr => ?add⟩, fun ht harr hok => ?unsupported,
    fun ht hoff hpoison hreads harr => ?poisoned, fun c a ht => ⟨fun harr => ?chestAtomic, fun harr => ?chestAdd, ?chest⟩,
    fun q ht harr hq hbad => ?shared⟩
  case read =>
    refine exec_of_act (f := sliceRead id ecc) rfl ?_
    rw [sliceRead, harr]
    dsimp only
    rw [ht]
  case write =>
    refine exec_of_act (f := sliceWrite id ecc) rfl ?_
    rw [sliceWrite, harr]
    dsimp only
    rw [ht]
  case atomic =>
    refine exec_of_act (f := wordAtomic id ecc) rfl ?_
    rw [wordAtomic, harr]
    dsimp only
    rw [ht]
  case add =>
    refine exec_of_act (f := lineAdd id ecc) rfl ?_
    rw [lineAdd, harr]
    dsimp only
    rw [ht]
  case unsupported =>
    refine exec_of_act (f := wordAtomic id ecc) rfl ?_
    rw [wordAtomic, harr]
    dsimp only
    rcases ht with ht | ht <;> rw [ht] <;> exact if_pos (by rw [hok]; rfl)
  case poisoned =>
    have hrun := sliceReadAt_fails (Dev.creq_of_arrives harr) hoff hpoison (by rw [sliceOf_hbm hoff]; exact hreads) ecc
    rw [← sliceRead_eq (.inl ht) harr] at hrun
    exact ⟨_, exec_of_act (f := sliceRead id ecc) rfl rfl, hfails hrun⟩
  case chestAtomic =>
    refine exec_of_act (f := wordAtomic id ecc) rfl ?_
    rw [wordAtomic, harr]
    dsimp only
    rw [ht]
  case chestAdd =>
    refine exec_of_act (f := lineAdd id ecc) rfl ?_
    rw [lineAdd, harr]
    dsimp only
    rw [ht]
  case chest =>
    intro g u asked
    have hread : d.arrives id .read = some r → sliceRead id ecc d = d.atChest r c a := fun harr => by
      rw [sliceRead, harr]
      dsimp only
      rw [ht]
    have hwrite : d.arrives id .write = some r → sliceWrite id ecc d = d.atChest r c a := fun harr => by
      rw [sliceWrite, harr]
      dsimp only
      rw [ht]
    refine ⟨fun hoff harr => exec_of_act (f := sliceRead id ecc) rfl ((hread harr).trans ((d.atChest_eq r c a).trans (if_pos hoff))),
      fun hoff harr => exec_of_act (f := sliceWrite id ecc) rfl ((hwrite harr).trans ((d.atChest_eq r c a).trans (if_pos hoff))),
      fun hon harr => exec_of_act (f := sliceRead id ecc) rfl ((hread harr).trans ((d.atChest_eq r c a).trans
        ((if_neg (by rw [hon]; decide)).trans ((if_neg ?kindRead).trans rfl)))),
      fun hon harr => exec_of_act (f := sliceWrite id ecc) rfl ((hwrite harr).trans ((d.atChest_eq r c a).trans
        ((if_neg (by rw [hon]; decide)).trans ((if_pos (Dev.kind_of_arrives harr)).trans rfl))))⟩
    case kindRead =>
      rw [Dev.kind_of_arrives harr]
      decide
  case shared =>
    have hrun := sliceReadAt_shares (Dev.creq_of_arrives harr) hq hbad ecc
    rw [← sliceRead_eq ht harr] at hrun
    exact ⟨_, exec_of_act (f := sliceRead id ecc) rfl rfl, hfails hrun⟩

end Sys2Proof.Machine

/-! ## Transfers start, walk their lines and complete (R91, R217 to R219, R229, R235, R244, R454) -/
namespace Sys2Proof.Machine
open Sys2Proof

/-! ### Instances start (R229) -/

section NewInst
variable (b k c : Nat) (desc : Bytes) (g : Dev)

/-- The queue of a class in a block's transfer engine. -/
def Xfer.queue (x : Xfer) (timed : Bool) : List XInst := if timed then x.timedQ else x.bulkQ

theorem Dev.newInst_of_full (h : 8 ≤ ((g.block b).xfer.queue (xferD desc).timed).length) :
    g.newInst b k desc c = g.faultCtx c 0x000D (0x1000 + 4 * b + (xferD desc).chest) k := by
  refine if_pos ?_
  unfold Xfer.queue at h
  cases hx : (xferD desc).timed <;> rw [hx] at h <;> exact h

theorem Dev.newInst_of_room (h : ((g.block b).xfer.queue (xferD desc).timed).length < 8) : g.newInst b k desc c =
    (({ g with nextId := g.nextId + 1 } : Dev).rouse b).modXfer b fun y =>
      if (xferD desc).timed then
        { y with timedQ := y.timedQ ++ [{ id := g.nextId, didx := k, desc := desc, eff := effStamp (xferD desc).stamp (g.beatB b), ctx := c,
                                          trigAt := g.now }] }
      else { y with bulkQ := y.bulkQ ++ [{ id := g.nextId, didx := k, desc := desc, eff := effStamp (xferD desc).stamp (g.beatB b), ctx := c,
                                           trigAt := g.now }] } := by
  refine if_neg ?_
  unfold Xfer.queue at h
  cases hx : (xferD desc).timed <;> rw [hx] at h <;> exact Nat.not_le.mpr h

end NewInst

/-- A front descriptor that has not fired in this cycle, by its trigger. -/
theorem frontTrigger_eq {b k l c : Nat} {desc : Bytes} {d : Dev} (hdesc : (d.shelf b).transfers[k]? = some desc) (hlot : d.lotOf b = some l)
    (hfront : d.frontOf b = some c) (hfirst : (d.block b).xfer.justFired k d.now = false) : frontTrigger b k d =
      match (xferD desc).trig with
      | 0 => d.iff ((d.lot l).beat.active && d.now == (d.lot l).beat.start + 8 * (xferD desc).targ) fun s => s.newInst b k desc c
      | 1 => d.iff ((d.block b).xfer.latch.getLsbD (bits (xferD desc).targ 4 0)) fun s => s.fireLine b (bits (xferD desc).targ 4 0) c
      | 2 => d.iff ((d.stall (4 * b + (xferD desc).chest)).task.isSome && (d.stall (4 * b + (xferD desc).chest)).beatStart == d.now)
          fun s => s.newInst b k desc c
      | _ => d := by
  rw [frontTrigger, hdesc, hlot, hfront]
  dsimp only
  rw [hfirst]
  exact (if_neg Bool.false_ne_true).trans rfl

/-- The latch of a line fires the descriptors that name it, and clears. -/
theorem Dev.fireLine_eq (s : Dev) (b line c : Nat) : s.fireLine b line c =
    (s.shelf b).transfers.zipIdx.foldl (fun g p => if (xferD p.1).trig = 1 ∧ bits (xferD p.1).targ 4 0 = line then g.newInst b p.2 p.1 c else g)
      (s.modXfer b fun y => { y with latch := (y.latch &&& ~~~ (BitVec.ofNat 32 (2 ^ line))) ||| (y.again &&& (BitVec.ofNat 32 (2 ^ line))),
                                     again := y.again &&& ~~~ (BitVec.ofNat 32 (2 ^ line)) }) := by
  refine congrArg (fun f => List.foldl f _ _) (funext fun g => funext fun p => ?_)
  refine if_congr ?_ rfl rfl
  rw [Bool.and_eq_true, beq_iff_eq, beq_iff_eq]

/-- Settles O31: what a trigger starts by the room in its queue, each trigger by its kind. -/
theorem transfersStartAtTheirTrigger : Obligations.TransfersStartAtTheirTrigger := by
  refine ⟨fun b k c desc g => ⟨fun h => g.newInst_of_full b k c desc h, fun h => ?room⟩, fun b k l c desc s hb hawake => ?_⟩
  case room => exact g.newInst_of_room b k c desc h
  intro d x fires
  have hrun : ∀ {n : Nat}, n < 32 → transferTrigger b n d = if n < 16 then frontTrigger b n d else preloadTrigger b (n - 16) d :=
    fun _ => if_neg (by rw [hawake]; decide)
  refine ⟨fun hk hdesc hlot hfront hfirst => ?front, fun rest hk hwait hdesc hlot hroom => ?preload⟩
  case front =>
    have hgo : ∀ {g : Dev}, frontTrigger b k d = g → fires g := fun h =>
      exec_of_actOn (f := transferTrigger b k) rfl (by simp [hb]; omega) ((hrun (by omega)).trans ((if_pos hk).trans h))
    have htrig := frontTrigger_eq hdesc hlot hfront hfirst
    refine ⟨fun hx hactive hnow => hgo ?beat, fun hx => ?bell, fun hx htask hstart => hgo ?task⟩
    case beat =>
      rw [htrig, show (xferD desc).trig = 0 from hx]
      exact if_pos (by rw [Bool.and_eq_true, beq_iff_eq]; exact ⟨hactive, hnow⟩)
    case bell =>
      intro line mark hlatch
      refine hgo ?_
      rw [htrig, show (xferD desc).trig = 1 from hx]
      exact (if_pos hlatch).trans (d.fireLine_eq b line c)
    case task =>
      rw [htrig, show (xferD desc).trig = 2 from hx]
      exact if_pos (by rw [Bool.and_eq_true, beq_iff_eq]; exact ⟨htask, hstart⟩)
  case preload =>
    refine exec_of_actOn (f := transferTrigger b (16 + k)) rfl (by simp [hb]; omega) ((hrun (by omega)).trans ((if_neg (by omega)).trans ?_))
    rw [Nat.add_sub_cancel_left, preloadTrigger]
    dsimp only
    rw [hwait, hdesc, hlot]
    refine (if_pos ⟨rfl, hroom⟩).trans ?_
    have hlots : (d.rouse b).lot l = d.lot l := congrArg (fun t : Tab Lot => t.get l) (iff_keeps Dev.lots (fun _ => by rfl) _ d)
    rw [← d.nextId_rouse b, ← d.now_rouse b, ← hlots]
    rfl

/-! ### Arbitration (R219) -/

/-- The turn of a request at a point whose last turn was a port's. -/
def turnsOff (turn : Nat × Nat) (r : CReq) : Nat := (r.port + 1024 - turn.2) % 1024

/-- One step of the choice among requests of equal priority. -/
def betterTurn (turn : Nat × Nat) (m : Option CReq) (r : CReq) : Option CReq := match m with
  | none => some r
  | some x => if turnsOff turn r < turnsOff turn x then some r else m

theorem foldl_betterTurn (turn : Nat × Nat) (l : List CReq) {x r : CReq} (h : l.foldl (betterTurn turn) (some x) = some r) :
    (r = x ∨ r ∈ l) ∧ turnsOff turn r ≤ turnsOff turn x ∧ ∀ q ∈ l, turnsOff turn r ≤ turnsOff turn q := by
  induction l generalizing x with
  | nil =>
    cases h
    exact ⟨.inl rfl, le_refl _, fun q hq => absurd hq List.not_mem_nil⟩
  | cons y l ih =>
    rw [List.foldl_cons] at h
    by_cases hy : turnsOff turn y < turnsOff turn x
    · rw [show betterTurn turn (some x) y = some y from if_pos hy] at h
      obtain ⟨hmem, hle, hall⟩ := ih h
      exact ⟨.inr (List.mem_cons.mpr hmem), by omega, List.forall_mem_cons.mpr ⟨hle, hall⟩⟩
    · rw [show betterTurn turn (some x) y = some x from if_neg hy] at h
      obtain ⟨hmem, hle, hall⟩ := ih h
      exact ⟨hmem.imp_right (List.mem_cons_of_mem y), hle, List.forall_mem_cons.mpr ⟨by omega, hall⟩⟩

/-- The choice is the request whose turn comes first. -/
theorem foldl_betterTurn_none (turn : Nat × Nat) (l : List CReq) {r : CReq} (h : l.foldl (betterTurn turn) none = some r) :
    r ∈ l ∧ ∀ q ∈ l, turnsOff turn r ≤ turnsOff turn q := by
  cases l with
  | nil => cases h
  | cons x l =>
    obtain ⟨hmem, hle, hall⟩ := foldl_betterTurn turn l h
    exact ⟨List.mem_cons.mpr hmem, List.forall_mem_cons.mpr ⟨hle, hall⟩⟩

/-- The requests among which a point chooses: VC 0, or the others where their turn has come. -/
def grantPool (turn : Nat × Nat) (l : List CReq) : List CReq :=
  if (l.filter fun r => r.vc == 0).isEmpty || (decide (7 ≤ turn.1) && !(l.filter fun r => r.vc != 0).isEmpty) then l.filter fun r => r.vc != 0
  else l.filter fun r => r.vc == 0

theorem pickNext_eq (turn : Nat × Nat) (l : List CReq) : pickNext turn l = (grantPool turn l).foldl (betterTurn turn) none := by
  unfold pickNext
  extract_lets -underBinder hi lo pool off
  refine congrArg (fun f => List.foldl f none pool) (funext fun m => funext fun r => ?_)
  cases m with
  | none => rfl
  | some x => rfl

/-- The pool holds the requests of one priority, and of the lower one where VC 0 is not waiting or has had its seven. -/
theorem mem_grantPool (turn : Nat × Nat) (l : List CReq) : ∃ low : Bool,
    ((∃ q ∈ l, q.vc = 0) → (low = true ↔ 7 ≤ turn.1 ∧ ∃ q ∈ l, q.vc ≠ 0)) ∧
    ∀ q, q ∈ grantPool turn l ↔ q ∈ l ∧ (q.vc ≠ 0 ↔ low = true) := by
  refine ⟨(l.filter fun r => r.vc == 0).isEmpty || (decide (7 ≤ turn.1) && !(l.filter fun r => r.vc != 0).isEmpty), fun h => ?_, fun q => ?_⟩
  · have hhi : (l.filter fun r => r.vc == 0).isEmpty = false := by
      obtain ⟨q, hq, hvc⟩ := h
      simpa using ⟨q, hq, hvc⟩
    rw [hhi]
    simp
  · unfold grantPool
    split
    next hlow => simp [hlow]
    next hlow =>
      rw [Bool.not_eq_true] at hlow
      rw [hlow]
      simp

theorem pickNext_spec {turn : Nat × Nat} {l : List CReq} {r : CReq} (h : pickNext turn l = some r) :
    r ∈ l ∧ ((∃ q ∈ l, q.vc = 0) → (r.vc ≠ 0 ↔ 7 ≤ turn.1 ∧ ∃ q ∈ l, q.vc ≠ 0)) ∧
      ∀ q ∈ l, (q.vc = 0 ↔ r.vc = 0) → turnsOff turn r ≤ turnsOff turn q := by
  rw [pickNext_eq] at h
  obtain ⟨low, hlow, hpool⟩ := mem_grantPool turn l
  obtain ⟨hmem, hall⟩ := foldl_betterTurn_none turn _ h
  obtain ⟨hl, hr⟩ := (hpool r).mp hmem
  exact ⟨hl, fun hhi => hr.trans (hlow hhi), fun q hq hvc => hall q ((hpool q).mpr ⟨hq, (not_congr hvc).trans hr⟩)⟩

/-! ### Lines are issued (R229, R244) -/

theorem Dev.tcache_modInst (s : Dev) (b id : Nat) (f : XInst → XInst) (c : Nat) :
    ((s.modInst b id f).block c).xfer.tcache = (s.block c).xfer.tcache := by
  by_cases h : c = b
  · subst h
    rw [Dev.modInst, Dev.block_modBlock]
  · rw [Dev.modInst, Dev.block_modBlock_other _ _ _ _ h]

theorem Dev.pooledLine_congr {s t : Dev} (hmem : t.mem = s.mem) (hctxs : t.ctxs = s.ctxs) {b : Nat}
    (hcache : (t.block b).xfer.tcache = (s.block b).xfer.tcache) (c : Nat) (x : XferD) (k : Nat) : t.pooledLine b c x k = s.pooledLine b c x k := by
  have hpool : t.poolD c = s.poolD c := by
    unfold Dev.poolD Dev.ctx Dev.memAt
    rw [hmem, hctxs]
  unfold Dev.pooledLine
  rw [hpool, hcache]

theorem Dev.lineTarget_modInst (s : Dev) (b id : Nat) (f : XInst → XInst) (i : XInst) (k : Nat) :
    (s.modInst b id f).lineTarget b i k = s.lineTarget b i k := by
  have h := Dev.pooledLine_congr (s := s) (t := s.modInst b id f) rfl rfl (s.tcache_modInst b id f b) i.ctx (xferD i.desc) k
  unfold Dev.lineTarget
  dsimp only
  rw [h]

/-- A line that is issued, in its transfer. -/
def Dev.issuing (d : Dev) (b : Nat) (i : XInst) : Dev :=
  d.modInst b i.id fun j => { j with next := i.next + 1, lastIssue := d.now + 1, isPending := false, missAt := none }

/-- The unit of the Chest row that a line toward memory reads (R230). -/
def XInst.lineUnit (i : XInst) : AccUnit :=
  { stamped := true, code := (xferD i.desc).stamp, eff := some i.eff, release := (xferD i.desc).release, left := 1, ctx := some i.ctx }

theorem Dev.issueNext_eq (d : Dev) (b : Nat) (i : XInst) : d.issueNext b i = match d.lineTarget b i i.next with
    | none => (d.issuing b i).lineReply b i.id i.next stPoolInvalid 0
    | some a =>
      if (xferD i.desc).dir = 0 then (d.issuing b i).issueLine b i i.next a []
      else
        ((d.issuing b i).newUnit (4 * b + (xferD i.desc).chest) i.lineUnit).2.pushReq (4 * b + (xferD i.desc).chest) pCrd
            { row := (xferD i.desc).lineRow i.next, unit := d.nextId, sink := .xferRead b i.id i.next a, since := d.now } := by
  rw [← d.lineTarget_modInst b i.id fun j => { j with next := i.next + 1, lastIssue := d.now + 1, isPending := false, missAt := none }]
  rfl

section Issue
variable {b : Nat} {timed : Bool} {i : XInst} {d : Dev} (hrun : (d.block b).island = .run) (htest : d.engineTested 10 b = false)
  (hfirst : ((d.block b).xfer.queue timed).any (fun j => j.lastIssue == d.now + 1) = false)
  (hi : ((d.block b).xfer.queue timed).find? (fun j => !j.stopped && decide (j.next < (xferD j.desc).lines)) = some i)
include hrun htest hfirst hi

theorem transferLineIssue_of_next : transferLineIssue b timed d =
    if (xferD i.desc).pooled ∧ d.pooledLine b i.ctx (xferD i.desc) i.next = .moving then d.translate b i else d.issueNext b i := by
  unfold Xfer.queue at hfirst hi
  unfold transferLineIssue
  dsimp only
  rw [hrun, htest, hfirst, hi]
  exact if_neg (by simp)

theorem transferLineIssue_of_target {a : Nat} (ha : d.lineTarget b i i.next = some a)
    (hstay : ¬ ((xferD i.desc).pooled = true ∧ d.pooledLine b i.ctx (xferD i.desc) i.next = .moving)) : transferLineIssue b timed d =
      if (xferD i.desc).dir = 0 then (d.issuing b i).issueLine b i i.next a []
      else
        ((d.issuing b i).newUnit (4 * b + (xferD i.desc).chest) i.lineUnit).2.pushReq (4 * b + (xferD i.desc).chest) pCrd
            { row := (xferD i.desc).lineRow i.next, unit := d.nextId, sink := .xferRead b i.id i.next a, since := d.now } := by
  rw [transferLineIssue_of_next hrun htest hfirst hi, if_neg hstay, Dev.issueNext_eq, ha]

theorem transferLineIssue_of_invalid (hpooled : (xferD i.desc).pooled = true)
    (hhit : d.pooledLine b i.ctx (xferD i.desc) i.next = .invalid) :
    transferLineIssue b timed d = (d.issuing b i).lineReply b i.id i.next stPoolInvalid 0 := by
  have hnone : d.lineTarget b i i.next = none := by
    unfold Dev.lineTarget
    dsimp only
    rw [hpooled, hhit]
    rfl
  rw [transferLineIssue_of_next hrun htest hfirst hi, if_neg (by rw [hhit]; simp), Dev.issueNext_eq, hnone]

theorem transferLineIssue_of_moving (hpooled : (xferD i.desc).pooled = true)
    (hhit : d.pooledLine b i.ctx (xferD i.desc) i.next = .moving) : transferLineIssue b timed d = d.translate b i := by
  rw [transferLineIssue_of_next hrun htest hfirst hi, if_pos ⟨hpooled, hhit⟩]

end Issue

/-! ### Replies come (R217, R219, R235, R244) -/

theorem Dev.replyPasses_frame (s : Dev) (r : CReq) :
    ∃ conc counters bumped, s.replyPasses r = { s with conc := conc, counters := counters, bumped := bumped } := by
  unfold Dev.replyPasses Dev.iff
  split
  · exact ⟨_, _, _, rfl⟩
  · exact ⟨_, _, _, rfl⟩

theorem Dev.iff_bumpSlice_frame (s : Dev) (c : Bool) (sl w : Nat) :
    ∃ counters bumped, s.iff c (fun s => s.bumpSlice sl w) = { s with counters := counters, bumped := bumped } := by
  cases c with
  | true => exact ⟨_, _, rfl⟩
  | false => exact ⟨_, _, rfl⟩

theorem Dev.countLate_frame (s : Dev) (r : CReq) : ∃ counters bumped, s.countLate r = { s with counters := counters, bumped := bumped } := by
  unfold Dev.countLate
  split
  · exact s.iff_bumpSlice_frame _ _ _
  · exact ⟨_, _, rfl⟩

/-- A reply that has passed its port. -/
def Dev.replied (d : Dev) (id : Nat) (r : CReq) : Dev :=
  ((d.replyPasses r).modConc fun c => { c with reqs := c.reqs.filter fun y => y.id != id }).countLate r

theorem Dev.replied_frame (d : Dev) (id : Nat) (r : CReq) :
    ∃ conc counters bumped, d.replied id r = { d with conc := conc, counters := counters, bumped := bumped } := by
  unfold Dev.replied
  obtain ⟨_, _, _, h1⟩ := d.replyPasses_frame r
  obtain ⟨_, _, h2⟩ := ((d.replyPasses r).modConc fun c => { c with reqs := c.reqs.filter fun y => y.id != id }).countLate_frame r
  rw [h2, h1]
  exact ⟨_, _, _, rfl⟩

theorem Dev.xinst_replied (d : Dev) (id : Nat) (r : CReq) (b j : Nat) : (d.replied id r).xinst b j = d.xinst b j := by
  obtain ⟨_, _, _, h⟩ := d.replied_frame id r
  rw [h]
  rfl

theorem Dev.pool_replied (d : Dev) (id : Nat) (r : CReq) : (d.replied id r).pool = d.pool := by
  obtain ⟨_, _, _, h⟩ := d.replied_frame id r
  rw [h]

theorem concourseReply_eq {d : Dev} {id st : Nat} {r : CReq} (hr : d.creq id = some r) (hst : r.status = some st) : concourseReply id d =
    if !d.replyGoes r then d else (d.replied id r).replyTo r.src st r.result r.flags r.lateMark := by
  rw [concourseReply, hr]
  dsimp only
  rw [hst]
  rfl

/-- Dropping another entry leaves one that is listed. -/
theorem look_dropFirst_other {α : Type} {d v : α} {t : List (Nat × α)} {i : Nat} (h : look d t i = v) (hv : v ≠ d) :
    look d (dropFirst (fun p => p.1 != i) t) i = v := by
  induction t with
  | nil => exact absurd h.symm hv
  | cons p t ih =>
    obtain ⟨k, w⟩ := p
    rw [look] at h
    by_cases hik : i = k
    · subst hik
      rw [if_pos rfl] at h
      rw [dropFirst, if_neg (by simp), look, if_pos rfl, h]
    · rw [if_neg hik] at h
      rw [dropFirst, if_pos (by simpa using Ne.symm hik)]
      by_cases hlt : i < k
      · rw [if_pos hlt] at h
        exact absurd h.symm hv
      · rwa [if_neg hlt] at h

theorem Dev.get_transReply {s : Dev} {b id key : Nat} {i : XInst} {data : Bytes} (hi : s.xinst b id = some i)
    (hstill : (BitVec.ofNat 64 (leVal data)).getLsbD 2 = false) (hfree : s.pool.busy.any (fun w => w.2.2 == i.ctx) = false) :
    (((s.transReply b id key 0 data).block b).xfer.tcache).get key = some (BitVec.ofNat 64 (leVal data)) := by
  unfold Dev.transReply
  rw [hi]
  dsimp only
  have hkept : ¬ ((BitVec.ofNat 64 (leVal data)).getLsbD 2 = true ∨
      (s.modInst b id fun j => { j with reading := false }).pool.busy.any (fun w => w.2.2 == i.ctx) = true) :=
    not_or.mpr ⟨Bool.eq_false_iff.mp hstill, Bool.eq_false_iff.mp hfree⟩
  rw [if_neg (by decide), if_neg hkept, Dev.modXfer, Dev.block_modBlock]
  dsimp only
  split
  · exact look_dropFirst_other (Tab.get_set_same _ _ _) (by simp [default])
  · exact Tab.get_set_same _ _ _

/-! ### The obligation -/

/-- Settles O32: arbitration by induction on what waits, issue, replies and completion by their branches. -/
theorem transfersWalkTheirLines : Obligations.TransfersWalkTheirLines := by
  refine ⟨fun turn l r h => pickNext_spec h, fun b id timed i s hb => ?_⟩
  intro d x on q hit
  have hexec : ∀ {parity : Bool} {g : Dev}, (if parity then xferParity b d else transferLineIssue b timed d) = g →
      exec (.transferLineIssue ⟨b, parity⟩ timed) s = on g := fun {parity} {g} h =>
    exec_of_actOn (f := if parity then xferParity b else transferLineIssue b timed) rfl (decide_eq_true hb)
      ((by cases parity <;> rfl : (if parity then xferParity b else transferLineIssue b timed) d = _).trans h)
  refine ⟨fun hrun htest hfirst hi => ?issue, fun hlit hrun => ?parity, fun r st hr hst => ?reply, fun hi hover => ?complete⟩
  case issue =>
    intro g
    refine ⟨fun a ha => ?target, fun hpooled hhit => ?invalid, fun hpooled hhit => ?moving⟩
    case target =>
      have htarget : d.lineTarget b i i.next = some a := by
        unfold Dev.lineTarget
        dsimp only
        rcases ha with ⟨hp, ha⟩ | ⟨m, hp, hm, ha⟩
        · rw [show (xferD i.desc).pooled = false from hp, ha]
          rfl
        · rw [show (xferD i.desc).pooled = true from hp, show d.pooledLine b i.ctx (xferD i.desc) i.next = .at_ m from hm, ha]
          rfl
      have hstay : ¬ ((xferD i.desc).pooled = true ∧ d.pooledLine b i.ctx (xferD i.desc) i.next = .moving) := by
        rintro ⟨hp, hm⟩
        rcases ha with ⟨hp', _⟩ | ⟨m, _, hm', _⟩
        · exact Bool.noConfusion (hp.symm.trans hp')
        · exact Pooled.noConfusion (hm.symm.trans hm')
      have hgo := transferLineIssue_of_target hrun htest hfirst hi htarget hstay
      exact ⟨fun hdir => hexec (parity := false) (hgo.trans (if_pos hdir)), fun hdir => hexec (parity := false) (hgo.trans (if_neg hdir))⟩
    case invalid => exact hexec (parity := false) (transferLineIssue_of_invalid hrun htest hfirst hi hpooled hhit)
    case moving =>
      have hgo := transferLineIssue_of_moving hrun htest hfirst hi hpooled hhit
      refine ⟨fun hwait => ?waits, fun p slot page line hread hbusy hp href => ?asks⟩
      case waits => exact (hexec (parity := false) (hgo.trans (if_pos hwait))).trans rfl
      case asks =>
        refine hexec (parity := false) (hgo.trans ?_)
        rw [Dev.translate, hp, show (xferD i.desc).pooledRef i.next = some (slot, page, line) from href]
        exact if_neg (by simp [hread, hbusy])
  case parity => exact hexec (parity := true) (if_neg (not_or.mpr ⟨by rw [hlit]; decide, not_not.mpr hrun⟩))
  case reply =>
    have hgo := concourseReply_eq hr hst
    refine ⟨fun hno => ?stays, fun hyes hi => ?_⟩
    case stays => exact (exec_of_act (f := concourseReply id) rfl (hgo.trans (if_pos (by rw [hno]; rfl)))).trans rfl
    intro g
    have hgo' := hgo.trans (if_neg (by rw [hyes]; decide))
    have hig : (d.replied id r).xinst b i.id = some i := (d.xinst_replied id r b i.id).trans hi
    refine ⟨fun k hsrc => ⟨fun hline => ?line, fun hz hdir => ?data⟩, fun key hsrc hz => ?trans⟩
    case line =>
      refine exec_of_act (f := concourseReply id) rfl (hgo'.trans ?_)
      rw [hsrc]
      show (d.replied id r).xferReply b i.id k st r.result r.flags r.lateMark = _
      rw [Dev.xferReply, hig]
      refine (if_neg fun h => hline.elim (fun hs => hs h.1) fun hd => hd h.2).trans ?_
      rw [Dev.lineReply, hig]
      rfl
    case data =>
      refine exec_of_act (f := concourseReply id) rfl (hgo'.trans ?_)
      rw [hsrc]
      show (d.replied id r).xferReply b i.id k st r.result r.flags r.lateMark = _
      rw [Dev.xferReply, hig]
      exact if_pos ⟨hz, hdir⟩
    case trans =>
      intro e hstill hfree
      rw [hsrc] at hgo'
      refine ⟨_, exec_of_act (f := concourseReply id) rfl hgo', ?_⟩
      subst hz
      exact Dev.get_transReply (s := d.replied id r) hig hstill (by rw [Dev.pool_replied]; exact hfree)
  case complete =>
    intro g0 g
    refine exec_of_actOn (f := transferInstanceComplete b id) rfl (decide_eq_true hb) ?_
    have hg : g0.iff (i.flags != 0) (fun s => s.joinSummary i.ctx i.flags) = g := by
      show (if (i.flags != 0) = true then _ else _) = if i.flags = 0 then g0 else g0.joinSummary i.ctx i.flags
      by_cases hf : i.flags = 0
      · rw [if_pos hf, if_neg (by simp [hf])]
      · rw [if_neg hf, if_pos (bne_iff_ne.mpr hf)]
    rw [transferInstanceComplete, hi]
    refine (if_neg ?_).trans ?_
    · rw [XInst.over, hover]
      simp [x]
    · show (g0.iff (i.flags != 0) (fun s => s.joinSummary i.ctx i.flags)).iff (x.doneb && !i.stopped) (fun s => s.ringLine x.dline) = _
      rw [hg]
      refine if_congr ?_ rfl rfl
      simp

end Sys2Proof.Machine

/-! ## Elveel ports and their flits (R255 to R263, R267, R272) -/
namespace Sys2Proof.Machine
open Sys2Proof

/-! ### Ports train (R257) -/

/-- A port that leaves its phase for another. -/
def Dev.toPhase (s : Dev) (p n : Nat) : Dev := s.modPort p fun y => { y with phase := n, phaseAt := s.now }

theorem portTrainingPhase_of_phase {p : Nat} (flight : Nat) {d : Dev} (hmiss : d.missed p = false) (hne : (d.port p).phase ≠ 0)
    (hrec : (d.port p).phase ≠ 4) : portTrainingPhase p flight d =
    match (d.port p).phase with
    | 3 => ((d.toPhase p 4).modPort p fun y => { y with rep := [0] }).emit (.linkRec p (d.linkRecord p 0))
    | 5 => ((d.toPhase p 6).modPort p fun y => { y with flight := min flight 250 }).returnAll p
    | 6 => (d.modPort p fun y => { y with phase := 0 }).storeEq p
    | n => d.toPhase p (n + 1) := by
  unfold portTrainingPhase
  refine (if_neg ?_).trans rfl
  rw [EPort.trains, hmiss]
  simp [hne, hrec]

/-- The credits that a port returns in phase 6: the whole of its buffers. -/
def wholeBuffers : Tab Nat := (List.range 16).foldl (fun t k => t.set k (Config.linkBuffer (k / 2) (k % 2))) []

theorem get_foldl_set (v : Nat → Nat) (n : Nat) (t : Tab Nat) {k : Nat} (h : k < n) :
    ((List.range n).foldl (fun t k => t.set k (v k)) t).get k = v k := by
  induction n with
  | zero => exact absurd h (Nat.not_lt_zero k)
  | succ n ih =>
    rw [List.range_succ, List.foldl_append]
    by_cases hk : k = n
    · subst hk
      exact Tab.get_set_same _ _ _
    · exact (Tab.get_set_other _ _ _ _ hk).trans (ih (by omega))

theorem get_wholeBuffers {k : Nat} (h : k < 16) : wholeBuffers.get k = Config.linkBuffer (k / 2) (k % 2) := get_foldl_set _ 16 [] h

theorem portTrainingTimeout_of_missed {p : Nat} {d : Dev} (hne : (d.port p).phase ≠ 0) (hmiss : d.missed p = true) :
    portTrainingTimeout p d = ((d.maskPort p .failed).modPort p fun y => { y with failedAt := d.now }).linkFail p := by
  refine (if_pos ?_).trans rfl
  rw [EPort.trains, hmiss]
  simpa using hne

theorem portTrainingTimeout_of_met {p : Nat} {d : Dev} (hmiss : d.missed p = false) : portTrainingTimeout p d = d := by
  refine if_neg ?_
  rw [hmiss, Bool.and_false]
  decide

/-! ### Link-up records (R258, R259) -/

theorem linkUpRecord_of_phase {p : Nat} {r : Bytes} {d : Dev} (hphase : (d.port p).phase = 4) (hmiss : d.missed p = false)
    (hok : linkRecOk r = true) : linkUpRecord p r d =
    if (d.port p).records = 0 then
      if byte r 4 ≠ 0 then d
      else if byte r 3 ≤ 1 ∧ 1 ≤ byte r 2 then
        (d.modPort p fun y => { y with records := 1, genSel := 1 }).emit (.linkRec p (d.linkRecord p 1))
      else (d.maskPort p .down).event 0x16 [(32, 1, p), (33, 1, byte r 2)]
    else if byte r 4 ≠ 1 then (d.maskPort p .down).event 0x16 [(32, 1, p), (33, 1, byte r 2)]
    else d.agreed p r := by
  unfold linkUpRecord
  refine (if_neg ?_).trans rfl
  rw [hphase, hmiss, hok]
  decide

/-- The port once the peer's second record is taken. -/
def EPort.agreedWith (x : EPort) (r : Bytes) (now : Nat) : EPort :=
  { x with rep := [], peerDev := fld r 6 2, peerInc := byte r 8, peerIdent := BitVec.ofNat 64 (fld r 16 8), peerLoc := fld r 24 4
           peerGen := byte r 2, peerDraining := byte r 9 == 1, phase := 5, phaseAt := now }

theorem Dev.port_emit (s : Dev) (o : Output) (p : Nat) : (s.emit o).port p = s.port p := rfl

theorem Dev.port_iff {f : Dev → Dev} {p : Nat} (h : ∀ s, (f s).port p = s.port p) (s : Dev) (c : Bool) : (s.iff c f).port p = s.port p :=
  iff_keeps (fun s => s.port p) h c s

theorem Dev.port_bump (s : Dev) (r n w by_ p : Nat) : (s.bump r n w by_).port p = s.port p := by
  rw [Dev.port, s.bump_elveel, Dev.port]

theorem Dev.port_bumpPort (s : Dev) (q w n p : Nat) : (s.bumpPort q w n).port p = s.port p := s.port_bump ..

theorem Dev.port_maskPort (s : Dev) (p : Nat) (st : PState) : (s.maskPort p st).port p = { s.port p with
    st := st, phase := 0, replay := [], again := [], nak := false, tx := [], arb := {}, rx := [], part := [], due := [], rep := [],
    outst := [], full := [], records := 0, rxSeq := 4095, txSeq := 0 } := by
  unfold Dev.maskPort
  rw [Dev.port_bumpPort, Dev.port_modPort]

/-- What the second record says of the peer, with the state that it gives the port. -/
def EPort.hears (x : EPort) (r : Bytes) (st : PState) : Prop :=
  x.st = st ∧ x.peerDev = fld r 6 2 ∧ x.peerInc = byte r 8 ∧ x.peerIdent = BitVec.ofNat 64 (fld r 16 8)

section Agreed
variable (d : Dev) (p : Nat) (r : Bytes)

/-- The device whose port has taken the record, before its state is set. -/
def Dev.recordTaken (d : Dev) (p : Nat) (r : Bytes) : Dev := (d.emit (.probe p)).modPort p fun x => x.agreedWith r d.now

theorem Dev.agreed_eq : d.agreed p r =
    if fld r 16 8 = d.ident then (d.recordTaken p r).modPort p fun x => { x with st := .loop }
    else if fld r 6 2 = 0x3FFF ∨ d.elveel.devnum = 0x3FFF then (d.recordTaken p r).modPort p fun x => { x with st := .mgmtOnly }
    else if fld r 6 2 = d.elveel.devnum then ((d.recordTaken p r).maskPort p .down).event 0x17 [(32, 1, p)]
    else
      (((d.recordTaken p r).modPort p fun x => { x with st := .up }).event 0x18
        [(32, 1, p), (34, 2, fld r 6 2), (36, 1, byte r 8), (40, 8, fld r 16 8), (48, 4, fld r 24 4)]).iff (byte r 9 == 1) fun s =>
          s.event 0x19 [(32, 1, p), (34, 2, fld r 6 2)] |>.iff (!s.elveel.routesVia p) fun s => s.emit (.ctl p 2) := rfl

theorem Dev.hears_set (st : PState) : (((d.recordTaken p r).modPort p fun x => { x with st := st }).port p).hears r st := by
  rw [Dev.port_modPort, Dev.recordTaken, Dev.port_modPort]
  exact ⟨rfl, rfl, rfl, rfl⟩

theorem Dev.hears_down : ((((d.recordTaken p r).maskPort p .down).event 0x17 [(32, 1, p)]).port p).hears r .down := by
  rw [Dev.port_event, Dev.port_maskPort, Dev.recordTaken, Dev.port_modPort]
  exact ⟨rfl, rfl, rfl, rfl⟩

theorem Dev.hears_up : (((((d.recordTaken p r).modPort p fun x => { x with st := .up }).event 0x18
      [(32, 1, p), (34, 2, fld r 6 2), (36, 1, byte r 8), (40, 8, fld r 16 8), (48, 4, fld r 24 4)]).iff (byte r 9 == 1) fun s =>
        s.event 0x19 [(32, 1, p), (34, 2, fld r 6 2)] |>.iff (!s.elveel.routesVia p) fun s => s.emit (.ctl p 2)).port p).hears r .up := by
  have hiff := Dev.port_iff (p := p) (f := fun s => s.event 0x19 [(32, 1, p), (34, 2, fld r 6 2)] |>.iff (!s.elveel.routesVia p)
    fun s => s.emit (.ctl p 2)) fun s => (Dev.port_iff (fun t => t.port_emit _ p) _ _).trans (s.port_event _ _ p)
  rw [hiff, Dev.port_event]
  exact d.hears_set p r .up

end Agreed

/-- Settles O34: each command by the branch that the phase, the bound or the record chooses. -/
theorem portsTrainAndMask : Obligations.PortsTrainAndMask := by
  refine ⟨fun p flight s hp => ?ports, fun p r s hp hphase hmiss hok => ?records⟩
  case ports =>
    intro d x on masked
    have hphase : ∀ {g : Dev}, portTrainingPhase p flight d = g → exec (.portTrainingPhase p flight) s = on g := fun h =>
      exec_of_actOn (f := portTrainingPhase p flight) rfl (decide_eq_true hp) h
    refine ⟨fun hst hmay => ?light, fun hmiss => ⟨fun hx => ?next, fun hx => ?record, fun hx => ?measure, fun hx => ?last⟩,
      fun hne hmiss => ?missed, fun hne hmiss => ?met, fun hst hmay => ⟨fun hat => ?retry, fun hat => ?early⟩,
      fun hlit hdown hfailed => ?loss, fun hlit hst => ?gone⟩
    case light =>
      refine exec_of_actOn (f := portLightDetect p) rfl (decide_eq_true hp) ((if_pos ?_).trans rfl)
      rw [Bool.and_eq_true, beq_iff_eq]
      exact ⟨hst, hmay⟩
    case next =>
      have hgo := portTrainingPhase_of_phase (p := p) flight hmiss (by rcases hx with h | h <;> rw [show (d.port p).phase = _ from h] <;> decide)
        (by rcases hx with h | h <;> rw [show (d.port p).phase = _ from h] <;> decide)
      rcases hx with h | h
      · exact hphase (hgo.trans (by rw [h]; rfl))
      · exact hphase (hgo.trans (by rw [h]; rfl))
    case record =>
      have hx' : (d.port p).phase = 3 := hx
      have hgo := portTrainingPhase_of_phase (p := p) flight hmiss (by rw [hx']; decide) (by rw [hx']; decide)
      rw [hx'] at hgo
      exact hphase hgo
    case measure =>
      have hx' : (d.port p).phase = 5 := hx
      have hgo := portTrainingPhase_of_phase (p := p) flight hmiss (by rw [hx']; decide) (by rw [hx']; decide)
      rw [hx'] at hgo
      have hport : (((d.toPhase p 6).modPort p fun y => { y with flight := min flight 250 }).returnAll p).port p =
          { x with phase := 6, phaseAt := d.now, flight := min flight 250, due := wholeBuffers } := by
        rw [Dev.returnAll, Dev.port_modPort, Dev.port_modPort, Dev.toPhase, Dev.port_modPort]
        rfl
      have hother : ∀ q, q ≠ p → (((d.toPhase p 6).modPort p fun y => { y with flight := min flight 250 }).returnAll p).port q = d.port q :=
        fun q hq => (Dev.port_modPort_other _ _ _ _ hq).trans ((Dev.port_modPort_other _ _ _ _ hq).trans (Dev.port_modPort_other _ _ _ _ hq))
      generalize ((d.toPhase p 6).modPort p fun y => { y with flight := min flight 250 }).returnAll p = g at hgo hport hother
      refine ⟨_, hphase hgo, fun k hk => ?_, ?_, hother⟩
      · exact (congrArg (fun y : EPort => y.due.get k) hport).trans (get_wholeBuffers hk)
      · show g.port p = { x with phase := 6, phaseAt := d.now, flight := min flight 250, due := (g.port p).due }
        rw [hport]
    case last =>
      have hx' : (d.port p).phase = 6 := hx
      have hgo := portTrainingPhase_of_phase (p := p) flight hmiss (by rw [hx']; decide) (by rw [hx']; decide)
      rw [hx'] at hgo
      exact hphase hgo
    case missed =>
      exact exec_of_actOn (f := portTrainingTimeout p) rfl (decide_eq_true hp) (portTrainingTimeout_of_missed hne hmiss)
    case met =>
      exact (exec_of_actOn (f := portTrainingTimeout p) rfl (decide_eq_true hp) (portTrainingTimeout_of_met hmiss)).trans rfl
    case retry =>
      refine exec_of_actOn (f := portRetry p) rfl (decide_eq_true hp) ((if_pos ?_).trans rfl)
      rw [Bool.and_eq_true, Bool.and_eq_true, beq_iff_eq, decide_eq_true_eq]
      exact ⟨⟨hst, hmay⟩, hat⟩
    case early =>
      refine (exec_of_actOn (f := portRetry p) (g := d) rfl (decide_eq_true hp) (if_neg ?_)).trans rfl
      rw [Bool.and_eq_true, decide_eq_true_eq]
      exact fun h => Nat.not_le.mpr hat h.2
    case loss =>
      refine exec_of_actOn (f := portLossOfLock p) rfl (decide_eq_true hp) ((if_pos ?_).trans rfl)
      have hst : ∀ st : PState, st ≠ .down → st ≠ .failed →
          (st == .up || st == .mgmtOnly || st == .loop || st == .retraining || st == .training) = true := by
        intro st
        cases st <;> decide
      rw [hlit, Bool.true_and]
      exact hst _ hdown hfailed
    case gone =>
      refine exec_of_actOn (f := linkDown p) rfl (decide_eq_true hp) ((if_pos ?_).trans rfl)
      have hst' : ∀ st : PState, st = .up ∨ st = .mgmtOnly ∨ st = .loop → (st == .up || st == .mgmtOnly || st == .loop) = true := by
        intro st
        cases st <;> decide
      rw [hlit, Bool.true_and]
      exact hst' _ hst
  case records =>
    intro dev sets
    have hgo := linkUpRecord_of_phase hphase hmiss hok
    have hexec : ∀ {g : Dev}, linkUpRecord p r s.dev = g → exec (.linkUpRecord p r) s = .next { s with dev := { g with now := s.dev.now } } :=
      fun h => exec_of_actOn (f := linkUpRecord p r) rfl (decide_eq_true hp) h
    have hsets : ∀ {g : Dev} {st : PState}, linkUpRecord p r s.dev = g → (g.port p).hears r st → sets st := fun h hh => ⟨_, hexec h, hh⟩
    refine ⟨fun hrec hsel => ⟨fun hgen hgen' => ?first, fun hgen => ?mismatch⟩, fun hrec hsel => ?second⟩
    case first =>
      exact (hexec (hgo.trans ((if_pos hrec).trans ((if_neg (not_not.mpr hsel)).trans (if_pos ⟨hgen', hgen⟩))))).trans rfl
    case mismatch =>
      refine ⟨_, hexec (hgo.trans ((if_pos hrec).trans ((if_neg (not_not.mpr hsel)).trans (if_neg fun h => ?_)))), ?_⟩
      · omega
      · exact congrArg EPort.st ((Dev.port_event _ _ _ p).trans (s.dev.port_maskPort p .down))
    case second =>
      have hagreed := hgo.trans ((if_neg hrec).trans ((if_neg (not_not.mpr hsel)).trans (s.dev.agreed_eq p r)))
      refine ⟨fun hid => hsets (hagreed.trans (if_pos hid)) (s.dev.hears_set p r .loop),
        fun hid hnum => hsets (hagreed.trans ((if_neg hid).trans (if_pos hnum))) (s.dev.hears_set p r .mgmtOnly),
        fun hid hdev hown heq => ?same, fun hid hdev hown hne => ?other⟩
      case same =>
        exact hsets (hagreed.trans ((if_neg hid).trans ((if_neg (not_or.mpr ⟨hdev, hown⟩)).trans (if_pos heq)))) (s.dev.hears_down p r)
      case other =>
        exact hsets (hagreed.trans ((if_neg hid).trans ((if_neg (not_or.mpr ⟨hdev, hown⟩)).trans (if_neg hne)))) (s.dev.hears_up p r)

/-! ### What a flit's link header returns (R255, R256) -/

section Flit
variable (s : Dev) (p : Nat) (f : WireFlit)

theorem Dev.linkHeader_of_none (hack : f.ackv = false) (hcr : f.crcnt = 0) (hnak : f.nak = false) : s.linkHeader p f = s := by
  unfold Dev.linkHeader
  rw [hack, hcr, hnak]
  rfl

/-- The port once an ACK has freed its replay buffer. -/
def EPort.acked (x : EPort) (f : WireFlit) : EPort :=
  if f.ackv then { x with replay := x.replay.filter fun q => !covered q.seq f.ack } else x

/-- The port once credits have come back. -/
def EPort.credited (x : EPort) (f : WireFlit) : EPort :=
  if f.crcnt != 0 then
    if x.phase = 6 then { x with full := x.full.mod f.crKey (· + f.crcnt) } else { x with outst := x.outst.mod f.crKey (· - f.crcnt) }
  else x

/-- The port once a NAK is noted. -/
def EPort.naked (x : EPort) (f : WireFlit) : EPort := if f.nak then { x with again := x.replay.map (·.seq) } else x

theorem Dev.port_iff_modPort (c : Bool) (g : EPort → EPort) :
    (s.iff c fun s => s.modPort p g).port p = if c then g (s.port p) else s.port p := by
  cases c with
  | true => exact s.port_modPort p g
  | false => rfl

theorem Dev.port_linkHeader : (s.linkHeader p f).port p = (((s.port p).acked f).credited f).naked f := by
  unfold Dev.linkHeader
  rw [Dev.port_iff_modPort, Dev.port_iff_modPort, Dev.port_iff_modPort]
  rfl

theorem Dev.port_linkHeader_other {q : Nat} (h : q ≠ p) : (s.linkHeader p f).port q = s.port q := by
  have hiff : ∀ (t : Dev) (c : Bool) (g : EPort → EPort), (t.iff c fun s => s.modPort p g).port q = t.port q := fun t c g =>
    t.port_iff (fun s => s.port_modPort_other p q g h) c
  unfold Dev.linkHeader
  rw [hiff, hiff, hiff]

end Flit

/-- What the three returns leave in the port. -/
theorem EPort.naked_credited_acked (x : EPort) (f : WireFlit) : ((x.acked f).credited f).naked f =
    let r := if f.ackv then x.replay.filter fun q => !covered q.seq f.ack else x.replay
    { x with
      replay := r, again := if f.nak then r.map (·.seq) else x.again
      full := if f.crcnt ≠ 0 ∧ x.phase = 6 then x.full.mod f.crKey (· + f.crcnt) else x.full
      outst := if f.crcnt ≠ 0 ∧ x.phase ≠ 6 then x.outst.mod f.crKey (· - f.crcnt) else x.outst } := by
  have hack : x.acked f = { x with replay := if f.ackv then x.replay.filter fun q => !covered q.seq f.ack else x.replay } := by
    unfold EPort.acked; split <;> rfl
  have hcr : ∀ y : EPort, y.credited f = { y with
      full := if f.crcnt ≠ 0 ∧ y.phase = 6 then y.full.mod f.crKey (· + f.crcnt) else y.full
      outst := if f.crcnt ≠ 0 ∧ y.phase ≠ 6 then y.outst.mod f.crKey (· - f.crcnt) else y.outst } := fun y => by
    unfold EPort.credited
    by_cases hn : f.crcnt = 0
    · simp [hn]
    · by_cases hp : y.phase = 6 <;> simp [hn, hp]
  have hnak : ∀ y : EPort, y.naked f = { y with again := if f.nak then y.replay.map (·.seq) else y.again } := fun y => by
    unfold EPort.naked; split <;> rfl
  rw [hack, hcr, hnak]

/-! ### Packets of a flit (R255, R261) -/

section Sectors
variable {s : Dev} {f : WireFlit} {n : Nat} (hlen : f.payload.length = 256) (hn : n = pktLen (sub f.payload 0 32)) (hfit : n ≤ 256)
  (hsec : ∀ i < 8, f.sop i = decide (i = 0) ∧ f.svalid i = decide (32 * i < n))

/-- The packet of a flit's first bytes. -/
def Dev.firstPkt (s : Dev) (f : WireFlit) (m : Nat) : RxPkt :=
  { vc := f.vc, cls := f.cls, bytes := f.payload.take m, credits := 0
    cand := if (epktOf (sub f.payload 0 32)).ddev = s.elveel.devnum then none else s.pickRoute f.vc (epktOf (sub f.payload 0 32)) }

/-- What i sectors of one packet's flit leave. -/
def Dev.sectorsTaken (s : Dev) (f : WireFlit) (n i : Nat) : List RxPkt × Option RxPkt :=
  if i = 0 then ([], none) else if 32 * i < n then ([], some (s.firstPkt f (32 * i))) else ([s.firstPkt f n], none)

theorem sub_of_le {bs : Bytes} {o m : Nat} (h : o + m ≤ bs.length) : sub bs o m = (bs.drop o).take m := by
  have hl : ((bs.drop o).take m).length = m := by rw [List.length_take, List.length_drop]; omega
  unfold sub
  dsimp only
  rw [hl, Nat.sub_self, List.replicate_zero, List.append_nil]

theorem sub_take {bs : Bytes} {o m k : Nat} (hk : o + m ≤ k) (h : k ≤ bs.length) : sub (bs.take k) o m = sub bs o m := by
  have hl : o + m ≤ (bs.take k).length := by rw [List.length_take]; omega
  rw [sub_of_le hl, sub_of_le (by omega), List.drop_take, List.take_take, Nat.min_eq_left (by omega)]

/-- The length of a packet stands in its first bytes. -/
theorem pktLen_take {bs : Bytes} {k : Nat} (hk : 32 ≤ k) (h : k ≤ bs.length) : pktLen (bs.take k) = pktLen (sub bs 0 32) := by
  have hsub : sub bs 0 32 = bs.take 32 := sub_of_le (by omega)
  have hfld : ∀ o m, o + m ≤ 32 → sub (bs.take k) o m = sub (sub bs 0 32) o m := fun o m hom => by
    rw [hsub, sub_take (by omega) h, sub_take hom (by omega)]
  unfold pktLen byte fld
  rw [hfld 0 1 (by decide), hfld 10 2 (by decide)]

include hlen hn hfit hsec

theorem Dev.takeSector_taken {i : Nat} (hi : i < 8) : s.takeSector f (s.sectorsTaken f n i) i = s.sectorsTaken f n (i + 1) := by
  obtain ⟨hsop, hvalid⟩ := hsec i hi
  have hn32 : 32 ≤ n := by rw [hn, pktLen]; omega
  have hsub : sub f.payload (32 * i) 32 = (f.payload.drop (32 * i)).take 32 := sub_of_le (by omega)
  have htake : f.payload.take (32 * (i + 1)) = f.payload.take (32 * i) ++ (f.payload.drop (32 * i)).take 32 := by
    rw [Nat.mul_succ, List.take_add]
  unfold Dev.takeSector
  by_cases hin : 32 * i < n
  · have hcur : (if f.sop i then
        some { vc := f.vc, cls := f.cls, bytes := sub f.payload (32 * i) 32,
               credits := if (s.sectorsTaken f n i).1.isEmpty then ((s.sectorsTaken f n i).2.map (·.credits)).getD 0 else 0,
               cand := if (epktOf (sub f.payload (32 * i) 32)).ddev = s.elveel.devnum then none
                 else s.pickRoute f.vc (epktOf (sub f.payload (32 * i) 32)) }
        else (s.sectorsTaken f n i).2.map fun q => { q with bytes := q.bytes ++ sub f.payload (32 * i) 32 })
          = some (s.firstPkt f (32 * (i + 1))) := by
      by_cases hz : i = 0
      · subst hz
        rw [hsop, if_pos (by decide), Dev.sectorsTaken, if_pos rfl, Dev.firstPkt, htake, hsub]
        rfl
      · rw [hsop, if_neg (by simpa using hz), Dev.sectorsTaken, if_neg hz, if_pos hin, Option.map_some, Dev.firstPkt, Dev.firstPkt, htake,
          hsub]
    have hbytes : (s.firstPkt f (32 * (i + 1))).bytes.length = 32 * (i + 1) := by
      rw [Dev.firstPkt, List.length_take]; omega
    have hpkt : pktLen (s.firstPkt f (32 * (i + 1))).bytes = n := (pktLen_take (by omega) (by omega)).trans hn.symm
    have hfst : (s.sectorsTaken f n i).1 = [] := by
      unfold Dev.sectorsTaken
      split
      · rfl
      · rfl
    rw [hvalid, decide_eq_true hin]
    refine (if_neg (by decide)).trans ?_
    dsimp only
    rw [hcur]
    dsimp only
    rw [hbytes, hpkt, hfst, Dev.sectorsTaken, if_neg (Nat.succ_ne_zero i)]
    by_cases hmore : 32 * (i + 1) < n
    · rw [if_pos (by unfold sectorsOf; omega), if_pos hmore]
    · rw [if_neg (by unfold sectorsOf; omega), if_neg hmore, List.nil_append]
      have hbs : (f.payload.take (32 * (i + 1))).take n = f.payload.take n := by
        rw [List.take_take, Nat.min_eq_left (by omega)]
      unfold Dev.firstPkt
      dsimp only
      rw [hbs]
  · rw [hvalid, decide_eq_false hin]
    refine (if_pos (by decide)).trans ?_
    rw [Dev.sectorsTaken, Dev.sectorsTaken, if_neg (by omega), if_neg hin, if_neg (by omega), if_neg (by omega)]

theorem Dev.foldl_takeSector : (List.range 8).foldl (s.takeSector f) ([], none) = ([s.firstPkt f n], none) := by
  have hall : ∀ i ≤ 8, (List.range i).foldl (s.takeSector f) ([], none) = s.sectorsTaken f n i := by
    intro i
    induction i with
    | zero => exact fun _ => rfl
    | succ i ih =>
      intro hi
      rw [List.range_succ, List.foldl_append, ih (by omega)]
      exact Dev.takeSector_taken hlen hn hfit hsec (by omega)
  rw [hall 8 (by decide), Dev.sectorsTaken, if_neg (by decide), if_neg (by omega)]

/-- One whole packet joins those that wait for the router, with the flit's credit. -/
theorem Dev.rx_takePackets {p : Nat} (hpart : (s.port p).part.get (2 * f.vc + f.cls) = none) :
    ((s.takePackets p f).port p).rx = (s.port p).rx ++ [{ s.firstPkt f n with credits := 1 }] := by
  unfold Dev.takePackets
  dsimp only
  rw [hpart, Dev.foldl_takeSector hlen hn hfit hsec]
  dsimp only
  rw [List.getLast?_singleton]
  dsimp only
  rw [Dev.port_modPort, Dev.port_modPort, List.dropLast_singleton, List.append_nil]
  rfl

end Sectors

/-! ### Flits arrive (R256, R259, R263) -/

theorem wireFlitReceive_of_carries {p : Nat} {f : WireFlit} {d : Dev} (h : (d.port p).carries = true ∨ (d.port p).st = .mgmtOnly) :
    wireFlitReceive p f d =
      if f.bad ∨ f.fec = .uncorrectable then d.badFlit p (f.fkind == 1)
      else
        let t := (d.iff (f.fec == .corrected) fun s => s.bumpPort p 16 f.symbols).linkHeader p f
        if f.fkind = 1 then t.goodFlit p f else t := by
  unfold wireFlitReceive
  refine (if_neg ?_).trans rfl
  rcases h with h | h <;> simp [h]

/-- A port that has met an uncorrectable flit, with the count and the start of its present 1 ms. -/
def Dev.badWindow (s : Dev) (p : Nat) (isData : Bool) (q : Nat × Nat) : Dev :=
  let (n, t) := q
  let s := s.modPort p fun y => { y with uncorr := n, uncorrAt := t, nak := y.nak || isData }
  if n > s.entry 0x4002 1 then (s.modPort p fun y => { y with uncorr := 0 }).retrainPort p else s

/-- The window goes on or starts anew. (The body is taken from the function as a whole and the choice made opaque before anything reduces:
the kernel would else count the window's cycles one by one.) -/
theorem Dev.badFlit_eq_badWindow (s : Dev) (p : Nat) (isData : Bool) : s.badFlit p isData = s.badWindow p isData
    (if s.now < (s.port p).uncorrAt + msec then ((s.port p).uncorr + 1, (s.port p).uncorrAt) else (1, s.now)) := by
  obtain ⟨body, hbody⟩ : ∃ body, body = Dev.badFlit := ⟨_, rfl⟩
  rw [← hbody]
  delta Dev.badFlit at hbody
  subst hbody
  beta_reduce
  extract_lets -underBinder x
  rw [show s.port p = x from rfl]
  generalize (if s.now < x.uncorrAt + msec then (x.uncorr + 1, x.uncorrAt) else (1, s.now)) = q
  obtain ⟨n, t⟩ := q
  rfl

theorem Dev.entry_modPort (s : Dev) (p : Nat) (f : EPort → EPort) (i j : Nat) : (s.modPort p f).entry i j = s.entry i j := rfl

theorem Dev.badWindow_eq (s : Dev) (p : Nat) (isData : Bool) (n t : Nat) : s.badWindow p isData (n, t) =
    let g := s.modPort p fun y => { y with uncorr := n, uncorrAt := t, nak := y.nak || isData }
    if n > s.entry 0x4002 1 then (g.modPort p fun y => { y with uncorr := 0 }).retrainPort p else g := by
  rw [← s.entry_modPort p fun y => { y with uncorr := n, uncorrAt := t, nak := y.nak || isData }]
  rfl

/-- Settles O35: the flit in order by its VC, its packet by induction on the sectors, the returned by the header's fields. -/
theorem wireFlitsArriveInOrder : Obligations.WireFlitsArriveInOrder := by
  intro p f s hp hlen hheader hcarries x on d
  have hgo := wireFlitReceive_of_carries (f := f) hcarries
  have hexec : ∀ {g : Dev}, wireFlitReceive p f s.dev = g → exec (.wireFlitReceive p f) s = on g := fun h =>
    exec_of_actOn (f := wireFlitReceive p f) rfl
      (Bool.and_eq_true_iff.mpr ⟨Bool.and_eq_true_iff.mpr ⟨decide_eq_true hp, beq_iff_eq.mpr hlen⟩, decide_eq_true hheader⟩) h
  have hd : s.dev.iff (f.fec == .corrected) (fun s => s.bumpPort p 16 f.symbols) = d := by
    refine if_congr ?_ rfl rfl
    rw [beq_iff_eq]
  have hport : d.port p = x := by
    rw [← hd]
    exact Dev.port_iff (fun t => t.port_bumpPort _ _ _ _) _ _
  refine ⟨fun hkind hfec hbad hack hcr hnak => ?data, fun hkind hfec hbad => ?header, fun hbad => ?discard⟩
  case data =>
    have hgood : wireFlitReceive p f s.dev = d.goodFlit p f := by
      refine hgo.trans ((if_neg (by rw [hbad]; simpa using hfec)).trans ((if_pos hkind).trans ?_))
      rw [hd, Dev.linkHeader_of_none _ _ _ hack hcr hnak]
    have hst : x.st = .up ∨ f.vc = 6 → x.st = .up ∨ (x.st = .mgmtOnly ∧ f.vc = 6) := fun h => h.elim .inl fun hvc => by
      rcases hcarries with hc | hm
      · rw [EPort.carries, Bool.and_eq_true, beq_iff_eq] at hc
        exact .inl hc.1
      · exact .inr ⟨hm, hvc⟩
    refine ⟨fun hseq => ?late, fun hseq => ?_⟩
    case late => exact hexec (hgood.trans (if_pos (by rw [hport]; exact hseq)))
    intro g k
    have hnext : wireFlitReceive p f s.dev =
        if f.vc = 7 then (g.bumpPort p 22).giveBack_ p k 1
        else if x.st = .up ∨ (x.st = .mgmtOnly ∧ f.vc = 6) then g.takePackets p f
        else g.giveBack_ p k 1 := by
      refine hgood.trans ((if_neg (by rw [hport]; exact not_not.mpr hseq)).trans ?_)
      rw [← hport]
    refine ⟨fun hvc => hexec (hnext.trans ((if_pos hvc).trans rfl)), fun hvc hup hsix => ?lone, fun hvc hup => ?takes, ?packet⟩
    case lone =>
      exact hexec (hnext.trans ((if_neg hvc).trans ((if_neg (not_or.mpr ⟨hup, fun h => hsix h.2⟩)).trans rfl)))
    case takes => exact hexec (hnext.trans ((if_neg hvc).trans (if_pos (hst hup))))
    case packet =>
      intro n e hvc hup hpart hfit hsec cand
      have hgport : g.port p = { x with rxSeq := f.seq } := by
        rw [← hport]
        exact (Dev.port_bumpPort _ _ _ _ _).trans (d.port_modPort p _)
      have hrx := Dev.rx_takePackets (s := g) hlen rfl hfit hsec (p := p) (by rw [hgport]; exact hpart)
      rw [hgport] at hrx
      exact hrx
  case header =>
    have hdev : d = s.dev := by
      show (if f.fec = .corrected then _ else s.dev) = s.dev
      rw [hfec]
      exact if_neg (by decide)
    refine ⟨_, hexec (hgo.trans ((if_neg (by rw [hbad, hfec]; decide)).trans ((if_neg hkind).trans (congrArg (Dev.linkHeader · p f) hd)))),
      fun q hq => d.port_linkHeader_other p f hq, ?_⟩
    intro r
    refine (d.port_linkHeader p f).trans ?_
    rw [hport]
    exact x.naked_credited_acked f
  case discard =>
    intro near n g
    have hwindow : (if s.dev.now < x.uncorrAt + msec then (x.uncorr + 1, x.uncorrAt) else (1, s.dev.now)) =
        (n, if near then x.uncorrAt else s.dev.now) := by
      by_cases h : near
      · exact (if_pos h).trans (Prod.ext (if_pos h).symm (if_pos h).symm)
      · exact (if_neg h).trans (Prod.ext (if_neg h).symm (if_neg h).symm)
    have hrun : wireFlitReceive p f s.dev = s.dev.badWindow p (f.fkind == 1) (n, if near then x.uncorrAt else s.dev.now) :=
      hgo.trans ((if_pos hbad).trans ((s.dev.badFlit_eq_badWindow p _).trans (congrArg _ hwindow)))
    rw [Dev.badWindow_eq] at hrun
    exact ⟨fun h => hexec (hrun.trans (if_neg (Nat.not_lt.mpr h))), fun h => hexec (hrun.trans (if_pos h))⟩

end Sys2Proof.Machine

/-! ## Requests that leave, and transit (R269 to R280) -/
namespace Sys2Proof.Machine
open Sys2Proof

/-! ### Requests to a peer (R277, R280) -/

/-- A BELL or a runner message takes no transaction entry. -/
theorem Dev.sendRemote_of_lone {s : Dev} {o : OutReq} (p : Peer) (h : o.pkt.op = opRunner ∨ o.pkt.op = opBell) :
    s.sendRemote o p = match s.route (s.selOf o) (s.filled o p.dinc 0) with
      | .unreachable => s.refuseOut o stUnreachable
      | .sent t => t.dropOut o.id := by
  unfold Dev.sendRemote
  simp only [if_pos h]
  rfl

/-- A request that wants a reply waits for a free entry. -/
theorem Dev.sendRemote_of_none {s : Dev} {o : OutReq} (p : Peer) (h : ¬ (o.pkt.op = opRunner ∨ o.pkt.op = opBell))
    (hnone : s.freeTids = []) : s.sendRemote o p = s := by
  unfold Dev.sendRemote
  dsimp only
  exact if_pos ((if_neg h).trans hnone)

/-- The transaction that a request opens in an entry. -/
def OutReq.txn (o : OutReq) (tid now sinc : Nat) : Txn :=
  { tid := tid, at_ := now, sinc := sinc, ddev := o.pkt.ddev, op := o.pkt.op, src := o.src, req := o.id, late := o.remoteBound }

theorem Dev.sendRemote_of_free {s : Dev} {o : OutReq} (p : Peer) (h : ¬ (o.pkt.op = opRunner ∨ o.pkt.op = opBell))
    (hfree : s.freeTids ≠ []) : s.sendRemote o p =
      let i := s.freeTids.getD (Config.freeValue s.freeCount % s.freeTids.length) 0
      let tid := i + 2 ^ 14 * (s.elveel.reuse.get i % 4)
      match ({ s with freeCount := s.freeCount + 1 } : Dev).route (s.selOf o) (s.filled o p.dinc tid) with
      | .unreachable => s.refuseOut o stUnreachable
      | .sent t => (t.dropOut o.id).modElv fun e => { e with
          reuse := e.reuse.set i ((e.reuse.get i + 1) % 4), txns := e.txns ++ [o.txn tid s.now e.inc] } := by
  unfold Dev.sendRemote
  simp only [if_neg h, if_neg hfree]
  rfl

/-- What a request of the device's own meets, once it stands alone in its order (R277). -/
theorem outgoingRequest_of_request {id : Nat} {o : OutReq} {d : Dev} (hfind : d.elveel.outq.find? (fun q => q.id = id) = some o)
    (hlit : d.lit = true) (hreq : isReply o.pkt.op = false) : outgoingRequest id d =
      if d.heldBack o ∨ d.engineTested 7 0 then d
      else if o.pkt.ddev = 0x3FFF ∨ o.pkt.ddev = d.elveel.devnum then d.serveOwn o
      else match d.peerOf o.pkt.ddev with
        | none => d.askPeer o.pkt.ddev
        | some p =>
          let g := d.touchPeer o.pkt.ddev
          if p.state = 2 then g.refuseOut o stDrained
          else if p.state ≠ 1 then g.refuseOut o stUnreachable
          else if d.elveel.drain ≠ .no ∧ o.pkt.op ≠ opMgmt ∧ !(o.runner.any fun q => q.kind == 1) then g.refuseOut o stDrained
          else g.sendRemote o p := by
  unfold outgoingRequest
  rw [hfind]
  exact (if_neg (by rw [hlit]; decide)).trans ((if_neg (by rw [hreq]; decide)).trans rfl)

theorem outgoingRequest_of_reply {id : Nat} {o : OutReq} {d : Dev} (hfind : d.elveel.outq.find? (fun q => q.id = id) = some o)
    (hlit : d.lit = true) (hreply : isReply o.pkt.op = true) : outgoingRequest id d = d.sendBack o := by
  unfold outgoingRequest
  rw [hfind]
  exact (if_neg (by rw [hlit]; decide)).trans (if_pos hreply)

theorem remoteTimeout_of_open {tid : Nat} {d : Dev} {t : Txn} (h : d.elveel.txns.find? (fun t => t.tid = tid) = some t) :
    remoteTimeout tid d = if d.now ≤ t.at_ + d.remTo then d
      else ((d.modElv fun v => { v with txns := v.txns.filter fun x => x.tid != tid }).bumpFab 8).remoteDone
        t.src t.req stRemoteTimeout [] := by
  unfold remoteTimeout
  rw [h]

/-! ### The peer cache (R275, R276) -/

/-- A peer entry that has been read enters the cache. -/
def Dev.loadPeer (d : Dev) (id : Nat) : Dev :=
  (if (d.peerEntry id).2 then d else d.bumpFab 12).modElv fun e =>
    { e with fills := e.fills.filter fun f => f.1 != id, cache := cachePut e.cache id (d.peerEntry id).1 }

theorem Dev.loadPeer_eq (d : Dev) (id : Nat) : d.loadPeer id =
    (d.iff (!(d.peerEntry id).2) fun s => s.bumpFab 12).modElv fun e =>
      { e with fills := e.fills.filter fun f => f.1 != id, cache := cachePut e.cache id (d.peerEntry id).1 } := by
  unfold Dev.loadPeer Dev.iff
  cases (d.peerEntry id).2
  · rfl
  · rfl

theorem peerCacheFill_of_overtaken {id : Nat} {d : Dev} (h : d.elveel.fills.find? (fun f => f.1 = id) = some (id, true)) :
    peerCacheFill id d = d.modElv fun e => { e with fills := e.fills.map fun f => if f.1 = id then (id, false) else f } := by
  unfold peerCacheFill
  dsimp only
  rw [h]

theorem peerCacheFill_of_asked {id : Nat} {d : Dev} (h : d.elveel.fills.find? (fun f => f.1 = id) = some (id, false)) :
    peerCacheFill id d = d.loadPeer id := by
  rw [Dev.loadPeer_eq]
  unfold peerCacheFill
  dsimp only
  rw [h]

theorem peerCacheFill_of_pinned {id : Nat} {d : Dev} (h : d.elveel.fills.find? (fun f => f.1 = id) = none) (hlit : d.lit = true)
    (hpeer : d.peerOf id = none) (hpin : (d.peerEntry id).1.pin = true) (hok : (d.peerEntry id).2 = true) :
    peerCacheFill id d = d.loadPeer id := by
  rw [Dev.loadPeer_eq]
  unfold peerCacheFill
  dsimp only
  rw [h]
  exact if_pos (by rw [hlit, hpeer, hpin, hok]; rfl)

/-- Settles O36: the branches of a request and a reply at the own router, one by one. -/
theorem requestsLeaveByThePeerTable : Obligations.RequestsLeaveByThePeerTable := by
  intro id o s d on far
  have hout : ∀ {g}, outgoingRequest id d = g → exec (.outgoingRequest id) s = on g := fun hg =>
    exec_of_act (f := outgoingRequest id) rfl hg
  have hend : ∀ {g}, remoteTimeout id d = g → exec (.remoteTimeout id) s = on g := fun hg =>
    exec_of_act (f := remoteTimeout id) rfl hg
  refine ⟨fun hfind hlit hreq => ⟨fun hheld => ?held, fun hgo htest => ⟨fun hown => ?own, fun hnone hown => ⟨fun hpeer => ?ask, ?peer⟩⟩⟩,
    fun hfind hlit hreply => ?reply, fun t hfind => ?expire, fun hid => ?fill⟩
  case held =>
    exact (hout ((outgoingRequest_of_request hfind hlit hreq).trans (if_pos hheld))).trans rfl
  case own =>
    exact hout ((outgoingRequest_of_request hfind hlit hreq).trans ((if_neg (by rw [hgo, htest]; decide)).trans (if_pos hown)))
  case ask =>
    refine hout ((outgoingRequest_of_request hfind hlit hreq).trans ((if_neg (by rw [hgo, htest]; decide)).trans
      ((if_neg (not_or.mpr ⟨hnone, hown⟩)).trans ?_)))
    rw [hpeer]
  case peer =>
    intro p hpeer g free lone
    have hrun : outgoingRequest id d = if p.state = 2 then g.refuseOut o stDrained
        else if p.state ≠ 1 then g.refuseOut o stUnreachable
        else if d.elveel.drain ≠ .no ∧ o.pkt.op ≠ opMgmt ∧ !(o.runner.any fun q => q.kind == 1) then g.refuseOut o stDrained
        else g.sendRemote o p := by
      refine (outgoingRequest_of_request hfind hlit hreq).trans ((if_neg (by rw [hgo, htest]; decide)).trans
        ((if_neg (not_or.mpr ⟨hnone, hown⟩)).trans ?_))
      rw [hpeer]
    have hfree : (d.elveel.drain ≠ .no ∧ o.pkt.op ≠ opMgmt ∧ !(o.runner.any fun q => q.kind == 1)) ↔ ¬ free := by
      show _ ↔ ¬ (_ ∨ _ ∨ _)
      rw [not_or, not_or, Bool.not_eq_true']
      exact Iff.and Iff.rfl (Iff.and Iff.rfl (Bool.not_eq_true _).symm.to_iff)
    have hsend : p.state = 1 → free → outgoingRequest id d = g.sendRemote o p := fun hup hf =>
      hrun.trans ((if_neg (by rw [hup]; decide)).trans ((if_neg (not_not.mpr hup)).trans (if_neg fun h => hfree.mp h hf)))
    refine ⟨fun h => hout (hrun.trans (if_pos h)), fun h1 h2 => hout (hrun.trans ((if_neg h2).trans (if_pos h1))),
      fun hup hf => hout (hrun.trans ((if_neg (by rw [hup]; decide)).trans ((if_neg (not_not.mpr hup)).trans (if_pos (hfree.mpr hf))))),
      fun hup hf hlone => ?_, fun hup hf hlone htids => hout ((hsend hup hf).trans (Dev.sendRemote_of_none p hlone htids)),
      fun hup hf hlone htids => ?_⟩
    · have hgo := (hsend hup hf).trans (Dev.sendRemote_of_lone p hlone)
      exact ⟨fun t hr => hout (hgo.trans (by rw [hr])), fun hr => hout (hgo.trans (by rw [hr]))⟩
    · intro i tid gone
      have hgo := (hsend hup hf).trans (Dev.sendRemote_of_free p hlone htids)
      have hcase : ∀ r, gone = r → outgoingRequest id d = match r with
          | .unreachable => g.refuseOut o stUnreachable
          | .sent t => (t.dropOut o.id).modElv fun e => { e with
              reuse := e.reuse.set i ((e.reuse.get i + 1) % 4), txns := e.txns ++ [o.txn tid d.now e.inc] } := fun r hr => by
        rw [← hr]
        exact hgo
      exact ⟨fun hr => hout (hcase _ hr), fun t hr => hout (hcase _ hr)⟩
  case reply =>
    intro e
    have hgo := outgoingRequest_of_reply hfind hlit hreply
    unfold Dev.sendBack at hgo
    refine ⟨fun p hp => hout (hgo.trans (by rw [hp])), fun hnone => ⟨fun t hr => ?_, fun hr => ?_⟩⟩
    · exact hout (hgo.trans (by rw [hnone]; show (match d.route (d.selOf o) e with | .sent t => _ | .unreachable => _) = _; rw [hr]))
    · exact hout (hgo.trans (by rw [hnone]; show (match d.route (d.selOf o) e with | .sent t => _ | .unreachable => _) = _; rw [hr]))
  case expire =>
    exact ⟨fun h => (hend ((remoteTimeout_of_open hfind).trans (if_pos h))).trans rfl,
      fun h => hend ((remoteTimeout_of_open hfind).trans (if_neg (Nat.not_le.mpr h)))⟩
  case fill =>
    intro x
    have hput : ∀ {g}, peerCacheFill id d = g → exec (.peerCacheFill id) s = on g := fun hg =>
      exec_of_actOn (f := peerCacheFill id) rfl (decide_eq_true hid) hg
    refine ⟨fun h => hput (peerCacheFill_of_overtaken h), fun h => hput ?_⟩
    rcases h with h | ⟨h, hlit, hpeer, hpin, hok⟩
    · exact peerCacheFill_of_asked h
    · exact peerCacheFill_of_pinned h hlit hpeer hpin hok

/-! ### Transit (R269 to R273) -/

theorem length_hopBytes {bs : Bytes} (h : 15 ≤ bs.length) : (hopBytes bs).length = bs.length := by
  unfold hopBytes splice
  simp only [List.length_append, List.length_take, List.length_drop, List.length_cons, List.length_nil]
  omega

theorem getElem?_hopBytes {bs : Bytes} (h : 15 ≤ bs.length) (i : Nat) :
    (hopBytes bs)[i]? = if i = 14 then some (BitVec.ofNat 8 (byte bs 14 + 1)) else bs[i]? := by
  have htake : (bs.take 14).length = 14 := by rw [List.length_take]; omega
  unfold hopBytes splice
  rw [List.append_assoc]
  rcases Nat.lt_trichotomy i 14 with hi | hi | hi
  · rw [if_neg (Nat.ne_of_lt hi), List.getElem?_append_left (by omega), List.getElem?_take_of_lt hi]
  · rewrite [if_pos hi, hi, List.getElem?_append_right (Nat.le_of_eq htake), htake]
    rfl
  · obtain ⟨n, rfl⟩ : ∃ n, i = 15 + n := ⟨i - 15, by omega⟩
    rw [if_neg (Nat.ne_of_gt hi), List.getElem?_append_right (by omega), htake,
      List.getElem?_append_right (by simp only [List.length_cons, List.length_nil]; omega), List.getElem?_drop]
    congr 1
    simp only [List.length_cons, List.length_nil]
    omega

theorem byte_eq_getElem? (bs : Bytes) (i : Nat) : byte bs i = (bs[i]?.getD 0).toNat := by
  unfold byte fld sub
  rw [List.take_one, List.head?_drop]
  cases bs[i]? with
  | none => rfl
  | some b => exact Nat.add_zero _

theorem byte_hopBytes_hops {bs : Bytes} (h : 15 ≤ bs.length) : byte (hopBytes bs) 14 = (byte bs 14 + 1) % 256 := by
  rw [byte_eq_getElem?, getElem?_hopBytes h, if_pos rfl, Option.getD_some, BitVec.toNat_ofNat]

theorem byte_hopBytes_other {bs : Bytes} (h : 15 ≤ bs.length) {i : Nat} (hi : i ≠ 14) : byte (hopBytes bs) i = byte bs i := by
  rw [byte_eq_getElem?, getElem?_hopBytes h, if_neg hi, ← byte_eq_getElem?]

theorem Dev.giveBack_eq (d : Dev) (p k n : Nat) :
    d.giveBack_ p k n = if n ≠ 0 then d.modPort p fun x => { x with due := x.due.mod k (· + n) } else d := by
  unfold Dev.giveBack_ Dev.iff
  exact if_congr bne_iff_ne rfl rfl

/-- The candidate that a packet takes: the one that its first flit chose, while that carries, else the one of the table now (R269). -/
theorem Dev.routeBytes_of_cand {d : Dev} {sel cls : Nat} {e : EPkt} (bs : Bytes) {cand : Option (Nat × Bool)}
    (from_ : Option (Nat × Nat × Nat)) {c : Nat × Bool} (hhops : e.hops < 31)
    (hc : ((cand.filter fun c => (d.port c.1).carries) <|> d.pickRoute (vcOf e.op sel) e) = some c) :
    d.routeBytes sel cls e bs cand from_ = .sent (d.sendOn c.1 (vcOf e.op sel) (if c.2 then 1 else cls) bs from_) := by
  unfold Dev.routeBytes
  dsimp only
  rw [if_neg (Nat.not_le.mpr hhops), hc]

theorem Dev.routeBytes_of_no_cand {d : Dev} {sel cls : Nat} {e : EPkt} (bs : Bytes) {cand : Option (Nat × Bool)}
    (from_ : Option (Nat × Nat × Nat))
    (h : 31 ≤ e.hops ∨ ((cand.filter fun c => (d.port c.1).carries) <|> d.pickRoute (vcOf e.op sel) e) = none) :
    d.routeBytes sel cls e bs cand from_ = .unreachable := by
  unfold Dev.routeBytes
  dsimp only
  by_cases hhops : 31 ≤ e.hops
  · rw [if_pos hhops]
  · rw [if_neg hhops, h.resolve_left hhops]

/-- Settles O38: hop by hop; the credits of a packet that is lost go back by giveBack_. -/
theorem transitPacketsAreForwarded : Obligations.TransitPacketsAreForwarded := by
  refine ⟨fun bs h => ⟨length_hopBytes h, byte_hopBytes_hops h, fun i hi => byte_hopBytes_other h hi⟩, ?_⟩
  intro p q rest s hp hlit d on gone e vc k cand lost
  have hexec : ∀ {g}, routerForward p d = g → exec (.routerForward p) s = on g := fun hg =>
    exec_of_actOn (f := routerForward p) rfl (decide_eq_true hp) hg
  refine ⟨fun h => (hexec ?idle).trans rfl, fun hq htest => ?moves⟩
  case idle =>
    unfold routerForward
    by_cases htest : d.engineTested 7 0 = true
    · exact if_pos (.inr htest)
    · rw [if_neg (by rw [Bool.not_eq_true] at htest; rw [htest, hlit]; decide), h.resolve_right htest]
  case moves =>
    have hgo : routerForward p d =
        match gone.routeBytes (q.vc - 4) q.cls e (hopBytes q.bytes) q.cand (some (p, k, q.credits)) with
        | .sent t => t
        | .unreachable => (gone.giveBack_ p k q.credits).transitLost q.bytes := by
      unfold routerForward
      rewrite [if_neg (by rw [htest, hlit]; decide), hq]
      rfl
    refine ⟨fun c hhops hc => hexec (hgo.trans ?_), fun h => hexec (hgo.trans ?_)⟩
    · rw [Dev.routeBytes_of_cand _ _ hhops hc]
    · rw [Dev.routeBytes_of_no_cand _ _ h]
      exact congrArg (Dev.transitLost · q.bytes) (gone.giveBack_eq p k q.credits)

end Sys2Proof.Machine

/-! ## Packets from a peer (R250 to R252, R277) and the draining of a device (R283, R285) -/
namespace Sys2Proof.Machine
open Sys2Proof

/-! ### A request arrives -/

/-- Taking a packet changes the ports alone. -/
theorem Dev.now_of_takeRx {d t : Dev} {bs : Bytes} {p vc : Nat} (h : d.takeRx bs = some (p, vc, t)) : t.now = d.now := by
  unfold Dev.takeRx at h
  obtain ⟨q, -, hq⟩ := List.exists_of_findSome?_eq_some h
  obtain ⟨i, -, hi⟩ := Option.map_eq_some_iff.mp hq
  simp only [Prod.mk.injEq] at hi
  obtain ⟨-, -, rfl⟩ := hi
  exact iff_keeps Dev.now (fun _ => by rfl) _ _

section Request
variable {op : Nat} {bs : Bytes} {p vc : Nat} {d t : Dev}

/-- A packet of a defined opcode belongs to the row of that opcode. -/
theorem requestRow_of_other (hop : (epktOf bs).op ≠ op) (hknown : isRequest (epktOf bs).op = true ∨ isReply (epktOf bs).op = true) :
    requestRow op bs d = d := by
  unfold requestRow
  exact if_pos (.inr (.inr ⟨hop, Bool.or_eq_true_iff.mpr hknown⟩))

/-- What a request meets in its row, but for MGMT on a MGMT_ONLY port. -/
theorem requestRow_of_taken (hlit : d.lit = true) (htest : d.engineTested 7 0 = false)
    (hop : (epktOf bs).op = op ∨ ¬ (isRequest (epktOf bs).op = true ∨ isReply (epktOf bs).op = true))
    (htake : d.takeRx bs = some (p, vc, t)) (hlone : ¬ ((d.port p).st = .mgmtOnly ∧ vc = 6)) :
    requestRow op bs d = let e := epktOf bs
      if e.ddev ≠ d.elveel.devnum then d
      else if !ecrcOk bs then t.ecrcDrop
      else match d.checkArrival e false with
        | some st => t.refuseArrival e st none
        | none =>
          if (d.peerOf e.sdev).isNone then d.askPeer e.sdev
          else if e.brings.any fun p => !d.gridRoom p then d
          else (t.touchPeer e.sdev).passOn e none := by
  have hfalse : ((d.port p).st == .mgmtOnly && vc == 6 && op == opMgmt) = false := by
    rw [Bool.and_eq_false_iff]
    left
    rw [Bool.eq_false_iff]
    intro h
    rw [Bool.and_eq_true_iff, beq_iff_eq, beq_iff_eq] at h
    exact hlone h
  unfold requestRow
  refine (if_neg ?_).trans ?_
  · rw [hlit, htest]
    rintro (h | h | ⟨hne, hk⟩)
    · exact absurd h (by decide)
    · exact absurd h (by decide)
    · exact hop.elim hne fun hn => hn (Bool.or_eq_true_iff.mp hk)
  · rw [htake]
    dsimp only
    rw [hfalse]
    simp only [Bool.not_false, true_and, Bool.false_eq_true, if_false]
    rfl

/-- MGMT on a MGMT_ONLY port has no peer entry to meet (R259). -/
theorem requestRow_of_lone (hlit : d.lit = true) (htest : d.engineTested 7 0 = false) (hop : (epktOf bs).op = opMgmt)
    (htake : d.takeRx bs = some (p, vc, t)) (hlone : (d.port p).st = .mgmtOnly ∧ vc = 6) (hecrc : ecrcOk bs = true) :
    requestRow opMgmt bs d = match d.checkArrival (epktOf bs) true with
      | some st => t.refuseArrival (epktOf bs) st (some p)
      | none => t.passOn (epktOf bs) (some p) := by
  have hbrings : (epktOf bs).brings = none := by
    unfold EPkt.brings
    rw [hop]
    exact (if_neg (by decide)).trans (if_neg fun h => absurd h.1 (by decide))
  unfold requestRow
  refine (if_neg ?_).trans ?_
  · rw [hlit, htest]
    rintro (h | h | ⟨hne, -⟩)
    · exact absurd h (by decide)
    · exact absurd h (by decide)
    · exact hne hop
  · rw [htake]
    dsimp only
    rewrite [hlone.1, hlone.2, hecrc, hbrings]
    rfl

/-- A packet of an undefined opcode fails the second check (R260). -/
theorem Dev.checkArrival_of_unknown {d : Dev} {e : EPkt} (h : ¬ (isRequest e.op = true ∨ isReply e.op = true)) (lone : Bool) :
    d.checkArrival e lone = some stUnmapped := by
  have hfields : e.fieldsOk = false := by
    unfold EPkt.fieldsOk
    rw [Bool.eq_false_iff.mpr fun hor => h (Bool.or_eq_true_iff.mp hor)]
    simp only [Bool.false_and]
  unfold Dev.checkArrival
  exact if_pos (.inl (by rw [hfields]; rfl))

end Request

/-! ### What a request that passes does (R250 to R252) -/

theorem Dev.passOn_mgmt {g : Dev} {e : EPkt} (port : Option Nat) (hop : e.op = opMgmt) (hlen : e.payload.length = e.len)
    (hlow : 16 ≤ e.len) (hhigh : e.len ≤ 1024) : g.passOn e port =
      g.lapServe (if byte e.payload 3 = 1 then 1 else 2) (.elveel e.sdev e.tid) e.payload e port := by
  unfold Dev.passOn
  refine (if_pos hop).trans ((if_neg ?_).trans ?_)
  · rintro (h | h | h)
    · exact h hlen
    · exact Nat.not_lt.mpr hlow h
    · exact Nat.not_lt.mpr hhigh h
  · split
    · rfl
    · rfl

theorem Dev.passOn_badMgmt {g : Dev} {e : EPkt} (port : Option Nat) (hop : e.op = opMgmt)
    (hbad : e.payload.length ≠ e.len ∨ e.len < 16 ∨ 1024 < e.len) : g.passOn e port = g.sendReply e stUnsupported [] port := by
  unfold Dev.passOn
  exact (if_pos hop).trans (if_pos hbad)

theorem Dev.passOn_runner {g : Dev} {e : EPkt} (port : Option Nat) (hop : e.op = opRunner) :
    g.passOn e port = g.enterGrid { rpktOf e.payload with sdev := e.sdev } := by
  unfold Dev.passOn
  exact (if_neg (by rw [hop]; decide)).trans (if_pos hop)

theorem Dev.passOn_bell {g : Dev} {e : EPkt} (port : Option Nat) (hop : e.op = opBell) :
    g.passOn e port = { g with bells := g.bells ++ [{ line := e.aux % 32, due := g.now + 12 }] } := by
  unfold Dev.passOn
  exact (if_neg (by rw [hop]; decide)).trans ((if_neg (by rw [hop]; decide)).trans (if_pos hop))

/-- The six memory opcodes go by the space of their address. -/
theorem Dev.passOn_memory {g : Dev} {e : EPkt} (port : Option Nat) (hop : e.op ≤ opGet) : g.passOn e port =
    if e.space = 1 then g.unitStore e
    else if e.space = 2 then g.ledgerSpace e
    else if e.shapeOk then g.serve e none
    else g.sendReply e stUnsupported [] := by
  unfold Dev.passOn
  exact (if_neg (Nat.ne_of_lt (Nat.lt_of_le_of_lt hop (by decide)))).trans
    ((if_neg (Nat.ne_of_lt (Nat.lt_of_le_of_lt hop (by decide)))).trans
      (if_neg (Nat.ne_of_lt (Nat.lt_of_le_of_lt hop (by decide)))))

/-- An address lies in one space. -/
theorem space_ne {e : EPkt} {m n : Nat} (h : bits e.addr 63 62 = m) (hne : m ≠ n) : ¬ e.space = n := fun hn => hne (h.symm.trans hn)

theorem Dev.unitStore_eq (g : Dev) (e : EPkt) : g.unitStore e =
    if e.op = opStore ∧ e.len ∈ ([4, 8, 12, 16] : List Nat) ∧ e.payload.length = e.len then
      (g.enterGrid e.runnerOf).sendReply e stOk []
    else g.sendReply e stUnsupported [] := by
  unfold Dev.unitStore
  exact if_congr (and_congr_right' (and_congr_left' List.contains_iff_mem)) rfl rfl

theorem Dev.ledgerSpace_load {g : Dev} {e : EPkt} (hop : e.op = opLoad) : g.ledgerSpace e =
    if e.len ∈ ([4, 8, 16, 32, 64] : List Nat) ∧ e.payload = [] then g.peerLoad e else g.sendReply e stUnsupported [] := by
  unfold Dev.ledgerSpace
  exact (if_pos hop).trans (if_congr (and_congr List.contains_iff_mem List.isEmpty_iff) rfl rfl)

theorem Dev.ledgerSpace_store {g : Dev} {e : EPkt} (hop : e.op = opStore) : g.ledgerSpace e = g.sendReply e
    (if indexKnown (bits e.addr 23 8) && (entryInfo (bits e.addr 23 8) (bits e.addr 7 0)).isSome then stPeerDenied else stUnmapped)
    [] := by
  unfold Dev.ledgerSpace
  exact (if_neg (by rw [hop]; decide)).trans (if_pos hop)

theorem Dev.ledgerSpace_other {g : Dev} {e : EPkt} (hload : e.op ≠ opLoad) (hstore : e.op ≠ opStore) :
    g.ledgerSpace e = g.sendReply e stUnsupported [] := by
  unfold Dev.ledgerSpace
  exact (if_neg hload).trans (if_neg hstore)

/-- The rows of the nine requests. -/
theorem exec_of_request {bs : Bytes} (s : State) : ∀ c ∈ [(Instr.load bs, opLoad), (.store bs, opStore), (.atomic bs, opAtomic),
    (.lineadd bs, opLineadd), (.put bs, opPut), (.get bs, opGet), (.runner bs, opRunner), (.bell bs, opBell), (.mgmt bs, opMgmt)],
    exec c.1 s = s.act (requestRow c.2 bs) := by
  simp only [List.forall_mem_cons, List.not_mem_nil, false_implies, implies_true, and_true]
  exact ⟨rfl, rfl, rfl, rfl, rfl, rfl, rfl, rfl, rfl⟩

/-- The rows of the five replies. -/
theorem exec_of_reply {bs : Bytes} (s : State) : ∀ c ∈ [(Instr.loadR bs, opLoadR), (.comp bs, opComp), (.atomR bs, opAtomR),
    (.getR bs, opGetR), (.mgmtR bs, opMgmtR)], exec c.1 s = s.act (replyRow c.2 bs) := by
  simp only [List.forall_mem_cons, List.not_mem_nil, false_implies, implies_true, and_true]
  exact ⟨rfl, rfl, rfl, rfl, rfl⟩

/-! ### A reply arrives -/

/-- Whether a late reply counts for a transaction with a status (R266): the data of a row's read have the bound of their row. -/
def Txn.countsLate (x : Txn) (status : Nat) : Bool := match x.src with
  | .conc (.xfer _ _ _) => !(status == 0 && x.op == opLoad)
  | _ => true

theorem Txn.countsLate_iff (x : Txn) (status : Nat) :
    x.countsLate status = true ↔ ¬ ∃ b i k, x.src = .conc (.xfer b i k) ∧ status = 0 ∧ x.op = opLoad := by
  unfold Txn.countsLate
  split
  · next b i k hsrc =>
    rw [Bool.not_eq_true', ← Bool.not_eq_true, Bool.and_eq_true_iff, beq_iff_eq, beq_iff_eq, not_iff_not]
    constructor
    · intro h
      exact ⟨b, i, k, hsrc, h⟩
    · rintro ⟨-, -, -, -, h⟩
      exact h
  · next hsrc => exact iff_of_true rfl fun ⟨b, i, k, h, _⟩ => hsrc b i k h

section Reply
variable {op : Nat} {bs : Bytes} {p vc : Nat} {d g : Dev}

theorem replyRow_of_other (hop : (epktOf bs).op ≠ op) : replyRow op bs d = d := by
  unfold replyRow
  exact if_pos (.inr (.inl hop))

theorem replyRow_of_taken (hlit : d.lit = true) (htake : d.takeRx bs = some (p, vc, g)) (hop : (epktOf bs).op = op)
    (hdev : (epktOf bs).ddev = d.elveel.devnum) : replyRow op bs d = let e := epktOf bs
      if !ecrcOk bs then g.ecrcDrop
      else if !e.fieldsOk then g.bumpFab 7
      else match g.elveel.txns.find? fun x => x.tid = e.tid ∧ replyOp x.op == op with
        | some x =>
          if e.sinc ≠ g.elveel.inc then g.bumpFab 7
          else
            let h := g.modElv fun v => { v with txns := v.txns.filter fun y => y.tid != e.tid }
            (h.iff (x.late.any fun u => decide (u < g.now) && x.countsLate e.status) fun s => s.bumpFab 9).remoteDone
              x.src x.req e.status e.payload x.late
        | none => g.bumpFab 7 := by
  unfold replyRow
  refine (if_neg ?_).trans ?_
  · rw [hlit]
    rintro (h | h | h)
    · exact absurd h (by decide)
    · exact h hop
    · exact h hdev
  · rewrite [htake]
    rfl

end Reply

/-- Settles O37: the row of a packet reduces to its checks and its effect, which the clauses then tell apart. -/
theorem packetsFromPeersHaveTheirEffect : Obligations.PacketsFromPeersHaveTheirEffect := by
  refine ⟨fun bs p vc t s => ?request, fun bs p vc g s => ?reply⟩
  case request =>
    intro e on known lone hlit htest htake
    refine ⟨fun c hc => ?row, fun hlone hop hecrc => ?alone⟩
    case row =>
      have hexec : ∀ {g}, requestRow c.2 bs s.dev = g → exec c.1 s = on g := fun hg => exec_of_act (exec_of_request s c hc) hg
      have htaken : (e.op = c.2 ∨ ¬ known) → ¬ lone → _ := fun hop hl => requestRow_of_taken hlit htest hop htake hl
      refine ⟨fun hop hk => (hexec (requestRow_of_other hop hk)).trans rfl,
        fun hop hl hdev => (hexec ((htaken hop hl).trans (if_pos hdev))).trans rfl, fun hop hl hdev => ?checks,
        fun hop hl hdev hecrc hpass => ?passes⟩
      case checks =>
        have hhere := (htaken hop hl).trans (if_neg (not_not.mpr hdev))
        have hcheck : ecrcOk bs = true → ∀ st, s.dev.checkArrival e false = some st → exec c.1 s = on (t.refuseArrival e st none) :=
          fun hecrc st hst => hexec (hhere.trans ((if_neg (by rw [hecrc]; decide)).trans (by rw [hst])))
        exact ⟨fun hecrc => hexec (hhere.trans (if_pos (by rw [hecrc]; rfl))), hcheck,
          fun hecrc hk => hcheck hecrc _ (Dev.checkArrival_of_unknown hk false)⟩
      case passes =>
        have hpeer : requestRow c.2 bs s.dev = if (s.dev.peerOf e.sdev).isNone then s.dev.askPeer e.sdev
            else if e.brings.any fun p => !s.dev.gridRoom p then s.dev
            else (t.touchPeer e.sdev).passOn e none := by
          refine (htaken (.inl hop) hl).trans ((if_neg (not_not.mpr hdev)).trans ((if_neg (by rw [hecrc]; decide)).trans ?_))
          rw [hpass]
        have hnot : (s.dev.peerOf e.sdev).isSome = true → ¬ (s.dev.peerOf e.sdev).isNone = true := fun h => by
          rw [Option.isNone_iff_eq_none, ← Option.not_isSome_iff_eq_none, not_not]
          exact h
        refine ⟨fun hnone => hexec (hpeer.trans (if_pos (by rw [hnone]; rfl))), fun q hsome hq hroom => ?_, fun hsome hroom => ?effect⟩
        · refine (hexec (hpeer.trans ((if_neg (hnot hsome)).trans (if_pos ?_)))).trans rfl
          · rewrite [hq, Option.any_some, hroom]
            rfl
        case effect =>
          intro g space words entry
          have hgo : requestRow c.2 bs s.dev = g.passOn e none := by
            refine hpeer.trans ((if_neg (hnot hsome)).trans (if_neg ?_))
            rw [Option.any_eq_true]
            rintro ⟨q, hq, hfull⟩
            rw [hroom q hq] at hfull
            exact absurd hfull (by decide)
          have hout : ∀ {r}, g.passOn e none = r → exec c.1 s = on r := fun hr => hexec (hgo.trans hr)
          have hmem : c.2 ≤ opGet → g.passOn e none = _ := fun h => Dev.passOn_memory none (hop.le.trans h)
          refine ⟨fun h => hout (Dev.passOn_bell none (hop.trans h)), fun h => hout (Dev.passOn_runner none (hop.trans h)),
            fun h hlen hlow hhigh => hout (Dev.passOn_mgmt none (hop.trans h) hlen hlow hhigh),
            fun h hbad => hout (Dev.passOn_badMgmt none (hop.trans h) hbad), fun h hspace hwords => hout ?_,
            fun h hspace hentry => hout ?_, fun h hspace => hout ?_, fun h hbad => hout ?_, fun h hspace hshape => hout ?_⟩
          · exact (hmem (by rw [h]; decide)).trans ((if_pos hspace).trans ((g.unitStore_eq e).trans (if_pos ⟨hop.trans h, hwords⟩)))
          · exact (hmem (by rw [h]; decide)).trans ((if_neg (space_ne hspace (by decide))).trans ((if_pos hspace).trans
              ((Dev.ledgerSpace_load (hop.trans h)).trans (if_pos hentry))))
          · exact (hmem (by rw [h]; decide)).trans ((if_neg (space_ne hspace (by decide))).trans ((if_pos hspace).trans
              (Dev.ledgerSpace_store (hop.trans h))))
          · rcases hbad with ⟨hspace, hbad⟩ | ⟨hspace, hstore, hload⟩ | ⟨hspace, hshape⟩
            · refine (hmem h).trans ((if_pos hspace).trans ((g.unitStore_eq e).trans (if_neg fun hw => ?_)))
              exact hbad ⟨hop.symm.trans hw.1, hw.2⟩
            · refine (hmem h).trans ((if_neg (space_ne hspace (by decide))).trans ((if_pos hspace).trans ?_))
              by_cases hl : e.op = opLoad
              · exact (Dev.ledgerSpace_load hl).trans (if_neg fun hentry => hload ⟨hop.symm.trans hl, hentry⟩)
              · exact Dev.ledgerSpace_other hl fun hs => hstore (hop.symm.trans hs)
            · exact (hmem h).trans ((if_neg (space_ne hspace (by decide))).trans ((if_neg (space_ne hspace (by decide))).trans
                (if_neg (by rw [hshape]; decide))))
          · exact (hmem h).trans ((if_neg (space_ne hspace (by decide))).trans ((if_neg (space_ne hspace (by decide))).trans
              (if_pos hshape)))
    case alone =>
      have hexec : ∀ {g}, requestRow opMgmt bs s.dev = g → exec (.mgmt bs) s = on g := fun hg =>
        exec_of_act (f := requestRow opMgmt bs) rfl hg
      have hgo := requestRow_of_lone hlit htest hop htake hlone hecrc
      exact ⟨fun st hst => hexec (hgo.trans (by rw [hst])), fun hpass hlen hlow hhigh => hexec (hgo.trans (by
        rw [hpass]
        exact Dev.passOn_mgmt _ hop hlen hlow hhigh))⟩
  case reply =>
    intro e on hlit htake hdev c hc
    have hexec : ∀ {g}, replyRow c.2 bs s.dev = g → exec c.1 s = on g := fun hg => exec_of_act (exec_of_reply s c hc) hg
    refine ⟨fun hop => (hexec (replyRow_of_other hop)).trans rfl, fun hop hecrc => ?_, fun hop hecrc hfields => ?_,
      fun hop hecrc hfields => ?_⟩
    · exact hexec ((replyRow_of_taken hlit htake hop hdev).trans (if_pos (by rw [hecrc]; rfl)))
    · exact hexec ((replyRow_of_taken hlit htake hop hdev).trans ((if_neg (by rw [hecrc]; decide)).trans
        (if_pos (by rw [hfields]; rfl))))
    intro entry
    have hgo : replyRow c.2 bs s.dev = match entry with
        | some x =>
          if e.sinc ≠ g.elveel.inc then g.bumpFab 7
          else
            let h := g.modElv fun v => { v with txns := v.txns.filter fun y => y.tid != e.tid }
            (h.iff (x.late.any fun u => decide (u < g.now) && x.countsLate e.status) fun s => s.bumpFab 9).remoteDone
              x.src x.req e.status e.payload x.late
        | none => g.bumpFab 7 :=
      (replyRow_of_taken hlit htake hop hdev).trans ((if_neg (by rw [hecrc]; decide)).trans ((if_neg (by rw [hfields]; decide)).trans rfl))
    refine ⟨fun hnone => hexec (hgo.trans (by rw [hnone])), fun x hx hinc => hexec (hgo.trans (by rw [hx]; exact if_pos hinc)),
      fun x hx hinc => ?_⟩
    intro h inRow
    have hdone : ∀ late, (x.late.any fun u => decide (u < g.now) && x.countsLate e.status) = late →
        exec c.1 s = on ((h.iff late fun s => s.bumpFab 9).remoteDone x.src x.req e.status e.payload x.late) := fun late hlate => by
      refine hexec (hgo.trans ?_)
      rw [hx, ← hlate]
      exact (if_neg (not_not.mpr hinc)).trans rfl
    have hrow := x.countsLate_iff e.status
    refine ⟨fun hearly => hdone false ?_, fun u hu hlate hin => hdone true ?_⟩
    · rcases hearly with hnone | ⟨u, hu, hle⟩ | hin
      · rewrite [hnone]
        rfl
      · rw [hu, Option.any_some, decide_eq_false (by rw [Dev.now_of_takeRx htake]; exact Nat.not_lt.mpr hle), Bool.false_and]
      · have hcounts : x.countsLate e.status = false := Bool.eq_false_iff.mpr fun hc => hrow.mp hc hin
        rw [hcounts]
        cases x.late with
        | none => rfl
        | some u => exact Bool.and_false _
    · rewrite [hu, Option.any_some, decide_eq_true hlate, hrow.mpr hin]
      rfl

/-! ### Commands of a ring that start (R321, R366) -/

/-- The oldest entry of a ring starts where nothing holds it back. -/
theorem Dev.start_of_mayStart {s : Dev} {r op : Nat} {c : Cmd} {rest : List Cmd} {ready : Bytes → Bool} {f : Nat → Bytes → Dev → Dev}
    (h : s.mayStart r op c rest) (hready : ready c.entry = true) :
    s.start r op ready f = (f s.nextId c.entry (s.started r c rest)).pump r pumpMax := by
  obtain ⟨hlit, hlive, hfetched, hop, hok, hslot, hfaulted, hdoomed, horder⟩ := h
  unfold Dev.start
  dsimp only
  rw [hfetched]
  refine (if_pos ?_).trans rfl
  rewrite [hlit, hlive, hop, hok, hslot, hfaulted, hdoomed, horder, hready, BEq.rfl]
  rfl

/-- It stays where its own condition does not hold. -/
theorem Dev.start_of_unready {s : Dev} {r op : Nat} {c : Cmd} {rest : List Cmd} {ready : Bytes → Bool} {f : Nat → Bytes → Dev → Dev}
    (h : s.mayStart r op c rest) (hready : ready c.entry = false) : s.start r op ready f = s := by
  obtain ⟨-, -, hfetched, -⟩ := h
  unfold Dev.start
  dsimp only
  rw [hfetched]
  refine if_neg ?_
  rw [hready, Bool.and_false]
  decide

/-! ### Draining (R283, R285) -/

/-- The device once a neighbour's notice has been noted. -/
def Dev.noticed (d : Dev) (p : Nat) : Dev :=
  (d.modPort p fun y => { y with peerDraining := true }).event 0x19 [(32, 1, p), (34, 2, (d.port p).peerDev)]

theorem drainNotice_of_up {p : Nat} {d : Dev} (hlit : d.lit = true) (hup : (d.port p).st = .up) : drainNotice p d =
    if d.elveel.routesVia p then d.noticed p else (d.noticed p).emit (.ctl p 2) := by
  have hgo : drainNotice p d = (d.noticed p).iff (!d.elveel.routesVia p) fun s => s.emit (.ctl p 2) := by
    unfold drainNotice
    exact (if_pos (by rw [hlit, hup]; rfl)).trans rfl
  rw [hgo]
  cases d.elveel.routesVia p
  · rfl
  · rfl

/-- One port of a device that completes its draining (R283). -/
def Dev.portLeaves (p : Nat) (s : Dev) : Dev :=
  let st := (s.port p).st
  let live := st == .up || st == .mgmtOnly || st == .loop
  let s := s.iff live fun s => s.emit (.ctl p 3)
  s.iff (live || st != .down) fun s => (s.maskPort p .down).modPort p fun x => { x with routeClear := live }

theorem Dev.port_maskPort_other (s : Dev) (p q : Nat) (st : PState) (h : p ≠ q) : (s.maskPort p st).port q = s.port q := by
  unfold Dev.maskPort
  rw [Dev.port_bumpPort, Dev.port_modPort_other _ _ _ _ h.symm]

theorem Dev.port_portLeaves_other (s : Dev) {p q : Nat} (h : p ≠ q) : (s.portLeaves p).port q = s.port q := by
  unfold Dev.portLeaves
  rw [Dev.port_iff (fun t => by rw [Dev.port_modPort_other _ _ _ _ h.symm, Dev.port_maskPort_other _ _ _ _ h]),
    Dev.port_iff fun t => t.port_emit _ _]

theorem Dev.st_portLeaves (s : Dev) (p : Nat) : ((s.portLeaves p).port p).st = .down := by
  unfold Dev.portLeaves
  extract_lets st live g
  have hg : g.port p = s.port p := Dev.port_iff (fun t => t.port_emit _ _) _ _
  unfold Dev.iff
  split
  · rw [Dev.port_modPort, Dev.port_maskPort]
  · next h =>
    have hst : (st != .down) = false := (Bool.or_eq_false_iff.mp (Bool.not_eq_true _ ▸ h)).2
    rw [hg]
    exact bne_eq_false_iff_eq.mp hst

theorem drainComplete_of_ready {d : Dev} (h : d.drainReady = true) : drainComplete d =
    let s := each (List.range 18) Dev.portLeaves d
    let cmd := s.elveel.drainCmd
    let s := (s.modElv fun e => { e with drain := .drained, drainCmd := none }).event 0x1B []
    match cmd with
    | some id => s.done mgmtRing id 0 []
    | none => s := by
  unfold Dev.portLeaves drainComplete
  rw [h]
  refine (if_neg (by decide)).trans ?_
  generalize List.range 18 = l
  rfl

/-- Once a device has drained, no port is left (R283). -/
theorem elveel_drainComplete {d : Dev} (h : d.drainReady = true) :
    (drainComplete d).elveel.drain = .drained ∧ ∀ q, q < 18 → ((drainComplete d).port q).st = .down := by
  have hports : ∀ q, q < 18 → ((each (List.range 18) Dev.portLeaves d).port q).st = .down := fun q hq => by
    obtain ⟨t, -, ht⟩ := each_at (fun s => s.port q) (f := Dev.portLeaves) List.nodup_range (List.mem_range.mpr hq)
      (fun x _ hx s => s.port_portLeaves_other hx) d
    exact (congrArg EPort.st ht).trans (t.st_portLeaves q)
  rw [drainComplete_of_ready h]
  generalize each (List.range 18) Dev.portLeaves d = g at hports
  dsimp only
  obtain ⟨_, _, hevent⟩ := (g.modElv fun e => { e with drain := .drained, drainCmd := none }).event_frame 0x1B []
  rw [hevent]
  cases g.elveel.drainCmd with
  | none => exact ⟨rfl, hports⟩
  | some id =>
    obtain ⟨_, hdone⟩ := Dev.done_frame _ mgmtRing id 0 []
    dsimp only
    rw [hdone]
    exact ⟨rfl, hports⟩

/-- A device that takes its next incarnation (R285). -/
def Dev.reborn (s : Dev) (id : Nat) : Dev :=
  let inc := (s.elveel.inc + 1) % 256
  let s := s.flashOp (s.incWrite inc).1 (s.incWrite inc).2 .nothing
  s.modElv fun e => { e with drain := .no, inc := inc, devnum := s.entry 0x4000 0, undrainCmd := some id }

theorem Dev.entry_started (s : Dev) (r : Nat) (c : Cmd) (rest : List Cmd) (i j : Nat) : (s.started r c rest).entry i j = s.entry i j := rfl

theorem Dev.entry_flashOp (s : Dev) (a : List (Nat × Nat)) (b : List (Nat × Bytes)) (t : FlashThen) (i j : Nat) :
    (s.flashOp a b t).entry i j = s.entry i j := rfl

theorem Dev.devnum_reborn (s : Dev) (id : Nat) : (s.reborn id).elveel.devnum =
    (s.flashOp (s.incWrite ((s.elveel.inc + 1) % 256)).1 (s.incWrite ((s.elveel.inc + 1) % 256)).2 .nothing).entry 0x4000 0 := rfl

/-- What tells where a device is in a drain. -/
def Elveel.phase (e : Elveel) : Drain × Nat × Nat × Option Nat := (e.drain, e.inc, e.devnum, e.undrainCmd)

theorem Dev.phase_retrainPort (s : Dev) (p : Nat) : (s.retrainPort p).elveel.phase = s.elveel.phase := rfl

theorem Dev.port_retrainPort (s : Dev) (p : Nat) : ((s.retrainPort p).port p).st = .retraining ∧ ((s.retrainPort p).port p).phase = 2 := by
  unfold Dev.retrainPort
  rw [Dev.port_emit, Dev.port_bumpPort, Dev.port_modPort, Dev.port_maskPort]
  exact ⟨rfl, rfl⟩

theorem Dev.port_retrainPort_other (s : Dev) {p q : Nat} (h : p ≠ q) : (s.retrainPort p).port q = s.port q := by
  unfold Dev.retrainPort
  rw [Dev.port_emit, Dev.port_bumpPort, Dev.port_modPort_other _ _ _ _ h.symm, Dev.port_maskPort_other _ _ _ _ h]

theorem drain_of_seated {d : Dev} {c : Cmd} {rest : List Cmd} (h : d.mayStart mgmtRing 0x07 c rest)
    (hseated : d.ctxs.any (fun x => x.2.seated) = true) :
    drain d = ((d.started mgmtRing c rest).done mgmtRing d.nextId 0x4D []).pump mgmtRing pumpMax := by
  refine (Dev.start_of_mayStart h rfl).trans (congrArg (Dev.pump · mgmtRing pumpMax) ?_)
  exact if_pos hseated

theorem drain_of_free {d : Dev} {c : Cmd} {rest : List Cmd} (h : d.mayStart mgmtRing 0x07 c rest)
    (hfree : d.ctxs.any (fun x => x.2.seated) = false) : drain d =
      let g := (d.started mgmtRing c rest).modElv fun e =>
        { e with
          drain := .draining, drainCmd := some d.nextId
          ports := e.ports.map fun q => (q.1, { q.2 with routeClear := false }) }
      (each g.upPorts (fun p g => (g.emit (.ctl p 1)).modPort p fun x => { x with rep := [1] }) g).pump mgmtRing pumpMax := by
  refine (Dev.start_of_mayStart h rfl).trans (congrArg (Dev.pump · mgmtRing pumpMax) ?_)
  exact if_neg (fun hs => absurd (hfree.symm.trans hs) (by decide))

theorem undrain_of_undrained {d : Dev} {c : Cmd} {rest : List Cmd} (h : d.mayStart mgmtRing 0x08 c rest)
    (hstate : d.elveel.drain ≠ .drained) :
    undrain d = ((d.started mgmtRing c rest).done mgmtRing d.nextId 0x4E []).pump mgmtRing pumpMax := by
  refine (Dev.start_of_mayStart h rfl).trans (congrArg (Dev.pump · mgmtRing pumpMax) ?_)
  exact if_pos hstate

theorem undrain_of_drained {d : Dev} {c : Cmd} {rest : List Cmd} (h : d.mayStart mgmtRing 0x08 c rest)
    (hstate : d.elveel.drain = .drained) : undrain d =
      (each (below 18 fun p => (d.port p).routeClear) (fun p s => s.retrainPort p)
        ((d.started mgmtRing c rest).reborn d.nextId)).pump mgmtRing pumpMax := by
  refine (Dev.start_of_mayStart h rfl).trans (congrArg (Dev.pump · mgmtRing pumpMax) ?_)
  exact (if_neg (not_not.mpr hstate)).trans rfl

/-- What UNDRAIN leaves (R285). -/
theorem elveel_undrain {d : Dev} {c : Cmd} {rest : List Cmd} (h : d.mayStart mgmtRing 0x08 c rest)
    (hstate : d.elveel.drain = .drained) :
    (undrain d).elveel.phase = (.no, (d.elveel.inc + 1) % 256, d.entry 0x4000 0, some d.nextId) ∧
    ∀ q < 18, (d.port q).routeClear = true → ((undrain d).port q).st = .retraining ∧ ((undrain d).port q).phase = 2 := by
  have hborn : ((d.started mgmtRing c rest).reborn d.nextId).elveel.phase =
      (.no, (d.elveel.inc + 1) % 256, d.entry 0x4000 0, some d.nextId) := by
    have hdev : ((d.started mgmtRing c rest).reborn d.nextId).elveel.devnum = d.entry 0x4000 0 := by
      rw [Dev.devnum_reborn, Dev.entry_flashOp, Dev.entry_started]
    unfold Elveel.phase
    rewrite [hdev]
    rfl
  rw [undrain_of_drained h hstate]
  obtain ⟨_, hpump⟩ := Dev.pump_frame (each (below 18 fun p => (d.port p).routeClear) (fun p s => s.retrainPort p)
    ((d.started mgmtRing c rest).reborn d.nextId)) mgmtRing pumpMax
  rw [hpump]
  refine ⟨(each_keeps (fun s => s.elveel.phase) (fun p s => s.phase_retrainPort p) _ _).trans hborn, fun q hq hclear => ?_⟩
  have hmem : q ∈ below 18 fun p => (d.port p).routeClear := List.mem_filter.mpr ⟨List.mem_range.mpr hq, hclear⟩
  obtain ⟨t, -, ht⟩ := each_at (fun s => s.port q) (f := fun p s => s.retrainPort p) (List.nodup_range.filter _) hmem
    (fun x _ hx s => s.port_retrainPort_other hx) ((d.started mgmtRing c rest).reborn d.nextId)
  exact ⟨(congrArg EPort.st ht).trans (t.port_retrainPort q).1, (congrArg EPort.phase ht).trans (t.port_retrainPort q).2⟩

/-- Settles O39: the commands by their starts, DRAIN_COMPLETE and UNDRAIN by what each does to one port. -/
theorem drainingLeavesAndReturns : Obligations.DrainingLeavesAndReturns := by
  intro p c rest s hp d on g
  refine ⟨fun h => ⟨fun hseated => exec_of_act (f := drain) rfl (drain_of_seated h hseated), fun hfree => ?drains⟩,
    fun hlit hup => ?notice, fun hdrain hup => ?clear, fun hdrain hclear hquiet htxns => ?complete,
    fun h => ⟨fun hstate => exec_of_act (f := undrain) rfl (undrain_of_undrained h hstate), fun hstate => ?returns⟩⟩
  case drains => exact exec_of_act (f := drain) rfl (drain_of_free h hfree)
  case notice =>
    exact exec_of_actOn (f := drainNotice p) rfl (decide_eq_true hp) (drainNotice_of_up hlit hup)
  case clear =>
    refine exec_of_actOn (f := routeClear p) rfl (decide_eq_true hp) ?_
    unfold routeClear
    exact if_pos (by rw [hdrain, hup]; rfl)
  case complete =>
    have hready : d.drainReady = true := by
      unfold Dev.drainReady
      rw [hdrain, htxns, decide_eq_true hquiet, List.all_eq_true.mpr ?_]
      · rfl
      · intro q hq
        obtain ⟨hq, hst⟩ := List.mem_filter.mp hq
        exact hclear q (List.mem_range.mp hq) (beq_iff_eq.mp hst)
    exact ⟨_, exec_of_act (f := drainComplete) rfl rfl, elveel_drainComplete hready⟩
  case returns =>
    obtain ⟨hphase, hports⟩ := elveel_undrain h hstate
    simp only [Elveel.phase, Prod.mk.injEq] at hphase
    obtain ⟨hdrain, hinc, hdev, hcmd⟩ := hphase
    exact ⟨_, exec_of_act (f := undrain) rfl rfl, hdrain, hinc, hdev, hcmd, hports⟩

end Sys2Proof.Machine

/-! ## Collectives start and end (R287, R297 to R299) -/
namespace Sys2Proof.Machine
open Sys2Proof

/-! ### Starts (R297) -/

/-- What COLL_START does once it has started. -/
def Dev.collOrder (g : Dev) (r c didx step id : Nat) : Dev :=
  if g.collActive c didx ∨ g.coll.waiting.any (fun w => w.1 == c && w.2.1 == didx) then g.done r id 0x52 []
  else if !g.collAccepts c didx then g.done r id 0x51 []
  else
    let h := g.modCtx c fun x => { x with step := step }
    if h.collRoom c (collD (h.memAt (h.collOff c didx) 128)) then (h.collBegin c didx step).done r id 0 []
    else { h with coll := { h.coll with waiting := h.coll.waiting ++ [(c, didx, step, some (r, id))] } }

theorem collStart_of_mayStart {d : Dev} {r c : Nat} {e : Cmd} {rest : List Cmd} (h : d.mayStart r 0x17 e rest)
    (hctx : d.ringCtx r = some c) : collStart r d =
      ((d.started r e rest).collOrder r c (bits (fld e.entry 8 2) 11 0) (fld e.entry 16 7) d.nextId).pump r pumpMax := by
  unfold collStart
  rewrite [hctx]
  exact (Dev.start_of_mayStart h rfl).trans rfl

/-- A context that is not bound, and a device that is not lit, trigger nothing. -/
theorem collectiveTrigger_of_idle {c didx : Nat} {d : Dev} (h : d.lit = false ∨ (d.ctx c).state ≠ .bound) :
    collectiveTrigger c didx d = d := by
  unfold collectiveTrigger
  exact if_pos (h.imp (fun hl => by rw [hl]; rfl) id)

section Trigger
variable {c didx : Nat} {d : Dev} (hlit : d.lit = true) (hbound : (d.ctx c).state = .bound)
include hlit hbound

theorem collectiveTrigger_of_waiting {w : Nat × Nat × Nat × Option (Nat × Nat)}
    (hw : d.coll.waiting.find? (fun w => w.1 = c ∧ w.2.1 = didx) = some w) : collectiveTrigger c didx d = d.collResume w := by
  unfold collectiveTrigger
  rewrite [if_neg (not_or.mpr ⟨by rw [hlit]; decide, not_not.mpr hbound⟩), hw]
  rfl

theorem collectiveTrigger_of_none (hw : d.coll.waiting.find? (fun w => w.1 = c ∧ w.2.1 = didx) = none) :
    collectiveTrigger c didx d =
      if d.coll.latches.contains (c, didx) then { d with coll := d.coll.fired (c, didx) }.collFire c didx
      else if (collD (d.memAt (d.collOff c didx) 128)).trig = 2 ∧ !d.collActive c didx ∧ d.rowOffered c didx then d.collFire c didx
      else d := by
  unfold collectiveTrigger
  rewrite [if_neg (not_or.mpr ⟨by rw [hlit]; decide, not_not.mpr hbound⟩), hw]
  rfl

end Trigger

theorem Dev.collResume_of_full {d : Dev} {c didx : Nat} (step : Nat) (cmd : Option (Nat × Nat))
    (h : d.collRoom c (collD (d.memAt (d.collOff c didx) 128)) = false) : d.collResume (c, didx, step, cmd) = d := by
  unfold Dev.collResume
  exact if_pos (by rw [h]; rfl)

theorem Dev.collResume_of_accepted {d : Dev} {c didx : Nat} (step : Nat) (cmd : Option (Nat × Nat))
    (h : d.collRoom c (collD (d.memAt (d.collOff c didx) 128)) = true) (hok : d.collAccepts c didx = true) :
    d.collResume (c, didx, step, cmd) =
      let g := { d with coll := { d.coll with waiting := d.coll.waiting.filter fun w => !(w.1 == c && w.2.1 == didx) } }
      match cmd with
      | some (q, id) => (g.collBegin c didx step).done q id 0 []
      | none => g.collBegin c didx step := by
  unfold Dev.collResume
  refine (if_neg (by rw [h]; decide)).trans ?_
  cases cmd with
  | none => exact if_pos hok
  | some k => exact if_pos hok

theorem Dev.collResume_of_refused {d : Dev} {c didx : Nat} (step : Nat) (cmd : Option (Nat × Nat))
    (h : d.collRoom c (collD (d.memAt (d.collOff c didx) 128)) = true) (hok : d.collAccepts c didx = false) :
    d.collResume (c, didx, step, cmd) =
      let g := { d with coll := { d.coll with waiting := d.coll.waiting.filter fun w => !(w.1 == c && w.2.1 == didx) } }
      match cmd with
      | some (q, id) => g.done q id 0x51 []
      | none => g.collFail c 0x0013 didx := by
  have hno : ¬ d.collAccepts c didx = true := by rw [hok]; decide
  unfold Dev.collResume
  refine (if_neg (by rw [h]; decide)).trans ?_
  cases cmd with
  | none => exact if_neg hno
  | some k => exact if_neg hno

theorem CollEng.active_fired (e : CollEng) (k : Nat × Nat) : (e.fired k).active = e.active := by
  unfold CollEng.fired
  split
  · rfl
  · rfl

/-- A latch that no ring of this cycle has met clears as it fires. -/
theorem CollEng.latches_fired {e : CollEng} {k : Nat × Nat} (h : e.again.contains k = false) :
    (e.fired k).latches.contains k = false := by
  unfold CollEng.fired
  rw [if_neg (by rw [h]; decide), ← Bool.not_eq_true, List.contains_iff_mem]
  intro hmem
  exact absurd (List.mem_filter.mp hmem).2 (by rw [bne_self_eq_false]; decide)

theorem Dev.collBegin_of_abort {d : Dev} {c didx k : Nat} (step : Nat) (hslot : d.collSlot = some k)
    (habort : bit (d.sigVal (collD (d.memAt (d.collOff c didx) 128)) 0) 63 = true) :
    d.collBegin c didx step = d.collFail c 0x0011 didx := by
  unfold Dev.collBegin
  dsimp only
  rewrite [hslot]
  exact if_pos habort

/-- A start by bell or row, of a device whose latches may have cleared (R297). -/
theorem Dev.collFire_eq (d : Dev) (c didx : Nat) : d.collFire c didx =
    if d.collActive c didx = true ∨ d.collAccepts c didx = false then d.collFail c 0x0013 didx
    else if d.collRoom c (collD (d.memAt (d.collOff c didx) 128)) then d.collBegin c didx (d.ctx c).lstep
    else { d with coll := { d.coll with waiting := d.coll.waiting ++ [(c, didx, (d.ctx c).lstep, none)] } } := by
  unfold Dev.collFire
  cases d.collActive c didx with
  | true => exact ((if_pos rfl).trans (if_pos (.inl rfl)).symm)
  | false =>
    cases d.collAccepts c didx with
    | true => exact (if_neg (by decide)).trans ((if_neg (by decide)).trans (if_neg (by decide)).symm)
    | false => exact (if_neg (by decide)).trans ((if_pos rfl).trans (if_pos (.inr rfl)).symm)

/-! ### What an active collective waits for (R299) -/

theorem Dev.mem_collWaits_of_send {d : Dev} {x : Coll} {i : Nat} {p : Piece} {at_ : Nat} (hp : x.sends[i]? = some p)
    (hat : p.since = some at_) : (at_, i, p.rank) ∈ d.collWaits x := by
  unfold Dev.collWaits
  refine List.mem_append_left _ (List.mem_append_left _ (List.mem_append_left _ (List.mem_append_right _ ?_)))
  refine List.mem_filterMap.mpr ⟨(p, i), List.mem_zipIdx_iff_getElem?.mpr hp, ?_⟩
  rewrite [hat]
  rfl

theorem Dev.mem_collWaits_of_put {d : Dev} {x : Coll} {q : Txn} {i : Nat} (hq : q ∈ d.elveel.txns) (hsrc : q.src = .collPut x.uid i) :
    (q.at_, i, (x.sends.getD i default).rank) ∈ d.collWaits x := by
  unfold Dev.collWaits
  refine List.mem_append_left _ (List.mem_append_right _ (List.mem_filterMap.mpr ⟨q, hq, ?_⟩))
  rw [hsrc]
  exact if_pos rfl

/-! ### The end of a collective (R298, R299) -/

section End
variable {slot : Nat} {x : Coll} {d : Dev} (hat : d.collAt slot = some x)
include hat

theorem collComplete_of_active : collComplete slot d =
    if !d.collOver x then d
    else
      let cd := collD x.desc
      let r := (d.ctx x.ctx).ring
      let g := (d.collPut cd.sig (zeros cd.sigLen)).joinSummary x.ctx x.flags
      let g := if cd.doneb then g.ringLine cd.dline else g
      let g := if cd.crec then (g.modRing r fun y => { y with reserved := y.reserved - 1 }).record r 3 0 0 x.didx
        (result [(32, 4, x.flags.toNat)]) else g
      { g with coll := { g.coll with active := g.coll.active.filter fun p => p.1 != slot } }.bump 0x6050 x.ctx 13 := by
  unfold collComplete
  rewrite [hat]
  rfl

theorem collAbort_of_active : collAbort slot d =
    if bit (d.sigVal (collD x.desc) 0) 63 then (d.bump 0x6050 x.ctx 15).faultCtx x.ctx 0x0011 ioUnit x.didx else d := by
  unfold collAbort
  rewrite [hat]
  rfl

theorem collTimeout_of_late {at_ step rank : Nat}
    (h : (d.collWaits x).find? (fun w => w.1 + x.limit < d.now) = some (at_, step, rank)) : collTimeout slot d =
      (d.bump 0x6050 x.ctx 16).faultCtx x.ctx 0x000F ioUnit x.didx 0 (.collWait x.didx step rank) := by
  unfold collTimeout
  rewrite [hat]
  dsimp only
  rewrite [h]
  rfl

theorem collTimeout_of_timely (h : ∀ w ∈ d.collWaits x, d.now ≤ w.1 + x.limit) : collTimeout slot d = d := by
  have hnone : (d.collWaits x).find? (fun w => w.1 + x.limit < d.now) = none :=
    List.find?_eq_none.mpr fun w hw hlt => Nat.not_lt.mpr (h w hw) (of_decide_eq_true hlt)
  unfold collTimeout
  rewrite [hat]
  dsimp only
  rewrite [hnone]
  rfl

end End

theorem collEnds_of_none {slot : Nat} {d : Dev} (h : d.collAt slot = none) :
    collComplete slot d = d ∧ collAbort slot d = d ∧ collTimeout slot d = d := by
  unfold collComplete collAbort collTimeout
  rewrite [h]
  exact ⟨rfl, rfl, rfl⟩

/-- Settles O41: the branches of a start, of a trigger, and of what may end an active collective. -/
theorem collectivesStartAndEnd : Obligations.CollectivesStartAndEnd := by
  refine ⟨fun r c didx e rest s hr hc hdidx => ?starts, fun slot s hslot hnone => ?idle, fun slot x s hslot hat => ?ends⟩
  case starts =>
    intro d on room
    have hfire : ∀ {g}, collectiveTrigger c didx d = g → exec (.collectiveTrigger c didx) s = on g := fun hg =>
      exec_of_actOn (f := collectiveTrigger c didx) rfl (Bool.and_eq_true_iff.mpr ⟨decide_eq_true hc, decide_eq_true hdidx⟩) hg
    refine ⟨fun hmay hctx hentry => ?command, fun hidle => (hfire (collectiveTrigger_of_idle hidle)).trans rfl,
      fun hlit hbound => ⟨fun step cmd hw => ?waiting, fun hw => ?fires⟩, fun hagain => CollEng.latches_fired hagain,
      fun k step hslot habort => Dev.collBegin_of_abort step hslot habort⟩
    case command =>
      intro g waits step h
      have hgo : collStart r d = (g.collOrder r c didx step d.nextId).pump r pumpMax := by
        rw [← hentry]
        exact collStart_of_mayStart hmay hctx
      have hrun : ∀ {t}, g.collOrder r c didx step d.nextId = t → exec (.collStart r) s = on (t.pump r pumpMax) := fun ht =>
        exec_of_actOn (f := collStart r) rfl (decide_eq_true hr) (hgo.trans (congrArg (Dev.pump · r pumpMax) ht))
      have hwaits : (g.collActive c didx ∨ g.coll.waiting.any (fun w => w.1 == c && w.2.1 == didx)) ↔ waits = true :=
        Bool.or_eq_true_iff.symm
      have hfree : waits = false → ¬ (g.collActive c didx ∨ g.coll.waiting.any (fun w => w.1 == c && w.2.1 == didx)) := fun hf hw =>
        absurd (hf.symm.trans (hwaits.mp hw)) (by decide)
      refine ⟨fun hw => hrun (if_pos (hwaits.mpr hw)), fun hw hok => hrun ((if_neg (hfree hw)).trans (if_pos (by rw [hok]; rfl))),
        fun hw hok hroom => hrun ?_, fun hw hok hroom => hrun ?_⟩
      · exact (if_neg (hfree hw)).trans ((if_neg (by rw [hok]; decide)).trans (if_pos hroom))
      · exact (if_neg (hfree hw)).trans ((if_neg (by rw [hok]; decide)).trans (if_neg fun hr => absurd (hroom.symm.trans hr) (by decide)))
    case waiting =>
      have hgo := collectiveTrigger_of_waiting hlit hbound hw
      intro g
      exact ⟨fun hroom => (hfire (hgo.trans (Dev.collResume_of_full step cmd hroom))).trans rfl,
        fun hroom hok => (hfire (hgo.trans (Dev.collResume_of_accepted step cmd hroom hok))).trans rfl,
        fun hroom hok => (hfire (hgo.trans (Dev.collResume_of_refused step cmd hroom hok))).trans rfl⟩
    case fires =>
      intro offered g lstep
      have hgo := collectiveTrigger_of_none hlit hbound hw
      have hoffer : ((collD (d.memAt (d.collOff c didx) 128)).trig = 2 ∧ !d.collActive c didx ∧ d.rowOffered c didx) ↔ offered :=
        Iff.and Iff.rfl (Iff.and (by rw [Bool.not_eq_true']) Iff.rfl)
      refine ⟨fun hlatch hno => ?_, fun hon => ?_⟩
      · exact (hfire (hgo.trans ((if_neg (by rw [hlatch]; decide)).trans (if_neg fun h => hno (hoffer.mp h))))).trans rfl
      · have hrun : collectiveTrigger c didx d = g.collFire c didx := by
          cases hlatch : d.coll.latches.contains (c, didx) with
          | true =>
            refine (hgo.trans (if_pos hlatch)).trans (congrArg (fun e => ({ d with coll := e } : Dev).collFire c didx) ?_)
            exact (if_pos hlatch).symm
          | false =>
            have hno : ¬ d.coll.latches.contains (c, didx) = true := by rw [hlatch]; decide
            refine (hgo.trans ((if_neg hno).trans (if_pos (hoffer.mpr (hon.resolve_left hno))))).trans
              (congrArg (fun e => ({ d with coll := e } : Dev).collFire c didx) (a₁ := d.coll) ?_)
            exact (if_neg hno).symm
        have hactive : g.collActive c didx = d.collActive c didx := by
          show (if d.coll.latches.contains (c, didx) then d.coll.fired (c, didx) else d.coll).active.any _ = d.coll.active.any _
          split
          · rw [CollEng.active_fired]
          · rfl
        have heq := hrun.trans (g.collFire_eq c didx)
        rw [hactive] at heq
        refine ⟨fun h => hfire (heq.trans (if_pos h)), fun hidle hok => ?_⟩
        have hgoes := heq.trans (if_neg (not_or.mpr ⟨by rw [hidle]; decide, fun h => absurd (hok.symm.trans h) (by decide)⟩))
        exact ⟨fun hroom => hfire (hgoes.trans (if_pos hroom)),
          fun hroom => hfire (hgoes.trans (if_neg fun h => absurd (hroom.symm.trans h) (by decide)))⟩
  case idle =>
    obtain ⟨hcomplete, habort, htimeout⟩ := collEnds_of_none hnone
    exact ⟨(exec_of_actOn (f := collComplete slot) rfl (decide_eq_true hslot) hcomplete).trans rfl,
      (exec_of_actOn (f := collAbort slot) rfl (decide_eq_true hslot) habort).trans rfl,
      (exec_of_actOn (f := collTimeout slot) rfl (decide_eq_true hslot) htimeout).trans rfl⟩
  case ends =>
    intro d cd on
    have hcomplete : ∀ {g}, collComplete slot d = g → exec (.collComplete slot) s = on g := fun hg =>
      exec_of_actOn (f := collComplete slot) rfl (decide_eq_true hslot) hg
    have habort : ∀ {g}, collAbort slot d = g → exec (.collAbort slot) s = on g := fun hg =>
      exec_of_actOn (f := collAbort slot) rfl (decide_eq_true hslot) hg
    have htimeout : ∀ {g}, collTimeout slot d = g → exec (.collTimeout slot) s = on g := fun hg =>
      exec_of_actOn (f := collTimeout slot) rfl (decide_eq_true hslot) hg
    exact ⟨fun h => (hcomplete ((collComplete_of_active hat).trans (if_pos (by rw [h]; rfl)))).trans rfl,
      fun h => hcomplete ((collComplete_of_active hat).trans (if_neg (by rw [h]; decide))),
      fun h => habort ((collAbort_of_active hat).trans (if_pos h)),
      fun h => (habort ((collAbort_of_active hat).trans (if_neg fun hb => absurd (h.symm.trans hb) (by decide)))).trans rfl,
      fun at_ step rank h => htimeout (collTimeout_of_late hat h), fun h => (htimeout (collTimeout_of_timely hat h)).trans rfl,
      fun i p at_ hp hsince => Dev.mem_collWaits_of_send hp hsince, fun q hq i hsrc => Dev.mem_collWaits_of_put hq hsrc⟩

end Sys2Proof.Machine

/-! ## Pieces, signals and rows of a collective (R289, R296, R300 to R305) -/
namespace Sys2Proof.Machine
open Sys2Proof

theorem collPieces_of_none {slot : Nat} {d : Dev} (h : d.collAt slot = none) (word : Nat) (ok : Bool) :
    collPieceSend slot d = d ∧ collSignalSend slot d = d ∧ collPieceArrival slot word ok d = d := by
  unfold collPieceSend collSignalSend collPieceArrival
  rewrite [h]
  exact ⟨rfl, rfl, rfl⟩

/-- The pieces that may go, given CREDIT and DATA (R296). -/
def Dev.mayGo (d : Dev) (x : Coll) (p : Piece) : Bool :=
  p.state == 0 && x.dataReady p && decide (p.credit ≤ d.sigVal (collD x.desc) 1) && decide (p.data ≤ d.sigVal (collD x.desc) 2)

theorem getD_of_getElem? {α : Type} {l : List α} {i : Nat} {a e : α} (h : l[i]? = some a) : l.getD i e = a := by
  rw [List.getD_eq_getElem?_getD, h, Option.getD_some]

section Active
variable {slot : Nat} {x : Coll} {d : Dev} (hat : d.collAt slot = some x)
include hat

theorem collPieceSend_of_held (h : x.sends.findIdx? (d.mayGo x) = none) : collPieceSend slot d = d := by
  unfold collPieceSend
  rewrite [hat]
  dsimp only
  unfold Dev.mayGo at h
  rewrite [h]
  rfl

theorem collPieceSend_of_ready {i : Nat} {p : Piece} (h : x.sends.findIdx? (d.mayGo x) = some i) (hp : x.sends[i]? = some p) :
    collPieceSend slot d = (((d.modColl x.uid fun y =>
      { y with sends := y.sends.modify i fun q => { q with state := 1, since := none } }).bump 0x6050 x.ctx 17).bump
        0x6050 x.ctx 19 p.bytes).collIssue x.uid (.piece i) ((collD x.desc).pieceReqs p) := by
  unfold collPieceSend
  rewrite [hat]
  dsimp only
  unfold Dev.mayGo at h
  rewrite [h]
  dsimp only
  rewrite [getD_of_getElem? hp]
  rfl

theorem collSignalSend_of_held (h : x.signalNext = none) : collSignalSend slot d = d := by
  unfold collSignalSend
  rewrite [hat]
  dsimp only
  rewrite [h]
  rfl

theorem collSignalSend_of_next {i : Nat} {p : Piece} (h : x.signalNext = some i) (hp : x.sends[i]? = some p) :
    collSignalSend slot d = (d.modColl x.uid fun y => { y with sends := y.sends.modify i fun q => { q with state := 3 } }).request
      (addPkt (x.globalOf p.rank ((collD x.desc).sigAt p.sigWord))) (.collSig x.uid i) := by
  unfold collSignalSend
  rewrite [hat]
  dsimp only
  rewrite [h]
  dsimp only
  rewrite [getD_of_getElem? hp]
  rfl

/-- A signal word that stands above what has been consumed of it (R296). -/
theorem collPieceArrival_of_active (word : Nat) (ok : Bool) : collPieceArrival slot word ok d =
    let cd := collD x.desc
    let used := (x.used.get word : Nat)
    if d.sigVal cd word ≤ used ∨ word < 2 then d
    else if 3 ≤ word then if cd.reduces ∧ word < 3 + 4 * cd.n then d.treeArrival x cd word ok else d
    else if d.collRing x.ctx cd ∧ x.ringIn < x.ringGot cd then d.ringArrival x cd ok
    else if d.collRing x.ctx cd ∧ d.sigVal cd 2 ≤ used - x.ringIn + x.ringGot cd then d
    else ((d.modColl x.uid fun y => { y with used := y.used.set 2 (used + 1), lastIn := y.lastIn.set 2 d.now }).bump 0x6050 x.ctx 18).iff
      (cd.kind == kRingpass) fun s => s.ringLine (cd.aline + (used + 1) % 2) := by
  unfold collPieceArrival
  rewrite [hat]
  rfl

end Active

theorem Coll.state_of_signalNext {x : Coll} {i : Nat} {p : Piece} (h : x.signalNext = some i) (hp : x.sends[i]? = some p) :
    p.state = 2 := by
  unfold Coll.signalNext at h
  have hnext := List.find?_some h
  dsimp only at hnext
  rw [getD_of_getElem? hp] at hnext
  exact beq_iff_eq.mp (Bool.and_eq_true_iff.mp hnext).1

/-- The PUTs of a piece that is not a result (R289). -/
theorem Dev.collPuts_of_source {d : Dev} {x : Coll} {i : Nat} {p : Piece} (cd : CollD) (bs : Bytes) (hp : x.sends[i]? = some p)
    (hsrc : ∀ c, p.src ≠ .result c) : d.collPuts x cd i bs =
      let runs := joinRuns (cd.pieceLines p bs)
      each (runs.zip (flowsOf 0 none runs)) (fun q g => g.request (x.putPkt p q.2 q.1) (.collPut x.uid i))
        (d.modColl x.uid fun y => { y with sends := y.sends.modify i fun q =>
          { q with state := if runs.isEmpty then 2 else 1, left := runs.length } }) := by
  unfold Dev.collPuts
  dsimp only
  rewrite [getD_of_getElem? hp]
  cases hs : p.src with
  | result c => exact absurd hs (hsrc c)
  | mem off => rfl
  | walk buf first => rfl

/-! ### Arrivals (R300 to R302) -/

theorem Dev.collRing_reduces {d : Dev} {c : Nat} {cd : CollD} (h : d.collRing c cd = true) : (cd.kind == kRingpass) = false := by
  have hred : cd.reduces = true := (Bool.and_eq_true_iff.mp (Bool.and_eq_true_iff.mp h).1).1
  rw [beq_eq_false_iff_ne]
  rintro hk
  rw [CollD.reduces, hk] at hred
  exact absurd hred (by decide)

theorem Dev.ringArrival_of_missing {d : Dev} {x : Coll} {cd : CollD} (ok : Bool)
    (h : x.have_.contains ((cd.rank + 2 * cd.n - x.ringIn - 2) % cd.n, 0) = false) : d.ringArrival x cd ok = d := by
  unfold Dev.ringArrival
  exact if_pos (by rw [h]; rfl)

theorem Dev.ringArrival_of_input {d : Dev} {x : Coll} {cd : CollD} (ok : Bool)
    (h : x.have_.contains ((cd.rank + 2 * cd.n - x.ringIn - 2) % cd.n, 0) = true) : d.ringArrival x cd ok =
      let t := x.ringIn
      let c := (cd.rank + 2 * cd.n - t - 2) % cd.n
      (d.modColl x.uid fun y => { y with ringIn := t + 1 }).collAdd x cd c (cd.workAt (1 + 2 * (t % 2)) c) (cd.workAt 0 c)
        [(c, t + 1)] [2] (decide (t + 3 ≤ cd.n)) ok := by
  unfold Dev.ringArrival
  exact if_neg (by rw [h]; decide)

/-- Whether a merge of level k waits for a piece of a word at a member (R300). -/
def Coll.mergeDue (x : Coll) (cd : CollD) (word k : Nat) : Bool :=
  k % 2 == (word - 3) / cd.n / 2 && treeMerges cd.n k cd.rank
    && treeHolder (treeBlock cd.n (k + 1) cd.rank) ((word - 3) % cd.n) == cd.rank
    && !x.have_.contains ((word - 3) % cd.n, k + 1) && !x.adding ((word - 3) % cd.n, k + 1)

/-- Whether the operand of a merge that rank `own` holds is at hand (R300). -/
def Dev.atHand (d : Dev) (x : Coll) (cd : CollD) (word k own i : Nat) : Bool :=
  if own = cd.rank then x.have_.contains ((word - 3) % cd.n, k)
  else decide (x.used.get (cd.pieceWord ((word - 3) / cd.n / 2) i ((word - 3) % cd.n))
    < d.sigVal cd (cd.pieceWord ((word - 3) / cd.n / 2) i ((word - 3) % cd.n)))

theorem Dev.atHand_iff (d : Dev) (x : Coll) (cd : CollD) (word k own i : Nat) : d.atHand x cd word k own i = true ↔
    (if own = cd.rank then x.have_.contains ((word - 3) % cd.n, k) = true
      else x.used.get (cd.pieceWord ((word - 3) / cd.n / 2) i ((word - 3) % cd.n))
        < d.sigVal cd (cd.pieceWord ((word - 3) / cd.n / 2) i ((word - 3) % cd.n))) := by
  unfold Dev.atHand
  split
  · exact Iff.rfl
  · exact decide_eq_true_iff

/-- Where that operand stands. -/
def CollD.operandAt (cd : CollD) (word own i : Nat) : Nat :=
  if own = cd.rank then cd.workAt 0 ((word - 3) % cd.n) else cd.workAt (1 + 2 * ((word - 3) / cd.n / 2) + i) ((word - 3) % cd.n)

section Tree
variable {d : Dev} {x : Coll} {cd : CollD} {word : Nat} (ok : Bool)

theorem Dev.treeArrival_of_idle (h : (List.range (treeLevels cd.n)).find? (x.mergeDue cd word) = none) :
    d.treeArrival x cd word ok = d := by
  unfold Coll.mergeDue at h
  unfold Dev.treeArrival
  dsimp only
  rewrite [h]
  rfl

theorem Dev.treeArrival_of_due {k : Nat} (h : (List.range (treeLevels cd.n)).find? (x.mergeDue cd word) = some k) :
    d.treeArrival x cd word ok =
      let c := (word - 3) % cd.n
      let p := (word - 3) / cd.n / 2
      let l := treeHolder (treeHalves cd.n k cd.rank).1 c
      let h := treeHolder (treeHalves cd.n k cd.rank).2 c
      if d.atHand x cd word k l 0 ∧ d.atHand x cd word k h 1 then
        d.collAdd x cd c (cd.operandAt word l 0) (cd.operandAt word h 1) (passUp cd.n cd.rank c (treeLevels cd.n) (k + 1))
          ((if l = cd.rank then [] else [cd.pieceWord p 0 c]) ++ if h = cd.rank then [] else [cd.pieceWord p 1 c]) false ok
      else d := by
  unfold Coll.mergeDue at h
  unfold Dev.treeArrival Dev.atHand CollD.operandAt
  dsimp only
  rewrite [h]
  dsimp only
  simp only [beq_iff_eq]

end Tree

/-! ### Rows of epilogues (R304, R305) -/

section Rows
variable {c didx slot : Nat} {x : Coll} {d : Dev}

/-- The rows of a descriptor's inbox that are not yet on their way. -/
def rowWaits (c didx : Nat) (y : CRow) : Bool := y.ctx == c && y.didx == didx && y.job.isNone

theorem collRowAccept_of_none (h : d.coll.rows.find? (rowWaits c didx) = none ∨
    (d.coll.active.find? fun y => y.2.ctx == c && y.2.didx == didx) = none) : collRowAccept c didx d = d := by
  unfold rowWaits at h
  unfold collRowAccept
  dsimp only
  rcases h with h | h
  · rewrite [h]
    rfl
  · rewrite [h]
    cases d.coll.rows.find? fun y => y.ctx == c && y.didx == didx && y.job.isNone with
    | none => rfl
    | some r => rfl

theorem collRowAccept_of_row {r : CRow} (hrow : d.coll.rows.find? (rowWaits c didx) = some r)
    (hactive : (d.coll.active.find? fun y => y.2.ctx == c && y.2.didx == didx) = some (slot, x)) : collRowAccept c didx d =
      let cd := collD x.desc
      let e := r.row * cd.rpitch + r.col
      let k := e / cd.chunk
      if e % 32 ≠ 0 ∨ cd.count < e + 32 then d.collFail c 0x0012 didx
      else if cd.chunk / 32 ≤ x.rowsIn.get k then { d with coll := { d.coll with rows := dropFirst (rowWaits c didx) d.coll.rows } }
      else
        let g := { d with coll :=
          { d.coll with rows := modFirst (rowWaits c didx) (fun y => { y with job := some x.nextJob }) d.coll.rows } }
        (g.modColl x.uid fun y => { y with rowsIn := y.rowsIn.set k (x.rowsIn.get k + 1) }).collIssue x.uid (.row k)
          (writeReqs (cd.work + e * cd.ab) (cd.rowAcc r.fmt r.data)) := by
  unfold rowWaits at hrow
  unfold rowWaits collRowAccept
  dsimp only
  rewrite [hrow, hactive]
  rfl

end Rows

/-- Settles O42: pieces and signals by what may go next, arrivals by the word that has advanced, rows by their place. -/
theorem piecesAndSignalsGoInOrder : Obligations.PiecesAndSignalsGoInOrder := by
  refine ⟨fun slot word ok s hslot => ?idle, fun slot x s hslot hat => ?active, fun c didx slot x s hc hdidx => ?rows⟩
  case idle =>
    intro on
    have hengine : ∀ {g}, collParity s.dev = g → exec (.collPieceSend ⟨slot, true⟩) s = on g := fun hg =>
      exec_of_actOn (f := collParity) rfl (decide_eq_true hslot) hg
    refine ⟨fun hnone => ?_, fun hlit => hengine (if_pos hlit),
      fun hlit => (hengine (if_neg (by rw [hlit]; decide))).trans rfl⟩
    obtain ⟨hpiece, hsignal, harrival⟩ := collPieces_of_none hnone word ok
    exact ⟨(exec_of_actOn (f := collPieceSend slot) rfl (decide_eq_true hslot) hpiece).trans rfl,
      (exec_of_actOn (f := collSignalSend slot) rfl (decide_eq_true hslot) hsignal).trans rfl,
      (exec_of_actOn (f := collPieceArrival slot word ok) rfl (decide_eq_true hslot) harrival).trans rfl⟩
  case active =>
    intro d cd on may
    have hpiece : ∀ {g}, collPieceSend slot d = g → exec (.collPieceSend ⟨slot, false⟩) s = on g := fun hg =>
      exec_of_actOn (f := collPieceSend slot) rfl (decide_eq_true hslot) hg
    have hsignal : ∀ {g}, collSignalSend slot d = g → exec (.collSignalSend slot) s = on g := fun hg =>
      exec_of_actOn (f := collSignalSend slot) rfl (decide_eq_true hslot) hg
    have harrive : ∀ {word ok g}, collPieceArrival slot word ok d = g → exec (.collPieceArrival slot word ok) s = on g :=
      fun {word ok _} hg => exec_of_actOn (f := collPieceArrival slot word ok) rfl (decide_eq_true hslot) hg
    refine ⟨fun h => (hpiece (collPieceSend_of_held hat h)).trans rfl, fun i p h hp => hpiece (collPieceSend_of_ready hat h hp),
      fun i p bs hp hsrc => Dev.collPuts_of_source cd bs hp hsrc, fun h => (hsignal (collSignalSend_of_held hat h)).trans rfl,
      fun i p h hp => ⟨Coll.state_of_signalNext h hp, hsignal (collSignalSend_of_next hat h hp)⟩,
      fun word ok h => (harrive ((collPieceArrival_of_active hat word ok).trans (if_pos h))).trans rfl, fun hnew ok => ?data,
      fun word k ok hword hnew => ?tree, fun c left right have_ words credit hrop => ?residue⟩
    case data =>
      intro used ring t c g
      have hgo : collPieceArrival slot 2 ok d =
          if ring = true ∧ t < x.ringGot cd then d.ringArrival x cd ok
          else if ring = true ∧ d.sigVal cd 2 ≤ used - t + x.ringGot cd then d
          else g.iff (cd.kind == kRingpass) fun s => s.ringLine (cd.aline + (used + 1) % 2) :=
        (collPieceArrival_of_active hat 2 ok).trans ((if_neg (not_or.mpr ⟨Nat.not_le.mpr hnew, by decide⟩)).trans
          ((if_neg (by decide)).trans rfl))
      refine ⟨fun hring => harrive ?_, fun hring ht hin => (harrive ?_).trans rfl, fun hring ht hin => harrive ?_,
        fun hring ht hle => (harrive ?_).trans rfl, fun hring ht hlt => harrive ?_⟩
      · have hno : ¬ ring = true := by rw [hring]; decide
        refine hgo.trans ((if_neg fun h => hno h.1).trans ((if_neg fun h => hno h.1).trans ?_))
        exact if_congr beq_iff_eq rfl rfl
      · exact hgo.trans ((if_pos ⟨hring, ht⟩).trans (Dev.ringArrival_of_missing ok hin))
      · exact hgo.trans ((if_pos ⟨hring, ht⟩).trans (Dev.ringArrival_of_input ok hin))
      · exact hgo.trans ((if_neg fun h => Nat.not_lt.mpr ht h.2).trans (if_pos ⟨hring, hle⟩))
      · refine hgo.trans ((if_neg fun h => Nat.not_lt.mpr ht h.2).trans ((if_neg fun h => Nat.not_le.mpr hlt h.2).trans ?_))
        rewrite [Dev.collRing_reduces hring]
        rfl
    case tree =>
      intro n c p due l h side at_
      have hgo : collPieceArrival slot word ok d =
          if cd.reduces = true ∧ word < 3 + 4 * n then d.treeArrival x cd word ok else d :=
        (collPieceArrival_of_active hat word ok).trans ((if_neg (not_or.mpr ⟨Nat.not_le.mpr hnew,
          Nat.not_lt.mpr (Nat.le_of_succ_le hword)⟩)).trans (if_pos hword))
      refine ⟨fun hno => (harrive (hgo.trans (if_neg fun hy => ?_))).trans rfl, fun hred hlt => ⟨fun hidle => ?_, fun hdue => ?_⟩⟩
      · rcases hno with hno | hno
        · exact absurd (hno.symm.trans hy.1) (by decide)
        · exact Nat.not_lt.mpr hno hy.2
      · exact (harrive ((hgo.trans (if_pos ⟨hred, hlt⟩)).trans (Dev.treeArrival_of_idle ok hidle))).trans rfl
      · have hmerge := (hgo.trans (if_pos ⟨hred, hlt⟩)).trans (Dev.treeArrival_of_due ok hdue)
        exact ⟨fun hno => (harrive (hmerge.trans (if_neg fun h => hno ⟨(d.atHand_iff ..).mp h.1, (d.atHand_iff ..).mp h.2⟩))).trans rfl,
          fun hl hh => harrive (hmerge.trans (if_pos ⟨(d.atHand_iff ..).mpr hl, (d.atHand_iff ..).mpr hh⟩))⟩
    case residue =>
      unfold Dev.collAdd
      exact if_pos (by rw [hrop]; rfl)
  case rows =>
    intro d cd on mine active
    have hexec : ∀ {g}, collRowAccept c didx d = g → exec (.collRowAccept c didx) s = on g := fun hg =>
      exec_of_actOn (f := collRowAccept c didx) rfl (Bool.and_eq_true_iff.mpr ⟨decide_eq_true hc, decide_eq_true hdidx⟩) hg
    refine ⟨fun h => (hexec (collRowAccept_of_none h)).trans rfl, fun r hrow hactive => ?_⟩
    intro e k
    have hgo := collRowAccept_of_row hrow hactive
    refine ⟨fun hbad => hexec (hgo.trans (if_pos hbad)), fun he hend hfull => hexec ?_, fun he hend hroom => hexec ?_⟩
    · exact hgo.trans ((if_neg (not_or.mpr ⟨not_not.mpr he, Nat.not_lt.mpr hend⟩)).trans (if_pos hfull))
    · exact hgo.trans ((if_neg (not_or.mpr ⟨not_not.mpr he, Nat.not_lt.mpr hend⟩)).trans (if_neg (Nat.not_le.mpr hroom)))

end Sys2Proof.Machine

/-! ## Lots form and are released (R29, R30, R177) -/
namespace Sys2Proof.Machine
open Sys2Proof

/-! ### LOT_FORM and LOT_RELEASE -/

theorem lotForm_of_mayStart {d : Dev} {c : Cmd} {rest : List Cmd} (h : d.mayStart mgmtRing 0x01 c rest) : lotForm d =
    let g := d.started mgmtRing c rest
    let k := bits (byte c.entry 8) 5 0
    let w := fld c.entry 16 8
    Dev.pump (if !lotWordOk w then g.done mgmtRing d.nextId 0x49 []
      else if (d.lot k).state ≠ 0 then g.done mgmtRing d.nextId 0x4B []
      else if d.lots.any fun p => p.2.state != 0 && p.2.overlaps (lotOfWord w) then g.done mgmtRing d.nextId 0x4A []
      else
        let h := (g.modLot k fun _ => lotOfWord w).modPower fun p => { p with dstate := .run }
        (h.askLot (lotOfWord w) 3 none).tryActive k) mgmtRing pumpMax :=
  (Dev.start_of_mayStart h rfl).trans rfl

/-- The Chest of a Lot that is released: what is on its way to it gets CHEST_OFF, and its banks are cleared (R177). -/
def Dev.cutChest (c : Nat) (h : Dev) : Dev :=
  let h := each ((h.chest c).ports.flatMap fun p => p.2) (fun r h => h.rejectReq r stChestOff) h
  if (h.chest c).banks = [] then h else (h.wipeBanks c 0xFFFF).modChest c fun x => { x with banks := [], ports := [] }

theorem Dev.iff_not_isEmpty {α : Type} (s : Dev) (l : List α) (f : Dev → Dev) : s.iff (!l.isEmpty) f = if l = [] then s else f s := by
  cases l with
  | nil => rfl
  | cons a l => rfl

theorem lotRelease_of_mayStart {d : Dev} {c : Cmd} {rest : List Cmd} (h : d.mayStart mgmtRing 0x02 c rest) : lotRelease d =
    let g := d.started mgmtRing c rest
    let k := bits (byte c.entry 8) 5 0
    let l := d.lot k
    Dev.pump (if l.seat0.isSome ∨ l.seat1.isSome then g.done mgmtRing d.nextId 0x4B []
      else if l.state ≠ 2 then g.done mgmtRing d.nextId 0 []
      else each (l.rect.flatMap fourOf) Dev.cutChest (g.modLot k fun x => { x with state := 3, relAt := d.now })) mgmtRing pumpMax := by
  refine (Dev.start_of_mayStart h rfl).trans ?_
  have hcut : (fun (c : Nat) (s : Dev) =>
      let s := each ((s.chest c).ports.flatMap fun p => p.2) (fun r s => s.rejectReq r stChestOff) s
      s.iff (!(s.chest c).banks.isEmpty) fun s =>
        (s.wipeBanks c 0xFFFF).modChest c fun x => { x with banks := [], ports := [] }) = Dev.cutChest := by
    funext c s
    exact Dev.iff_not_isEmpty _ _ _
  dsimp only
  rewrite [hcut]
  rfl

/-! ### The end of a release (R177, R405, R410) -/

/-- The device once the blocks of a Lot that is released are off, and the Lot is gone. -/
def Dev.lotGone (d : Dev) (k : Nat) : Dev :=
  let off := each (d.lot k).rect (fun b h => h.powerOff b) d
  let gone := { off with lots := off.lots.set k {} }
  if gone.power.dstate = .run ∧ (gone.lots.all fun p => p.2.state == 0) = true then gone.modPower fun p => { p with dstate := .ready }
  else gone

theorem lotReleaseDone_of_early {k : Nat} {d : Dev} (h : (d.lot k).state ≠ 3 ∨ d.now < (d.lot k).relAt + 20 * usec) :
    lotReleaseDone k d = d := by
  unfold lotReleaseDone
  exact if_pos h

theorem lotReleaseDone_of_due {k : Nat} {d : Dev} (hstate : (d.lot k).state = 3) (hdue : (d.lot k).relAt + 20 * usec ≤ d.now) :
    lotReleaseDone k d = match (d.lotGone k).runningOp mgmtRing 0x02 with
      | some c => (d.lotGone k).done mgmtRing c.id 0 []
      | none => d.lotGone k := by
  have hgone : ∀ g : Dev, (g.iff (g.power.dstate == .run && g.lots.all fun p => p.2.state == 0) fun s => s.modPower fun p =>
      { p with dstate := .ready }) = if g.power.dstate = .run ∧ (g.lots.all fun p => p.2.state == 0) = true then
        g.modPower fun p => { p with dstate := .ready } else g := fun g => by
    unfold Dev.iff
    exact if_congr (by rw [Bool.and_eq_true, beq_iff_eq]) rfl rfl
  unfold lotReleaseDone
  refine (if_neg (not_or.mpr ⟨not_not.mpr hstate, Nat.not_lt.mpr hdue⟩)).trans ?_
  dsimp only
  rewrite [hgone]
  rfl

theorem each_cons {α : Type} (f : α → Dev → Dev) (a : α) (l : List α) (s : Dev) : each (a :: l) f s = each l f (f a s) := rfl

section Ports
variable {N : List Nat}

theorem Dev.each_reject_of_idle {s : Dev} {l : List Nat} (h : ∀ c ∈ l, (s.chest c).ports = []) :
    each l (fun c s => each ((s.chest c).ports.flatMap fun p => p.2) (fun r s => s.rejectReq r stChestOff) s) s = s := by
  induction l with
  | nil => rfl
  | cons c l ih =>
    have hc : each ((s.chest c).ports.flatMap fun p => p.2) (fun r s => s.rejectReq r stChestOff) s = s := by
      rewrite [h c List.mem_cons_self]
      rfl
    rw [each_cons, hc]
    exact ih fun c' hc' => h c' (List.mem_cons_of_mem c hc')

/-- The Chest and the Stall of a block that goes off. -/
def Dev.unitOff (n : Nat) (s : Dev) : Dev :=
  let s := (s.setStall n default).wipeBanks n 0xFFFF
  let s := { s with tiles := memDrop s.tiles (32768 * n) 32768, sidecars := memDrop s.sidecars (2048 * n) 2048 }
  s.modChest n fun x => { x with banks := [], ports := [], units := [], gens := [], heldSince := none }

theorem Dev.ports_unitOff (n m : Nat) (s : Dev) (h : (s.chest m).ports = []) : ((Dev.unitOff n s).chest m).ports = [] := by
  unfold Dev.unitOff
  by_cases hm : m = n
  · rw [hm, Dev.chest_modChest]
  · rw [Dev.chest_modChest_other _ _ _ _ hm]
    show (((s.setStall n default).wipeBanks n 0xFFFF).chest m).ports = []
    unfold Dev.wipeBanks
    rw [Dev.chest_modChest_other _ _ _ _ hm]
    exact h

theorem Dev.lots_unitOff (n : Nat) (s : Dev) : (Dev.unitOff n s).lots = s.lots := rfl

/-- A block that goes off: its units, its place in the governor's queue, and its island. -/
theorem Dev.powerOff_of_idle {s : Dev} {b : Nat} (h : ∀ c ∈ fourOf b, (s.chest c).ports = []) : s.powerOff b =
    ((each (fourOf b) Dev.unitOff s).modGov (b / 288) fun g =>
      { g with queue := g.queue.filter fun r => r.b != b || r.spare.isSome }).modBlock b fun x =>
        { x with island := .off, islandAt := none, banksAt := none, quiet := none, xfer := {} } := by
  unfold Dev.powerOff
  rewrite [Dev.each_reject_of_idle h]
  unfold Dev.unitOff
  generalize fourOf b = l
  rfl

/-- A block that goes off while nothing waits at its Chests leaves the Lots as they are. -/
theorem Dev.lots_powerOff {s : Dev} {b : Nat} (h : ∀ c ∈ fourOf b, (s.chest c).ports = []) : (s.powerOff b).lots = s.lots := by
  have hunits : (each (fourOf b) Dev.unitOff s).lots = s.lots := each_keeps Dev.lots Dev.lots_unitOff _ s
  rewrite [Dev.powerOff_of_idle h, ← hunits]
  generalize each (fourOf b) Dev.unitOff s = t
  rfl

theorem Dev.ports_powerOff {s : Dev} {b m : Nat} (h : ∀ c ∈ fourOf b, (s.chest c).ports = []) (hm : (s.chest m).ports = []) :
    ((s.powerOff b).chest m).ports = [] := by
  have hunits : ((each (fourOf b) Dev.unitOff s).chest m).ports = [] :=
    foldl_keeps_of (P := fun t => (t.chest m).ports = []) (f := fun t n => Dev.unitOff n t) (fun t n => Dev.ports_unitOff n m t) _ hm
  rewrite [Dev.powerOff_of_idle h]
  generalize each (fourOf b) Dev.unitOff s = t at hunits
  exact hunits

theorem Dev.lots_powerOffs {l : List Nat} {s : Dev} (h : ∀ n ∈ l.flatMap fourOf, (s.chest n).ports = []) :
    (each l (fun b h => h.powerOff b) s).lots = s.lots := by
  induction l generalizing s with
  | nil => rfl
  | cons b l ih =>
    have hb : ∀ c ∈ fourOf b, (s.chest c).ports = [] := fun c hc => h c (List.mem_flatMap.mpr ⟨b, List.mem_cons_self, hc⟩)
    have hl : ∀ n ∈ l.flatMap fourOf, ((s.powerOff b).chest n).ports = [] := fun n hn => by
      obtain ⟨x, hx, hn⟩ := List.mem_flatMap.mp hn
      exact Dev.ports_powerOff hb (h n (List.mem_flatMap.mpr ⟨x, List.mem_cons_of_mem b hx, hn⟩))
    rw [each_cons, ih hl, Dev.lots_powerOff hb]

end Ports

theorem Dev.power_powerOffs (l : List Nat) (s : Dev) : (each l (fun b h => h.powerOff b) s).power = s.power :=
  each_keeps Dev.power (fun b t => t.power_powerOff b) l s

/-- What the end of a release leaves, where nothing waits at the Chests of the Lot. -/
theorem Dev.lotGone_spec {d : Dev} {k : Nat} (hports : ∀ n ∈ (d.lot k).rect.flatMap fourOf, (d.chest n).ports = []) :
    (d.lotGone k).lots = d.lots.set k {} ∧
    (d.power.dstate = .run → ((d.lots.set k {}).all fun p => p.2.state == 0) = true → (d.lotGone k).power.dstate = .ready) := by
  have hlots := Dev.lots_powerOffs hports
  have hpower := Dev.power_powerOffs (d.lot k).rect d
  unfold Dev.lotGone
  generalize each (d.lot k).rect (fun b h => h.powerOff b) d = off at hlots hpower
  dsimp only
  rw [hpower, hlots]
  split
  · exact ⟨rfl, fun _ _ => rfl⟩
  · next h => exact ⟨rfl, fun hrun hall => absurd ⟨hrun, hall⟩ h⟩

/-- Settles O44: the commands by their starts, the end of a release by what each block that goes off leaves. -/
theorem lotsFormAndAreReleased : Obligations.LotsFormAndAreReleased := by
  intro c rest s d on g k w refused
  have hform : ∀ {t}, lotForm d = t → exec .lotForm s = on t := fun ht => exec_of_act (f := lotForm) rfl ht
  have hrelease : ∀ {t}, lotRelease d = t → exec .lotRelease s = on t := fun ht => exec_of_act (f := lotRelease) rfl ht
  have hdone : ∀ {k t}, k < 64 → lotReleaseDone k d = t → exec (.lotReleaseDone k) s = on t := fun {k _} hk ht =>
    exec_of_actOn (f := lotReleaseDone k) rfl (decide_eq_true hk) ht
  refine ⟨fun h => ?form, fun h => ?release, fun k hk hearly => (hdone hk (lotReleaseDone_of_early hearly)).trans rfl,
    fun k hk hstate hdue => hdone hk (lotReleaseDone_of_due hstate hdue), fun k hk hstate hdue hports => ?gone⟩
  case form =>
    have hgo := lotForm_of_mayStart h
    refine ⟨fun hword => hform (hgo.trans (congrArg (Dev.pump · mgmtRing pumpMax) (if_pos (by rw [hword]; rfl)))),
      fun hword hused => hform (hgo.trans (congrArg (Dev.pump · mgmtRing pumpMax) ?_)), fun hword hfree => ?_⟩
    · exact (if_neg (by rw [hword]; decide)).trans (if_pos hused)
    · intro clash
      refine ⟨fun hclash => hform (hgo.trans (congrArg (Dev.pump · mgmtRing pumpMax) ?_)),
        fun hclash => hform (hgo.trans (congrArg (Dev.pump · mgmtRing pumpMax) ?_))⟩
      · exact (if_neg (by rw [hword]; decide)).trans ((if_neg (not_not.mpr hfree)).trans (if_pos hclash))
      · exact (if_neg (by rw [hword]; decide)).trans ((if_neg (not_not.mpr hfree)).trans
          (if_neg fun hc => absurd (hclash.symm.trans hc) (by decide)))
  case release =>
    have hgo := lotRelease_of_mayStart h
    intro l
    have hempty : l.seat0 = none → l.seat1 = none → ¬ (l.seat0.isSome = true ∨ l.seat1.isSome = true) := fun h0 h1 => by
      rw [h0, h1]
      decide
    refine ⟨fun hseat => hrelease (hgo.trans (congrArg (Dev.pump · mgmtRing pumpMax) (if_pos hseat))),
      fun h0 h1 hstate => hrelease (hgo.trans (congrArg (Dev.pump · mgmtRing pumpMax) ?_)), fun h0 h1 hstate => ?_⟩
    · exact (if_neg (hempty h0 h1)).trans (if_pos hstate)
    · refine hrelease (hgo.trans (congrArg (Dev.pump · mgmtRing pumpMax) ?_))
      exact (if_neg (hempty h0 h1)).trans (if_neg (not_not.mpr hstate))
  case gone =>
    obtain ⟨hlots, hready⟩ := Dev.lotGone_spec hports
    have hkeep : ∀ t, lotReleaseDone k d = t → ∃ rings, t = { d.lotGone k with rings := rings } := fun t ht => by
      rw [← ht, lotReleaseDone_of_due hstate hdue]
      split
      · exact Dev.done_frame ..
      · exact ⟨_, rfl⟩
    obtain ⟨rings, hrun⟩ := hkeep _ rfl
    refine ⟨_, hdone hk hrun, ?_, fun j hj => ?_, hready⟩
    · show (d.lotGone k).lots.get k = {}
      rw [hlots, Tab.get_set_same]
    · show (d.lotGone k).lots.get j = d.lots.get j
      rw [hlots, Tab.get_set_other _ _ _ _ hj]

end Sys2Proof.Machine

/-! ## Contexts move through their states (R313 to R320, R339, R340) -/
namespace Sys2Proof.Machine
open Sys2Proof

/-! ### Completing a command leaves the other rings as they are -/

section OtherRing
variable {r q : Nat} (h : q ≠ r)
include h

theorem Dev.ring_fetch_other (s : Dev) (n : Nat) : (s.fetch r n).ring q = s.ring q := by
  induction n generalizing s with
  | zero => rfl
  | succ n ih =>
    unfold Dev.fetch Dev.fetchOne
    extract_lets x e
    split
    · exact (ih _).trans (s.ring_modRing_other r q _ h)
    · exact ih s

theorem Dev.ring_post_other (s : Dev) (e : Bytes) (st : Nat) (fs : List (Nat × Nat × Nat)) : (s.post r e st fs).ring q = s.ring q :=
  iff_keeps (fun s => s.ring q) (fun t => t.ring_modRing_other r q _ h) _ s

theorem Dev.ring_refuseFetched_other (s : Dev) (st n : Nat) : (s.refuseFetched r st n).ring q = s.ring q := by
  induction n generalizing s with
  | zero => rfl
  | succ n ih =>
    unfold Dev.refuseFetched
    split
    · rfl
    · split
      · exact (ih _).trans ((Dev.ring_post_other h _ _ _ _).trans (s.ring_modRing_other r q _ h))
      · rfl

theorem Dev.ring_pump_other (s : Dev) (n : Nat) : (s.pump r n).ring q = s.ring q := by
  induction n generalizing s with
  | zero => rfl
  | succ n ih =>
    rw [Dev.pump_succ]
    refine Eq.trans ?_ (Dev.ring_fetch_other h s fetchMax)
    generalize s.fetch r fetchMax = t
    unfold Dev.pumpNext
    split
    · rfl
    · split
      · rfl
      · split
        · exact (ih _).trans ((Dev.ring_modRing_other _ r q _ h).trans (Dev.ring_refuseFetched_other h t _ _))
        · split
          · rfl
          · exact (ih _).trans (Dev.ring_refuseFetched_other h t _ _)

theorem Dev.ring_finish_other (s : Dev) (id st : Nat) (fs : List (Nat × Nat × Nat)) : (s.finish r id st fs).ring q = s.ring q := by
  unfold Dev.finish
  split
  · rfl
  · exact (Dev.ring_post_other h _ _ _ _).trans (s.ring_modRing_other r q _ h)

theorem Dev.ring_done_other (s : Dev) (id st : Nat) (fs : List (Nat × Nat × Nat)) : (s.done r id st fs).ring q = s.ring q :=
  (Dev.ring_pump_other h _ _).trans (Dev.ring_finish_other h s id st fs)

end OtherRing

/-- What the completion of a command and the pump of its ring leave: everything but that ring. -/
theorem Dev.done_pump_spec (s : Dev) (r p id st n : Nat) (fs : List (Nat × Nat × Nat)) :
    ∃ rings, (s.done r id st fs).pump p n = { s with rings := rings } ∧ ∀ q, q ≠ r → q ≠ p → rings.get q = s.ring q := by
  obtain ⟨_, hdone⟩ := s.done_frame r id st fs
  obtain ⟨_, hpump⟩ := (s.done r id st fs).pump_frame p n
  refine ⟨_, hpump.trans (by rw [hdone]), fun q hr hp => ?_⟩
  have hring := (Dev.ring_pump_other hp (s.done r id st fs) n).trans (Dev.ring_done_other hr s id st fs)
  rw [hpump] at hring
  exact hring

/-! ### What a shelf that goes leaves of contexts, rings and Lots -/

/-- Where contexts, rings and Lots are kept. -/
def Dev.seats (s : Dev) : Tab Ctx × Tab PRing × Tab Lot := (s.ctxs, s.rings, s.lots)

theorem Dev.seats_dropBanks (s : Dev) (b : Nat) : (s.dropBanks b).seats = s.seats := by
  unfold Dev.dropBanks
  extract_lets f k
  exact each_keeps Dev.seats (fun _ t => iff_keeps Dev.seats (fun _ => by rfl) _ t) _ s

theorem Dev.seats_loseBack (s : Dev) (k : Nat) : (s.loseBack k).seats = (s.ctxs, s.rings, s.lots.mod k Lot.emptyBack) := by
  unfold Dev.loseBack
  extract_lets s1 rect keep drop s2
  have h2 : s2.seats = (s.ctxs, s.rings, s.lots.mod k Lot.emptyBack) := rfl
  clear_value s2 rect
  refine (each_keeps Dev.seats (fun b t => ?_) rect s2).trans h2
  exact (Dev.seats_dropBanks _ b).trans rfl

theorem Dev.seats_abandon (s : Dev) (n : Nat) : (s.abandon n).seats = s.seats := by
  unfold Dev.abandon
  extract_lets st s1
  refine Eq.trans (b := s1.seats) rfl (foldl_keeps Dev.seats (fun t j => ?_) st.jobs s)
  split
  · extract_lets w
    split
    · rfl
    · rfl
  · exact foldl_keeps Dev.seats (fun _ _ => by rfl) _ t

theorem Dev.seats_stopStall (s : Dev) (n : Nat) : (s.stopStall n).seats = s.seats := by
  unfold Dev.stopStall
  split
  · rfl
  · exact s.seats_abandon n

/-- A Lot without its front shelf. -/
def Lot.emptyFront (x : Lot) : Lot := { x with front := {}, credit := 0, beat := { x.beat with active := false, len := 0 } }

theorem Dev.seats_dropFront (s : Dev) (k : Nat) : (s.dropFront k).seats = (s.ctxs, s.rings, s.lots.mod k Lot.emptyFront) := by
  unfold Dev.dropFront
  extract_lets l old s1 s2
  have h1 : s1.seats = s.seats := each_keeps Dev.seats (fun b t => each_keeps Dev.seats (fun n t =>
    (show ((t.stopStall n).closeQueues n).seats = (t.stopStall n).seats from rfl).trans (t.seats_stopStall n)) _ t) _ s
  clear_value s1
  have h2 : s2.seats = (s.ctxs, s.rings, s.lots.mod k Lot.emptyFront) := by
    obtain ⟨hctxs, hrest⟩ := Prod.mk.inj h1
    obtain ⟨hrings, hlots⟩ := Prod.mk.inj hrest
    show (s1.ctxs, s1.rings, s1.lots.mod k Lot.emptyFront) = _
    rw [hctxs, hrings, hlots]
  clear_value s2
  refine (each_keeps Dev.seats (fun b t => ?_) l.rect s2).trans h2
  refine (Dev.seats_dropBanks _ b).trans ?_
  exact each_keeps Dev.seats (fun _ t => iff_keeps Dev.seats (fun _ => by rfl) _ t) _ t

theorem Dev.seats_refreshFront (s : Dev) (k : Nat) : (s.refreshFront k).rings = s.rings ∧ (s.refreshFront k).lots = s.lots ∧
    ∀ c, (s.refreshFront k).ctx c = s.ctx c := by
  unfold Dev.refreshFront
  extract_lets x
  have hctx : ∀ c (t : Dev) e, (t.setCtx e (t.ctx e)).ctx c = t.ctx c := fun c t e => by
    by_cases h : c = e
    · rw [h, Dev.ctx_setCtx]
    · exact Dev.ctx_setCtx_other _ _ _ _ h
  exact ⟨each_keeps Dev.rings (fun _ t => t.setCtx_rings ..) _ s, each_keeps Dev.lots (fun _ t => t.setCtx_lots ..) _ s,
    fun c => each_keeps (fun t => t.ctx c) (fun e t => hctx c t e) _ s⟩

/-! ### CTX_BIND (R317) -/

/-- Emptying the back shelf changes the Lot, and of the rings at most one on which a load runs. -/
theorem Dev.clearBack_spec (s : Dev) (k r : Nat) (hidle : (s.ring r).running = []) :
    (s.clearBack k).ctxs = s.ctxs ∧ (s.clearBack k).ring r = s.ring r ∧ (s.clearBack k).lots =
      if (s.lot k).bstate = .empty ∨ (s.lot k).promote then s.lots else s.lots.mod k Lot.emptyBack := by
  unfold Dev.clearBack
  extract_lets l loads runs q s1
  split
  · exact ⟨rfl, rfl, rfl⟩
  · obtain ⟨hctxs, hrest⟩ := Prod.mk.inj (s.seats_loseBack k)
    obtain ⟨hrings, hlots⟩ := Prod.mk.inj hrest
    have hring : s1.ring r = s.ring r := congrArg (fun x : Tab PRing => x.get r) hrings
    have hkeep : s1.ctxs = s.ctxs ∧ s1.ring r = s.ring r ∧ s1.lots = s.lots.mod k Lot.emptyBack := ⟨hctxs, hring, hlots⟩
    clear_value s1
    split
    · exact hkeep
    · split
      · exact hkeep
      · next x hrun =>
        have hother : r ≠ q := by
          rintro rfl
          rw [Dev.runningOp, hring, hidle] at hrun
          exact absurd hrun (by simp)
        obtain ⟨_, hdone⟩ := Dev.done_frame { s1 with loading := if loads.isSome then none else s1.loading } q x.id 0x26 []
        exact ⟨(congrArg Dev.ctxs hdone).trans hkeep.1, (Dev.ring_done_other hother ..).trans hkeep.2.1,
          (congrArg Dev.lots hdone).trans hkeep.2.2⟩

/-- The Lot that a context joins, whose seats are 0 and 1. -/
def Lot.join (l : Lot) (c seat : Nat) (first : Bool) : Lot :=
  { l with
    seat0 := if seat = 0 then some c else l.seat0, seat1 := if seat = 1 then some c else l.seat1
    fseat := if first then seat else if l.promote then 1 - seat else l.fseat }

theorem Lot.seat_join (l : Lot) (c : Nat) {seat : Nat} (h : seat ≤ 1) (first : Bool) : (l.join c seat first).seat seat = some c := by
  obtain rfl | rfl := Nat.le_one_iff_eq_zero_or_eq_one.mp h
  · rfl
  · rfl

/-- The device once a context has its seat and its ring. -/
def Dev.bound (g : Dev) (c k seat r : Nat) : Dev :=
  let s := (g.homeClerk (g.lot k)).2
  let s := s.modSvc fun v => { v with home := v.home.set c (g.homeClerk (g.lot k)).1 }
  let s := s.modRing r fun _ => { live := true, ctx := some c }
  let first := ((s.lot k).seat (1 - seat)).isNone
  let s := if first then s else s.clearBack k
  let s := s.modLot k fun l => l.join c seat first
  s.setCtx c { s.ctx c with state := .bound, lot := k, seat := seat, ring := r }

theorem ctxBind_of_mayStart {d : Dev} {e : Cmd} {rest : List Cmd} (h : d.mayStart mgmtRing 0x04 e rest) : ctxBind d =
    let g := d.started mgmtRing e rest
    let c := bits (fld e.entry 8 2) 9 0
    let k := bits (byte e.entry 10) 5 0
    let seat := bits (byte e.entry 11) 0 0
    Dev.pump (if g.bindReason c k seat ≠ 0 then g.done mgmtRing d.nextId 0x43 [(33, 1, g.bindReason c k seat)]
      else match (List.range 64).find? fun r => !(g.ring r).live with
        | none => g.done mgmtRing d.nextId 0x43 [(33, 1, 4)]
        | some r => (g.bound c k seat r).done mgmtRing d.nextId 0 [(32, 1, r)]) mgmtRing pumpMax := by
  refine (Dev.start_of_mayStart h rfl).trans (congrArg (Dev.pump · mgmtRing pumpMax) ?_)
  generalize d.started mgmtRing e rest = g
  dsimp only
  split
  · rfl
  · generalize List.range 64 = l
    cases l.find? fun r => !(g.ring r).live with
    | none => rfl
    | some r => rfl

theorem Dev.bindReason_started (d : Dev) (r : Nat) (e : Cmd) (rest : List Cmd) (c k seat : Nat) :
    (d.started r e rest).bindReason c k seat = d.bindReason c k seat := rfl

theorem Dev.live_started (d : Dev) (e : Cmd) (rest : List Cmd) (r : Nat) :
    ((d.started mgmtRing e rest).ring r).live = (d.ring r).live := by
  unfold Dev.started
  by_cases h : r = mgmtRing
  · rewrite [h, Dev.ring_modRing]
    rfl
  · rewrite [Dev.ring_modRing_other _ _ _ _ h]
    rfl

theorem Dev.find_started (d : Dev) (e : Cmd) (rest : List Cmd) :
    ((List.range 64).find? fun r => !((d.started mgmtRing e rest).ring r).live) = (List.range 64).find? fun r => !(d.ring r).live :=
  congrArg (fun p : Nat → Bool => (List.range 64).find? p) (funext fun r => by rw [d.live_started e rest r])

/-- What a bind leaves (R317). -/
theorem Dev.bound_spec (g : Dev) (c k : Nat) {seat : Nat} (r : Nat) (hseat : seat ≤ 1) :
    (g.bound c k seat r).ctx c = { g.ctx c with state := .bound, lot := k, seat := seat, ring := r } ∧
    (g.bound c k seat r).ring r = { live := true, ctx := some c } ∧ ((g.bound c k seat r).lot k).seat seat = some c ∧
    ((g.lot k).seat (1 - seat) = none → ((g.bound c k seat r).lot k).fseat = seat) ∧
    ((g.lot k).seat (1 - seat) ≠ none → (g.lot k).promote = false →
      ((g.bound c k seat r).lot k).fseat = (g.lot k).fseat ∧ ((g.bound c k seat r).lot k).bstate = .empty) := by
  unfold Dev.bound
  extract_lets s1 s2 s3 first s4 s5
  have hctx3 : s3.ctxs = g.ctxs := rfl
  have hlots3 : s3.lots = g.lots := rfl
  have hring3 : s3.ring r = { live := true, ctx := some c } := s2.ring_modRing r _
  have hfirst : first = ((g.lot k).seat (1 - seat)).isNone := rfl
  clear_value s3 first
  have h4 : s4.ctxs = g.ctxs ∧ s4.ring r = { live := true, ctx := some c } ∧ s4.lots =
      if first = true ∨ (g.lot k).bstate = .empty ∨ (g.lot k).promote then g.lots else g.lots.mod k Lot.emptyBack := by
    have hlot : s3.lot k = g.lot k := congrArg (fun x : Tab Lot => x.get k) hlots3
    show (if first then s3 else s3.clearBack k).ctxs = _ ∧ (if first then s3 else s3.clearBack k).ring r = _ ∧
      (if first then s3 else s3.clearBack k).lots = _
    cases first with
    | true => exact ⟨hctx3, hring3, hlots3.trans (if_pos (.inl rfl)).symm⟩
    | false =>
      obtain ⟨hc, hr, hl⟩ := s3.clearBack_spec k r (by rw [hring3])
      refine ⟨hc.trans hctx3, hr.trans hring3, hl.trans ?_⟩
      rw [hlot, hlots3]
      simp only [Bool.false_eq_true, false_or]
  clear_value s4
  obtain ⟨hctxs, hring, hlots⟩ := h4
  have hlot : (s5.setCtx c { s5.ctx c with state := .bound, lot := k, seat := seat, ring := r }).lot k = (s4.lot k).join c seat first := by
    rw [Dev.lot, Dev.setCtx_lots]
    exact s4.lot_modLot k _
  refine ⟨?_, ?_, ?_, fun hnone => ?_, fun hsome hpromote => ?_⟩
  · have hc : s5.ctx c = g.ctx c := congrArg (fun x : Tab Ctx => x.get c) hctxs
    exact (Dev.ctx_setCtx _ c _).trans
      (congrArg (fun x : Ctx => { x with state := .bound, lot := k, seat := seat, ring := r }) hc)
  · rw [Dev.ring, Dev.setCtx_rings]
    exact hring
  · rw [hlot]
    exact Lot.seat_join _ c hseat first
  · rw [hlot]
    exact if_pos (by rw [hfirst, hnone]; rfl)
  · have hno : first = false := by
      rw [hfirst]
      cases hs : (g.lot k).seat (1 - seat) with
      | none => exact absurd hs hsome
      | some o => rfl
    have hlot4 : s4.lot k = if (g.lot k).bstate = .empty then g.lot k else (g.lot k).emptyBack := by
      rw [Dev.lot, hlots, hno, hpromote]
      simp only [Bool.false_eq_true, false_or, or_false]
      split
      · rfl
      · exact Tab.get_mod_same _ _ _
    rw [hlot, hno, hlot4]
    split
    · next he => exact ⟨if_neg (by rw [hpromote]; decide), he⟩
    · exact ⟨rfl, rfl⟩

/-! ### CTX_UNBIND (R320) -/

/-- The Lot that a context leaves: with the other's shelf at the back, that one waits to become front. -/
def Lot.leave (y : Lot) (x : Ctx) (isFront : Bool) (now : Nat) : Lot :=
  let y := { y with seat0 := if x.seat = 0 then none else y.seat0, seat1 := if x.seat = 1 then none else y.seat1 }
  match y.seat (1 - x.seat) with
  | none => y
  | some o =>
    if isFront && y.back.kind != 0 && y.back.ctx == o then
      { y with promote := true, swapReq := if x.cyclic then y.swapReq else some { start := now } }
    else { y with fseat := 1 - x.seat }

theorem Lot.leave_spec (y : Lot) (x : Ctx) (isFront : Bool) (now : Nat) :
    (x.seat ≤ 1 → (y.leave x isFront now).seat x.seat = none) ∧ (y.leave x isFront now).front = y.front ∧
    (y.leave x isFront now).bstate = y.bstate := by
  unfold Lot.leave
  extract_lets z
  have hz : x.seat ≤ 1 → z.seat x.seat = none := fun h => by
    show (if x.seat = 0 then (if x.seat = 0 then none else y.seat0) else if x.seat = 1 then none else y.seat1) = none
    obtain h | h := Nat.le_one_iff_eq_zero_or_eq_one.mp h
    · rw [if_pos h, if_pos h]
    · rw [if_neg (by rw [h]; decide), if_pos h]
  split
  · exact ⟨hz, rfl, rfl⟩
  · split
    · exact ⟨hz, rfl, rfl⟩
    · exact ⟨hz, rfl, rfl⟩

/-- The device once a context has left its Lot. -/
def Dev.unbound (g : Dev) (c : Nat) : Dev :=
  let x := g.ctx c
  let l := g.lot x.lot
  let isFront : Bool := l.front.kind != 0 && l.front.ctx == c
  let s := if isFront then g.dropFront x.lot else g
  let s := s.iff (l.bstate != .empty && l.back.ctx == c) fun s => s.loseBack x.lot
  let s := each l.rect (fun b s => s.modXfer b fun y => { y with tcache := y.tcache.filter fun t => t.1 / 2 ^ 36 != c }) s
  let s := s.modRing x.ring fun _ => {}
  let s := s.modLot x.lot fun y => y.leave x isFront s.now
  (s.setCtx c { x with state := .defined, lot := 0, seat := 0, ring := 0 }).refreshFront x.lot

theorem ctxUnbind_of_mayStart {d : Dev} {e : Cmd} {rest : List Cmd} (h : d.mayStart mgmtRing 0x05 e rest) : ctxUnbind d =
    let g := d.started mgmtRing e rest
    let c := bits (fld e.entry 8 2) 9 0
    Dev.pump (if !(d.ctx c).seated then g.done mgmtRing d.nextId 0x41 []
      else if g.unbindBusy c then g.done mgmtRing d.nextId 0x42 []
      else (g.unbound c).done mgmtRing d.nextId 0 []) mgmtRing pumpMax := by
  refine (Dev.start_of_mayStart h rfl).trans (congrArg (Dev.pump · mgmtRing pumpMax) ?_)
  have hctx : ∀ c, d.ctx c = (d.started mgmtRing e rest).ctx c := fun _ => rfl
  dsimp only
  rewrite [hctx]
  generalize d.started mgmtRing e rest = g
  split
  · rfl
  · split
    · rfl
    · rfl

/-- What an unbind leaves (R320). -/
theorem Dev.unbound_spec (g : Dev) (c : Nat) : let x := g.ctx c
    (g.unbound c).ctx c = { x with state := .defined, lot := 0, seat := 0, ring := 0 } ∧ (g.unbound c).ring x.ring = {} ∧
    (x.seat ≤ 1 → ((g.unbound c).lot x.lot).seat x.seat = none) ∧
    ((g.lot x.lot).front.kind ≠ 0 → (g.lot x.lot).front.ctx = c → ((g.unbound c).lot x.lot).front = {}) ∧
    ((g.lot x.lot).bstate ≠ .empty → (g.lot x.lot).back.ctx = c → ((g.unbound c).lot x.lot).bstate = .empty) := by
  unfold Dev.unbound
  extract_lets x l isFront s1 s2 s3 s4 s5
  have h1 : s1.lot x.lot = if isFront then l.emptyFront else l := by
    show (if isFront then g.dropFront x.lot else g).lot x.lot = _
    cases isFront with
    | true =>
      have hlots : (g.dropFront x.lot).lots = g.lots.mod x.lot Lot.emptyFront := congrArg (fun v => v.2.2) (g.seats_dropFront x.lot)
      exact (congrArg (fun t : Tab Lot => t.get x.lot) hlots).trans (Tab.get_mod_same _ _ _)
    | false => rfl
  clear_value s1
  have h2 : s2.lot x.lot = if l.bstate != .empty && l.back.ctx == c then (s1.lot x.lot).emptyBack else s1.lot x.lot := by
    show (s1.iff (l.bstate != .empty && l.back.ctx == c) fun s => s.loseBack x.lot).lot x.lot = _
    cases l.bstate != .empty && l.back.ctx == c with
    | true =>
      have hlots : (s1.loseBack x.lot).lots = s1.lots.mod x.lot Lot.emptyBack := congrArg (fun v => v.2.2) (s1.seats_loseBack x.lot)
      exact (congrArg (fun t : Tab Lot => t.get x.lot) hlots).trans (Tab.get_mod_same _ _ _)
    | false => rfl
  clear_value s2
  have h3 : s3.lot x.lot = s2.lot x.lot := each_keeps (fun s => s.lot x.lot) (fun _ _ => by rfl) _ s2
  clear_value s3
  have h5 : s5.lot x.lot = (s3.lot x.lot).leave x isFront s4.now := s4.lot_modLot x.lot _
  have hring : s5.ring x.ring = {} := s3.ring_modRing x.ring fun _ => {}
  clear_value s5
  obtain ⟨hrings, hlots, hctxs⟩ :=
    (s5.setCtx c { x with state := .defined, lot := 0, seat := 0, ring := 0 }).seats_refreshFront x.lot
  have hlot : ((s5.setCtx c { x with state := .defined, lot := 0, seat := 0, ring := 0 }).refreshFront x.lot).lot x.lot =
      (s2.lot x.lot).leave x isFront s4.now :=
    (congrArg (fun t : Tab Lot => t.get x.lot) (hlots.trans (s5.setCtx_lots ..))).trans (h5.trans (by rw [h3]))
  obtain ⟨hseat, hfront, hback⟩ := (s2.lot x.lot).leave_spec x isFront s4.now
  refine ⟨(hctxs c).trans (s5.ctx_setCtx c _), ?_, fun h => ?_, fun hkind hctx => ?_, fun hbusy hctx => ?_⟩
  · exact (congrArg (fun t : Tab PRing => t.get x.ring) (hrings.trans (s5.setCtx_rings ..))).trans hring
  · rw [hlot]
    exact hseat h
  · have hyes : isFront = true := Bool.and_eq_true_iff.mpr ⟨bne_iff_ne.mpr hkind, beq_iff_eq.mpr hctx⟩
    rw [hlot, hfront, h2, h1, hyes]
    split
    · rfl
    · rfl
  · rewrite [hlot, hback, h2, if_pos (Bool.and_eq_true_iff.mpr ⟨bne_iff_ne.mpr hbusy, beq_iff_eq.mpr hctx⟩)]
    rfl

/-! ### FAULT_ACK and the end of a teardown (R339, R340) -/

theorem faultAck_of_mayStart {d : Dev} {e : Cmd} {rest : List Cmd} (h : d.mayStart mgmtRing 0x06 e rest) : faultAck d =
    let g := d.started mgmtRing e rest
    let c := bits (fld e.entry 8 2) 9 0
    let x := d.ctx c
    Dev.pump (if x.state ≠ .faulted then g.done mgmtRing d.nextId 0x41 []
      else if d.teardowns.any fun t => t.ctx == c then g.done mgmtRing d.nextId 0x42 []
      else
        let h := g.modRing x.ring fun y => { y with doomed := y.fetched.length + (y.ctail + 65536 - y.chead) % 65536 }
        ((h.setCtx c { x with state := .bound }).done mgmtRing d.nextId 0 []).pump x.ring pumpMax) mgmtRing pumpMax :=
  (Dev.start_of_mayStart h rfl).trans (congrArg (Dev.pump · mgmtRing pumpMax) rfl)

theorem ctxDefine_of_mayStart {d : Dev} {e : Cmd} {rest : List Cmd} (h : d.mayStart mgmtRing 0x03 e rest) : ctxDefine d =
    let g := d.started mgmtRing e rest
    let c := bits (fld e.entry 8 2) 9 0
    let a := fld e.entry 16 8
    let b := d.memAt a 256
    Dev.pump (if (d.ctx c).seated then g.done mgmtRing d.nextId 0x42 []
      else if jobEnd < a + 256 ∨ !ctxImageOk b then g.done mgmtRing d.nextId 0x41 []
      else (g.setCtx c (ctxOfImage (d.ctx c) b)).done mgmtRing d.nextId 0 []) mgmtRing pumpMax :=
  (Dev.start_of_mayStart h rfl).trans (congrArg (Dev.pump · mgmtRing pumpMax) rfl)

theorem teardownDone_of_unfinished {c : Nat} {d : Dev}
    (h : (d.teardowns.any (fun t => t.ctx == c && t.step4) && d.resolved c) = false) : teardownDone c d = d := by
  unfold teardownDone
  exact if_neg fun hf => absurd (h.symm.trans (Bool.and_eq_true_iff.mpr hf)) (by decide)

/-- A teardown that has finished is no more, and is counted (R339, R451). -/
theorem teardownDone_of_finished {c : Nat} {d : Dev}
    (h : (d.teardowns.any (fun t => t.ctx == c && t.step4) && d.resolved c) = true) :
    ((teardownDone c d).teardowns.all fun y => y.ctx != c) = true ∧
    (teardownDone c d).ctr 0x6050 c 12 = min (d.ctr 0x6050 c 12 + 1) (2 ^ 48 - 1) := by
  unfold teardownDone
  rw [if_pos (Bool.and_eq_true_iff.mp h)]
  extract_lets s1 eng s2
  have h1 : s1.counters = d.counters := each_keeps Dev.counters (fun _ _ => by rfl) _ d
  clear_value s1
  obtain ⟨_, hevent⟩ := (s2.bumpCtx c 12).ctxEvent_frame c 0x02 []
  rw [hevent]
  refine ⟨?_, ?_⟩
  · show (s1.teardowns.filter fun t => t.ctx != c).all _ = true
    exact List.all_eq_true.mpr fun t ht => (List.mem_filter.mp ht).2
  · refine (s2.ctr_bump 0x6050 c 12 1).trans ?_
    have hctr : s2.ctr 0x6050 c 12 = d.ctr 0x6050 c 12 := congrArg (fun t : Tab Nat => t.get (ctrKey 0x6050 c 12)) h1
    rw [hctr]

theorem bits_zero_le_one (v : Nat) : bits v 0 0 ≤ 1 := Nat.le_of_lt_succ (Nat.mod_lt _ (by decide))

theorem find?_range_spec {p : Nat → Bool} {n r : Nat} (h : (List.range n).find? p = some r) : r < n :=
  List.mem_range.mp (List.mem_of_find?_eq_some h)

/-- Settles O45: each command by its start; a bind and an unbind by what they leave of contexts, rings and Lots. -/
theorem contextsMoveThroughTheirStates : Obligations.ContextsMoveThroughTheirStates := by
  intro e rest s d on g c x completes
  have hpump : ∀ {t t' : Dev}, t = t' → t.pump mgmtRing pumpMax = t'.pump mgmtRing pumpMax := fun h => congrArg (Dev.pump · _ _) h
  refine ⟨fun h => ?define, fun h => ?bind, fun h => ?unbind, fun h => ?ack, fun c hc => ?torn⟩
  case define =>
    have hgo := ctxDefine_of_mayStart h
    have hexec : ∀ {t}, ctxDefine d = t → exec .ctxDefine s = on t := fun ht => exec_of_act (f := ctxDefine) rfl ht
    intro a b
    have hfree : x.seated = false → ¬ x.seated = true := fun hs hs' => absurd (hs.symm.trans hs') (by decide)
    refine ⟨fun hs => hexec (hgo.trans (hpump (if_pos hs))), fun hs hbad => hexec (hgo.trans (hpump ?_)),
      fun hs hlen hok => hexec (hgo.trans (hpump ?_))⟩
    · exact (if_neg (hfree hs)).trans (if_pos (hbad.imp id fun h => by rw [h]; rfl))
    · exact (if_neg (hfree hs)).trans (if_neg (not_or.mpr ⟨Nat.not_lt.mpr hlen, by rw [hok]; decide⟩))
  case bind =>
    have hgo := ctxBind_of_mayStart h
    dsimp only at hgo
    rw [Dev.find_started, Dev.bindReason_started] at hgo
    have hexec : ∀ {t}, ctxBind d = t → exec .ctxBind s = on t := fun ht => exec_of_act (f := ctxBind) rfl ht
    intro k seat
    refine ⟨fun hwhy => hexec (hgo.trans (hpump (if_pos hwhy))), fun hwhy r hr => ?_, fun hwhy hnone => hexec (hgo.trans (hpump ?_))⟩
    · have hbound : ctxBind d = ((g.bound c k seat r).done mgmtRing d.nextId 0 [(32, 1, r)]).pump mgmtRing pumpMax := by
        refine hgo.trans (hpump ((if_neg (not_not.mpr hwhy)).trans ?_))
        rw [hr]
      obtain ⟨rings, hdone, hrings⟩ := (g.bound c k seat r).done_pump_spec mgmtRing mgmtRing d.nextId 0 pumpMax [(32, 1, r)]
      obtain ⟨hctx, hring, hseat, hfirst, hsecond⟩ := g.bound_spec c k r (bits_zero_le_one (byte e.entry 11))
      have hne : r ≠ mgmtRing := Nat.ne_of_lt (find?_range_spec hr)
      exact ⟨_, hexec (hbound.trans hdone), hctx, (hrings r hne hne).trans hring, hseat, hfirst, hsecond⟩
    · refine (if_neg (not_not.mpr hwhy)).trans ?_
      rw [hnone]
  case unbind =>
    have hgo := ctxUnbind_of_mayStart h
    have hexec : ∀ {t}, ctxUnbind d = t → exec .ctxUnbind s = on t := fun ht => exec_of_act (f := ctxUnbind) rfl ht
    have hseated : x.seated = true → ¬ (!(d.ctx c).seated) = true := fun hs => by
      show ¬ (!x.seated) = true
      rw [hs]
      decide
    refine ⟨fun hs => hexec (hgo.trans (hpump (if_pos (by show (!x.seated) = true; rw [hs]; rfl)))),
      fun hs hbusy => hexec (hgo.trans (hpump ((if_neg (hseated hs)).trans (if_pos hbusy)))), fun hs hring hbusy => ?_⟩
    have hunbound : ctxUnbind d = ((g.unbound c).done mgmtRing d.nextId 0 []).pump mgmtRing pumpMax :=
      hgo.trans (hpump ((if_neg (hseated hs)).trans (if_neg fun hb => absurd (hbusy.symm.trans hb) (by decide))))
    obtain ⟨rings, hdone, hrings⟩ := (g.unbound c).done_pump_spec mgmtRing mgmtRing d.nextId 0 pumpMax []
    obtain ⟨hctx, hempty, hseat, hfront, hback⟩ := g.unbound_spec c
    exact ⟨_, hexec (hunbound.trans hdone), hctx, (hrings x.ring hring hring).trans hempty, hseat, hfront, hback⟩
  case ack =>
    have hgo := faultAck_of_mayStart h
    have hexec : ∀ {t}, faultAck d = t → exec .faultAck s = on t := fun ht => exec_of_act (f := faultAck) rfl ht
    intro torn
    refine ⟨fun hs => hexec (hgo.trans (hpump (if_pos hs))), fun hs ht => hexec (hgo.trans (hpump ?_)),
      fun hs ht => hexec (hgo.trans (hpump ?_))⟩
    · exact (if_neg (not_not.mpr hs)).trans (if_pos ht)
    · exact (if_neg (not_not.mpr hs)).trans (if_neg fun hb => absurd (ht.symm.trans hb) (by decide))
  case torn =>
    intro finished
    have hexec : ∀ {t}, teardownDone c d = t → exec (.teardownDone c) s = on t := fun ht =>
      exec_of_actOn (f := teardownDone c) rfl (decide_eq_true hc) ht
    exact ⟨fun hf => (hexec (teardownDone_of_unfinished hf)).trans rfl, fun hf => ⟨_, hexec rfl, teardownDone_of_finished hf⟩⟩

end Sys2Proof.Machine

/-! ## Shelves load (R351 to R355) -/
namespace Sys2Proof.Machine
open Sys2Proof

/-! ### The loader reads an image (R237, R248) -/

/-- Reading lines counts them, and changes nothing else. -/
theorem Dev.readLines_frame (s : Dev) (off n : Nat) :
    ∃ counters bumped, s.readLines off n = { s with counters := counters, bumped := bumped } := by
  unfold Dev.readLines
  generalize linesOf off n = l
  refine foldl_keeps_of (P := fun t => ∃ counters bumped, t = { s with counters := counters, bumped := bumped })
    (fun t i ht => ?_) l ⟨s.counters, s.bumped, rfl⟩
  obtain ⟨counters, bumped, rfl⟩ := ht
  beta_reduce
  unfold Dev.iff
  dsimp only
  split
  · exact ⟨_, _, rfl⟩
  · exact ⟨_, _, rfl⟩

/-- The header bytes of an image, and the loader once it has read them. -/
def Dev.headRead (d : Dev) (off len : Nat) : Dev := if jobEnd < off + len then d else d.readLines off (min len 128)

theorem Dev.headRead_frame (d : Dev) (off len : Nat) :
    ∃ counters bumped, d.headRead off len = { d with counters := counters, bumped := bumped } := by
  unfold Dev.headRead
  split
  · exact ⟨_, _, rfl⟩
  · exact d.readLines_frame _ _

theorem Dev.memAt_readLines (s : Dev) (off n a m : Nat) : (s.readLines off n).memAt a m = s.memAt a m := by
  obtain ⟨_, _, h⟩ := s.readLines_frame off n
  rewrite [h]
  rfl

/-- What the loader does with an image whose header passes and whose back shelf is the context's to load (R351 steps 11 to 16). -/
def Dev.loadBody (b : Dev) (r id k c off : Nat) (h : IHdr) (wasEmpty : Bool) : Dev :=
  let bs := b.memAt off h.total
  match if b.poisonIn off h.total then some 0x0B else trailCheck b h bs with
  | some st => b.loadEnds k r id st 0 h.imageid
  | none => match bodyCheck b (readImg b k c bs) wasEmpty with
    | some (st, rel, o) => b.loadEnds k r id st (detailWord rel o) h.imageid
    | none => { b with loading := some (r, id) }.loadBack (readImg b k c bs)

theorem Dev.loadImage_eq {s : Dev} {r id c : Nat} {e : Bytes} (hctx : s.ringCtx r = some c) : s.loadImage r id e =
    let k := (s.ctx c).lot
    let off := fld e 8 8
    let len := fld e 16 4
    let h := ihdr (if s.poisonIn off 128 then [] else s.memAt off (min len 128))
    let g := s.headRead off len
    match headCheck (s.lot k) off len h with
    | some st => g.loadEnds k r id st 0 (if st = 1 then 0 else h.imageid)
    | none =>
      if !s.ownsBack k c then g.loadEnds k r id 0x09 0 h.imageid
      else if (s.ring r).loadBusy id then g.loadEnds k r id 0x0A 0 h.imageid
      else ((g.loseBack k).readLines off h.total).loadBody r id k c off h ((s.lot k).bstate == .empty) := by
  have hframe := s.headRead_frame (fld e 8 8) (fld e 16 4)
  unfold Dev.loadImage
  rewrite [hctx]
  extract_lets off len hb h g k h' g'
  have hown : g'.ownsBack k c = s.ownsBack k c ∧ g'.ring r = s.ring r := by
    obtain ⟨_, _, hread⟩ := hframe
    rw [show g' = _ from hread]
    exact ⟨rfl, rfl⟩
  have hg : g = g' := rfl
  have hh : h = h' := rfl
  clear_value g' h' g h
  subst hg hh
  dsimp only
  rewrite [← hown.1, ← hown.2]
  change (match headCheck (s.lot k) off len h with
    | some st => _
    | none => _) = _
  cases headCheck (s.lot k) off len h with
  | some st => rfl
  | none =>
    refine if_congr Iff.rfl rfl (if_congr Iff.rfl rfl ?_)
    unfold Dev.loadBody
    rewrite [Dev.memAt_readLines]
    rfl

theorem shelfLoadStart_of_idle {d : Dev} (h : d.loading.isSome = true ∨ d.loadQ = []) : shelfLoadStart d = d := by
  unfold shelfLoadStart
  rcases h with h | h
  · obtain ⟨x, hx⟩ := Option.isSome_iff_exists.mp h
    rewrite [hx]
    rfl
  · rewrite [h]
    cases d.loading with
    | none => rfl
    | some x => rfl

theorem shelfLoadStart_of_next {d : Dev} {r id : Nat} {q : RunCmd} {later : List (Nat × Nat)} (hfree : d.loading = none)
    (hnext : d.loadQ = (r, id) :: later) (hcmd : (d.ring r).cmd id = some q) :
    shelfLoadStart d = { d with loadQ := later }.loadImage r id q.entry := by
  unfold shelfLoadStart
  rewrite [hfree, hnext]
  dsimp only
  change (match (d.ring r).cmd id with
    | none => _
    | some c => _) = _
  rewrite [hcmd]
  rfl

/-! ### A load that its wakes have followed (R355) -/

/-- The preload descriptors of a block in a back shelf. -/
def Lot.preloads (l : Lot) (b : Nat) : List Nat :=
  (l.back.blocks.get b).transfers.zipIdx.filterMap fun p => if (xferD p.1).trig = 3 then some p.2 else none

/-- The preloads of a block fire. -/
def Dev.firePreloads (l : Lot) (b : Nat) (s : Dev) : Dev :=
  s.iff (!(l.preloads b).isEmpty && (s.block b).island != .off) fun s => (s.rouse b).modXfer b fun x => { x with preWait := l.preloads b }

theorem shelfLoaded_of_waiting {d : Dev} {r id k : Nat} (h : d.loading = none ∨
    (d.loading = some (r, id) ∧ d.ringLot r = some k ∧ ((d.lot k).bstate ≠ .loading ∨ d.loadWoken (d.lot k) = false))) :
    shelfLoaded d = d := by
  unfold shelfLoaded
  rcases h with h | ⟨hload, hlot, hno⟩
  · rewrite [h]
    rfl
  · rewrite [hload]
    dsimp only
    rewrite [hlot]
    refine if_neg fun hyes => ?_
    rcases hno with hno | hno
    · exact hno hyes.1
    · exact absurd (hno.symm.trans hyes.2) (by decide)

theorem shelfLoaded_of_woken {d : Dev} {r id k : Nat} (hload : d.loading = some (r, id)) (hlot : d.ringLot r = some k)
    (hstate : (d.lot k).bstate = .loading) (hwoken : d.loadWoken (d.lot k) = true) : shelfLoaded d =
      each (d.lot k).rect (Dev.firePreloads (d.lot k)) ({ d with loading := none }.modLot k fun l => { l with bstate := .loaded }) := by
  unfold shelfLoaded
  rewrite [hload]
  dsimp only
  rewrite [hlot]
  dsimp only
  rewrite [if_pos ⟨hstate, hwoken⟩]
  generalize (d.lot k).rect = l
  rfl

theorem Dev.seats_firePreloads (l : Lot) (b : Nat) (s : Dev) : (Dev.firePreloads l b s).lots = s.lots ∧
    (Dev.firePreloads l b s).loading = s.loading := by
  have hrouse : (s.rouse b).lots = s.lots ∧ (s.rouse b).loading = s.loading :=
    ⟨iff_keeps Dev.lots (fun _ => by rfl) _ s, iff_keeps Dev.loading (fun _ => by rfl) _ s⟩
  unfold Dev.firePreloads Dev.iff
  split
  · exact hrouse
  · exact ⟨rfl, rfl⟩

/-- Where a block stands once its preloads have fired, in a shelf that has some. -/
def Block.fired (l : Lot) (b : Nat) (x : Block) : Prop := x.island ≠ .off ∧ x.xfer.preWait = l.preloads b

theorem Dev.block_firePreloads {l : Lot} {b : Nat} {s : Dev} (hne : l.preloads b ≠ []) (hon : (s.block b).island ≠ .off) :
    ((Dev.firePreloads l b s).block b).fired l b := by
  have hcond : (!(l.preloads b).isEmpty && (s.block b).island != .off) = true := by
    rw [Bool.and_eq_true_iff, Bool.not_eq_true', bne_iff_ne, List.isEmpty_eq_false_iff]
    exact ⟨hne, hon⟩
  unfold Dev.firePreloads Dev.iff
  rw [if_pos hcond]
  beta_reduce
  rw [Dev.modXfer, Dev.block_modBlock, Dev.block_rouse]
  refine ⟨?_, rfl⟩
  split
  · exact fun h => absurd h (by unfold Block.roused; exact Island.noConfusion)
  · exact hon

theorem Dev.block_firePreloads_other {l : Lot} {b c : Nat} (s : Dev) (h : c ≠ b) : (Dev.firePreloads l b s).block c = s.block c := by
  unfold Dev.firePreloads Dev.iff
  split
  · beta_reduce
    rw [Dev.modXfer, Dev.block_modBlock_other _ _ _ _ h, Dev.block_rouse, if_neg fun hb => h hb.2.symm]
  · rfl

theorem Dev.block_firePreloads_all {l : Lot} {b : Nat} (hne : l.preloads b ≠ []) {bs : List Nat} {s : Dev}
    (hon : (s.block b).island ≠ .off) (h : b ∈ bs ∨ (s.block b).fired l b) :
    ((each bs (Dev.firePreloads l) s).block b).fired l b := by
  induction bs generalizing s with
  | nil => exact h.resolve_left List.not_mem_nil
  | cons c bs ih =>
    rw [each_cons]
    by_cases hc : b = c
    · have hfired := Dev.block_firePreloads hne hon
      rw [← hc]
      exact ih hfired.1 (.inr hfired)
    · have hsame := Dev.block_firePreloads_other (l := l) s hc
      refine ih (by rw [hsame]; exact hon) ?_
      rw [hsame]
      exact h.imp (fun hm => (List.mem_cons.mp hm).resolve_left hc) id

/-! ### Preloads complete (R355) -/

/-- Whether a Lot has preloads that are not over. -/
def Dev.preloadsLeft (d : Dev) (l : Lot) : Bool := l.rect.any fun b =>
  !(d.block b).xfer.preWait.isEmpty || (d.block b).xfer.bulkQ.any fun i => i.preload

theorem preloadComplete_of_waiting {d : Dev} {k : Nat} (h : (d.lot k).bstate ≠ .loaded ∨ d.preloadsLeft (d.lot k) = true) :
    preloadComplete k d = d := by
  unfold Dev.preloadsLeft at h
  unfold preloadComplete
  refine if_neg fun hyes => ?_
  rcases h with h | h
  · exact h hyes.1
  · have hleft := hyes.2
    dsimp only at hleft
    rw [h] at hleft
    exact absurd hleft (by decide)

theorem preloadComplete_of_over {d : Dev} {k : Nat} (hstate : (d.lot k).bstate = .loaded) (h : d.preloadsLeft (d.lot k) = false) :
    preloadComplete k d =
      let g := d.modLot k fun l => { l with bstate := .ready }
      match d.runningOp (d.ctx (d.lot k).back.ctx).ring 0x10 with
      | some c => g.done (d.ctx (d.lot k).back.ctx).ring c.id 0 [(32, 4, 0), (40, 8, (d.lot k).back.imageId)]
      | none => g := by
  unfold Dev.preloadsLeft at h
  unfold preloadComplete
  refine (if_pos ⟨hstate, ?_⟩).trans rfl
  dsimp only
  rewrite [h]
  rfl

/-- Settles O46: the loader step by step, and the preloads by an induction over the blocks of the Lot. -/
theorem shelvesLoad : Obligations.ShelvesLoad := by
  intro r id c k e q rest later s hr d on
  have hstart : ∀ {t}, shelfLoadStart d = t → exec .shelfLoadStart s = on t := fun ht => exec_of_act (f := shelfLoadStart) rfl ht
  have hloaded : ∀ {t}, shelfLoaded d = t → exec .shelfLoaded s = on t := fun ht => exec_of_act (f := shelfLoaded) rfl ht
  refine ⟨fun h => ?command, fun h => (hstart (shelfLoadStart_of_idle h)).trans rfl,
    fun hfree hnext hcmd hctx hlot => ?image, fun h => (hloaded (shelfLoaded_of_waiting h)).trans rfl,
    fun hload hring hstate hwoken => ?loaded, fun hk => ?preloads⟩
  case command =>
    exact exec_of_actOn (f := loadShelf r) rfl (decide_eq_true hr) (Dev.start_of_mayStart h rfl)
  case image =>
    intro off len h g g' head ends b bs trail body
    have hgo : shelfLoadStart d = match head with
        | some st => g'.loadEnds k r id st 0 (if st = 1 then 0 else h.imageid)
        | none =>
          if !d.ownsBack k c then g'.loadEnds k r id 0x09 0 h.imageid
          else if (d.ring r).loadBusy id then g'.loadEnds k r id 0x0A 0 h.imageid
          else b.loadBody r id k c off h ((d.lot k).bstate == .empty) := by
      have himage := (shelfLoadStart_of_next hfree hnext hcmd).trans (Dev.loadImage_eq (s := g) (r := r) (c := c) hctx)
      rw [show (g.ctx c).lot = k from hlot] at himage
      exact himage
    refine ⟨fun st hhead => hstart (hgo.trans ?_), fun hhead hown => hstart (hgo.trans ?_),
      fun hhead hown hbusy => hstart (hgo.trans ?_), fun hhead hown hbusy => ?_⟩
    · rewrite [hhead]
      rfl
    · rw [hhead]
      exact (if_pos (by rw [hown]; rfl)).trans rfl
    · rw [hhead]
      exact (if_neg (by rw [hown]; decide)).trans ((if_pos hbusy).trans rfl)
    · have hbody : shelfLoadStart d = match trail with
          | some st => b.loadEnds k r id st 0 h.imageid
          | none => match body with
            | some (st, rel, o) => b.loadEnds k r id st (detailWord rel o) h.imageid
            | none => { b with loading := some (r, id) }.loadBack (readImg b k c bs) := by
        rw [hhead] at hgo
        exact hgo.trans ((if_neg (by rw [hown]; decide)).trans ((if_neg (by rw [hbusy]; decide)).trans rfl))
      refine ⟨fun st ht => hstart (hbody.trans (by rw [ht]; rfl)), fun st rel o ht hb => hstart (hbody.trans (by rw [ht, hb]; rfl)),
        fun ht hb => hstart (hbody.trans (by rw [ht, hb]))⟩
  case loaded =>
    have hrun := shelfLoaded_of_woken hload hring hstate hwoken
    refine ⟨_, hloaded hrun, ?_, ?_, fun b hb hon => ?_⟩
    · exact each_keeps Dev.loading (fun b s => (Dev.seats_firePreloads (d.lot k) b s).2) _ _
    · refine (congrArg (fun t : Tab Lot => t.get k) (each_keeps Dev.lots (fun b s => (Dev.seats_firePreloads (d.lot k) b s).1) _ _)).trans ?_
      exact Dev.lot_modLot _ k _
    · intro ds hne
      exact (Dev.block_firePreloads_all (s := { d with loading := none }.modLot k fun l => { l with bstate := .loaded }) hne hon
        (.inl hb)).2
  case preloads =>
    intro left ring
    have hexec : ∀ {t}, preloadComplete k d = t → exec (.preloadComplete k) s = on t := fun ht =>
      exec_of_actOn (f := preloadComplete k) rfl (decide_eq_true hk) ht
    refine ⟨fun h => (hexec (preloadComplete_of_waiting h)).trans rfl, fun hstate hleft => ?_⟩
    intro g
    have hgo := preloadComplete_of_over hstate hleft
    exact ⟨fun hnone => hexec (hgo.trans (by rw [show d.runningOp _ _ = none from hnone])),
      fun hq => hexec (hgo.trans (by rw [show d.runningOp _ _ = some q from hq]))⟩

end Sys2Proof.Machine

/-! ## Swaps, laid runs and beats (R207, R209, R322, R329, R357, R358) -/
namespace Sys2Proof.Machine
open Sys2Proof

/-! ### SWAP_SHELF (R357, R358) -/

theorem Dev.swapReq_of_mayOccupy {d : Dev} {c : Nat} {e : Bytes} (h : d.mayOccupy c e = true) :
    (d.lot (d.ctx c).lot).swapReq.isNone = true := by
  unfold Dev.mayOccupy at h
  simp only [Bool.and_eq_true] at h
  exact h.1.1.2

section SwapCommand
variable {d : Dev} {r c k : Nat} {e : Cmd} {rest : List Cmd}

/-- Whether a Lot has nothing to swap, and no load on its way. -/
def Dev.nothingLoaded (d : Dev) (r k : Nat) : Bool :=
  (d.lot k).bstate == .empty && !(d.ring r).running.any fun x => opcodeOf x.entry == 0x10

/-- Whether a command of the cyclic class exceeds every window. -/
def Dev.overWindow (d : Dev) (c k : Nat) (e : Bytes) : Bool := (d.ctx c).cyclic && d.tooLong (d.lot k) c e

/-- Whether a swap may start. -/
def Dev.swapFits (d : Dev) (c k : Nat) (e : Bytes) : Bool := (d.lot k).bstate == .ready && d.mayOccupy c e

/-- What SWAP_SHELF does once it has started. -/
def Dev.swapOrder (d g : Dev) (r c k scope : Nat) (e : Bytes) : Dev :=
  if d.nothingLoaded r k then g.done r d.nextId 0x30 []
  else if d.overWindow c k e then g.done r d.nextId 0x45 []
  else if (d.lot k).back.partialPitch.isSome ≠ (scope == 1) then g.done r d.nextId 0x30 []
  else g.askSwap k { pitch := if scope = 1 then (d.lot k).back.partialPitch else none, cmd := some d.nextId, start := d.now, ctx := some c }

/-- The condition under which SWAP_SHELF of a scope starts. -/
theorem Dev.swapReady_eq (hlot : (d.ctx c).lot = k) (e : Bytes) :
    (d.nothingLoaded r k || d.overWindow c k e || ((d.lot k).backReady && d.mayOccupy c e && (d.lot k).swapReq.isNone)) =
      (d.nothingLoaded r k || d.overWindow c k e || d.swapFits c k e) := by
  unfold Dev.swapFits Lot.backReady
  cases hmay : d.mayOccupy c e with
  | false => rw [Bool.and_false, Bool.false_and]
  | true =>
    have hreq := Dev.swapReq_of_mayOccupy hmay
    rw [hlot] at hreq
    rw [hreq, Bool.and_true]

variable (hctx : d.ringCtx r = some c) (hlot : (d.ctx c).lot = k) (hmay : d.mayStart r 0x11 e rest)
include hctx hlot hmay

theorem swapCommand_of_started {scope : Nat} (hscope : bits (byte e.entry 8) 0 0 = scope)
    (hready : (d.nothingLoaded r k || d.overWindow c k e.entry || d.swapFits c k e.entry) = true) :
    swapCommand r scope d = (d.swapOrder (d.started r e rest) r c k scope e.entry).pump r pumpMax := by
  have hfetched : (d.ring r).fetched = e :: rest := hmay.2.2.1
  rw [← Dev.swapReady_eq hlot] at hready
  unfold swapCommand
  rewrite [hctx]
  dsimp only
  rewrite [hlot, hfetched]
  refine (Dev.start_of_mayStart hmay ?_).trans rfl
  rw [Bool.and_eq_true_iff, beq_iff_eq]
  exact ⟨hscope, hready⟩

theorem swapCommand_of_held {scope : Nat} (h : bits (byte e.entry 8) 0 0 ≠ scope ∨
    (d.nothingLoaded r k || d.overWindow c k e.entry || d.swapFits c k e.entry) = false) : swapCommand r scope d = d := by
  have hfetched : (d.ring r).fetched = e :: rest := hmay.2.2.1
  rw [← Dev.swapReady_eq hlot] at h
  unfold swapCommand
  rewrite [hctx]
  dsimp only
  rewrite [hlot, hfetched]
  refine Dev.start_of_unready hmay ?_
  rw [Bool.and_eq_false_iff, beq_eq_false_iff_ne]
  exact h

end SwapCommand

/-! ### A swap takes effect (R357, R358) -/

theorem shelfSwap_of_none {d : Dev} {k : Nat} (h : (d.lot k).swapReq = none) : shelfSwap k d = d := by
  unfold shelfSwap
  dsimp only
  rewrite [h]
  rfl

theorem shelfSwap_of_asked {d : Dev} {k : Nat} {q : SwapReq} (h : (d.lot k).swapReq = some q) : shelfSwap k d =
    if !d.lit ∨ !d.swapTurn (d.lot k) q.start ∨ (d.lot k).bstate ≠ .ready then d
    else
      let s := match q.pitch with
        | some p => (if d.mayBeat (d.lot k) then d.creditBeat k else d).swapPitch k p
        | none => d.swapLot k
      match q.cmd, q.ctx with
      | some id, some c => (s.done (s.ctx c).ring id 0 [(32, 8, s.time), (40, 4, (s.lot k).swaps)]).endOverrun k c 0x11
      | _, _ => s := by
  unfold shelfSwap
  dsimp only
  rewrite [h]
  rfl

theorem demandSwap_of_none {d : Dev} {k : Nat} (h : (d.lot k).other = none) : demandSwap k d = d := by
  unfold demandSwap
  dsimp only
  rewrite [h]
  rfl

/-- Whether the front context lets the back one have the Lot (R329). -/
def Dev.frontLets (d : Dev) (l : Lot) : Prop :=
  ∀ f, l.owner = some f → (d.ctx f).state = .bound → d.occFlight f = false ∧ (d.occReady f = false ∨ d.quantumUp l = true)

theorem demandSwap_of_other {d : Dev} {k o : Nat} (h : (d.lot k).other = some o) : let l := d.lot k
    let may := d.lit = true ∧ (d.ctx o).cyclic = false ∧ d.occReady o = true ∧ l.bstate = .ready ∧ l.back.ctx = o ∧
      l.swapReq = none ∧ d.swapTurn l d.now = true ∧ d.frontLets l
    (may → demandSwap k d = (d.swapLot k).bump 0x6040 k 3) ∧ (¬ may → demandSwap k d = d) := by
  intro l may
  have hlets : (match l.owner with
      | none => true
      | some f => (d.ctx f).state != .bound || (!d.occFlight f && (!d.occReady f || d.quantumUp l))) = true ↔ d.frontLets l := by
    unfold Dev.frontLets
    cases l.owner with
    | none => exact iff_of_true rfl fun f hf => absurd hf (by simp)
    | some f =>
      simp only [Option.some.injEq, Bool.or_eq_true, bne_iff_ne, Bool.and_eq_true, Bool.not_eq_true']
      constructor
      · rintro h f rfl hb
        exact h.resolve_left fun hne => hne hb
      · intro h
        by_cases hb : (d.ctx f).state = .bound
        · exact .inr (h f rfl hb)
        · exact .inl hb
  have hgo : demandSwap k d = if d.lit ∧ !(d.ctx o).cyclic ∧ d.occReady o ∧ l.backReady ∧ l.back.ctx = o ∧ l.swapReq.isNone ∧
      (match l.owner with
        | none => true
        | some f => (d.ctx f).state != .bound || (!d.occFlight f && (!d.occReady f || d.quantumUp l))) = true ∧
      d.swapTurn l d.now then (d.swapLot k).bump 0x6040 k 3 else d := by
    unfold demandSwap
    dsimp only
    rewrite [h]
    rfl
  have hiff : (d.lit ∧ !(d.ctx o).cyclic ∧ d.occReady o ∧ l.backReady ∧ l.back.ctx = o ∧ l.swapReq.isNone ∧
      (match l.owner with
        | none => true
        | some f => (d.ctx f).state != .bound || (!d.occFlight f && (!d.occReady f || d.quantumUp l))) = true ∧
      d.swapTurn l d.now) ↔ may := by
    rw [hlets, Bool.not_eq_true', Lot.backReady, beq_iff_eq, Option.isNone_iff_eq_none]
    constructor
    · rintro ⟨h1, h2, h3, h4, h5, h6, h7, h8⟩
      exact ⟨h1, h2, h3, h4, h5, h6, h8, h7⟩
    · rintro ⟨h1, h2, h3, h4, h5, h6, h8, h7⟩
      exact ⟨h1, h2, h3, h4, h5, h6, h7, h8⟩
  exact ⟨fun hm => hgo.trans (if_pos (hiff.mpr hm)), fun hm => hgo.trans (if_neg fun hp => hm (hiff.mp hp))⟩

/-- Settles O47: the command by what lets it start, the swaps by their turn. -/
theorem shelvesSwap : Obligations.ShelvesSwap := by
  intro r c k scope e rest s hr hk d on l g
  have hswap : ∀ {t}, shelfSwap k d = t → exec (.shelfSwap k) s = on t := fun ht =>
    exec_of_actOn (f := shelfSwap k) rfl (decide_eq_true hk) ht
  have hdemand : ∀ {t}, demandSwap k d = t → exec (.demandSwap k) s = on t := fun ht =>
    exec_of_actOn (f := demandSwap k) rfl (decide_eq_true hk) ht
  refine ⟨fun hctx hlot hmay hscope => ?command, fun hnone => (hswap (shelfSwap_of_none hnone)).trans rfl, fun q hq => ?swaps,
    fun hnone => (hdemand (demandSwap_of_none hnone)).trans rfl, fun o ho => ?demand⟩
  case command =>
    have hcommand : ∀ i ∈ [(Instr.swapShelf r, 0), (.swapShelfPitchScope r, 1)], ∀ {t}, swapCommand r i.2 d = t →
        exec i.1 s = on t := by
      simp only [List.forall_mem_cons, List.not_mem_nil, false_implies, implies_true, and_true]
      exact ⟨fun ht => exec_of_actOn (f := swapShelf r) rfl (decide_eq_true hr) ht,
        fun ht => exec_of_actOn (f := swapShelfPitchScope r) rfl (decide_eq_true hr) ht⟩
    intro i hi empty long fits
    refine ⟨fun hheld => (hcommand i hi (swapCommand_of_held hctx hlot hmay ?_)).trans rfl, ?_⟩
    · refine hheld.imp (fun hne heq => hne (heq.symm.trans hscope)) fun ⟨h1, h2, h3⟩ => ?_
      show (empty || long || fits) = false
      rewrite [h1, h2, h3]
      rfl
    · rintro rfl
      have hrun : (empty || long || fits) = true → swapCommand r i.2 d = (d.swapOrder g r c k i.2 e.entry).pump r pumpMax :=
        swapCommand_of_started hctx hlot hmay hscope
      have hpump : ∀ {t t' : Dev}, t = t' → t.pump r pumpMax = t'.pump r pumpMax := fun h => congrArg (Dev.pump · _ _) h
      refine ⟨fun h1 => hcommand i hi ((hrun (by rw [h1]; rfl)).trans (hpump (if_pos h1))), fun h1 h2 => hcommand i hi
        ((hrun (by rw [h1, h2]; rfl)).trans (hpump ?_)), fun h1 h2 h3 => ⟨fun hbad => hcommand i hi
        ((hrun (by rw [h1, h2, h3]; rfl)).trans (hpump ?_)), fun hok => hcommand i hi
        ((hrun (by rw [h1, h2, h3]; rfl)).trans (hpump ?_))⟩⟩
      · exact (if_neg fun h => absurd (h1.symm.trans h) (by decide)).trans (if_pos h2)
      · exact (if_neg fun h => absurd (h1.symm.trans h) (by decide)).trans
          ((if_neg fun h => absurd (h2.symm.trans h) (by decide)).trans (if_pos hbad))
      · refine (if_neg fun h => absurd (h1.symm.trans h) (by decide)).trans
          ((if_neg fun h => absurd (h2.symm.trans h) (by decide)).trans ((if_neg (not_not.mpr hok)).trans ?_))
        have hpitch : (if i.2 = 1 then (d.lot k).back.partialPitch else none) = l.back.partialPitch := by
          by_cases h : i.2 = 1
          · exact if_pos h
          · rw [if_neg h]
            rw [beq_eq_false_iff_ne.mpr h] at hok
            exact (Option.not_isSome_iff_eq_none.mp (by rw [hok]; decide)).symm
        rw [hpitch]
  case swaps =>
    have hgo := shelfSwap_of_asked hq
    refine ⟨fun hno => (hswap (hgo.trans (if_pos ?_))).trans rfl, fun hlit hturn hback => ?_⟩
    · exact hno.imp (fun h => by rw [h]; rfl) fun h => h.imp (fun h => by rw [h]; rfl) id
    · intro h
      have hyes := hgo.trans (if_neg (not_or.mpr ⟨by rw [hlit]; decide, not_or.mpr ⟨by rw [hturn]; decide, not_not.mpr hback⟩⟩))
      have hrun : shelfSwap k d = match q.cmd, q.ctx with
          | some id, some c => (h.done (h.ctx c).ring id 0 [(32, 8, h.time), (40, 4, (h.lot k).swaps)]).endOverrun k c 0x11
          | _, _ => h := hyes
      refine ⟨fun hnone => hswap (hrun.trans ?_), fun id x hcmd hx => hswap (hrun.trans (by rw [hcmd, hx]))⟩
      rcases hnone with hnone | hnone
      · rw [hnone]
      · rw [hnone]
        cases q.cmd with
        | none => rfl
        | some id => rfl
  case demand =>
    obtain ⟨hyes, hno⟩ := demandSwap_of_other ho
    exact ⟨fun h => hdemand (hyes h), fun h => (hdemand (hno h)).trans rfl⟩

end Sys2Proof.Machine

/-! ## Laid runs and their beats (R207, R209, R322) -/
namespace Sys2Proof.Machine
open Sys2Proof

/-! ### LAUNCH of a laid run (R61, R322) -/

/-- The device once a laid run may take its credit: the flag words of a first run are zeroed, and the blocks asked for. -/
def Dev.runReady (g : Dev) (r c : Nat) (l : Lot) (e : Bytes) : Dev :=
  let h := g.modCtx c fun x => { x with step := fld e 16 7, lstep := fld e 16 7 }
  let runs := ((h.ring r).running.filter fun x => opcodeOf x.entry == 0x12 && !isTask x.entry).length
  let h := if runs ≤ 1 then each ((h.stalls.filter fun p => l.has (p.1 / 4)).map (·.1))
    (fun n h => h.modStall n fun x => { x with flags := 0 }) h else h
  let h := h.bump 0x6050 c 0
  if h.lotAwake l then h else h.askLot l 1 (some l.front.env)

/-- A Lot that has taken beats of credit. -/
def Lot.credited (x : Lot) (n at_ : Nat) : Lot := { x with credit := x.credit + n, beat := { x.beat with creditAt := at_ } }

theorem Dev.now_askLot (s : Dev) (l : Lot) (cls : Nat) (env : Option Envelope) : (s.askLot l cls env).now = s.now := by
  refine each_keeps Dev.now (fun b t => ?_) _ s
  unfold Dev.askIsland
  extract_lets x
  split
  · rfl
  · rfl

theorem Dev.now_runReady (g : Dev) (r c : Nat) (l : Lot) (e : Bytes) : (g.runReady r c l e).now = g.now := by
  unfold Dev.runReady
  extract_lets h1 runs h2 h3
  have h2now : h2.now = g.now := by
    have h1now : h1.now = g.now := g.setCtx_now ..
    refine Eq.trans ?_ h1now
    show (if runs ≤ 1 then _ else h1).now = _
    split
    · exact each_keeps Dev.now (fun _ _ => by rfl) _ h1
    · rfl
  have h3now : h3.now = g.now := h2now
  split
  · exact h3now
  · exact (h3.now_askLot ..).trans h3now

theorem Dev.iff_decide_le (s : Dev) (a b : Nat) (f : Dev → Dev) : s.iff (decide (a ≤ b)) f = if a ≤ b then f s else s := by
  unfold Dev.iff
  exact if_congr decide_eq_true_iff rfl rfl

theorem Dev.iff_not (s : Dev) (c : Bool) (f : Dev → Dev) : s.iff (!c) f = if c then s else f s := by
  cases c with
  | false => rfl
  | true => rfl

section Launch
variable {d : Dev} {r c k : Nat} {e : Cmd} {rest : List Cmd} (hctx : d.ringCtx r = some c) (hlot : (d.ctx c).lot = k)
  (hmay : d.mayStart r 0x12 e rest) (htask : isTask e.entry = false)
include hctx hlot hmay htask

theorem launchLaidRun_of_held (hlong : ((d.ctx c).cyclic && d.tooLong (d.lot k) c e.entry) = false)
    (hheld : (d.mayOccupy c e.entry && !d.lotTesting (d.lot k)) = false) : launchLaidRun r d = d := by
  unfold launchLaidRun
  rewrite [hctx]
  dsimp only
  rewrite [hlot]
  refine Dev.start_of_unready hmay ?_
  rewrite [hlong, hheld, htask]
  rfl

theorem launchLaidRun_of_started (hready : ((d.ctx c).cyclic && d.tooLong (d.lot k) c e.entry) = true ∨
    (d.mayOccupy c e.entry && !d.lotTesting (d.lot k)) = true) : launchLaidRun r d =
      Dev.pump (if (d.ctx c).cyclic && d.tooLong (d.lot k) c e.entry then (d.started r e rest).done r d.nextId 0x45 []
        else if (d.lot k).front.kind ≠ 1 then (d.started r e rest).done r d.nextId 0x44 []
        else ((d.started r e rest).runReady r c (d.lot k) e.entry).modLot k fun x => x.credited (fld e.entry 12 4) d.now) r pumpMax := by
  unfold launchLaidRun
  rewrite [hctx]
  dsimp only
  rewrite [hlot]
  refine (Dev.start_of_mayStart hmay ?_).trans (congrArg (Dev.pump · r pumpMax) ?_)
  · rw [htask, Bool.not_false, Bool.true_and, Bool.or_eq_true_iff]
    exact hready
  · refine if_congr Iff.rfl rfl (if_congr Iff.rfl rfl ?_)
    rewrite [Dev.iff_decide_le, Dev.iff_not]
    have hnow : ((d.started r e rest).runReady r c (d.lot k) e.entry).now = d.now := Dev.now_runReady ..
    rewrite [← hnow]
    rfl

end Launch

/-! ### A beat starts (R207, R322) -/

/-- A member at the start of a beat. -/
def Stall.beatOn (x : Stall) (now : Nat) : Stall := { x with ready := false, beatStart := now }

theorem Dev.stall_beatOn_all (l : List Nat) (s : Dev) (n : Nat) :
    (each l (fun n s => (s.rouse (n / 4)).modStall n fun x => { x with ready := false, beatStart := s.now }) s).stall n =
      if n ∈ l then (s.stall n).beatOn s.now else s.stall n := by
  induction l generalizing s with
  | nil => rfl
  | cons m l ih =>
    have hrouse : ∀ n, (s.rouse (m / 4)).stall n = s.stall n := fun n =>
      congrArg (fun t : Tab Stall => t.get n) (s.stalls_rouse (m / 4))
    have hnow : ((s.rouse (m / 4)).modStall m fun x => { x with ready := false, beatStart := s.now }).now = s.now := s.now_rouse (m / 4)
    rw [each_cons, ih, hnow]
    by_cases hm : n = m
    · have hstall : ((s.rouse (m / 4)).modStall m fun x => { x with ready := false, beatStart := s.now }).stall m =
          (s.stall m).beatOn s.now := by
        rewrite [Dev.stall_modStall, hrouse]
        rfl
      rw [hm, hstall, if_pos List.mem_cons_self]
      split
      · rfl
      · rfl
    · rw [Dev.stall_modStall_other _ _ _ _ hm, hrouse]
      exact if_congr (by rw [List.mem_cons, or_iff_right hm]) rfl rfl

/-- The Lot at the start of a beat, whose context has these timeouts. -/
def Lot.beatOn (x : Lot) (c : Ctx) (now : Nat) : Lot := { x with
  beat := { x.beat with
    num := (x.beat.num + 1) % 2 ^ 32, stretch := x.stretchNext, start := now, ssto := c.sstoCycles, lateth := c.latethOf } }

/-- What a beat that starts leaves of its Lot and its members. -/
theorem Dev.beginBeat_spec (s : Dev) (k : Nat) :
    (s.beginBeat k).lot k = (s.lot k).beatOn (s.ctx (s.lot k).front.ctx) s.now ∧
    ∀ n ∈ (s.lot k).members, ((s.beginBeat k).stall n).ready = false ∧ ((s.beginBeat k).stall n).beatStart = s.now ∧
      ((s.beginBeat k).stall n).pc = (s.stall n).pc := by
  unfold Dev.beginBeat
  extract_lets l c s1 s2 s3
  have hview : ∀ {t : Dev}, (t.lots, t.ctxs, t.now) = (s.lots, s.ctxs, s.now) →
      t.lot k = s.lot k ∧ t.ctx c = s.ctx c ∧ t.now = s.now := fun h => by
    obtain ⟨hlots, hrest⟩ := Prod.mk.inj h
    obtain ⟨hctxs, hnow⟩ := Prod.mk.inj hrest
    exact ⟨congrArg (fun x : Tab Lot => x.get k) hlots, congrArg (fun x : Tab Ctx => x.get c) hctxs, hnow⟩
  have h1 : (s1.lots, s1.ctxs, s1.now) = (s.lots, s.ctxs, s.now) :=
    iff_keeps (fun t => (t.lots, t.ctxs, t.now)) (fun _ => by rfl) _ s
  have hs1 : ∀ n, s1.stall n = s.stall n := fun n => iff_keeps (fun t => t.stall n) (fun _ => by rfl) _ s
  clear_value s1
  have h2 : (s2.lots, s2.ctxs, s2.now) = (s1.lots, s1.ctxs, s1.now) :=
    each_keeps (fun t => (t.lots, t.ctxs, t.now)) (f := fun n s =>
      (s.rouse (n / 4)).modStall n fun x => { x with ready := false, beatStart := s.now })
      (fun m t => Eq.trans (b := ((t.rouse (m / 4)).lots, (t.rouse (m / 4)).ctxs, (t.rouse (m / 4)).now)) rfl
        (iff_keeps (fun t => (t.lots, t.ctxs, t.now)) (fun _ => by rfl) _ t)) _ s1
  have hs2 : ∀ n ∈ l.members, s2.stall n = (s.stall n).beatOn s.now := fun n hn => by
    refine (Dev.stall_beatOn_all l.members s1 n).trans ((if_pos hn).trans ?_)
    rw [hs1, (hview h1).2.2]
  clear_value s2
  have h3 : (s3.lots, s3.ctxs, s3.now) = (s2.lots, s2.ctxs, s2.now) :=
    each_keeps (fun t => (t.lots, t.ctxs, t.now)) (fun _ t => iff_keeps (fun t => (t.lots, t.ctxs, t.now)) (fun _ => by rfl) _ t) _ s2
  have hs3 : ∀ n, ((s3.stall n).ready, (s3.stall n).beatStart, (s3.stall n).pc) =
      ((s2.stall n).ready, (s2.stall n).beatStart, (s2.stall n).pc) := fun n =>
    each_keeps (fun t => ((t.stall n).ready, (t.stall n).beatStart, (t.stall n).pc)) (fun m t =>
      iff_keeps (fun t => ((t.stall n).ready, (t.stall n).beatStart, (t.stall n).pc)) (fun t => by
        by_cases h : n = m
        · rw [h, Dev.stall_modStall]
        · rw [Dev.stall_modStall_other _ _ _ _ h]) _ t) _ s2
  clear_value s3
  obtain ⟨hlot, hctx, hnow⟩ := hview (h3.trans (h2.trans h1))
  refine ⟨?_, fun n hn => ?_⟩
  · rewrite [Dev.lot_modLot, hctx, hlot, hnow]
    rfl
  · obtain ⟨hready, hrest⟩ := Prod.mk.inj (hs3 n)
    obtain ⟨hstart, hpc⟩ := Prod.mk.inj hrest
    rw [hs2 n hn] at hready hstart hpc
    exact ⟨hready, hstart, hpc⟩

theorem beatStart_of_held {d : Dev} {k : Nat} (h : d.lit = false ∨ (d.lot k).swapReq.isSome = true ∨ d.mayBeat (d.lot k) = false) :
    beatStart k d = d := by
  have hno : (d.lit && (d.lot k).swapReq.isNone && d.mayBeat (d.lot k)) = false := by
    rcases h with h | h | h
    · rewrite [h]
      rfl
    · rw [← Option.not_isSome, h, Bool.not_true, Bool.and_false, Bool.false_and]
    · rw [h, Bool.and_false]
  unfold beatStart
  dsimp only
  rw [hno, Dev.iff_false]

theorem beatStart_of_due {d : Dev} {k : Nat} (hlit : d.lit = true) (hswap : (d.lot k).swapReq = none)
    (hmay : d.mayBeat (d.lot k) = true) : beatStart k d = d.creditBeat k := by
  unfold beatStart
  dsimp only
  rw [hlit, hswap, hmay]
  exact Dev.iff_true ..

/-- A beat that takes its credit (R322). -/
theorem Dev.creditBeat_spec (s : Dev) (k : Nat) :
    (s.creditBeat k).lot k = { (s.lot k).beatOn (s.ctx (s.lot k).front.ctx) s.now with credit := (s.lot k).credit - 1 } ∧
    ∀ n ∈ (s.lot k).members, ((s.creditBeat k).stall n).ready = false ∧ ((s.creditBeat k).stall n).beatStart = s.now ∧
      ((s.creditBeat k).stall n).pc = (s.stall n).pc := by
  obtain ⟨hlot, hstalls⟩ := s.beginBeat_spec k
  unfold Dev.creditBeat
  generalize s.beginBeat k = t at hlot hstalls
  refine ⟨?_, hstalls⟩
  rw [Dev.lot_modLot]
  show { t.lot k with credit := (t.lot k).credit - 1 } = _
  rewrite [hlot]
  rfl

/-! ### The end of a run, and a member that is late (R209, R322) -/

theorem laidRunComplete_of_none {d : Dev} {k : Nat} (h : d.laidRun (d.lot k).front.ctx = none) : laidRunComplete k d = d := by
  unfold laidRunComplete
  dsimp only
  rewrite [h]
  rfl

theorem laidRunComplete_of_run {d : Dev} {k : Nat} {q : RunCmd} (h : d.laidRun (d.lot k).front.ctx = some q) :
    laidRunComplete k d = let l := d.lot k
      if !d.runOver l ∨ q.aux = 0 then d
      else (((d.joinSummary l.front.ctx (d.lotFlags l)).bump 0x6050 l.front.ctx 2).done (d.ctx l.front.ctx).ring q.id 0
        [(32, 4, l.beat.num)]).endOverrun k l.front.ctx 0x12 := by
  unfold laidRunComplete
  dsimp only
  rewrite [h]
  rfl

theorem beatTimeout_of_ready {d : Dev} {k : Nat} (h : (d.lot k).members.find? (fun n => !(d.stall n).ready) = none) :
    beatTimeout k d = d := by
  unfold beatTimeout
  dsimp only
  rewrite [h]
  rfl

theorem beatTimeout_of_member {d : Dev} {k n : Nat} (h : (d.lot k).members.find? (fun n => !(d.stall n).ready) = some n) :
    beatTimeout k d = let l := d.lot k
      if l.front.kind = 1 ∧ l.beat.active ∧ max l.beat.start l.swapTime + l.beat.ssto < d.now then d.hang n 0x0008 (d.stall n).pc
      else d := by
  unfold beatTimeout
  dsimp only
  rewrite [h]
  rfl

/-- Settles O48: the launch by what lets it start, a beat by what it leaves of its Lot and of each member. -/
theorem laidRunsTakeTheirBeats : Obligations.LaidRunsTakeTheirBeats := by
  intro r c k e rest s hr hk d on l g
  have hbeat : ∀ {t}, beatStart k d = t → exec (.beatStart k) s = on t := fun ht =>
    exec_of_actOn (f := beatStart k) rfl (decide_eq_true hk) ht
  have hover : ∀ {t}, laidRunComplete k d = t → exec (.laidRunComplete k) s = on t := fun ht =>
    exec_of_actOn (f := laidRunComplete k) rfl (decide_eq_true hk) ht
  have hlate : ∀ {t}, beatTimeout k d = t → exec (.beatTimeout k) s = on t := fun ht =>
    exec_of_actOn (f := beatTimeout k) rfl (decide_eq_true hk) ht
  refine ⟨fun hctx hlot hmay htask => ?launch, fun h => (hbeat (beatStart_of_held h)).trans rfl,
    fun hlit hswap hmay => ⟨_, hbeat (beatStart_of_due hlit hswap hmay), ?begins⟩,
    fun h => (hover (laidRunComplete_of_none h)).trans rfl, fun q hq => ?ends,
    fun h => (hlate (beatTimeout_of_ready h)).trans rfl, fun n hn => ?late⟩
  case launch =>
    intro long may
    have hlaunch : ∀ {t}, launchLaidRun r d = t → exec (.launchLaidRun r) s = on t := fun ht =>
      exec_of_actOn (f := launchLaidRun r) rfl (decide_eq_true hr) ht
    have hgo := launchLaidRun_of_started hctx hlot hmay htask
    have hpump : ∀ {t t' : Dev}, t = t' → t.pump r pumpMax = t'.pump r pumpMax := fun h => congrArg (Dev.pump · _ _) h
    have hshort : long = false → ¬ ((d.ctx c).cyclic && d.tooLong (d.lot k) c e.entry) = true := fun h h' =>
      absurd (h.symm.trans h') (by decide)
    refine ⟨fun hl hm => (hlaunch (launchLaidRun_of_held hctx hlot hmay htask hl hm)).trans rfl,
      fun hl => hlaunch ((hgo (.inl hl)).trans (hpump (if_pos hl))), fun hl hm hkind => hlaunch ((hgo (.inr hm)).trans (hpump ?_)),
      fun hl hm hkind => ?_⟩
    · exact (if_neg (hshort hl)).trans (if_pos hkind)
    · exact hlaunch ((hgo (.inr hm)).trans (hpump ((if_neg (hshort hl)).trans (if_neg (not_not.mpr hkind)))))
  case begins =>
    obtain ⟨hlot, hstalls⟩ := d.creditBeat_spec k
    exact ⟨hlot, hstalls⟩
  case ends =>
    have hgo := laidRunComplete_of_run hq
    exact ⟨fun h => (hover (hgo.trans (if_pos (h.imp (fun h => by rw [h]; rfl) id)))).trans rfl,
      fun h haux => hover (hgo.trans (if_neg (not_or.mpr ⟨by rw [h]; decide, haux⟩)))⟩
  case late =>
    intro late
    have hgo := beatTimeout_of_member hn
    exact ⟨fun h => (hlate (hgo.trans (if_neg h))).trans rfl, fun h => hlate (hgo.trans (if_pos h))⟩

end Sys2Proof.Machine

/-! ## Tile tasks (R323 to R328) -/
namespace Sys2Proof.Machine
open Sys2Proof

/-! ### LAUNCH of a tile task (R323) -/

section Launch
variable {d : Dev} {r c : Nat} {e : Cmd} {rest : List Cmd}

/-- Whether a launch may be taken up in the Lot of its context (R321, R329, R332). -/
def Dev.taskMay (d : Dev) (c : Nat) : Bool :=
  let x := d.ctx c
  let l := d.lot x.lot
  x.state == .bound && x.seat == l.fseat && (if x.cyclic then d.inWindow l x.seat 0 && d.lotAwake l else !d.quantumUp l)
    && !d.lotTesting l

theorem Dev.taskMay_iff (d : Dev) (c : Nat) : let x := d.ctx c
    let l := d.lot x.lot
    d.taskMay c = true ↔ x.state = .bound ∧ x.seat = l.fseat ∧
      (if x.cyclic then d.inWindow l x.seat 0 && d.lotAwake l else !d.quantumUp l) = true ∧ d.lotTesting l = false := by
  intro x l
  unfold Dev.taskMay
  rw [Bool.and_eq_true_iff, Bool.and_eq_true_iff, Bool.and_eq_true_iff, beq_iff_eq, beq_iff_eq, Bool.not_eq_true', and_assoc, and_assoc]

variable (hctx : d.ringCtx r = some c) (hmay : d.mayStart r 0x12 e rest) (htask : isTask e.entry = true)
include hctx hmay htask

theorem launchTileTask_of_held (h : ((d.ctx c).cyclic && d.tooLong (d.lot (d.ctx c).lot) c e.entry || d.taskMay c) = false) :
    launchTileTask r d = d := by
  unfold launchTileTask
  rewrite [hctx]
  refine Dev.start_of_unready hmay ?_
  rw [htask, Bool.true_and]
  exact h

theorem launchTileTask_of_started (h : ((d.ctx c).cyclic && d.tooLong (d.lot (d.ctx c).lot) c e.entry || d.taskMay c) = true) :
    launchTileTask r d = let l := d.lot (d.ctx c).lot
      let g := d.started r e rest
      Dev.pump (if d.badTarget l e.entry then g.done r d.nextId 0x44 []
        else if (d.ctx c).cyclic && d.tooLong l c e.entry then g.done r d.nextId 0x45 []
        else (g.modCtx c fun y => { y with step := fld e.entry 16 7, lstep := fld e.entry 16 7 }).bump 0x6050 c 0) r pumpMax := by
  unfold launchTileTask
  rewrite [hctx]
  refine (Dev.start_of_mayStart hmay ?_).trans (congrArg (Dev.pump · r pumpMax) rfl)
  rw [htask, Bool.true_and]
  exact h

end Launch

/-! ### TASK_PLACE (R324, R325) -/

/-- Whether the oldest launch of a context may be placed now (R325, R332, R334). -/
def Dev.mayPlace (d : Dev) (c : Nat) (q : RunCmd) : Prop :=
  let x := d.ctx c
  let l := d.lot x.lot
  l.frontCtx = some c ∧ x.state = .bound ∧ d.lotTesting l = false ∧
    (x.cyclic = true → d.inWindow l x.seat (d.maxOf l c q.entry) = true ∧ d.lotAwake l = true)

theorem Dev.mayPlace_iff (d : Dev) (c : Nat) (q : RunCmd) : let x := d.ctx c
    let l := d.lot x.lot
    (l.frontCtx ≠ some c ∨ x.state ≠ .bound ∨ d.lotTesting l = true ∨
      (x.cyclic = true ∧ (!(d.inWindow l x.seat (d.maxOf l c q.entry) && d.lotAwake l)) = true)) ↔ ¬ d.mayPlace c q := by
  intro x l
  unfold Dev.mayPlace
  rw [not_and_or, not_and_or, not_and_or, Bool.not_eq_false, Classical.not_imp, Bool.not_eq_true', ← Bool.not_eq_true,
    Bool.and_eq_true_iff]

section Place
variable {c : Nat} {d : Dev}

theorem taskPlace_of_unplaced (h : d.unplaced c = none) : taskPlace c d = d := by
  have hplace : d.placeOf c = none := by
    unfold Dev.placeOf
    dsimp only
    rewrite [h]
    rfl
  unfold taskPlace
  dsimp only
  rewrite [hplace]
  rfl

theorem taskPlace_of_other (h : d.lit = false ∨ d.placeTurn c = false) : taskPlace c d = d := by
  unfold taskPlace
  cases d.placeOf c with
  | none => rfl
  | some p => exact if_pos (h.imp (fun h => by rw [h]; rfl) fun h => by rw [h]; rfl)

theorem Dev.placeOf_of_held {q : RunCmd} (h : d.unplaced c = some q)
    (hheld : ¬ d.mayPlace c q ∨ d.targetOf (d.lot (d.ctx c).lot) q.entry = none ∨ d.freeSlot = none) : d.placeOf c = none := by
  unfold Dev.placeOf
  dsimp only
  rewrite [h]
  dsimp only
  by_cases hno : d.mayPlace c q
  · rewrite [if_neg fun hb => (d.mayPlace_iff c q).mp hb hno]
    rcases hheld.resolve_left (not_not.mpr hno) with hn | hn
    · rewrite [hn]
      rfl
    · rewrite [hn]
      cases d.targetOf (d.lot (d.ctx c).lot) q.entry with
      | none => rfl
      | some u => rfl
  · exact if_pos ((d.mayPlace_iff c q).mpr hno)

theorem Dev.placeOf_of_free {q : RunCmd} {u m : Nat} (h : d.unplaced c = some q) (hmay : d.mayPlace c q)
    (htarget : d.targetOf (d.lot (d.ctx c).lot) q.entry = some u) (hslot : d.freeSlot = some m) : d.placeOf c = some (q, u, m) := by
  unfold Dev.placeOf
  dsimp only
  rewrite [h]
  dsimp only
  rewrite [if_neg fun hb => (d.mayPlace_iff c q).mp hb hmay, htarget, hslot]
  rfl

/-- The slot of a launch that is placed (R324). -/
def RunCmd.slot (q : RunCmd) (c u : Nat) : TaskSlot :=
  { unit := u, ctx := c, kind := byte q.entry 9, state := 1, crec := crecOf q.entry, ttag := fld q.entry 28 4,
    step := fld q.entry 16 7, cmd := q.id, args := (List.range (byte q.entry 11)).map fun i => BitVec.ofNat 32 (fld q.entry (32 + 4 * i) 4) }

theorem taskPlace_of_place {q : RunCmd} {u m : Nat} (h : d.placeOf c = some (q, u, m)) (hlit : d.lit = true)
    (hturn : d.placeTurn c = true) : taskPlace c d =
      let l := d.lot (d.ctx c).lot
      let h := { d with tasks := d.tasks.set m (q.slot c u), placed := (d.now, c) }
      let h := (h.modCmd (d.ctx c).ring q.id fun y => { y with aux := m + 1 }).countSlots
      each ((l.taskStalls u).map fun n => n / 4) (fun b h => (h.rouse b).askIsland l b 1 (some l.front.env)) h := by
  unfold taskPlace
  dsimp only
  rewrite [h]
  exact (if_neg (not_or.mpr ⟨by rw [hlit]; decide, by rw [hturn]; decide⟩)).trans rfl

end Place

/-! ### A task starts and ends (R326, R327) -/

theorem taskStart_of_kind {k : Nat} {d : Dev} {kd : TaskKind}
    (h : (d.lot (d.ctx (d.task k).ctx).lot).front.tasks[(d.task k).kind]? = some kd) : taskStart k d =
      let t := d.task k
      let l := d.lot (d.ctx t.ctx).lot
      let ns := l.taskStalls t.unit
      if !d.lit ∨ t.state ≠ 1 ∨ l.frontCtx ≠ some t.ctx ∨ !(ns.all fun n => (d.block (n / 4)).island == .run) then d
      else each ns (fun n s => s.startOn n k t kd) (d.modTask k fun y => { y with state := 2 }) := by
  unfold taskStart
  dsimp only
  rewrite [h]
  rfl

section EndComplete
variable {n : Nat} {d : Dev}

theorem endComplete_of_busy (h : (d.stall n).seq ≠ .running ∨ (d.stall n).ended = false ∨ (d.stall n).jobs ≠ []) :
    endComplete n d = d := by
  unfold endComplete
  refine if_pos ?_
  rcases h with h | h | h
  · exact .inr (.inl h)
  · exact .inl (by rw [h]; rfl)
  · exact .inr (.inr (by rw [Bool.not_eq_true', List.isEmpty_eq_false_iff]; exact h))

theorem endComplete_of_idle (hrun : (d.stall n).seq = .running) (hended : (d.stall n).ended = true) (hjobs : (d.stall n).jobs = []) :
    endComplete n d =
      let h := d.modStall n fun y => { y with seq := .stopped, ended := false }
      match (d.stall n).task with
      | none => h
      | some m =>
        let t := d.task m
        let ended := insertUp n t.ended
        if ((d.lot (d.ctx t.ctx).lot).taskStalls t.unit).all fun y => ended.contains y then h.taskDone m
        else h.modTask m fun y => { y with ended := ended } := by
  unfold endComplete
  refine (if_neg ?_).trans rfl
  rw [hrun, hended, hjobs]
  decide

end EndComplete

/-- Settles O49: the launch by what lets it start, the placement by what it needs, start and end by the Stalls of the task. -/
theorem tileTasksRunOnTheirTarget : Obligations.TileTasksRunOnTheirTarget := by
  intro r c k n e rest s hr d on x l g
  have hplace : ∀ {t}, c < 1024 → taskPlace c d = t → exec (.taskPlace c) s = on t := fun hc ht =>
    exec_of_actOn (f := taskPlace c) rfl (decide_eq_true hc) ht
  refine ⟨fun hctx hmay htask => ?launch, fun hc hno => (hplace hc ?idle).trans rfl, fun q hc hq => ?place, fun kd hk => ?starts,
    fun hn => ?ends⟩
  case launch =>
    intro long may
    have hlaunch : ∀ {t}, launchTileTask r d = t → exec (.launchTileTask r) s = on t := fun ht =>
      exec_of_actOn (f := launchTileTask r) rfl (decide_eq_true hr) ht
    have hiff : d.taskMay c = true ↔ may := d.taskMay_iff c
    refine ⟨fun hl hm => (hlaunch (launchTileTask_of_held hctx hmay htask ?_)).trans rfl, fun hready => ?_⟩
    · rw [show ((d.ctx c).cyclic && d.tooLong (d.lot (d.ctx c).lot) c e.entry) = false from hl, Bool.false_or, ← Bool.not_eq_true, hiff]
      exact hm
    · have hgo := launchTileTask_of_started hctx hmay htask (Bool.or_eq_true_iff.mpr (hready.imp id hiff.mpr))
      have hpump : ∀ {t t' : Dev}, t = t' → t.pump r pumpMax = t'.pump r pumpMax := fun h => congrArg (Dev.pump · _ _) h
      have hgood : d.badTarget l e.entry = false → ¬ d.badTarget l e.entry = true := fun h h' => absurd (h.symm.trans h') (by decide)
      refine ⟨fun hbad => hlaunch (hgo.trans (hpump (if_pos hbad))), fun hbad hl => hlaunch (hgo.trans (hpump ?_)),
        fun hbad hl => hlaunch (hgo.trans (hpump ?_))⟩
      · exact (if_neg (hgood hbad)).trans (if_pos hl)
      · exact (if_neg (hgood hbad)).trans (if_neg fun h => absurd (hl.symm.trans h) (by decide))
  case idle =>
    rcases hno with h | h | h
    · exact taskPlace_of_other (.inl h)
    · exact taskPlace_of_other (.inr h)
    · exact taskPlace_of_unplaced h
  case place =>
    intro may
    refine ⟨fun hheld => (hplace hc ?_).trans rfl, fun u m hmay hlit hturn htarget hslot => ?_⟩
    · have hnone := Dev.placeOf_of_held hq hheld
      unfold taskPlace
      dsimp only
      rewrite [hnone]
      rfl
    · exact hplace hc (taskPlace_of_place (Dev.placeOf_of_free hq hmay htarget hslot) hlit hturn)
  case starts =>
    intro t lt hkd ready
    have hstart : ∀ {g}, taskStart k d = g → exec (.taskStart k) s = on g := fun hg =>
      exec_of_actOn (f := taskStart k) rfl (decide_eq_true hk) hg
    have hgo := taskStart_of_kind hkd
    have hiff : (!d.lit ∨ t.state ≠ 1 ∨ lt.frontCtx ≠ some t.ctx ∨
        !((lt.taskStalls t.unit).all fun n => (d.block (n / 4)).island == .run)) ↔ ¬ ready := by
      show _ ↔ ¬ (_ ∧ _ ∧ _ ∧ _)
      rw [not_and_or, not_and_or, not_and_or, Bool.not_eq_true', Bool.not_eq_true', Bool.not_eq_true, Bool.not_eq_true]
    exact ⟨fun hno => (hstart (hgo.trans (if_pos (hiff.mpr hno)))).trans rfl,
      fun hyes => hstart (hgo.trans (if_neg fun hno => hiff.mp hno hyes))⟩
  case ends =>
    have hend : ∀ {g}, endComplete n d = g → exec (.endComplete n) s = on g := fun hg =>
      exec_of_actOn (f := endComplete n) rfl (decide_eq_true hn) hg
    refine ⟨fun h => (hend (endComplete_of_busy h)).trans rfl, fun hrun hended hjobs => ?_⟩
    intro h
    have hgo := endComplete_of_idle hrun hended hjobs
    refine ⟨fun hnone => hend (hgo.trans (by rw [hnone])), fun m hm => ?_⟩
    intro t ended finished
    have htask : endComplete n d = if finished = true then h.taskDone m else h.modTask m fun y => { y with ended := ended } := by
      rw [hm] at hgo
      exact hgo
    exact ⟨fun hf => hend (htask.trans (if_pos hf)), fun hf => hend (htask.trans (if_neg fun h => absurd (hf.symm.trans h) (by decide)))⟩

end Sys2Proof.Machine

/-! ## The cyclic class (R330 to R335) -/
namespace Sys2Proof.Machine
open Sys2Proof

/-! ### CYCLE_LOAD and CYCLE_START (R331, R332) -/

/-- To take a command up moves no context to another ring, and none to another Lot. -/
theorem Dev.ringLot_started (d : Dev) (r : Nat) (e : Cmd) (rest : List Cmd) (q : Nat) : (d.started r e rest).ringLot q = d.ringLot q := by
  have hctx : ((d.started r e rest).ring q).ctx = (d.ring q).ctx := by
    unfold Dev.started
    by_cases h : q = r
    · rewrite [h, Dev.ring_modRing]
      rfl
    · rewrite [Dev.ring_modRing_other _ _ _ _ h]
      rfl
  unfold Dev.ringLot Dev.ringCtx
  rewrite [hctx]
  rfl

/-- A Lot takes a table: one that runs keeps its own until the next frame. -/
def Lot.tabled (x : Lot) (c : Cycle) : Lot :=
  if x.t0.isSome = true ∧ x.cyc.isSome = true then { x with cycNext := some c } else { x with cyc := some c }

/-- A Lot starts its frames at a time. -/
def Lot.framedAt (x : Lot) (t : Nat) : Lot :=
  { x with t0 := some t, frameNo := 0, winNext := 0, window := none, winOver := none, winIdle := false, waked := false,
           cyc := x.cycNext.or x.cyc, cycNext := none }

section Table
variable {d : Dev} {r k : Nat} {e : Cmd} {rest : List Cmd} (hlot : d.ringLot r = some k)
include hlot

theorem cycleLoad_of_mayStart (h : d.mayStart r 0x18 e rest) : cycleLoad r d =
    let a := fld e.entry 8 8
    let g := d.started r e rest
    Dev.pump (if jobEnd < a + 16 ∨ jobEnd < a + 16 + 8 * (d.memVal (a + 1) 1 + 1) ∨ !d.cycleOk a ∨ !d.lotCyclic (d.lot k)
      then g.done r d.nextId 0x48 []
      else (g.modLot k fun x => x.tabled (d.cycleAt a)).done r d.nextId 0 []) r pumpMax := by
  refine (Dev.start_of_mayStart h rfl).trans (congrArg (Dev.pump · r pumpMax) ?_)
  dsimp only
  rewrite [Dev.ringLot_started, hlot]
  rfl

theorem cycleStart_of_mayStart (h : d.mayStart r 0x19 e rest) : cycleStart r d =
    let a := fld e.entry 8 8
    let g := d.started r e rest
    Dev.pump (if (d.lot k).cyc.isNone then g.done r d.nextId 0x48 []
      else if a < d.time + 10 * usec then g.done r d.nextId 0x4C []
      else (g.modLot k fun x => x.framedAt a).done r d.nextId 0 []) r pumpMax := by
  refine (Dev.start_of_mayStart h rfl).trans (congrArg (Dev.pump · r pumpMax) ?_)
  dsimp only
  rewrite [Dev.ringLot_started, hlot]
  rfl

end Table

/-- A table is refused where it leaves the job area, is not accepted, or its Lot is not cyclic: its header is part of it. -/
theorem tableRefused_iff {j a n : Nat} {ok cyclic : Bool} :
    (j < a + 16 ∨ j < a + 16 + n ∨ (!ok) = true ∨ (!cyclic) = true) ↔ ¬ a + 16 + n ≤ j ∨ ok = false ∨ cyclic = false := by
  rw [Bool.not_eq_true', Bool.not_eq_true', ← or_assoc]
  exact or_congr (by omega) Iff.rfl

/-! ### Frames and the wakes ahead of a window (R332) -/

section Frame
variable {d : Dev} {k : Nat}

theorem frameStart_of_none (h : (d.lot k).nextFrame = none) : frameStart k d = d := by
  unfold frameStart
  rw [h]

theorem frameStart_of_some {t : Nat} (h : (d.lot k).nextFrame = some t) : frameStart k d =
    if d.time < t ∨ (!d.lit) = true then d else d.modLot k fun x =>
      { x with t0 := some t, frameNo := x.frameNo + 1, winNext := 0, cyc := x.cycNext.or x.cyc, cycNext := none } := by
  unfold frameStart
  rw [h]

theorem windowWakeLead_of_none (h : (d.lot k).nextWindow = none) : windowWakeLead k d = d := by
  unfold windowWakeLead
  dsimp only
  rw [h]

theorem windowWakeLead_of_some {w : Window} {t : Nat} (h : (d.lot k).nextWindow = some (w, t)) : windowWakeLead k d =
    if (d.lot k).waked = true ∨ (!d.lit) = true ∨ d.time + w.wake * tenUs < t then d
    else (d.askLot (d.lot k) 0 ((d.lot k).envOf ((d.lot k).seat w.seat))).modLot k fun x => { x with waked := true } := by
  unfold windowWakeLead
  dsimp only
  rw [h]

end Frame

/-! ### Window starts (R332, R335, R501) -/

section WindowStart
variable {d : Dev} {k : Nat}

theorem windowStart_of_none (h : (d.lot k).t0 = none ∨ ((d.lot k).cyc.bind fun c => c.windows[(d.lot k).winNext]?) = none) :
    windowStart k d = d := by
  unfold windowStart
  dsimp only
  split
  · next h0 hw =>
    rcases h with h | h
    · exact absurd (h.symm.trans h0) (by simp)
    · exact absurd (h.symm.trans hw) (by simp)
  · rfl

variable {t0 : Nat} {w : Window} (ht0 : (d.lot k).t0 = some t0)
  (hw : ((d.lot k).cyc.bind fun c => c.windows[(d.lot k).winNext]?) = some w)
include ht0 hw

theorem windowStart_of_held (h : (d.lot k).frameNo = 0 ∨ (d.lot k).window.isSome = true ∨ d.time < t0 + w.start * tenUs ∨ (!d.lit) = true) :
    windowStart k d = d := by
  unfold windowStart
  dsimp only
  rw [ht0, hw]
  exact if_pos h

variable (hgo : ¬ ((d.lot k).frameNo = 0 ∨ (d.lot k).window.isSome = true ∨ d.time < t0 + w.start * tenUs ∨ (!d.lit) = true))
include hgo

theorem windowStart_of_idle (hidle : d.idleSeat (d.lot k) w.seat = true) : windowStart k d =
    (d.modLot k fun x =>
      { x with window := some (d.lot k).winNext, winEnd := t0 + w.start * tenUs + w.len * tenUs, winSeat := w.seat, winIdle := true,
               winNext := (d.lot k).winNext + 1, waked := false }).bump 0x6040 k 2 := by
  unfold windowStart
  dsimp only
  rw [ht0, hw]
  exact (if_neg hgo).trans (if_pos hidle)

theorem windowStart_of_seated {c : Nat} (hidle : d.idleSeat (d.lot k) w.seat = false) (hseat : (d.lot k).seat w.seat = some c) :
    windowStart k d =
      let l := d.lot k
      let start := t0 + w.start * tenUs
      if l.front.kind ≠ 0 ∧ l.front.ctx = c then
        if d.time = start ∨ d.turnStart = true then d.openWindow k c l.winNext start w else d
      else if l.winHeld = true ∧ start + w.len * tenUs ≤ d.time then
        (d.modLot k fun x => { x with winNext := l.winNext + 1, winHeld := false, waked := false }).bump 0x6040 k 2
      else if d.swapTurn l d.now = true then (d.swapLot k).openWindow k c l.winNext start w
      else d := by
  unfold windowStart
  dsimp only
  rw [ht0, hw]
  refine (if_neg hgo).trans ((if_neg fun h => absurd (hidle.symm.trans h) (by decide)).trans ?_)
  rw [hseat]

end WindowStart

/-! ### Window ends and debts (R335) -/

/-- The window of a Lot is over. -/
def Lot.windowOver (x : Lot) : Lot := { x with window := none, winOver := none, winIdle := false, winHeld := false }

section WindowEnd
variable {d : Dev} {k : Nat}

theorem Dev.closeWindow_zero (d : Dev) (k op : Nat) :
    d.closeWindow k 0 op = (d.iff (d.lot k).winHeld fun s => s.bump 0x6040 k 2).modLot k Lot.windowOver := by
  unfold Dev.closeWindow
  dsimp only
  split
  · rfl
  · rfl

theorem windowEnd_of_open (h : (d.lot k).window = none ∨ d.time < (d.lot k).winEnd) : windowEnd k d = d := by
  unfold windowEnd
  refine if_pos (h.imp (fun h => ?_) id)
  rewrite [h]
  rfl

theorem windowEnd_of_due (hwin : (d.lot k).window.isSome = true) (hdue : (d.lot k).winEnd ≤ d.time) : windowEnd k d =
    if ((d.lot k).seat (d.lot k).winSeat).any d.spansOf = true then d.modLot k fun x => { x with winOver := some (d.lot k).winEnd }
    else d.closeWindow k 0 0 := by
  unfold windowEnd
  refine (if_neg ?_).trans ?_
  · rintro (h | h)
    · obtain ⟨i, hi⟩ := Option.isSome_iff_exists.mp hwin
      rw [hi] at h
      exact Bool.noConfusion h
    · exact absurd hdue (Nat.not_le.mpr h)
  · cases (d.lot k).seat (d.lot k).winSeat with
    | none => rfl
    | some c => rfl

/-- An overrun that reached into the next window of the other seat is the debt of the context it ran in. -/
theorem Dev.debt_closeWindow {i x n t : Nat} {w : Window} (op : Nat) (hwin : (d.lot k).window = some i)
    (hseat : (d.lot k).seat (d.lot k).winSeat = some x) (hn : n ≠ 0) (hnext : (d.lot k).nextWindow = some (w, t))
    (hother : w.seat ≠ (d.lot k).winSeat) (hlate : t < (d.lot k).winEnd + n) :
    ((d.closeWindow k n op).ctx x).debt = (d.ctx x).debt + n ∧ ((d.closeWindow k n op).lot k).window = none := by
  have hfree : ∀ (b : Bool) (s : Dev), (s.iff b fun s => s.bump 0x6040 k 2).ctxs = s.ctxs :=
    fun b s => iff_keeps Dev.ctxs (fun _ => by rfl) b s
  have hevent : ∀ (b : Bool) (fs : List (Nat × Nat × Nat)) (s : Dev),
      (s.iff b fun s => (s.bumpCtx x 7).ctxEvent x 0x04 fs).ctxs = s.ctxs := fun b fs s =>
    iff_keeps Dev.ctxs (fun t => by
      obtain ⟨_, h⟩ := (t.bumpCtx x 7).ctxEvent_frame x 0x04 fs
      rw [h]
      rfl) b s
  unfold Dev.closeWindow
  extract_lets l free
  rw [hwin, hseat]
  dsimp only
  rw [if_neg hn, hnext]
  dsimp only
  rw [show (decide (t < l.winEnd + n) && w.seat != l.winSeat) = true by
    rw [Bool.and_eq_true_iff, decide_eq_true_iff, bne_iff_ne]
    exact ⟨hlate, hother⟩, Dev.iff_true]
  refine ⟨?_, by rw [Dev.lot_modLot]⟩
  refine (congrArg (fun y : Tab Ctx => (y.get x).debt) ((hfree _ _).trans (hevent _ _ _))).trans ?_
  exact (congrArg Ctx.debt (Dev.ctx_setCtx _ x _)).trans rfl

end WindowEnd

/-- Settles O50: the table's commands by what refuses them, frames and windows by the time that each starts. -/
theorem windowsFollowTheirTable : Obligations.WindowsFollowTheirTable := by
  intro r k e rest s hr hk d on l g completes a
  have hon : ∀ {f : Nat → Dev → Dev} {i : Instr} {x : Dev}, exec i s = s.actOn (decide (k < 64)) (f k) → f k d = x → exec i s = on x :=
    fun hi hx => exec_of_actOn hi (decide_eq_true hk) hx
  have hpump : ∀ {i : Instr} {f : Nat → Dev → Dev} {t t' : Dev}, exec i s = s.actOn (decide (r < 64)) (f r) →
      f r d = t.pump r pumpMax → t = t' → exec i s = on (t'.pump r pumpMax) :=
    fun hi hx ht => exec_of_actOn hi (decide_eq_true hr) (hx.trans (congrArg (Dev.pump · _ _) ht))
  have hdark : d.lit = false → (!d.lit) = true := fun h => (Bool.not_eq_true' _).mpr h
  have hlight : d.lit = true → ¬ (!d.lit) = true := fun h h' => absurd (((Bool.not_eq_true' _).mp h').symm.trans h) (by decide)
  refine ⟨fun hlot hmay => ?load, fun hlot hmay => ?start, fun h => (hon (f := frameStart) rfl ?frameNone).trans rfl,
    fun t ht => ⟨fun h => (hon (f := frameStart) rfl ?frameEarly).trans rfl, fun hlit h => hon (f := frameStart) rfl ?frame⟩,
    fun h => (hon (f := windowWakeLead) rfl ?leadNone).trans rfl,
    fun w t hw => ⟨fun h => (hon (f := windowWakeLead) rfl ?leadEarly).trans rfl, fun hwaked hlit h => hon (f := windowWakeLead) rfl ?lead⟩,
    fun h => (hon (f := windowStart) rfl ?startNone).trans rfl, fun t0 w ht0 hw hframe hwin hlit => ?window,
    fun h => (hon (f := windowEnd) rfl (windowEnd_of_open h)).trans rfl, fun hwin hdue => ?ends,
    fun x i n op w t hwin hseat hn hnext hother hlate => Dev.debt_closeWindow op hwin hseat hn hnext hother hlate⟩
  case load =>
    intro fits
    have hgo := cycleLoad_of_mayStart hlot hmay
    refine ⟨fun h => hpump (f := cycleLoad) rfl hgo (if_pos (tableRefused_iff.mpr h)), fun hfits hok hcyc =>
      hpump (f := cycleLoad) rfl hgo (if_neg fun h => ?_)⟩
    rcases tableRefused_iff.mp h with h | h | h
    · exact h hfits
    · exact absurd (hok.symm.trans h) (by decide)
    · exact absurd (hcyc.symm.trans h) (by decide)
  case start =>
    have hgo := cycleStart_of_mayStart hlot hmay
    have hsome : l.cyc.isSome = true → ¬ l.cyc.isNone = true := fun h h' => by
      rw [Option.isNone_iff_eq_none.mp h'] at h
      exact absurd h (by decide)
    exact ⟨fun h => hpump (f := cycleStart) rfl hgo (if_pos (Option.isNone_iff_eq_none.mpr h)),
      fun h hsoon => hpump (f := cycleStart) rfl hgo ((if_neg (hsome h)).trans (if_pos hsoon)),
      fun h hfar => hpump (f := cycleStart) rfl hgo ((if_neg (hsome h)).trans (if_neg (Nat.not_lt.mpr hfar)))⟩
  case frameNone =>
    cases hnext : l.nextFrame with
    | none => exact frameStart_of_none hnext
    | some t => exact (frameStart_of_some hnext).trans (if_pos (.inr (hdark (h.resolve_left (by rw [hnext]; simp)))))
  case frameEarly => exact (frameStart_of_some ht).trans (if_pos (.inl h))
  case frame => exact (frameStart_of_some ht).trans (if_neg fun h' => h'.elim (fun h' => absurd h (Nat.not_le.mpr h')) (hlight hlit))
  case leadNone =>
    cases hnext : l.nextWindow with
    | none => exact windowWakeLead_of_none hnext
    | some p =>
      refine (windowWakeLead_of_some hnext).trans (if_pos ?_)
      rcases h with h | h | h
      · exact absurd (hnext.symm.trans h) (by simp)
      · exact .inl h
      · exact .inr (.inl (hdark h))
  case leadEarly => exact (windowWakeLead_of_some hw).trans (if_pos (.inr (.inr h)))
  case lead =>
    refine (windowWakeLead_of_some hw).trans (if_neg ?_)
    rintro (h' | h' | h')
    · exact absurd (hwaked.symm.trans h') (by decide)
    · exact hlight hlit h'
    · exact absurd h (Nat.not_le.mpr h')
  case startNone =>
    rcases h with h | h | h
    · exact windowStart_of_none (.inl h)
    · exact windowStart_of_none (.inr h)
    · cases ht0 : (d.lot k).t0 with
      | none => exact windowStart_of_none (.inl ht0)
      | some t0 =>
        cases hw : (d.lot k).cyc.bind fun c => c.windows[(d.lot k).winNext]? with
        | none => exact windowStart_of_none (.inr hw)
        | some w => exact windowStart_of_held ht0 hw (h.imp id (Or.imp id fun h => .inr (hdark h)))
  case window =>
    intro start
    have hgo : start ≤ d.time →
        ¬ (l.frameNo = 0 ∨ l.window.isSome = true ∨ d.time < start ∨ (!d.lit) = true) := by
      rintro h (h' | h' | h' | h')
      · exact hframe h'
      · rw [hwin] at h'
        exact absurd h' (by decide)
      · exact absurd h (Nat.not_le.mpr h')
      · exact hlight hlit h'
    refine ⟨fun h => (hon (f := windowStart) rfl (windowStart_of_held ht0 hw (.inr (.inr (.inl h))))).trans rfl,
      fun h hidle => hon (f := windowStart) rfl (windowStart_of_idle ht0 hw (hgo h) hidle), fun c h hidle hseat => ?_⟩
    intro front missed
    have heq := windowStart_of_seated ht0 hw (hgo h) hidle hseat
    have hto : ∀ {g}, windowStart k d = g → exec (.windowStart k) s = on g := fun hx => hon (f := windowStart) rfl hx
    have hturn : ∀ {b : Bool}, b = false → ¬ b = true := fun h h' => absurd (h.symm.trans h') (by decide)
    exact ⟨fun hf ht => hto (heq.trans ((if_pos hf).trans (if_pos ht))),
      fun hf hne ht => (hto (heq.trans ((if_pos hf).trans (if_neg fun h' => h'.elim hne (hturn ht))))).trans rfl,
      fun hf hm => hto (heq.trans ((if_neg hf).trans (if_pos hm))),
      fun hf hm ht => hto (heq.trans ((if_neg hf).trans ((if_neg hm).trans (if_pos ht)))),
      fun hf hm ht => (hto (heq.trans ((if_neg hf).trans ((if_neg hm).trans (if_neg (hturn ht)))))).trans rfl⟩
  case ends =>
    intro runs
    have hgo := windowEnd_of_due hwin hdue
    exact ⟨fun h => hon (f := windowEnd) rfl (hgo.trans (if_pos h)), fun h => hon (f := windowEnd) rfl
      (hgo.trans ((if_neg fun h' => absurd (h.symm.trans h') (by decide)).trans (d.closeWindow_zero k 0)))⟩

end Sys2Proof.Machine

/-! ## The Porter link (R360 to R365) -/
namespace Sys2Proof.Machine
open Sys2Proof

/-! ### A frame and its effect (R361) -/

section Frame
variable {d : Dev} {f : Bytes} {n : Nat} {ok : Bytes → Bool} {g : Bytes → Dev → Dev}

/-- A frame is a row's where it has the row's TYPE or one that no host sends. -/
theorem otherType_iff (hn : 1 ≤ n) (hn' : n ≤ 6) :
    otherType f n = true ↔ ¬ (frameType f = n ∨ frameType f = 0 ∨ 6 < frameType f) := by
  unfold otherType hostType
  rw [Bool.and_eq_true_iff, Bool.and_eq_true_iff, bne_iff_ne, decide_eq_true_iff, decide_eq_true_iff]
  omega

theorem Dev.frame_of_other (h : d.lit = false ∨ d.porterUp = false ∨ otherType f n = true) : d.frame_ f n ok g = d := by
  unfold Dev.frame_
  refine if_pos ?_
  rw [Bool.not_eq_true', Bool.not_eq_true']
  exact h

variable (hlit : d.lit = true) (hup : d.porterUp = true)
include hlit hup

theorem Dev.frame_of_mine (h : otherType f n = false) : d.frame_ f n ok g =
    if (frameType f != n || !frameHdrOk f || !ok (framePay f)) = true then d.frameBad f else g (framePay f) d := by
  unfold Dev.frame_
  refine if_neg ?_
  rw [hlit, hup, h]
  decide

theorem Dev.frame_of_bad (h : otherType f n = false) (hbad : frameType f ≠ n ∨ frameHdrOk f = false ∨ ok (framePay f) = false) :
    d.frame_ f n ok g = d.frameBad f := by
  refine (Dev.frame_of_mine hlit hup h).trans (if_pos ?_)
  rw [Bool.or_eq_true_iff, Bool.or_eq_true_iff, bne_iff_ne, Bool.not_eq_true', Bool.not_eq_true', or_assoc]
  exact hbad

theorem Dev.frame_of_ok (hn : frameType f = n) (hhdr : frameHdrOk f = true) (hok : ok (framePay f) = true) :
    d.frame_ f n ok g = g (framePay f) d := by
  have hother : otherType f n = false := by
    unfold otherType
    rw [hn, bne_self_eq_false, Bool.false_and]
  refine (Dev.frame_of_mine hlit hup hother).trans (if_neg ?_)
  rw [hn, hhdr, hok, bne_self_eq_false]
  decide

end Frame

/-! ### Command slots (R361, R363) -/

/-- The slots that a write fills hold its entries: no two of fewer than 1,024 are the same. -/
theorem Dev.memAt_writeSlots (base slot : Nat) (es : Bytes) (n : Nat) (hn : n ≤ 1024) (s : Dev) : ∀ i, i < n →
    (each (List.range n) (fun i s => s.memPut (base + 64 * ((slot + i) % 1024)) (sub es (64 * i) 64)) s).memAt
      (base + 64 * ((slot + i) % 1024)) 64 = sub es (64 * i) 64 := by
  have hlen : ∀ j, (sub es j 64).length = 64 := fun j => by simp [sub]
  induction n with
  | zero => exact fun i hi => absurd hi (Nat.not_lt_zero i)
  | succ n ih =>
    intro i hi
    unfold each
    rw [List.range_succ, List.foldl_append]
    by_cases h : i = n
    · subst h
      have hsame := Dev.memAt_memPut (each (List.range i) (fun i s => s.memPut (base + 64 * ((slot + i) % 1024)) (sub es (64 * i) 64)) s)
        (base + 64 * ((slot + i) % 1024)) (sub es (64 * i) 64)
      rw [hlen] at hsame
      exact hsame
    · have hlt : i < n := by omega
      have hne : (slot + i) % 1024 ≠ (slot + n) % 1024 := by omega
      refine Eq.trans ?_ (ih (by omega) i hlt)
      refine Dev.memAt_memPut_other _ _ _ _ _ ?_
      rw [hlen]
      omega

/-! ### Doorbells and acknowledgements (R364, R365) -/

theorem PRing.bellOk_iff (x : PRing) (tail : Nat) : x.bellOk tail = true ↔
    x.live = true ∧ (x.ctail + 65536 - x.chead) % 65536 ≤ (tail + 65536 - x.chead) % 65536 ∧ (tail + 65536 - x.chead) % 65536 ≤ 1024 := by
  unfold PRing.bellOk
  rw [Bool.and_eq_true_iff, Bool.and_eq_true_iff, decide_eq_true_iff, decide_eq_true_iff, and_assoc]

/-! ### Host writes, line by line (R231, R362) -/

/-- A piece of a range of bytes: it lies in the range, and holds the range's bytes there. -/
def PieceOf (off : Nat) (bs : Bytes) (q : Nat × Bytes) : Prop :=
  off ≤ q.1 ∧ q.1 + q.2.length ≤ off + bs.length ∧ ∀ j, j < q.2.length → q.2[j]? = bs[q.1 - off + j]?

theorem pieceOf_of_mem {off : Nat} {bs : Bytes} {q : Nat × Bytes} (h : q ∈ linePieces off bs) : PieceOf off bs q := by
  obtain ⟨i, -, hi⟩ := List.mem_filterMap.mp h
  dsimp only at hi
  split at hi
  case isFalse => exact absurd hi (by simp)
  case isTrue hlt =>
    generalize hlo : max off (64 * (off / 64 + i)) = lo at hi hlt
    generalize hhi : min (off + bs.length) (64 * (off / 64 + i + 1)) = hi' at hi hlt
    obtain rfl := Option.some.inj hi
    rw [sub_of_le (by omega)]
    refine ⟨by dsimp only; omega, ?_, fun j hj => ?_⟩
    · rw [List.length_take, List.length_drop]
      dsimp only
      omega
    · rw [List.length_take] at hj
      rw [List.getElem?_take_of_lt (by omega), List.getElem?_drop]

theorem linePieces_cover {off : Nat} {bs : Bytes} {a : Nat} (hlow : off ≤ a) (hhigh : a < off + bs.length) :
    ∃ q ∈ linePieces off bs, q.1 ≤ a ∧ a < q.1 + q.2.length := by
  have hlt : max off (64 * (off / 64 + (a / 64 - off / 64))) < min (off + bs.length) (64 * (off / 64 + (a / 64 - off / 64) + 1)) := by
    omega
  refine ⟨_, List.mem_filterMap.mpr ⟨a / 64 - off / 64, List.mem_range.mpr (by omega), if_pos hlt⟩, by dsimp only; omega, ?_⟩
  dsimp only
  rw [sub_of_le (by omega), List.length_take, List.length_drop]
  omega

theorem Dev.mem_hostPut (s : Dev) (off : Nat) (bs : Bytes) : (s.hostPut off bs).mem = memWrite 0 s.mem off bs :=
  congrArg (memWrite 0 · off bs) (iff_keeps Dev.mem (fun _ => by rfl) _ ((s.noMerge (sliceOf off) (off / 64)).bumpSlice (sliceOf off) 1))

section HostPuts
variable {off : Nat} {bs : Bytes}

/-- Pieces of a range write its bytes where they reach, and leave those that stand there already. -/
theorem look_hostPuts {ps : List (Nat × Bytes)} (hps : ∀ q ∈ ps, PieceOf off bs q) {s : Dev} {a : Nat}
    (h : (∃ q ∈ ps, q.1 ≤ a ∧ a < q.1 + q.2.length) ∨ bs[a - off]? = some (look 0 s.mem a)) :
    bs[a - off]? = some (look 0 (each ps (fun q s => s.hostPut q.1 q.2) s).mem a) := by
  induction ps generalizing s with
  | nil => exact h.resolve_left (by simp)
  | cons q ps ih =>
    rw [each_cons]
    refine ih (fun p hp => hps p (List.mem_cons_of_mem _ hp)) ?_
    obtain ⟨hoff, -, hq⟩ := hps q List.mem_cons_self
    rw [Dev.mem_hostPut]
    by_cases hin : q.1 ≤ a ∧ a < q.1 + q.2.length
    · obtain ⟨hl, hh⟩ := hin
      have hj : a - q.1 < q.2.length := by omega
      have hbyte := hq (a - q.1) hj
      have hlook := look_memWrite_in 0 s.mem q.1 q.2 (a - q.1) hj
      rw [show q.1 + (a - q.1) = a by omega] at hlook
      rw [List.getElem?_eq_getElem hj, show q.1 - off + (a - q.1) = a - off by omega] at hbyte
      exact .inr (by rw [hlook, hbyte])
    · rw [look_memWrite_other 0 s.mem q.1 q.2 a (by omega)]
      refine h.imp (fun ⟨p, hp, hpa⟩ => ?_) id
      rcases List.mem_cons.mp hp with rfl | hp
      · exact absurd hpa hin
      · exact ⟨p, hp, hpa⟩

theorem Dev.memAt_hostPuts_other {ps : List (Nat × Bytes)} (hps : ∀ q ∈ ps, PieceOf off bs q) {s : Dev} {a m : Nat}
    (h : a + m ≤ off ∨ off + bs.length ≤ a) : (each ps (fun q s => s.hostPut q.1 q.2) s).memAt a m = s.memAt a m := by
  induction ps generalizing s with
  | nil => rfl
  | cons q ps ih =>
    rw [each_cons]
    refine (ih fun p hp => hps p (List.mem_cons_of_mem _ hp)).trans ?_
    obtain ⟨hoff, hend, -⟩ := hps q List.mem_cons_self
    unfold Dev.memAt
    rw [Dev.mem_hostPut]
    exact memRead_memWrite_other 0 s.mem q.1 q.2 a m (by omega)

/-- The pieces of a range by line write the range. -/
theorem Dev.memAt_hostPuts (s : Dev) : (each (linePieces off bs) (fun q s => s.hostPut q.1 q.2) s).memAt off bs.length = bs := by
  refine List.ext_getElem (memRead_length _ _ _ _) fun i hi hi' => ?_
  have hlook := look_hostPuts (fun _ => pieceOf_of_mem) (s := s)
    (.inl (linePieces_cover (Nat.le_add_right off i) (Nat.add_lt_add_left hi' off)))
  rw [Nat.add_sub_cancel_left, List.getElem?_eq_getElem hi'] at hlook
  exact (memRead_getElem _ _ _ _ _ hi).trans (Option.some.inj hlook).symm

end HostPuts

/-! ### Host reads (R362) -/

/-- What a host read counts changes neither memory nor what was sent. -/
theorem Dev.read_keeps (s : Dev) (ps bad : List (Nat × Bytes)) :
    (each bad (fun q s => (s.bumpSlice (sliceOf q.1) 8).bumpSlice (sliceOf q.1) 9)
      (each ps (fun q s => s.bumpSlice (sliceOf q.1) 0) s)).mem = s.mem ∧
    (each bad (fun q s => (s.bumpSlice (sliceOf q.1) 8).bumpSlice (sliceOf q.1) 9)
      (each ps (fun q s => s.bumpSlice (sliceOf q.1) 0) s)).out = s.out :=
  ⟨(each_keeps Dev.mem (fun _ _ => by rfl) bad _).trans (each_keeps Dev.mem (fun _ _ => by rfl) ps s),
    (each_keeps Dev.out (fun _ _ => by rfl) bad _).trans (each_keeps Dev.out (fun _ _ => by rfl) ps s)⟩

/-- A read replies with its bytes, or with the error of the first line that is poisoned. -/
theorem Dev.emit_of_read {s t : Dev} {reply : Bytes → Output} {failed : Output} {off n : Nat} {good ue : Bool} (hue : ue = !good)
    (hmem : t.mem = s.mem) (hout : t.out = s.out) :
    (if good = true then t.emit (reply (t.memAt off n)) else t.emit failed).mem = s.mem ∧
    (if good = true then t.emit (reply (t.memAt off n)) else t.emit failed).out =
      s.out ++ [if ue = true then failed else reply (s.memAt off n)] := by
  have hread : t.memAt off n = s.memAt off n := congrArg (memRead 0 · off n) hmem
  subst hue
  cases good with
  | true => exact ⟨hmem, by rw [hread, ← hout]; rfl⟩
  | false => exact ⟨hmem, congrArg (· ++ [failed]) hout⟩

/-- Settles O51: a frame by its row, its header and its payload, then the effect of each row. -/
theorem porterFramesHaveTheirEffect : Obligations.PorterFramesHaveTheirEffect := by
  intro f s d on p r x isBell isWrite isRead isSlots
  have hact : ∀ {i : Instr} {F : Dev → Dev} {t : Dev}, exec i s = s.act F → F d = t → exec i s = on t := fun hi ht => exec_of_act hi ht
  have row : ∀ {i : Instr} {n : Nat} {ok : Bytes → Bool} {g : Bytes → Dev → Dev}, exec i s = s.act (fun d => d.frame_ f n ok g) →
      1 ≤ n → n ≤ 6 → let mine := frameType f = n ∨ frameType f = 0 ∨ 6 < frameType f
      (d.lit = false ∨ d.porterUp = false ∨ ¬mine → exec i s = .next s) ∧
      (d.lit = true → d.porterUp = true → mine → frameType f ≠ n ∨ frameHdrOk f = false ∨ ok p = false →
        exec i s = on (d.event 0x1D [(32, 1, frameType f)])) := by
    intro i n ok g hi hn hn' mine
    have hother := otherType_iff (f := f) hn hn'
    refine ⟨fun h => (hact hi (Dev.frame_of_other (h.imp id (Or.imp id hother.mpr)))).trans rfl, fun hlit hup hm hbad =>
      hact hi (Dev.frame_of_bad hlit hup ?_ hbad)⟩
    exact Bool.not_eq_true _ ▸ fun h => hother.mp h hm
  refine ⟨fun i hi => ?rows, fun hlit hup hhdr => ⟨fun hf hok => ?slots, fun hf hok => ?bell, fun hf hok => ?ack, fun hf hok => ?write,
    fun hf hok => ?read⟩, fun hlit => ?up, fun hlit => ?dark, fun hup => ?loss, fun hup => ?none⟩
  case rows =>
    simp only [List.mem_cons, List.not_mem_nil, or_false] at hi
    rcases hi with rfl | rfl | rfl | rfl | rfl
    · exact row (i := .ringWr f) (n := 1) rfl (by decide) (by decide)
    · exact row (i := .doorbell f) (n := 2) rfl (by decide) (by decide)
    · exact row (i := .evtAck f) (n := 3) rfl (by decide) (by decide)
    · exact row (i := .mwr f) (n := 4) rfl (by decide) (by decide)
    · exact row (i := .mrd f) (n := 5) rfl (by decide) (by decide)
  case slots =>
    refine ⟨_, hact rfl (Dev.frame_of_ok hlit hup hf hhdr hok), ?_⟩
    have hslots : (byte p 1 ≤ 8) ∧ p.length = 4 + 64 * byte p 1 := by
      simp only [isSlots, Bool.and_eq_true_iff, decide_eq_true_iff, beq_iff_eq] at hok
      exact ⟨hok.1.1.2, hok.2⟩
    obtain ⟨h8, hlen⟩ := hslots
    have hn : (p.drop 4).length / 64 = byte p 1 := by
      rw [List.length_drop]
      omega
    have hmem := Dev.memAt_writeSlots (cmdRing r) (fld p 2 2) (p.drop 4) (byte p 1) (by omega) d
    intro i hi
    refine Eq.trans ?_ (hmem i hi)
    rewrite [← hn]
    rfl
  case bell =>
    intro tail ok
    have hto : ∀ {t}, _ → exec (.doorbell f) s = on t := fun ht => hact (F := doorbell f) rfl
      ((Dev.frame_of_ok hlit hup hf hhdr hok).trans ht)
    have hiff : (r ≤ 64 ∧ x.bellOk tail = true) ↔ ok := and_congr Iff.rfl (x.bellOk_iff tail)
    exact ⟨fun h => hto (if_pos (hiff.mpr h)), fun h => hto (if_neg fun h' => h (hiff.mp h'))⟩
  case ack =>
    intro h
    have hto : ∀ {t}, _ → exec (.evtAck f) s = on t := fun ht => hact (F := evtAck f) rfl
      ((Dev.frame_of_ok hlit hup hf hhdr hok).trans ht)
    refine ⟨fun hlive hle => hto (if_pos ⟨hlive, hle⟩), fun hno => (hto (if_neg ?_)).trans rfl⟩
    rintro ⟨hlive, hle⟩
    exact hno.elim (fun h' => absurd (h'.symm.trans hlive) (by decide)) fun h' => absurd hle (Nat.not_le.mpr h')
  case write =>
    intro off n torn
    have hlen : (p.drop 8).length = n := List.length_drop
    have hto : ∀ {t}, _ → exec (.mwr f) s = on t := fun ht => hact (F := mwr f) rfl
      ((Dev.frame_of_ok hlit hup hf hhdr hok).trans ht)
    have hin : d.hostOk off n = true → ¬ (!d.hostOk off (p.drop 8).length) = true := fun h => by
      rw [hlen, h]
      decide
    refine ⟨fun h => hto (if_pos ?_), fun h ht => hto ((if_neg (hin h)).trans (if_pos ht)), fun h ht =>
      ⟨_, hto ((if_neg (hin h)).trans (if_neg fun h' => absurd (ht.symm.trans h') (by decide))), ?_, fun a m ha => ?_⟩⟩
    · show (!d.hostOk off (p.drop 8).length) = true
      rewrite [hlen, h]
      rfl
    · have hmem := Dev.memAt_hostPuts (off := off) (bs := p.drop 8) d
      rewrite [hlen] at hmem
      exact hmem
    · exact Dev.memAt_hostPuts_other (off := off) (bs := p.drop 8) (fun _ => pieceOf_of_mem) (by rw [hlen]; exact ha)
  case read =>
    intro off n reply ue
    have hto : ∀ {t}, _ → exec (.mrd f) s = on t := fun ht => hact (F := mrd f) rfl
      ((Dev.frame_of_ok hlit hup hf hhdr hok).trans ht)
    refine ⟨fun h => hto (if_pos ?_), fun h => ?_⟩
    · show (!d.hostOk off n) = true
      rewrite [h]
      rfl
    · obtain ⟨hmem, hout⟩ := d.read_keeps (linePieces off (zeros n)) ((linePieces off (zeros n)).filter fun q => d.isPoisoned q.1)
      have hue : ue = !((linePieces off (zeros n)).filter fun q => d.isPoisoned q.1).isEmpty :=
        Bool.eq_iff_iff.mpr (by simp [ue, List.any_eq_true])
      obtain ⟨hm, ho⟩ := Dev.emit_of_read (reply := reply 0) (failed := reply 8 []) (off := off) (n := n) hue hmem hout
      exact ⟨_, hto ((if_neg (by rw [h]; decide)).trans rfl), hm, ho⟩
  case up =>
    exact hact (F := porterLinkUp) rfl (if_neg (by rw [hlit]; decide))
  case dark => exact (hact (F := porterLinkUp) rfl (if_pos (by rw [hlit]; rfl))).trans rfl
  case loss =>
    have hloss : porterLinkLoss d = { d with porterUp := false, porterLossAt := d.now } := by
      unfold porterLinkLoss
      rw [hup, Dev.iff_true]
    exact hact (F := porterLinkLoss) rfl hloss
  case none =>
    refine (hact (F := porterLinkLoss) rfl ?_).trans rfl
    unfold porterLinkLoss
    rw [hup, Dev.iff_false]

end Sys2Proof.Machine

/-! ## The small commands of every ring (R370) -/
namespace Sys2Proof.Machine
open Sys2Proof

/-! ### What may not start does not -/

/-- No command starts where none is fetched, the device is off, no event slot is free, or the one in front is another. -/
theorem Dev.start_of_idle {s : Dev} {r op : Nat} {ready : Bytes → Bool} {f : Nat → Bytes → Dev → Dev}
    (h : (s.ring r).fetched = [] ∨ s.lit = false ∨ (s.ring r).slotFree = false
      ∨ ∃ c rest, (s.ring r).fetched = c :: rest ∧ opcodeOf c.entry ≠ op) : s.start r op ready f = s := by
  unfold Dev.start
  dsimp only
  cases hf : (s.ring r).fetched with
  | nil => rfl
  | cons c rest =>
    refine if_neg fun hall => ?_
    simp only [Bool.and_eq_true_iff, beq_iff_eq] at hall
    obtain ⟨⟨⟨⟨⟨⟨⟨⟨hlit, -⟩, hop⟩, -⟩, hslot⟩, -⟩, -⟩, -⟩, -⟩ := hall
    rcases h with h | h | h | ⟨c', rest', h, hne⟩
    · exact absurd (hf.symm.trans h) (by simp)
    · exact absurd (h.symm.trans hlit) (by decide)
    · exact absurd (h.symm.trans hslot) (by decide)
    · obtain ⟨rfl, -⟩ := List.cons.inj (hf.symm.trans h)
      exact hne hop

/-- No command starts that is never ready. -/
theorem Dev.start_of_never {s : Dev} {r op : Nat} {ready : Bytes → Bool} {f : Nat → Bytes → Dev → Dev} (h : ∀ e, ready e = false) :
    s.start r op ready f = s := by
  unfold Dev.start
  dsimp only
  cases (s.ring r).fetched with
  | nil => rfl
  | cons c rest =>
    refine if_neg fun hall => ?_
    exact absurd ((h c.entry).symm.trans (Bool.and_eq_true_iff.mp hall).2) (by decide)

theorem Dev.mask_started (d : Dev) (r : Nat) (c : Cmd) (rest : List Cmd) :
    ((d.started r c rest).ring r).mask = (d.ring r).mask := by
  unfold Dev.started
  rewrite [Dev.ring_modRing]
  rfl

/-! ### QUEUE_RESET and COPY -/

section Commands
variable {d : Dev} {r : Nat} {c : Cmd} {rest : List Cmd}

/-- A queue opened anew, with the next INC and nothing in it (R195). -/
def RQueue.anew (w : RQueue) : RQueue := { w with isOpen := true, inc := (w.inc + 1) % 16, msgs := [] }

theorem Dev.resetQueue_of_configured (s : Dev) (n q : Nat) (h : ((s.stall n).queues.get q).size ≠ 0) : s.resetQueue n q =
    s.modStall n fun st => { st with queues := st.queues.set q ((s.stall n).queues.get q).anew } := by
  have hopen : (((s.stall n).queues.get q).size != 0) = true := bne_iff_ne.mpr h
  refine congrArg (fun w => { s with stalls := s.stalls.set n { s.stall n with queues := (s.stall n).queues.set q w } }) ?_
  rewrite [hopen]
  rfl

theorem queueReset_of_mayStart {k : Nat} (hlot : d.ringLot r = some k) (h : d.mayStart r 0x1A c rest) : queueReset r d =
    let n := bits (fld c.entry 8 2) 11 0
    let q := bits (byte c.entry 10) 3 0
    let w := (d.stall n).queues.get q
    let g := d.started r c rest
    Dev.pump (if n ≥ 2304 ∨ !(d.lot k).has (n / 4) ∨ w.size = 0 then g.done r d.nextId 0x44 []
      else (g.modStall n fun st => { st with queues := st.queues.set q w.anew }).done r d.nextId 0 [(32, 1, (w.inc + 1) % 16)])
      r pumpMax := by
  refine (Dev.start_of_mayStart h rfl).trans (congrArg (Dev.pump · r pumpMax) ?_)
  have hlots : ∀ j, (d.started r c rest).lot j = d.lot j := fun _ => rfl
  have hstalls : ∀ j, (d.started r c rest).stall j = d.stall j := fun _ => rfl
  have hring : (d.started r c rest).ringLot r = some k := (d.ringLot_started r c rest r).trans hlot
  generalize d.started r c rest = g at hlots hstalls hring
  dsimp only
  rw [hring]
  dsimp only
  rw [hlots, hstalls]
  split
  · rfl
  · next h =>
    have hsize : ((g.stall (bits (fld c.entry 8 2) 11 0)).queues.get (bits (byte c.entry 10) 3 0)).size ≠ 0 := by
      rw [hstalls]
      exact fun h0 => h (.inr (.inr h0))
    rewrite [g.resetQueue_of_configured _ _ hsize, hstalls, Dev.stall_modStall, Tab.get_set_same]
    rfl

theorem copy_of_mayStart (h : d.mayStart r 0x15 c rest) (htest : d.engineTested 15 0 = false) : copy r d =
    let a := fld c.entry 8 8
    let b := fld c.entry 16 8
    let n := fld c.entry 24 4
    let j : CopyJob := { ring := r, cmd := d.nextId, dst := a, src := b, len := n, vc := 4 + byte c.entry 28 % 2 }
    let g := d.started r c rest
    Dev.pump (if n = 0 ∨ n % 64 ≠ 0 ∨ !d.copyEnd a n ∨ !d.copyEnd b n ∨ (!d.isLocal a ∧ !d.isLocal b) then g.done r d.nextId 0x4F []
      else ({ g with copies := g.copies.set d.nextId j } : Dev).copyNext d.nextId)
      r pumpMax :=
  (Dev.start_of_mayStart h (by rw [htest]; rfl)).trans (congrArg (Dev.pump · r pumpMax) rfl)

theorem memAtomic_of_mayStart (h : d.mayStart r 0x16 c rest) : memAtomic r d =
    let a := fld c.entry 8 8
    let w := bit (byte c.entry 16) 4
    let g := d.started r c rest
    Dev.pump (if bits a 63 62 ≠ 0 ∨ badAddr a = true then g.done r d.nextId 0x4F []
      else g.access a
        { id := 0, src := .porterAtomic r d.nextId, kind := .atomic, off := 0, len := if w then 8 else 4, port := porterPort,
          cls := ringClass r, aop := bits (byte c.entry 16) 3 0, aw := w, op1 := fld c.entry 24 8, op2 := fld c.entry 32 8 })
      r pumpMax :=
  (Dev.start_of_mayStart h rfl).trans (congrArg (Dev.pump · r pumpMax) rfl)

end Commands

/-- Settles O52: each command by what it checks as it starts. -/
theorem ringCommandsComplete : Obligations.RingCommandsComplete := by
  intro r k c rest s hr d on g e completes
  have hon : ∀ {i : Instr} {f : Dev → Dev} {t : Dev}, exec i s = s.actOn (decide (r < 65)) f → f d = t → exec i s = on t :=
    fun hi hx => exec_of_actOn hi (decide_eq_true hr) hx
  have hpump : ∀ {i : Instr} {f : Dev → Dev} {t t' : Dev}, exec i s = s.actOn (decide (r < 65)) f →
      f d = t.pump r pumpMax → t = t' → exec i s = on (t'.pump r pumpMax) :=
    fun hi hx ht => hon hi (hx.trans (congrArg (Dev.pump · _ _) ht))
  refine ⟨fun hr hlot hmay => ?reset, fun hmay => ?mask, fun hmay => ?nop, fun hmay => ?fence, fun hmay htest => ?copy,
    fun hmay => ?atomic, fun htest => ?tested, fun hlit => ?dark, fun hlit => ?parity, fun p hp hno => ?idle⟩
  case reset =>
    intro n q w
    have hgo := queueReset_of_mayStart hlot hmay
    have hto : ∀ {t t' : Dev}, queueReset r d = t.pump r pumpMax → t = t' → exec (.queueReset r) s = on (t'.pump r pumpMax) :=
      fun hx ht => exec_of_actOn (f := queueReset r) rfl (decide_eq_true hr) (hx.trans (congrArg (Dev.pump · _ _) ht))
    refine ⟨fun h => hto hgo (if_pos ?_), fun hn hhas hsize => hto hgo (if_neg ?_)⟩
    · rw [Bool.not_eq_true']
      exact h
    · rintro (h | h | h)
      · exact absurd hn (Nat.not_lt.mpr h)
      · exact absurd (((Bool.not_eq_true' _).mp h).symm.trans hhas) (by decide)
      · exact hsize h
  case mask =>
    refine hpump (f := eventMask r) rfl (Dev.start_of_mayStart hmay rfl) ?_
    dsimp only
    rw [Dev.mask_started]
  case nop => exact hpump (f := nopCommand r) rfl (Dev.start_of_mayStart hmay rfl) rfl
  case fence => exact hpump (f := fence r) rfl (Dev.start_of_mayStart hmay rfl) rfl
  case copy =>
    intro a b n bad
    have hgo := copy_of_mayStart hmay htest
    have hiff : (n = 0 ∨ n % 64 ≠ 0 ∨ (!d.copyEnd a n) = true ∨ (!d.copyEnd b n) = true ∨ ((!d.isLocal a) = true ∧ (!d.isLocal b) = true))
        ↔ bad = true := by
      simp only [bad, Bool.or_eq_true_iff, Bool.and_eq_true_iff, beq_iff_eq, bne_iff_ne, or_assoc]
    exact ⟨fun h => hpump (f := copy r) rfl hgo (if_pos (hiff.mpr h)),
      fun h => hpump (f := copy r) rfl hgo (if_neg fun h' => absurd (h.symm.trans (hiff.mp h')) (by decide))⟩
  case atomic =>
    intro a w
    have hgo := memAtomic_of_mayStart hmay
    exact ⟨fun h => hpump (f := memAtomic r) rfl hgo (if_pos h), fun h0 hok => hpump (f := memAtomic r) rfl hgo
      (if_neg fun h => h.elim (fun h => h h0) fun h => absurd (hok.symm.trans h) (by decide))⟩
  case tested => exact (hon (f := copy r) rfl (Dev.start_of_never fun _ => by rw [htest]; rfl)).trans rfl
  case dark => exact (hon (f := copyParity) rfl (if_neg (by rw [hlit]; decide))).trans rfl
  case parity => exact hon (f := copyParity) rfl (if_pos hlit)
  case idle =>
    simp only [List.mem_cons, List.not_mem_nil, or_false] at hp
    rcases hp with rfl | rfl | rfl | rfl | rfl
    · exact (hon (f := copy r) rfl (Dev.start_of_idle hno)).trans rfl
    · exact (hon (f := memAtomic r) rfl (Dev.start_of_idle hno)).trans rfl
    · exact (hon (f := eventMask r) rfl (Dev.start_of_idle hno)).trans rfl
    · exact (hon (f := nopCommand r) rfl (Dev.start_of_idle hno)).trans rfl
    · exact (hon (f := fence r) rfl (Dev.start_of_idle hno)).trans rfl

end Sys2Proof.Machine

/-! ## The pool engine and its commits (R336 to R338) -/
namespace Sys2Proof.Machine
open Sys2Proof

/-! ### STEP_COMMIT (R336) -/

section Command
variable {d : Dev} {r c : Nat} {e : Cmd} {rest : List Cmd}

/-- Whether a list and the pool of its context are in order. -/
def Dev.commitOk (d : Dev) (c o : Nat) : Bool := d.listOk o && (d.poolD c).isSome

theorem Dev.not_commitOk_iff (d : Dev) (c o : Nat) : d.commitOk c o = false ↔ (!d.listOk o) = true ∨ (d.poolD c).isNone = true := by
  unfold Dev.commitOk
  rw [Bool.and_eq_false_iff, Bool.not_eq_true', Option.isSome_eq_false_iff]

variable (hctx : d.ringCtx r = some c) (hmay : d.mayStart r 0x13 e rest)
include hctx hmay

theorem stepCommit_of_held (h : ((d.ctx c).cyclic && d.tooLong (d.lot (d.ctx c).lot) c e.entry || d.mayOccupy c e.entry) = false) :
    stepCommit r d = d := by
  unfold stepCommit
  rewrite [hctx]
  exact Dev.start_of_unready hmay h

theorem stepCommit_of_started (h : ((d.ctx c).cyclic && d.tooLong (d.lot (d.ctx c).lot) c e.entry || d.mayOccupy c e.entry) = true) :
    stepCommit r d = let g := d.started r e rest
      Dev.pump (if ((d.ctx c).cyclic && d.tooLong (d.lot (d.ctx c).lot) c e.entry) = true then g.done r d.nextId 0x45 []
        else if (!d.listOk (fld e.entry 8 8)) = true ∨ (d.poolD c).isNone = true then g.done r d.nextId 0x47 []
        else g.modPool fun p => { p with commits := p.commits ++ [(r, d.nextId)] }) r pumpMax := by
  unfold stepCommit
  rewrite [hctx]
  exact (Dev.start_of_mayStart hmay h).trans (congrArg (Dev.pump · r pumpMax) rfl)

end Command

/-! ### STEP_COMMIT_PROCESS (R337, R338) -/

section Process
variable {d : Dev} {r id c : Nat} {q : RunCmd} {later : List (Nat × Nat)}

theorem stepCommitProcess_of_dark (h : d.lit = false) : stepCommitProcess d = d := by
  unfold stepCommitProcess
  exact if_pos (by rw [h]; rfl)

theorem stepCommitProcess_of_busy (hlit : d.lit = true) (h : d.pool.busy = some (r, id, c)) :
    stepCommitProcess d = d.endCommit r id c := by
  unfold stepCommitProcess
  rw [if_neg (by rw [hlit]; decide), h]

theorem stepCommitProcess_of_free (hlit : d.lit = true) (h : d.pool.busy = none) :
    stepCommitProcess d = if d.engineTested 11 0 = true then d else d.takeCommit := by
  unfold stepCommitProcess
  rw [if_neg (by rw [hlit]; decide), h]

theorem poolParity_of_dark (h : d.lit = false) : poolParity d = d := by
  unfold poolParity
  exact if_pos (by rw [h]; rfl)

theorem poolParity_of_busy (hlit : d.lit = true) (h : d.pool.busy = some (r, id, c)) : poolParity d =
    ((d.modPool fun p => { p with busy := none }).done r id 0x46 []).engineParity 11 0 ioUnit [c] := by
  unfold poolParity
  rw [if_neg (by rw [hlit]; decide), h]

theorem poolParity_of_free (hlit : d.lit = true) (h : d.pool.busy = none) : poolParity d = d.engineParity 11 0 ioUnit [] := by
  unfold poolParity
  rw [if_neg (by rw [hlit]; decide), h]

theorem Dev.takeCommit_of_none (h : d.pool.commits = []) : d.takeCommit = d := by
  unfold Dev.takeCommit
  rw [h]

theorem Dev.takeCommit_of_first (h : d.pool.commits = (r, id) :: later) (hctx : d.ringCtx r = some c) (hcmd : (d.ring r).cmd id = some q) :
    d.takeCommit = let x := d.ctx c
      let g := d.modPool fun p => { p with commits := later }
      if x.cyclic = true ∧ (!d.inWindow (d.lot x.lot) x.seat (d.maxOf (d.lot x.lot) c q.entry)) = true then d
      else if (!d.listOk (fld q.entry 8 8)) = true ∨ (d.poolD c).isNone = true then g.done r id 0x47 []
      else ((g.modPool fun p => { p with busy := some (r, id, c) }).modCmd r id fun y => { y with aux := 1 }).dropTrans c := by
  unfold Dev.takeCommit
  rewrite [h]
  dsimp only
  rewrite [hctx, hcmd]
  rfl

/-- A commit that is processed completes with the counts of its list. -/
theorem Dev.endCommit_of_pool {p : PoolD} (hcmd : (d.ring r).cmd id = some q) (hpool : d.poolD c = some p) : d.endCommit r id c =
    let z := (d.modPool fun p => { p with busy := none }).commitList c p (fld q.entry 8 8)
    let h := ((z.2.bump 0x6050 c 8).bump 0x6050 c 9 (countSt z.1 1)).bump 0x6050 c 10 (countSt z.1 2)
    (h.done r id 0 [(32, 2, countSt z.1 0), (34, 2, countSt z.1 1), (36, 2, countSt z.1 2),
      (38, 2, countSt z.1 3), (40, 2, countSt z.1 4), (44, 4, (h.reserveOf c).length), (48, 4, h.poolFld c 36)]).endOverrun
        (h.ctx c).lot c 0x13 := by
  have hcmd' : ((d.modPool fun p => { p with busy := none }).ring r).cmd id = some q := hcmd
  have hpool' : (d.modPool fun p => { p with busy := none }).poolD c = some p := hpool
  unfold Dev.endCommit
  dsimp only
  rewrite [hcmd', hpool']
  dsimp only
  generalize Dev.commitList _ c p _ = z
  rfl

end Process

/-! ### The statuses of a list (R337) -/

/-- A word with a status in its bits 51 to 48. -/
def statusWord (w st : Nat) : Nat := w - bits w 51 48 * 2 ^ 48 + st * 2 ^ 48

theorem bits_statusWord (w st : Nat) : bits (statusWord w st % 256 ^ 8) 51 48 = st % 16 := by
  unfold statusWord bits
  norm_num
  omega

/-- Write the statuses of a list's entries from an offset on. -/
def Dev.putStatuses (s : Dev) (a : Nat) (l : List (ComEnt × Nat)) : Dev := each l (fun q s =>
  s.memPut (a + 8 * q.2) (leBytes 8 (statusWord (s.memVal (a + 8 * q.2) 8) (q.1.st.getD 0)))) s

theorem Dev.memVal_putStatuses_other (s : Dev) (a : Nat) (l : List ComEnt) (n i : Nat) (h : i < n) :
    (s.putStatuses a (l.zipIdx n)).memVal (a + 8 * i) 8 = s.memVal (a + 8 * i) 8 := by
  induction l generalizing s n with
  | nil => rfl
  | cons y l ih =>
    rw [List.zipIdx_cons]
    refine (ih _ (n + 1) (by omega)).trans ?_
    exact congrArg leVal (Dev.memAt_memPut_other _ _ _ _ _ (by rw [leBytes_length]; dsimp only; omega))

theorem Dev.bits_putStatuses (s : Dev) (a : Nat) (l : List ComEnt) (n i : Nat) (y : ComEnt) (h : l[i]? = some y) :
    bits ((s.putStatuses a (l.zipIdx n)).memVal (a + 8 * (n + i)) 8) 51 48 = y.st.getD 0 % 16 := by
  induction l generalizing s n i with
  | nil => exact absurd h (by simp)
  | cons x l ih =>
    rw [List.zipIdx_cons]
    cases i with
    | zero =>
      obtain rfl : x = y := by simpa using h
      refine (congrArg (bits · 51 48) (Dev.memVal_putStatuses_other _ a l (n + 1) n (by omega))).trans ?_
      have hmem := Dev.memAt_memPut s (a + 8 * n) (leBytes 8 (statusWord (s.memVal (a + 8 * n) 8) (x.st.getD 0)))
      rw [leBytes_length] at hmem
      refine (congrArg (fun bs => bits (leVal bs) 51 48) hmem).trans ?_
      rw [leVal_leBytes]
      exact bits_statusWord _ _
    | succ i =>
      have hrest := ih (s.memPut (a + 8 * n) (leBytes 8 (statusWord (s.memVal (a + 8 * n) 8) (x.st.getD 0)))) (n + 1) i
        (by simpa using h)
      rw [show n + 1 + i = n + (i + 1) by omega] at hrest
      exact hrest

/-- The statuses are what a commit writes last. -/
theorem Dev.commitList_statuses (s : Dev) (c : Nat) (p : PoolD) (o : Nat) :
    ∃ t : Dev, (s.commitList c p o).2 = t.putStatuses (o + 16) (s.commitList c p o).1.zipIdx := by
  unfold Dev.commitList
  extract_lets h step ents s1 stay s2
  generalize takeAll c p step [] s2 stay = q
  obtain ⟨out, s3⟩ := q
  dsimp only
  generalize s3.refill c p step _ _ _ = q
  obtain ⟨moves, s4⟩ := q
  dsimp only
  generalize comAdmit c p step _ _ _ = q
  obtain ⟨ents', s5⟩ := q
  exact ⟨_, rfl⟩

/-- Settles O53: the command by what it checks, the engine by what it has taken, the list by the words it writes last. -/
theorem commitsGoThroughThePoolEngine : Obligations.CommitsGoThroughThePoolEngine := by
  intro r id c e q rest later s hr d on x l
  have hstep : ∀ {t}, stepCommit r d = t → exec (.stepCommit ⟨r, false⟩) s = on t :=
    fun ht => exec_of_actOn (f := stepCommit r) rfl (decide_eq_true hr) ht
  have hparity : ∀ {t}, poolParity d = t → exec (.stepCommit ⟨r, true⟩) s = on t :=
    fun ht => exec_of_actOn (f := poolParity) rfl (decide_eq_true hr) ht
  have hproc : ∀ {t}, stepCommitProcess d = t → exec .stepCommitProcess s = on t :=
    fun ht => exec_of_act (f := stepCommitProcess) rfl ht
  have hne : ∀ {b : Bool}, b = false → ¬ b = true := fun h h' => absurd (h.symm.trans h') (by decide)
  refine ⟨fun hctx hmay => ?command, fun hdark => ⟨(hproc (stepCommitProcess_of_dark hdark)).trans rfl,
    (hparity (poolParity_of_dark hdark)).trans rfl⟩, fun hlit hfree => ⟨fun h => (hproc ?nothing).trans rfl,
      fun htest hfirst hctx hcmd => ?take, hparity (poolParity_of_free hlit hfree)⟩, fun hlit hbusy => ?busy, fun p o i y => ?statuses⟩
  case command =>
    intro g long ok
    have hlong : ∀ {b : Bool}, long = false → d.mayOccupy c e.entry = b → (long || d.mayOccupy c e.entry) = b := fun hl hb => by
      rw [hl, Bool.false_or]
      exact hb
    have hpump : ∀ {t t' : Dev}, stepCommit r d = t.pump r pumpMax → t = t' →
        exec (.stepCommit ⟨r, false⟩) s = on (t'.pump r pumpMax) := fun hx ht => hstep (hx.trans (congrArg (Dev.pump · _ _) ht))
    refine ⟨fun hl hm => (hstep (stepCommit_of_held hctx hmay (hlong hl hm))).trans rfl, fun hl => ?_, fun hl hm => ?_⟩
    · exact hpump (stepCommit_of_started hctx hmay (Bool.or_eq_true_iff.mpr (.inl hl))) (if_pos hl)
    · have hgo := stepCommit_of_started hctx hmay (hlong hl hm)
      exact ⟨fun hno => hpump hgo ((if_neg (hne hl)).trans (if_pos ((d.not_commitOk_iff c _).mp hno))),
        fun hok => hpump hgo ((if_neg (hne hl)).trans (if_neg fun hno => hne ((d.not_commitOk_iff c _).mpr hno) hok))⟩
  case nothing =>
    rw [stepCommitProcess_of_free hlit hfree]
    split
    · rfl
    · next hno => exact Dev.takeCommit_of_none (h.resolve_left hno)
  case take =>
    intro g ok
    have hgo := (stepCommitProcess_of_free hlit hfree).trans ((if_neg (hne htest)).trans (Dev.takeCommit_of_first hfirst hctx hcmd))
    refine ⟨fun hcyc hwin => (hproc (hgo.trans (if_pos ⟨hcyc, (Bool.not_eq_true' _).mpr hwin⟩))).trans rfl, fun hin => ?_⟩
    have hroom : ¬ (x.cyclic = true ∧ (!d.inWindow l x.seat (d.maxOf l c q.entry)) = true) := fun ⟨hcyc, hwin⟩ =>
      hne ((Bool.not_eq_true' _).mp hwin) (hin hcyc)
    exact ⟨fun hno => hproc (hgo.trans ((if_neg hroom).trans (if_pos ((d.not_commitOk_iff c _).mp hno)))),
      fun hok => hproc (hgo.trans ((if_neg hroom).trans (if_neg fun hno => hne ((d.not_commitOk_iff c _).mpr hno) hok)))⟩
  case busy =>
    intro g
    exact ⟨fun p hcmd hpool => hproc ((stepCommitProcess_of_busy hlit hbusy).trans (Dev.endCommit_of_pool hcmd hpool)),
      hparity (poolParity_of_busy hlit hbusy)⟩
  case statuses =>
    intro z hy
    obtain ⟨t, ht⟩ := d.commitList_statuses c p o
    have hst := t.bits_putStatuses (o + 16) z.1 0 i y hy
    rw [Nat.zero_add] at hst
    rw [← ht] at hst
    exact hst

end Sys2Proof.Machine

/-! ## Attestation (R397 to R401) -/
namespace Sys2Proof.Machine
open Sys2Proof

/-! ### A request and its place (R399) -/

section Request
variable {d : Dev} {code : Nat} {m : Bytes} {place : Bool} {f : Dev → Dev}

/-- A request of another row, and one over a link that is down, is not this row's. -/
theorem Dev.spdmReq_of_held (h : d.lit = false ∨ d.porterUp = false ∨ (byte m 1 ≠ code ∧ byte m 1 ∈ spdmCodes)) :
    d.spdmReq code m place f = d := by
  unfold Dev.spdmReq
  by_cases hlink : (!d.lit) = true ∨ (!d.porterUp) = true
  · exact if_pos hlink
  · rw [Bool.not_eq_true', Bool.not_eq_true'] at hlink
    obtain ⟨hcode, hmem⟩ := (or_assoc.mpr h).resolve_left hlink
    rw [if_neg (by rwa [Bool.not_eq_true', Bool.not_eq_true']), if_neg (by rw [List.contains_iff_mem.mpr hmem]; decide), if_pos hcode]

variable (hlit : d.lit = true) (hup : d.porterUp = true)
include hlit hup

theorem Dev.spdmReq_of_unknown (h : byte m 1 ∉ spdmCodes) : d.spdmReq code m place f = d.spdm (spdmError spUnsupported) := by
  have hno : spdmCodes.contains (byte m 1) = false := by
    rw [← Bool.not_eq_true, List.contains_iff_mem]
    exact h
  unfold Dev.spdmReq
  rw [if_neg (by rw [hlit, hup]; decide), if_pos (by rw [hno]; rfl)]

variable (hcode : byte m 1 = code) (hmem : code ∈ spdmCodes)
include hcode hmem

theorem Dev.spdmReq_of_code : d.spdmReq code m place f =
    if byte m 0 ≠ (if code = 0x84 then 0x10 else 0x13) then d.spdm (spdmError spVersion)
    else if (!place) = true then d.spdm (spdmError spUnexpected) else f d := by
  unfold Dev.spdmReq
  rw [if_neg (by rw [hlit, hup]; decide), if_neg (by rw [hcode, List.contains_iff_mem.mpr hmem]; decide), if_neg (fun h => h hcode)]

end Request

/-! ### What the answers carry -/

theorem Dev.spdmChain_draw (d : Dev) : d.draw.2.spdmChain = d.spdmChain := rfl

/-- A record of measurement blocks: the answer, its signature where one is asked, and the transcript (R399). -/
theorem Dev.measAnswer_spec (d : Dev) (m : Bytes) (blocks : List Bytes) : ∃ n k,
    let signed := bit (byte m 2) 0
    let total := if byte m 3 = 0 then d.boot.digestBlocks.length + 1 else 0
    let r := bytesOf [0x13, 0x60, total, 0, blocks.length] ++ leBytes 3 blocks.flatten.length ++ blocks.flatten
      ++ leBytes 32 n ++ zeros 2 ++ measCtx m
    let l := d.boot.spdmL ++ m ++ r
    let sig := ecdsaSign d.boot.scalar (sha384 (spdmSigned "responder-measurements signing" (d.boot.spdmA ++ l))) k
    (d.measAnswer m blocks).out = d.out ++ [.porter (porterFrame 0x06 (if signed then r ++ sig else r))] ∧
    (d.measAnswer m blocks).boot = { d.boot with spdmL := if signed then [] else l, spdmB := [] } := by
  refine ⟨d.draw.1, d.draw.2.draw.1, ?_⟩
  unfold Dev.measAnswer
  cases bit (byte m 2) 0 with
  | true => exact ⟨rfl, rfl⟩
  | false => exact ⟨rfl, rfl⟩

/-- No record but those of the five images, the owner and the minimum version has a digest block. -/
theorem Boot.measured_of_other {b : Boot} {i : Nat} {v : Bytes} (h : b.measured i = some v) : i ≠ 0 ∧ i ≠ 0xFF ∧ i ≠ 0xF0 := by
  unfold Boot.measured at h
  refine ⟨?_, ?_, ?_⟩
  · rintro rfl
    exact absurd h (by simp)
  · rintro rfl
    exact absurd h (by simp)
  · rintro rfl
    exact absurd h (by simp)

section Measurements
variable {d : Dev} {m : Bytes}

/-- GET_MEASUREMENTS in its place. -/
def Dev.measured (d : Dev) (m : Bytes) : Dev :=
  let op := byte m 3
  if bit (byte m 2) 0 = true ∧ byte m 36 % 16 ≠ 0 then d.spdm (spdmError spInvalid)
  else if op = 0 then d.measAnswer m []
  else if op = 0xFF then d.measAnswer m d.boot.digestBlocks
  else if op = 0xF0 then d.reportAsked m
  else match d.boot.measured op with
    | some v => d.measAnswer m [measBlock op (measType op) v]
    | none => d.spdm (spdmError spInvalid)

theorem getMeasurements_eq : getMeasurements m d = d.spdmReq 0xE0 m d.boot.spdmAlgs fun d => d.measured m := rfl

variable (hslot : bit (byte m 2) 0 = true → byte m 36 % 16 = 0)
include hslot

theorem Dev.measured_of_blocks {blocks : List Bytes} (h : (byte m 3 = 0 ∧ blocks = []) ∨ (byte m 3 = 0xFF ∧ blocks = d.boot.digestBlocks)
    ∨ ∃ v, d.boot.measured (byte m 3) = some v ∧ blocks = [measBlock (byte m 3) (measType (byte m 3)) v]) :
    d.measured m = d.measAnswer m blocks := by
  have hno : ¬ (bit (byte m 2) 0 = true ∧ byte m 36 % 16 ≠ 0) := fun ⟨hs, hne⟩ => hne (hslot hs)
  unfold Dev.measured
  dsimp only
  rw [if_neg hno]
  rcases h with ⟨hop, rfl⟩ | ⟨hop, rfl⟩ | ⟨v, hv, rfl⟩
  · rw [if_pos hop]
  · rw [if_neg (by rw [hop]; decide), if_pos hop]
  · obtain ⟨h0, hall, hreport⟩ := Boot.measured_of_other hv
    rw [if_neg h0, if_neg hall, if_neg hreport, hv]

theorem Dev.measured_of_none (hop : byte m 3 ∉ ([0, 0xFF, 0xF0] : List Nat)) (h : d.boot.measured (byte m 3) = none) :
    d.measured m = d.spdm (spdmError spInvalid) := by
  have hno : ¬ (bit (byte m 2) 0 = true ∧ byte m 36 % 16 ≠ 0) := fun ⟨hs, hne⟩ => hne (hslot hs)
  simp only [List.mem_cons, List.not_mem_nil, or_false, not_or] at hop
  obtain ⟨h0, hall, hreport⟩ := hop
  unfold Dev.measured
  dsimp only
  rw [if_neg hno, if_neg h0, if_neg hall, if_neg hreport, h]

theorem Dev.measured_of_report (hop : byte m 3 = 0xF0) : d.measured m = d.reportAsked m := by
  have hno : ¬ (bit (byte m 2) 0 = true ∧ byte m 36 % 16 ≠ 0) := fun ⟨hs, hne⟩ => hne (hslot hs)
  unfold Dev.measured
  dsimp only
  rw [if_neg hno, if_neg (by rw [hop]; decide), if_neg (by rw [hop]; decide), if_pos hop]

end Measurements

/-! ### The report and its leaves (R397, R400, R401) -/

section Report
variable {d : Dev} {m : Bytes}

theorem Dev.report_snd (d : Dev) (k nonce : Bytes) (buf q : Nat) : (d.report k nonce buf q).2 = d.draw.2.draw.2 := rfl

/-- A fresh report takes a leaf and one of the allowance, and is one answer. -/
theorem Dev.freshReport_spec {k : Bytes} {buf : Nat} (hk : d.boot.k = some k) (hbuf : d.treeBuffer (d.boot.lmsNext / 32768) = some buf) :
    (d.freshReport m).boot.lmsNext = d.boot.lmsNext + 1 ∧ (d.freshReport m).boot.allowance = d.boot.allowance - 1 ∧
      (d.freshReport m).boot.lmsLimit = d.boot.lmsLimit ∧ (d.freshReport m).out.length = d.out.length + 1 := by
  have hfresh : ∃ blocks, d.freshReport m =
      ((d.modBoot fun b => { b with lmsNext := d.boot.lmsNext + 1, allowance := b.allowance - 1 }).draw.2.draw.2).measAnswer m blocks := by
    unfold Dev.freshReport
    rewrite [hk, hbuf]
    dsimp only
    generalize hg : d.modBoot _ = g
    obtain ⟨r, hr⟩ : ∃ r, g.report k (measNonce m) buf d.boot.lmsNext = (r, g.draw.2.draw.2) := ⟨_, rfl⟩
    exact ⟨_, by rw [hr]⟩
  obtain ⟨blocks, hblocks⟩ := hfresh
  obtain ⟨n, k', hout, hboot⟩ := Dev.measAnswer_spec
    ((d.modBoot fun b => { b with lmsNext := d.boot.lmsNext + 1, allowance := b.allowance - 1 }).draw.2.draw.2) m blocks
  rw [hblocks, hboot, hout, List.length_append]
  exact ⟨rfl, rfl, rfl, rfl⟩

theorem Dev.reportAsked_of_lost (h : d.boot.lmsLost = true ∨ d.boot.k = none ∨ 2 ^ 30 ≤ d.boot.lmsNext) :
    d.reportAsked m = d.spdm (spdmError spUnspecified) := by
  unfold Dev.reportAsked
  refine if_pos ?_
  rw [Bool.or_eq_true_iff, Bool.or_eq_true_iff, Option.isNone_iff_eq_none, decide_eq_true_iff, or_assoc]
  exact h

theorem Dev.reportAsked_of_leaf (hlost : d.boot.lmsLost = false) (hk : d.boot.k.isSome = true) (hnext : d.boot.lmsNext < 2 ^ 30) :
    d.reportAsked m =
      if d.boot.allowance = 0 then d.spdm (spdmError spBusy)
      else if (d.treeBuffer (d.boot.lmsNext / 32768)).isNone = true then d.spdm (spdmError spBusy)
      else if d.boot.lmsNext < d.boot.lmsLimit then d.freshReport m
      else d.flashOp [] [(d.lmsPlace.1, lmsRecord (d.boot.lmsLimit + 1024))] (.lmsLimit (d.boot.lmsLimit + 1024) m) := by
  unfold Dev.reportAsked
  dsimp only
  rw [if_neg]
  rw [Bool.or_eq_true_iff, Bool.or_eq_true_iff, Option.isNone_iff_eq_none, decide_eq_true_iff, hlost]
  rintro ((h | h) | h)
  · exact absurd h (by decide)
  · rw [h] at hk
    exact absurd hk (by decide)
  · exact absurd h (Nat.not_le.mpr hnext)

end Report

/-! ### Trees (R398) -/

section Tree
variable {d : Dev} {ok : Bool}

theorem lmsTreeBuild_of_keyless (h : d.boot.k = none) : lmsTreeBuild ok d = d := by
  unfold lmsTreeBuild
  dsimp only
  rw [h]

/-- The tree that a build would make: the one of the next leaf where that is not complete, else the one after it (R398). -/
def Dev.nextTree (d : Dev) : Nat :=
  if (d.treeBuffer (d.boot.lmsNext / 32768)).isNone then d.boot.lmsNext / 32768 else d.boot.lmsNext / 32768 + 1

/-- Whether the tree of an index may not be built now (R380, R398). -/
def Dev.treeHeld (d : Dev) (i : Nat) : Prop :=
  (!d.boot.fwRun) = true ∨ d.boot.lmsLost = true ∨ (!d.boot.flashOps.isEmpty) = true ∨
    (i = d.boot.lmsNext / 32768 + 1 ∧ 16384 < 32768 * (d.boot.lmsNext / 32768 + 1) - d.boot.lmsNext) ∨ 32768 ≤ i
    ∨ (d.treeBuffer i).isSome = true

theorem Dev.not_treeHeld_iff (d : Dev) (i : Nat) : ¬ d.treeHeld i ↔ d.boot.fwRun = true ∧ d.boot.lmsLost = false ∧ d.boot.flashOps = [] ∧
    (i = d.boot.lmsNext / 32768 + 1 → 32768 * (d.boot.lmsNext / 32768 + 1) - d.boot.lmsNext ≤ 16384) ∧ i < 32768
    ∧ d.treeBuffer i = none := by
  unfold Dev.treeHeld
  simp only [not_or, not_and, Nat.not_lt, Nat.not_le, Bool.not_eq_true', Bool.not_eq_true, Bool.not_eq_false, List.isEmpty_iff,
    Option.isSome_eq_false_iff, Option.isNone_iff_eq_none]

variable {k : Bytes} (hk : d.boot.k = some k)
include hk

theorem lmsTreeBuild_of_held (h : d.treeHeld d.nextTree) : lmsTreeBuild ok d = d := by
  unfold lmsTreeBuild
  dsimp only
  rw [hk]
  exact if_pos h

theorem lmsTreeBuild_of_due (h : ¬ d.treeHeld d.nextTree) : ∃ g : Dev, g.out = d.out ∧ g.boot = d.boot ∧ lmsTreeBuild ok d =
      g.iff ok fun s => s.modBoot fun b => { b with
        lmsTrees := (b.lmsTrees.filter fun x => x == d.boot.lmsNext / 32768 && x != d.nextTree) ++ [d.nextTree] } := by
  have hflash : ∀ er pr, (d.draw.2.flashNow er pr).out = d.out ∧ (d.draw.2.flashNow er pr).boot = d.boot := fun _ _ => ⟨rfl, rfl⟩
  unfold Dev.treeHeld Dev.nextTree at h
  unfold lmsTreeBuild
  dsimp only at h ⊢
  rw [hk]
  dsimp only
  rw [if_neg h]
  generalize lmsSecond k _ = q
  obtain ⟨i, seed⟩ := q
  dsimp only
  generalize lmsNodes i seed = nodes
  generalize lmsTop k = q
  obtain ⟨ti, tseed⟩ := q
  dsimp only
  obtain ⟨hout, hboot⟩ := hflash _ _
  exact ⟨_, hout, hboot, rfl⟩

end Tree

/-- Settles O54: a request by its place, an answer by its operand, the report by its leaf, its allowance and its tree. -/
theorem attestationAnswersInOrder : Obligations.AttestationAnswersInOrder := by
  intro m s d b frame tells requests
  have hact : ∀ {i : Instr} {F : Dev → Dev} {t : Dev}, exec i s = s.act F → F d = t → exec i s = .next { s with dev := { t with now := d.now } } :=
    fun hi ht => exec_of_act hi ht
  have hne : ∀ {b : Bool}, b = false → ¬ b = true := fun h h' => absurd (h.symm.trans h') (by decide)
  have asked : ∀ p ∈ requests, (p.2.1 ∈ spdmCodes ∧ p.2.1 ≠ 0x84) ∧
      ∃ F g, exec p.1 s = s.act F ∧ F d = d.spdmReq p.2.1 m p.2.2 g := by
    intro p hp
    simp only [requests, List.mem_cons, List.not_mem_nil, or_false] at hp
    rcases hp with rfl | rfl | rfl | rfl | rfl | rfl
    · exact ⟨(by decide : 0xE1 ∈ spdmCodes ∧ 0xE1 ≠ 0x84), getCapabilities m, _, rfl, rfl⟩
    · exact ⟨(by decide : 0xE3 ∈ spdmCodes ∧ 0xE3 ≠ 0x84), negotiateAlgorithms m, _, rfl, rfl⟩
    · exact ⟨(by decide : 0x81 ∈ spdmCodes ∧ 0x81 ≠ 0x84), getDigests m, _, rfl, rfl⟩
    · exact ⟨(by decide : 0x82 ∈ spdmCodes ∧ 0x82 ≠ 0x84), getCertificate m, _, rfl, rfl⟩
    · exact ⟨(by decide : 0x83 ∈ spdmCodes ∧ 0x83 ≠ 0x84), challenge m, _, rfl, rfl⟩
    · exact ⟨(by decide : 0xE0 ∈ spdmCodes ∧ 0xE0 ≠ 0x84), getMeasurements m, _, rfl, rfl⟩
  have inPlace : d.lit = true → d.porterUp = true → byte m 0 = 0x13 → ∀ {code : Nat} {place : Bool} {g : Dev → Dev}, code ∈ spdmCodes →
      code ≠ 0x84 → byte m 1 = code → place = true → d.spdmReq code m place g = g d := fun hlit hup hv _ _ _ hmem hcode hm hplace =>
    (Dev.spdmReq_of_code hlit hup hm hmem).trans
      ((if_neg fun h => h (hv.trans (if_neg hcode).symm)).trans (if_neg (by rw [hplace]; decide)))
  refine ⟨fun p hp => ?rows, fun hlit hup => ⟨fun hcode hv => ?badVersion, fun hcode hv => ?version, fun p hp hcode => ?places,
    fun hv => ⟨fun hcode hplace => ?capabilities, fun hcode hplace => ?algorithms, fun hplace => ⟨fun hcode => ?digests,
      fun hcode => ?certificate, fun hcode => ?challenge, fun hcode => ?measurements⟩⟩⟩, fun hrun hdue => ?refill, fun hno => ?full,
    fun hk ok => (hact (F := lmsTreeBuild ok) rfl (lmsTreeBuild_of_keyless hk)).trans rfl, fun k ok hk => ?tree⟩
  case rows =>
    have hrow : ∃ F g, exec p.1 s = s.act F ∧ F d = d.spdmReq p.2.1 m p.2.2 g := by
      rcases List.mem_cons.mp hp with rfl | hp
      · exact ⟨getVersion m, _, rfl, rfl⟩
      · exact (asked p hp).2
    obtain ⟨F, g, hF, hd⟩ := hrow
    exact ⟨fun h => (hact hF (hd.trans (Dev.spdmReq_of_held h))).trans rfl,
      fun hlit hup hno => hact hF (hd.trans (Dev.spdmReq_of_unknown hlit hup hno))⟩
  case badVersion =>
    exact hact (F := getVersion m) rfl ((Dev.spdmReq_of_code hlit hup hcode (by decide)).trans
      (if_pos fun h => hv (h.trans (if_pos rfl))))
  case version =>
    intro r
    exact hact (F := getVersion m) rfl ((Dev.spdmReq_of_code hlit hup hcode (by decide)).trans
      ((if_neg fun h => h (hv.trans (if_pos rfl).symm)).trans (if_neg (by decide))))
  case places =>
    obtain ⟨⟨hmem, hver⟩, F, g, hF, hd⟩ := asked p hp
    have hgo := hd.trans (Dev.spdmReq_of_code hlit hup hcode hmem)
    exact ⟨fun hv => hact hF (hgo.trans (if_pos fun h => hv (h.trans (if_neg hver)))),
      fun hv hplace => hact hF (hgo.trans ((if_neg fun h => h (hv.trans (if_neg hver).symm)).trans (if_pos (by rw [hplace]; rfl))))⟩
  case capabilities =>
    exact ⟨_, d.draw.1, hact (F := getCapabilities m) rfl (inPlace hlit hup hv (by decide) (by decide) hcode hplace), rfl, rfl⟩
  case algorithms =>
    have hgo : negotiateAlgorithms m d = _ := inPlace hlit hup hv (by decide) (by decide) hcode hplace
    refine ⟨fun h => hact (F := negotiateAlgorithms m) rfl (hgo.trans (if_pos ?_)), fun h7 h1 =>
      hact (F := negotiateAlgorithms m) rfl (hgo.trans (if_neg (by rw [h7, h1]; decide)))⟩
    rw [Bool.not_eq_true', Bool.not_eq_true']
    exact h
  case digests =>
    intro r
    exact hact (F := getDigests m) rfl (inPlace hlit hup hv (by decide) (by decide) hcode hplace)
  case certificate =>
    intro c off
    have hgo : getCertificate m d = _ := inPlace hlit hup hv (by decide) (by decide) hcode hplace
    refine ⟨fun h => hact (F := getCertificate m) rfl (hgo.trans (if_pos h)), fun h0 hoff =>
      hact (F := getCertificate m) rfl (hgo.trans (if_neg ?_))⟩
    rintro (h | h)
    · exact h h0
    · exact absurd hoff (Nat.not_lt.mpr h)
  case challenge =>
    have hgo : challenge m d = _ := inPlace hlit hup hv (by decide) (by decide) hcode hplace
    exact ⟨fun h => hact (F := challenge m) rfl (hgo.trans (if_pos h)), fun h => ⟨_, d.draw.1, d.draw.2.draw.1,
      hact (F := challenge m) rfl (hgo.trans (if_neg fun h' => h' h)), rfl, rfl⟩⟩
  case measurements =>
    intro signed
    have hgo : getMeasurements m d = d.measured m := inPlace hlit hup hv (by decide) (by decide) hcode hplace
    have hto : ∀ {t}, d.measured m = t → exec (.getMeasurements m) s = .next { s with dev := { t with now := d.now } } :=
      fun ht => hact (F := getMeasurements m) rfl (hgo.trans ht)
    refine ⟨fun hs hslot => hto (if_pos ⟨hs, hslot⟩), fun hslot => ⟨fun blocks hblocks => ?_, fun hop hnone =>
      hto (Dev.measured_of_none hslot hop hnone), fun hop => ?_⟩⟩
    · obtain ⟨n, k, hout, hboot⟩ := d.measAnswer_spec m blocks
      exact ⟨_, n, k, hto (Dev.measured_of_blocks hslot hblocks), hout, hboot⟩
    · have hreport : ∀ {t}, d.reportAsked m = t → exec (.getMeasurements m) s = .next { s with dev := { t with now := d.now } } :=
        fun ht => hto ((Dev.measured_of_report hslot hop).trans ht)
      refine ⟨fun h => hreport (Dev.reportAsked_of_lost h), fun hlost hk hnext => ?_⟩
      have hleaf := Dev.reportAsked_of_leaf (m := m) hlost hk hnext
      refine ⟨fun h => hreport (t := d.spdm (spdmError spBusy)) (hleaf.trans ?_), fun hallow hbuf => ?_⟩
      · by_cases h0 : d.boot.allowance = 0
        · exact if_pos h0
        · exact (if_neg h0).trans (if_pos (Option.isNone_iff_eq_none.mpr (h.resolve_left h0)))
      · have hgo := hleaf.trans ((if_neg hallow).trans (if_neg fun h => by
          rw [Option.isNone_iff_eq_none.mp h] at hbuf
          exact Bool.noConfusion hbuf))
        refine ⟨fun hlim => ?_, fun hlim => hreport (hgo.trans (if_neg (Nat.not_lt.mpr hlim)))⟩
        obtain ⟨k, hk⟩ := Option.isSome_iff_exists.mp hk
        obtain ⟨buf, hbuf⟩ := Option.isSome_iff_exists.mp hbuf
        exact ⟨_, hreport (hgo.trans (if_pos hlim)), Dev.freshReport_spec hk hbuf⟩
  case refill =>
    refine hact (F := reportAllowanceRefill) rfl (if_pos ?_)
    rw [Bool.and_eq_true_iff, decide_eq_true_iff]
    exact ⟨hrun, hdue⟩
  case full =>
    refine (hact (F := reportAllowanceRefill) rfl (if_neg ?_)).trans rfl
    rw [Bool.and_eq_true_iff, decide_eq_true_iff]
    rintro ⟨hrun, hdue⟩
    exact hno.elim (fun h => hne h hrun) fun h => absurd hdue (Nat.not_le.mpr h)
  case tree =>
    intro j i due
    have hiff : ¬ d.treeHeld d.nextTree ↔ due := d.not_treeHeld_iff d.nextTree
    refine ⟨fun h => (hact (F := lmsTreeBuild ok) rfl (lmsTreeBuild_of_held hk (not_not.mp fun h' => h (hiff.mp h')))).trans rfl,
      fun h => ?_⟩
    obtain ⟨g, hout, hboot, hgo⟩ := lmsTreeBuild_of_due (ok := ok) hk (hiff.mpr h)
    refine ⟨_, hact (F := lmsTreeBuild ok) rfl hgo, ?_⟩
    cases ok with
    | true => exact ⟨hout, congrArg (fun b : Boot => { b with lmsTrees := (b.lmsTrees.filter fun x => x == j && x != i) ++ [i] }) hboot⟩
    | false => exact ⟨hout, hboot⟩

end Sys2Proof.Machine

/-! ## Requests to the Ledger (R436 to R443) -/
namespace Sys2Proof.Machine
open Sys2Proof

/-! ### The entries of the violation records (R450) -/

theorem single_ne_violation : ∀ e ∈ singles0 ++ singles1, e.1 / 16 ≠ 0x508 := by decide
theorem array_of_violation_range : ∀ a ∈ arrays, a.1 ≤ 0x508F → 256 * (0x5080 - a.1) < a.2.1 → a.1 = 0x5080 := by decide
theorem array_of_violation : ∀ a ∈ arrays, a.1 = 0x5080 → a = (0x5080, 2304, ⟨4, 8, .ro⟩) := by decide

/-- What an array search finds is an array that holds the item. -/
theorem arrayOf_spec {i j : Nat} {b : Nat} {e : Entry} (h : arrayOf i j = some (b, e)) :
    ∃ n, (b, n, e) ∈ arrays ∧ b ≤ i ∧ itemOf b i j < n := by
  obtain ⟨a, ha, hcond⟩ := List.exists_of_findSome?_eq_some h
  split at hcond
  case isTrue hin =>
    obtain ⟨hle, hlt⟩ := hin
    obtain ⟨rfl, rfl⟩ := Prod.mk.inj (Option.some.inj hcond)
    exact ⟨a.2.1, ha, hle, hlt⟩
  case isFalse => exact absurd hcond (by simp)

theorem arrayOf_violation_index {i j : Nat} {e : Entry} (h : arrayOf i j = some (0x5080, e)) : i / 16 = 0x508 := by
  obtain ⟨n, hmem, hle, hlt⟩ := arrayOf_spec h
  obtain ⟨-, hn⟩ := Prod.mk.inj (array_of_violation _ hmem rfl)
  obtain ⟨rfl, -⟩ := Prod.mk.inj hn
  unfold itemOf at hlt
  omega

theorem arrayOf_base_of_violation {i j b : Nat} {e : Entry} (hi : i / 16 = 0x508) (h : arrayOf i j = some (b, e)) : b = 0x5080 := by
  obtain ⟨n, hmem, hle, hlt⟩ := arrayOf_spec h
  unfold itemOf at hlt
  exact array_of_violation_range _ hmem (by dsimp only; omega) (by dsimp only; omega)

theorem entryInfo_of_violation {i j : Nat} (hi : i / 16 = 0x508) : entryInfo i j = (arrayOf i j).map (·.2) := by
  have hnone : (singles0 ++ singles1).find? (fun e => decide (e.1 = i ∧ e.2.1 = j)) = none := by
    rw [List.find?_eq_none]
    intro e he hdec
    obtain ⟨rfl, -⟩ := of_decide_eq_true hdec
    exact single_ne_violation e he hi
  unfold entryInfo
  rw [hnone]

/-- A defined entry of the violation records is one of their array. -/
theorem arrayOf_of_violation {i j : Nat} {e : Entry} (hi : i / 16 = 0x508) (he : entryInfo i j = some e) :
    arrayOf i j = some (0x5080, e) := by
  rw [entryInfo_of_violation hi] at he
  obtain ⟨⟨b, e'⟩, hp, rfl⟩ := Option.map_eq_some_iff.mp he
  obtain rfl := arrayOf_base_of_violation hi hp
  exact hp

theorem scalarRange_of_violation {i j : Nat} (hi : i / 16 = 0x508) : scalarRange i j = none := by
  unfold scalarRange
  split <;> try omega
  rfl

/-- The violation record of a Chest is the item of its number. -/
theorem violation_entry {c : Nat} (hc : c < 2304) :
    indexKnown (0x5080 + c / 256) = true ∧ entryInfo (0x5080 + c / 256) (c % 256) = some ⟨4, 8, .ro⟩ ∧
      itemOf 0x5080 (0x5080 + c / 256) (c % 256) = c := by
  have hi : (0x5080 + c / 256) / 16 = 0x508 := by omega
  have hitem : itemOf 0x5080 (0x5080 + c / 256) (c % 256) = c := by
    unfold itemOf
    omega
  have hmem : ((0x5080, 2304, ⟨4, 8, .ro⟩) : Nat × Nat × Entry) ∈ arrays := by decide
  refine ⟨?_, ?_, hitem⟩
  · unfold indexKnown
    refine Bool.or_eq_true_iff.mpr (.inr (List.any_eq_true.mpr ⟨_, hmem, ?_⟩))
    rw [Bool.and_eq_true_iff, decide_eq_true_iff, decide_eq_true_iff]
    dsimp only
    omega
  · have hsome : (arrayOf (0x5080 + c / 256) (c % 256)).isSome = true := by
      unfold arrayOf
      rw [List.findSome?_isSome_iff]
      refine ⟨_, hmem, ?_⟩
      rewrite [if_pos ⟨Nat.le_add_right _ _, by rw [hitem]; exact hc⟩]
      rfl
    obtain ⟨⟨b, e⟩, hp⟩ := Option.isSome_iff_exists.mp hsome
    obtain rfl := arrayOf_base_of_violation hi hp
    obtain ⟨n, hin, -⟩ := arrayOf_spec hp
    obtain ⟨-, he⟩ := Prod.mk.inj (array_of_violation _ hin rfl)
    obtain ⟨-, rfl⟩ := Prod.mk.inj he
    rewrite [entryInfo_of_violation hi, hp]
    rfl

theorem Dev.entryValue_of_violation {i j : Nat} {e : Entry} (d : Dev) (hi : i / 16 = 0x508) (he : entryInfo i j = some e) :
    d.entryValue i j e = some (leBytes 8 (d.chest (itemOf 0x5080 i j)).violation.toNat) := by
  have harea : i / 0x1000 = 5 := by omega
  unfold Dev.entryValue
  rw [scalarRange_of_violation hi, harea, arrayOf_of_violation hi he]
  have h1 : i ≠ 0x4000 := by omega
  have h2 : i ≠ 0x7000 := by omega
  have h3 : i ≠ 0x6080 := by omega
  exact (if_neg (by decide)).trans ((if_neg h1).trans ((if_neg h2).trans ((if_neg h3).trans rfl)))

/-! ### Reads (R438) -/

section Read
variable {a : Asked} {i j off len : Nat} {d : Dev}

theorem Dev.ledgerRead_of_get {g : Dev} {st total : Nat} {v : Bytes} (h : d.ledgerGet a.req i j off len = (st, v, total, g)) :
    d.ledgerRead a i j off len = g.respond a false i j st total v := by
  unfold Dev.ledgerRead
  rw [h]

theorem Dev.ledgerGet_of_unknown (h : indexKnown i = false) : d.ledgerGet a.req i j off len = (1, [], 0, d) := by
  unfold Dev.ledgerGet
  exact if_pos (by rw [h]; rfl)

theorem Dev.ledgerGet_of_undefined (h : indexKnown i = true) (he : entryInfo i j = none) :
    d.ledgerGet a.req i j off len = (2, [], 0, d) := by
  unfold Dev.ledgerGet
  rw [if_neg (by rw [h]; decide), he]

/-- The entry that a read may leave changed: a violation record is re-armed (R170). -/
def Dev.rearmed (d : Dev) (i j : Nat) : Dev :=
  if i / 16 = 0x508 then d.modChest (itemOf 0x5080 i j) fun x => { x with latched := false } else d

/-- The checks of a read of a defined entry, in their order; g is the device that a good read leaves. -/
def Dev.readChecked (d : Dev) (a : Asked) (i j off len : Nat) (e : Entry) (g : Dev) : Nat × Bytes × Nat × Dev :=
  if (!d.permits a.req false i j 0) = true then (4, [], e.len, d)
  else if e.access = .wo ∨ e.access = .cmd then (3, [], e.len, d)
  else if (!d.served i j) = true then (0x0A, [], e.len, d)
  else match d.entryValue i j e with
    | none => (0x0A, [], e.len, d)
    | some v =>
      if v.length < off + len ∨ pathMax a.req.src < len then (6, [], v.length, d)
      else (0, sub v off len, v.length, g)

variable {e : Entry} (hi : indexKnown i = true) (he : entryInfo i j = some e)
include hi he

theorem Dev.ledgerGet_of_entry : d.ledgerGet a.req i j off len = d.readChecked a i j off len e (d.rearmed i j) := by
  unfold Dev.ledgerGet
  rw [if_neg (by rw [hi]; decide), he]
  refine congrArg (d.readChecked a i j off len e) ?_
  unfold Dev.rearmed
  split
  · next h => rw [if_pos (arrayOf_violation_index h)]
  · next h =>
    refine (if_neg fun hv => ?_).symm
    exact h e (arrayOf_of_violation hv he)

end Read

/-! ### Writes (R438) -/

section Write
variable {a : Asked} {i j off : Nat} {type : Option Nat} {bs : Bytes} {d : Dev}

theorem Dev.ledgerWrite_of_unknown (h : indexKnown i = false) : d.ledgerWrite a i j type off bs = d.respond a true i j 1 0 [] := by
  unfold Dev.ledgerWrite
  exact if_pos (by rw [h]; rfl)

theorem Dev.ledgerWrite_of_undefined (h : indexKnown i = true) (he : entryInfo i j = none) :
    d.ledgerWrite a i j type off bs = d.respond a true i j 2 0 [] := by
  unfold Dev.ledgerWrite
  extract_lets no
  rw [if_neg (by rw [h]; decide), he]

/-- The value of a good write takes effect, or is written to the flash first (R437). -/
def Dev.written (d : Dev) (a : Asked) (i j off : Nat) (bs : Bytes) (e : Entry) : Dev :=
  if (scalarRange i j).any (fun r => r.2.2) = true then d.persistEntry a i j e.len (leVal bs)
  else (d.applyWrite i j off bs).respond a true i j 0 e.len []

/-- The checks of a write of a defined entry, in their order; isCtx says that it is a context's. -/
def Dev.writeChecked (d : Dev) (a : Asked) (i j off : Nat) (type : Option Nat) (bs : Bytes) (e : Entry) (isCtx : Bool) : Dev :=
  let no (st : Nat) : Dev := d.respond a true i j st e.len []
  if (!d.permits a.req true i j (leVal bs)) = true then no 4
  else if e.access = .ro ∨ (isCtx = true ∧ (!ctxFieldOk off bs.length) = true) then no 3
  else if (!d.served i j) = true ∨ (e.access = .rw ∧ (d.entryValue i j e).isNone = true) then no 0x0A
  else if type.any (fun t => t != e.type) = true then no 5
  else if ¬ (i = 0x1010 ∧ j = 1) ∧ (!writeLenOk i j e off bs.length) = true then no 6
  else if e.access ≠ .rw then d.act a i j off bs
  else if d.valueCheck i j off bs ≠ 0 then no (d.valueCheck i j off bs)
  else if d.openFor a.req.src i j = true then no 9
  else d.written a i j off bs e

theorem Dev.ledgerWrite_of_entry {e : Entry} (hi : indexKnown i = true) (he : entryInfo i j = some e) : d.ledgerWrite a i j type off bs =
    d.writeChecked a i j off type bs e ((arrayOf i j).any fun y => y.1 == 0x5000) := by
  unfold Dev.ledgerWrite
  extract_lets no
  rw [if_neg (by rw [hi]; decide), he]
  refine congrArg (d.writeChecked a i j off type bs e) ?_
  rename_i isCtx _ _
  simp only [isCtx]
  split
  · next h =>
    rewrite [h]
    rfl
  · next h =>
    cases hp : arrayOf i j with
    | none => rfl
    | some p => exact (beq_eq_false_iff_ne.mpr fun hb => h p.2 (hp.trans (congrArg some (Prod.ext hb rfl)))).symm

theorem Dev.written_of_persistent {e : Entry} {lo hi : Nat} (h : scalarRange i j = some (lo, hi, true)) :
    d.written a i j off bs e = d.persistEntry a i j e.len (leVal bs) := by
  unfold Dev.written
  rw [h]
  exact if_pos rfl

theorem Dev.written_of_volatile {e : Entry} {lo hi : Nat} (h : scalarRange i j = some (lo, hi, false)) :
    d.written a i j off bs e = (d.setEntry i j (leVal bs)).respond a true i j 0 e.len [] := by
  have happly : d.applyWrite i j off bs = d.setEntry i j (leVal bs) := by
    unfold Dev.applyWrite
    rw [h]
    exact if_pos rfl
  unfold Dev.written
  rw [h, happly]
  exact if_neg fun h => Bool.noConfusion h

theorem Dev.written_of_other {e : Entry} (h : scalarRange i j = none) :
    d.written a i j off bs e = (d.applyWrite i j off bs).respond a true i j 0 e.len [] := by
  unfold Dev.written
  rw [h]
  exact if_neg (by decide)

end Write

/-! ### LEDGER_READ and LEDGER_WRITE of a ring (R371) -/

section Ring
variable {d : Dev} {r : Nat} {c : Cmd} {rest : List Cmd}

/-- Whether the data of a ring's command is neither inline, where as much as most fits, nor in a buffer of the job area. -/
def bufferBad (most buf len : Nat) : Prop := ¬ (buf = 0 ∧ len ≤ most) ∧ (buf = 0 ∨ (!bufferOk buf len) = true)

theorem bufferBad_iff (most buf len : Nat) :
    bufferBad most buf len ↔ (buf ≠ 0 ∨ most < len) ∧ (buf = 0 ∨ 4096 < len ∨ jobEnd < buf + len) := by
  unfold bufferBad bufferOk
  rw [not_and_or, Nat.not_le, Bool.not_eq_true', Bool.and_eq_false_iff, decide_eq_false_iff_not, decide_eq_false_iff_not, Nat.not_le,
    Nat.not_le]

theorem ledgerRead_of_mayStart (h : d.mayStart r 0x20 c rest) : ledgerRead r d =
    let e := c.entry
    let g := d.started r c rest
    let a := ringAsked r d.nextId
    Dev.pump (if ¬ (fld e 16 8 = 0 ∧ fld e 12 2 ≤ 28) ∧ (fld e 16 8 = 0 ∨ (!bufferOk (fld e 16 8) (fld e 12 2)) = true)
      then g.respond a false (fld e 8 2) (byte e 10) 6 0 []
      else g.ledgerRead a (fld e 8 2) (byte e 10) 0 (fld e 12 2)) r pumpMax :=
  (Dev.start_of_mayStart h rfl).trans (congrArg (Dev.pump · r pumpMax) rfl)

theorem ledgerWrite_of_mayStart (h : d.mayStart r 0x21 c rest) : ledgerWrite r d =
    let e := c.entry
    let g := d.started r c rest
    let a := ringAsked r d.nextId
    Dev.pump (if ¬ (fld e 16 8 = 0 ∧ fld e 12 2 ≤ 32) ∧ (fld e 16 8 = 0 ∨ (!bufferOk (fld e 16 8) (fld e 12 2)) = true)
      then g.respond a true (fld e 8 2) (byte e 10) 6 0 []
      else g.ledgerWrite a (fld e 8 2) (byte e 10) none 0
        (if fld e 16 8 = 0 ∧ fld e 12 2 ≤ 32 then sub e 32 (fld e 12 2) else g.memAt (fld e 16 8) (fld e 12 2))) r pumpMax :=
  (Dev.start_of_mayStart h rfl).trans (congrArg (Dev.pump · r pumpMax) rfl)

end Ring

/-! ### The Ledger Access Protocol (R441, R442) -/

section Lap
variable {d : Dev} {op : Nat} {src : ReqSrc} {f : Bytes}

/-- A frame that asks: of the Ledger's request, on the path of its source. -/
def lapAsks (src : ReqSrc) (f : Bytes) : Asked := { req := { cls := .mgmt, src := src, seq := fld f 4 2 }, offset := fld f 12 4 }

theorem Dev.lapServe_of_off (h : d.power.dstate = .off) : d.lapServe op src f {} none = d := by
  unfold Dev.lapServe
  exact if_pos h

variable (hon : d.power.dstate ≠ .off)
include hon

theorem Dev.lapServe_of_bad (h : lapOk src f = false) : d.lapServe op src f {} none = d.bump 0x6080 3 0 := by
  unfold Dev.lapServe
  rw [if_neg hon, if_pos (by rw [h]; rfl)]

variable (hok : lapOk src f = true)
include hok

theorem Dev.lapServe_of_other (h : byte f 3 ≠ op) : d.lapServe op src f {} none = d := by
  unfold Dev.lapServe
  rw [if_neg hon, if_neg (by rw [hok]; decide), if_pos h]

variable (hop : byte f 3 = op)
include hop

theorem Dev.lapServe_of_kept {x : Bytes} (h : d.keptFor src (fld f 4 2) = some x) :
    d.lapServe op src f {} none = ((d.heard src).bump 0x6080 3 2).sendLap (lapAsks src f) x := by
  unfold Dev.lapServe
  rw [if_neg hon, if_neg (by rw [hok]; decide), if_neg (fun h' => h' hop)]
  dsimp only [lapAsked]
  rewrite [h]
  rfl

theorem Dev.lapServe_of_new (h : d.keptFor src (fld f 4 2) = none) : d.lapServe op src f {} none =
    if (d.ledger.asked.any fun b => srcKey b.req.src == srcKey src && b.req.seq == fld f 4 2) = true then d.heard src
    else if op = 1 then (d.heard src).ledgerRead (lapAsks src f) (fld f 8 2) (byte f 10) (fld f 12 4) (fld f 16 2)
    else (d.heard src).lapWriteFrame (lapAsks src f) f := by
  unfold Dev.lapServe
  rw [if_neg hon, if_neg (by rw [hok]; decide), if_neg (fun h' => h' hop)]
  dsimp only [lapAsked]
  rewrite [h]
  rfl

end Lap

section Staging
variable {d : Dev} {src : ReqSrc} {f : Bytes}

/-- Whether an entry is staged for another source. -/
def Dev.stagedElse (d : Dev) (src : ReqSrc) (i j : Nat) : Bool :=
  d.ledger.staging.any fun g => g.index == i && g.sub == j && srcKey g.src != srcKey src

theorem Dev.stagedElse_iff (d : Dev) (src : ReqSrc) (i j : Nat) :
    d.stagedElse src i j = true ↔ ∃ g ∈ d.ledger.staging, g.index = i ∧ g.sub = j ∧ srcKey g.src ≠ srcKey src := by
  unfold Dev.stagedElse
  simp only [List.any_eq_true, Bool.and_eq_true_iff, beq_iff_eq, bne_iff_ne, and_assoc]

theorem Dev.lapWriteFrame_of_recovery (h : fld f 8 2 = 0x1010 ∧ byte f 10 = 1) : d.lapWriteFrame (lapAsks src f) f =
    d.ledgerWrite (lapAsks src f) (fld f 8 2) (byte f 10) (some (byte f 7)) (fld f 12 4) (sub f 24 (fld f 16 2)) := by
  unfold Dev.lapWriteFrame
  exact if_pos h

variable (hentry : ¬ (fld f 8 2 = 0x1010 ∧ byte f 10 = 1))
include hentry

theorem Dev.lapWriteFrame_of_others (h : d.stagedElse src (fld f 8 2) (byte f 10) = true) : d.lapWriteFrame (lapAsks src f) f =
    d.respond (lapAsks src f) true (fld f 8 2) (byte f 10) 9 (((entryInfo (fld f 8 2) (byte f 10)).map fun e => e.len).getD 0) [] := by
  unfold Dev.lapWriteFrame
  exact (if_neg hentry).trans (if_pos h)

variable (hfree : d.stagedElse src (fld f 8 2) (byte f 10) = false)
include hfree

theorem Dev.lapWriteFrame_of_first (h : d.stagingOf src (fld f 8 2) (byte f 10) = none) : d.lapWriteFrame (lapAsks src f) f =
    let a := lapAsks src f
    let i := fld f 8 2
    let j := byte f 10
    let v := sub f 24 (fld f 16 2)
    let total := ((entryInfo i j).map fun e => e.len).getD 0
    if bit (byte f 11) 0 = true then d.ledgerWrite a i j (some (byte f 7)) (fld f 12 4) v
    else if (!indexKnown i) = true then d.respond a true i j 1 0 []
    else if total = 0 then d.respond a true i j 2 0 []
    else if fld f 12 4 ≠ 0 ∨ total < v.length then d.respond a true i j 6 total []
    else (d.stage src i j v).respond a true i j 0 total [] := by
  unfold Dev.lapWriteFrame
  refine (if_neg hentry).trans ((if_neg fun h' => absurd (hfree.symm.trans h') (by decide)).trans ?_)
  dsimp only
  rw [show (lapAsks src f).req.src = src from rfl, h]

theorem Dev.lapWriteFrame_of_staged {g : Staging} (h : d.stagingOf src (fld f 8 2) (byte f 10) = some g) : d.lapWriteFrame (lapAsks src f) f =
    let a := lapAsks src f
    let i := fld f 8 2
    let j := byte f 10
    let v := sub f 24 (fld f 16 2)
    let total := ((entryInfo i j).map fun e => e.len).getD 0
    if fld f 12 4 = 0 then
      if bit (byte f 11) 0 = true then (d.unstage i j).ledgerWrite a i j (some (byte f 7)) 0 v
      else (d.stage src i j v).respond a true i j 0 total []
    else if fld f 12 4 ≠ g.bytes.length ∨ total < fld f 12 4 + v.length then (d.unstage i j).respond a true i j 6 total []
    else if bit (byte f 11) 0 = true then (d.unstage i j).ledgerWrite a i j (some (byte f 7)) 0 (g.bytes ++ v)
    else (d.stage src i j (g.bytes ++ v)).respond a true i j 0 total [] := by
  unfold Dev.lapWriteFrame
  refine (if_neg hentry).trans ((if_neg fun h' => absurd (hfree.symm.trans h') (by decide)).trans ?_)
  dsimp only
  rw [show (lapAsks src f).req.src = src from rfl, h]

end Staging

/-- Settles O55: each check of a request in its order, then the paths by which requests come. -/
theorem ledgerRequestsAreCheckedInOrder : Obligations.LedgerRequestsAreCheckedInOrder := by
  have hne : ∀ {b : Bool}, b = false → ¬ b = true := fun h h' => absurd (h.symm.trans h') (by decide)
  have hnot : ∀ {b : Bool}, b = false → (!b) = true := fun h => (Bool.not_eq_true' _).mpr h
  have hnn : ∀ {b : Bool}, b = true → ¬ (!b) = true := fun h h' => absurd (((Bool.not_eq_true' _).mp h').symm.trans h) (by decide)
  refine ⟨?reads, ?writes, ?rings, ?laps, ?violations⟩
  case reads =>
    intro a i j off len d answers
    have hread : ∀ {st total : Nat} {v : Bytes}, d.ledgerGet a.req i j off len = (st, v, total, d) → answers st total v :=
      fun h => Dev.ledgerRead_of_get h
    refine ⟨fun h => hread (Dev.ledgerGet_of_unknown h), fun h he => hread (Dev.ledgerGet_of_undefined h he), fun e hi he => ?_⟩
    have hget := Dev.ledgerGet_of_entry (a := a) (off := off) (len := len) (d := d) hi he
    refine ⟨fun hp => hread (hget.trans (if_pos (hnot hp))), fun hp => ⟨fun hacc => hread (hget.trans ?kind), fun hacc => ?value⟩⟩
    case kind => exact (if_neg (hnn hp)).trans (if_pos hacc)
    case value =>
      have hkind : ¬ (e.access = .wo ∨ e.access = .cmd) := by
        rcases hacc with h | h
        · rw [h]
          decide
        · rw [h]
          decide
      refine ⟨fun hs => hread (hget.trans ((if_neg (hnn hp)).trans ((if_neg hkind).trans (if_pos (hnot hs))))), fun hs => ?_⟩
      have hserved := hget.trans ((if_neg (hnn hp)).trans ((if_neg hkind).trans (if_neg (hnn hs))))
      refine ⟨fun hv => hread (hserved.trans (by rw [hv])), fun v hv => ?_⟩
      have hvalue : d.ledgerGet a.req i j off len = if v.length < off + len ∨ pathMax a.req.src < len then (6, [], v.length, d)
          else (0, sub v off len, v.length, d.rearmed i j) := hserved.trans (by rw [hv])
      refine ⟨fun h => hread (hvalue.trans (if_pos h)), fun hlen hpath => ?_⟩
      have hgood := hvalue.trans (if_neg fun h => h.elim (fun h => absurd hlen (Nat.not_le.mpr h)) fun h => absurd hpath (Nat.not_le.mpr h))
      unfold Dev.rearmed at hgood
      exact ⟨fun hv => hread (by rw [hgood, if_neg hv]), fun hv => Dev.ledgerRead_of_get (by rw [hgood, if_pos hv])⟩
  case writes =>
    intro a i j off type bs d no isCtx
    refine ⟨Dev.ledgerWrite_of_unknown, Dev.ledgerWrite_of_undefined, fun e hi he => ?_⟩
    have hgo : d.ledgerWrite a i j type off bs = d.writeChecked a i j off type bs e isCtx := Dev.ledgerWrite_of_entry hi he
    refine ⟨fun hp => hgo.trans (if_pos (hnot hp)), fun hp => ?_⟩
    intro part
    have hpart : (isCtx = true ∧ (!ctxFieldOk off bs.length) = true) ↔ part := and_congr Iff.rfl (by rw [Bool.not_eq_true'])
    have hgo1 := hgo.trans (if_neg (hnn hp))
    refine ⟨fun h => hgo1.trans (if_pos (h.imp id hpart.mpr)), fun hro hwhole => ?_⟩
    intro there
    have hthere : ((!d.served i j) = true ∨ (e.access = .rw ∧ (d.entryValue i j e).isNone = true)) ↔ ¬ there := by
      show _ ↔ ¬ (_ ∧ _)
      rw [not_and_or, Bool.not_eq_true', Bool.not_eq_true, Classical.not_imp, Option.isNone_iff_eq_none, Bool.not_eq_true,
        Option.isSome_eq_false_iff, Option.isNone_iff_eq_none]
    have hgo2 := hgo1.trans (if_neg fun h => h.elim hro fun h => hwhole (hpart.mp h))
    refine ⟨fun h => hgo2.trans (if_pos (hthere.mpr h)), fun h => ?_⟩
    have hgo3 := hgo2.trans (if_neg fun h' => hthere.mp h' h)
    refine ⟨fun u hu hne => hgo3.trans (if_pos ?_), fun hall => ?_⟩
    · rw [hu, Option.any_some, bne_iff_ne]
      exact hne
    have htype : ¬ type.any (fun t => t != e.type) = true := by
      cases htype : type with
      | none => exact Bool.noConfusion
      | some u =>
        rw [Option.any_some, bne_iff_ne]
        exact fun h => h (hall u htype)
    have hgo4 := hgo3.trans (if_neg htype)
    intro fits
    have hfits : (¬ (i = 0x1010 ∧ j = 1) ∧ (!writeLenOk i j e off bs.length) = true) ↔ ¬ fits := by
      show _ ↔ ¬ (_ ∨ _)
      rw [not_or, Bool.not_eq_true', Bool.not_eq_true]
    refine ⟨fun h => hgo4.trans (if_pos (hfits.mpr h)), fun h hrw => hgo4.trans ?act, fun h hrw => ?_⟩
    case act => exact (if_neg fun h' => hfits.mp h' h).trans (if_pos hrw)
    intro c
    have hgo5 := hgo4.trans ((if_neg fun h' => hfits.mp h' h).trans (if_neg fun h' => h' hrw))
    refine ⟨fun hc => hgo5.trans (if_pos hc), fun hc hopen => hgo5.trans ((if_neg fun h' => h' hc).trans (if_pos hopen)),
      fun hc hopen => ?_⟩
    have hgo6 := hgo5.trans ((if_neg fun h' => h' hc).trans (if_neg (hne hopen)))
    exact ⟨fun lo hi h => hgo6.trans (Dev.written_of_persistent h), fun lo hi h => hgo6.trans (Dev.written_of_volatile h),
      fun h => hgo6.trans (Dev.written_of_other h)⟩
  case rings =>
    intro r c rest s hr d on g e len buf away a
    have hto : ∀ {i : Instr} {F : Dev → Dev} {t t' : Dev}, exec i s = s.actOn (decide (r < 65)) F → F d = t.pump r pumpMax → t = t' →
        exec i s = on t' := fun hi hF ht => exec_of_actOn hi (decide_eq_true hr) (hF.trans (congrArg (Dev.pump · _ _) ht))
    refine ⟨fun hmay => ?_, fun hmay => ?_⟩
    · have hgo := ledgerRead_of_mayStart hmay
      exact ⟨fun h => hto (F := ledgerRead r) rfl hgo (if_pos ((bufferBad_iff 28 buf len).mpr h)),
        fun h => hto (F := ledgerRead r) rfl hgo (if_neg fun h' => h ((bufferBad_iff 28 buf len).mp h'))⟩
    · have hgo := ledgerWrite_of_mayStart hmay
      refine ⟨fun h => hto (F := ledgerWrite r) rfl hgo (if_pos ((bufferBad_iff 32 buf len).mpr h)),
        fun h => hto (F := ledgerWrite r) rfl hgo ((if_neg fun h' => h ((bufferBad_iff 32 buf len).mp h')).trans ?_)⟩
      have hinline : (buf = 0 ∧ len ≤ 32) ↔ buf = 0 := ⟨And.left, fun h0 => ⟨h0, Nat.not_lt.mp fun hlong => h ⟨.inr hlong, .inl h0⟩⟩⟩
      exact congrArg (fun v => g.ledgerWrite a (fld e 8 2) (byte e 10) none 0 v) (if_congr hinline rfl rfl)
  case laps =>
    intro src f s d on h a i j off v served
    have hto : ∀ {c : Instr} {F : Dev → Dev} {t : Dev}, exec c s = s.act F → F d = t → exec c s = on t := fun hi ht => exec_of_act hi ht
    have hfresh : (∀ b ∈ d.ledger.asked, srcKey b.req.src = srcKey src → b.req.seq ≠ fld f 4 2) →
        ¬ (d.ledger.asked.any fun b => srcKey b.req.src == srcKey src && b.req.seq == fld f 4 2) = true := fun hasked hany => by
      obtain ⟨b, hb, hsame⟩ := List.any_eq_true.mp hany
      rw [Bool.and_eq_true_iff, beq_iff_eq, beq_iff_eq] at hsame
      exact hasked b hb hsame.1 hsame.2
    refine ⟨fun hoff => ⟨(hto (F := lapRead src f) rfl (Dev.lapServe_of_off hoff)).trans rfl,
        (hto (F := lapWrite src f) rfl (Dev.lapServe_of_off hoff)).trans rfl⟩,
      fun hon hbad => ⟨hto (F := lapRead src f) rfl (Dev.lapServe_of_bad hon hbad),
        hto (F := lapWrite src f) rfl (Dev.lapServe_of_bad hon hbad)⟩,
      fun p hp ⟨hon, hok⟩ => ?duplicates, fun ⟨hon, hok⟩ hkept hasked => ⟨fun hop => ?read, fun hop => ?write⟩,
      fun i j hold => ?expired, fun i j hnew => ?kept⟩
    case duplicates =>
      have hrow : ∃ F, exec p.1 s = s.act F ∧ F d = d.lapServe p.2 src f {} none := by
        simp only [List.mem_cons, List.not_mem_nil, or_false] at hp
        rcases hp with rfl | rfl
        · exact ⟨lapRead src f, rfl, rfl⟩
        · exact ⟨lapWrite src f, rfl, rfl⟩
      obtain ⟨F, hF, hserve⟩ := hrow
      refine ⟨fun hop => (hto hF (hserve.trans (Dev.lapServe_of_other hon hok hop))).trans rfl, fun hop =>
        ⟨fun x hx => hto hF (hserve.trans (Dev.lapServe_of_kept hon hok hop hx)), fun hkept hasked =>
          hto hF (hserve.trans ((Dev.lapServe_of_new hon hok hop hkept).trans (if_pos ?_)))⟩⟩
      obtain ⟨b, hb, hsrc, hseq⟩ := hasked
      exact List.any_eq_true.mpr ⟨b, hb, by rw [hsrc, hseq, BEq.rfl, BEq.rfl]; rfl⟩
    case read =>
      refine hto (F := lapRead src f) rfl ((Dev.lapServe_of_new hon hok hop hkept).trans ((if_neg ?_).trans (if_pos rfl)))
      exact hfresh hasked
    case write =>
      have hgo : lapWrite src f d = h.lapWriteFrame a f :=
        (Dev.lapServe_of_new hon hok hop hkept).trans ((if_neg (hfresh hasked)).trans (if_neg (by decide)))
      have hw : ∀ {t}, h.lapWriteFrame a f = t → exec (.lapWrite src f) s = on t := fun ht => hto (F := lapWrite src f) rfl (hgo.trans ht)
      intro last total writes answers others
      have helse : h.stagedElse src i j = true ↔ others := h.stagedElse_iff src i j
      refine ⟨fun hrec => hw (Dev.lapWriteFrame_of_recovery hrec), fun hentry => ⟨fun ho =>
        hw (Dev.lapWriteFrame_of_others hentry (helse.mpr ho)), fun ho hfirst => ?first, fun g ho hstaged => ?staged⟩⟩
      case first =>
        have hf := Dev.lapWriteFrame_of_first hentry (Bool.eq_false_iff.mpr fun h => ho (helse.mp h)) hfirst
        refine ⟨fun hl => hw (hf.trans (if_pos hl)), fun hl hi => hw (hf.trans ((if_neg (hne hl)).trans (if_pos (hnot hi)))), fun hl hi ht =>
          hw (hf.trans ((if_neg (hne hl)).trans ((if_neg (hnn hi)).trans (if_pos ht)))), fun hl hi ht hlong =>
          hw (hf.trans ((if_neg (hne hl)).trans ((if_neg (hnn hi)).trans ((if_neg ht).trans (if_pos hlong))))), fun hl hi ht h0 hfit =>
          hw (hf.trans ((if_neg (hne hl)).trans ((if_neg (hnn hi)).trans ((if_neg ht).trans (if_neg ?_)))))⟩
        exact fun h => h.elim (fun h => h h0) fun h => absurd hfit (Nat.not_le.mpr h)
      case staged =>
        have hf := Dev.lapWriteFrame_of_staged hentry (Bool.eq_false_iff.mpr fun h => ho (helse.mp h)) hstaged
        refine ⟨fun h0 hl => hw (hf.trans ((if_pos h0).trans (if_pos hl))), fun h0 hl => hw (hf.trans ((if_pos h0).trans (if_neg (hne hl)))),
          fun h0 hbad => hw (hf.trans ((if_neg h0).trans (if_pos hbad))), fun h0 hat hfit => ?_⟩
        have hf' := hf.trans ((if_neg h0).trans (if_neg fun h => h.elim (fun h => h hat) fun h => absurd hfit (Nat.not_le.mpr h)))
        exact ⟨fun hl => hw (hf'.trans (if_pos hl)), fun hl => hw (hf'.trans (if_neg (hne hl)))⟩
    case expired =>
      obtain ⟨g, hg, hi, hj, hlast⟩ := hold
      refine (hto (F := lapStagingTimeout i j) rfl (if_pos (List.any_eq_true.mpr ⟨g, hg, ?_⟩))).trans rfl
      rewrite [hi, hj, BEq.rfl, BEq.rfl, decide_eq_true hlast]
      rfl
    case kept =>
      refine (hto (F := lapStagingTimeout i j) rfl (if_neg fun hany => ?_)).trans rfl
      obtain ⟨g, hg, hdue⟩ := List.any_eq_true.mp hany
      simp only [Bool.and_eq_true_iff, beq_iff_eq, decide_eq_true_iff] at hdue
      exact absurd hdue.2 (Nat.not_le.mpr (hnew g hg hdue.1.1 hdue.1.2))
  case violations =>
    intro req c s hc d i tells
    have hto : ∀ {t : Dev}, violationRead req c d = t → exec (.violationRead req c) s = .next { s with dev := { t with now := d.now } } :=
      fun ht => exec_of_actOn (f := violationRead req c) rfl (decide_eq_true hc) ht
    obtain ⟨hknown, hentry, hitem⟩ := violation_entry hc
    have hviol : i / 16 = 0x508 := by
      show (0x5080 + c / 256) / 16 = 0x508
      omega
    have hget := Dev.ledgerGet_of_entry (a := { req := req }) (off := 0) (len := 8) (d := d) hknown hentry
    have hread : d.power.dstate ≠ .off → ∀ {st : Nat} {v : Bytes} {g : Dev}, d.ledgerGet req i (c % 256) 0 8 = (st, v, 8, g) → tells st v g :=
      fun hon _ _ _ hg => hto ((if_neg hon).trans (Dev.ledgerRead_of_get hg))
    refine ⟨fun hoff => (hto (if_pos hoff)).trans rfl, fun hon hp => hread hon (hget.trans (if_pos (hnot hp))), fun hon hp => ?_⟩
    have hserved : d.served i (c % 256) = d.lit := by
      have h1 : i / 0x1000 = 5 := by omega
      have h2 : (i == 0x4000) = false := beq_eq_false_iff_ne.mpr (by omega)
      unfold Dev.served
      rw [h1, h2, Bool.false_and, Bool.or_false]
      cases d.lit with
      | true => rfl
      | false => rfl
    have hgo := hget.trans ((if_neg (hnn hp)).trans (if_neg (by decide)))
    refine ⟨fun hdark => hread hon (hgo.trans (if_pos (by rw [hserved, hdark]; rfl))), fun hlit => hread hon ?_⟩
    have hval := d.entryValue_of_violation hviol hentry
    have hfit : ¬ ((leBytes 8 (d.chest c).violation.toNat).length < 0 + 8 ∨ pathMax req.src < 8) := by
      rw [leBytes_length]
      unfold pathMax
      split <;> omega
    refine hgo.trans ((if_neg (by rw [hserved, hlit]; decide)).trans ?_)
    rw [hval, hitem]
    refine (if_neg hfit).trans ?_
    unfold Dev.rearmed
    rw [if_pos hviol, hitem, sub_of_le (by rw [leBytes_length]), List.drop_zero, List.take_of_length_le (by rw [leBytes_length]),
      leBytes_length]

end Sys2Proof.Machine

/-! ## The commands of the Ledger (R406, R391, R392, R446 to R452) -/
namespace Sys2Proof.Machine
open Sys2Proof

/-! ### A command that is a request for one entry -/

/-- A defined entry that a write acts on: a command, or data that is only written. -/
def IsCommand (i j : Nat) (e : Entry) : Prop :=
  indexKnown i = true ∧ entryInfo i j = some e ∧ ((arrayOf i j).any fun y => y.1 == 0x5000) = false ∧ e.access ≠ .ro ∧ e.access ≠ .rw

theorem isCommand_peerinv : IsCommand 0x4003 0 ⟨2, 2, .cmd⟩ := by unfold IsCommand; decide
theorem isCommand_retrain : ∀ p, p < 18 → IsCommand 0x4012 p ⟨1, 1, .cmd⟩ ∧ writeLenOk 0x4012 p ⟨1, 1, .cmd⟩ 0 1 = true := by
  unfold IsCommand
  decide
theorem isCommand_qreset : IsCommand 0x50C0 0 ⟨2, 2, .cmd⟩ := by unfold IsCommand; decide
theorem isCommand_logclear : IsCommand 0x7000 1 ⟨1, 1, .cmd⟩ := by unfold IsCommand; decide
theorem isCommand_dreq : IsCommand 0x2000 2 ⟨1, 1, .cmd⟩ := by unfold IsCommand; decide
theorem isCommand_owner : IsCommand 0x1004 1 ⟨9, 3652, .cmd⟩ := by unfold IsCommand; decide
theorem isCommand_minver : IsCommand 0x1005 1 ⟨9, 3460, .cmd⟩ := by unfold IsCommand; decide

section Ask
variable {d : Dev} {req : Requester} {i j off : Nat} {bs : Bytes} {e : Entry}

theorem Dev.ask_of_off (h : d.power.dstate = .off) : d.ask req i j off bs = d := by
  unfold Dev.ask
  exact if_pos h

variable (hon : d.power.dstate ≠ .off) (hcmd : IsCommand i j e)
include hon hcmd

theorem Dev.ask_of_command : d.ask req i j off bs = let a : Asked := { req := req, offset := off }
    if (!d.permits req true i j (leVal bs)) = true then d.respond a true i j 4 e.len []
    else if (!d.served i j) = true then d.respond a true i j 0x0A e.len []
    else if ¬ (i = 0x1010 ∧ j = 1) ∧ (!writeLenOk i j e off bs.length) = true then d.respond a true i j 6 e.len []
    else d.act a i j off bs := by
  obtain ⟨hi, he, hctx, hro, hrw⟩ := hcmd
  unfold Dev.ask
  rw [if_neg hon, Dev.ledgerWrite_of_entry hi he, hctx]
  unfold Dev.writeChecked
  dsimp only
  have hkind : ¬ (e.access = .ro ∨ (false = true ∧ (!ctxFieldOk off bs.length) = true)) :=
    fun h => h.elim hro fun h => Bool.noConfusion h.1
  rw [if_neg hkind, if_pos hrw]
  refine if_congr Iff.rfl rfl (if_congr ?_ rfl ((if_neg Bool.noConfusion).trans rfl))
  exact ⟨fun h => h.elim id fun h => absurd h.1 hrw, .inl⟩

theorem Dev.ask_of_forbidden (h : d.permits req true i j (leVal bs) = false) :
    d.ask req i j off bs = d.respond { req := req, offset := off } true i j 4 e.len [] :=
  (Dev.ask_of_command hon hcmd).trans (if_pos (by rw [h]; rfl))

variable (hperm : d.permits req true i j (leVal bs) = true)
include hperm

theorem Dev.ask_of_unserved (h : d.served i j = false) :
    d.ask req i j off bs = d.respond { req := req, offset := off } true i j 0x0A e.len [] :=
  (Dev.ask_of_command hon hcmd).trans ((if_neg (by rw [hperm]; decide)).trans (if_pos (by rw [h]; rfl)))

variable (hserved : d.served i j = true)
include hserved

theorem Dev.ask_of_badLen (hdata : ¬ (i = 0x1010 ∧ j = 1)) (h : writeLenOk i j e off bs.length = false) :
    d.ask req i j off bs = d.respond { req := req, offset := off } true i j 6 e.len [] :=
  (Dev.ask_of_command hon hcmd).trans
    ((if_neg (by rw [hperm]; decide)).trans ((if_neg (by rw [hserved]; decide)).trans (if_pos ⟨hdata, by rw [h]; rfl⟩)))

theorem Dev.ask_acts (h : (i = 0x1010 ∧ j = 1) ∨ writeLenOk i j e off bs.length = true) :
    d.ask req i j off bs = d.act { req := req, offset := off } i j off bs :=
  (Dev.ask_of_command hon hcmd).trans
    ((if_neg (by rw [hperm]; decide)).trans ((if_neg (by rw [hserved]; decide)).trans (if_neg fun h' =>
      h.elim h'.1 fun h => absurd (h.symm.trans ((Bool.not_eq_true' _).mp h'.2)) (by decide))))

end Ask

/-! ### Classes (R436) -/

theorem Dev.permits_of_mgmt (d : Dev) {req : Requester} (h : req.cls = .mgmt) (w : Bool) (i j v : Nat) : d.permits req w i j v = true := by
  unfold Dev.permits
  dsimp only
  rw [h]

theorem Dev.permits_of_mgmtOnly (d : Dev) {req : Requester} {i j : Nat} (h : req.cls ≠ .mgmt) (hm : mgmtOnly i j = true) (v : Nat) :
    d.permits req true i j v = false := by
  have harea : i / 0x1000 ≠ 5 ∧ i / 0x1000 ≠ 6 := by
    simp only [mgmtOnly, Bool.or_eq_true_iff, Bool.and_eq_true_iff, beq_iff_eq] at hm
    omega
  unfold Dev.permits
  dsimp only
  cases hc : req.cls with
  | mgmt => exact absurd hc h
  | host => exact (if_neg harea.1).trans (if_neg harea.2)
  | peer => rfl
  | fw =>
    rewrite [hm]
    rfl

theorem Dev.served_warden (d : Dev) (i j : Nat) (h : i / 0x1000 = 1 ∨ i / 0x1000 = 2 ∨ i / 0x1000 = 7) : d.served i j = true := by
  unfold Dev.served
  simp only [Bool.or_eq_true_iff, beq_iff_eq]
  omega

theorem Dev.served_of_lit (d : Dev) {i : Nat} (j : Nat) (h : i / 0x1000 ≠ 1 ∧ i / 0x1000 ≠ 2 ∧ i / 0x1000 ≠ 7 ∧ i ≠ 0x4000) :
    d.served i j = d.lit := by
  obtain ⟨h1, h2, h7, h4⟩ := h
  unfold Dev.served
  rw [beq_eq_false_iff_ne.mpr h1, beq_eq_false_iff_ne.mpr h2, beq_eq_false_iff_ne.mpr h7, beq_eq_false_iff_ne.mpr h4, Bool.or_false,
    Bool.or_false, Bool.or_false, Bool.false_and, Bool.or_false]

/-! ### The acts -/

theorem leVal_word {n : Nat} (h : n < 65536) : leVal (leBytes 2 n) = n := by
  rw [leVal_leBytes]
  exact Nat.mod_eq_of_lt h

section Acts
variable {d : Dev} {a : Asked} {bs : Bytes}

theorem Dev.act_peerinv : d.act a 0x4003 0 0 bs =
    if leVal bs < 16384 then (d.dropPeer (leVal bs)).respond a true 0x4003 0 0 bs.length []
    else d.respond a true 0x4003 0 7 bs.length [] := rfl

theorem Dev.act_retrain (p : Nat) (h : leVal bs = 1) : d.act a 0x4012 p 0 bs =
    if (d.port p).st = .up ∨ (d.port p).st = .mgmtOnly ∨ (d.port p).st = .loop
      then (d.retrainPort p).respond a true 0x4012 p 0 bs.length []
    else d.respond a true 0x4012 p 8 bs.length [] :=
  if_neg fun h' => h' h

theorem Dev.act_qreset : d.act a 0x50C0 0 0 bs =
    if leVal bs % 4096 < 2304 then (d.resetQueue (leVal bs % 4096) (leVal bs / 4096)).respond a true 0x50C0 0 0 bs.length []
    else d.respond a true 0x50C0 0 7 bs.length [] := rfl

theorem Dev.act_logclear (h : leVal bs = 1) : d.act a 0x7000 1 0 bs =
    ((d.modLedger fun l => { l with log := [] }).await a).flashOp [(0x06520000, 0x40000)] [] (.answer a.req 0x7000 1) :=
  if_neg fun h' => h' h

theorem Dev.act_dreqAon (h : leVal bs = 1) : d.act a 0x2000 2 0 bs = d.reqAon a := if_pos h
theorem Dev.act_dreqReady (h : leVal bs = 2) : d.act a 0x2000 2 0 bs = d.reqReady a :=
  (if_neg (by rw [h]; decide)).trans (if_pos h)
theorem Dev.act_owner : d.act a 0x1004 1 0 bs = d.ownerInstall a bs := rfl
theorem Dev.act_minver : d.act a 0x1005 1 0 bs = d.minverInstall a bs := rfl

theorem Dev.reqAon_eq (d : Dev) (a : Asked) : d.reqAon a =
    if d.power.dstate = .ready ∧ ((∀ p ∈ List.range 18, (d.port p).st ≠ .up) ∨ d.elveel.drain = .drained)
      then (d.respond a true 0x2000 2 0 1 []).lowerRails else d.respond a true 0x2000 2 8 1 [] := by
  have hports : (!(List.range 18).any fun p => (d.port p).st == .up) = true ↔ ∀ p ∈ List.range 18, (d.port p).st ≠ .up := by
    rw [Bool.not_eq_true', List.any_eq_false]
    exact forall₂_congr fun p _ => by rw [beq_iff_eq]
  unfold Dev.reqAon
  exact if_congr (and_congr Iff.rfl (or_congr hports Iff.rfl)) rfl rfl

theorem Dev.ownerInstall_eq (d : Dev) (a : Asked) (x : Bytes) : d.ownerInstall a x =
    if ownerOk d.ident x = true ∧ ownerSerial d.boot.ownerCert < ownerSerial x
    then let o := d.olderCopy owner0 owner1 3652 (ownerOk d.ident) ownerSerial
      (d.await a).flashOp [(o, 0x10000)] [(o, x)] (.answer a.req 0x1004 1)
    else d.respond a true 0x1004 1 7 3652 [] := by
  have hbad : ((!ownerOk d.ident x) = true ∨ ownerSerial x ≤ ownerSerial d.boot.ownerCert) ↔
      ¬ (ownerOk d.ident x = true ∧ ownerSerial d.boot.ownerCert < ownerSerial x) := by
    rw [not_and_or, Bool.not_eq_true', Bool.not_eq_true, Nat.not_lt]
  unfold Dev.ownerInstall
  by_cases h : ownerOk d.ident x = true ∧ ownerSerial d.boot.ownerCert < ownerSerial x
  · exact (if_neg fun h' => hbad.mp h' h).trans (if_pos h).symm
  · exact (if_pos (hbad.mpr h)).trans (if_neg h).symm

theorem Dev.minverInstall_eq (d : Dev) (a : Asked) (x : Bytes) : d.minverInstall a x =
    if minverOk d.ident x = true ∧ minverSeq d.boot.minver < minverSeq x ∧ minverSvn d.boot.minver ≤ minverSvn x
      ∧ minverSvn x ≤ fld d.boot.header 20 4 ∧ minverSvn x ≤ fld (d.flashAt (sourceAt 2) 576) 20 4
    then let o := d.olderCopy minver0 minver1 3460 (minverOk d.ident) minverSeq
      (d.await a).flashOp [(o, 0x10000)] [(o, x)] (.answer a.req 0x1005 1)
    else d.respond a true 0x1005 1 7 3460 [] := by
  have hlow : d.lowestSvn < minverSvn x ↔ ¬ (minverSvn x ≤ fld d.boot.header 20 4 ∧ minverSvn x ≤ fld (d.flashAt (sourceAt 2) 576) 20 4) := by
    unfold Dev.lowestSvn
    rw [← Nat.le_min, Nat.not_le]
  have hbad : ((!minverOk d.ident x) = true ∨ minverSeq x ≤ minverSeq d.boot.minver ∨ minverSvn x < minverSvn d.boot.minver
      ∨ d.lowestSvn < minverSvn x) ↔ ¬ (minverOk d.ident x = true ∧ minverSeq d.boot.minver < minverSeq x ∧
        minverSvn d.boot.minver ≤ minverSvn x ∧ minverSvn x ≤ fld d.boot.header 20 4 ∧
        minverSvn x ≤ fld (d.flashAt (sourceAt 2) 576) 20 4) := by
    simp only [hlow, not_and_or, Bool.not_eq_true', Bool.not_eq_true, Nat.not_lt, Nat.not_le]
  unfold Dev.minverInstall
  by_cases h : minverOk d.ident x = true ∧ minverSeq d.boot.minver < minverSeq x ∧ minverSvn d.boot.minver ≤ minverSvn x
      ∧ minverSvn x ≤ fld d.boot.header 20 4 ∧ minverSvn x ≤ fld (d.flashAt (sourceAt 2) 576) 20 4
  · exact (if_neg fun h' => hbad.mp h' h).trans (if_pos h).symm
  · exact (if_pos (hbad.mpr h)).trans (if_neg h).symm

end Acts

theorem writeLenOk_owner (n : Nat) : writeLenOk 0x1004 1 ⟨9, 3652, .cmd⟩ 0 n = (n == 3652) := rfl
theorem writeLenOk_minver (n : Nat) : writeLenOk 0x1005 1 ⟨9, 3460, .cmd⟩ 0 n = (n == 3460) := rfl

/-! ### The commands while the device is not off -/

section Commands
variable {d : Dev} {req : Requester} (hon : d.power.dstate ≠ .off)
include hon

/-- A command of service (R440): its class, the device's state, then its act. -/
theorem Dev.ask_in_service {i j n : Nat} {bs : Bytes} {e : Entry} {g : Dev} (hcmd : IsCommand i j e) (hv : leVal bs = n)
    (harea : i / 0x1000 ≠ 1 ∧ i / 0x1000 ≠ 2 ∧ i / 0x1000 ≠ 7 ∧ i ≠ 0x4000) (hbs : bs.length = e.len) (hlen : writeLenOk i j e 0 e.len = true)
    (hact : d.act { req := req } i j 0 bs = g) : d.ask req i j 0 bs =
      if d.permits req true i j n = false then d.respond { req := req } true i j 4 e.len []
      else if d.lit = false then d.respond { req := req } true i j 0x0A e.len [] else g := by
  subst hv
  by_cases hp : d.permits req true i j (leVal bs) = false
  · rw [if_pos hp]
    exact Dev.ask_of_forbidden hon hcmd hp
  · have hperm := Bool.eq_true_of_not_eq_false hp
    rw [if_neg hp]
    have hserved := d.served_of_lit j harea
    by_cases hlit : d.lit = false
    · rw [if_pos hlit]
      exact Dev.ask_of_unserved hon hcmd hperm (hserved.trans hlit)
    · rw [if_neg hlit, ← hact]
      exact Dev.ask_acts hon hcmd hperm (hserved.trans (Bool.eq_true_of_not_eq_false hlit)) (.inr (by rw [hbs]; exact hlen))

theorem peerinv_eq {n : Nat} (hn : n < 65536) : peerinv req n d =
    if d.permits req true 0x4003 0 n = false then d.respond { req := req } true 0x4003 0 4 2 []
    else if d.lit = false then d.respond { req := req } true 0x4003 0 0x0A 2 []
    else if n < 16384 then (d.dropPeer n).respond { req := req } true 0x4003 0 0 2 []
    else d.respond { req := req } true 0x4003 0 7 2 [] := by
  have hact := Dev.act_peerinv (d := d) (a := { req := req }) (bs := leBytes 2 n)
  rw [leVal_word hn, leBytes_length] at hact
  have hgo := Dev.ask_in_service hon isCommand_peerinv (leVal_word hn) (by decide) (leBytes_length 2 n) (by decide) hact
  exact hgo

theorem retrain_eq {p : Nat} (hp : p < 18) : retrain req p d =
    if d.permits req true 0x4012 p 1 = false then d.respond { req := req } true 0x4012 p 4 1 []
    else if d.lit = false then d.respond { req := req } true 0x4012 p 0x0A 1 []
    else if (d.port p).st = .up ∨ (d.port p).st = .mgmtOnly ∨ (d.port p).st = .loop
      then (d.retrainPort p).respond { req := req } true 0x4012 p 0 1 []
    else d.respond { req := req } true 0x4012 p 8 1 [] := by
  have hone : leVal (leBytes 1 1) = 1 := by decide
  have hact := Dev.act_retrain (d := d) (a := { req := req }) p hone
  rw [leBytes_length] at hact
  obtain ⟨hcmd, hlen⟩ := isCommand_retrain p hp
  have hgo := Dev.ask_in_service hon hcmd hone (by decide) (leBytes_length 1 1) hlen hact
  exact hgo

theorem qreset_eq {v : Nat} (hv : v < 65536) : qreset req v d =
    if d.permits req true 0x50C0 0 v = false then d.respond { req := req } true 0x50C0 0 4 2 []
    else if d.lit = false then d.respond { req := req } true 0x50C0 0 0x0A 2 []
    else if v % 4096 < 2304 then (d.resetQueue (v % 4096) (v / 4096)).respond { req := req } true 0x50C0 0 0 2 []
    else d.respond { req := req } true 0x50C0 0 7 2 [] := by
  have hact := Dev.act_qreset (d := d) (a := { req := req }) (bs := leBytes 2 v)
  rw [leVal_word hv, leBytes_length] at hact
  have hgo := Dev.ask_in_service hon isCommand_qreset (leVal_word hv) (by decide) (leBytes_length 2 v) (by decide) hact
  exact hgo

/-- An entry that is always served: where the class permits it and the length is right, the command acts. -/
theorem Dev.ask_at_warden {i j n : Nat} {bs : Bytes} {e : Entry} {g : Dev} (hcmd : IsCommand i j e) (hv : leVal bs = n)
    (hp : d.permits req true i j n = true) (harea : i / 0x1000 = 1 ∨ i / 0x1000 = 2 ∨ i / 0x1000 = 7)
    (hlen : writeLenOk i j e 0 bs.length = true) (hact : d.act { req := req } i j 0 bs = g) : d.ask req i j 0 bs = g :=
  (Dev.ask_acts hon hcmd (by rw [hv]; exact hp) (d.served_warden _ _ harea) (.inr hlen)).trans hact

theorem logclear_of_forbidden (hp : d.permits req true 0x7000 1 1 = false) :
    logclear req d = d.respond { req := req } true 0x7000 1 4 1 [] := by
  have hone : leVal (leBytes 1 1) = 1 := by decide
  have hgo := Dev.ask_of_forbidden (off := 0) (bs := leBytes 1 1) hon isCommand_logclear (by rw [hone]; exact hp)
  exact hgo

theorem logclear_of_permitted (hp : d.permits req true 0x7000 1 1 = true) : logclear req d =
    { d with
      ledger := { d.ledger with log := [], asked := d.ledger.asked ++ [{ req := req }] }
      boot := { d.boot with
        flashOps := d.boot.flashOps ++ [{ erase := [(0x06520000, 0x40000)], prog := [], andThen := .answer req 0x7000 1 }] } } := by
  have hact := Dev.act_logclear (d := d) (a := { req := req }) (bs := leBytes 1 1) (by decide)
  have hgo := Dev.ask_at_warden hon isCommand_logclear (by decide) hp (by decide) (by decide) hact
  exact hgo.trans rfl

variable (hm : req.cls = .mgmt)
include hm

theorem dreqDAon_of_mgmt : dreqDAon req d = d.reqAon { req := req } := by
  have hact := Dev.act_dreqAon (d := d) (a := { req := req }) (bs := leBytes 1 1) (by decide)
  have hgo := Dev.ask_at_warden hon isCommand_dreq rfl (d.permits_of_mgmt hm _ _ _ _) (by decide) (by decide) hact
  exact hgo

theorem dreqDReady_of_mgmt : dreqDReady req d = d.reqReady { req := req } := by
  have hact := Dev.act_dreqReady (d := d) (a := { req := req }) (bs := leBytes 1 2) (by decide)
  have hgo := Dev.ask_at_warden hon isCommand_dreq rfl (d.permits_of_mgmt hm _ _ _ _) (by decide) (by decide) hact
  exact hgo

theorem ownerInstall_of_mgmt {x : Bytes} (hx : x.length = 3652) : ownerInstall req x d = d.ownerInstall { req := req } x := by
  have hgo := Dev.ask_at_warden hon isCommand_owner rfl (d.permits_of_mgmt hm _ _ _ _) (by decide)
    ((writeLenOk_owner _).trans (beq_iff_eq.mpr hx)) (Dev.act_owner (a := { req := req }))
  exact hgo

theorem minverInstall_of_mgmt {x : Bytes} (hx : x.length = 3460) : minverInstall req x d = d.minverInstall { req := req } x := by
  have hgo := Dev.ask_at_warden hon isCommand_minver rfl (d.permits_of_mgmt hm _ _ _ _) (by decide)
    ((writeLenOk_minver _).trans (beq_iff_eq.mpr hx)) (Dev.act_minver (a := { req := req }))
  exact hgo

theorem ownerInstall_of_badLen {x : Bytes} (hx : x.length ≠ 3652) :
    ownerInstall req x d = d.respond { req := req } true 0x1004 1 6 3652 [] := by
  have hgo := Dev.ask_of_badLen hon isCommand_owner (d.permits_of_mgmt hm true 0x1004 1 (leVal x)) (d.served_warden _ _ (by decide))
    (by decide) ((writeLenOk_owner _).trans (beq_eq_false_iff_ne.mpr hx))
  exact hgo

theorem minverInstall_of_badLen {x : Bytes} (hx : x.length ≠ 3460) :
    minverInstall req x d = d.respond { req := req } true 0x1005 1 6 3460 [] := by
  have hgo := Dev.ask_of_badLen hon isCommand_minver (d.permits_of_mgmt hm true 0x1005 1 (leVal x)) (d.served_warden _ _ (by decide))
    (by decide) ((writeLenOk_minver _).trans (beq_eq_false_iff_ne.mpr hx))
  exact hgo

end Commands

/-- A command of a class that its entry does not let in. -/
theorem Dev.ask_of_mgmtOnly {d : Dev} {req : Requester} {i j : Nat} {e : Entry} (hon : d.power.dstate ≠ .off) (hcmd : IsCommand i j e)
    (hm : req.cls ≠ .mgmt) (honly : mgmtOnly i j = true) (off : Nat) (bs : Bytes) :
    d.ask req i j off bs = d.respond { req := req, offset := off } true i j 4 e.len [] :=
  Dev.ask_of_forbidden hon hcmd (d.permits_of_mgmtOnly hm honly _)

/-- Settles O56: each command is a request for its entry; what it needs, and its act. -/
theorem ledgerCommandsAct : Obligations.LedgerCommandsAct := by
  refine ⟨fun req n p v x s hoff hn hp hv i hi => ?off, fun req s hon => ?on⟩
  case off =>
    have hact : ∀ {c : Instr} {F : Dev → Dev}, exec c s = s.act F → F s.dev = s.dev → exec c s = .next s :=
      fun hc hF => (exec_of_act hc hF).trans rfl
    have hactOn : ∀ {c : Instr} {F : Dev → Dev} {b : Bool}, exec c s = s.actOn b F → b = true → F s.dev = s.dev → exec c s = .next s :=
      fun hc hb hF => (exec_of_actOn hc hb hF).trans rfl
    simp only [List.mem_cons, List.not_mem_nil, or_false] at hi
    rcases hi with rfl | rfl | rfl | rfl | rfl | rfl | rfl | rfl | rfl | rfl | rfl | rfl
    · exact hactOn (F := peerinv req n) rfl (decide_eq_true hn) (if_pos hoff)
    · exact hactOn (F := retrain req p) rfl (decide_eq_true hp) (if_pos hoff)
    · exact hactOn (F := qreset req v) rfl (decide_eq_true hv) (if_pos hoff)
    · exact hact (F := logclear req) rfl (if_pos hoff)
    · exact hact (F := dreqDAon req) rfl (if_pos hoff)
    · exact hact (F := dreqDReady req) rfl (if_pos hoff)
    · exact hact (F := ownerInstall req x) rfl (if_pos hoff)
    · exact hact (F := minverInstall req x) rfl (if_pos hoff)
    · exact hact (F := recoveryBegin req n v) rfl (if_pos hoff)
    · exact hact (F := recoveryData req n x) rfl (if_pos hoff)
    · exact hact (F := recoveryCommit req) rfl (if_pos hoff)
    · exact hact (F := recoveryAbort req) rfl (if_pos hoff)
  case on =>
    intro d a on tells
    have hact : ∀ {c : Instr} {F : Dev → Dev} {t : Dev}, exec c s = s.act F → F d = t → exec c s = on t := fun hc hF => exec_of_act hc hF
    have hpick : ∀ {p : Prop} [Decidable p] {x y : Dev}, on (if p then x else y) = if p then on x else on y := fun {p} _ _ _ =>
      apply_ite on p _ _
    have hne : ∀ {b : Bool}, b = true → ¬ b = false := fun h h' => absurd (h.symm.trans h') (by decide)
    refine ⟨fun n hn => ?peerinv, fun p hp => ?retrain, fun v hv => ?qreset, fun hp => ?noClear, fun hp => ?clear, fun hm => ?mgmt,
      fun hm => ?others⟩
    case peerinv =>
      have hto : ∀ {t}, peerinv req n d = t → exec (.peerinv req n) s = on t := fun ht => exec_of_actOn (f := peerinv req n) rfl (decide_eq_true hn) ht
      refine ⟨fun hp => hto ((peerinv_eq hon hn).trans (if_pos hp)), fun hp => ?_⟩
      refine (hto ((peerinv_eq hon hn).trans (if_neg (hne hp)))).trans ?_
      rewrite [hpick, hpick]
      rfl
    case retrain =>
      have hto : ∀ {t}, retrain req p d = t → exec (.retrain req p) s = on t := fun ht => exec_of_actOn (f := retrain req p) rfl (decide_eq_true hp) ht
      refine ⟨fun hno => hto ((retrain_eq hon hp).trans (if_pos hno)), fun hyes => ?_⟩
      refine (hto ((retrain_eq hon hp).trans (if_neg (hne hyes)))).trans ?_
      rw [hpick, hpick]
    case qreset =>
      have hto : ∀ {t}, qreset req v d = t → exec (.qreset req v) s = on t := fun ht => exec_of_actOn (f := qreset req v) rfl (decide_eq_true hv) ht
      refine ⟨fun hp => hto ((qreset_eq hon hv).trans (if_pos hp)), fun hp => ?_⟩
      refine (hto ((qreset_eq hon hv).trans (if_neg (hne hp)))).trans ?_
      rewrite [hpick, hpick]
      rfl
    case noClear => exact hact (F := logclear req) rfl (logclear_of_forbidden hon hp)
    case clear => exact hact (F := logclear req) rfl (logclear_of_permitted hon hp)
    case mgmt =>
      refine ⟨?aon, ?ready, fun x hx => ?owner, fun x hx => hact (F := ownerInstall req x) rfl (ownerInstall_of_badLen hon hm hx),
        fun x hx => ?minver, fun x hx => hact (F := minverInstall req x) rfl (minverInstall_of_badLen hon hm hx)⟩
      case aon =>
        refine (hact (F := dreqDAon req) rfl ((dreqDAon_of_mgmt hon hm).trans (d.reqAon_eq a))).trans ?_
        rw [hpick]
      case ready =>
        refine (hact (F := dreqDReady req) rfl (dreqDReady_of_mgmt hon hm)).trans ?_
        unfold Dev.reqReady
        rw [hpick]
      case owner =>
        refine (hact (F := ownerInstall req x) rfl ((ownerInstall_of_mgmt hon hm hx).trans (d.ownerInstall_eq a x))).trans ?_
        rw [hpick]
      case minver =>
        refine (hact (F := minverInstall req x) rfl ((minverInstall_of_mgmt hon hm hx).trans (d.minverInstall_eq a x))).trans ?_
        rw [hpick]
    case others =>
      have haon := Dev.ask_of_mgmtOnly hon isCommand_dreq hm rfl 0 (leBytes 1 1)
      have hready := Dev.ask_of_mgmtOnly hon isCommand_dreq hm rfl 0 (leBytes 1 2)
      exact ⟨hact (F := dreqDAon req) rfl haon, hact (F := dreqDReady req) rfl hready,
        fun x => hact (F := ownerInstall req x) rfl (Dev.ask_of_mgmtOnly hon isCommand_owner hm rfl 0 x),
        fun x => hact (F := minverInstall req x) rfl (Dev.ask_of_mgmtOnly hon isCommand_minver hm rfl 0 x)⟩

end Sys2Proof.Machine

/-! ## Recovery and the operations of the flash (R380, R389, R446, R447) -/
namespace Sys2Proof.Machine
open Sys2Proof

theorem isCommand_recBegin : IsCommand 0x1010 0 ⟨9, 8, .cmd⟩ := by unfold IsCommand; decide
theorem isCommand_recData : IsCommand 0x1010 1 ⟨8, 33554432, .wo⟩ := by unfold IsCommand; decide
theorem isCommand_recCommit : IsCommand 0x1010 2 ⟨1, 1, .cmd⟩ := by unfold IsCommand; decide

/-! ### The value of RECOVERY_BEGIN (R446) -/

section BeginValue
variable (slot total : Nat)

theorem beginValue_length : (layout 8 [(0, 1, slot), (4, 4, total)]).length = 8 := rfl
theorem beginValue_zero : zeroAt (layout 8 [(0, 1, slot), (4, 4, total)]) 1 3 = true := rfl
theorem beginValue_slot (h : slot < 256) : byte (layout 8 [(0, 1, slot), (4, 4, total)]) 0 = slot := by
  have hbyte : byte (layout 8 [(0, 1, slot), (4, 4, total)]) 0 = leVal (leBytes 1 slot) := rfl
  rw [hbyte, leVal_leBytes]
  exact Nat.mod_eq_of_lt h
theorem beginValue_total (h : total < 2 ^ 32) : fld (layout 8 [(0, 1, slot), (4, 4, total)]) 4 4 = total := by
  have hword : fld (layout 8 [(0, 1, slot), (4, 4, total)]) 4 4 = leVal (leBytes 4 total) := rfl
  rw [hword, leVal_leBytes]
  exact Nat.mod_eq_of_lt h

end BeginValue

/-! ### The requests of a recovery (R389) -/

section Requests
variable {d : Dev} {req : Requester} (hon : d.power.dstate ≠ .off) (hm : req.cls = .mgmt)

theorem Dev.act_recBegin (a : Asked) {bs : Bytes} (h : zeroAt bs 1 3 = true) :
    d.act a 0x1010 0 0 bs = d.recBegin a (byte bs 0) (fld bs 4 4) := if_pos h
theorem Dev.act_recData (a : Asked) (off : Nat) (bs : Bytes) : d.act a 0x1010 1 off bs = d.recData a off bs := rfl
theorem Dev.act_recCommit (a : Asked) {bs : Bytes} (h : leVal bs = 1) : d.act a 0x1010 2 0 bs = d.recCommit a := if_pos h
theorem Dev.act_recAbort (a : Asked) {bs : Bytes} (h : leVal bs = 2) : d.act a 0x1010 2 0 bs = d.recAbort a :=
  (if_neg (by rw [h]; decide)).trans (if_pos h)

include hon hm

theorem recoveryBegin_of_mgmt {slot total : Nat} (hslot : slot < 256) (htotal : total < 2 ^ 32) :
    recoveryBegin req slot total d = d.recBegin { req := req } slot total := by
  have hact := Dev.act_recBegin (d := d) { req := req } (beginValue_zero slot total)
  rw [beginValue_slot slot total hslot, beginValue_total slot total htotal] at hact
  have hgo := Dev.ask_at_warden hon isCommand_recBegin rfl (d.permits_of_mgmt hm _ _ _ _) (by decide)
    (by rw [beginValue_length]; decide) hact
  exact hgo

theorem recoveryData_of_mgmt (off : Nat) (x : Bytes) : recoveryData req off x d = d.recData { req := req, offset := off } off x := by
  have hgo := (Dev.ask_acts hon isCommand_recData (d.permits_of_mgmt hm true 0x1010 1 (leVal x)) (d.served_warden _ _ (by decide))
    (off := off) (.inl ⟨rfl, rfl⟩)).trans (Dev.act_recData _ off x)
  exact hgo

theorem recoveryCommit_of_mgmt : recoveryCommit req d = d.recCommit { req := req } := by
  have hact := Dev.act_recCommit (d := d) { req := req } (bs := leBytes 1 1) (by decide)
  have hgo := Dev.ask_at_warden hon isCommand_recCommit rfl (d.permits_of_mgmt hm _ _ _ _) (by decide) (by decide) hact
  exact hgo

theorem recoveryAbort_of_mgmt : recoveryAbort req d = d.recAbort { req := req } := by
  have hact := Dev.act_recAbort (d := d) { req := req } (bs := leBytes 1 2) (by decide)
  have hgo := Dev.ask_at_warden hon isCommand_recCommit rfl (d.permits_of_mgmt hm _ _ _ _) (by decide) (by decide) hact
  exact hgo

end Requests

section Acts
variable {d : Dev} {a : Asked} {slot total off : Nat} {x : Bytes} {v : Recovery}

theorem Dev.recBegin_of_range (h : 1 < slot ∨ total = 0 ∨ 33554432 < total) :
    d.recBegin a slot total = d.respond a true 0x1010 0 7 8 [] := if_pos h

theorem Dev.recBegin_of_good (h1 : slot ≤ 1) (h2 : 0 < total) (h3 : total ≤ 33554432) : d.recBegin a slot total =
    if (!d.slotOpen slot) = true then d.respond a true 0x1010 0 8 8 []
    else if d.boot.recovery.isSome = true then d.respond a true 0x1010 0 9 8 []
    else { d with
      boot := { d.boot with
        recovery := some { slot := slot, total := total, chunks := [], last := d.now }
        flashOps := d.boot.flashOps ++ [{ erase := [(sourceAt slot, 0x02000000)], prog := [], andThen := .recoveryErased a.req }] }
      ledger := { d.ledger with asked := d.ledger.asked ++ [a] } } := by
  unfold Dev.recBegin
  exact (if_neg (by omega)).trans rfl

theorem Dev.recoverable_iff (d : Dev) : d.recoverable = true ↔ d.boot.safe = true ∨ d.lit = true := Bool.or_eq_true_iff

theorem Recovery.overlaps_eq_false_iff (v : Recovery) (off n : Nat) :
    v.overlaps off n = false ↔ ∀ c ∈ v.chunks, c.1 + c.2 ≤ off ∨ off + n ≤ c.1 := by
  unfold Recovery.overlaps
  rw [List.any_eq_false]
  refine forall₂_congr fun c _ => ?_
  rw [Bool.and_eq_true_iff, decide_eq_true_iff, decide_eq_true_iff, not_and_or, Nat.not_lt, Nat.not_lt]

theorem Dev.recData_of_range (h : x.length = 0 ∨ 1024 < x.length ∨ 33554432 < off + x.length) :
    d.recData a off x = d.respond a true 0x1010 1 6 33554432 [] := if_pos h

section Sized
variable (h1 : 1 ≤ x.length) (h2 : x.length ≤ 1024) (h3 : off + x.length ≤ 33554432)
include h1 h2 h3

theorem recData_size : ¬ (x.length = 0 ∨ 1024 < x.length ∨ 33554432 < off + x.length) := by omega

theorem Dev.recData_of_none (h : d.boot.recovery = none) : d.recData a off x = d.respond a true 0x1010 1 8 33554432 [] := by
  unfold Dev.recData
  refine (if_neg (recData_size h1 h2 h3)).trans ?_
  rw [h]

theorem Dev.recData_of_some (h : d.boot.recovery = some v) : d.recData a off x =
    if (!d.recoverable) = true ∨ (!v.erased) = true ∨ v.checking = true ∨ v.overlaps off x.length = true
      then d.respond a true 0x1010 1 8 33554432 []
    else { d with
      boot := { d.boot with
        recovery := some { v with chunks := v.chunks ++ [(off, x.length)], last := d.now }
        flashOps := d.boot.flashOps ++ [{ erase := [], prog := [(sourceAt v.slot + off, x)], andThen := .answer a.req 0x1010 1 }] }
      ledger := { d.ledger with asked := d.ledger.asked ++ [a] } } := by
  unfold Dev.recData
  refine (if_neg (recData_size h1 h2 h3)).trans ?_
  rewrite [h]
  rfl

end Sized

theorem Dev.recCommit_of_none (h : d.boot.recovery = none) : d.recCommit a = d.respond a true 0x1010 2 8 1 [] := by
  unfold Dev.recCommit
  rw [h]

theorem Dev.recCommit_of_some (h : d.boot.recovery = some v) : d.recCommit a =
    if (!d.recoverable) = true ∨ (!v.erased) = true ∨ v.checking = true then d.respond a true 0x1010 2 8 1 []
    else { d with
      boot := { d.boot with
        recovery := some { v with checking := true }
        flashOps := d.boot.flashOps ++ [{ erase := [], prog := [], andThen := .recoveryCheck a.req }] }
      ledger := { d.ledger with asked := d.ledger.asked ++ [a] } } := by
  unfold Dev.recCommit
  rewrite [h]
  rfl

theorem Dev.recAbort_of_none (h : d.boot.recovery = none) : d.recAbort a = d.respond a true 0x1010 2 8 1 [] := by
  unfold Dev.recAbort
  exact if_pos (by rw [h]; rfl)

theorem Dev.recAbort_of_some (h : d.boot.recovery = some v) : d.recAbort a =
    ({ d with boot := { d.boot with recovery := none } } : Dev).respond a true 0x1010 2 0 1 [] := by
  unfold Dev.recAbort
  rw [h]
  exact if_neg Bool.noConfusion

theorem recoveryIdleTimeout_of_none (h : d.boot.recovery = none) : recoveryIdleTimeout d = d := by
  unfold recoveryIdleTimeout
  rw [h]

theorem recoveryIdleTimeout_of_some (h : d.boot.recovery = some v) : recoveryIdleTimeout d =
    if (!v.checking && v.erased && decide (v.last + 60 * second ≤ d.now)) = true then d.modBoot fun b => { b with recovery := none }
    else d := by
  unfold recoveryIdleTimeout
  rw [h]

end Acts

/-! ### A flash operation ends (R380) -/

section FlashOps
variable {d : Dev} {ok : Bool} {o : FlashOp} {rest : List FlashOp}

/-- The device without the flash operation in front. -/
def Dev.opTaken (d : Dev) (rest : List FlashOp) : Dev := { d with boot := { d.boot with flashOps := rest } }

theorem flashOperationComplete_of_none (h : d.boot.flashOps = []) : flashOperationComplete ok d = d := by
  unfold flashOperationComplete
  rw [h]

theorem flashOperationComplete_of_first (h : d.boot.flashOps = o :: rest) : flashOperationComplete ok d =
    if (ok && (d.opTaken rest).boot.flashUsable) = true then ((d.opTaken rest).flashNow o.erase o.prog).flashDone o.andThen
    else ((d.opTaken rest).tornOp o).flashFailed o.andThen := by
  unfold flashOperationComplete
  rewrite [h]
  rfl

theorem Dev.flashDone_lmsLimit (d : Dev) (n : Nat) (m : Bytes) : d.flashDone (.lmsLimit n m) = d.lmsReserved n m := by
  rw [Dev.flashDone]

theorem Dev.boot_tornOp (d : Dev) (o : FlashOp) : (d.tornOp o).boot = d.boot := rfl

variable {req : Requester} {v : Recovery}

theorem Dev.commitChecked_of_read (h : d.boot.recovery = some v) : d.commitChecked req true =
    let st := (d.imageCheck v.slot (minverSvn d.boot.minver)).status
    let g : Dev := { d with boot := { d.boot with recovery := none, recStatus := st } }
    if st ≠ 0 then g.answerWrite req 0x1010 2 7
    else g.bootRecLater { g.bootRec with pref := v.slot, trial := true, tries := 0 } (.prefSet req v.slot) := by
  unfold Dev.commitChecked
  rewrite [h]
  rfl

theorem Dev.commitChecked_of_unread (h : d.boot.recovery = some v) : d.commitChecked req false =
    ({ d with boot := { d.boot with recovery := none, recStatus := 1 } } : Dev).answerWrite req 0x1010 2 11 := by
  unfold Dev.commitChecked
  rewrite [h]
  exact if_pos Nat.one_ne_zero

end FlashOps

/-- Settles O57: the requests of a recovery by what they need, the flash operation in front by what follows it. -/
theorem recoveryWritesASlot : Obligations.RecoveryWritesASlot := by
  have hne : ∀ {b : Bool}, b = false → ¬ b = true := fun h h' => absurd (h.symm.trans h') (by decide)
  have hnot : ∀ {b : Bool}, b = false → (!b) = true := fun h => (Bool.not_eq_true' _).mpr h
  have hnn : ∀ {b : Bool}, b = true → ¬ (!b) = true := fun h h' => absurd (((Bool.not_eq_true' _).mp h').symm.trans h) (by decide)
  refine ⟨fun req slot total off x s hon hm => ?others, fun req s hon hm => ?mgmt, fun s h => ?noTimeout, fun v s h => ?timeout,
    fun ok s h => ?noOp, fun o rest s h => ?op⟩
  case others =>
    intro d no
    have hact : ∀ {c : Instr} {F : Dev → Dev} {t : Dev}, exec c s = s.act F → F d = t → exec c s = .next { s with dev := { t with now := d.now } } :=
      fun hc hF => exec_of_act hc hF
    have hcommit := Dev.ask_of_mgmtOnly hon isCommand_recCommit hm rfl 0 (leBytes 1 1)
    have habort := Dev.ask_of_mgmtOnly hon isCommand_recCommit hm rfl 0 (leBytes 1 2)
    exact ⟨hact (F := recoveryBegin req slot total) rfl (Dev.ask_of_mgmtOnly hon isCommand_recBegin hm rfl 0 _),
      hact (F := recoveryData req off x) rfl (Dev.ask_of_mgmtOnly hon isCommand_recData hm rfl off x),
      hact (F := recoveryCommit req) rfl hcommit, hact (F := recoveryAbort req) rfl habort⟩
  case mgmt =>
    intro d a on tells able
    have hact : ∀ {c : Instr} {F : Dev → Dev} {t : Dev}, exec c s = s.act F → F d = t → exec c s = on t := fun hc hF => exec_of_act hc hF
    have hable : d.recoverable = true ↔ able := d.recoverable_iff
    refine ⟨fun slot total hslot htotal => ?begins, fun off x => ?data, fun hnone => ⟨?_, ?_⟩, fun v hv => ?acts⟩
    case begins =>
      have hto : ∀ {t}, d.recBegin a slot total = t → exec (.recoveryBegin req slot total) s = on t :=
        fun ht => hact (F := recoveryBegin req slot total) rfl ((recoveryBegin_of_mgmt hon hm hslot htotal).trans ht)
      refine ⟨fun h => hto (Dev.recBegin_of_range h), fun h1 h2 h3 => ?_⟩
      have hgo := Dev.recBegin_of_good (d := d) (a := a) h1 h2 h3
      exact ⟨fun hopen => hto (hgo.trans (if_pos (hnot hopen))), fun hopen hbusy => hto (hgo.trans ((if_neg (hnn hopen)).trans (if_pos hbusy))),
        fun hopen hfree => hto (hgo.trans ((if_neg (hnn hopen)).trans (if_neg (by rw [hfree]; decide))))⟩
    case data =>
      intro n a tells
      have hto : ∀ {t}, d.recData a off x = t → exec (.recoveryData req off x) s = on t :=
        fun ht => hact (F := recoveryData req off x) rfl ((recoveryData_of_mgmt hon hm off x).trans ht)
      refine ⟨fun h => hto (Dev.recData_of_range h), fun h1 h2 h3 => ⟨fun hnone => hto (Dev.recData_of_none h1 h2 h3 hnone), fun v hv => ?_⟩⟩
      intro takes
      have hgo := Dev.recData_of_some (a := a) h1 h2 h3 hv
      have htakes : ((!d.recoverable) = true ∨ (!v.erased) = true ∨ v.checking = true ∨ v.overlaps off x.length = true) ↔ ¬ takes := by
        show _ ↔ ¬ (_ ∧ _ ∧ _ ∧ _)
        rw [← hable, ← v.overlaps_eq_false_iff, not_and_or, not_and_or, not_and_or, Bool.not_eq_true', Bool.not_eq_true, Bool.not_eq_true',
          Bool.not_eq_true, Bool.not_eq_false, Bool.not_eq_false]
      exact ⟨fun h => hto (hgo.trans (if_pos (htakes.mpr h))), fun h => hto (hgo.trans (if_neg fun h' => htakes.mp h' h))⟩
    · exact hact (F := recoveryCommit req) rfl ((recoveryCommit_of_mgmt hon hm).trans (Dev.recCommit_of_none hnone))
    · exact hact (F := recoveryAbort req) rfl ((recoveryAbort_of_mgmt hon hm).trans (Dev.recAbort_of_none hnone))
    case acts =>
      have hgo := (recoveryCommit_of_mgmt hon hm).trans (Dev.recCommit_of_some hv)
      refine ⟨fun hab her hch => hact (F := recoveryCommit req) rfl (hgo.trans (if_neg ?_)),
        fun hno => hact (F := recoveryCommit req) rfl (hgo.trans (if_pos ?_)),
        hact (F := recoveryAbort req) rfl ((recoveryAbort_of_mgmt hon hm).trans (Dev.recAbort_of_some hv))⟩
      · rintro (h | h | h)
        · exact hnn (hable.mpr hab) h
        · exact hnn her h
        · exact hne hch h
      · rw [← hable, Bool.not_eq_true] at hno
        rw [Bool.not_eq_true', Bool.not_eq_true']
        exact hno
  case noTimeout => exact (exec_of_act (f := recoveryIdleTimeout) rfl (recoveryIdleTimeout_of_none h)).trans rfl
  case timeout =>
    have hgo := recoveryIdleTimeout_of_some h
    refine ⟨fun her hch hlast => exec_of_act (f := recoveryIdleTimeout) rfl (hgo.trans (if_pos ?_)), fun hno =>
      (exec_of_act (f := recoveryIdleTimeout) rfl (hgo.trans (if_neg ?_))).trans rfl⟩
    · rewrite [her, hch, decide_eq_true hlast]
      rfl
    · rw [Bool.and_eq_true_iff, Bool.and_eq_true_iff, Bool.not_eq_true', decide_eq_true_iff]
      rintro ⟨⟨hch, her⟩, hlast⟩
      rcases hno with h | h | h
      · exact hne h her
      · exact hne hch h
      · exact absurd hlast (Nat.not_le.mpr h)
  case noOp => exact (exec_of_act (f := flashOperationComplete ok) rfl (flashOperationComplete_of_none h)).trans rfl
  case op =>
    intro d on good
    have hto : ∀ {ok : Bool} {t}, flashOperationComplete ok s.dev = t → exec (.flashOperationComplete ok) s = on t :=
      fun {ok} _ ht => exec_of_act (f := flashOperationComplete ok) rfl ht
    refine ⟨fun husable => ?good, fun ok hbad => ?bad⟩
    case good =>
      have hgo : ∀ {t : FlashThen}, o.andThen = t → exec (.flashOperationComplete true) s = on (good.flashDone t) := fun ht => by
        rw [← ht]
        exact hto ((flashOperationComplete_of_first h).trans (if_pos husable))
      refine ⟨fun ht => hgo ht, fun req i j ht => hgo ht, fun req i j v ht => hgo ht, fun req v ht hv => ?erased, fun req v ht hv => ?checked,
        fun req slot ht => hgo ht, fun n m ht => (hgo ht).trans (congrArg on (good.flashDone_lmsLimit n m)), fun ht => hgo ht⟩
      case erased =>
        refine (hgo ht).trans (congrArg on ?_)
        have hmap : (d.boot.recovery.map fun r => { r with erased := true, last := d.now }) = some { v with erased := true, last := d.now } := by
          rewrite [hv]
          rfl
        exact congrArg (fun q => ({ good with boot := { d.boot with recovery := q } } : Dev).answerWrite req 0x1010 0 0) hmap
      case checked =>
        intro st g
        have hdone := Dev.commitChecked_of_read (d := good) (req := req) hv
        exact ⟨fun hst => (hgo ht).trans (congrArg on (hdone.trans (if_pos hst))),
          fun hst => (hgo ht).trans (congrArg on (hdone.trans (if_neg fun h => h hst)))⟩
    case bad =>
      intro torn
      have hoff : ¬ (ok && d.boot.flashUsable) = true := by
        rw [Bool.and_eq_true_iff]
        exact fun ⟨hok, hus⟩ => hbad.elim (fun h => hne h hok) fun h => hne h hus
      have hgo : ∀ {t : FlashThen}, o.andThen = t → exec (.flashOperationComplete ok) s = on (torn.flashFailed t) := fun ht => by
        rw [← ht]
        exact hto ((flashOperationComplete_of_first h).trans (if_neg hoff))
      refine ⟨fun ht => ht.elim (fun ht => hgo ht) fun ht => hgo ht, fun req i j v ht => ht.elim (fun ht => hgo ht) fun ht => hgo ht,
        fun req ht => hgo ht, fun req v ht hv => ?unread, fun n m ht => hgo ht, fun req slot ht => hgo ht⟩
      case unread => exact (hgo ht).trans (congrArg on (Dev.commitChecked_of_unread (d := torn) hv))

end Sys2Proof.Machine

/-! ## Targeted tests and their outcomes (R458 to R465, R473, R474) -/
namespace Sys2Proof.Machine
open Sys2Proof

/-! ### A unit leaves service (R458 to R460) -/

section Start
variable {d : Dev} {id : Nat} {t : UTest}

theorem targetedTestStart_of_none (h : d.service.tests.find? (fun t => t.id = id) = none) : targetedTestStart id d = d := by
  unfold targetedTestStart
  rw [h]

/-- The device with a test that has begun. -/
def Dev.testBegun (d : Dev) (id : Nat) : Dev := { d with service := { d.service with
  tests := d.service.tests.map fun u => if u.id = id then { u with running := true, started := d.now } else u } }

/-- The tests that are to start before one. -/
def Dev.testsBefore (d : Dev) (id : Nat) : Nat := (d.service.tests.filter fun u => decide (u.id < id) && d.testReady u).length

variable (hfind : d.service.tests.find? (fun t => t.id = id) = some t)
include hfind

theorem targetedTestStart_of_some : targetedTestStart id d =
    if (!d.lit) = true ∨ (!d.testReady t) = true ∨ 32 ≤ d.testsRunning + d.testsBefore id then d
    else match unitBlock t.uclass t.unit with
      | none => (d.testBegun id).outOfService t
      | some b =>
        if (d.block b).awake = true ∨ (d.block b).fenced = true ∨ d.retired b = true then (d.testBegun id).outOfService t
        else d.askIsland (((d.lotOf b).map d.lot).getD {}) b 2 none := by
  unfold targetedTestStart
  rewrite [hfind]
  rfl

end Start

section Tiles
variable {d : Dev}

/-- The core of a tile that starts is at its first order. -/
def Trestle.starts (x : Trestle) : Prop := x.stat = .run ∧ x.pc = 0

theorem Dev.startTile_eq (d : Dev) (u : Nat) : ∃ prog, d.startTile u =
    { d.draw.2 with trestles := d.trestles.mod u fun t => { t with prog := prog, pc := 0, stat := .run } } := ⟨_, rfl⟩

theorem Dev.startTile_spec (d : Dev) (u : Nat) : ((d.startTile u).core u).starts ∧ ∀ n, n ≠ u → (d.startTile u).core n = d.core n := by
  obtain ⟨prog, h⟩ := d.startTile_eq u
  rw [h]
  unfold Dev.core
  dsimp only
  refine ⟨?_, fun n hn => Tab.get_mod_other _ _ _ _ hn⟩
  rw [Tab.get_mod_same]
  exact ⟨rfl, rfl⟩

/-- Once started, a tile's core stays at its first order while others start. -/
theorem Dev.starts_kept (l : List Nat) (n : Nat) : ∀ s : Dev, (s.core n).starts → ((each l (fun u s => s.startTile u) s).core n).starts :=
  fun s h => foldl_keeps_of (P := fun s => (s.core n).starts) (fun s u hs => by
    by_cases hn : n = u
    · subst hn
      exact (s.startTile_spec n).1
    · rw [(s.startTile_spec u).2 n hn]
      exact hs) l h

theorem Dev.starts_of_mem {l : List Nat} {n : Nat} (h : n ∈ l) (s : Dev) : ((each l (fun u s => s.startTile u) s).core n).starts := by
  induction l generalizing s with
  | nil => exact absurd h List.not_mem_nil
  | cons u l ih =>
    rw [each_cons]
    rcases List.mem_cons.mp h with rfl | hl
    · exact Dev.starts_kept l n _ (s.startTile_spec n).1
    · exact ih hl _

/-- What the start of tiles leaves alone: the blocks, the service tables and the fault maps. -/
def Dev.frameOfTiles (s : Dev) : Tab Block × Service × Grid := (s.blocks, s.service, s.grid)

theorem Dev.frame_startTiles (l : List Nat) (s : Dev) : (each l (fun u s => s.startTile u) s).frameOfTiles = s.frameOfTiles :=
  each_keeps Dev.frameOfTiles (fun u s => by
    obtain ⟨prog, h⟩ := s.startTile_eq u
    rewrite [h]
    rfl) l s

end Tiles

section OutOfService
variable {d : Dev} {t : UTest} {b : Nat}

/-- Whether the start of a test sets the bit of its switch point. -/
abbrev Dev.testMaps (d : Dev) (t : UTest) (b : Nat) : Prop := (t.uclass = 2 ∨ t.uclass = 3) ∧ d.grid.faultMap.contains b = false

theorem Dev.mapTested_spec (d : Dev) (t : UTest) (b : Nat) :
    (d.testMaps t b → d.mapTested t b = { d with
      grid := { d.grid with faultMap := insertUp b d.grid.faultMap }
      service := { d.service with tests := d.service.tests.map fun u => if u.id = t.id then { u with mapped := true } else u } }) ∧
    (¬ d.testMaps t b → d.mapTested t b = d) := by
  have hiff : ((t.uclass = 2 ∨ t.uclass = 3) ∧ (!d.grid.faultMap.contains b) = true) ↔ d.testMaps t b :=
    and_congr Iff.rfl (by rw [Bool.not_eq_true'])
  unfold Dev.mapTested
  exact ⟨fun h => if_pos (hiff.mpr h), fun h => if_neg fun h' => h (hiff.mp h')⟩

theorem Dev.outOfService_of_block (h : unitBlock t.uclass t.unit = some b) : d.outOfService t =
    (each (testTiles t.uclass t.unit b) (fun u s => s.startTile u)
      (d.modBlock b fun x => { x with testing := true, island := .run, quiet := none })).mapTested t b := by
  unfold Dev.outOfService
  rw [h]

/-- The bit of a tested switch point is all that the mapping changes, in the fault maps and in the record of the test. -/
theorem Dev.mapTested_of_frame {e : Dev} (t : UTest) (b : Nat) (hservice : e.service = d.service) (hgrid : e.grid = d.grid) :
    (e.mapTested t b).service = (if d.testMaps t b then { d.service with
        tests := d.service.tests.map fun u => if u.id = t.id then { u with mapped := true } else u } else d.service) ∧
      (e.mapTested t b).grid.faultMap = (if d.testMaps t b then insertUp b d.grid.faultMap else d.grid.faultMap) ∧
      (e.mapTested t b).blocks = e.blocks ∧ (e.mapTested t b).trestles = e.trestles := by
  have hmaps : e.testMaps t b ↔ d.testMaps t b := by
    unfold Dev.testMaps
    rw [hgrid]
  obtain ⟨hyes, hno⟩ := e.mapTested_spec t b
  by_cases h : d.testMaps t b
  · rw [hyes (hmaps.mpr h), if_pos h, if_pos h, ← hservice, ← hgrid]
    exact ⟨rfl, rfl, rfl, rfl⟩
  · rw [hno fun h' => h (hmaps.mp h'), if_neg h, if_neg h, ← hservice, ← hgrid]
    exact ⟨rfl, rfl, rfl, rfl⟩

/-- What the start of a block's test changes: its island and the cores of its tiles, and the bit of a switch point. -/
theorem Dev.testMapped_spec (d : Dev) (t : UTest) (b : Nat) :
    let g := (each (testTiles t.uclass t.unit b) (fun u s => s.startTile u)
      (d.modBlock b fun x => { x with testing := true, island := .run, quiet := none })).mapTested t b
    g.service = (if d.testMaps t b then { d.service with
        tests := d.service.tests.map fun u => if u.id = t.id then { u with mapped := true } else u } else d.service) ∧
      g.grid.faultMap = (if d.testMaps t b then insertUp b d.grid.faultMap else d.grid.faultMap) ∧
      g.block b = { d.block b with testing := true, island := .run, quiet := none } ∧
      (∀ c, c ≠ b → g.block c = d.block c) ∧
      ∀ n ∈ testTiles t.uclass t.unit b, (g.core n).stat = .run ∧ (g.core n).pc = 0 := by
  have hframe := Dev.frame_startTiles (testTiles t.uclass t.unit b)
    (d.modBlock b fun x => { x with testing := true, island := .run, quiet := none })
  have hcore := fun n hn => Dev.starts_of_mem (l := testTiles t.uclass t.unit b) (n := n) hn
    (d.modBlock b fun x => { x with testing := true, island := .run, quiet := none })
  generalize each (testTiles t.uclass t.unit b) _ _ = e at hframe hcore
  obtain ⟨hblocks, hrest⟩ := Prod.mk.inj hframe
  obtain ⟨hservice, hgrid⟩ := Prod.mk.inj hrest
  obtain ⟨hs, hf, hb, ht⟩ := Dev.mapTested_of_frame (d := d) t b hservice hgrid
  have hblock : ∀ c, (e.mapTested t b).block c = (d.modBlock b fun x => { x with testing := true, island := .run, quiet := none }).block c :=
    fun c => congrArg (fun x : Tab Block => x.get c) (hb.trans hblocks)
  refine ⟨hs, hf, (hblock b).trans (Dev.block_modBlock _ _ _), fun c hc => (hblock c).trans (Dev.block_modBlock_other _ _ _ _ hc), fun n hn => ?_⟩
  have hn' : (e.mapTested t b).core n = e.core n := congrArg (fun x : Tab Trestle => x.get n) ht
  rw [hn']
  exact hcore n hn

theorem Dev.outOfService_of_port (h : t.uclass = 6) : d.outOfService t =
    if (d.port t.unit).st = .down ∨ (d.port t.unit).st = .failed then d else d.maskPort t.unit .down := by
  have hblock : unitBlock t.uclass t.unit = none := by
    rewrite [h]
    rfl
  unfold Dev.outOfService
  rw [hblock]
  refine (if_pos h).trans ?_
  dsimp only [Dev.iff]
  by_cases hst : (d.port t.unit).st = .down ∨ (d.port t.unit).st = .failed
  · rw [if_pos hst, if_neg]
    rw [Bool.and_eq_true_iff, bne_iff_ne, bne_iff_ne]
    exact fun h => hst.elim h.1 h.2
  · rw [if_neg hst, if_pos]
    rw [Bool.and_eq_true_iff, bne_iff_ne, bne_iff_ne]
    exact not_or.mp hst

theorem Dev.outOfService_of_other (h : unitBlock t.uclass t.unit = none) (h6 : t.uclass ≠ 6) : d.outOfService t = d := by
  unfold Dev.outOfService
  rw [h]
  exact if_neg h6

end OutOfService

/-! ### A test ends (R460, R462 to R465) -/

/-- The transient outcomes of the last day. -/
def Dev.transOfDay (d : Dev) : List (Nat × Nat × Nat) := d.service.trans.filter fun (x : Nat × Nat × Nat) => d.now < x.2.2 + day
/-- How many outcomes are a unit's. -/
def transCount (t : UTest) (l : List (Nat × Nat × Nat)) : Nat := (l.filter fun x => x.1 == t.uclass && x.2.1 == t.unit).length

/-- The device once the record of a test's error is rewritten and UNIT_ERROR raised. -/
def Dev.testEnded (d : Dev) (id : Nat) (t : UTest) (trans : List (Nat × Nat × Nat)) (lasting : Bool) (test halt : Nat) : Dev :=
  let g : Dev := { d with service := { d.service with trans := trans, tests := d.service.tests.filter fun u => u.id != id } }
  let g := match unitBlock t.uclass t.unit with
    | some b => (g.afterTest t b).unmapTested t b
    | none => g
  let out := if lasting then 2 else 1
  let g := (g.logRewrite t.logSeq fun x => { x with
    outcome := out, persist := x.persist || lasting, testId := test, tcount := transCount t trans, halt := halt }).event 0x30
      [(32, 1, t.uclass), (33, 1, out), (34, 2, t.ekind), (36, 4, t.unit), (40, 1, test), (44, 4, t.logSeq)]
  g.iff (t.uclass == 8) fun g => g.event 0x37 [(32, 1, t.unit), (33, 1, out)]

/-- A lasting outcome: the unit is fenced, and a block returns to what it may do. -/
def Dev.testFenced (g : Dev) (t : UTest) : Dev :=
  if (unitBlock t.uclass t.unit).isSome then (g.fenceUnit t).inService t else g.fenceUnit t

theorem Dev.testFenced_eq (g : Dev) (t : UTest) : g.testFenced t = match unitBlock t.uclass t.unit with
    | some _ => (g.fenceUnit t).inService t
    | none => g.fenceUnit t := by
  unfold Dev.testFenced
  cases unitBlock t.uclass t.unit with
  | some _ => rfl
  | none => rfl

section End
variable {d : Dev} {id : Nat} {t : UTest}

theorem targetedTestEnd_of_none (r : TestResult) (h : d.service.tests.find? (fun t => t.id = id && t.running) = none) :
    targetedTestEnd id r d = d := by
  unfold targetedTestEnd
  rw [h]

theorem targetedTestEnd_of_dark (r : TestResult) (h : d.lit = false) : targetedTestEnd id r d = d := by
  unfold targetedTestEnd
  split
  · rfl
  · exact if_pos (by rw [h]; rfl)

variable (hfind : d.service.tests.find? (fun t => t.id = id && t.running) = some t) (hlit : d.lit = true)
include hfind hlit

theorem targetedTestEnd_of_disagree (a b : Nat) : targetedTestEnd id (.disagree a b) d = d.clerksDisagree a b := by
  unfold targetedTestEnd
  rewrite [hfind]
  exact (if_neg (by rw [hlit]; decide)).trans (if_pos rfl)

theorem targetedTestEnd_of_unknown {i h : Nat} (hi : i ∉ testsOf t.ekind t.uclass) : targetedTestEnd id (.fail i h) d = d := by
  unfold targetedTestEnd
  rewrite [hfind]
  refine (if_neg (by rw [hlit]; decide)).trans (if_pos ?_)
  have hno : (testsOf t.ekind t.uclass).contains i = false := by
    rw [← Bool.not_eq_true, List.contains_iff_mem]
    exact hi
  exact (Bool.not_eq_true' _).mpr hno

theorem targetedTestEnd_of_fail {i h : Nat} (hi : i ∈ testsOf t.ekind t.uclass) : targetedTestEnd id (.fail i h) d =
    if d.mayDecide = true then (d.testEnded id t d.transOfDay true i h).testFenced t else d := by
  have hknown : (!(testsOf t.ekind t.uclass).contains i) = true ↔ False := by
    rw [List.contains_iff_mem.mpr hi]
    decide
  have hpass : (TestResult.fail i h == TestResult.pass) = false := rfl
  rw [Dev.testFenced_eq]
  unfold targetedTestEnd Dev.testEnded
  rw [hfind]
  dsimp only
  rw [if_neg (by rw [hlit]; decide), if_neg hknown.mp]
  simp only [hpass, bne, Bool.not_false, Bool.true_or, Bool.true_and, ↓reduceIte, Bool.false_eq_true]
  cases d.mayDecide with
  | true => rfl
  | false => rfl

omit hfind hlit in
/-- With the present outcome a unit has one transient outcome more within the day. -/
theorem transCount_now : transCount t (d.transOfDay ++ [(t.uclass, t.unit, d.now)]) =
    (d.service.trans.filter fun (x : Nat × Nat × Nat) => d.now < x.2.2 + day && x.1 == t.uclass && x.2.1 == t.unit).length + 1 := by
  unfold transCount Dev.transOfDay
  rw [List.filter_append, List.length_append, List.filter_filter]
  congr 1
  · refine congrArg List.length (List.filter_congr fun x _ => ?_)
    rw [Bool.and_comm, Bool.and_assoc]
  · rewrite [List.filter_cons_of_pos (by simp)]
    rfl

theorem targetedTestEnd_of_pass : targetedTestEnd id .pass d =
    let now := d.transOfDay ++ [(t.uclass, t.unit, d.now)]
    let lasting := decide (4 ≤ transCount t now)
    let g := d.testEnded id t now lasting ((testsOf t.ekind t.uclass).getLastD 0) 0
    if (lasting && !d.mayDecide) = true then d else if lasting = true then g.testFenced t else g.inService t := by
  have hpass : (TestResult.pass == TestResult.pass) = true := rfl
  dsimp only
  rw [Dev.testFenced_eq]
  unfold targetedTestEnd Dev.testEnded
  rw [hfind]
  dsimp only
  rw [if_neg (by rw [hlit]; decide), ← transCount_now]
  simp only [hpass, bne, Bool.not_true, Bool.false_or, ↓reduceIte, Bool.false_eq_true]
  rfl

theorem targetedTestEnd_of_lasting_pass (h : 4 ≤ transCount t (d.transOfDay ++ [(t.uclass, t.unit, d.now)])) : targetedTestEnd id .pass d =
    if d.mayDecide = true then (d.testEnded id t (d.transOfDay ++ [(t.uclass, t.unit, d.now)]) true
      ((testsOf t.ekind t.uclass).getLastD 0) 0).testFenced t else d := by
  rw [targetedTestEnd_of_pass hfind hlit]
  dsimp only
  rw [decide_eq_true h, Bool.true_and]
  cases d.mayDecide with
  | true => rfl
  | false => rfl

theorem targetedTestEnd_of_transient (h : ¬ 4 ≤ transCount t (d.transOfDay ++ [(t.uclass, t.unit, d.now)])) : targetedTestEnd id .pass d =
    (d.testEnded id t (d.transOfDay ++ [(t.uclass, t.unit, d.now)]) false ((testsOf t.ekind t.uclass).getLastD 0) 0).inService t := by
  rw [targetedTestEnd_of_pass hfind hlit]
  dsimp only
  rewrite [decide_eq_false h]
  rfl

end End

/-- Two Clerks that decide: of different pools, in service. -/
def Dev.clerksDiffer (d : Dev) (a b : Nat) : Prop :=
  clerkPool a ≠ clerkPool b ∧ (d.service.clerks.get a).up = true ∧ (d.service.clerks.get b).up = true

theorem Dev.clerksDisagree_eq (d : Dev) (a b : Nat) (p : Prop) (hp : p ↔ d.clerksDiffer a b) :
    (¬ p → d.clerksDisagree a b = d) ∧ (p → d.clerksDisagree a b = each [a, b] (fun k g => let cs := g.homedOn k
      let v := g.service
      ({ g with service := { v with
        tests := v.tests ++ [{ id := v.nextId, uclass := 8, unit := k, ekind := 0, logSeq := 0, ctxs := [] }]
        nextId := v.nextId + 1 } } : Dev).clerkDown k cs) d) := by
  have hiff : (clerkPool a = clerkPool b ∨ (!(d.service.clerks.get a).up) = true ∨ (!(d.service.clerks.get b).up) = true) ↔ ¬ p := by
    rw [hp]
    unfold Dev.clerksDiffer
    rw [not_and_or, not_and_or, not_not, Bool.not_eq_true', Bool.not_eq_true, Bool.not_eq_true', Bool.not_eq_true]
  unfold Dev.clerksDisagree
  exact ⟨fun h => if_pos (hiff.mpr h), fun h => (if_neg fun h' => hiff.mp h' h).trans rfl⟩

/-! ### Fences and row repairs (R462, R464, R474) -/

section Fence
variable {d : Dev} {t : UTest}

theorem Dev.fenceUnit_of_block {b : Nat} (h : unitBlock t.uclass t.unit = some b) : d.fenceUnit t =
    let g := d.fenceBlock b
    let g := if t.uclass = 2 then (({ g with grid := { g.grid with faultMap := insertUp b g.grid.faultMap } } : Dev).event 0x32
      [(32, 2, b)]).fenceShelves b t.ekind true t.ctxs else g
    ((g.fenceShelves b t.ekind false t.ctxs).event 0x31 [(32, 1, t.uclass), (36, 4, t.unit)]).spareBlock b := by
  have hiff : ∀ (g : Dev) (f : Dev → Dev), g.iff (t.uclass == 2) f = if t.uclass = 2 then f g else g := fun g f => by
    unfold Dev.iff
    exact if_congr beq_iff_eq rfl rfl
  unfold Dev.fenceUnit
  rewrite [h]
  dsimp only
  rewrite [hiff]
  rfl

/-- Whether the row of a fenced slice's error is repaired. -/
def UTest.repairs (t : UTest) (l : List Repair) : Prop :=
  t.uclass = 4 ∧ (t.ekind = 0x05 ∨ (t.ekind = 0x12 ∧ t.addr ≠ 0)) ∧ ∀ r ∈ l, r.row ≠ rowOff (rowKey t.addr)

/-- The device with a unit that is no block fenced. -/
def Dev.unitFenced (d : Dev) (t : UTest) : Dev :=
  ({ d with service := { d.service with fenced := d.service.fenced ++ [(t.uclass, t.unit)] } } : Dev).event 0x31
    [(32, 1, t.uclass), (36, 4, t.unit)]

theorem Dev.fenceUnit_of_other (h : unitBlock t.uclass t.unit = none) :
    (¬ t.repairs (d.unitFenced t).conc.repairs → d.fenceUnit t = d.unitFenced t) ∧
    (t.repairs (d.unitFenced t).conc.repairs → d.fenceUnit t = { d.unitFenced t with conc := { (d.unitFenced t).conc with
      repairs := (d.unitFenced t).conc.repairs ++ [{ slice := t.unit, row := rowOff (rowKey t.addr), started := (d.unitFenced t).now }] } }) := by
  have hgo : d.fenceUnit t = (d.unitFenced t).iff (t.uclass == 4 && (t.ekind == 0x05 || (t.ekind == 0x12 && t.addr != 0)) &&
      (d.unitFenced t).conc.repairs.all fun r => r.row != rowOff (rowKey t.addr)) fun s =>
        s.modConc fun c => { c with repairs := c.repairs ++ [{ slice := t.unit, row := rowOff (rowKey t.addr), started := s.now }] } := by
    unfold Dev.fenceUnit
    rewrite [h]
    rfl
  have hiff : (t.uclass == 4 && (t.ekind == 0x05 || (t.ekind == 0x12 && t.addr != 0)) &&
      (d.unitFenced t).conc.repairs.all fun r => r.row != rowOff (rowKey t.addr)) = true ↔ t.repairs (d.unitFenced t).conc.repairs := by
    unfold UTest.repairs
    simp only [Bool.and_eq_true_iff, Bool.or_eq_true_iff, beq_iff_eq, bne_iff_ne, List.all_eq_true, and_assoc]
  rw [hgo]
  unfold Dev.iff
  exact ⟨fun h => if_neg fun h' => h (hiff.mp h'), fun h => (if_pos (hiff.mpr h)).trans rfl⟩

end Fence

section Repair
variable {d : Dev} {slice : Nat}

theorem rowRepairComplete_of_none (left : Bool) (h : d.conc.repairs.find? (fun r => r.slice = slice) = none) :
    rowRepairComplete slice left d = d := by
  unfold rowRepairComplete
  rw [h]

theorem rowRepairComplete_of_dark (left : Bool) (h : d.lit = false) : rowRepairComplete slice left d = d := by
  unfold rowRepairComplete
  split
  · rfl
  · exact if_pos (by rw [h]; rfl)

theorem rowRepairComplete_of_some {r : Repair} (left : Bool) (h : d.conc.repairs.find? (fun r => r.slice = slice) = some r)
    (hlit : d.lit = true) : rowRepairComplete slice left d =
      let c := { d.conc with
        repairs := modFirst (fun q => q.slice = slice) (fun q => { q with started := d.now }) (d.conc.repairs.filter fun q => q != r) }
      (({ d with conc := if left then { c with softRows := insertUp r.row c.softRows } else
        { c with noSpare := insertUp r.row c.noSpare, withdrawn := (rowFrames r.row).foldl (fun l f => insertUp f l) c.withdrawn } }
          : Dev).event 0x38 [(32, 1, slice), (33, 1, if left then 1 else 2), (40, 8, r.row)]).eventLog r.row := by
  unfold rowRepairComplete
  rewrite [h]
  exact (if_neg (by rw [hlit]; decide)).trans rfl

end Repair

/-- Settles O58: a test by whether it may start, its end by the outcome, a fence by the unit, a row repair by the spare row. -/
theorem testsDecideTheUnit : Obligations.TestsDecideTheUnit := by
  have hne : ∀ {b : Bool}, b = false → ¬ b = true := fun h h' => absurd (h.symm.trans h') (by decide)
  have hstart : ∀ {id : Nat} {s : State} {t : Dev}, targetedTestStart id s.dev = t →
      exec (.targetedTestStart id) s = .next { s with dev := { t with now := s.dev.now } } :=
    fun {id} _ _ ht => exec_of_act (f := targetedTestStart id) rfl ht
  have hend : ∀ {id : Nat} {r : TestResult} {s : State} {t : Dev}, targetedTestEnd id r s.dev = t →
      exec (.targetedTestEnd id r) s = .next { s with dev := { t with now := s.dev.now } } :=
    fun {id r} _ _ ht => exec_of_act (f := targetedTestEnd id r) rfl ht
  have hrepair : ∀ {slice : Nat} {left : Bool} {s : State} {t : Dev}, slice < 128 → rowRepairComplete slice left s.dev = t →
      exec (.rowRepairComplete slice left) s = .next { s with dev := { t with now := s.dev.now } } :=
    fun {slice left} _ _ hs ht => exec_of_actOn (f := rowRepairComplete slice left) rfl (decide_eq_true hs) ht
  refine ⟨fun id s h => (hstart (targetedTestStart_of_none h)).trans rfl, fun id r s h => ?idle, fun id t s hfind => ?starts,
    fun id t s hfind hlit => ?ends, fun t d => ?fence, fun slice left s hs h => ?noRepair, fun slice r s hs hfind hlit => ?repair⟩
  case idle =>
    refine (hend ?_).trans rfl
    exact h.elim (targetedTestEnd_of_none r) (targetedTestEnd_of_dark r)
  case starts =>
    intro d before begun
    have hgo := targetedTestStart_of_some hfind
    have hheld : ((!d.lit) = true ∨ (!d.testReady t) = true ∨ 32 ≤ d.testsRunning + d.testsBefore id) ↔
        (d.lit = false ∨ d.testReady t = false ∨ 32 ≤ d.testsRunning + before) := by
      rw [Bool.not_eq_true', Bool.not_eq_true']
      exact Iff.rfl
    refine ⟨fun h => (hstart (hgo.trans (if_pos (hheld.mpr h)))).trans rfl, fun hlit hready hroom => ?_⟩
    have hmay := hgo.trans (if_neg fun h => (hheld.mp h).elim (fun h => hne h hlit) fun h => h.elim (fun h => hne h hready)
      fun h => absurd hroom (Nat.not_lt.mpr h))
    refine ⟨fun hnone h6 => ?other, fun h6 => ?port, fun b hb => ⟨fun hawake => ?block, fun hsleeps hfenced hretired => ?sleeps⟩⟩
    case other =>
      rw [hnone] at hmay
      exact (hstart (hmay.trans (Dev.outOfService_of_other hnone h6))).trans rfl
    case port =>
      have hnone : unitBlock t.uclass t.unit = none := by
        rewrite [h6]
        rfl
      rw [hnone] at hmay
      exact hstart (hmay.trans (Dev.outOfService_of_port h6))
    case block =>
      intro maps marked
      rw [hb] at hmay
      have hgo : targetedTestStart id d = _ := hmay.trans ((if_pos hawake).trans (Dev.outOfService_of_block hb))
      obtain ⟨hservice, hfault, hblock, hothers, hcores⟩ := begun.testMapped_spec t b
      have hid : t.id = id := of_decide_eq_true (List.find?_some (p := fun u : UTest => decide (u.id = id)) hfind)
      rw [hid] at hservice
      exact ⟨_, hstart hgo, hservice, hfault, hblock, hothers, hcores⟩
    case sleeps =>
      rw [hb] at hmay
      refine hstart (hmay.trans (if_neg ?_))
      exact fun h => h.elim (hne hsleeps) fun h => h.elim (hne hfenced) (hne hretired)
  case ends =>
    intro d on old count ended last out now
    have hended : ∀ trans lasting test halt, ended trans lasting test halt = d.testEnded id t trans lasting test halt :=
      fun _ _ _ _ => if_congr beq_iff_eq.symm rfl rfl
    have hto : ∀ {r : TestResult} {g}, targetedTestEnd id r d = g → exec (.targetedTestEnd id r) s = on g := fun hg => hend hg
    refine ⟨fun hfew => ?_, fun hmany hdec => ?_, fun hmany hdec => ?_, fun i h hi hdec => ?_, fun i h hno => ?_, fun a b => ?_⟩
    · rw [hended]
      exact hto (targetedTestEnd_of_transient hfind hlit (Nat.not_le.mpr hfew))
    · rw [hended]
      exact hto ((targetedTestEnd_of_lasting_pass hfind hlit hmany).trans (if_pos hdec))
    · exact (hto ((targetedTestEnd_of_lasting_pass hfind hlit hmany).trans (if_neg (hne hdec)))).trans rfl
    · rw [hended]
      exact hto ((targetedTestEnd_of_fail hfind hlit hi).trans (if_pos hdec))
    · by_cases hi : i ∈ testsOf t.ekind t.uclass
      · exact (hto ((targetedTestEnd_of_fail hfind hlit hi).trans (if_neg (hne (hno.resolve_left fun h => h hi))))).trans rfl
      · exact (hto (targetedTestEnd_of_unknown hfind hlit hi)).trans rfl
    · intro two
      have hgo := targetedTestEnd_of_disagree hfind hlit a b
      obtain ⟨hone, htwo⟩ := d.clerksDisagree_eq a b two Iff.rfl
      exact ⟨fun h => (hto (hgo.trans (hone h))).trans rfl, fun h => hto (hgo.trans (htwo h))⟩
  case fence =>
    intro told
    exact ⟨fun b hb => Dev.fenceUnit_of_block hb, fun hnone => Dev.fenceUnit_of_other hnone⟩
  case noRepair =>
    refine (hrepair hs ?_).trans rfl
    exact h.elim (rowRepairComplete_of_none left) (rowRepairComplete_of_dark left)
  case repair =>
    intro d on tells left
    exact ⟨hrepair hs (rowRepairComplete_of_some true hfind hlit), hrepair hs (rowRepairComplete_of_some false hfind hlit)⟩

end Sys2Proof.Machine

/-! ## Scrubbing and the Clerks (R466 to R472) -/
namespace Sys2Proof.Machine
open Sys2Proof

/-! ### Scrubbing (R466 to R470) -/

section Scrub
variable {d : Dev} {w : ScrubWord}

theorem scrubWordRead_of_dark (hlit : d.lit = false) (e : Ecc) : scrubWordRead w e d = d := if_pos (by rw [hlit]; rfl)

theorem scrubWordRead_of_clean {e : Ecc} (hcorr : e ≠ .corrected) (huncorr : e ≠ .uncorrectable) : scrubWordRead w e d = d := by
  unfold scrubWordRead
  split
  · rfl
  · split
    · exact absurd rfl hcorr
    · exact absurd rfl huncorr
    · rfl

theorem scrubWordRead_of_lit (hlit : d.lit = true) : scrubWordRead w .corrected d = d.scrubCorrected w
    ∧ scrubWordRead w .uncorrectable d = d.scrubUe w :=
  have hon : ¬ (!d.lit) = true := by rw [hlit]; exact Bool.false_ne_true
  ⟨if_neg hon, if_neg hon⟩

theorem Dev.scrubCorrected_eq (d : Dev) (w : ScrubWord) : d.scrubCorrected w = (if (scrubUnit w).1 = 3
    then ({ d with service := { d.service with scrubCorr := d.service.scrubCorr.mod (scrubUnit w).2 (· + 1) } } : Dev)
    else d).corrected (scrubUnit w).1 (scrubUnit w).2 :=
  congrArg (fun s : Dev => s.corrected (scrubUnit w).1 (scrubUnit w).2) (if_congr beq_iff_eq rfl rfl)

/-- An uncorrectable word of a front shelf. -/
theorem Dev.scrubUe_of_front {b i k : Nat} (hlot : d.lotOf b = some k) (hkind : (d.lot k).front.kind ≠ 0) :
    d.scrubUe (.frontShelf b i) = ((d.faultCtx (d.lot k).front.ctx 0x0023 (4 * b) 0).dropFront k).unitError 0x09 3 b
      [(d.lot k).front.ctx] 0x0023 0 := by
  unfold Dev.scrubUe
  dsimp only [scrubUnit]
  rewrite [hlot]
  exact if_neg hkind

theorem Dev.scrubUe_of_noFront {b i : Nat} (h : ∀ k, d.lotOf b = some k → (d.lot k).front.kind = 0) :
    d.scrubUe (.frontShelf b i) = d.unitError 0x09 3 b [] 0 0 := by
  unfold Dev.scrubUe
  dsimp only [scrubUnit]
  cases hlot : d.lotOf b with
  | none => rfl
  | some k => exact if_pos (h k hlot)

/-- An uncorrectable word of a back shelf. -/
theorem Dev.scrubUe_of_back {b i k : Nat} (hlot : d.lotOf b = some k) :
    d.scrubUe (.backShelf b i) = (d.backLost k b 0x09).unitError 0x09 3 b [] 0 0 := by
  unfold Dev.scrubUe
  dsimp only [scrubUnit]
  rw [hlot]

theorem Dev.scrubUe_of_noBack {b i : Nat} (hlot : d.lotOf b = none) : d.scrubUe (.backShelf b i) = d.unitError 0x09 3 b [] 0 0 := by
  unfold Dev.scrubUe
  dsimp only [scrubUnit]
  rw [hlot]

/-- Nothing holds back what is due while the main clock runs. -/
theorem not_held {lit : Bool} {now due : Nat} (hlit : lit = true) (h : due ≤ now) : ¬ ((!lit) = true ∨ now < due) := by
  rw [hlit]
  exact not_or_intro Bool.false_ne_true (Nat.not_lt_of_le h)

theorem scrubPassEnd_of_early (n : Nat) (h : d.lit = false ∨ d.now < d.service.scrubAt + 10 * msec) : scrubPassEnd n d = d :=
  if_pos (h.imp_left fun hlit => by rw [hlit]; rfl)

theorem scrubPassEnd_of_due (n : Nat) (hlit : d.lit = true) (h : d.service.scrubAt + 10 * msec ≤ d.now) : scrubPassEnd n d =
    { d with service := { d.service with scrubAt := d.now, scrubFix := d.service.scrubFix + n } } :=
  if_neg (not_held hlit h)

theorem scrubberCheck_of_early (crc : Nat) (h : d.lit = false ∨ d.now < d.service.scrubCheckAt + 100 * msec) : scrubberCheck crc d = d :=
  if_pos (h.imp_left fun hlit => by rw [hlit]; rfl)

/-- The check of the scrubber's own configuration, when it is due. -/
theorem scrubberCheck_of_due (crc : Nat) (hlit : d.lit = true) (h : d.service.scrubCheckAt + 100 * msec ≤ d.now) : scrubberCheck crc d =
    if crc = Config.scrubberRomCrc % 2 ^ 32 then { d with service := { d.service with scrubCheckAt := d.now } }
    else (({ d with service := { d.service with scrubCheckAt := d.now, scrubAt := d.now } } : Dev).logAdd
      { seq := 0, persist := true, ekind := 0x11, uclass := 12 }).2.event
        0x36 [(36, 4, crc), (40, 4, Config.scrubberRomCrc % 2 ^ 32)] :=
  if_neg (not_held hlit h)

end Scrub

/-- The scrub of a word, by the word and what its code says. -/
theorem exec_scrubWordRead (w : ScrubWord) (s : State) (hw : w.there = true) : let d := s.dev
    let on (g : Dev) : Host.Outcome State Fault Refusal := .next { s with dev := { g with now := d.now } }
    let c := (scrubUnit w).1
    let u := (scrubUnit w).2
    (∀ e, e ≠ .corrected → e ≠ .uncorrectable → exec (.scrubWordRead w e) s = .next s) ∧
    (d.lit = false → ∀ e, exec (.scrubWordRead w e) s = .next s) ∧
    (d.lit = true →
      exec (.scrubWordRead w .corrected) s = on ((if c = 3
        then ({ d with service := { d.service with scrubCorr := d.service.scrubCorr.mod u (· + 1) } } : Dev) else d).corrected c u) ∧
      (∀ b i k, w = .frontShelf b i → d.lotOf b = some k → (d.lot k).front.kind ≠ 0 → let x := (d.lot k).front.ctx
        exec (.scrubWordRead w .uncorrectable) s = on (((d.faultCtx x 0x0023 (4 * b) 0).dropFront k).unitError 0x09 3 b [x] 0x0023 0)) ∧
      (∀ b i, w = .frontShelf b i → (∀ k, d.lotOf b = some k → (d.lot k).front.kind = 0) →
        exec (.scrubWordRead w .uncorrectable) s = on (d.unitError 0x09 3 b [] 0 0)) ∧
      (∀ b i, w = .backShelf b i → d.lotOf b = none →
        exec (.scrubWordRead w .uncorrectable) s = on (d.unitError 0x09 3 b [] 0 0)) ∧
      (∀ b i k, w = .backShelf b i → d.lotOf b = some k →
        exec (.scrubWordRead w .uncorrectable) s = on ((d.backLost k b 0x09).unitError 0x09 3 b [] 0 0)) ∧
      (∀ n, w = .route n → exec (.scrubWordRead w .uncorrectable) s = on ((each ((routeCands (d.elveel.routes.get n)).filter
        fun q => (d.port q.1).carries) (fun q g => g.retrainPort q.1) d).unitError 0x09 7 0 [] 0 0)) ∧
      (∀ n, w = .gridMap n ∨ w = .switchMap n ∨ w = .board n →
        exec (.scrubWordRead w .uncorrectable) s = on (d.unitError 0x09 c u [] 0 0))) := by
  intro d on c u
  have hto : ∀ {e t}, scrubWordRead w e d = t → exec (.scrubWordRead w e) s = on t :=
    fun {e} _ ht => exec_of_actOn (f := scrubWordRead w e) rfl hw ht
  refine ⟨fun e hcorr huncorr => (hto (scrubWordRead_of_clean hcorr huncorr)).trans rfl,
    fun hlit e => (hto (scrubWordRead_of_dark hlit e)).trans rfl, fun hlit => ?_⟩
  obtain ⟨hfixed, hlost⟩ := scrubWordRead_of_lit (w := w) hlit
  refine ⟨hto (hfixed.trans (d.scrubCorrected_eq w)), ?_, ?_, ?_, ?_, ?_, ?_⟩
  · rintro b i k rfl hlot hkind
    exact hto (hlost.trans (Dev.scrubUe_of_front hlot hkind))
  · rintro b i rfl hnone
    exact hto (hlost.trans (Dev.scrubUe_of_noFront hnone))
  · rintro b i rfl hlot
    exact hto (hlost.trans (Dev.scrubUe_of_noBack hlot))
  · rintro b i k rfl hlot
    exact hto (hlost.trans (Dev.scrubUe_of_back hlot))
  · rintro n rfl
    exact hto (hlost.trans rfl)
  · rintro n (rfl | rfl | rfl)
    · exact hto (hlost.trans rfl)
    · exact hto (hlost.trans rfl)
    · exact hto (hlost.trans rfl)

/-- The end of a scrub pass, and the check of the scrubber. -/
theorem exec_scrubberChecks (s : State) : let d := s.dev
    let v := d.service
    (∀ n, d.lit = true → v.scrubAt + 10 * msec ≤ d.now → exec (.scrubPassEnd n) s =
      .next { s with dev := { d with service := { v with scrubAt := d.now, scrubFix := v.scrubFix + n } } }) ∧
    (∀ n, (d.lit = false ∨ d.now < v.scrubAt + 10 * msec) → exec (.scrubPassEnd n) s = .next s) ∧
    (∀ crc, crc < 2 ^ 32 → d.lit = true → v.scrubCheckAt + 100 * msec ≤ d.now → let want := Config.scrubberRomCrc % 2 ^ 32
      (crc = want → exec (.scrubberCheck crc) s = .next { s with dev := { d with service := { v with scrubCheckAt := d.now } } }) ∧
      (crc ≠ want → let g : Dev := { d with service := { v with scrubCheckAt := d.now, scrubAt := d.now } }
        exec (.scrubberCheck crc) s = .next { s with dev := { (g.logAdd { seq := 0, persist := true, ekind := 0x11, uclass := 12 }).2.event
          0x36 [(36, 4, crc), (40, 4, want)] with now := d.now } })) ∧
    (∀ crc, crc < 2 ^ 32 → (d.lit = false ∨ d.now < v.scrubCheckAt + 100 * msec) → exec (.scrubberCheck crc) s = .next s) := by
  intro d v
  have hpass : ∀ {n t}, scrubPassEnd n d = t → exec (.scrubPassEnd n) s = .next { s with dev := { t with now := d.now } } :=
    fun {n} _ ht => exec_of_act (f := scrubPassEnd n) rfl ht
  have hcheck : ∀ {crc t}, crc < 2 ^ 32 → scrubberCheck crc d = t →
      exec (.scrubberCheck crc) s = .next { s with dev := { t with now := d.now } } :=
    fun {crc} _ hcrc ht => exec_of_actOn (f := scrubberCheck crc) rfl (decide_eq_true hcrc) ht
  refine ⟨fun n hlit hdue => (hpass (scrubPassEnd_of_due n hlit hdue)).trans rfl,
    fun n hearly => (hpass (scrubPassEnd_of_early n hearly)).trans rfl, fun crc hcrc hlit hdue => ⟨fun hsame => ?_, fun hother => ?_⟩,
    fun crc hcrc hearly => (hcheck hcrc (scrubberCheck_of_early crc hearly)).trans rfl⟩
  · exact (hcheck hcrc ((scrubberCheck_of_due crc hlit hdue).trans (if_pos hsame))).trans rfl
  · exact hcheck hcrc ((scrubberCheck_of_due crc hlit hdue).trans (if_neg hother))

/-! ### A Clerk fails (R471, R472) -/

/-- A unit error leaves a test of its unit in the tables, and the Clerks and their contexts as they were. -/
theorem Dev.tests_unitError (s : Dev) (ekind uclass unit : Nat) (ctxs : List Nat) (fcode addr : Nat) (detail : W64) :
    let g := s.unitError ekind uclass unit ctxs fcode addr detail
    (g.service.tests.any fun x => x.uclass == uclass && x.unit == unit) = true ∧ g.service.clerks = s.service.clerks
      ∧ g.service.home = s.service.home := by
  intro g
  have hg : g = s.unitError ekind uclass unit ctxs fcode addr detail := rfl
  clear_value g
  unfold Dev.unitError at hg
  split at hg
  case h_1 t hfind =>
    obtain ⟨_, _, hlog⟩ := s.logAdd_frame
      { seq := 0, ekind := ekind, uclass := uclass, unit := unit, outcome := 3, fcode := fcode, addr := addr,
        ctx := ctxs.headD 0xFFFF, detail := BitVec.ofNat 64 t.logSeq }
    rw [hg, hlog]
    refine ⟨List.any_eq_true.mpr ⟨t, List.mem_of_find?_eq_some hfind, ?_⟩, rfl, rfl⟩
    have hunit := List.find?_some hfind
    rw [Bool.and_eq_true, decide_eq_true_iff, decide_eq_true_iff] at hunit
    obtain ⟨hclass, hunit⟩ := hunit
    rewrite [hclass, hunit, beq_self_eq_true, beq_self_eq_true]
    rfl
  case h_2 =>
    obtain ⟨_, _, hlog⟩ := s.logAdd_frame
      { seq := 0, ekind := ekind, uclass := uclass, unit := unit, outcome := 4, fcode := fcode, addr := addr,
        ctx := ctxs.headD 0xFFFF, detail := detail }
    dsimp only at hg
    rw [hg, hlog]
    refine ⟨?_, rfl, rfl⟩
    dsimp only [Dev.modSvc]
    rw [List.any_append, List.any_cons, beq_self_eq_true, beq_self_eq_true]
    simp

theorem Dev.service_aside (s : Dev) : s.aside.service = s.service := by
  unfold Dev.aside Dev.apart
  rfl

theorem Dev.service_faultCtx (s : Dev) (c fcode funit off : Nat) (viol : W64) (name : FaultName) :
    (s.faultCtx c fcode funit off viol name).service = s.service :=
  (Dev.service_aside _).symm.trans ((congrArg Dev.service (s.aside_faultCtx c fcode funit off viol name)).trans s.service_aside)

/-- The fault of a context leaves the entry of every other. -/
theorem Dev.ctx_faultCtx_other (s : Dev) {c e : Nat} (h : c ≠ e) (fcode funit off : Nat) (viol : W64) (name : FaultName) :
    (s.faultCtx e fcode funit off viol name).ctx c = s.ctx c := by
  by_cases hbound : (s.ctx e).state = .bound
  · show (Dev.ctxs _).get c = _
    rw [Dev.ctxs_faultCtx hbound]
    exact s.ctx_setCtx_other e c _ h
  · rw [Dev.faultCtx_of_unbound hbound]

/-- A BOUND context of a list whose contexts are faulted has faulted. -/
theorem Dev.hasFaulted_of_mem {cs : List Nat} {c fcode funit off : Nat} (hc : c ∈ cs) {s : Dev} (hs : (s.ctx c).state = .bound) :
    (each cs (fun c s => s.faultCtx c fcode funit off) s).hasFaulted c fcode funit := by
  induction cs generalizing s with
  | nil => exact absurd hc List.not_mem_nil
  | cons e cs ih =>
    rw [each_cons]
    by_cases hce : c = e
    · subst hce
      exact foldl_keeps_of (P := fun s => s.hasFaulted c fcode funit)
        (fun _ e hg => Dev.hasFaulted_faultCtx_again hg e fcode funit off 0 .nothing) cs (Dev.hasFaulted_faultCtx hs fcode funit off 0 .nothing)
    · exact ih ((List.mem_cons.mp hc).resolve_left hce) (by rw [Dev.ctx_faultCtx_other s hce]; exact hs)

/-- The device with the contexts of a Clerk faulted and its unit error raised. -/
def Dev.clerkFaulted (s : Dev) (ekind k : Nat) : Dev :=
  (each (s.homedOn k) (fun c s => s.faultCtx c 0x0022 ioUnit 0) s).unitError ekind 8 k (s.homedOn k) (if s.homedOn k = [] then 0 else 0x0022) 0

theorem Dev.service_clerkFaulted (s : Dev) (ekind k : Nat) :
    ((s.clerkFaulted ekind k).service.tests.any fun x => x.uclass == 8 && x.unit == k) = true
      ∧ (s.clerkFaulted ekind k).service.clerks = s.service.clerks ∧ (s.clerkFaulted ekind k).service.home = s.service.home := by
  have hkept : (each (s.homedOn k) (fun c s => s.faultCtx c 0x0022 ioUnit 0) s).service = s.service :=
    each_keeps Dev.service (fun c t => t.service_faultCtx c _ _ _ _ _) _ s
  obtain ⟨htests, hclerks, hhome⟩ := (each (s.homedOn k) (fun c s => s.faultCtx c 0x0022 ioUnit 0) s).tests_unitError ekind 8 k
    (s.homedOn k) (if s.homedOn k = [] then 0 else 0x0022) 0 0
  exact ⟨htests, hclerks.trans (congrArg Service.clerks hkept), hhome.trans (congrArg Service.home hkept)⟩

/-- An index of a table that holds another value than the default has an entry. -/
theorem Tab.entry_mem_of_ne_default {α : Type} [Inhabited α] (t : Tab α) (k : Nat) (h : t.get k ≠ default) : (k, t.get k) ∈ t := by
  unfold Tab.get at h ⊢
  induction t with
  | nil => exact absurd rfl h
  | cons p t ih =>
    simp only [look] at h ⊢
    split
    next hk => exact hk ▸ List.mem_cons_self
    next hk =>
      rw [if_neg hk] at h
      split
      next hlt =>
        rw [if_pos hlt] at h
        exact absurd rfl h
      next hlt =>
        rw [if_neg hlt] at h
        exact List.mem_cons_of_mem _ (ih h)

theorem Dev.mem_homedOn {s : Dev} {c k : Nat} (hbound : (s.ctx c).state = .bound) (hhome : s.service.home.get c = k) : c ∈ s.homedOn k := by
  have hmem : (c, s.ctx c) ∈ s.ctxs := s.ctxs.entry_mem_of_ne_default c fun h => by
    have hdefault : (s.ctx c).state = (default : Ctx).state := congrArg Ctx.state h
    rw [hbound] at hdefault
    cases hdefault
  refine List.mem_map.mpr ⟨_, List.mem_filter.mpr ⟨hmem, ?_⟩, rfl⟩
  dsimp only
  rewrite [hbound, hhome, beq_self_eq_true, beq_self_eq_true]
  rfl

theorem Dev.hasFaulted_clerkFaulted {s : Dev} {c k : Nat} (ekind : Nat) (hbound : (s.ctx c).state = .bound)
    (hhome : s.service.home.get c = k) : (s.clerkFaulted ekind k).hasFaulted c 0x0022 ioUnit :=
  Dev.hasFaulted_of_dossier (Dev.dossier_unitError ..) (Dev.hasFaulted_of_mem (Dev.mem_homedOn hbound hhome) hbound)

section ClerkFail
variable {d : Dev} {k : Nat}

theorem Dev.clerkFail_of_down (ekind : Nat) (h : d.lit = false ∨ (d.service.clerks.get k).up = false) : d.clerkFail ekind k = d :=
  if_pos (h.imp (fun hlit => by rw [hlit]; rfl) fun hup => by rw [hup]; rfl)

theorem Dev.clerkFail_of_up (ekind : Nat) (hlit : d.lit = true) (hup : (d.service.clerks.get k).up = true) :
    d.clerkFail ekind k = (d.clerkFaulted ekind k).clerkDown k (d.homedOn k) :=
  if_neg (by rw [hlit, hup]; exact not_or_intro Bool.false_ne_true Bool.false_ne_true)

/-- The service tables with one Clerk out of service. -/
def Service.without (v : Service) (k : Nat) : Service := { v with clerks := v.clerks.mod k fun c => { c with up := false } }

theorem Service.up_without_same (v : Service) (k : Nat) : ((v.without k).clerks.get k).up = false := by
  unfold Service.without
  rw [Tab.get_mod_same]

/-- The Clerks in service of a pool, with one of them gone. -/
theorem Dev.poolUp_without (d : Dev) (k p : Nat) :
    ({ d with service := d.service.without k } : Dev).poolUp p = (d.poolUp p).filter fun i => i != k := by
  unfold Dev.poolUp Service.without
  dsimp only
  rw [List.filter_filter]
  refine List.filter_congr fun i _ => ?_
  by_cases hi : i = k
  · subst hi
    rw [Tab.get_mod_same, bne_self_eq_false, Bool.false_and]
  · rw [Tab.get_mod_other _ _ _ _ hi, bne_iff_ne.mpr hi, Bool.true_and]

theorem Dev.poolUp_of_clerks {s t : Dev} (h : t.service.clerks = s.service.clerks) (p : Nat) : t.poolUp p = s.poolUp p := by
  unfold Dev.poolUp
  rw [h]

/-- The Clerks that may take over from one, in the order in which they do. -/
def Dev.heirs (d : Dev) (k : Nat) : List Nat :=
  ((d.poolUp (clerkPool k)).filter fun i => i != k) ++
    if clerkPool k = 2 then [] else (d.poolUp (1 - clerkPool k)).filter fun i => i != k

/-- The last Clerk of the fabric pool. -/
theorem Dev.clerkDown_of_lastFabric (cs : List Nat) (hpool : clerkPool k = 2) (hnone : d.heirs k = []) :
    d.clerkDown k cs = ({ d with service := d.service.without k } : Dev).lowerRails := by
  unfold Dev.heirs at hnone
  exact if_pos ⟨(d.poolUp_without k _).trans (List.append_eq_nil_iff.mp hnone).1, hpool⟩

theorem Dev.clerkDown_of_none (cs : List Nat) (hpool : clerkPool k ≠ 2) (hnone : d.heirs k = []) :
    d.clerkDown k cs = { d with service := d.service.without k } := by
  unfold Dev.heirs at hnone
  rw [if_neg hpool, ← Dev.poolUp_without, ← Dev.poolUp_without] at hnone
  unfold Dev.clerkDown
  refine (if_neg fun h => hpool h.2).trans ?_
  dsimp only [Dev.modSvc]
  unfold Service.without at hnone ⊢
  rewrite [hnone]
  rfl

/-- The first heir takes the contexts over. -/
theorem Dev.clerkDown_of_heir (cs : List Nat) {h : Nat} {rest : List Nat} (hheirs : d.heirs k = h :: rest) :
    d.clerkDown k cs = { d with service := { d.service.without k with
      home := cs.foldl (fun (t : Tab Nat) c => t.set c h) d.service.home } } := by
  have hfirst : ∃ tail, ({ d with service := d.service.without k } : Dev).poolUp (clerkPool k)
      ++ ({ d with service := d.service.without k } : Dev).poolUp (1 - clerkPool k) = h :: tail := by
    unfold Dev.heirs at hheirs
    rw [Dev.poolUp_without, Dev.poolUp_without]
    by_cases hpool : clerkPool k = 2
    · rw [if_pos hpool, List.append_nil] at hheirs
      rw [hheirs]
      exact ⟨_, rfl⟩
    · rw [if_neg hpool] at hheirs
      exact ⟨rest, hheirs⟩
  have hsome : ¬ (({ d with service := d.service.without k } : Dev).poolUp (clerkPool k) = [] ∧ clerkPool k = 2) := by
    rintro ⟨hnone, hpool⟩
    unfold Dev.heirs at hheirs
    rw [if_pos hpool, ← Dev.poolUp_without, hnone] at hheirs
    cases hheirs
  obtain ⟨tail, htail⟩ := hfirst
  unfold Dev.clerkDown
  refine (if_neg hsome).trans ?_
  dsimp only [Dev.modSvc]
  unfold Service.without at htail ⊢
  rewrite [htail]
  rfl

/-- One value written at every index of a list stands at each of them. -/
theorem Tab.get_foldl_set {c h : Nat} {cs : List Nat} {t : Tab Nat} (hc : c ∈ cs ∨ t.get c = h) :
    (cs.foldl (fun (t : Tab Nat) c => t.set c h) t).get c = h := by
  induction cs generalizing t with
  | nil => exact hc.resolve_left List.not_mem_nil
  | cons e cs ih =>
    rw [List.foldl_cons]
    refine ih ?_
    by_cases hce : c = e
    · exact .inr (by rw [hce, Tab.get_set_same])
    · rw [Tab.get_set_other _ _ _ _ hce]
      exact hc.imp_left fun hmem => (List.mem_cons.mp hmem).resolve_left hce

theorem Dev.heirs_clerkFaulted (d : Dev) (ekind k : Nat) : (d.clerkFaulted ekind k).heirs k = d.heirs k := by
  obtain ⟨-, hclerks, -⟩ := d.service_clerkFaulted ekind k
  unfold Dev.heirs
  rw [Dev.poolUp_of_clerks hclerks, Dev.poolUp_of_clerks hclerks]

variable (ekind : Nat) (hlit : d.lit = true) (hup : (d.service.clerks.get k).up = true)
include hlit hup

theorem Dev.clerkFail_of_heir {h : Nat} {rest : List Nat} (hheirs : d.heirs k = h :: rest) :
    ((d.clerkFail ekind k).service.clerks.get k).up = false
      ∧ ((d.clerkFail ekind k).service.tests.any fun x => x.uclass == 8 && x.unit == k) = true
      ∧ ∀ c, (d.ctx c).state = .bound → d.service.home.get c = k →
          (d.clerkFail ekind k).hasFaulted c 0x0022 ioUnit ∧ (d.clerkFail ekind k).service.home.get c = h := by
  obtain ⟨htests, -, -⟩ := d.service_clerkFaulted ekind k
  rw [Dev.clerkFail_of_up ekind hlit hup, Dev.clerkDown_of_heir _ ((d.heirs_clerkFaulted ekind k).trans hheirs)]
  exact ⟨Service.up_without_same _ k, htests, fun c hbound hhome =>
    ⟨Dev.hasFaulted_of_dossier rfl (Dev.hasFaulted_clerkFaulted ekind hbound hhome),
      Tab.get_foldl_set (.inl (Dev.mem_homedOn hbound hhome))⟩⟩

theorem Dev.clerkFail_of_none (hpool : clerkPool k ≠ 2) (hnone : d.heirs k = []) :
    ((d.clerkFail ekind k).service.clerks.get k).up = false
      ∧ ((d.clerkFail ekind k).service.tests.any fun x => x.uclass == 8 && x.unit == k) = true := by
  obtain ⟨htests, -, -⟩ := d.service_clerkFaulted ekind k
  rw [Dev.clerkFail_of_up ekind hlit hup, Dev.clerkDown_of_none _ hpool ((d.heirs_clerkFaulted ekind k).trans hnone)]
  exact ⟨Service.up_without_same _ k, htests⟩

theorem Dev.lowerRails_spec (s : Dev) : s.lowerRails.power.dstate = .aon ∧ s.lowerRails.power.mainStart = none ∧ s.lowerRails.diesLost :=
  ⟨rfl, rfl, rfl, rfl, rfl, rfl, rfl, rfl, rfl, rfl, rfl, rfl, rfl, rfl, rfl, rfl, rfl, rfl⟩

theorem Dev.clerkFail_of_lastFabric (hpool : clerkPool k = 2) (hnone : d.heirs k = []) :
    (d.clerkFail ekind k).power.dstate = .aon ∧ (d.clerkFail ekind k).power.mainStart = none ∧ (d.clerkFail ekind k).diesLost := by
  rw [Dev.clerkFail_of_up ekind hlit hup, Dev.clerkDown_of_lastFabric _ hpool ((d.heirs_clerkFaulted ekind k).trans hnone)]
  exact Dev.lowerRails_spec hlit hup _

end ClerkFail

/-! ### The test of a Clerk, once in 60 s (R471) -/

/-- The periodic test of a Clerk is due. -/
def Dev.clerkTestDue (d : Dev) (k : Nat) : Prop :=
  d.lit = true ∧ (d.service.clerks.get k).up = true ∧ (∃ i ∈ d.poolUp (clerkPool k), i ≠ k)
    ∧ (d.service.clerks.get k).testAt + 60 * second ≤ d.now
    ∧ ∀ t ∈ d.service.tests, t.uclass = 8 → clerkPool t.unit = clerkPool k → t.running = false

section ClerkTest
variable {d : Dev} {k : Nat}

theorem Dev.clerkTest_held_iff (d : Dev) (k : Nat) :
    ((!d.lit) = true ∨ (!(d.service.clerks.get k).up) = true ∨ (!((d.poolUp (clerkPool k)).any fun i => i != k)) = true
      ∨ (d.service.tests.any fun t => t.uclass == 8 && t.running && clerkPool t.unit == clerkPool k) = true
      ∨ d.now < (d.service.clerks.get k).testAt + 60 * second) ↔ ¬ d.clerkTestDue k := by
  have hother : (!((d.poolUp (clerkPool k)).any fun i => i != k)) = true ↔ ¬ ∃ i ∈ d.poolUp (clerkPool k), i ≠ k := by
    rw [Bool.not_eq_true', ← Bool.not_eq_true, List.any_eq_true]
    simp only [bne_iff_ne]
  have hbusy : (d.service.tests.any fun t => t.uclass == 8 && t.running && clerkPool t.unit == clerkPool k) = true
      ↔ ¬ ∀ t ∈ d.service.tests, t.uclass = 8 → clerkPool t.unit = clerkPool k → t.running = false := by
    rw [List.any_eq_true]
    simp only [Bool.and_eq_true, beq_iff_eq, not_forall, Bool.not_eq_false]
    exact ⟨fun ⟨t, ht, ⟨hclass, hrun⟩, hpool⟩ => ⟨t, ht, hclass, hpool, hrun⟩,
      fun ⟨t, ht, hclass, hpool, hrun⟩ => ⟨t, ht, ⟨hclass, hrun⟩, hpool⟩⟩
  rw [hother, hbusy, Bool.not_eq_true', ← Bool.not_eq_true, Bool.not_eq_true', ← Bool.not_eq_true, ← not_le]
  rw [← not_and_or, ← not_and_or, ← not_and_or, ← not_and_or]
  exact not_congr (and_congr_right fun _ => and_congr_right fun _ => and_congr_right fun _ => and_comm)

theorem clerkPeriodicTest_of_held (h : ¬ d.clerkTestDue k) (pass : Bool) : clerkPeriodicTest k pass d = d :=
  if_pos ((d.clerkTest_held_iff k).mpr h)

theorem clerkPeriodicTest_of_due (h : d.clerkTestDue k) (pass : Bool) : clerkPeriodicTest k pass d =
    if pass = true then { d with service := { d.service with clerks := d.service.clerks.mod k fun c => { c with testAt := d.now } } }
    else clerkUe k d :=
  if_neg fun hheld => (d.clerkTest_held_iff k).mp hheld h

end ClerkTest

/-- The failure and the test of a Clerk, by the Clerks that may take over. -/
theorem exec_clerkFailures (k : Nat) (s : State) (hk : k < 36) : let d := s.dev
    let clerk : Clerk := d.service.clerks.get k
    let p := clerkPool k
    let others := ((d.poolUp p).filter fun i => i != k) ++ if p = 2 then [] else (d.poolUp (1 - p)).filter fun i => i != k
    (∀ i ∈ [Instr.clerkWdt k, .clerkUe k],
      ((d.lit = false ∨ clerk.up = false) → exec i s = .next s) ∧
      (d.lit = true → clerk.up = true →
        (∀ h rest, others = h :: rest → ∃ t, exec i s = .next t ∧ (t.dev.service.clerks.get k).up = false
          ∧ (t.dev.service.tests.any fun x => x.uclass == 8 && x.unit == k) = true
          ∧ ∀ c, (d.ctx c).state = .bound → d.service.home.get c = k →
              t.dev.hasFaulted c 0x0022 ioUnit ∧ t.dev.service.home.get c = h) ∧
        (p ≠ 2 → others = [] → ∃ t, exec i s = .next t ∧ (t.dev.service.clerks.get k).up = false
          ∧ (t.dev.service.tests.any fun x => x.uclass == 8 && x.unit == k) = true) ∧
        (p = 2 → others = [] → ∃ t, exec i s = .next t ∧ t.dev.power.dstate = .aon ∧ t.dev.power.mainStart = none
          ∧ t.dev.diesLost))) ∧
    (d.clerkTestDue k → exec (.clerkPeriodicTest k true) s = .next { s with dev := { d with service := { d.service with
      clerks := d.service.clerks.mod k fun c => { c with testAt := d.now } } } }) ∧
    (d.clerkTestDue k → exec (.clerkPeriodicTest k false) s = exec (.clerkUe k) s) ∧
    (¬ d.clerkTestDue k → ∀ ok, exec (.clerkPeriodicTest k ok) s = .next s) := by
  intro d clerk p others
  have hto : ∀ {ok t}, clerkPeriodicTest k ok d = t → exec (.clerkPeriodicTest k ok) s = .next { s with dev := { t with now := d.now } } :=
    fun {ok} _ ht => exec_of_actOn (f := clerkPeriodicTest k ok) rfl (decide_eq_true hk) ht
  have hue : exec (.clerkUe k) s = .next { s with dev := { clerkUe k d with now := d.now } } :=
    exec_of_actOn (f := clerkUe k) rfl (decide_eq_true hk) rfl
  have hwdt : exec (.clerkWdt k) s = .next { s with dev := { clerkWdt k d with now := d.now } } :=
    exec_of_actOn (f := clerkWdt k) rfl (decide_eq_true hk) rfl
  refine ⟨fun i hi => ?fails, fun hdue => (hto (clerkPeriodicTest_of_due hdue true)).trans rfl,
    fun hdue => (hto (clerkPeriodicTest_of_due hdue false)).trans hue.symm,
    fun hheld ok => (hto (clerkPeriodicTest_of_held hheld ok)).trans rfl⟩
  obtain ⟨ekind, hfail⟩ : ∃ ekind, exec i s = .next { s with dev := { d.clerkFail ekind k with now := d.now } } := by
    rcases List.mem_pair.mp hi with rfl | rfl
    · exact ⟨0x0B, hwdt⟩
    · exact ⟨0x0A, hue⟩
  refine ⟨fun hdown => ?_, fun hlit hup => ⟨fun h rest hheirs => ⟨_, hfail, Dev.clerkFail_of_heir ekind hlit hup hheirs⟩,
    fun hpool hnone => ⟨_, hfail, Dev.clerkFail_of_none ekind hlit hup hpool hnone⟩,
    fun hpool hnone => ⟨_, hfail, Dev.clerkFail_of_lastFabric ekind hlit hup hpool hnone⟩⟩⟩
  rw [hfail, Dev.clerkFail_of_down ekind hdown]

/-! ### A live update, Clerk by Clerk (R475) -/

/-- What says how a live update stands: the Clerk that is next, and whether one has ended well since boot. -/
def Dev.updating (s : Dev) : Option Nat × Bool := (s.service.update, s.boot.liveUpdated)

theorem Dev.updating_eventLog (s : Dev) (detail : Nat) : (s.eventLog detail).updating = s.updating := by
  obtain ⟨_, _, h⟩ := s.draw.2.logAdd_frame
    { seq := 0, persist := true, ekind := s.draw.1 % 65536, uclass := s.draw.1 / 65536 % 256, unit := s.draw.1 / 2 ^ 24 % 2 ^ 32,
      detail := BitVec.ofNat 64 detail }
  exact (congrArg Dev.updating h).trans rfl

theorem Dev.updating_event (s : Dev) (code : Nat) (fs : List (Nat × Nat × Nat)) : (s.event code fs).updating = s.updating := by
  obtain ⟨_, _, h⟩ := s.event_frame code fs
  exact (congrArg Dev.updating h).trans rfl

theorem Dev.updating_liveEnd (d : Dev) : d.liveEnd.updating = (none, true) := by
  unfold Dev.liveEnd
  extract_lets slot h record s1 s2 s3
  have h3 : s3.updating = (none, true) := rfl
  clear_value s3 h
  exact (each_keeps Dev.updating (fun t s => (Dev.updating_eventLog _ t).trans (s.updating_event _ _)) [1, 2, 3] s3).trans h3

theorem Dev.update_liveFail (d : Dev) (type status : Nat) : (d.liveFail type status).service.update = none := by
  unfold Dev.liveFail
  extract_lets old s1 s2 digests s3 s4 record
  have h2 : s2.service.update = none := rfl
  have h4 : s4.service.update = s2.service.update := rfl
  clear_value record s4 digests s2 old
  split
  · exact h2
  · exact Eq.trans rfl (h4.trans h2)

section LiveUpdate
variable {d : Dev} {k i : Nat}

theorem clerkUpdate_of_idle (h : d.service.update = none) (a b : Bool) : clerkUpdate a b d = d := by
  unfold clerkUpdate
  rw [h]

variable (hupdate : d.service.update = some k)
include hupdate

theorem clerkUpdate_of_last (h : nextClerk d.service.clerks k = none) (a b : Bool) : clerkUpdate a b d = d.liveEnd := by
  unfold clerkUpdate
  rw [hupdate]
  dsimp only
  rw [h]

/-- The next Clerk of an update. -/
theorem clerkUpdate_of_next (h : nextClerk d.service.clerks k = some i) (digestOk pass : Bool) : clerkUpdate digestOk pass d =
    if (!digestOk) = true then d.liveFail 2 0x0B
    else if (!pass) = true then d.liveFail 2 0xFF
    else if (nextClerk (d.service.clerks.mod i fun c => { c with newFw := true, wdtAt := d.now, testAt := d.now }) (i + 1)).isNone = true
    then ({ d with service := { d.service with
      update := some (i + 1)
      clerks := d.service.clerks.mod i fun c => { c with newFw := true, wdtAt := d.now, testAt := d.now } } } : Dev).liveEnd
    else { d with service := { d.service with
      update := some (i + 1)
      clerks := d.service.clerks.mod i fun c => { c with newFw := true, wdtAt := d.now, testAt := d.now } } } := by
  unfold clerkUpdate
  rewrite [hupdate]
  dsimp only
  rewrite [h]
  rfl

end LiveUpdate

/-- A live update goes on, or ends. -/
theorem exec_clerkUpdate (k : Nat) (s : State) : let d := s.dev
    let v := d.service
    let on (g : Dev) : Host.Outcome State Fault Refusal := .next { s with dev := { g with now := d.now } }
    (v.update = none → ∀ a b, exec (.clerkUpdate a b) s = .next s) ∧
    (v.update = some k → (∀ i, nextClerk v.clerks k = some i →
        (∀ ok, exec (.clerkUpdate false ok) s = on (d.liveFail 2 0x0B)) ∧
        exec (.clerkUpdate true false) s = on (d.liveFail 2 0xFF) ∧
        let clerks := v.clerks.mod i fun c => { c with newFw := true, wdtAt := d.now, testAt := d.now }
        let g : Dev := { d with service := { v with update := some (i + 1), clerks := clerks } }
        ((nextClerk clerks (i + 1)).isSome = true → exec (.clerkUpdate true true) s = .next { s with dev := g }) ∧
        (nextClerk clerks (i + 1) = none → exec (.clerkUpdate true true) s = on g.liveEnd)) ∧
      (nextClerk v.clerks k = none → ∀ a b, exec (.clerkUpdate a b) s = on d.liveEnd)) := by
  intro d v on
  have hto : ∀ {a b t}, clerkUpdate a b d = t → exec (.clerkUpdate a b) s = on t :=
    fun {a b} _ ht => exec_of_act (f := clerkUpdate a b) rfl ht
  have hno : ¬ (!true) = true := Bool.false_ne_true
  refine ⟨fun hidle a b => (hto (clerkUpdate_of_idle hidle a b)).trans rfl, fun hupdate => ⟨fun i hnext => ⟨fun ok => ?_, ?_, ?_⟩,
    fun hlast a b => hto (clerkUpdate_of_last hupdate hlast a b)⟩⟩
  · exact hto ((clerkUpdate_of_next hupdate hnext false ok).trans (if_pos rfl))
  · exact hto ((clerkUpdate_of_next hupdate hnext true false).trans ((if_neg hno).trans (if_pos rfl)))
  · have hgood := (clerkUpdate_of_next hupdate hnext true true).trans ((if_neg hno).trans (if_neg hno))
    intro clerks g
    refine ⟨fun hmore => ?_, fun hend => ?_⟩
    · exact (hto (hgood.trans (if_neg (by rw [Option.isNone_iff_eq_none, ← Option.not_isSome_iff_eq_none]; exact not_not_intro hmore)))).trans rfl
    · exact hto (hgood.trans (if_pos (Option.isNone_iff_eq_none.mpr hend)))

/-- Settles O59: the scrubbed words by `exec_scrubWordRead`, the passes and checks by `exec_scrubberChecks`, the Clerks that fail by
`exec_clerkFailures`, and the live update by `exec_clerkUpdate`. -/
theorem scrubbersAndClerksAreKept : Obligations.ScrubbersAndClerksAreKept := by
  unfold Obligations.ScrubbersAndClerksAreKept
  refine ⟨exec_scrubWordRead, exec_scrubberChecks, fun k s hk => exec_clerkFailures k s hk, fun k s => ?_⟩
  obtain ⟨hidle, hgoes⟩ := exec_clerkUpdate k s
  have hend := s.dev.updating_liveEnd
  exact ⟨hidle, hgoes, Prod.mk.inj hend, fun st => s.dev.update_liveFail 2 st⟩

end Sys2Proof.Machine

/-! ## The orders of a tile's core (R458) -/
namespace Sys2Proof.Machine
open Sys2Proof

/-! ### A core that runs an order -/

/-- A core that has stopped in a cycle. -/
def Trestle.stops (now code : Nat) (t : Trestle) : Trestle := { t with stat := .halted code, ranAt := some now }
/-- A core that has run an order in a cycle and is at another. -/
def Trestle.goesTo (now : Nat) (pc : Int) (t : Trestle) : Trestle :=
  if 0 ≤ pc ∧ pc < 1024 then { t with pc := pc.toNat, stat := .run, ranAt := some now } else t.stops now haltRange
/-- A core that has run an order in a cycle and is at the next. -/
def Trestle.goesOn (now : Nat) (t : Trestle) : Trestle := t.goesTo now (t.pc + 1)

section Core
variable (t : Trestle) (now : Nat)

theorem Trestle.ran_goto (pc : Int) : { t.goto pc with ranAt := some now } = t.goesTo now pc := by
  unfold Trestle.goto Trestle.goesTo
  split
  · rfl
  · rfl

theorem Trestle.goto_ran (pc : Int) : ({ t with ranAt := some now } : Trestle).goto pc = t.goesTo now pc := by
  unfold Trestle.goto Trestle.goesTo
  split
  · rfl
  · rfl

theorem Trestle.ran_next : { t.next with ranAt := some now } = t.goesOn now := t.ran_goto now _
theorem Trestle.next_ran : ({ t with ranAt := some now } : Trestle).next = t.goesOn now := t.goto_ran now _

theorem Trestle.setG_ran (i : Nat) (v : W32) :
    ({ t with ranAt := some now } : Trestle).setG i v = { t.setG i v with ranAt := some now } := by
  unfold Trestle.setG
  split
  · rfl
  · rfl

/-- A register that is written and the next order. -/
theorem Trestle.setG_next_ran (i : Nat) (v : W32) : (({ t with ranAt := some now } : Trestle).setG i v).next = (t.setG i v).goesOn now := by
  rw [Trestle.setG_ran, Trestle.next_ran]

/-- A write of a register changes the registers alone. -/
theorem Trestle.setG_frame (i : Nat) (v : W32) : ∃ regs, t.setG i v = { t with regs := regs } := by
  unfold Trestle.setG
  split
  · exact ⟨t.regs, rfl⟩
  · exact ⟨_, rfl⟩

theorem Trestle.g_setG (i : Nat) (v : W32) {j : Nat} (hj : j < 64) : (t.setG i v).g j = if j ≠ 0 ∧ j = i then v else t.g j := by
  unfold Trestle.setG
  by_cases hi : i = 0 ∨ 64 ≤ i
  · rw [if_pos hi, if_neg (by omega)]
  · rw [if_neg hi]
    unfold Trestle.g
    by_cases h0 : j = 0
    · rw [if_pos h0, if_pos h0, if_neg fun h => h.1 h0]
    · rw [if_neg h0, if_neg h0]
      by_cases hji : j = i
      · rw [if_pos ⟨h0, hji⟩, hji]
        exact Tab.get_set_same ..
      · rw [if_neg fun h => hji h.2]
        exact Tab.get_set_other _ _ _ _ hji

variable {t}

theorem Trestle.next_of_room (h : t.pc + 1 < 1024) : t.next = { t with pc := t.pc + 1, stat := .run } := by
  unfold Trestle.next Trestle.goto
  rw [if_pos ⟨by omega, by omega⟩, ← Int.natCast_succ, Int.toNat_natCast]

theorem Trestle.next_of_end (h : 1024 ≤ t.pc + 1) : t.next = t.halt haltRange := by
  unfold Trestle.next Trestle.goto
  exact if_neg fun hin => absurd hin.2 (by omega)

end Core

section Orders
variable {d : Dev} {u op : Nat} {w : W32}

theorem Dev.modCore_congr {f g : Trestle → Trestle} (h : f (d.core u) = g (d.core u)) : d.modCore u f = d.modCore u g := by
  show ({ d with trestles := d.trestles.set u (f (d.core u)) } : Dev) = { d with trestles := d.trestles.set u (g (d.core u)) }
  rw [h]

theorem Dev.core_modCore (f : Trestle → Trestle) : (d.modCore u f).core u = f (d.core u) := by
  unfold Dev.modCore Dev.core
  dsimp only
  rw [Tab.get_mod_same]

theorem Dev.core_modCore_other (f : Trestle → Trestle) {n : Nat} (h : n ≠ u) : (d.modCore u f).core n = d.core n :=
  Tab.get_mod_other _ _ _ _ h

theorem coreOrder_of_none (f : W32 → Trestle → Trestle) (h : d.tileOrder u op = none) : coreOrder u op f d = d := by
  unfold coreOrder
  rw [h]

theorem aluOrder_of_none (f : W32 → Trestle → W32) (h : d.tileOrder u op = none) : aluOrder u op f d = d := coreOrder_of_none _ h

theorem branchOrder_of_none (p : W32 → W32 → Bool) (h : d.tileOrder u op = none) : branchOrder u op p d = d := coreOrder_of_none _ h

/-- An order that a core can run is not reserved, and stands at its PC. -/
theorem Dev.tileOrder_eq_some (h : d.tileOrder u op = some w) : reservedOrder ((d.core u).prog.get (d.core u).pc) = false := by
  unfold Dev.tileOrder at h
  dsimp only at h
  split at h
  next hmay =>
    rw [Bool.and_eq_true, Bool.not_eq_true'] at hmay
    exact hmay.2
  next => cases h

variable (ho : d.tileOrder u op = some w)
include ho

theorem coreOrder_of_order (f : W32 → Trestle → Trestle) :
    coreOrder u op f d = d.modCore u fun t => f w { t with ranAt := some d.now } := by
  unfold coreOrder
  rw [ho]

/-- A register takes its value, and the core goes on. -/
theorem aluOrder_of_order (f : W32 → Trestle → W32) : aluOrder u op f d =
    d.modCore u fun t => (t.setG (tA w) (f w { d.core u with ranAt := some d.now })).goesOn d.now := by
  refine (coreOrder_of_order ho _).trans (Dev.modCore_congr ?_)
  exact Trestle.setG_next_ran ..

theorem branchOrder_of_order {P : Prop} [Decidable P] (p : W32 → W32 → Bool)
    (hp : p ((d.core u).g (tA w)) ((d.core u).g (tB w)) = true ↔ P) : branchOrder u op p d =
      d.modCore u fun t => if P then t.goesTo d.now (t.pc + tImm14 w) else t.goesOn d.now := by
  refine (coreOrder_of_order ho _).trans (Dev.modCore_congr (if_congr hp ?_ ?_))
  · exact Trestle.goto_ran ..
  · exact Trestle.next_ran ..

end Orders

section Exec
variable {u op : Nat} {w : W32} {s : State} {i : Instr} (hu : isTile u = true)
include hu

theorem exec_of_tile {f : Dev → Dev} {g : Dev} (hexec : exec i s = s.actOn (isTile u) f) (hf : f s.dev = g) :
    exec i s = .next { s with dev := { g with now := s.dev.now } } := exec_of_actOn hexec hu hf

theorem exec_of_core {f : Dev → Dev} {g : Trestle → Trestle} (hexec : exec i s = s.actOn (isTile u) f)
    (hf : f s.dev = s.dev.modCore u g) :
    exec i s = .next { s with dev := s.dev.modCore u g } := (exec_of_tile hu hexec hf).trans rfl

theorem exec_of_noOrder {f : Dev → Dev} (hexec : exec i s = s.actOn (isTile u) f) (hf : f s.dev = s.dev) : exec i s = .next s :=
  (exec_of_tile hu hexec hf).trans rfl

theorem exec_of_alu {f : W32 → Trestle → W32} {v : W32} (hexec : exec i s = s.actOn (isTile u) (aluOrder u op f))
    (ho : s.dev.tileOrder u op = some w) (hv : f w { s.dev.core u with ranAt := some s.dev.now } = v) :
    exec i s = .next { s with dev := s.dev.modCore u (fun t => (t.setG (tA w) v).goesOn s.dev.now) } :=
  exec_of_core hu hexec ((aluOrder_of_order ho f).trans (by rw [hv]))

theorem exec_of_branch {P : Prop} [Decidable P] {p : W32 → W32 → Bool} (hexec : exec i s = s.actOn (isTile u) (branchOrder u op p))
    (hp : p ((s.dev.core u).g (tA w)) ((s.dev.core u).g (tB w)) = true ↔ P) (ho : s.dev.tileOrder u op = some w) :
    exec i s = .next { s with dev := s.dev.modCore u (fun t =>
      if P then t.goesTo s.dev.now (t.pc + tImm14 w) else t.goesOn s.dev.now) } :=
  exec_of_core hu hexec (branchOrder_of_order ho p hp)

/-! ### Registers, branches and halts -/

theorem exec_halt_reserved (hruns : s.dev.coreRuns u = true)
    (hres : reservedOrder ((s.dev.core u).prog.get (s.dev.core u).pc) = true) :
    exec (.halt u) s = .next { s with dev := s.dev.modCore u (Trestle.stops s.dev.now haltOpcode) } :=
  exec_of_core hu (f := halt u) rfl (if_pos (by rw [hruns, hres]; rfl))

theorem exec_halt (ho : s.dev.tileOrder u 0x00 = some w) : exec (.halt u) s =
    .next { s with dev := s.dev.modCore u (Trestle.stops s.dev.now ((s.dev.core u).g (tA w)).toNat) } := by
  refine exec_of_core hu (f := halt u) rfl ?_
  refine (if_neg (by rw [Dev.tileOrder_eq_some ho, Bool.and_false]; exact Bool.false_ne_true)).trans ?_
  exact (coreOrder_of_order ho _).trans (Dev.modCore_congr rfl)

theorem exec_jmp (ho : s.dev.tileOrder u 0x23 = some w) : exec (.jmp u) s =
    .next { s with dev := s.dev.modCore u (fun t => t.goesTo s.dev.now (t.pc + tImm20 w)) } := by
  refine exec_of_core hu (f := tileJmp u) rfl ((coreOrder_of_order ho _).trans (Dev.modCore_congr ?_))
  exact Trestle.goto_ran ..

theorem exec_waitc (ho : s.dev.tileOrder u 0x2C = some w) : exec (.waitc u) s = .next { s with dev := s.dev.modCore u (fun t =>
    if t.pc + 1 < 1024 then
      { t with pc := t.pc + 1, stat := .waitUntil (s.dev.now + ((s.dev.core u).g (tB w)).toNat), ranAt := some s.dev.now }
    else t.stops s.dev.now haltRange) } := by
  refine exec_of_core hu (f := tileWaitc u) rfl ((coreOrder_of_order ho _).trans (Dev.modCore_congr ?_))
  dsimp only
  generalize s.dev.core u = x
  by_cases hroom : x.pc + 1 < 1024
  · rewrite [if_pos hroom, Trestle.next_of_room (t := { x with ranAt := some s.dev.now }) hroom]
    rfl
  · rewrite [if_neg hroom, Trestle.next_of_end (t := { x with ranAt := some s.dev.now }) (Nat.le_of_not_lt hroom)]
    rfl

end Exec

/-! ### The window of a Stall's tiles, or of a Chest (R152 to R154, R178) -/

theorem Dev.trestles_aside (s : Dev) : (s.aside.trestles, s.aside.now) = (s.trestles, s.now) := by
  unfold Dev.aside Dev.apart
  rfl

/-- A fault leaves the cores and the time. -/
theorem Dev.trestles_faultCtx (s : Dev) (c fcode funit off : Nat) (viol : W64) (name : FaultName) :
    (s.faultCtx c fcode funit off viol name).trestles = s.trestles ∧ (s.faultCtx c fcode funit off viol name).now = s.now :=
  Prod.mk.inj ((Dev.trestles_aside _).symm.trans ((congrArg (fun g : Dev => (g.trestles, g.now))
    (s.aside_faultCtx c fcode funit off viol name)).trans s.trestles_aside))

theorem Dev.trestles_svcUe (s : Dev) (c a : Nat) : (s.svcUe c a).trestles = s.trestles ∧ (s.svcUe c a).now = s.now := by
  unfold Dev.svcUe
  extract_lets owner s1
  have h1 : s1.trestles = s.trestles ∧ s1.now = s.now := by
    show (s.violationFault c (svcReq a false 0) 0 0).trestles = _ ∧ (s.violationFault c (svcReq a false 0) 0 0).now = _
    unfold Dev.violationFault
    split
    · exact s.trestles_faultCtx ..
    · exact ⟨rfl, rfl⟩
  obtain ⟨_, _, _, h⟩ := s1.unitError_frame 0x02 1 (0x1000 + c) owner.toList 0x0004 (a / 64) 0
  rw [h]
  exact h1

theorem Dev.hasFaulted_svcUe {s : Dev} {c a o : Nat} (howner : s.bankOwner c (a / 64 % 16) = some o) (hbound : (s.ctx o).state = .bound) :
    (s.svcUe c a).hasFaulted o 0x0004 (0x1000 + c) := by
  unfold Dev.svcUe
  refine Dev.hasFaulted_of_dossier (Dev.dossier_unitError ..) ?_
  unfold Dev.violationFault
  dsimp only [svcReq]
  rw [howner]
  exact Dev.hasFaulted_faultCtx hbound ..

/-- A second write of a table's entry replaces the first, which held something. -/
theorem put_put_of_ne {α : Type} [DecidableEq α] {d : α} (t : List (Nat × α)) (i : Nat) {v : α} (v' : α) (hv : v ≠ d) :
    put d (put d t i v) i v' = put d t i v' := by
  induction t with
  | nil => simp [put, hv, past]
  | cons p t ih =>
    obtain ⟨k, x⟩ := p
    by_cases hlt : i < k
    · simp [put, hlt, hv, past, Nat.not_le_of_lt hlt]
    · by_cases heq : i = k
      · subst heq
        simp [put, hv]
      · simp [put, hlt, heq, ih]

theorem Tab.mod_mod_of_ne {α : Type} [Inhabited α] [DecidableEq α] {t : Tab α} {i : Nat} {f : α → α} (g : α → α)
    (h : f (t.get i) ≠ default) : (t.mod i f).mod i g = t.mod i fun x => g (f x) := by
  show put default (t.mod i f) i (g ((t.mod i f).get i)) = put default t i (g (f (t.get i)))
  rw [Tab.get_mod_same]
  exact put_put_of_ne t i _ h

section Window
variable {d : Dev} {u : Nat} {w : W32}

theorem Dev.windowOn_of_stall (p : Nat) (h : u < 0x1000) : d.windowOn u p = true := by
  unfold Dev.windowOn
  rw [decide_eq_true h, Bool.true_or]

theorem Dev.windowWaits_of_stall (p : Nat) (h : u < 0x1000) : d.windowWaits u p = false := by
  unfold Dev.windowWaits
  rw [decide_eq_false (Nat.not_le_of_lt h), Bool.false_and, Bool.false_and]

theorem Dev.windowWaits_of_off {p : Nat} (h : d.windowOn u p = false) : d.windowWaits u p = false := by
  unfold Dev.windowWaits
  rw [h, Bool.and_false, Bool.false_and]

/-- What a load of the window gives, and the device after it. -/
def Dev.windowRead (d : Dev) (u p : Nat) : Nat × Dev :=
  if !d.windowOn u p then d.draw
  else if u < 0x1000 then (leVal (memRead 0 d.tiles (32768 * u + p) 4), d)
  else if d.svcBad (u - 0x1000) p then ((d.svcUses (u - 0x1000) p).svcUe (u - 0x1000) p).draw
  else (d.memVal (chestOff (u - 0x1000) + p) 4, d.svcUses (u - 0x1000) p)

theorem Dev.windowRead_of_off {p : Nat} (h : d.windowOn u p = false) : d.windowRead u p = d.draw := if_pos (by rw [h]; rfl)

theorem Dev.windowRead_of_stall (p : Nat) (h : u < 0x1000) :
    d.windowRead u p = (leVal (memRead 0 d.tiles (32768 * u + p) 4), d) :=
  (if_neg (by rw [Dev.windowOn_of_stall p h]; exact Bool.false_ne_true)).trans (if_pos h)

theorem Dev.windowRead_of_chest {p : Nat} (hchest : 0x1000 ≤ u) (hon : d.windowOn u p = true) : d.windowRead u p =
    if d.svcBad (u - 0x1000) p then ((d.svcUses (u - 0x1000) p).svcUe (u - 0x1000) p).draw
    else (d.memVal (chestOff (u - 0x1000) + p) 4, d.svcUses (u - 0x1000) p) :=
  (if_neg (by rw [hon]; exact Bool.false_ne_true)).trans (if_neg (Nat.not_lt_of_le hchest))

/-- The register that a load writes, on a device that the access has left so. -/
def Dev.loads (d : Dev) (u : Nat) (w : W32) (v : Nat) : Dev :=
  d.modCore u fun t => (t.setG (tA w) (BitVec.ofNat 32 v)).goesOn d.now

/-- The cores after a load, on a device that has kept the cores and the time of another. -/
theorem Dev.core_loads {g : Dev} {v : Nat} (hcores : d.trestles = g.trestles) (hnow : d.now = g.now) :
    (d.loads u w v).core u = ((g.core u).setG (tA w) (BitVec.ofNat 32 v)).goesOn g.now
      ∧ ∀ n, n ≠ u → (d.loads u w v).core n = g.core n := by
  unfold Dev.loads Dev.modCore Dev.core
  rw [hcores, hnow]
  dsimp only
  refine ⟨?_, fun n hn => Tab.get_mod_other _ _ _ _ hn⟩
  rw [Tab.get_mod_same]

theorem tileLd_of_none (h : d.tileOrder u 0x18 = none) : tileLd u d = d := by
  unfold tileLd
  rw [h]

theorem tileSt_of_none (h : d.tileOrder u 0x19 = none) : tileSt u d = d := by
  unfold tileSt
  rw [h]

section Load
variable (ho : d.tileOrder u 0x18 = some w)
include ho

theorem tileLd_of_range (ha : windowAddr u w (d.core u) = none) : tileLd u d = d.modCore u (Trestle.stops d.now haltRange) := by
  unfold tileLd
  rewrite [ho]
  dsimp only
  rewrite [ha]
  rfl

theorem tileLd_of_waits {p : Nat} (ha : windowAddr u w (d.core u) = some p) (hwaits : d.windowWaits u p = true) : tileLd u d = d := by
  unfold tileLd
  rw [ho]
  dsimp only
  rw [ha]
  exact if_pos hwaits

theorem tileLd_of_turn {p : Nat} (ha : windowAddr u w (d.core u) = some p) (hturn : d.windowWaits u p = false) :
    tileLd u d = (d.windowRead u p).2.loads u w (d.windowRead u p).1 := by
  unfold tileLd
  rw [ho]
  dsimp only
  rw [ha]
  refine (if_neg (by rw [hturn]; exact Bool.false_ne_true)).trans ?_
  exact Dev.modCore_congr (Trestle.ran_next _ _)

end Load

/-- A chest whose SVC port accesses a bank, and takes a word. -/
def Dev.svcStores (d : Dev) (c p : Nat) (v : Bytes) : Dev :=
  (d.memPut (chestOff c + p) v).modChest c fun y =>
    { y with svcAt := some (d.now, p / 64 % 16), badWords := y.badWords.filter fun q => q != (p / 64, p % 64 / 4) }

theorem Dev.svcStores_eq (d : Dev) (c p : Nat) (v : Bytes) : ((d.svcUses c p).memPut (chestOff c + p) v).modChest c (fun x =>
    { x with badWords := x.badWords.filter fun q => q != (p / 64, p % 64 / 4) }) = d.svcStores c p v := by
  have hused : ({ d.chests.get c with svcAt := some (d.now, p / 64 % 16) } : Chest) ≠ default := fun h => by
    have hnone := congrArg Chest.svcAt h
    cases hnone
  exact congrArg (fun l : Tab Chest => { d.memPut (chestOff c + p) v with chests := l }) (Tab.mod_mod_of_ne
    (f := fun x => { x with svcAt := some (d.now, p / 64 % 16) }) _ hused)

/-- The device after a store to the window. -/
def Dev.windowWrite (d : Dev) (u p : Nat) (v : Bytes) : Dev :=
  if u < 0x1000 then { d with tiles := memWrite 0 d.tiles (32768 * u + p) v }
  else d.iff (d.windowOn u p) fun d => ((d.svcUses (u - 0x1000) p).memPut (chestOff (u - 0x1000) + p) v).modChest (u - 0x1000) fun x =>
    { x with badWords := x.badWords.filter fun q => q != (p / 64, p % 64 / 4) }

theorem Dev.windowWrite_of_stall (p : Nat) (v : Bytes) (h : u < 0x1000) :
    d.windowWrite u p v = { d with tiles := memWrite 0 d.tiles (32768 * u + p) v } := if_pos h

theorem Dev.windowWrite_of_off {p : Nat} (v : Bytes) (hchest : 0x1000 ≤ u) (hoff : d.windowOn u p = false) : d.windowWrite u p v = d :=
  (if_neg (Nat.not_lt_of_le hchest)).trans (if_neg (by rw [hoff]; exact Bool.false_ne_true))

theorem Dev.windowWrite_of_on {p : Nat} (v : Bytes) (hchest : 0x1000 ≤ u) (hon : d.windowOn u p = true) :
    d.windowWrite u p v = d.svcStores (u - 0x1000) p v :=
  (if_neg (Nat.not_lt_of_le hchest)).trans ((if_pos hon).trans (d.svcStores_eq (u - 0x1000) p v))

section Store
variable (ho : d.tileOrder u 0x19 = some w)
include ho

theorem tileSt_of_range (ha : windowAddr u w (d.core u) = none) : tileSt u d = d.modCore u (Trestle.stops d.now haltRange) := by
  unfold tileSt
  rewrite [ho]
  dsimp only
  rewrite [ha]
  rfl

theorem tileSt_of_waits {p : Nat} (ha : windowAddr u w (d.core u) = some p) (hwaits : d.windowWaits u p = true) : tileSt u d = d := by
  unfold tileSt
  rw [ho]
  dsimp only
  rw [ha]
  exact if_pos hwaits

theorem tileSt_of_turn {p : Nat} (ha : windowAddr u w (d.core u) = some p) (hturn : d.windowWaits u p = false) : tileSt u d =
    (d.windowWrite u p (leBytes 4 ((d.core u).g (tA w)).toNat)).modCore u
      (Trestle.goesOn (d.windowWrite u p (leBytes 4 ((d.core u).g (tA w)).toNat)).now) := by
  unfold tileSt
  rw [ho]
  dsimp only
  rw [ha]
  refine (if_neg (by rw [hturn]; exact Bool.false_ne_true)).trans ?_
  exact Dev.modCore_congr (Trestle.ran_next _ _)

end Store

end Window

section ExecWindow
variable {u : Nat} {w : W32} {s : State} (hu : isTile u = true)
include hu

/-- The loads of a tile, by the window and the bank. -/
theorem exec_ld (ho : s.dev.tileOrder u 0x18 = some w) : let d := s.dev
    let writes (v : W32) : Host.Outcome State Fault Refusal :=
      .next { s with dev := d.modCore u (fun t => (t.setG (tA w) v).goesOn d.now) }
    (windowAddr u w (d.core u) = none → exec (.ld u) s = .next { s with dev := d.modCore u (Trestle.stops d.now haltRange) }) ∧
    (∀ p, windowAddr u w (d.core u) = some p →
      (u < 0x1000 → exec (.ld u) s = writes (BitVec.ofNat 32 (leVal (memRead 0 d.tiles (32768 * u + p) 4)))) ∧
      (0x1000 ≤ u →
        (d.windowWaits u p = true → exec (.ld u) s = .next s) ∧
        (d.windowWaits u p = false → d.windowOn u p = true → d.svcBad (u - 0x1000) p = false →
          exec (.ld u) s = .next { s with dev := (d.svcUses (u - 0x1000) p).loads u w (d.memVal (chestOff (u - 0x1000) + p) 4) }) ∧
        (d.windowWaits u p = false → d.windowOn u p = true → d.svcBad (u - 0x1000) p = true → ∃ t v, exec (.ld u) s = .next t
          ∧ t.dev.core u = ((d.core u).setG (tA w) v).goesOn d.now ∧ (∀ n, n ≠ u → t.dev.core n = d.core n)
          ∧ ∀ o, d.bankOwner (u - 0x1000) (p / 64 % 16) = some o → (d.ctx o).state = .bound → t.dev.hasFaulted o 0x0004 u) ∧
        (d.windowOn u p = false → ∃ t v, exec (.ld u) s = .next t ∧ t.dev.mem = d.mem
          ∧ t.dev.trestles = d.trestles.mod u fun t => (t.setG (tA w) v).goesOn d.now))) := by
  intro d writes
  have hto : ∀ {t}, tileLd u d = t → exec (.ld u) s = .next { s with dev := { t with now := d.now } } :=
    fun ht => exec_of_tile hu (f := tileLd u) rfl ht
  refine ⟨fun ha => (hto (tileLd_of_range ho ha)).trans rfl, fun p ha => ⟨fun hstall => ?_, fun hchest => ⟨fun hwaits => ?_,
    fun hturn hon hgood => ?_, fun hturn hon hbad => ?_, fun hoff => ?_⟩⟩⟩
  · have hgo := tileLd_of_turn ho ha (Dev.windowWaits_of_stall p hstall)
    rw [Dev.windowRead_of_stall p hstall] at hgo
    exact (hto hgo).trans rfl
  · exact (hto (tileLd_of_waits ho ha hwaits)).trans rfl
  · have hgo := tileLd_of_turn ho ha hturn
    rw [Dev.windowRead_of_chest hchest hon, hgood, if_neg Bool.false_ne_true] at hgo
    exact (hto hgo).trans rfl
  · have hgo := tileLd_of_turn ho ha hturn
    rw [Dev.windowRead_of_chest hchest hon, hbad, if_pos rfl] at hgo
    obtain ⟨hcores, hnow⟩ := (d.svcUses (u - 0x1000) p).trestles_svcUe (u - 0x1000) p
    have hfault := fun o howner hbound => Dev.hasFaulted_svcUe (s := d.svcUses (u - 0x1000) p) (c := u - 0x1000) (a := p) (o := o)
      howner hbound
    rw [Nat.add_sub_of_le hchest] at hfault
    generalize (d.svcUses (u - 0x1000) p).svcUe (u - 0x1000) p = g at hgo hcores hnow hfault
    obtain ⟨hself, hothers⟩ := g.draw.2.core_loads (u := u) (w := w) (v := g.draw.1) (g := d) hcores hnow
    exact ⟨_, BitVec.ofNat 32 g.draw.1, hto hgo, hself, hothers, fun o howner hbound => Dev.hasFaulted_of_dossier rfl
      (hfault o howner hbound)⟩
  · have hgo := tileLd_of_turn ho ha (Dev.windowWaits_of_off hoff)
    rw [Dev.windowRead_of_off hoff] at hgo
    exact ⟨_, BitVec.ofNat 32 d.draw.1, hto hgo, rfl, rfl⟩

/-- The stores of a tile, by the window and the bank. -/
theorem exec_st (ho : s.dev.tileOrder u 0x19 = some w) : let d := s.dev
    let v := leBytes 4 ((d.core u).g (tA w)).toNat
    let on (g : Dev) : Host.Outcome State Fault Refusal := .next { s with dev := { g with now := d.now } }
    (windowAddr u w (d.core u) = none → exec (.st u) s = .next { s with dev := d.modCore u (Trestle.stops d.now haltRange) }) ∧
    (∀ p, windowAddr u w (d.core u) = some p → let ran := d.modCore u (Trestle.goesOn d.now)
      (u < 0x1000 → exec (.st u) s = on { ran with tiles := memWrite 0 d.tiles (32768 * u + p) v }) ∧
      (0x1000 ≤ u → d.windowWaits u p = true → exec (.st u) s = .next s) ∧
      (0x1000 ≤ u → d.windowOn u p = false → exec (.st u) s = on ran) ∧
      (0x1000 ≤ u → d.windowWaits u p = false → d.windowOn u p = true → exec (.st u) s = on (ran.svcStores (u - 0x1000) p v))) := by
  intro d v on
  have hto : ∀ {t}, tileSt u d = t → exec (.st u) s = on t := fun ht => exec_of_tile hu (f := tileSt u) rfl ht
  refine ⟨fun ha => (hto (tileSt_of_range ho ha)).trans rfl, fun p ha => ⟨fun hstall => ?_, fun _ hwaits => ?_,
    fun hchest hoff => ?_, fun hchest hturn hon => ?_⟩⟩
  · have hgo := tileSt_of_turn ho ha (Dev.windowWaits_of_stall p hstall)
    rw [Dev.windowWrite_of_stall p _ hstall] at hgo
    exact (hto hgo).trans rfl
  · exact (hto (tileSt_of_waits ho ha hwaits)).trans rfl
  · have hgo := tileSt_of_turn ho ha (Dev.windowWaits_of_off hoff)
    rw [Dev.windowWrite_of_off _ hchest hoff] at hgo
    exact (hto hgo).trans rfl
  · have hgo := tileSt_of_turn ho ha hturn
    rw [Dev.windowWrite_of_on _ hchest hon] at hgo
    exact (hto hgo).trans rfl

end ExecWindow

/-! ### Messages, the test port and the status words -/

/-- The words of a message in registers g[a] and on. -/
def Trestle.fills (t : Trestle) (a : Nat) (ws : List W32) (n : Nat) : Trestle :=
  (List.range n).foldl (fun (t : Trestle) i => t.setG (a + i) (ws.getD i 0)) t

section Fills
variable (t : Trestle) (a : Nat) (ws : List W32)

theorem Trestle.fills_succ (n : Nat) : t.fills a ws (n + 1) = (t.fills a ws n).setG (a + n) (ws.getD n 0) := by
  unfold Trestle.fills
  rw [List.range_succ, List.foldl_append, List.foldl_cons, List.foldl_nil]

theorem Trestle.fills_frame (n : Nat) : ∃ regs, t.fills a ws n = { t with regs := regs } := by
  induction n with
  | zero => exact ⟨t.regs, rfl⟩
  | succ n ih =>
    obtain ⟨regs, h⟩ := ih
    rw [Trestle.fills_succ, h]
    exact Trestle.setG_frame _ _ _

theorem Trestle.g_fills (n : Nat) {j : Nat} (hj : j < 64) :
    (t.fills a ws n).g j = if j ≠ 0 ∧ a ≤ j ∧ j < a + n then ws.getD (j - a) 0 else t.g j := by
  induction n with
  | zero => exact (if_neg (by omega)).symm
  | succ n ih =>
    rw [Trestle.fills_succ, Trestle.g_setG _ _ _ hj, ih]
    by_cases hlast : j ≠ 0 ∧ j = a + n
    · rw [if_pos hlast, if_pos (by omega), show j - a = n by omega]
    · rw [if_neg hlast]
      exact if_congr (by omega) rfl rfl

/-- A core that goes on keeps its registers and its queue. -/
theorem Trestle.goesOn_spec (now : Nat) : (t.goesOn now).queue = t.queue ∧ (∀ i, (t.goesOn now).g i = t.g i)
    ∧ (t.pc + 1 < 1024 → (t.goesOn now).pc = t.pc + 1 ∧ (t.goesOn now).stat = .run)
    ∧ (1024 ≤ t.pc + 1 → (t.goesOn now).stat = .halted haltRange) := by
  rw [← Trestle.ran_next]
  refine ⟨?_, fun i => ?_, fun hroom => ?_, fun hend => ?_⟩
  · unfold Trestle.next Trestle.goto
    split
    · rfl
    · rfl
  · unfold Trestle.next Trestle.goto
    split
    · rfl
    · rfl
  · rw [Trestle.next_of_room hroom]
    exact ⟨rfl, rfl⟩
  · rewrite [Trestle.next_of_end hend]
    rfl

end Fills

/-- A status word, and the device after it is read. -/
def Dev.statusWord (d : Dev) (u n : Nat) : Nat × Dev := match n with
  | 0 => (u, d)
  | 1 => (d.time % 2 ^ 32, d)
  | 2 => (d.time / 2 ^ 32, d)
  | 3 => ((d.core u).queue.length, d)
  | _ => d.draw

theorem Dev.statusWord_of_other {d : Dev} {u n : Nat} (h : 3 < n) : d.statusWord u n = d.draw := by
  obtain ⟨m, rfl⟩ : ∃ m, n = m + 4 := ⟨n - 4, by omega⟩
  rfl

theorem tileCsr_of_order {d : Dev} {u : Nat} {w : W32} (ho : d.tileOrder u 0x2B = some w) :
    tileCsr u d = (d.statusWord u (bits w.toNat 13 0)).2.loads u w (d.statusWord u (bits w.toNat 13 0)).1 := by
  unfold tileCsr
  rw [ho]
  exact Dev.modCore_congr (Trestle.ran_next _ _)

section Messages
variable {u : Nat} {w : W32} {s : State} (hu : isTile u = true)

theorem tileRecvt_of_none {d : Dev} (h : d.tileOrder u 0x29 = none) : tileRecvt u d = d := by
  unfold tileRecvt
  rw [h]

theorem tileTest_of_none {d : Dev} (r : Option Nat) (h : d.tileOrder u 0x2A = none) : tileTest u r d = d := by
  unfold tileTest
  rw [h]

theorem tileCsr_of_none {d : Dev} (h : d.tileOrder u 0x2B = none) : tileCsr u d = d := by
  unfold tileCsr
  rw [h]

include hu

/-- A message is received, or waited for. -/
theorem exec_recvt (ho : s.dev.tileOrder u 0x29 = some w) : let d := s.dev
    let x := d.core u
    (x.queue = [] → exec (.recvt u) s = .next { s with dev := d.modCore u (fun t => match t.stat with
      | .waitMsg _ => t
      | _ => { t with stat := .waitMsg d.now }) }) ∧
    (∀ m rest, x.queue = m :: rest → ∃ t, exec (.recvt u) s = .next t
      ∧ (t.dev.core u).queue = rest ∧ (∀ n, n ≠ u → t.dev.core n = d.core n)
      ∧ (x.pc + 1 < 1024 → (t.dev.core u).pc = x.pc + 1 ∧ (t.dev.core u).stat = .run)
      ∧ (1024 ≤ x.pc + 1 → (t.dev.core u).stat = .halted haltRange)
      ∧ ∀ i, i < 64 → (t.dev.core u).g i = if i ≠ 0 ∧ tA w ≤ i ∧ i ≤ tA w + 3 then m.words.getD (i - tA w) 0 else x.g i) := by
  intro d x
  have hrun : ∀ {g : Trestle → Trestle}, (match x.queue with
      | [] => (match x.stat with
        | .waitMsg _ => x
        | _ => { x with stat := .waitMsg d.now })
      | m :: rest => { (({ x with queue := rest } : Trestle).fills (tA w) m.words 4).next with ranAt := some d.now }) = g x →
      exec (.recvt u) s = .next { s with dev := d.modCore u g } := fun hg => by
    refine exec_of_core hu (f := tileRecvt u) rfl ?_
    unfold tileRecvt
    rw [ho]
    exact Dev.modCore_congr (Eq.trans rfl hg)
  refine ⟨fun hempty => hrun ?_, fun m rest hqueue => ?_⟩
  · rw [hempty]
  · have hnext : exec (.recvt u) s = .next { s with dev := d.modCore u fun t =>
        (({ t with queue := rest } : Trestle).fills (tA w) m.words 4).goesOn d.now } := hrun (by
      rw [hqueue]
      exact Trestle.ran_next _ _)
    have hcore : (d.modCore u fun t => (({ t with queue := rest } : Trestle).fills (tA w) m.words 4).goesOn d.now).core u =
        (({ x with queue := rest } : Trestle).fills (tA w) m.words 4).goesOn d.now := Dev.core_modCore _
    have hregs := fun i hi => ({ x with queue := rest } : Trestle).g_fills (tA w) m.words 4 (j := i) hi
    obtain ⟨regs, hfills⟩ := ({ x with queue := rest } : Trestle).fills_frame (tA w) m.words 4
    obtain ⟨hq, hg, hroom, hend⟩ := (({ x with queue := rest } : Trestle).fills (tA w) m.words 4).goesOn_spec d.now
    refine ⟨_, hnext, ?_, fun n hn => Dev.core_modCore_other _ hn, fun h => ?_, fun h => ?_, fun i hi => ?_⟩
    · rw [hcore, hq, hfills]
    · rw [hcore]
      rw [hfills] at hroom ⊢
      exact hroom h
    · rw [hcore]
      rw [hfills] at hend ⊢
      exact hend h
    · rw [hcore, hg, hregs i hi]
      exact if_congr (by omega) rfl rfl

/-- The test port's result, or a wait for it. -/
theorem exec_test (ho : s.dev.tileOrder u 0x2A = some w) : let d := s.dev
    (exec (.test u none) s = .next { s with dev := d.modCore u (fun t => match t.stat with
      | .waitTest _ => t
      | _ => { t with stat := .waitTest d.now }) }) ∧
    (∀ v, exec (.test u (some v)) s = .next { s with dev := d.modCore u fun t => (t.setG (tA w) (BitVec.ofNat 32 v)).goesOn d.now }) := by
  intro d
  refine ⟨exec_of_core hu (f := tileTest u none) rfl ?_, fun v => exec_of_core hu (f := tileTest u (some v)) rfl ?_⟩
  · unfold tileTest
    rewrite [ho]
    rfl
  · unfold tileTest
    rw [ho]
    exact Dev.modCore_congr (Trestle.ran_next _ _)

/-- The status words. -/
theorem exec_csr (ho : s.dev.tileOrder u 0x2B = some w) : let d := s.dev
    let n := bits w.toNat 13 0
    let writes (v : W32) : Host.Outcome State Fault Refusal :=
      .next { s with dev := d.modCore u (fun t => (t.setG (tA w) v).goesOn d.now) }
    (n = 0 → exec (.csr u) s = writes (BitVec.ofNat 32 u)) ∧
    (n = 1 → exec (.csr u) s = writes (BitVec.ofNat 32 (d.time % 2 ^ 32))) ∧
    (n = 2 → exec (.csr u) s = writes (BitVec.ofNat 32 (d.time / 2 ^ 32))) ∧
    (n = 3 → exec (.csr u) s = writes (BitVec.ofNat 32 (d.core u).queue.length)) ∧
    (3 < n → ∃ t v, exec (.csr u) s = .next t ∧ t.dev.trestles = d.trestles.mod u fun t => (t.setG (tA w) v).goesOn d.now) := by
  intro d n writes
  have hrun : ∀ {v g}, d.statusWord u n = (v, g) → exec (.csr u) s = .next { s with dev := { g.loads u w v with now := d.now } } :=
    fun hv => exec_of_tile hu (f := tileCsr u) rfl ((tileCsr_of_order ho).trans (by rw [show bits w.toNat 13 0 = n from rfl, hv]))
  refine ⟨fun hn => ?_, fun hn => ?_, fun hn => ?_, fun hn => ?_, fun hn => ?_⟩
  · exact (hrun (by rewrite [hn]; rfl)).trans rfl
  · exact (hrun (by rewrite [hn]; rfl)).trans rfl
  · exact (hrun (by rewrite [hn]; rfl)).trans rfl
  · exact (hrun (by rewrite [hn]; rfl)).trans rfl
  · exact ⟨_, BitVec.ofNat 32 d.draw.1, hrun (Dev.statusWord_of_other hn), rfl⟩

end Messages

/-- A message names the registers that it holds, as far as there are such. -/
theorem Dev.sendWords_spec (d : Dev) (t : Trestle) (a n : Nat) : ∃ ws k, d.sendWords t a n = (ws, { d with freeCount := k })
    ∧ ws.length = n + 1 ∧ ∀ i, i ≤ n → a + i < 64 → ws.getD i 0 = t.g (a + i) := by
  induction n with
  | zero =>
    refine ⟨[t.g a], d.freeCount, rfl, rfl, fun i hi _ => ?_⟩
    obtain rfl : i = 0 := Nat.le_zero.mp hi
    rfl
  | succ n ih =>
    obtain ⟨ws, k, hws, hlen, hwords⟩ := ih
    have hold : ∀ v, ∀ i, i ≤ n → a + i < 64 → (ws ++ [v]).getD i 0 = t.g (a + i) := fun v i hi h64 => by
      rw [List.getD_append _ _ _ _ (by omega), hwords i hi h64]
    unfold Dev.sendWords
    rw [hws]
    dsimp only
    by_cases h64 : a + n + 1 < 64
    · rw [if_pos h64]
      refine ⟨_, k, rfl, by rw [List.length_append, hlen]; rfl, fun i hi hi64 => ?_⟩
      rcases Nat.le_succ_iff.mp hi with hin | rfl
      · exact hold _ i hin hi64
      · rewrite [List.getD_append_right _ _ _ _ (by omega), hlen, Nat.sub_self]
        rfl
    · rw [if_neg h64]
      exact ⟨_, k + 1, rfl, by rw [List.length_append, hlen]; rfl, fun i hi hi64 => hold _ i (by omega) hi64⟩

theorem Dev.trestles_dropWith (s : Dev) (b : Nat) (p : RPkt) (ecode : Nat) : (s.dropWith b p ecode).trestles = s.trestles := by
  unfold Dev.dropWith
  split
  · rfl
  · extract_lets own e
    split
    · rfl
    · split
      · rfl
      · rfl

/-- The message of a tile's core. -/
def Dev.tileMsg (d : Dev) (u : Nat) (w : W32) (q lane : Nat) (ws : List W32) : RPkt := {
  ddev := 0x3FFF, dunit := bits ((d.core u).g (tB w)).toNat 12 0, tag := bits ((d.core u).g (tB w)).toNat 18 13, nw := bits w.toNat 1 0,
  qinc := q, dinc := d.elveel.inc, sdev := d.elveel.devnum, sunit := u, words := ws, at_ := d.now + 1, lane := lane }

section Send
variable {d : Dev} {u : Nat} {w : W32}

theorem tileSendt_of_none (h : d.tileOrder u 0x28 = none) : tileSendt u d = d := by
  unfold tileSendt
  rw [h]

theorem Dev.headsFor_tileMsg (b q lane : Nat) (ws : List W32) :
    d.headsFor b (d.tileMsg u w q lane ws) = d.unitHome (bits ((d.core u).g (tB w)).toNat 12 0) := if_neg Bool.false_ne_true

/-- What becomes of a message, and the device when its core has gone on. -/
def Dev.sends (d : Dev) (u : Nat) (sent : Dev) (p : RPkt) : Dev := match d.headsFor (tileBlock u) p with
  | none => sent.dropWith (tileBlock u) p ecBadUnit
  | some h => match d.chooseLane (tileBlock u) h with
    | none => sent.dropWith (tileBlock u) p ecUnreachable
    | some lane => if (d.inbuf (tileBlock u) 4 lane).length < 4
      then sent.modInbuf (tileBlock u) 4 lane fun l => l ++ [{ p with lane := lane }] else d

/-- A message that is sent, dropped, or has no room, by the path to its unit. -/
theorem tileSendt_of_order (ho : d.tileOrder u 0x28 = some w) : ∃ q ws k, ws.length = bits w.toNat 1 0 + 1
    ∧ (∀ i, i ≤ bits w.toNat 1 0 → tA w + i < 64 → ws.getD i 0 = (d.core u).g (tA w + i))
    ∧ tileSendt u d = match d.unitHome (bits ((d.core u).g (tB w)).toNat 12 0) with
      | none => (({ d with freeCount := k } : Dev).modCore u (Trestle.goesOn d.now)).dropWith (tileBlock u) (d.tileMsg u w q 0 ws) ecBadUnit
      | some h => match d.chooseLane (tileBlock u) h with
        | none =>
          (({ d with freeCount := k } : Dev).modCore u (Trestle.goesOn d.now)).dropWith (tileBlock u) (d.tileMsg u w q 0 ws) ecUnreachable
        | some lane => if (d.inbuf (tileBlock u) 4 lane).length < 4
          then (({ d with freeCount := k } : Dev).modCore u (Trestle.goesOn d.now)).modInbuf (tileBlock u) 4 lane fun l =>
            l ++ [d.tileMsg u w q lane ws]
          else d := by
  obtain ⟨ws, k, hws, hlen, hwords⟩ := d.sendWords_spec (d.core u) (tA w) (bits w.toNat 1 0)
  refine ⟨Config.freeValue k % 16, ws, k + 1, hlen, hwords, ?_⟩
  unfold tileSendt
  rw [ho]
  dsimp only
  rw [hws]
  dsimp only
  have hsent : ({ d with freeCount := k } : Dev).draw.2.modCore u (fun t => { t.next with ranAt := some d.now }) =
      ({ d with freeCount := k + 1 } : Dev).modCore u (Trestle.goesOn d.now) := Dev.modCore_congr (Trestle.ran_next _ _)
  show d.sends u (({ d with freeCount := k } : Dev).draw.2.modCore u fun t => { t.next with ranAt := some d.now })
    (d.tileMsg u w (Config.freeValue k % 16) 0 ws) = _
  rw [hsent]
  unfold Dev.sends
  rewrite [Dev.headsFor_tileMsg]
  rfl

end Send

theorem Dev.inbuf_modInbuf (s : Dev) (b port lane : Nat) (f : List RPkt → List RPkt) :
    (s.modInbuf b port lane f).inbuf b port lane = f (s.inbuf b port lane) := by
  unfold Dev.modInbuf Dev.modSw Dev.modBlock Dev.inbuf Dev.block
  dsimp only
  rw [Tab.get_mod_same]
  dsimp only
  rw [Tab.get_mod_same]

/-- A message of a tile's core leaves, or waits for room. -/
theorem exec_sendt {u : Nat} {w : W32} {s : State} (hu : isTile u = true) (ho : s.dev.tileOrder u 0x28 = some w) : let d := s.dev
    let n := bits w.toNat 1 0
    let to_ := bits ((d.core u).g (tB w)).toNat 12 0
    let sent (f : Dev → Prop) : Prop :=
      ∃ t, exec (.sendt u) s = .next t ∧ t.dev.trestles = d.trestles.mod u (Trestle.goesOn d.now) ∧ f t.dev
    ((d.unitHome to_ = none ∨ ∃ h, d.unitHome to_ = some h ∧ d.chooseLane (tileBlock u) h = none) → sent fun _ => True) ∧
    ∀ h lane, d.unitHome to_ = some h → d.chooseLane (tileBlock u) h = some lane →
      (4 ≤ (d.inbuf (tileBlock u) 4 lane).length → exec (.sendt u) s = .next s) ∧
      ((d.inbuf (tileBlock u) 4 lane).length < 4 → sent fun g => ∃ q ws, ws.length = n + 1
        ∧ (∀ i, i ≤ n → tA w + i < 64 → ws.getD i 0 = (d.core u).g (tA w + i))
        ∧ g.inbuf (tileBlock u) 4 lane = d.inbuf (tileBlock u) 4 lane ++ [d.tileMsg u w q lane ws]) := by
  intro d n to_ sent
  have hto : ∀ {t}, tileSendt u d = t → exec (.sendt u) s = .next { s with dev := { t with now := d.now } } :=
    fun ht => exec_of_tile hu (f := tileSendt u) rfl ht
  obtain ⟨q, ws, k, hlen, hwords, hgo⟩ := tileSendt_of_order (d := d) ho
  have hdrop : ∀ {e}, tileSendt u d = (({ d with freeCount := k } : Dev).modCore u (Trestle.goesOn d.now)).dropWith (tileBlock u)
      (d.tileMsg u w q 0 ws) e → sent fun _ => True :=
    fun he => ⟨_, hto he, Dev.trestles_dropWith _ _ _ _, trivial⟩
  refine ⟨fun hnowhere => ?_, fun h lane hhome hlane => ?_⟩
  · rcases hnowhere with hnone | ⟨h, hhome, hnone⟩
    · rw [show d.unitHome (bits ((d.core u).g (tB w)).toNat 12 0) = none from hnone] at hgo
      exact hdrop hgo
    · rw [show d.unitHome (bits ((d.core u).g (tB w)).toNat 12 0) = some h from hhome] at hgo
      dsimp only at hgo
      rw [hnone] at hgo
      exact hdrop hgo
  · rw [show d.unitHome (bits ((d.core u).g (tB w)).toNat 12 0) = some h from hhome] at hgo
    dsimp only at hgo
    rw [hlane] at hgo
    refine ⟨fun hfull => (hto (hgo.trans (if_neg (Nat.not_lt_of_le hfull)))).trans rfl, fun hroom =>
      ⟨_, hto (hgo.trans (if_pos hroom)), rfl, q, ws, hlen, hwords, ?_⟩⟩
    exact Dev.inbuf_modInbuf (({ d with freeCount := k } : Dev).modCore u (Trestle.goesOn d.now)) (tileBlock u) 4 lane _

/-! ### A wait that lasts too long -/

section Wait
variable {d : Dev} {u : Nat}

theorem trestleWaitTimeout_of_other (h : ∀ since, (d.core u).stat ≠ .waitMsg since ∧ (d.core u).stat ≠ .waitTest since) :
    trestleWaitTimeout u d = d := by
  unfold trestleWaitTimeout
  extract_lets late due
  have hdue : due = false := by
    show (match (d.core u).stat with
      | .waitMsg t => late t
      | .waitTest t => late t
      | _ => false) = false
    split
    next since hstat => exact absurd hstat (h since).1
    next since hstat => exact absurd hstat (h since).2
    next => rfl
  exact if_neg (by rw [hdue, Bool.false_and, Bool.false_and]; exact Bool.false_ne_true)

theorem trestleWaitTimeout_of_untested (h : d.lit = false ∨ (d.block (tileBlock u)).testing = false) : trestleWaitTimeout u d = d := by
  unfold trestleWaitTimeout
  extract_lets late due
  refine if_neg ?_
  rcases h with hlit | htest
  · rw [hlit, Bool.and_false, Bool.false_and]
    exact Bool.false_ne_true
  · rw [htest, Bool.and_false]
    exact Bool.false_ne_true

theorem trestleWaitTimeout_of_wait {since : Nat} (h : (d.core u).stat = .waitMsg since ∨ (d.core u).stat = .waitTest since)
    (hlit : d.lit = true) (htest : (d.block (tileBlock u)).testing = true) : trestleWaitTimeout u d =
      if since + 2 ^ 20 < d.now then d.modCore u fun t => t.halt haltWait else d := by
  unfold trestleWaitTimeout
  extract_lets late due
  have hdue : due = decide (since + 2 ^ 20 < d.now) := by
    rcases h with hstat | hstat
    · show (match (d.core u).stat with
        | .waitMsg t => late t
        | .waitTest t => late t
        | _ => false) = _
      rw [hstat]
    · show (match (d.core u).stat with
        | .waitMsg t => late t
        | .waitTest t => late t
        | _ => false) = _
      rw [hstat]
  rw [hdue, hlit, htest, Bool.and_true, Bool.and_true]
  exact if_congr decide_eq_true_iff rfl rfl

end Wait

/-- Where an order is not the one at the PC of a core that runs, its command changes nothing. -/
theorem exec_of_otherOrder {u : Nat} {s : State} (hu : isTile u = true) : ∀ p ∈ [(Instr.add u, 0x01), (.sub u, 0x02), (.andT u, 0x03),
    (.orT u, 0x04), (.xorT u, 0x05), (.shl u, 0x06), (.shr u, 0x07), (.sra u, 0x08), (.mul u, 0x09), (.sltu u, 0x0A), (.addi u, 0x10),
    (.li u, 0x11), (.lih u, 0x12), (.ld u, 0x18), (.st u, 0x19), (.beq u, 0x20), (.bne u, 0x21), (.bltu u, 0x22), (.jmp u, 0x23),
    (.sendt u, 0x28), (.recvt u, 0x29), (.test u none, 0x2A), (.csr u, 0x2B), (.waitc u, 0x2C), (.crc u, 0x2D)],
    s.dev.tileOrder u p.2 = none → exec p.1 s = .next s := by
  simp only [List.forall_mem_cons, List.not_mem_nil, false_implies, implies_true, and_true]
  exact ⟨fun h => exec_of_noOrder hu (f := tileAdd u) rfl (aluOrder_of_none _ h),
    fun h => exec_of_noOrder hu (f := tileSub u) rfl (aluOrder_of_none _ h),
    fun h => exec_of_noOrder hu (f := tileAnd u) rfl (aluOrder_of_none _ h),
    fun h => exec_of_noOrder hu (f := tileOr u) rfl (aluOrder_of_none _ h),
    fun h => exec_of_noOrder hu (f := tileXor u) rfl (aluOrder_of_none _ h),
    fun h => exec_of_noOrder hu (f := tileShl u) rfl (aluOrder_of_none _ h),
    fun h => exec_of_noOrder hu (f := tileShr u) rfl (aluOrder_of_none _ h),
    fun h => exec_of_noOrder hu (f := tileSra u) rfl (aluOrder_of_none _ h),
    fun h => exec_of_noOrder hu (f := tileMul u) rfl (aluOrder_of_none _ h),
    fun h => exec_of_noOrder hu (f := tileSltu u) rfl (aluOrder_of_none _ h),
    fun h => exec_of_noOrder hu (f := tileAddi u) rfl (aluOrder_of_none _ h),
    fun h => exec_of_noOrder hu (f := tileLi u) rfl (aluOrder_of_none _ h),
    fun h => exec_of_noOrder hu (f := tileLih u) rfl (aluOrder_of_none _ h),
    fun h => exec_of_noOrder hu (f := tileLd u) rfl (tileLd_of_none h),
    fun h => exec_of_noOrder hu (f := tileSt u) rfl (tileSt_of_none h),
    fun h => exec_of_noOrder hu (f := tileBeq u) rfl (branchOrder_of_none _ h),
    fun h => exec_of_noOrder hu (f := tileBne u) rfl (branchOrder_of_none _ h),
    fun h => exec_of_noOrder hu (f := tileBltu u) rfl (branchOrder_of_none _ h),
    fun h => exec_of_noOrder hu (f := tileJmp u) rfl (coreOrder_of_none _ h),
    fun h => exec_of_noOrder hu (f := tileSendt u) rfl (tileSendt_of_none h),
    fun h => exec_of_noOrder hu (f := tileRecvt u) rfl (tileRecvt_of_none h),
    fun h => exec_of_noOrder hu (f := tileTest u none) rfl (tileTest_of_none none h),
    fun h => exec_of_noOrder hu (f := tileCsr u) rfl (tileCsr_of_none h),
    fun h => exec_of_noOrder hu (f := tileWaitc u) rfl (coreOrder_of_none _ h),
    fun h => exec_of_noOrder hu (f := tileCrc u) rfl (aluOrder_of_none _ h)⟩

/-- Settles O60: the register orders by `exec_of_alu`, the branches by `exec_of_branch`, the window by `exec_ld` and `exec_st`, messages
by `exec_recvt` and `exec_sendt`, and what does not stand at the PC by `exec_of_otherOrder`. -/
theorem tileOrdersRun : Obligations.TileOrdersRun := by
  intro u s hu d x on core stops goesTo goesOn sets
  have hto : ∀ {t}, trestleWaitTimeout u d = t → exec (.trestleWaitTimeout u) s = on t :=
    fun ht => exec_of_tile hu (f := trestleWaitTimeout u) rfl ht
  refine ⟨fun hruns hres => exec_halt_reserved hu hruns hres, fun w => ?orders,
    fun hother => (hto (trestleWaitTimeout_of_other hother)).trans rfl, fun hoff => (hto (trestleWaitTimeout_of_untested hoff)).trans rfl,
    fun since hstat hlit htest => ⟨fun hlate => ?late, fun hearly => ?early⟩, exec_of_otherOrder hu⟩
  case late => exact (hto ((trestleWaitTimeout_of_wait hstat hlit htest).trans (if_pos hlate))).trans rfl
  case early => exact (hto ((trestleWaitTimeout_of_wait hstat hlit htest).trans (if_neg (Nat.not_lt_of_le hearly)))).trans rfl
  case orders =>
    intro a b c writes branch
    have hwrites : ∀ v, (.next { s with dev := s.dev.modCore u fun t => (t.setG (tA w) v).goesOn s.dev.now }) = writes v := fun v => rfl
    refine ⟨fun ho => exec_halt hu ho, fun ho => ?_, fun ho => ?_, fun ho => ?_, fun ho => ?_, fun ho => ?_, fun ho => ?_, fun ho => ?_,
      fun ho => ?_, fun ho => ?_, fun ho => ?_, fun ho => ?_, fun ho => ?_, fun ho => ?_, fun ho => ?_, fun ho => ?_, fun ho => ?_,
      fun ho => ?_, fun ho => exec_jmp hu ho, fun ho => exec_waitc hu ho, fun ho => exec_ld hu ho, fun ho => exec_st hu ho,
      fun ho => exec_recvt hu ho, fun ho => ⟨(exec_test hu ho).1, (exec_test hu ho).2⟩,
      fun ho => exec_csr hu ho, fun ho => exec_sendt hu ho⟩
    · exact (exec_of_alu (i := .add u) (f := fun w t => t.g (tB w) + t.g (tC w)) hu rfl ho rfl).trans (hwrites (b + c))
    · exact (exec_of_alu (i := .sub u) (f := fun w t => t.g (tB w) - t.g (tC w)) hu rfl ho rfl).trans (hwrites (b - c))
    · exact (exec_of_alu (i := .andT u) (f := fun w t => t.g (tB w) &&& t.g (tC w)) hu rfl ho rfl).trans (hwrites (b &&& c))
    · exact (exec_of_alu (i := .orT u) (f := fun w t => t.g (tB w) ||| t.g (tC w)) hu rfl ho rfl).trans (hwrites (b ||| c))
    · exact (exec_of_alu (i := .xorT u) (f := fun w t => t.g (tB w) ^^^ t.g (tC w)) hu rfl ho rfl).trans (hwrites (b ^^^ c))
    · exact (exec_of_alu (i := .shl u) (f := fun w t => t.g (tB w) <<< ((t.g (tC w)).toNat % 32)) hu rfl ho rfl).trans
        (hwrites (b <<< (c.toNat % 32)))
    · exact (exec_of_alu (i := .shr u) (f := fun w t => t.g (tB w) >>> ((t.g (tC w)).toNat % 32)) hu rfl ho rfl).trans
        (hwrites (b >>> (c.toNat % 32)))
    · exact (exec_of_alu (i := .sra u) (f := fun w t => (t.g (tB w)).sshiftRight ((t.g (tC w)).toNat % 32)) hu rfl ho rfl).trans
        (hwrites (b.sshiftRight (c.toNat % 32)))
    · exact (exec_of_alu (i := .mul u) (f := fun w t => t.g (tB w) * t.g (tC w)) hu rfl ho rfl).trans (hwrites (b * c))
    · exact (exec_of_alu (i := .sltu u) (f := fun w t => if (t.g (tB w)).toNat < (t.g (tC w)).toNat then 1 else 0) hu rfl ho rfl).trans
        (hwrites (if b.toNat < c.toNat then 1 else 0))
    · exact (exec_of_alu (i := .addi u) (f := fun w t => t.g (tB w) + BitVec.ofInt 32 (tImm14 w)) hu rfl ho rfl).trans
        (hwrites (b + BitVec.ofInt 32 (tImm14 w)))
    · exact (exec_of_alu (i := .li u) (f := fun w _ => BitVec.ofInt 32 (tImm20 w)) hu rfl ho rfl).trans
        (hwrites (BitVec.ofInt 32 (tImm20 w)))
    · exact (exec_of_alu (i := .lih u) (f := fun w t => w.extractLsb' 0 16 ++ (t.g (tA w)).extractLsb' 0 16) hu rfl ho rfl).trans
        (hwrites (w.extractLsb' 0 16 ++ a.extractLsb' 0 16))
    · exact (exec_of_alu (i := .crc u) (f := fun w t => crcOver (t.g (tA w)) (leBytes 4 (t.g (tB w)).toNat)) hu rfl ho rfl).trans
        (hwrites (crcOver a (leBytes 4 b.toNat)))
    · exact exec_of_branch (p := fun a b => a == b) hu rfl beq_iff_eq ho
    · exact exec_of_branch (p := fun a b => a != b) hu rfl bne_iff_ne ho
    · exact exec_of_branch (p := fun a b => decide (a.toNat < b.toNat)) hu rfl decide_eq_true_iff ho

end Sys2Proof.Machine
